-- ==== Sys2Proof/Word.lean ====
section
/-! DEFINITION. The word and byte types (R4: registers are 32 bits wide, a byte is 8 bits). -/
namespace Sys2Proof

/-- A register word (R4). -/
abbrev Word := BitVec 32

/-- A byte. -/
abbrev Byte := BitVec 8

end Sys2Proof
end

