-- ==== Sys2Proof/Config.lean ====
section
/-! DEFINITION. What one part fixes (fuses, stepping, grade), the external functions the spec names but does not define
(SHAKE256, Ed448), the tables of the Weighhouse image, and the free values. No constant here has a body, so no proof can rest
on a value of it; where the spec bounds a fuse, a definition over the constant keeps it within its bound (log entries 5, 6, 15). -/
namespace Sys2Proof.Config

/-- What the fuses of the part may hold of each stall's FMAX_MHZ: steps of 25 MHz above 1 900 MHz (R3, R402). -/
opaque rawFmaxStep : Fin 64 → Fin 15

/-- Those steps; every part reaches 128 GHz over its stalls (R402), so fuses that did not would be no part's. -/
def fmaxStep (s : Fin 64) : Nat :=
  if 256 ≤ ((List.finRange 64).map fun n => (rawFmaxStep n).val).sum then (rawFmaxStep s).val else 4

/-- Fused FMAX_MHZ of stall s, 1 900 to 2 250 MHz (Table 00-1, Table 02-10, Table 16-9). -/
def fuseFmax (s : Fin 64) : BitVec 12 := BitVec.ofNat 12 (1900 + 25 * fmaxStep s)

/-- What the fuses of the part may hold of each stall's VMIN, in mV above 680 (R401). -/
opaque rawVmin : Fin 64 → Fin 101

/-- Fused VMIN of stall s in mV, at most 780 and such that FMAX asks for no more than 850 mV (R401, R402, Table 16-9). -/
def fuseVmin (s : Fin 64) : BitVec 12 := BitVec.ofNat 12 (min (680 + (rawVmin s).val) (850 - 10 * (fmaxStep s - 4)))

/-- GRADE: true for CV640-E (Table 15-13). -/
opaque gradeE : Bool

/-- Stepping: true for B0, false for A1 (Table 15-13, R372). -/
opaque steppingB0 : Bool

/-- Fused device serial (Table 16-9). -/
opaque serial : BitVec 128

/-- The bytes that sequencer memory holds from its start on once the kernels of a Hall image are loaded (R153, log entry 11). -/
opaque rawKernels : List Byte → List Byte

/-- Those bytes, of which sequencer memory takes 192 KiB (R135). -/
def kernels (image : List Byte) : List Byte := (rawKernels image).take 0x30000

/-- V of the edge between a row and a column of a base graph, by lifting-size set (38.212, which the spec names and does not list; log
entry 27). -/
opaque ldpcShift : (bg1 : Bool) → (set row col : Nat) → Option Nat

/-- The polar reliability sequence of 38.212, least reliable first (log entry 27). -/
opaque polarSequence : Fin 1024 → Fin 1024

/-- The interleaver of 38.212 ahead of polar coding, for so many bits (log entry 27). -/
opaque polarInterleaver : Nat → List Nat

/-- The basis sequences of 38.212's block code of length 32 (log entry 27). -/
opaque blockBasis : Fin 32 → Fin 11 → Bool

/-- A 16-bit twiddle-factor product: the inverse DFT of an allocation, in CI16 (R159, log entry 27). -/
opaque inverseDft : List (Int × Int) → List (Int × Int)

/-- OSHIFT of the filter's command in a bundle's demapper (R159). -/
opaque detectShift : Option (BitVec 256) → Nat

/-- The learned demapper of a bundle after its requantising drain: the LLR of a bit from a distance row and the features, by bits per
symbol and layers of the group (R162). -/
opaque demapper : Option (BitVec 256) → (q g : Nat) → (row feats : List Int) → (bit : Nat) → Int

/-- The offset book that a bundle's image holds for a base graph (R170). -/
opaque bundleBook : List Byte → (bg1 : Bool) → List Byte

/-- The step of the constellation of so many bits per symbol in CI16 (R185; the spec gives no scale). -/
opaque symbolStep : Nat → Int

/-- A tensor of a cell's bundle belongs to the last layers of its channel estimator, which site adaptation trains (R33). -/
opaque lastLayer : Option (BitVec 256) → BitVec 16 → Bool

/-- Fused idVendor (Table 15-24, Table 16-9). -/
opaque idVendor : BitVec 16

/-- Priority of RoCEv2 frames on a port, and the bytes of a RoCEv2 frame beside its data and of a PTP frame: the spec gives none (R284,
R306; log entry 5). -/
opaque rocePriority : Fin 8
opaque roceHeader : Nat
opaque ptpFrame : Nat

/-- Fused key hash of slot k (Table 16-9). -/
opaque keyHash : Fin 4 → BitVec 256

/-- Fused debug key hash (Table 16-9). -/
opaque debugKeyHash : BitVec 256

/-- Anti-rollback counter t (0 Hall, 1 Weighhouse, 2 bundle) as the part comes, 64 fuse bits (R456, Table 16-9). -/
opaque fuseCounter : Fin 3 → BitVec 64

/-- The debug key, 57 bytes, whose hash is fused: a RESPONSE does not carry it (R465, log entry 6). -/
opaque debugKey : List Byte

/-- Revoke bits of the key slots as the part comes (Table 16-9). -/
opaque fuseRevoked : BitVec 4

/-- USB_BOOT_DISABLE fuse (R450). -/
opaque usbBootDisable : Bool

/-- DEBUG_DISABLE fuse (R465). -/
opaque debugDisable : Bool

/-- The fused certificates, words 0400h-0BFFh of Table 16-9. -/
opaque fuseCertWord : Fin 512 → Word

/-- Septig's fused manufacturer code in IDCODE (R483). -/
opaque jtagManufacturer : BitVec 11

/-- SHAKE256 with 256-bit output (an external standard, log entry 6). -/
opaque shake256 : List Byte → BitVec 256

/-- SHAKE256 with 512-bit output (log entry 6). -/
opaque shake512 : List Byte → BitVec 512

/-- Ed448ph verification of a 114-byte signature over a message under a 57-byte key (log entry 6). -/
opaque ed448Verify : (key msg sig : List Byte) → Bool

/-- Ed448ph signature by the attestation key (R464, log entry 6). -/
opaque attestSign : List Byte → BitVec 912

/-- Lambda_ref of R340 in LLR units: modulation bits, and P_blk − P and P in lowest terms, which give SNR_ref (log entry 15). -/
opaque lambdaRef : Nat → Nat → Nat → Rat

/-- REQ of R340 in 0.1 dB: MCS index and layer count (log entry 15). -/
opaque reqSnr : Nat → Nat → Int

/-- Peak decoded uplink rate of a cell in Mbit/s by μ, N_PRB and N_UL: the spec names the rate (R43) and gives no formula (log
entry 5). -/
opaque peakUplink : Nat → Nat → Nat → Nat

/-- Bytes of Plain that Hall's Plain plan has for the prepared-crate queues of all cells (R291; log entry 5). -/
opaque cratePlan : Nat

/-- A board-dependent word of the indirect space (SerDes, DRAM PHY, telemetry: R444), by indirect address and by how
many have been read (log entry 5). -/
opaque boardWord : Word → Nat → Word

/-- The free value drawn n-th, 64 bits (log entry 5). -/
opaque freeWord : Nat → BitVec 64

/-- The n-th block of 32 bytes of the security block's random source (R465). -/
opaque randomBlock : Nat → BitVec 256

/-- The entries of the golden frame of stall s: the first 96 bytes of each queue entry, as the Weighhouse image holds them
(R353, log entry 11). -/
opaque goldenFrame : Fin 64 → List (List Byte)

end Sys2Proof.Config
end

