-- ==== Sys2Proof/Syntax.lean ====
section
/-! DEFINITION. The commands of the block: one constructor of Instr for each row of spec/opcode_table.json, and the plain
data their operands are made of. The table gives no operands; where a step reads its inputs from the device's own memory
(a descriptor, a vector instruction, a mailbox page, a history request) the operand only names where. -/
namespace Sys2Proof

/-- A stall, 0-63 (R3). -/
abbrev StallId := Fin 64
/-- A command queue, 0-31 (R258). -/
abbrev QueueId := Fin 32
/-- A cell, 0-15 (R36). -/
abbrev CellId := Fin 16
/-- A stream of a stall DMA, 0-7. -/
abbrev StreamId := Fin 8
/-- A Pass, 0-15 (R252). -/
abbrev PassId := Fin 16
/-- An Ethernet port, 0-3. -/
abbrev PortId := Fin 4
/-- A mailbox, 0-7 (R427). -/
abbrev MboxId := Fin 8
/-- A Valley link, 0-2 (R383). -/
abbrev LinkId := Fin 3
/-- A queue pair, 0-255 (R308). -/
abbrev QpId := Fin 256
/-- A device number, 0-15 (R391). -/
abbrev DeviceId := Fin 16
/-- A history track, 0-1023 (R196). -/
abbrev TrackId := Fin 1024

/-- An engine of a stall (R264). -/
inductive Engine where
  | matrix
  | vector
  | sequencer
  | dma (stream : StreamId)
deriving DecidableEq, Repr

/-- Who makes a register access: the host, or Hall with its own holding set and indirect pair (R444, R445). -/
inductive Agent where
  | host
  | hall
deriving DecidableEq, Repr

/-- The stall or broadcast window a stall-register access goes through (Table 15-11). -/
inductive Window where
  | stall (n : StallId)
  | group (g : Fin 8)
  | all
deriving DecidableEq, Repr

/-- SFN.slot (Table 00-3). -/
structure AirSlot where
  sfn : Fin 1024
  slot : Fin 80
deriving DecidableEq, Repr

/-- A learned path of a cell (R345). -/
inductive PathKind where
  | receiver
  | precoder
  | scheduler
deriving DecidableEq, Repr

/-- The transmission of a PUSCH or PDSCH transport block, as its grant or assignment has it (R164, R165, R183): size in bits, coded
bits, code rate in units of 1/2048, bits per symbol, layers, redundancy version, new-data indicator, TBS_LBRM (0 without limited-buffer
rate matching), and the initial state of the scrambling sequence. -/
structure SchTx where
  tbs : Word
  coded : Nat
  rate : Nat
  qBits : Nat
  layers : Nat
  rv : Fin 4
  ndi : Bool
  lbrm : Nat
  cInit : BitVec 31
deriving DecidableEq, Repr

/-- A reported unit that the grant book names for an uplink air slot (R41; the book's layout is not in the spec, log
entry 10). A PUSCH transport block has its transmission; another unit has so many code words. -/
structure UnitDesc where
  kind : Byte
  rnti : BitVec 16
  harqId : Byte
  cbCount : Nat
  tx : Option SchTx
deriving DecidableEq, Repr

/-- A downlink allocation that the plan builds (R45; log entry 10). -/
structure AllocDesc where
  rnti : BitVec 16
  harqId : Byte
  alloc : BitVec 16
  tx : Option SchTx
deriving DecidableEq, Repr

/-- A PUSCH of a scheduler's output: DFT-s-OFDM, layers, bits per symbol (Table 06-1). -/
structure PuschShape where
  dfts : Bool
  layers : Nat
  qBits : Nat
deriving DecidableEq, Repr

/-- A grant of the region-of-interest list (R290) or a PRACH occasion (R299): PRBs and symbols. -/
structure Grant where
  prach : Bool
  index : Nat
  prbStart : Nat
  prbCount : Nat
  symFirst : Nat
  symCount : Nat
deriving DecidableEq, Repr

/-- What a learned scheduler's run of processing slot k writes once it is accepted (R29): the region-of-interest list of uplink air
slot k + 1, the downlink assignments of air slot k + 2, and the uplink grants that its DCI carries, each with its K2: the air slot
of its transmission is k + 2 + K2. -/
structure SchedOutput where
  roi : List Grant
  assigns : List AllocDesc
  grants : List (Nat × UnitDesc)
  /-- The shapes that Table 06-1 bounds: PUSCH, PDSCH layers and bits per symbol, SRS ports and comb, PUCCH formats; and whether a
  feature of R156's list of what is not supported is asked for. -/
  pusch : List PuschShape
  pdsch : List (Nat × Nat)
  srs : List (Nat × Nat)
  pucch : List Nat
  unsupported : Bool
deriving DecidableEq, Repr

/-- One code block of one unit of one uplink air slot. -/
structure BlockRef where
  cell : CellId
  air : AirSlot
  unit : Nat
  cb : Nat
deriving DecidableEq, Repr

/-- How decoding of a block ended (R168, R174, R176, Table 06-6). -/
inductive BlockEnd where
  | pass
  | crcFail
  | noInput
  | dtx
deriving DecidableEq, Repr

/-- What the new transmission of a block brings to HARQ combining (R178-R180). -/
structure HarqTx where
  tbs : Word
  bg : Byte
  ndi : Bool
  z : BitVec 16
  nCb : Word
  rv : Byte
  llrs : List (Nat × Byte)
deriving DecidableEq, Repr

/-- What the learned estimator delivers for one group of layers of a PRB group (R159): the rows of the filter F over the received
streams, and the upper-triangular matrix R, as CI8 pairs. -/
structure DetGroup where
  f : List (List (Int × Int))
  r : List (List (Int × Int))
deriving DecidableEq, Repr

/-- An RE of the crate: its received streams, and its mark in the validity mask (R162). -/
structure DetRe where
  y : List (Int × Int)
  erased : Bool
deriving DecidableEq, Repr

/-- A PRB group in detection: its layer groups, its REs, and the noise and SINR features that the demapper reads (R162). -/
structure DetPrb where
  groups : List DetGroup
  res : List DetRe
  feats : List Int
deriving DecidableEq, Repr

/-- Where the LLRs of a code block come from (R159-R163): detection and the learned demapper over PRB groups, of whose LLRs the block
has `count` from `skip` on; or the sequencer's max-log demapper, with the erased marks. -/
inductive LlrSource where
  | learned (qBits : Nat) (dfts : Bool) (prbs : List DetPrb) (skip count : Nat)
  | classical (llrs : List Byte) (erased : List Bool)
deriving DecidableEq, Repr

/-- A UCI code word (R173-R176, R191): PUCCH format or 8, the payload bits of each part in their order (HARQ-ACK, SR, CSI part 1, CSI part
2), bits per symbol; the bits that a PUCCH format 0 or 1 gives; best correlation metric and the cell's noise estimate, as powers; SINR and
TA. -/
structure UciWord where
  format : Byte
  ack : Nat
  sr : Nat
  csi1 : Nat
  csi2 : Nat
  qBits : Nat
  detected : Option (List Bool)
  metric : Nat
  noise : Nat
  sinr : Int
  ta : Int
deriving DecidableEq, Repr

/-- A preamble of a PRACH occasion: its number, timing advance, and metric and detection threshold in 0.1 dB above the noise (R176,
R192). -/
structure PrachPeak where
  preamble : Fin 64
  ta : Nat
  power : Int
  threshold : Int
deriving DecidableEq, Repr

/-- A PRACH occasion as detection leaves it (R192). -/
structure PrachScan where
  occasion : Fin 8
  noise : Int
  peaks : List PrachPeak
deriving DecidableEq, Repr

/-- An SRS report (R193): SNR per group in 0.5 dB. -/
structure SrsReport where
  ports : Nat
  comb : Nat
  prbStart : Nat
  prbCount : Nat
  group : Nat
  snr : Int
  ta : Int
  groups : List Int
deriving DecidableEq, Repr

/-- What a command of Septig's kernels has done for a block when it completes (log entry 11): made its LLRs; decoded it, from the LLRs
that its verdict accepted or, in a recomputation, from LLRs and erased marks of its own; scanned a PRACH occasion or an SRS; encoded a downlink
allocation, or a DCI or MIB of so many coded bits; or read history, with the no-context mask of its output record (R215). -/
inductive BlockResult where
  | llrs (ref : BlockRef) (src : LlrSource)
  | ldpc (ref : BlockRef) (classical : Option (List Byte × List Bool))
  | uci (ref : BlockRef) (classical : Option (List Byte × List Bool)) (word : UciWord)
  | prach (ref : BlockRef) (scan : PrachScan)
  | srs (ref : BlockRef) (report : SrsReport)
  | encoded (cell : CellId) (air : AirSlot) (alloc : BitVec 16)
  | control (cell : CellId) (air : AirSlot) (rnti : Option (BitVec 16)) (bits : List Bool) (coded : Nat)
  | attention (cell : CellId) (noContext : List Bool)
deriving DecidableEq, Repr

/-- A history request is posted by Hall now, or the walker serves the next one of its rings (R203). -/
inductive HcPost where
  | posted (cls : Fin 3) (req : List Byte)
  | served
deriving DecidableEq, Repr

/-- The state of data read from DRAM (R238). -/
inductive Ecc where
  | clean
  | corrected
  | uncorrectable
deriving DecidableEq, Repr

/-- One PRB of a received U-plane section: its exponent and its 24 mantissas or components (R289). -/
structure UPrb where
  exponent : Nat
  comps : List Int
deriving DecidableEq, Repr

/-- One received U-plane section (Table 10-2): the PRBs it announces and those present in full before the payload ends. -/
structure USection where
  prbStart : Nat
  prbCount : Nat
  bfpWidth : Nat
  methodOk : Bool
  prbs : List UPrb
deriving DecidableEq, Repr

/-- A received U-plane packet, already cut into the fields that Table 10-2 checks (log entry 13). -/
structure UplaneFrame where
  fcsOk : Bool
  headerOk : Bool
  vid : BitVec 12
  bytes : Nat
  eaxc : BitVec 16
  seqId : Byte
  dataDirection : Bool
  payloadVersion : Nat
  frameId : Byte
  subframeId : Nat
  slotId : Nat
  symbol : Nat
  sections : List USection
deriving DecidableEq, Repr

/-- A PTP message, cut into the fields the device uses (R321-R325, log entry 13). Times are in units of 2^-16 ns. -/
structure PtpMsg where
  supported : Bool
  seqId : BitVec 16
  twoStep : Bool
  origin : Int
  correction : Int
deriving DecidableEq, Repr

/-- A received Announce (R321): its data set as one number ordered as the alternate BMCA orders it, lower is better. -/
structure AnnounceMsg where
  supported : Bool
  rank : Nat
deriving DecidableEq, Repr

/-- Why a received frame is discarded by a port (R283-R285, R311). -/
inductive RxDiscard where
  | badFcs
  | malformed
deriving DecidableEq, Repr

/-- What the classical shadow of a sampled block gives (R342-R344). -/
structure ShadowObs where
  llrs : List Byte
  snr : Int
deriving DecidableEq, Repr

/-- An output that Weighhouse judges, with what its tests need (Table 12-2; log entry 11). -/
inductive VerdictInput where
  /-- Tests 1-4, 13, 14: LLRs, erased marks, modulation bits, post-equalisation SNR in 0.1 dB. -/
  | llr (llrs : List Byte) (erased : List Bool) (qBits : Nat) (snr : Int) (shadow : Option ShadowObs)
  /-- Tests 5-7: reported pass, syndrome weight, iterations, the engine's own CRC, MCS, layers. -/
  | decoded (crcPass : Bool) (syndrome : Nat) (iters : Nat) (recheckPass : Bool) (mcs layers : Nat)
  /-- Test 7 on UCI. -/
  | uci (crcPass recheckPass : Bool)
  /-- Tests 8, 9: weights of each layer, per antenna (re, im); the full-scale norm squared. -/
  | weights (layers : List (List (Int × Int))) (fullScale : Nat)
  /-- Test 10: precoded CI16 components. -/
  | precoded (comps : List (BitVec 16))
  /-- Test 11. -/
  | encoded (crcAgrees : Bool) (syndrome : Nat)
  /-- Test 12: transport blocks, code blocks of the largest, layers in all, UCI, PRACH, SRS, PDSCH blocks, DCIs, highest
  PRB granted + 1, most layers on one PRB and symbol, all MCS valid, all NDI legal; and what the run writes. -/
  | sched (tbs cbs layers uciPucch uciPusch prach srs pdsch dci prbEnd overlap : Nat) (mcsOk ndiOk : Bool)
      (out : SchedOutput)
deriving DecidableEq, Repr

/-- How a code block is decoded: LDPC of a base graph and Z with the highest circular-buffer position of the transmission (R166),
or polar with N, K and parity-check bits (R175). -/
inductive CodeShape where
  | ldpc (bg1 : Bool) (z pMax : Nat)
  | polar (n k nPc : Nat)
deriving DecidableEq, Repr

/-- What the fixed cost of a recomputation follows from: an uplink code block's E, bits per symbol, layers, PRBs, allocated and
DMRS symbols, and code (R186); a downlink allocation's PRB groups and layers (R187); or the ac of a run for which the spec
gives no formula (R30). -/
inductive CostShape where
  | uplink (e q layers prbs symbols dmrs : Nat) (code : CodeShape)
  | downlink (groups layers : Nat)
  | other (ac : Nat)
deriving DecidableEq, Repr

/-- A learned output block: what it is, where its verdict word (and accept word) lie in Plain, the stall that produced it,
and the shape and template of its recomputation (R26, R271, R337, R347). -/
structure JudgedBlock where
  ref : BlockRef
  /-- A learned output; otherwise one of the classical graph or a recomputation (R346). -/
  learned : Bool
  /-- The command that produced it was refused or stopped (cause 36 of Table 06-7). -/
  fault : Bool
  path : PathKind
  verdictAddr : Word
  acceptAddr : Word
  stall : StallId
  shape : CostShape
  template : List Byte
  dlAlloc : Option (BitVec 16)
  /-- Plain addresses of the completion records of the command that produced it and, of a sampled block, of its shadow's command
  (R338); and of the verdict word of the channel estimate that an LLR block derives from, 0 for none (R341). -/
  record : Word
  shadowRecord : Word
  estimateAddr : Word
  /-- Resource elements of an uplink block: PRB, symbol, subcarrier (R340). -/
  res : List (Nat × Nat × Nat)
deriving DecidableEq, Repr

/-- What an AVSBus transaction gave (R414-R416). -/
inductive AvsReply where
  | ok (value : Nat)
  | noAnswer
  | badCrc
deriving DecidableEq, Repr

/-- State mirrored by the primary of a hot-standby pair (Table 12-6). -/
inductive MirrorItem where
  | cellParam (cell : CellId) (item : BitVec 16) (value : Nat)
  | bundle (cell : CellId) (digest : BitVec 256)
  | weights (cell : CellId) (tensors : List (BitVec 16 × List (BitVec 16)))
  | grantBook (addr : BitVec 40) (bytes : List Byte)
  | harqPage (cell : CellId) (rnti : BitVec 16) (harqId : Byte) (cb count : Nat) (first : AirSlot) (tx : HarqTx)
  | harqFree (cell : CellId) (rnti : BitVec 16) (harqId : Byte)
  | history (req : List Byte) (rows : List (BitVec 40 × List Byte))
  | demotion (cell : CellId) (path : PathKind) (demoted : Bool)
deriving DecidableEq, Repr

/-- A command digest record as a partner sends it (Table 13-3). -/
structure DigestRecord where
  tag : BitVec 16
  stall : Byte
  tdc : Bool
  launch : BitVec 64
  digest : BitVec 256
deriving DecidableEq, Repr

/-- A remote access that arrives over a Valley link (R385). -/
structure RemoteRequest where
  device : DeviceId
  cls : Fin 3
  write : Bool
  offset : BitVec 32
  bytes : List Byte
  length : Nat
deriving DecidableEq, Repr

/-- Where a command is stopped: the item that runs, and, of a matrix command, the passes of the item fed whole and the entries fed
of the next one (R73, R78). -/
structure StopPoint where
  item : Nat
  passes : Nat
  fed : Nat
deriving DecidableEq, Repr

/-- How far an item of a matrix command had come: passes fed whole, and entries fed of the next one. -/
structure FedPasses where
  passes : Nat
  fed : Nat
deriving DecidableEq, Repr

/-- What a scheduler run or another stage leaves undone when its window closes: the blocks that it would have produced, and Hall's
classical command in place of a scheduler run, with the ac that it takes (R16, R30). -/
structure MissedWindow where
  blocks : List BlockRef
  classical : List Byte
  ac : Nat
deriving DecidableEq, Repr

/-- The decode of a code block that its budget ends: the engine that runs it, where its item is stopped, when its first iteration
started, and, in a recomputation, LLRs and erased marks of its own (R169). -/
structure DecodeStop where
  n : StallId
  e : Engine
  stop : StopPoint
  start : Int
  own : Option (List Byte × List Bool)
deriving DecidableEq, Repr

/-- A batch of site adaptation: the code blocks that label it, and its inputs (R33, R381). -/
structure AdaptBatch where
  labels : List BlockRef
  inputs : List Byte
deriving DecidableEq, Repr

/-- A history request in progress, by its place, with the outcome of its first frame from DRAM (R205, R238). -/
structure HcMove where
  request : Nat
  ecc : Ecc
deriving DecidableEq, Repr

/-- A stream whose descriptor reads DRAM, with the outcome (R238, R244). -/
structure StreamRead where
  t : StreamId
  ecc : Ecc
deriving DecidableEq, Repr

/-- The class that a member's read carries, and the outcome of a read of DRAM (R238, R385). -/
structure ReadMode where
  cls : Fin 3
  ecc : Ecc
deriving DecidableEq, Repr

/-- A sequencer register of Table 05-5 or an accumulator, as MV names them (R143). -/
inductive SeqReg where
  | reg (n : Fin 31)
  | acc (a : Fin 4)
deriving DecidableEq, Repr

/-- A sequencer address: [IXn + off8], or [IXn] with post-modify (Table 05-3). -/
inductive SeqAddr where
  | offset (ix : Fin 8) (off : Byte)
  | post (ix : Fin 8) (inc : Byte)
deriving DecidableEq, Repr

/-- Load and store formats of the sequencer (R137): the two that are defined, and the eight that are reserved. -/
inductive SeqFmt where
  | int24
  | ci16
  | reserved (n : Fin 8)
deriving DecidableEq, Repr


/-- The commands, one constructor per row of spec/opcode_table.json. -/
inductive Instr where
  /-- PLAN_REGISTER (R329). -/
  | planRegister (agent : Agent) (addr : Word)
  /-- PLAN_RELEASE (R15). -/
  | planRelease (cell : CellId) (units : List UnitDesc) (allocs : List AllocDesc)
  /-- COMMAND_LAUNCH (R327). -/
  | commandLaunch (q : QueueId) (idx : Fin 4096)
  /-- GATE_POLL (R263). -/
  | gatePoll (q : QueueId) (idx : Fin 4096)
  /-- DISPATCH (R264). -/
  | dispatch (n : StallId) (e : Engine)
  /-- STAGE_WINDOW_CLOSE (R16). -/
  | stageWindowClose (q : QueueId) (idx : Fin 4096) (missed : MissedWindow)
  /-- AFFINITY_WAIT_EXPIRY (R268). -/
  | affinityWaitExpiry (q : QueueId) (idx : Fin 4096)
  /-- MATRIX_COMMAND (R76). -/
  | matrixCommand (n : StallId)
  /-- VECTOR_COMMAND (R106). -/
  | vectorCommand (n : StallId)
  /-- SEQUENCER_COMMAND (R147). -/
  | sequencerCommand (n : StallId)
  /-- CHAIN_START_COMMAND (R241). -/
  | chainStartCommand (n : StallId) (t : StreamId)
  /-- PASS_WAIT_COMMAND (R254). -/
  | passWaitCommand (n : StallId)
  /-- COMMAND_COMPLETION (R280). -/
  | commandCompletion (n : StallId) (e : Engine) (ac : Nat) (dry : Nat) (backup : Nat) (results : List BlockResult)
  /-- ITEM_BUDGET_EXPIRY (R78). -/
  | itemBudgetExpiry (n : StallId) (e : Engine) (item : Nat) (fed : FedPasses) (blocks : List JudgedBlock)
  /-- DEC_BLOCK_BUDGET_EXPIRY (R169). -/
  | decBlockBudgetExpiry (r : BlockRef) (x : DecodeStop) (iterations : Nat)
  /-- RESERVE_WINDOW_OPEN (R269). -/
  | reserveWindowOpen (cell : CellId) (remainders : List (StallId × Nat))
  /-- RESERVE_WINDOW_CLOSE (R269). -/
  | reserveWindowClose (cell : CellId)
  /-- RESERVE_STALL_LIMIT (R270). -/
  | reserveStallLimit (n : StallId) (e : Engine) (item : Nat) (fed : FedPasses)
  /-- PREEMPTION (R272). -/
  | preemption (q : QueueId) (idx : Fin 4096)
  /-- REMOTE_ABORT (R274). -/
  | remoteAbort (n : StallId) (t : StreamId) (ac : Nat)
  /-- QUEUE_ENABLE (R258). -/
  | queueEnable (q : QueueId) (value : Word)
  /-- QUEUE_FLUSH (R265). -/
  | queueFlush (q : QueueId) (value : Word)
  /-- TAIL_WRITE (R260). -/
  | tailWrite (q : QueueId) (value : Word)
  /-- UPLINK_DEADLINE (R22). -/
  | uplinkDeadline (cell : CellId) (air : AirSlot)
  /-- UL_SLOT_INDICATION (R41). -/
  | ulSlotIndication (cell : CellId) (air : AirSlot)
  /-- HELD_INDICATION_POST (R44). -/
  | heldIndicationPost (cell : CellId)
  /-- DL_SLOT_REPORT (R307). -/
  | dlSlotReport (cell : CellId) (air : AirSlot)
  /-- DL_PAYLOAD_CHECK (R45). -/
  | dlPayloadCheck (cell : CellId) (air : AirSlot)
  /-- HARQ_PAGE_EXPIRY (R181), of a page of the pool. -/
  | harqPageExpiry (cell : CellId) (page : Nat)
  /-- ADAPT_UPDATE_STEP (R380). -/
  | adaptUpdateStep (cell : CellId) (batch : AdaptBatch) (updates : List (BitVec 16 × List Word))
  /-- RQ_TABLE_WRITE (R96). -/
  | rqTableWrite (w : Window) (off : BitVec 16) (value : Word)
  /-- TABLE_SWAP (R97). -/
  | tableSwap (w : Window) (value : Word)
  /-- RQ_SWAP_EFFECT (R97). -/
  | rqSwapEffect (n : StallId)
  /-- SF_TABLE_WRITE (R131). -/
  | sfTableWrite (w : Window) (off : BitVec 12) (value : Word)
  /-- SF_SWAP (R132). -/
  | sfSwap (w : Window) (value : Word)
  /-- SF_SWAP_EFFECT (R132). -/
  | sfSwapEffect (n : StallId)
  /-- COUNTER_READ_CLEAR (R5). -/
  | counterReadClear (agent : Agent) (addr : Word)
  /-- REGISTER_WRITE (R5). -/
  | registerWrite (agent : Agent) (addr : Word) (value : Word)
  /-- VEC_LD (R109). -/
  | vecLd (n : StallId)
  /-- VEC_ST (R109). -/
  | vecSt (n : StallId)
  /-- VEC_LDR (R109). -/
  | vecLdr (n : StallId)
  /-- VEC_LOOP (R110). -/
  | vecLoop (n : StallId)
  /-- VEC_ADDI (R109). -/
  | vecAddi (n : StallId)
  /-- VEC_ADDM (R109). -/
  | vecAddm (n : StallId)
  /-- VEC_ADD (R111). -/
  | vecAdd (n : StallId)
  /-- VEC_SUB (R111). -/
  | vecSub (n : StallId)
  /-- VEC_MUL (R111). -/
  | vecMul (n : StallId)
  /-- VEC_FMA (R111). -/
  | vecFma (n : StallId)
  /-- VEC_MIN (R111). -/
  | vecMin (n : StallId)
  /-- VEC_MAX (R111). -/
  | vecMax (n : StallId)
  /-- VEC_ABS (R112). -/
  | vecAbs (n : StallId)
  /-- VEC_NEG (R112). -/
  | vecNeg (n : StallId)
  /-- VEC_SHL (R112). -/
  | vecShl (n : StallId)
  /-- VEC_SHR (R112). -/
  | vecShr (n : StallId)
  /-- VEC_AND (R109). -/
  | vecAnd (n : StallId)
  /-- VEC_OR (R109). -/
  | vecOr (n : StallId)
  /-- VEC_XOR (R109). -/
  | vecXor (n : StallId)
  /-- VEC_SEL (R109). -/
  | vecSel (n : StallId)
  /-- VEC_CVT (R113). -/
  | vecCvt (n : StallId)
  /-- VEC_CONJ (R109). -/
  | vecConj (n : StallId)
  /-- VEC_MAG2 (R111). -/
  | vecMag2 (n : StallId)
  /-- VEC_CMP (R114). -/
  | vecCmp (n : StallId)
  /-- VEC_MOP (R109). -/
  | vecMop (n : StallId)
  /-- VEC_MSET (R109). -/
  | vecMset (n : StallId)
  /-- VEC_MLEN (R109). -/
  | vecMlen (n : StallId)
  /-- VEC_SHUF (R115). -/
  | vecShuf (n : StallId)
  /-- VEC_PERM (R115). -/
  | vecPerm (n : StallId)
  /-- VEC_TRANS (R109). -/
  | vecTrans (n : StallId)
  /-- VEC_PACK (R116). -/
  | vecPack (n : StallId)
  /-- VEC_UNPACK (R116). -/
  | vecUnpack (n : StallId)
  /-- VEC_MOV (R109). -/
  | vecMov (n : StallId)
  /-- VEC_RED (R117). -/
  | vecRed (n : StallId)
  /-- VEC_FUNC (R125). -/
  | vecFunc (n : StallId)
  /-- VEC_FBAS (R129). -/
  | vecFbas (n : StallId)
  /-- VEC_NORM (R121). -/
  | vecNorm (n : StallId)
  /-- VEC_SOFTMAX (R123). -/
  | vecSoftmax (n : StallId)
  /-- VEC_QBS (R130). -/
  | vecQbs (n : StallId)
  /-- VEC_QRANGE (R130). -/
  | vecQrange (n : StallId)
  /-- VEC_QPARAM (R130). -/
  | vecQparam (n : StallId)
  /-- VEC_QAPPLY (R130). -/
  | vecQapply (n : StallId)
  /-- SEQ_NOP (R143). -/
  | seqNop (n : StallId)
  /-- SEQ_HALT (R143). -/
  | seqHalt (n : StallId) (yielded : Bool)
  /-- SEQ_JMP (R141). -/
  | seqJmp (n : StallId) (target : BitVec 16)
  /-- SEQ_JZ (R141). -/
  | seqJz (n : StallId) (ix : Fin 8) (target : BitVec 16)
  /-- SEQ_JNZ (R141). -/
  | seqJnz (n : StallId) (ix : Fin 8) (target : BitVec 16)
  /-- SEQ_LOOP (R142). -/
  | seqLoop (n : StallId) (b : Nat) (count : Nat)
  /-- SEQ_LOOPX (R142). -/
  | seqLoopx (n : StallId) (b : Nat) (ix : Fin 8)
  /-- SEQ_RETI (R150). -/
  | seqReti (n : StallId)
  /-- SEQ_EI (R149). -/
  | seqEi (n : StallId)
  /-- SEQ_DI (R149). -/
  | seqDi (n : StallId)
  /-- SEQ_MV (R143). -/
  | seqMv (n : StallId) (d : SeqReg) (src : SeqReg)
  /-- SEQ_MVI (R143). -/
  | seqMvi (n : StallId) (d : SeqReg) (imm : BitVec 16)
  /-- SEQ_LDS (R137). -/
  | seqLds (n : StallId) (fmt : SeqFmt) (a : SeqAddr)
  /-- SEQ_STS (R137). -/
  | seqSts (n : StallId) (fmt : SeqFmt) (a : SeqAddr)
  /-- SEQ_LDW (R143). -/
  | seqLdw (n : StallId) (d : Fin 31) (a : SeqAddr)
  /-- SEQ_STW (R143). -/
  | seqStw (n : StallId) (src : Fin 31) (a : SeqAddr)
  /-- SEQ_LDT (R137). -/
  | seqLdt (n : StallId) (fmt : SeqFmt) (a : SeqAddr)
  /-- SEQ_STT (R137). -/
  | seqStt (n : StallId) (fmt : SeqFmt) (a : SeqAddr)
  /-- SEQ_LDC (R136). -/
  | seqLdc (n : StallId) (inc : Byte)
  /-- SEQ_MAC2 (R144). -/
  | seqMac2 (n : StallId) (w : Word)
  /-- SEQ_MSU2 (R144). -/
  | seqMsu2 (n : StallId) (w : Word)
  /-- SEQ_MPY2 (R144). -/
  | seqMpy2 (n : StallId) (w : Word)
  /-- SEQ_CMAC (R144). -/
  | seqCmac (n : StallId) (w : Word)
  /-- SEQ_CMSU (R144). -/
  | seqCmsu (n : StallId) (w : Word)
  /-- SEQ_CMPY (R144). -/
  | seqCmpy (n : StallId) (w : Word)
  /-- SEQ_ADD (R143). -/
  | seqAdd (n : StallId) (a : Fin 4) (b : Fin 4)
  /-- SEQ_SUB (R143). -/
  | seqSub (n : StallId) (a : Fin 4) (b : Fin 4)
  /-- SEQ_NEG (R143). -/
  | seqNeg (n : StallId) (a : Fin 4)
  /-- SEQ_ABS (R143). -/
  | seqAbs (n : StallId) (a : Fin 4)
  /-- SEQ_ASH (R143). -/
  | seqAsh (n : StallId) (a : Fin 4) (k : Int)
  /-- SEQ_MIN (R143). -/
  | seqMin (n : StallId) (a : Fin 4) (b : Fin 4)
  /-- SEQ_MAX (R143). -/
  | seqMax (n : StallId) (a : Fin 4) (b : Fin 4)
  /-- SEQ_CLS (R143). -/
  | seqCls (n : StallId) (a : Fin 4)
  /-- SEQ_DIV (R143). -/
  | seqDiv (n : StallId) (a : Fin 4)
  /-- SEQ_STA (R139). -/
  | seqSta (n : StallId) (a : Fin 4) (src : Nat) (addr : SeqAddr)
  /-- SEQ_STA2 (R139). -/
  | seqSta2 (n : StallId) (pair : Fin 2) (src : Nat) (addr : SeqAddr)
  /-- SEQ_STA4 (R139). -/
  | seqSta4 (n : StallId) (src : Nat) (addr : SeqAddr)
  /-- SEQ_SAVA (R139). -/
  | seqSava (n : StallId) (a : Fin 4) (addr : SeqAddr)
  /-- SEQ_LDAR (R139). -/
  | seqLdar (n : StallId) (a : Fin 4) (addr : SeqAddr)
  /-- SEQ_ADDI (R140). -/
  | seqAddi (n : StallId) (ix : Fin 8) (imm : BitVec 16)
  /-- SEQ_IRQ_RAISE (R149). -/
  | seqIrqRaise (w : Window) (value : Word)
  /-- SEQ_IRQ_TAKEN (R149). -/
  | seqIrqTaken (n : StallId)
  /-- FETCH (R207). -/
  | fetch (p : HcPost)
  /-- APPEND (R210). -/
  | append (p : HcPost)
  /-- ATTACH (R196). -/
  | attach (p : HcPost)
  /-- DETACH (R196). -/
  | detach (p : HcPost)
  /-- CLONE (R217). -/
  | clone (p : HcPost)
  /-- PREFIX_WRITE (R218). -/
  | prefixWrite (p : HcPost)
  /-- MIGRATE (R224). -/
  | migrate (p : HcPost)
  /-- PINNED_WRITE_RESUME (R210). -/
  | pinnedWriteResume (frame : Fin 65536)
  /-- HC_REQUEST_COMPLETE (R205). -/
  | hcRequestComplete (move : HcMove)
  /-- TRACK_IDLE_DETACH (R196), of a track of a cell. -/
  | trackIdleDetach (track : TrackId) (cell : CellId)
  /-- HC_LAB_SHOOT (R222). -/
  | hcLabShoot (value : Word)
  /-- LAB_SHOOT_DONE (R222). -/
  | labShootDone
  /-- DMA_COPY (R244). -/
  | dmaCopy (n : StallId) (t : StreamId)
  /-- DMA_FILL (R244). -/
  | dmaFill (n : StallId) (t : StreamId)
  /-- DMA_SIGNAL (R244). -/
  | dmaSignal (n : StallId) (t : StreamId)
  /-- DMA_WAIT (R244). -/
  | dmaWait (n : StallId) (x : StreamRead)
  /-- DMA_WAIT_SATISFIED (R244). -/
  | dmaWaitSatisfied (n : StallId) (x : StreamRead)
  /-- WAIT_TIMEOUT (R244). -/
  | waitTimeout (n : StallId) (t : StreamId)
  /-- DMA_POST (R244). -/
  | dmaPost (n : StallId) (x : StreamRead)
  /-- DMA_PASS (R244). -/
  | dmaPass (n : StallId) (t : StreamId)
  /-- DMA_SEGMENT_COMPLETE (R248). -/
  | dmaSegmentComplete (n : StallId) (t : StreamId) (ecc : Ecc)
  /-- CHAIN_BUDGET_EXPIRY (R242). -/
  | chainBudgetExpiry (n : StallId) (t : StreamId)
  /-- DMA_ARM (R247). -/
  | dmaArm (w : Window) (value : Word)
  /-- SHADOW_CHAIN_START (R247). -/
  | shadowChainStart (n : StallId) (t : StreamId)
  /-- CYCLIC_WAIT (R250). -/
  | cyclicWait (n : StallId) (held : List Nat)
  /-- DMA_RESV_WRITE (R249). -/
  | dmaResvWrite (w : Window) (t : StreamId) (value : Word)
  /-- DRAM_RESV_WRITE (R237). -/
  | dramResvWrite (value : Word)
  /-- PASS_CFG_WRITE (R252). -/
  | passCfgWrite (p : PassId) (value : Word)
  /-- PASS_RELEASE (R255). -/
  | passRelease (p : PassId) (g : Fin 8)
  /-- PASS_STAMP (R256). -/
  | passStamp (p : PassId) (d : DeviceId) (stamp : Int)
  /-- PASS_TIMEOUT (R254). -/
  | passTimeout (n : StallId)
  /-- UPLANE_RECEIVE (R288). -/
  | uplaneReceive (port : PortId) (f : UplaneFrame)
  /-- RECEPTION_WINDOW_OPEN (R294). -/
  | receptionWindowOpen (cell : CellId) (air : AirSlot)
  /-- CRATE_FORCE (R295). -/
  | crateForce (cell : CellId) (air : AirSlot)
  /-- HANDOVER_CLOSE (R301). -/
  | handoverClose (cell : CellId) (air : AirSlot) (list : Word) (entries : Nat)
  /-- FRAME_STAGE (R305); next0, next1: the cell's next slot transmits in its symbols 0 and 1, as its plan has it (R304). -/
  | frameStage (port : PortId) (cell : CellId) (air : AirSlot) (symbol : Fin 14) (next0 next1 : Bool)
  /-- CPLANE_LAUNCH (R302); bit i of next: the cell's next slot transmits in its symbol i. -/
  | cplaneLaunch (cell : CellId) (air : AirSlot) (grants : List Grant) (noisePrbs : List Nat) (next : Fin 4)
  /-- FRAME_LAUNCH (R302). -/
  | frameLaunch (port : PortId) (cell : CellId) (air : AirSlot) (symbol : Fin 14)
  /-- ROCE_SEND_RECEIVE (R309). -/
  | roceSendReceive (qp : QpId) (psn : BitVec 24) (bytes : List Byte)
  /-- ROCE_RDMA_WRITE_RECEIVE (R308). -/
  | roceRdmaWriteReceive (qp : QpId) (psn : BitVec 24) (addr : BitVec 64) (key : Word) (bytes : List Byte) (cls : Fin 3) (place : Option (CellId × AirSlot × BitVec 16 × Byte))
  /-- ROCE_RDMA_READ_RECEIVE (R308). -/
  | roceRdmaReadReceive (qp : QpId) (psn : BitVec 24) (addr : BitVec 64) (key : Word) (length : Nat) (mode : ReadMode)
  /-- ROCE_ACK_RECEIVE (R308). -/
  | roceAckReceive (qp : QpId) (psn : BitVec 24) (nak : Bool)
  /-- ROCE_RETRANSMIT_TIMEOUT (R308). -/
  | roceRetransmitTimeout (qp : QpId)
  /-- CNP_RECEIVE (R308). -/
  | cnpReceive (qp : QpId)
  /-- ROCE_RATE_RESTORE (R308). -/
  | roceRateRestore (qp : QpId)
  /-- TB_RATE_WRITE (R314). -/
  | tbRateWrite (value : Word)
  /-- RATE_APPLY (R314). -/
  | rateApply
  /-- TB_STEP_GO (R317). -/
  | tbStepGo (value : Word)
  /-- STEP_JUDGE (R317). -/
  | stepJudge
  /-- TB_NOW_LATCH (R316). -/
  | tbNowLatch (agent : Agent)
  /-- SYNC_RECEIVE (R321). -/
  | syncReceive (port : PortId) (m : PtpMsg)
  /-- FOLLOW_UP_RECEIVE (R321). -/
  | followUpReceive (port : PortId) (m : PtpMsg)
  /-- DELAY_REQ_TRANSMIT (R324). -/
  | delayReqTransmit (port : PortId) (seqId : BitVec 16)
  /-- DELAY_RESP_RECEIVE (R320). -/
  | delayRespReceive (port : PortId) (m : PtpMsg) (newRate : Word)
  /-- NO_EXCHANGE_TIMEOUT (R320). -/
  | noExchangeTimeout
  /-- ANNOUNCE_RECEIVE (R321). -/
  | announceReceive (port : PortId) (m : AnnounceMsg)
  /-- SYNC_TRANSMIT (R324). -/
  | syncTransmit (port : PortId) (seqId : BitVec 16) (twoStep : Bool)
  /-- ANNOUNCE_TRANSMIT (R322). -/
  | announceTransmit (port : PortId)
  /-- VALLEY_TIME_MESSAGE (R325). -/
  | valleyTimeMessage (link : LinkId) (offset : Int) (newRate : Word)
  /-- PPS_OUTPUT (R330). -/
  | ppsOutput
  /-- TIME_IO_CAPTURE (R330). -/
  | timeIoCapture (gpio7 : Bool)
  /-- TIME_IO_SEL_WRITE (R332). -/
  | timeIoSelWrite (value : Word)
  /-- PLAUSIBILITY_VERDICT (R339). -/
  | plausibilityVerdict (b : JudgedBlock) (v : VerdictInput)
  /-- VERDICT_TIMEOUT (R338). -/
  | verdictTimeout (b : JudgedBlock)
  /-- SHADOW_WITHDRAW (R343). -/
  | shadowWithdraw (b : JudgedBlock)
  /-- AUTO_REPROMOTE (R348). -/
  | autoRepromote (cell : CellId) (path : PathKind) (sampled : Bool) (clean : Bool)
  /-- GOLDEN_SET_RESULT (R354). -/
  | goldenSetResult (cell : CellId) (path : PathKind) (candidate : Bool) (pass : Bool)
  /-- WD_TRIP (R349). -/
  | wdTrip (cell : CellId) (stage : Fin 9) (n : StallId) (e : Engine) (progress : Bool) (item : Nat) (fed : FedPasses)
  /-- WD_STOP_TIMEOUT (R350). -/
  | wdStopTimeout (cell : CellId) (stage : Fin 9) (n : StallId) (e : Engine)
  /-- HALL_KICK (R351). -/
  | hallKick (value : BitVec 16)
  /-- HALL_WATCHDOG_TRIP (R358). -/
  | hallWatchdogTrip (reason : Fin 4)
  /-- HALL_UP (R359). -/
  | hallUp
  /-- HALL_RETURN_TIMEOUT (R359). -/
  | hallReturnTimeout
  /-- WH_WATCHDOG_KICK (R352). -/
  | whWatchdogKick
  /-- WH_WATCHDOG_EXPIRY (R363). -/
  | whWatchdogExpiry
  /-- WH_LOCKSTEP_MISMATCH (R363). -/
  | whLockstepMismatch
  /-- DEVICE_SERVING (R362). -/
  | deviceServing
  /-- POWER_CYCLE_REQUEST (R364). -/
  | powerCycleRequest
  /-- GOLDEN_TICK (R353). -/
  | goldenTick
  /-- GOLDEN_FRAME_RESULT (R356). -/
  | goldenFrameResult (n : StallId) (ok : Bool) (ac : Nat)
  /-- STALL_RETURN (R357). -/
  | stallReturn (n : StallId) (pass : Bool)
  /-- CHECKER_SELF_TEST (R355). -/
  | checkerSelfTest (ok : Bool)
  /-- HEARTBEAT_SEND (R367). -/
  | heartbeatSend
  /-- HEARTBEAT_RECEIVE (R367). -/
  | heartbeatReceive (d : DeviceId)
  /-- HEARTBEAT_SILENCE (R367). -/
  | heartbeatSilence (d : DeviceId) (gpio6Low : Bool) (begun : List (CellId × AirSlot × List UnitDesc))
  /-- HANDOVER_RECEIVE (R367). -/
  | handoverReceive (d : DeviceId) (begun : List (CellId × AirSlot × List UnitDesc))
  /-- MIRROR_RECEIVE (R366). -/
  | mirrorReceive (item : MirrorItem)
  /-- AUDIT_RECORD (R379). -/
  | auditRecord (cell : CellId) (air : AirSlot)
  /-- LOCKSTEP_COMPARE (R389). -/
  | lockstepCompare (cell : CellId) (air : AirSlot) (input : BitVec 256) (result : BitVec 256) (records : List DigestRecord)
  /-- FORWARDED_INPUTS_RECEIVE (R389). -/
  | forwardedInputsReceive (cell : CellId) (air : AirSlot) (reports : List (BitVec 40 × List Byte)) (payloads : List (BitVec 16 × Byte))
  /-- VALLEY_REMOTE_REQUEST (R385). -/
  | valleyRemoteRequest (link : LinkId) (r : RemoteRequest)
  /-- VL_DOWN (R383). -/
  | vlDown (l : LinkId) (laneLost : Bool) (lanes : BitVec 4)
  /-- VL_RETRAIN (R383). -/
  | vlRetrain (l : LinkId)
  /-- POWER_SHARE_RECEIVE (R413). -/
  | powerShareReceive (d : DeviceId) (shares : List Nat) (late : List Nat)
  /-- POWER_SHARE_EVAL (R413). -/
  | powerShareEval
  /-- POWER_SHARE_APPLY (R413). -/
  | powerShareApply
  /-- STALL_DOMAIN_ON (R395). -/
  | stallDomainOn (n : StallId)
  /-- STALL_DOMAIN_OFF (R396). -/
  | stallDomainOff (n : StallId)
  /-- ACLK_TARGET_REACHED (R398). -/
  | aclkTargetReached (n : StallId)
  /-- REFCLK_LOST (R399). -/
  | refclkLost
  /-- REFCLK_RESTORED (R399). -/
  | refclkRestored
  /-- DROOP_TRIP (R403). -/
  | droopTrip (n : StallId)
  /-- DROOP_RECOVER (R403). -/
  | droopRecover (n : StallId)
  /-- POWER_ESTIMATE (R406). -/
  | powerEstimate (est : Nat)
  /-- AVS_READ_CURRENT (R405). -/
  | avsReadCurrent (r : AvsReply)
  /-- AVS_WRITE_VOLTAGE (R414). -/
  | avsWriteVoltage (r : AvsReply)
  /-- AVS_READ_VOLTAGE (R415). -/
  | avsReadVoltage (r : AvsReply)
  /-- AVS_READ_STATUS (R414). -/
  | avsReadStatus (r : AvsReply)
  /-- THERMAL_SAMPLE (R410). -/
  | thermalSample (stalls : List (BitVec 12)) (others : List (BitVec 12))
  /-- THERMAL_RELEASE_STEP (R410). -/
  | thermalReleaseStep (n : StallId)
  /-- USB_STANDARD_REQUEST (R421). -/
  | usbStandardRequest (requestType : Byte) (request : Byte) (value : BitVec 16) (index : BitVec 16) (length : BitVec 16)
  /-- USB_RESET_COMMAND (R421). -/
  | usbResetCommand (requestType : Byte) (request : Byte) (value : BitVec 16) (index : BitVec 16) (length : BitVec 16)
  /-- READ (R423). -/
  | read (tag : BitVec 16) (addr : Word) (count : BitVec 16) (data : List Byte) (late : List Nat)
  /-- WRITE (R423). -/
  | write (tag : BitVec 16) (addr : Word) (count : BitVec 16) (data : List Byte)
  /-- READ_SAME (R423). -/
  | readSame (tag : BitVec 16) (addr : Word) (count : BitVec 16) (data : List Byte) (late : List Nat)
  /-- WRITE_SAME (R423). -/
  | writeSame (tag : BitVec 16) (addr : Word) (count : BitVec 16) (data : List Byte)
  /-- MAILBOX_TRANSFER (R427). -/
  | mailboxTransfer (bytes : List Byte)
  /-- MB_DOORBELL (R429). -/
  | mbDoorbell (agent : Agent) (m : MboxId) (value : Word)
  /-- BACKGROUND_COMMAND_DONE (R430). -/
  | backgroundCommandDone (m : MboxId)
  /-- EVENT_ENDPOINT_POLL (R438). -/
  | eventEndpointPoll
  /-- EVENTS_DROPPED (R439). -/
  | eventsDropped
  /-- IND_DATA_READ (R444). -/
  | indDataRead (agent : Agent) (answered : Bool)
  /-- IND_DATA_WRITE (R444). -/
  | indDataWrite (agent : Agent) (value : Word)
  /-- COUNTER_SNAPSHOT (R445). -/
  | counterSnapshot (agent : Agent) (value : Word)
  /-- COUNTER_RELEASE (R445). -/
  | counterRelease (agent : Agent) (value : Word)
  /-- DEVICE_INFO (R435). -/
  | deviceInfo (m : MboxId)
  /-- EVENT_CONFIGURE (R437). -/
  | eventConfigure (m : MboxId)
  /-- EVENT_READ (R437). -/
  | eventRead (m : MboxId)
  /-- CAPTURE_CONFIGURE (R484). -/
  | captureConfigure (m : MboxId)
  /-- CAPTURE_READ (R425). -/
  | captureRead (m : MboxId)
  /-- REINIT (R447). -/
  | reinit (m : MboxId)
  /-- FIRMWARE_UPDATE (R455). -/
  | firmwareUpdate (m : MboxId)
  /-- BUNDLE_LOAD (R462). -/
  | bundleLoad (m : MboxId)
  /-- STAGING_TIMEOUT (R462). -/
  | stagingTimeout
  /-- ATTEST (R464). -/
  | attest (m : MboxId)
  /-- DEBUG_UNLOCK (R465). -/
  | debugUnlock (m : MboxId)
  /-- DEBUG_CHALLENGE_EXPIRY (R465). -/
  | debugChallengeExpiry
  /-- CELL_CONFIGURE (R36). -/
  | cellConfigure (m : MboxId)
  /-- CELL_START (R435). -/
  | cellStart (m : MboxId)
  /-- CELL_STOP (R435). -/
  | cellStop (m : MboxId)
  /-- CELL_STATUS (R436). -/
  | cellStatus (m : MboxId)
  /-- HIST_CONFIGURE (R195). -/
  | histConfigure (m : MboxId)
  /-- HARQ_CONFIGURE (R177). -/
  | harqConfigure (m : MboxId)
  /-- HARQ_FLUSH (R181). -/
  | harqFlush (m : MboxId)
  /-- CHECK_CONFIGURE (R339). -/
  | checkConfigure (m : MboxId)
  /-- LEARNED_PROMOTE (R348). -/
  | learnedPromote (m : MboxId)
  /-- LEARNED_DEMOTE (R348). -/
  | learnedDemote (m : MboxId)
  /-- AUDIT_CONFIGURE (R377). -/
  | auditConfigure (m : MboxId)
  /-- AUDIT_READ (R379). -/
  | auditRead (m : MboxId)
  /-- ADAPT_EXPORT (R381). -/
  | adaptExport (m : MboxId)
  /-- ADAPT_IMPORT (R381). -/
  | adaptImport (m : MboxId)
  /-- ADAPT_REPLAY (R382). -/
  | adaptReplay (m : MboxId) (updates : List (List (BitVec 16 × List Word)))
  /-- PORT_CONFIGURE (R283). -/
  | portConfigure (m : MboxId)
  /-- ROCE_QP_CONFIGURE (R308). -/
  | roceQpConfigure (m : MboxId)
  /-- TIME_CONFIGURE (R325). -/
  | timeConfigure (m : MboxId)
  /-- TIME_STEP (R318). -/
  | timeStep (m : MboxId)
  /-- TIME_IO_CONFIGURE (R331). -/
  | timeIoConfigure (m : MboxId)
  /-- TIME_STATUS (R320). -/
  | timeStatus (m : MboxId)
  /-- POWER_CONFIGURE (R412). -/
  | powerConfigure (m : MboxId)
  /-- STALL_SERVICE (R357). -/
  | stallService (m : MboxId)
  /-- JOIN_CONFIGURE (R384). -/
  | joinConfigure (m : MboxId) (cabling : Word)
  /-- PAIR_CONFIGURE (R365). -/
  | pairConfigure (m : MboxId) (partnerCells : List (Nat × Nat × Nat)) (partnerMhz : Nat) (gpio6InUse : Bool)
  /-- LOCKSTEP_CONFIGURE (R388). -/
  | lockstepConfigure (m : MboxId) (partnerClass : Fin 16) (partnerDigests : List (CellId × BitVec 256)) (partnerPaired : Bool) (shadowFits : Bool)
  /-- COLD_BOOT (R449). -/
  | coldBoot (bootSel : BitVec 2)
  /-- DEVICE_READY (R458). -/
  | deviceReady (failed : List (StallId × Fin 3)) (trained : Bool) (bootMs : Nat)
  /-- PWR_GOOD_FALL (R449). -/
  | pwrGoodFall
  /-- RESET_N_ASSERT (R449). -/
  | resetNAssert
  /-- HALL_CHUNK (R457). -/
  | hallChunk (offset : Word) (data : List Byte)
  /-- WEIGHHOUSE_CHUNK (R457). -/
  | weighhouseChunk (offset : Word) (data : List Byte)
  /-- GO (R457). -/
  | go
  /-- BYPASS (R483). -/
  | bypass
  /-- IDCODE (R483). -/
  | idcode
  /-- SAMPLE_PRELOAD (R483). -/
  | samplePreload (pins : List Bool) (load : List Bool)
  /-- EXTEST (R483). -/
  | extest
  /-- EXTEST_PULSE (R483). -/
  | extestPulse
  /-- EXTEST_TRAIN (R483). -/
  | extestTrain
  /-- CLAMP (R483). -/
  | clamp
  /-- HIGHZ (R483). -/
  | highz
  /-- ETH_LINK_UP (R311). -/
  | ethLinkUp (p : PortId)
  /-- ETH_LINK_DOWN (R311). -/
  | ethLinkDown (p : PortId) (fecLost : Bool)
  /-- VL_UP (R383). -/
  | vlUp (l : LinkId) (lanes : BitVec 4) (peer : BitVec 4)
  /-- VL_REPLAY (R383). -/
  | vlReplay (l : LinkId)
  /-- DELAY_REQ_RECEIVE (R321). -/
  | delayReqReceive (port : PortId) (m : PtpMsg)
  /-- PFC_PAUSE_RECEIVE (R284). -/
  | pfcPauseReceive (port : PortId) (prio : Fin 8) (quanta : Nat)
  /-- ETH_RX_DISCARD (R283). -/
  | ethRxDiscard (port : PortId) (cause : RxDiscard)
  /-- USB_FALLBACK (R426). -/
  | usbFallback
  /-- PORT_DOMAIN_OFF (R394). -/
  | portDomainOff (p : PortId)
  /-- DROOP_STRETCH_END (R403). -/
  | droopStretchEnd (n : StallId)
deriving DecidableEq, Repr

end Sys2Proof
end

