-- ==== Sys2Proof/Decode.lean ====
section
/-! DEFINITION. Words of the opcode table. No row of spec/opcode_table.json has bits (98_reader.md), so no word spells a
command and every word is refused. -/
namespace Sys2Proof

/-- The command that a word of nbits bits spells by the opcode table. -/
def decodeTableWord (_nbits _w : Nat) : Option Instr := none

end Sys2Proof
end

