-- ==== Sys2Proof/Machine/State.lean ====
section
/-! DEFINITION. The state of the block as plain data, why a step could stop, and the machine right after reset. Every register,
store, queue and mode the spec gives the device has a field; INVENTORY.md, State lists each with its rule and reset value. -/
namespace Sys2Proof.Machine

/-- Why the machine could stop with a fault. No command of this block faults: the spec gives every failure of the device an
effect (an outcome code, a status, an event record). The one reason is kept for the interface and no meaning raises it;
that is safe. -/
inductive Fault where
  /-- Raised by nobody (safe). -/
  | none
deriving DecidableEq, Repr

/-- Why a command could be refused. -/
inductive Refusal where
  /-- Raised by the arm of a command that has no meaning yet, under its mnemonic (safe). -/
  | notModelled (mnemonic : String)
deriving DecidableEq, Repr

/-! ### Stores -/

/-- A sparse store in canonical form: keys strictly rising, no entry equal to what an unlisted key reads as. -/
abbrev Sparse (α : Type) := List (Nat × α)

/-- A byte memory in that form; an unlisted byte reads as 0 (log entry 3). -/
abbrev Mem := List Host.Cell

/-! ### Counters (R8, R445) -/

/-- A counter with the host's and Hall's holding registers. -/
structure Ctr where
  live : Word
  hold : Word
  hall : Word
deriving DecidableEq, Repr

def Ctr.zero : Ctr := ⟨0, 0, 0⟩

/-- Event counters of the device blocks, under their register names. -/
inductive DevCtr where
  | qmPreempt | qmRemoteAbort | qmResMiss | qmFaultRequeue | qmRingFull | qmResvConflict | qmNotAdmitted
  | tdcUnord | tdcBudget | tdcSched
  | plainFwViol | passStray | passLate
  | dramCe | dramUe
  | ethRxFcs (p : PortId) | ethRxMalformed (p : PortId)
  | tbStepDenied | pinConflict | tbPlanRefused | tbPlanReplaced | tbCapOverrun
  | hcLabHit | hcLabMiss | hcCow | hcAppendWait | hcAppendReplace | hcStale | hcNoSpace | hcEmptyContext | hcPostDrop
  | pwrMismatch
  | whHallResets | whGoldenFail
  | evtDropped | evtUsbDrop | regUnmapped
  | vlReplay (l : LinkId) | lsMismatch | lsInputDiff | lsTdcOnly
  | secVerifyFail | pwrDroop | pwrAvsErr
deriving DecidableEq, Repr

/-- Position of a device counter. -/
def DevCtr.idx : DevCtr → Fin 52
  | .qmPreempt => 0 | .qmRemoteAbort => 1 | .qmResMiss => 2 | .qmFaultRequeue => 3 | .qmRingFull => 4
  | .qmResvConflict => 5 | .qmNotAdmitted => 6
  | .tdcUnord => 7 | .tdcBudget => 8 | .tdcSched => 9
  | .plainFwViol => 10 | .passStray => 11 | .passLate => 12
  | .dramCe => 13 | .dramUe => 14
  | .ethRxFcs p => ⟨15 + p.val, by omega⟩ | .ethRxMalformed p => ⟨19 + p.val, by omega⟩
  | .tbStepDenied => 23 | .pinConflict => 24 | .tbPlanRefused => 25 | .tbPlanReplaced => 26 | .tbCapOverrun => 27
  | .hcLabHit => 28 | .hcLabMiss => 29 | .hcCow => 30 | .hcAppendWait => 31 | .hcAppendReplace => 32 | .hcStale => 33
  | .hcNoSpace => 34 | .hcEmptyContext => 35 | .hcPostDrop => 36
  | .pwrMismatch => 37
  | .whHallResets => 38 | .whGoldenFail => 39
  | .evtDropped => 40 | .evtUsbDrop => 41 | .regUnmapped => 42
  | .vlReplay l => ⟨43 + l.val, by omega⟩ | .lsMismatch => 46 | .lsInputDiff => 47 | .lsTdcOnly => 48
  | .secVerifyFail => 49 | .pwrDroop => 50 | .pwrAvsErr => 51

/-- Event counters of a stall, under their register names. -/
inductive StallCtr where
  | mxCmdCount | mxBusyAc | mxDryAc | mxBackupAc | mxSatCount | mxRefused | mxMixedCount
  | tableWriteRefused | mxScaleInvalid
  | vecCmdCount | vecBusyAc | vecRefused | vecEmptyCount | quantBadScale
  | seqCmdCount | seqBusyAc | seqWaitAc | seqRefused | seqSatCount | seqIrqDropped
  | dmaRearmOverwrite | dmaCyclicAbort
deriving DecidableEq, Repr

/-- Position of a stall counter. -/
def StallCtr.idx : StallCtr → Fin 22
  | .mxCmdCount => 0 | .mxBusyAc => 1 | .mxDryAc => 2 | .mxBackupAc => 3 | .mxSatCount => 4 | .mxRefused => 5
  | .mxMixedCount => 6 | .tableWriteRefused => 7 | .mxScaleInvalid => 8 | .vecCmdCount => 9 | .vecBusyAc => 10
  | .vecRefused => 11 | .vecEmptyCount => 12 | .quantBadScale => 13 | .seqCmdCount => 14 | .seqBusyAc => 15
  | .seqWaitAc => 16 | .seqRefused => 17 | .seqSatCount => 18 | .seqIrqDropped => 19 | .dmaRearmOverwrite => 20
  | .dmaCyclicAbort => 21

/-! ### Engines of a stall -/

/-- An entry of an item list (R77). -/
structure Item where
  first : Nat
  count : Nat
  id : Word
deriving DecidableEq, Repr

/-- A command that an engine runs: its queue entry, the descriptor as read at its start, its item list as read at its start,
and what has happened so far (R76-R79, R107, R281, R376, R378). -/
structure Running where
  q : QueueId
  idx : Fin 4096
  desc : List Byte
  start : Int
  items : Option (List Item)
  /-- The item in progress; none while the next one waits for its gate (R376). -/
  item : Option Nat
  /-- When it started: the start of the command, the end of the item before it, or the instant at which its gate was met (R19). -/
  itemStart : Int
  /-- Items of a matrix command that stopped on their budget: item, passes fed whole, entries fed of the next pass, and the ac of
  the run at which the budget expired (R73). -/
  cuts : List (Nat × Nat × Nat × Nat)
  /-- Outcome and ROWS_DONE of each item that has ended. -/
  results : List (Option (Byte × Nat))
  /-- An event of Table 13-2 touched the command. -/
  tdc : Bool
  /-- The outcome once the command has ended of itself, before its completion. -/
  outcome : Option Byte
  /-- What the digest unit has absorbed, of the item in progress and before it (R378). -/
  itemLog : List Byte
  digestLog : List Byte
deriving DecidableEq, Repr

/-- The matrix array of a stall (R48, R54, R254). -/
inductive Matrix where
  | idle
  | reserved (q : QueueId) (idx : Fin 4096)
  /-- A matrix command, with the requantisation bank it started on (R67). -/
  | running (r : Running) (bank : Bool)
  /-- A Pass wait (R254): its Pass, the generation whose release it waits for, and its deadline. -/
  | passWait (r : Running) (p : PassId) (gen : Nat) (limit : Option Int)
deriving DecidableEq, Repr

/-- A tile register: element (r, l) is word 16 r + l (R102). -/
abbrev Tile := Vector Word 256

/-- A LOOP in progress (R110): first and last instruction of the body, runs left. -/
structure VecLoop where
  first : Nat
  last : Nat
  left : Nat
deriving DecidableEq, Repr

/-- The vector engine's registers (R102-R104) and what a command fixes at its start (R127, R131). -/
structure VecRegs where
  v : Vector Tile 32
  k : Vector (BitVec 256) 8
  a : Vector Word 8
  /-- Index of the next instruction. -/
  pc : Nat
  loops : List VecLoop
  bank : Bool
  flush : Word
deriving DecidableEq, Repr

inductive VecEngine where
  | idle
  | reserved (q : QueueId) (idx : Fin 4096)
  | running (r : Running) (x : VecRegs)
deriving DecidableEq, Repr

/-- A write on its way to a sequencer register, visible after `wait` more instructions (R141). -/
inductive SeqDest where
  | reg (n : Fin 31)
  /-- The accumulator as every reader but a multiply-add into it sees it. -/
  | acc (a : Fin 4)
  /-- The accumulator for every reader. -/
  | accAll (a : Fin 4)
  | coef
deriving DecidableEq, Repr

structure SeqLate where
  dest : SeqDest
  value : Int
  wait : Nat
deriving DecidableEq, Repr

/-- The signal sequencer's registers (R134, Table 05-5) and its exposed pipeline (R141, R142, R149). -/
structure SeqRegs where
  acc : Vector (BitVec 56) 4
  /-- Values a multiply-add into the same accumulator sees (accumulator feedback, Table 05-2). -/
  accNew : Vector (BitVec 56) 4
  s : Vector (BitVec 24) 2
  t : Vector (BitVec 24) 2
  c : BitVec 24
  ix : Vector (BitVec 16) 8
  cbb : Vector (BitVec 16) 4
  cbl : Vector (BitVec 16) 4
  ls : Vector (BitVec 16) 2
  le : Vector (BitVec 16) 2
  lc : Vector (BitVec 16) 2
  lstat : BitVec 16
  sqst : BitVec 16
  ipc : BitVec 16
  istat : BitVec 16
  savep : Word
  pc : Nat
  late : List SeqLate
  /-- A taken branch: instructions of its delay slots still to run, and its target. -/
  branch : Option (Nat × Nat)
  /-- Instructions still to run in the shadow of R149 after a write to a loop, status or circular register, or at the start
  of the handler. -/
  shadow : Nat
  /-- The loop cache: program index and word of each instruction held (R134, R142). -/
  cache : List (Nat × Word)
  /-- Issue ac of the command so far (R145). -/
  issue : Nat
deriving DecidableEq, Repr

inductive SeqEngine where
  | idle
  | reserved (q : QueueId) (idx : Fin 4096)
  | running (r : Running) (x : SeqRegs)
deriving DecidableEq, Repr

/-- Where a chain came from (R241, R247). -/
inductive ChainOrigin where
  | command (r : Running)
  | armed
deriving DecidableEq, Repr

/-- What a stream does with the descriptor in progress (R244). -/
inductive ChainPhase where
  /-- Between descriptors. -/
  | ready
  /-- COPY or FILL: the next segment starts at byte `off` of row `row`. -/
  | moving (row : Nat) (off : Nat)
  /-- WAIT, since its start. -/
  | waiting (since : Int)
  /-- PASS, for the release of that generation. -/
  | pass (p : PassId) (gen : Nat)
  /-- The chain has ended with that outcome (Table 08-4). -/
  | ended (code : Byte)
deriving DecidableEq, Repr

/-- A running chain of one stream. -/
structure Chain where
  origin : ChainOrigin
  cls : Nat
  localBase : Nat
  localEnd : Nat
  /-- The descriptor in progress, 32 bytes. -/
  cur : List Byte
  /-- Address of the next descriptor. -/
  next : Nat
  /-- Descriptors fetched and not yet started, with their addresses (R245). -/
  fetched : List (Nat × List Byte)
  phase : ChainPhase
  /-- ITEM_BUDGET has expired (R242). -/
  expired : Bool
  started : Int
deriving DecidableEq, Repr

/-- One stream of a stall DMA. -/
structure Stream where
  chain : Option Chain
  /-- A dispatched chain-start command that has not started. -/
  reserved : Option (QueueId × Fin 4096)
  /-- Chain-start command that passed its checks and waits for the stream (R242). -/
  queued : Option Running
  shadow : Option (List Byte)
  /-- Pre-emption pending on the chain, since when (R274). -/
  preempt : Option Int
deriving DecidableEq, Repr

def Stream.idle : Stream := ⟨none, none, none, none, none⟩

/-- Golden frame bookkeeping of a stall (R353, R356). -/
structure Golden where
  due : Bool
  running : Bool
  collisions : Nat
  failures : Nat
  /-- The cell whose reserve its engine time counts against (R28, R354). -/
  charge : Option CellId
deriving DecidableEq, Repr

/-- One stall: its registers (R80, R101, R133, R155, R257, R282) and its engines (R47). -/
structure Stall where
  inService : Bool
  selftest : Bool
  /-- Taken out of service by R356; R357 returns it. -/
  out : Bool
  /-- It failed its self-test at the last boot (R460). -/
  bootFail : Bool
  res : Vector (BitVec 16) 16
  ctr : Vector Ctr 22
  /-- Requantisation store, bank b at byte 4000h b (R93, R94). -/
  rqTable : Mem
  rqActive : Bool
  rqPending : Bool
  /-- Function store by 32-bit word: bank b at word 4000h b, slot s at 400h s, entry e at 4 e (R124). -/
  sfTable : Sparse Word
  /-- Banks whose slots 0-7 hold the standard tables (R126). -/
  sfStd : Vector Bool 2
  sfActive : Bool
  sfPending : Bool
  sfWin : BitVec 5
  vecFlush : Word
  irqTaken : Bool
  irqPending : Bool
  armCrit : BitVec 2
  dmaMode : BitVec 2
  inboundBase : BitVec 16
  inboundEnd : BitVec 16
  dmaResv : Vector (BitVec 8) 8
  /-- Arm windows, 8 words a stream (Table 08-13). -/
  armWin : Vector Word 64
  matrix : Matrix
  vec : VecEngine
  seq : SeqEngine
  streams : Vector Stream 8
  /-- ac run and not yet counted in MX_BUSY_AC, VEC_BUSY_AC, SEQ_BUSY_AC (units of 256 ac). -/
  mxRem : Nat
  vecRem : Nat
  seqRem : Nat
  /-- ACLK and its target, MHz (R398, R400). -/
  aclk : Nat
  aclkTarget : Nat
  /-- Since when the PLL has been on its way to a target (R398). -/
  slewAt : Int
  /-- Limits F_therm and F_droop, MHz (R400, R403, R410). -/
  fTherm : Nat
  fDroop : Nat
  /-- Clock stretched by droop; trips in the last 1 ms; the last one (R403). -/
  stretched : Bool
  droopTrips : List Int
  /-- When F_droop last changed or the clock last stretched; when F_therm last rose (R403, R410). -/
  droopAt : Int
  thermAt : Int
  limit : BitVec 4
  temp : BitVec 12
  tripRun : Nat
  suspect : Bool
  golden : Golden
  /-- Instants at which it left service in the last 3 600 s (R357). -/
  outTimes : List Int
deriving DecidableEq, Repr

/-! ### Queue manager (R258-R277) -/

/-- Where an entry of a ring stands (R263-R265, R280). -/
inductive EntryPhase where
  | waiting
  | placed (n : StallId) (e : Engine)
  | retired
deriving DecidableEq, Repr

/-- What the queue manager keeps of an entry that it has taken in. -/
structure QEntry where
  idx : Fin 4096
  /-- Bytes 0-95 of the entry, read when it was taken in, with AFFINITY, PLACE and the descriptor as the queue manager has
  changed them since (R271, R273, R277; log entry 16). -/
  bytes : List Byte
  phase : EntryPhase
  launched : Bool
  gateMet : Bool
  lastPoll : Option Int
  eligibleAt : Option Int
  /-- AFFINITY_WAIT has run out (R268). -/
  affinityFree : Bool
  /-- MODEL was counted as missing (R276). -/
  missed : Bool
  /-- FLAGS of the completion record (Table 09-6). -/
  flags : Byte
  ac : Nat
  stall : Option StallId
  /-- When it was dispatched, from which its engine time counts (R266), and when its last run started, later where R50 held it
  (R280). -/
  placedAt : Int
  start : Int
  /-- A victim has been picked for it (R272). -/
  asked : Bool
deriving DecidableEq, Repr

structure Queue where
  cfg : Word
  base : Word
  maskLo : Word
  maskHi : Word
  head : BitVec 12
  tail : BitVec 12
  gen : Byte
  entries : List QEntry
  vt : Nat
  acct : BitVec 64
  acctHold : BitVec 64
  acctHall : BitVec 64
  /-- Stall that ran the last entry passed by HEAD, for LINK (R268). -/
  lastStall : Option StallId
  /-- The entries of the last link group that HEAD has passed, which a stall loss may restart (R277). -/
  passed : List QEntry
deriving DecidableEq, Repr

def Queue.reset : Queue := ⟨1, 0, 0, 0, 0, 0, 0, [], 0, 0, 0, 0, none, []⟩

/-- The reserve of a released plan (R24, R27, R269, R271). -/
structure Reserve where
  cell : CellId
  stalls : BitVec 64
  unspent : Nat
  /-- T_k. -/
  start : Int
  openAt : Int
  closeAt : Int
  isOpen : Bool
  /-- Backlog of a stall: the ac of admitted work and of the remainder of R269 that were left at an instant (R27, R271). -/
  backlog : List (StallId × Nat × Int)
deriving DecidableEq, Repr

structure QueueManager where
  ctrl : Word
  timing : Word
  queues : Vector Queue 32
  reserves : List Reserve
  /-- Background dispatch halted (R406). -/
  bgHalted : Bool
deriving DecidableEq, Repr

def QueueManager.reset : QueueManager :=
  { ctrl := 20, timing := 0x07D003E8, queues := Vector.replicate 32 Queue.reset, reserves := [], bgHalted := false }

/-! ### Plain, DRAM and the Passes (R233, R237, R252) -/

/-- A complete generation of a Pass: its index, this device's completion stamp (joined), its release instant once known,
and the groups released. -/
structure PassWave where
  gen : Nat
  stamp : Option Int
  release : Option Int
  done : List (Fin 8)
deriving DecidableEq, Repr

/-- One Pass (R252-R256). -/
structure Pass where
  en : Bool
  joined : Bool
  target : BitVec 12
  gen : BitVec 16
  arrived : BitVec 12
  /-- Index of the generation whose arrivals ARRIVED counts. -/
  counting : Nat
  /-- Complete generations with a group still to release, oldest first. -/
  waves : List PassWave
  /-- Joined: stamps received from the other members and not yet used, in order of arrival (R256). -/
  members : List (DeviceId × Int)
deriving DecidableEq, Repr

def Pass.reset : Pass := ⟨false, false, 0, 0, 0, 0, [], []⟩

structure Fabric where
  fwBase : Vector Word 32
  fwLimit : Vector Word 32
  fwAttr : Vector Word 32
  fwLast : Word
  passes : Vector Pass 16
  passTiming : Word
  dramResv : Word
  resvErr : Bool
  selfRefresh : Bool
  trained : Bool
  ueAddr : Word
deriving DecidableEq, Repr

def Fabric.reset : Fabric :=
  { fwBase := Vector.replicate 32 0, fwLimit := Vector.replicate 32 0, fwAttr := Vector.replicate 32 0, fwLast := 0,
    passes := Vector.replicate 16 Pass.reset, passTiming := 0x07D001F4, dramResv := 0x00042410, resvErr := false,
    selfRefresh := false, trained := false, ueAddr := 0 }
/-! ### Host interface (R419-R447) -/

/-- An event record (Table 15-9). -/
structure Event where
  type : BitVec 16
  source : BitVec 16
  time : Int
  seq : Word
  payload : List Byte
deriving DecidableEq, Repr

/-- The path a mailbox request came by, by which its response goes back (R427). -/
inductive MbPath where
  | registers
  | endpoint1
  | roce (qp : QpId)
deriving DecidableEq, Repr

/-- Where the command of a mailbox stands (R428, R430). -/
inductive MbPhase where
  | idle
  /-- Rung, waiting for Hall to take it. -/
  | rung
  /-- Taken and not answered yet: in the background or holding Hall (R430), with its command code, its cell, and the answer
  that stands ready (status, DETAIL, items). -/
  | taken (background : Bool) (command : Nat) (cell : Option CellId) (status detail : Nat) (items : List Byte)
deriving DecidableEq, Repr

/-- One mailbox (R427). -/
structure Mailbox where
  req : Mem
  resp : Mem
  lastSeq : BitVec 16
  overrun : Bool
  done : Bool
  busy : Bool
  qp : Byte
  transport : Bool
  seq : BitVec 16
  path : MbPath
  phase : MbPhase
  /-- The stored response was asked for with NO_EVENT (R428). -/
  noEvent : Bool
deriving DecidableEq, Repr

def Mailbox.reset (transport : Bool) : Mailbox :=
  { req := [], resp := [], lastSeq := 0, overrun := false, done := false, busy := false, qp := 0,
    transport := transport, seq := 0, path := .registers, phase := .idle, noEvent := false }

/-- The capture ring of CAPTURE_CONFIGURE (Table 15-8, R484). -/
structure Capture where
  enabled : Bool
  source : Nat
  size : Nat
  target : BitVec 16
  data : List Byte
deriving DecidableEq, Repr

structure HostIf where
  /-- IND_ADDR and IND_STATUS of the host (0) and of Hall (1) (R444). -/
  indAddr : Vector Word 2
  indStatus : Vector (BitVec 4) 2
  /-- Words read of board-dependent regions. -/
  indReads : Nat
  /-- SNAP_STATUS.HELD, and Hall's own (R445). -/
  held : BitVec 11
  hallHeld : BitVec 11
  usbSpeed : BitVec 2
  usbConfigured : Bool
  /-- bConfigurationValue and address set by standard requests. -/
  usbAddress : BitVec 7
  /-- The bus terminations are present (R422), and the protocol byte shown (R419, R450). -/
  usbAttached : Bool
  usbProtocol : Byte
  /-- The event unit runs (R437). -/
  evtUp : Bool
  evtMask : BitVec 16
  evtSeq : Word
  ring : List Event
  ringSize : Nat
  endpoint3 : List Event
  /-- The µs in which records were last accepted, and how many (R439). -/
  evtUs : Int
  evtCount : Nat
  /-- Records refused since the last EVENTS_DROPPED, and the µs of the last refusal. -/
  evtRefused : Nat
  evtRefusedUs : Int
  mbox : Vector Mailbox 8
  /-- Mailboxes rung and not yet taken by Hall, in doorbell order (R430). -/
  order : List MboxId
  capture : Capture
deriving DecidableEq, Repr

def HostIf.reset : HostIf :=
  { indAddr := Vector.replicate 2 0, indStatus := Vector.replicate 2 0, indReads := 0, held := 0, hallHeld := 0
    usbSpeed := 0, usbConfigured := false, usbAddress := 0, usbAttached := false, usbProtocol := 0, evtUp := true
    evtMask := 0xFFFF, evtSeq := 0, ring := [], ringSize := 65536, endpoint3 := [], evtUs := 0, evtCount := 0
    evtRefused := 0, evtRefusedUs := 0
    mbox := ⟨((List.finRange 8).map fun m => Mailbox.reset (decide (6 ≤ m.val))).toArray, by simp⟩
    order := [], capture := ⟨false, 0, 0, 0, []⟩ }
/-! ### Time base (R312-R333) and the servo (R320-R325) -/

/-- Frame timing of a cell in the time base (R326, R329). -/
structure FrameTiming where
  mu : Nat
  planLead : Nat
  offsetNs : Nat
  sfnOffset : Nat
deriving DecidableEq, Repr

/-- A registered plan (R329): its processing slot k, the plan's Plain address, T_k and the release instant in ns. -/
structure PlanReg where
  slot : AirSlot
  addr : Word
  start : Int
  release : Int
deriving DecidableEq, Repr

/-- What the servo knows of a Sync: its sequence number, departure at the master with corrections, and arrival here. -/
structure SyncStamp where
  seqId : BitVec 16
  origin : Option Int
  arrival : Int
deriving DecidableEq, Repr

/-- PTP on one port (R321, R322). -/
structure PtpPort where
  /-- The best Announce heard, by the order of the alternate BMCA, and when. -/
  best : Option Nat
  heard : Int
  /-- Sync and Announce are sent as a master. -/
  master : Bool
deriving DecidableEq, Repr

/-- Hall's servo (R320, R321, R325). -/
structure Servo where
  /-- TIME_SOURCE: 0-3 a port, 10h + l a Valley link. -/
  source : Nat
  domain : Nat
  locked : Bool
  alarm : Bool
  exchanges : Nat
  /-- Consecutive exchanges with an offset within ±50 ns. -/
  run : Nat
  lastOffset : Int
  lastExchange : Int
  sync : Option SyncStamp
  delayReq : Option (BitVec 16 × Int)
  /-- Offsets of the exchanges before the step. -/
  offsets : List Int
  ports : Vector PtpPort 4
deriving DecidableEq, Repr

def Servo.reset : Servo :=
  { source := 0, domain := 24, locked := false, alarm := false, exchanges := 0, run := 0, lastOffset := 0, lastExchange := 0
    sync := none, delayReq := none, offsets := [], ports := Vector.replicate 4 ⟨none, 0, false⟩ }

structure TimeBase where
  cnt : BitVec 64
  anchorC : BitVec 64
  anchorT : Int
  rate : Word
  /-- Value written to TB_RATE that the next tick applies (R314). -/
  ratePend : Option Word
  /-- GO requests that the next tick judges, with the mailbox of the TIME_STEP command that asked (R317, R318). -/
  stepPend : List (Option MboxId)
  stepped : Bool
  denied : Bool
  stepSLo : Word
  stepSHi : BitVec 16
  stepNs : BitVec 30
  stepFrac : BitVec 16
  /-- Holding registers of R316. -/
  nowNs : BitVec 30
  nowSLo : Word
  nowSHi : BitVec 16
  nowCntLo : Word
  nowCntHi : Word
  planSlot : Word
  plans : Vector (List PlanReg) 16
  timing : Vector (Option FrameTiming) 16
  ioSel : Word
  pps : Word
  asym : Vector Word 4
  /-- Captures accepted and the last accepted edge, TIME_IO (0) and GPIO7 (1) (R330). -/
  capCount : Vector Nat 2
  capLast : Vector (Option Int) 2
  /-- The PPS output is high until then. -/
  ppsHigh : Option Int
  /-- The last whole second for which the PPS output rose. -/
  ppsLast : Int
  servo : Servo
deriving DecidableEq, Repr

def TimeBase.reset : TimeBase :=
  { cnt := 0, anchorC := 0, anchorT := 0, rate := 0, ratePend := none, stepPend := [], stepped := false, denied := false
    stepSLo := 0, stepSHi := 0, stepNs := 0, stepFrac := 0, nowNs := 0, nowSLo := 0, nowSHi := 0, nowCntLo := 0, nowCntHi := 0
    planSlot := 0, plans := Vector.replicate 16 [], timing := Vector.replicate 16 none, ioSel := 0, pps := 100000
    asym := Vector.replicate 4 0, capCount := Vector.replicate 2 0, capLast := Vector.replicate 2 none, ppsHigh := none
    ppsLast := 0, servo := Servo.reset }
/-! ### Power (R393-R418) -/

structure Power where
  /-- Bit d: domain d of Table 14-1 is on (R394). -/
  domains : BitVec 86
  /-- PWR_CAP, FMIN_MHZ, FILLER_LEVEL, THRESH_MV and PWR_GROUP as written. -/
  cap : Word
  fmin : BitVec 12
  filler : BitVec 7
  thresh : BitVec 7
  group : Word
  floor : Bool
  mismatch : Bool
  avsFault : Bool
  /-- F_pwr, MHz; it is being lowered; µs in succession with B below 95 % of the budget (R406). -/
  fpwr : Nat
  lowering : Bool
  calm : Nat
  /-- P_est, and P_meas and B kept exactly, in 0.1 W; sum and number of the estimates of the interval in progress and of the latest one. -/
  est : Nat
  meas : Rat
  basis : Rat
  estSum : Nat
  estCount : Nat
  est10Sum : Nat
  est10Count : Nat
  /-- Mismatch intervals in succession, and whether their record has been raised (R407). -/
  mismatchRun : Nat
  mismatchSent : Bool
  /-- VDD_CORE, mV: target, latest acknowledged, and a step written and not yet acknowledged with its instant (R401, R415). -/
  targetMv : Nat
  ackMv : Nat
  written : Option (Nat × Int)
  /-- Failed and successful AVSBus transactions in succession, and the last status word (R416). -/
  failRun : Nat
  okRun : Nat
  status : BitVec 16
  /-- Sensors X_0-X_15: sample, and samples in succession at the trip; sensors that throttle (R409-R411). -/
  tempX : Vector (BitVec 12) 16
  tripX : Vector Nat 16
  hot : BitVec 80
  /-- Held after a thermal trip; REFCLK is lost (R411, R399). -/
  tripHold : Bool
  refLost : Bool
  /-- Shares of the members at configuration and now, W; lateness of the members and generations of the millisecond; the
  last millisecond judged; a transfer to apply: giver, receiver, instant (R412, R413). -/
  shareCfg : List (DeviceId × Nat)
  share : List (DeviceId × Nat)
  late : List (DeviceId × Int)
  gens : Nat
  lastMs : Int
  transfer : Option (Option (DeviceId × DeviceId) × Int)
  /-- N_svc that the configuration was accepted with (R408). -/
  accepted : Nat
deriving DecidableEq, Repr

def Power.reset : Power :=
  { domains := 0x3C00E0#86 <<< 64, cap := 0x002D0104, fmin := 1500, filler := 60, thresh := 40, group := 0x00096000
    floor := false, mismatch := false, avsFault := false, fpwr := 2250, lowering := false, calm := 0, est := 0, meas := 0
    basis := 0, estSum := 0, estCount := 0, est10Sum := 0, est10Count := 0, mismatchRun := 0, mismatchSent := false
    targetMv := 750, ackMv := 0, written := none, failRun := 0, okRun := 0, status := 0, tempX := Vector.replicate 16 0
    tripX := Vector.replicate 16 0, hot := 0, tripHold := false, refLost := false, shareCfg := [], share := [], late := []
    gens := 0, lastMs := 0, transfer := none, accepted := 64 }
/-! ### History cache (R195-R226) -/

/-- A request in a ring: its 32 bytes, whether Hall posted it, and when (R203, R204). -/
structure HistReq where
  bytes : List Byte
  hall : Bool
  posted : Int
deriving DecidableEq, Repr

/-- An entry of the look-aside buffer (R220). -/
structure LabEntry where
  track : TrackId
  page : Fin 128
  cell : CellId
  frame : Nat
  sh : Bool
deriving DecidableEq, Repr

/-- One row-group copy that a request makes into the store: source address, frame, byte within it, length, and whether −0 is
stored as +0 (R210, R218). -/
structure HistWrite where
  src : Nat
  frame : Nat
  off : Nat
  len : Nat
  clean : Bool
deriving DecidableEq, Repr

/-- A context position of a fetch: frame and byte of its key row group and of its value row group (R207). -/
structure HistPos where
  kFrame : Nat
  kOff : Nat
  vFrame : Nat
  vOff : Nat
deriving DecidableEq, Repr

/-- A request whose data movement is in progress (R206). -/
structure HistRun where
  cls : Fin 3
  bytes : List Byte
  /-- Frames whose pins its writes wait for (R210). -/
  waits : List Nat
  /-- Frames that it has pinned. -/
  pins : List Nat
  /-- FETCH: its context positions, none where not valid. -/
  ctx : List (Option HistPos)
  tok : Nat
  lk : Nat
  writes : List HistWrite
  /-- The pages that it has copied on write or moved: old and new frame (R216, R224). -/
  copies : List (Nat × Nat)
  result : Nat
  /-- A shoot-down waits for it (R222). -/
  shot : Bool
deriving DecidableEq, Repr

structure Hist where
  en : Bool
  /-- Tracks of stopped cells that Hall detaches once no request writes them (R196). -/
  leaving : List TrackId
  /-- The frame records have been initialised since the last reset. -/
  init : Bool
  trackBase : Word
  plainBase : Word
  plainFrames : Word
  dramBase : Word
  dramFrames : Word
  place : Word
  sramReserve : Word
  /-- TRACK, CELL and SCOPE of HC_LAB_SHOOT, and BUSY. -/
  shoot : Word
  busy : Bool
  /-- Frames 0-447. -/
  sram : Mem
  /-- Frame records (R198). -/
  refcnt : Sparse Nat
  pin : Sparse Nat
  rings : Vector (List HistReq) 3
  /-- Sets of the look-aside buffer, most recently used first. -/
  lab : Vector (List LabEntry) 64
  active : List HistRun
  /-- VALID of the generation before the current one, by cell (R218). -/
  oldValid : Vector (BitVec 64) 16
  /-- When each track was attached or last appended to (R196). -/
  last : Vector Int 1024
deriving DecidableEq, Repr

def Hist.reset : Hist :=
  { en := false, leaving := [], init := false, trackBase := 0, plainBase := 0, plainFrames := 0, dramBase := 0, dramFrames := 0
    place := 0x00392424, sramReserve := 192, shoot := 0, busy := false, sram := [], refcnt := [], pin := []
    rings := Vector.replicate 3 [], lab := Vector.replicate 64 [], active := [], oldValid := Vector.replicate 16 0
    last := Vector.replicate 1024 0 }
/-! ### HARQ (R177-R181) -/

/-- A page of the HARQ pool: the header of Table 06-5, whose CHECK holds, and its LLRs by position (R178). -/
structure HarqPage where
  /-- Its page of the pool. -/
  number : Nat
  rnti : BitVec 16
  harqId : Byte
  cell : CellId
  cb : Nat
  cbCount : Nat
  tbs : Word
  bg : Byte
  ndi : Bool
  z : BitVec 16
  nCb : Word
  pMax : Nat
  txCount : Nat
  lastRv : Byte
  first : AirSlot
  llrs : Mem
deriving DecidableEq, Repr

structure Harq where
  /-- HARQ_POOL in MiB. -/
  pool : Nat
  /-- HARQ_MAX_AGE in slots (R181). -/
  maxAge : Nat
  /-- Where the pool lies in DRAM, in pages of 32 KiB. -/
  base : Nat
  pages : List HarqPage
deriving DecidableEq, Repr

def Harq.reset : Harq := ⟨1024, 64, 0, []⟩
/-! ### Joined devices (R383-R391) and pairs (R365-R367, R388-R390) -/

/-- One Valley link (R383). -/
structure VlLink where
  up : Bool
  lanes : BitVec 4
  peer : BitVec 4
  /-- Replays in the last 1 ms. -/
  replays : List Int
  /-- When it went down, until Hall has retrained it. -/
  downAt : Option Int
deriving DecidableEq, Repr

/-- A message that waits at a Valley link: its priority of Table 13-6, its kind and its bytes (R386). -/
structure ValleyMsg where
  priority : Nat
  kind : Byte
  bytes : List Byte
deriving DecidableEq, Repr

/-- A hot-standby pair (R365-R367). -/
structure Pair where
  partner : DeviceId
  /-- Cells the partner serves and this device plans for, without serving them. -/
  standby : BitVec 16
  /-- A HANDOVER or silence of this partner has been answered; PAIR_LINK_LOST has been raised. -/
  taken : Bool
  linkLost : Bool
deriving DecidableEq, Repr

/-- A comparison pair (R388-R390). -/
structure Lockstep where
  partner : DeviceId
  /-- This device is the shadow. -/
  shadow : Bool
  cells : BitVec 16
  takeover : Bool
  /-- The shadow's host reports and payload sets forwarded by the active device (R389). -/
  forwarded : List (CellId × AirSlot × List (BitVec 16 × Byte))
  /-- Starts of the processing slots of the pair's mismatches within 64 processing slots, since the latest golden failure (R390). -/
  mismatches : List Int
deriving DecidableEq, Repr

structure Join where
  system : Word
  device : DeviceId
  /-- The joined set; 0 while the device is not joined. -/
  members : BitVec 16
  /-- Device at the far end of each link, FFh none, and queue pair of each member, FFFFh none (R384, R391). -/
  linkMap : Vector Byte 3
  qpMap : Vector (BitVec 16) 16
  /-- When a heartbeat of each device was last heard. -/
  beats : Vector Int 16
  /-- When this device last sent its heartbeat. -/
  sent : Option Int
  links : Vector VlLink 3
  pair : Option Pair
  lockstep : Option Lockstep
deriving DecidableEq, Repr

def Join.reset : Join :=
  { system := 0, device := 0, members := 0, linkMap := Vector.replicate 3 0xFF, qpMap := Vector.replicate 16 0xFFFF
    beats := Vector.replicate 16 0, sent := none, links := Vector.replicate 3 ⟨false, 0, 0, [], none⟩, pair := none
    lockstep := none }
/-! ### RoCEv2 (R308) -/

/-- A request sent and not yet acknowledged: its first and last packet numbers and what it carries. -/
structure RoceReq where
  first : BitVec 24
  last : BitVec 24
  op : Byte
  addr : BitVec 64
  imm : Word
  bytes : List Byte
deriving DecidableEq, Repr

/-- A region that Hall has opened for a queue pair. -/
structure RoceRegion where
  addr : BitVec 64
  length : Nat
  key : Word
deriving DecidableEq, Repr

structure QueuePair where
  configured : Bool
  port : PortId
  mtu : Nat
  gid : BitVec 128
  qpn : Word
  mac : BitVec 48
  retryT : Nat
  regions : List RoceRegion
  error : Bool
  /-- Next packet number sent, and the one expected. -/
  psn : BitVec 24
  expect : BitVec 24
  sent : List RoceReq
  retries : Nat
  /-- When the oldest unacknowledged request was last sent. -/
  sentAt : Int
  /-- Rate as a part of the line rate, and the instant of the last CNP or restoration. -/
  rate : Rat
  rateAt : Int
deriving DecidableEq, Repr

def QueuePair.reset : QueuePair :=
  { configured := false, port := 0, mtu := 4096, gid := 0, qpn := 0, mac := 0, retryT := 8, regions := [], error := false
    psn := 0, expect := 0, sent := [], retries := 0, sentAt := 0, rate := 1, rateAt := 0 }
/-! ### Cells -/

/-- Counters of a cell, in the order of the identifiers 1001h-102Ch of Table 15-29. -/
inductive CellCtr where
  | planMissing | deadlineNack | reserveNack | budgetNack | fallbackBlocks | schedFallback | deliveryDrop | histNoContext
  | decBlocks | decIterSum | decEarlyStop | crcFailBlocks | polarBlocks | harqCombined | harqNoSpace | harqMismatch
  | harqExpired | dtxCount | fallbackCause (k : Fin 6)
  | ingEarly | ingLate | ingSeqGap | ingUnrequested | ingDup | ingConceal | ingEventSuppressed | ingLowWater
  | egrLate | egrOmitted | egrRampSkip
  | verdictRejectBlocks | shadowSamples | shadowLate | shadowDisagreeBlocks | disagreeSlots | demotions | promotions
  | wdTrips | cellReinit
deriving DecidableEq, Repr

/-- Identifier of a cell counter minus 1001h. -/
def CellCtr.idx : CellCtr → Fin 44
  | .planMissing => 0 | .deadlineNack => 1 | .reserveNack => 2 | .budgetNack => 3 | .fallbackBlocks => 4
  | .schedFallback => 5 | .deliveryDrop => 6 | .histNoContext => 7 | .decBlocks => 8 | .decIterSum => 9
  | .decEarlyStop => 10 | .crcFailBlocks => 11 | .polarBlocks => 12 | .harqCombined => 13 | .harqNoSpace => 14
  | .harqMismatch => 15 | .harqExpired => 16 | .dtxCount => 17 | .fallbackCause k => ⟨18 + k.val, by omega⟩
  | .ingEarly => 24 | .ingLate => 25 | .ingSeqGap => 26 | .ingUnrequested => 27 | .ingDup => 28 | .ingConceal => 29
  | .ingEventSuppressed => 30 | .ingLowWater => 31 | .egrLate => 32 | .egrOmitted => 33 | .egrRampSkip => 34
  | .verdictRejectBlocks => 35 | .shadowSamples => 36 | .shadowLate => 37 | .shadowDisagreeBlocks => 38
  | .disagreeSlots => 39 | .demotions => 40 | .promotions => 41 | .wdTrips => 42 | .cellReinit => 43

/-- Parameters of a cell that the host sets (Tables 01-5, 07-1, 10-8, 11-3a, 12-2; R181, R381). -/
inductive CellParam where
  | mu | nPrb | nUl | nDl | category | port | bfpWidth | reservePct | planLead | dlAdvance | estBudget | detBudget
  | decBudget | iterCap | delivery | adaptMode | adaptSeed | adaptKeep
  | window | tok | keyFmt | prefixLen | maxAge | histTracks | histIdle
  | nfPrbs | bfwWidth | rampSyms | g0 | g1 | rampExt | rampUpNs | rampDownNs
  | frameOffsetNs | sfnOffset
  | thr3 | thr4 | thr5 | thr8 | thr9 | thr13 | thr14 | autoRepromote
deriving DecidableEq, Repr

/-- Position of a parameter. -/
def CellParam.idx : CellParam → Fin 43
  | .mu => 0 | .nPrb => 1 | .nUl => 2 | .nDl => 3 | .category => 4 | .port => 5 | .bfpWidth => 6 | .reservePct => 7
  | .planLead => 8 | .dlAdvance => 9 | .estBudget => 10 | .detBudget => 11 | .decBudget => 12 | .iterCap => 13
  | .delivery => 14 | .adaptMode => 15 | .adaptSeed => 16 | .adaptKeep => 17 | .window => 18 | .tok => 19
  | .keyFmt => 20 | .prefixLen => 21 | .maxAge => 22 | .histTracks => 23 | .histIdle => 24 | .nfPrbs => 25
  | .bfwWidth => 26 | .rampSyms => 27 | .g0 => 28 | .g1 => 29 | .rampExt => 30 | .rampUpNs => 31 | .rampDownNs => 32
  | .frameOffsetNs => 33 | .sfnOffset => 34 | .thr3 => 35 | .thr4 => 36 | .thr5 => 37 | .thr8 => 38 | .thr9 => 39
  | .thr13 => 40 | .thr14 => 41 | .autoRepromote => 42

/-- Default of a parameter for cell c, in the units of R433; DELIVERY has none and starts as USB (log entry 8). -/
def CellParam.default (c : CellId) : CellParam → Nat
  | .mu => 1 | .nPrb => 273 | .nUl => 32 | .nDl => 16 | .category => 1 | .port => c.val % 4 | .bfpWidth => 9
  | .reservePct => 150 | .planLead => 20 | .dlAdvance => 200 | .estBudget => 48 | .detBudget => 32 | .decBudget => 8
  | .iterCap => 12 | .delivery => 0xFFFF | .adaptMode => 1 | .adaptSeed => 0 | .adaptKeep => 64
  | .window => 32 | .tok => 8 | .keyFmt => 8 | .prefixLen => 32 | .maxAge => 64 | .histTracks => 64 | .histIdle => 1024
  | .nfPrbs => 4 | .bfwWidth => 12 | .rampSyms => 1 | .g0 => 16384 | .g1 => 29491 | .rampExt => 0 | .rampUpNs => 1000
  | .rampDownNs => 1000 | .frameOffsetNs => 0 | .sfnOffset => 0
  | .thr3 => 300 | .thr4 => 64 | .thr5 => 60 | .thr8 => 10 | .thr9 => 30 | .thr13 => 10 | .thr14 => 30
  | .autoRepromote => 1

/-- Every parameter, in the order of its position. -/
def CellParam.all : List CellParam :=
  [.mu, .nPrb, .nUl, .nDl, .category, .port, .bfpWidth, .reservePct, .planLead, .dlAdvance, .estBudget, .detBudget,
   .decBudget, .iterCap, .delivery, .adaptMode, .adaptSeed, .adaptKeep, .window, .tok, .keyFmt, .prefixLen,
   .maxAge, .histTracks, .histIdle, .nfPrbs, .bfwWidth, .rampSyms, .g0, .g1, .rampExt, .rampUpNs, .rampDownNs,
   .frameOffsetNs, .sfnOffset, .thr3, .thr4, .thr5, .thr8, .thr9, .thr13, .thr14, .autoRepromote]

/-- What a block of a unit holds once decoded: the bits of a code block, a UCI code word with its bits where they were decoded, a PRACH
occasion, an SRS report. -/
inductive BlockPayload where
  | none
  | bits (l : List Bool)
  | uci (word : UciWord) (bits : Option (List Bool))
  | prach (scan : PrachScan)
  | srs (report : SrsReport)
deriving DecidableEq, Repr

/-- What decoding has given for a block: how it ends, syndrome weight, iterations, whether its LLRs came from the classical path, its
payload, its combined soft bits, and whether stored ones are among them. -/
structure Decoded where
  reason : Byte
  syndrome : Nat
  iterations : Nat
  classical : Bool
  payload : BlockPayload
  soft : Option HarqPage
  combined : Bool
deriving DecidableEq, Repr

/-- The code block of a reported unit (R41, R189). -/
structure UlBlock where
  /-- none while not final; 0 for passed, otherwise the reason of Table 06-6. -/
  final : Option Byte
  /-- Its accepted LLRs came from the classical path, once accepted (R189). -/
  classical : Option Bool
  /-- Its LLRs as detection made them, with the erased marks (R158 steps 2-4). -/
  llr : Option (List Byte × List Bool)
  /-- Its decoded result, since when it waits for its verdict (R158 step 9, R338). -/
  waiting : Option (Decoded × Int)
  payload : BlockPayload
  /-- Its learned LLRs have been judged: no rejection with cause 32 or 33 (R341). -/
  estimate : Option Bool
  /-- Its shadow sample was withdrawn (R343). -/
  withdrawn : Bool
  /-- Its combined channel LLRs once it has been decoded, for its HARQ page (R179). -/
  soft : Option HarqPage
deriving DecidableEq, Repr

/-- A reported unit of an uplink air slot. -/
structure UlUnit where
  kind : Byte
  rnti : BitVec 16
  harqId : Byte
  /-- The transmission of a PUSCH transport block. -/
  tx : Option SchTx
  blocks : List UlBlock
  /-- The transport block's own CRC failed (R189). -/
  tbFail : Bool
  /-- Its HARQ pages were asked for (R179): granted or not. -/
  pages : Option Bool
deriving DecidableEq, Repr

/-- One cause of fallback in a slot, for its FALLBACK record (R190, R369). -/
structure FallbackNote where
  cause : Byte
  test : Byte
  blocks : Nat
  rnti : BitVec 16
  harqId : Byte
deriving DecidableEq, Repr

/-- An uplink air slot on its way to its indication (R41). -/
structure UlSlot where
  air : AirSlot
  units : List UlUnit
  reserveShort : Bool
  schedFallback : Bool
  demoted : Bool
  notes : List FallbackNote
  finalTime : Option Int
deriving DecidableEq, Repr

/-- A downlink allocation of an air slot (R45, R301, R305). -/
structure DlAlloc where
  rnti : BitVec 16
  harqId : Byte
  alloc : BitVec 16
  /-- Reason it is not transmitted; 0 while it is to be. -/
  reason : Byte
  /-- A learned output of it was replaced by the classical computation (R23). -/
  replaced : Bool
  /-- Its transmission; its scrambled coded bits and its symbols by layer once encoded (R183, R185). -/
  tx : Option SchTx
  coded : List Bool
  symbols : List (List (Int × Int))
deriving DecidableEq, Repr

/-- A launch-list entry read at the hand-over close (Table 10-7). -/
structure LaunchEntry where
  kind : Byte
  stream : Byte
  symFirst : Nat
  symCount : Nat
  prbStart : Nat
  prbCount : Nat
  data : Nat
  beam : BitVec 16
  alloc : BitVec 16
deriving DecidableEq, Repr

/-- A built frame in the launch staging of a port, with the sections it carries (R302, R305). -/
structure StagedFrame where
  cell : CellId
  air : AirSlot
  symbol : Nat
  eaxc : BitVec 16
  prb : Nat
  launch : Int
  alloc : BitVec 16
  bytes : List Byte
  /-- Bytes of the ramp part that its shaped symbol holds, 0 for one that is not shaped (R305). -/
  ramp : Nat
deriving DecidableEq, Repr

/-- A downlink air slot (R45, R301-R307). -/
structure DlSlot where
  air : AirSlot
  allocs : List DlAlloc
  /-- No plan: no U-plane is sent (R17). -/
  noPlan : Bool
  handedOver : Bool
  /-- The slot before it transmits in its symbols 12 and 13, as known at its hand-over (R304). -/
  before : Bool × Bool
  entries : List LaunchEntry
  cplaneSent : Bool
  /-- Symbols whose launch instant has been handled. -/
  launched : List Nat
  /-- Frames found late: symbol, eAxC, first PRB (R305). -/
  late : List (Nat × BitVec 16 × Nat)
  /-- A learned path was demoted during the slot (Table 01-7). -/
  demoted : Bool
  /-- Its encoded DCIs with their RNTIs, and MIB (R184). -/
  control : List (Option (BitVec 16) × List Bool)
deriving DecidableEq, Repr

/-- A requested PRB-symbol-stream unit that arrived (R288, R289). -/
structure RxUnit where
  symbol : Nat
  prb : Nat
  stream : Nat
  comps : List Int
deriving DecidableEq, Repr

/-- A failure recorded for a run of PRBs (R296). -/
structure DamageNote where
  symbol : Nat
  eaxc : BitVec 16
  prb : Nat
  cause : Byte
deriving DecidableEq, Repr

/-- An uplink air slot at ingest (R290-R299). -/
structure IngSlot where
  air : AirSlot
  grants : List Grant
  noisePrbs : List Nat
  rx : List RxUnit
  prach : List RxUnit
  erased : List DamageNote
  /-- (symbol, eAxC) of late packets (R296). -/
  late : List (Nat × BitVec 16)
  done : List Nat
  /-- Its reception window has opened; its crate close has passed. -/
  opened : Bool
  closed : Bool
  forced : Bool
  concealed : Bool
  reported : Nat
deriving DecidableEq, Repr

/-- The state of one learned path (R345-R348). -/
structure PathState where
  demoted : Bool
  /-- Processing slot (counted from the PTP epoch) in which it was demoted. -/
  demotedAt : Option Int
  /-- Disagreement slots of the last 64, newest first: processing slot and the stalls it is attributed to. -/
  disagree : List (Int × List StallId)
  clean : Nat
  /-- AUTO_REPROMOTE is off for the path (LEARNED_DEMOTE). -/
  held : Bool
deriving DecidableEq, Repr

def PathState.reset : PathState := ⟨false, none, [], 0, false⟩

/-- A command digest record with its place in the slot digest (R378, R379). -/
structure DigestEntry where
  tag : BitVec 16
  stall : StallId
  tdc : Bool
  launch : BitVec 64
  digest : BitVec 256
deriving DecidableEq, Repr

/-- An audit record (Table 13-4). -/
structure AuditRec where
  slot : AirSlot
  commands : Nat
  tdc : Nat
  input : BitVec 256
  result : BitVec 256
deriving DecidableEq, Repr

/-- Site adaptation of a cell (R33-R35, R380-R382). -/
structure Adapt where
  seed : BitVec 64
  stepNo : BitVec 64
  /-- Weights promoted, and the candidate under training: BF16 words by tensor. -/
  promoted : Option (List (BitVec 16 × List (BitVec 16)))
  candidate : List (BitVec 16 × List (BitVec 16))
  /-- The journal of R381, oldest first: step, batch digest, weights digest; with the batches kept. -/
  journal : List (BitVec 64 × BitVec 256 × BitVec 256)
  batches : List (BitVec 64 × List Byte)
  /-- Background commands of site adaptation that have completed since the last step (R32). -/
  work : Nat
deriving DecidableEq, Repr

/-- A change of a cell's parameters or weights that is not in force yet: the processing slot whose plan is the first with it, and
what earlier plans hold (R34, R36). -/
structure PlanChange where
  slot : Int
  param : Vector Nat 43
  crateBase : Nat
  prachBase : Nat
  promoted : Option (List (BitVec 16 × List (BitVec 16)))
deriving DecidableEq, Repr

/-- What accepted scheduler runs have written for an air slot (R29): the region-of-interest list, the units granted in it, and
its downlink assignments; none where no run of the device has written it. -/
structure BookSlot where
  air : AirSlot
  roi : Option (List Grant)
  units : Option (List UnitDesc)
  allocs : Option (List AllocDesc)
deriving DecidableEq, Repr

/-- The offset books of a bundle in Plain (R171): the first processing slot whose plan uses them, and the addresses of the two. -/
structure BookSet where
  slot : Int
  bg1 : Nat
  bg2 : Nat
deriving DecidableEq, Repr

structure Cell where
  configured : Bool
  running : Bool
  stopping : Bool
  param : Vector Nat 43
  /-- Reserve in force in 0.1 % and PRB cap in 0.1 %, after R40. -/
  reserveNow : Nat
  prbCap : Nat
  ctr : Vector Word 44
  paths : Vector PathState 3
  ul : List UlSlot
  dl : List DlSlot
  ing : List IngSlot
  /-- Expected ecpriSeqid of each eAxC (R288). -/
  seqIds : List (BitVec 16 × Byte)
  /-- Held indications, oldest first (R44). -/
  held : List (AirSlot × List Byte)
  /-- Downlink payloads placed by the host and not yet taken: air slot, RNTI, HARQ_ID (R45). -/
  payloads : List (AirSlot × BitVec 16 × Byte × List Byte)
  /-- Address and size of the cell's downlink payload ring in Plain or DRAM, and of its crate queue. -/
  crateBase : Nat
  prachBase : Nat
  bundle : Option (BitVec 256)
  /-- Offset books that a plan may use, oldest first (R170, R171). -/
  books : List BookSet
  adapt : Adapt
  /-- Changes not yet in force, oldest first (R36). -/
  changes : List PlanChange
  /-- The grant book as accepted runs have written it (R29). -/
  book : List BookSlot
  /-- Code blocks whose CRC passed: the labels of site adaptation (R33). -/
  labels : List BlockRef
  audit : Bool
  /-- Plain address, size in bytes and next position of the digest ring (R377, R378). -/
  digestRing : Nat
  digestSize : Nat
  digestPos : Nat
  digests : List DigestEntry
  /-- The newest 4 096 audit records, and how many there have been. -/
  audits : List AuditRec
  auditCount : Nat
  /-- Crate entries of an audited cell as READY was written, with slot and crate number (R379). -/
  crates : List (AirSlot × Nat × List Byte)
  /-- Events of Table 13-2 since the last audit record of the cell (R375, R379). -/
  tdc : Nat
  /-- Processing slots of the last 16 in which a watchdog tripped, and of the last two releases without P(k + 2). -/
  wdSlots : List Int
  depthMiss : Nat
  /-- The processing slot, counted from the frame epoch, whose release was handled last. -/
  lastSlot : Option Int
deriving DecidableEq, Repr

def Cell.reset (c : CellId) : Cell :=
  { configured := false, running := false, stopping := false
    param := ⟨(CellParam.all.map (CellParam.default c)).toArray, by decide +revert⟩
    reserveNow := 150, prbCap := 1000, ctr := Vector.replicate 44 0, paths := Vector.replicate 3 PathState.reset
    ul := [], dl := [], ing := [], seqIds := [], held := [], payloads := [], crateBase := 0, prachBase := 0, bundle := none, books := []
    adapt := ⟨0, 0, none, [], [], [], 0⟩, changes := [], book := [], labels := [], audit := false, digestRing := 0, digestSize := 0, digestPos := 0, digests := [], audits := [], auditCount := 0, crates := [], tdc := 0
    wdSlots := [], depthMiss := 0, lastSlot := none }
/-! ### Ethernet ports, ingest and egress (R283, R284, R305, R311) -/

/-- One port: ETH_CTRL_p, ETH_VLAN_p and ETH_STATUS_p, the instants until which PFC pauses each priority, when EN was cleared,
and the frames in its launch staging. -/
structure EthPort where
  ctrl : Word
  vlan : Word
  fecLock : Bool
  linkUp : Bool
  paused : Vector Int 8
  offAt : Option Int
  staged : List StagedFrame
  /-- ETH_CTRL_p and ETH_VLAN_p as Hall's journal has them (R430, R362). -/
  journal : Word × Word
deriving DecidableEq, Repr

structure Eth where
  ports : Vector EthPort 4
  ingCfg : Word
deriving DecidableEq, Repr

def EthPort.reset : EthPort :=
  { ctrl := 9600, vlan := 0xE000, fecLock := false, linkUp := false, paused := Vector.replicate 8 0, offAt := none, staged := []
    journal := (9600, 0xE000) }

def Eth.reset : Eth := ⟨Vector.replicate 4 EthPort.reset, 64⟩
/-! ### Weighhouse and recovery (R349-R371) -/

/-- A command that a stage watchdog has stopped and that has not ended yet (R350). -/
structure StopWatch where
  cell : CellId
  stage : Nat
  stall : StallId
  engine : Engine
  q : QueueId
  idx : Fin 4096
  since : Int
deriving DecidableEq, Repr

/-- A warm reset in progress: when it started, whether a fault caused it, and the cells to restore (R362). -/
structure Restart where
  start : Int
  fault : Bool
  cells : BitVec 16
deriving DecidableEq, Repr

structure Weigh where
  /-- WH_STATUS: safe state (R361), HALL_UP (R359), READY. -/
  safe : Bool
  hallUp : Bool
  ready : Bool
  /-- WH_RESET_CAUSE: CAUSE and FAULT_RESETS. -/
  cause : Byte
  faultResets : BitVec 16
  /-- FAULT_N is driven low, PWR_REQ_N is driven low (R360, R364). -/
  faultLow : Bool
  pwrReqLow : Bool
  /-- Hall's last kick; the start of the Hall reset in progress; Hall resets of the last 10 s (R351, R358, R359). -/
  hallKick : Option (BitVec 16 × Int)
  hallDown : Option Int
  hallResets : List Int
  /-- Last kick of the hardware watchdog (R352). -/
  whKick : Option Int
  /-- Starts of fault-caused warm resets in the last 60 s (R364), and the warm reset in progress. -/
  resets : List Int
  restart : Option Restart
  stops : List StopWatch
  /-- The golden tick handled last (R353). -/
  tick : Int
deriving DecidableEq, Repr

def Weigh.reset : Weigh :=
  { safe := false, hallUp := false, ready := false, cause := 0, faultResets := 0, faultLow := true, pwrReqLow := false
    hallKick := none, hallDown := none, hallResets := [], whKick := none, resets := [], restart := none, stops := [], tick := 0 }
/-! ### Start-up, boot and security (R449-R468) -/

/-- Where the device stands between reset and READY. -/
inductive BootPhase where
  /-- Held in cold reset (R449). -/
  | held
  /-- USB boot-ROM mode (R457). -/
  | rom
  /-- The ROM has halted (Table 16-1). -/
  | halted
  /-- Hall runs, before READY. -/
  | booting
  /-- READY has been reached since the last cold boot. -/
  | served
deriving DecidableEq, Repr

structure Security where
  phase : BootPhase
  /-- SEC_STATUS: READY, HALL_RUN, WH_RUN, slots, SOURCE, BOOT_SEL, DEBUG_LEVEL. -/
  ready : Bool
  hallRun : Bool
  whRun : Bool
  hallSlot : Bool
  whSlot : Bool
  source : BitVec 2
  bootSel : BitVec 2
  debug : BitVec 2
  bootMs : Word
  /-- DRAM address of the staging area in units of 4 KiB. -/
  stageBase : BitVec 22
  /-- Fuse bits blown since the part was made: counters Hall, Weighhouse, bundle (64 bits each), and key revocation (R456). -/
  blown : Vector (BitVec 64) 3
  revoked : BitVec 4
  meas : Vector (BitVec 512) 8
  /-- The challenge in force and its expiry; random blocks drawn; the keys are unusable (R465). -/
  challenge : Option (List Byte × Int)
  randoms : Nat
  keysDead : Bool
  /-- The challenges of the unlocks in force, in order (R465). -/
  unlocks : List (List Byte)
  /-- Owner of the staging area (a command code) and the instant of its last chunk (R462). -/
  owner : Option (Nat × Int)
  /-- Bundles in load order: cell, header bytes 0-511 (R462, R463). -/
  bundles : List (CellId × List Byte)
  /-- SPI flash (R454), and the SFDP table that the part on the board provides (R453). -/
  flash : Mem
  sfdp : List Byte
  /-- How the boot ROM reads the flash: with 1-4-4 fast reads and not with 03h; with 4-byte addresses (R453). -/
  romQuad : Bool
  romWide : Bool
  /-- Buffers of the boot ROM (R457). -/
  romHall : List Byte
  romWh : List Byte
  /-- Offsets that the ROM expects next, of the Hall and of the Weighhouse image. -/
  romPos : Vector Nat 2
  /-- The running images, of which DRAM holds copies (R459). -/
  hallImage : List Byte
  whImage : List Byte
  /-- The last cold boot was from USB. -/
  usbBoot : Bool
  /-- The step that kept the device from READY: 1 Weighhouse image, 2 DRAM training, 3 stalls (R461). -/
  failed : Option (Fin 4)
  /-- Fuses have been advanced since the cold boot (R456). -/
  advanced : Bool
deriving DecidableEq, Repr

def Security.reset : Security :=
  { phase := .held, ready := false, hallRun := false, whRun := false, hallSlot := false, whSlot := false, source := 0
    bootSel := 0, debug := 0, bootMs := 0, stageBase := 0, blown := Vector.replicate 3 0, revoked := 0
    meas := Vector.replicate 8 0, challenge := none, randoms := 0, keysDead := false, unlocks := [], owner := none, bundles := [], flash := []
    sfdp := [], romQuad := false, romWide := false
    romHall := [], romWh := [], romPos := Vector.replicate 2 0, hallImage := [], whImage := [], usbBoot := false, failed := none, advanced := false }

/-! ### Pins and the TAP (R480, R483) -/

structure Pins where
  pwrGood : Bool
  /-- The instruction in the TAP and the boundary cells. -/
  tap : Byte
  boundary : List Bool
deriving DecidableEq, Repr

def Pins.reset : Pins := ⟨false, 1, []⟩
/-! ### What the device has sent (log entry 18) -/

/-- A message on one of the device's interfaces. -/
inductive OutMsg where
  /-- Endpoint 0: acknowledged or STALL (R421). -/
  | usbControl (ok : Bool) (data : List Byte)
  /-- Endpoint 1 IN: a mailbox response (R427). -/
  | usbMailbox (m : MboxId) (bytes : List Byte)
  /-- Endpoint 2 IN (Table 15-3). -/
  | usbMessage (kind status : Byte) (tag : BitVec 16) (addr : Word) (count : BitVec 16) (data : List Byte)
  /-- Endpoint 3 IN: records of one packet (R438). -/
  | usbEvents (records : List Event)
  /-- A frame of the fronthaul on a port, with the launch instant of its symbol or C-plane (R302). -/
  | fronthaul (p : PortId) (cplane : Bool) (eaxc : BitVec 16) (at_ : Int) (bytes : List Byte)
  /-- A RoCEv2 request or response on a queue pair: operation, address, immediate or packet number, data (R308), and when its frame may
  start (R284, R306). -/
  | roce (qp : QpId) (op : Byte) (addr : BitVec 64) (imm : Word) (bytes : List Byte) (at_ : Int)
  /-- A PTP message on a port: type, sequence number, departure, correction (R324). -/
  | ptp (p : PortId) (kind : Byte) (seqId : BitVec 16) (at_ : Int) (correction : Int)
  /-- A message on a Valley link (R325, R367, R385). -/
  | valley (l : LinkId) (kind : Byte) (bytes : List Byte)
  /-- A pulse of the launch monitor (R330). -/
  | launchPulse (at_ : Int)
  /-- AVSBus transactions (R414). -/
  | avs (write : Bool) (value : Nat)
  /-- What a JTAG instruction shifted out or drove (R483). -/
  | jtag (instr : Byte) (bits : List Bool)
deriving DecidableEq, Repr
/-! ### The whole state -/

structure State where
  /-- Stall memories, Plain and DRAM by fabric address (R227). -/
  mem : Mem
  dev : Vector Ctr 52
  stalls : Vector Stall 64
  qm : QueueManager
  fab : Fabric
  host : HostIf
  time : TimeBase
  pwr : Power
  cells : Vector Cell 16
  eth : Eth
  wh : Weigh
  sec : Security
  pins : Pins
  harq : Harq
  hist : Hist
  join : Join
  qps : Vector QueuePair 256
  /-- What waits at each Valley link, in the order in which the link serves it (R386). -/
  valley : Vector (List ValleyMsg) 3
  out : List OutMsg
  /-- Free values drawn so far: the model's own field (log entry 5). -/
  free : Nat
  /-- The code in bits [27:24] of each operation of the sequencer's classes, in the order of Table 05-3: the model's own field, for
  an encoding that the spec does not list (log entry 12). -/
  seqOps : List (List Nat)
  /-- The commands that wait, first in, first out: the model's own field. -/
  pending : List Instr
deriving DecidableEq, Repr


/-- A stall right after reset. -/
def Stall.reset : Stall :=
  { inService := false, selftest := false, out := false, bootFail := false, res := Vector.replicate 16 0, ctr := Vector.replicate 22 Ctr.zero
    rqTable := [], rqActive := false, rqPending := false, sfTable := [], sfStd := Vector.replicate 2 false
    sfActive := false, sfPending := false, sfWin := 0, vecFlush := 0x00800000, irqTaken := false, irqPending := false
    armCrit := 0, dmaMode := 1, inboundBase := 0, inboundEnd := 0, dmaResv := Vector.replicate 8 8
    armWin := Vector.replicate 64 0, matrix := .idle, vec := .idle, seq := .idle
    streams := Vector.replicate 8 Stream.idle, mxRem := 0, vecRem := 0, seqRem := 0, aclk := 0, aclkTarget := 0, slewAt := 0
    fTherm := 4095, fDroop := 4095, stretched := false, droopTrips := [], droopAt := 0, thermAt := 0, limit := 0, temp := 0, tripRun := 0
    suspect := false, golden := ⟨false, false, 0, 0, none⟩, outTimes := [] }

/-- The device right after reset: no command waits. -/
def State.reset : State :=
  { mem := [], dev := Vector.replicate 52 Ctr.zero, stalls := Vector.replicate 64 Stall.reset, qm := QueueManager.reset
    fab := Fabric.reset, host := HostIf.reset, time := TimeBase.reset, pwr := Power.reset
    cells := ⟨((List.finRange 16).map Cell.reset).toArray, by simp⟩, eth := Eth.reset, wh := Weigh.reset, sec := Security.reset, pins := Pins.reset, harq := Harq.reset, hist := Hist.reset
    join := Join.reset, qps := Vector.replicate 256 QueuePair.reset, valley := Vector.replicate 3 [], out := [], free := 0
    seqOps := [List.range 10, List.range 2, List.range 4, List.range 3, [], [], List.range 9, List.range 5, List.range 1], pending := [] }

end Sys2Proof.Machine
end

