-- ==== Sys2Proof/Machine/Ops.lean ====
section
/-! DEFINITION. The named operations over the state: sparse stores and byte memory, bit fields, counters, PTP time, event
records, free values, the firewall and fabric accesses. Every meaning reaches them through here. -/
namespace Sys2Proof.Machine

/-! ### Vectors -/

/-- Element i. -/
def vget {α : Type} {n : Nat} (v : Vector α n) (i : Fin n) : α := v[i.val]

/-- v with element i replaced. -/
def vset {α : Type} {n : Nat} (v : Vector α n) (i : Fin n) (x : α) : Vector α n := v.set i.val x i.isLt

/-- v with f applied to element i. -/
def vmod {α : Type} {n : Nat} (v : Vector α n) (i : Fin n) (f : α → α) : Vector α n := vset v i (f (vget v i))

/-- f applied to every element. -/
def vmap {α β : Type} {n : Nat} (f : α → β) (v : Vector α n) : Vector β n :=
  ⟨(v.toArray.toList.map f).toArray, by simp⟩

/-- The vector of f 0, f 1, … -/
def vgen {α : Type} (n : Nat) (f : Fin n → α) : Vector α n :=
  ⟨((List.finRange n).map f).toArray, by simp⟩

/-- v as a list. -/
def vlist {α : Type} {n : Nat} (v : Vector α n) : List α := v.toArray.toList

/-! ### Sparse stores (log entry 3) -/

/-- What key a holds, d where it is not listed. -/
def sget {α : Type} (d : α) : Sparse α → Nat → α
  | [], _ => d
  | (k, v) :: m, a => if k = a then v else sget d m a

/-- The store with key a holding v; d is what an unlisted a reads as, and is never listed. -/
def sput {α : Type} [DecidableEq α] (d : α) : Sparse α → Nat → α → Sparse α
  | [], a, v => if v = d then [] else [(a, v)]
  | (k, w) :: m, a, v =>
    if a < k then (if v = d then (k, w) :: m else (a, v) :: (k, w) :: m)
    else if a = k then (if v = d then m else (a, v) :: m)
    else (k, w) :: sput d m a v

/-- Byte a of memory. -/
def memByte (m : Mem) (a : Nat) : Byte := sget 0 m a

/-- m with byte a set to b. -/
def memPut (m : Mem) (a : Nat) (b : Byte) : Mem := sput 0 m a b

/-- n bytes from a on. -/
def memRead (m : Mem) (a n : Nat) : List Byte := (List.range n).map fun i => memByte m (a + i)

/-- m with the bytes written from a on. -/
def memWrite (m : Mem) (a : Nat) : List Byte → Mem
  | [] => m
  | b :: bs => memWrite (memPut m a b) (a + 1) bs

/-- m with every byte of [lo, hi) at 0. -/
def memClear (m : Mem) (lo hi : Nat) : Mem := m.filter fun c => !(decide (lo ≤ c.1) && decide (c.1 < hi))

/-- The canonical form of a memory. -/
def Mem.wf (m : Mem) : Bool :=
  decide (m.Pairwise fun a b => a.1 < b.1) && m.all fun c => decide (c.2 ≠ 0)

/-! ### Little-endian numbers (R4) and bit fields -/

/-- The number that bytes spell, lowest first. -/
def leNat : List Byte → Nat
  | [] => 0
  | b :: bs => b.toNat + 256 * leNat bs

/-- The low n bytes of v, lowest first. -/
def natLE : Nat → Nat → List Byte
  | 0, _ => []
  | n + 1, v => BitVec.ofNat 8 v :: natLE n (v / 256)

/-- The number in n bytes of memory at a. -/
def memNat (m : Mem) (a n : Nat) : Nat := leNat (memRead m a n)

/-- The number in n bytes of a list at offset o; bytes beyond its end count as 0. -/
def bytesNat (bs : List Byte) (o n : Nat) : Nat := leNat ((bs.drop o).take n)

/-- Bits [hi:lo] of a number. -/
def bitsOf (v hi lo : Nat) : Nat := v / 2 ^ lo % 2 ^ (hi + 1 - lo)

/-- Bit i of a number. -/
def bitOf (v i : Nat) : Bool := v / 2 ^ i % 2 == 1

/-- Field [hi:lo] of a word. -/
def fld (w : Word) (hi lo : Nat) : Nat := bitsOf w.toNat hi lo

/-- Bit i of a word. -/
def wbit (w : Word) (i : Nat) : Bool := w.getLsbD i

/-- A register word after a write: the bits of mask take the written value, the others keep theirs (R5). -/
def wrMask (mask old new : Word) : Word := (old &&& ~~~mask) ||| (new &&& mask)

/-- 1 for true. -/
def bitNat (b : Bool) : Nat := if b then 1 else 0

/-- A word from fields given as (value, lowest bit). -/
def packWord (fs : List (Nat × Nat)) : Word := BitVec.ofNat 32 (fs.foldl (fun n f => n + f.1 * 2 ^ f.2) 0)

/-- The signed value of an n-bit field. -/
def signed (n v : Nat) : Int := if v < 2 ^ (n - 1) then (v : Int) else (v : Int) - (2 ^ n : Nat)

/-- A signed number as n bytes. -/
def intLE (n : Nat) (x : Int) : List Byte := natLE n (x % ((2 ^ (8 * n) : Nat) : Int)).toNat

/-- v saturated to [lo, hi]. -/
def clampInt (lo hi v : Int) : Int := if v < lo then lo else if hi < v then hi else v

/-- v rounded up to a multiple of m. -/
def alignUp (v m : Nat) : Nat := (v + m - 1) / m * m

/-- The quotient rounded up. -/
def ceilDiv (a b : Nat) : Nat := (a + b - 1) / b

/-! ### PTP time (R313, R315) -/

/-- PTP time now, in units of 2^-16 ns (R313). -/
def TimeBase.ptp (t : TimeBase) : Int :=
  let d : Int := ((t.cnt - t.anchorC).toNat : Int)
  t.anchorT + (d * 131072 + (d * t.rate.toInt) / 8388608)

/-- Integer nanoseconds of a time, the fraction truncated (R9). -/
def nsOf (t : Int) : Int := t / 65536

/-- Integer nanoseconds now (R9). -/
def State.nowNs (s : State) : Int := nsOf s.time.ptp

/-- PTP time now. -/
def State.now (s : State) : Int := s.time.ptp

/-- A time in ns as units of 2^-16 ns. -/
def ns (n : Int) : Int := n * 65536

/-- The 12-byte layout of Table 11-1. -/
def ptpBytes (t : Int) : List Byte :=
  let n := nsOf t
  intLE 6 (n / 1000000000) ++ natLE 4 (n % 1000000000).toNat ++ natLE 2 (t % 65536).toNat

/-! ### Counters (R8) -/

/-- w raised by k, saturating at all ones (R8). -/
def satAdd (w : Word) (k : Nat) : Word :=
  if w.toNat + k < 4294967296 then BitVec.ofNat 32 (w.toNat + k) else 0xFFFFFFFF

/-- A counter raised by k. -/
def Ctr.add (c : Ctr) (k : Nat) : Ctr := { c with live := satAdd c.live k }

/-- Device counter c. -/
def State.devCtr (s : State) (c : DevCtr) : Ctr := vget s.dev c.idx

/-- A device counter raised by k. -/
def State.devAdd (s : State) (c : DevCtr) (k : Nat) : State := { s with dev := vmod s.dev c.idx (·.add k) }

/-- A device counter raised by 1. -/
def State.devInc (s : State) (c : DevCtr) : State := s.devAdd c 1

/-- Stall n. -/
def State.stall (s : State) (n : StallId) : Stall := vget s.stalls n

/-- s with stall n changed by f. -/
def State.modStall (s : State) (n : StallId) (f : Stall → Stall) : State := { s with stalls := vmod s.stalls n f }

/-- A counter of a stall raised by k. -/
def Stall.add (x : Stall) (c : StallCtr) (k : Nat) : Stall := { x with ctr := vmod x.ctr c.idx (·.add k) }

/-- A counter of stall n raised by k. -/
def State.stallAdd (s : State) (n : StallId) (c : StallCtr) (k : Nat) : State := s.modStall n (·.add c k)

/-- Cell c. -/
def State.cell (s : State) (c : CellId) : Cell := vget s.cells c

/-- s with cell c changed by f. -/
def State.modCell (s : State) (c : CellId) (f : Cell → Cell) : State := { s with cells := vmod s.cells c f }

/-- A counter of a cell raised by k, saturating (R8). -/
def Cell.add (x : Cell) (c : CellCtr) (k : Nat) : Cell := { x with ctr := vmod x.ctr c.idx (satAdd · k) }

/-- A counter of cell n raised by k. -/
def State.cellAdd (s : State) (n : CellId) (c : CellCtr) (k : Nat) : State := s.modCell n (·.add c k)

/-- A parameter of a cell. -/
def Cell.get (x : Cell) (p : CellParam) : Nat := vget x.param p.idx

/-- An event of Table 13-2 (R375): the device counter and the cell's total of the slot. -/
def State.tdc (s : State) (c : DevCtr) (cell : CellId) (k : Nat) : State :=
  (s.devAdd c k).modCell cell fun x => { x with tdc := x.tdc + k }

/-- Domain d is on (R394). -/
def State.domainOn (s : State) (d : Nat) : Bool := s.pwr.domains.getLsbD d

/-! ### Messages sent and free values -/

/-- s having sent m. -/
def State.send (s : State) (m : OutMsg) : State := { s with out := s.out ++ [m] }

/-- The next free value (log entry 5). -/
def State.freeBits (s : State) (i : Nat) : BitVec 64 := Config.freeWord (s.free + i)

/-- s with k free values drawn. -/
def State.drew (s : State) (k : Nat) : State := { s with free := s.free + k }

/-! ### Event records (R437-R439, R461) -/

/-- Source of an event record: kind and index (Table 15-9). -/
def evtSource (kind index : Nat) : Nat := kind * 4096 + index

/-- The µs of a time. -/
def usOf (t : Int) : Int := nsOf t / 1000

/-- The records kept: the newest SIZE of them; 64 until the DRAM is trained (R437, R461). -/
def keepLast {α : Type} (n : Nat) (l : List α) : List α := l.drop (l.length - n)

/-- The event unit takes a record (R437, R438). -/
def HostIf.accept (h : HostIf) (e : Event) : HostIf × Bool :=
  let toUsb := h.evtMask.getLsbD (e.type.toNat / 256)
  let full := toUsb && decide (512 ≤ h.endpoint3.length)
  ({ h with
      evtSeq := h.evtSeq + 1
      ring := keepLast h.ringSize (h.ring ++ [e])
      endpoint3 := if toUsb then keepLast 512 (h.endpoint3 ++ [e]) else h.endpoint3 }, full)

/-- The 32 bytes of an event record (Table 15-9). -/
def eventBytes (e : Event) : List Byte :=
  natLE 2 e.type.toNat ++ natLE 2 e.source.toNat ++ ptpBytes e.time ++ natLE 4 e.seq.toNat ++ e.payload

/-- Bytes into the capture ring, which keeps the newest SIZE (Table 15-8, R484). -/
def Capture.put (c : Capture) (bs : List Byte) : Capture := { c with data := keepLast c.size (c.data ++ bs) }

/-- Bytes into the capture ring when it takes that source. -/
def State.capture (s : State) (source : Nat) (bs : List Byte) : State :=
  if s.host.capture.enabled ∧ s.host.capture.source = source then
    { s with host := { s.host with capture := s.host.capture.put bs } }
  else s

/-- A record of time t is raised: accepted with the next SEQ, or refused when 8 were accepted in this µs (R439) or 64 are held before
the DRAM is trained (R461); lost while the event unit is down (R437). The trace ring takes a copy in any case (R484). -/
def State.raiseAt (s : State) (t : Int) (type source : Nat) (payload : List Byte) : State :=
  if s.host.evtUp then
    let us := usOf s.now
    let n := if s.host.evtUs = us then s.host.evtCount else 0
    let e : Event := { type := BitVec.ofNat 16 type, source := BitVec.ofNat 16 source, time := t,
                       seq := s.host.evtSeq, payload := payload ++ List.replicate (12 - payload.length) 0 }
    let s := s.capture 2 (eventBytes e)
    if 8 ≤ n ∨ (s.fab.trained = false ∧ 64 ≤ s.host.ring.length) then
      { s.devInc .evtDropped with
        host := { s.host with evtRefused := s.host.evtRefused + 1, evtRefusedUs := us } }
    else
      let r := s.host.accept e
      { (if r.2 then s.devInc .evtUsbDrop else s) with host := { r.1 with evtUs := us, evtCount := n + 1 } }
  else s

/-- A record of the present time. -/
def State.raise (s : State) (type source : Nat) (payload : List Byte) : State := s.raiseAt s.now type source payload

/-- Local time of the free-running counter, 2 ns a tick, in units of 2^-16 ns: what watchdogs and other durations of the device
are measured in, so that the step of R317 moves none of them (log entry 23). -/
def State.up (s : State) : Int := (s.time.cnt.toNat : Int) * 131072

/-- A time-stamp of a frame at a port's balls at instant t: local time and the port's correction, within ±4 ns (R323); it draws a free
value. -/
def State.stampAt (s : State) (p : PortId) (t : Int) : Int :=
  t + (vget s.time.asym p).toInt + ((s.freeBits 0).toNat % 524289 : Nat) - 262144

/-- The time-stamp of a frame now. -/
def State.stamp (s : State) (p : PortId) : Int := s.stampAt p s.now

/-- The record of a command's dispatch or completion in the trace ring: the spec gives neither its type nor its payload,
so both are free (R484, log entry 5). -/
def State.trace (s : State) (source : Nat) : State :=
  if s.host.capture.enabled ∧ s.host.capture.source = 2 then
    let e : Event := { type := (s.freeBits 0).setWidth 16, source := BitVec.ofNat 16 source, time := s.now, seq := 0
                       payload := natLE 8 (s.freeBits 1).toNat ++ natLE 4 (s.freeBits 2).toNat }
    (s.drew 3).capture 2 (eventBytes e)
  else s

/-! ### The fabric address map (Table 08-1) -/

/-- Where a fabric access falls (R227). -/
inductive Place where
  | register (off : Nat)
  | stallMem (n : StallId) (off : Nat)
  | plain (off : Nat)
  | dram (off : Nat)
  | remote (d : DeviceId) (off : Nat)
  | reserved
deriving DecidableEq, Repr

/-- Base of stall memory n. -/
def stallBase (n : StallId) : Nat := 0x10000000 + n.val * 0x200000

/-- Size of a stall memory. -/
def stallSize : Nat := 0x180000

/-- Base and size of Plain. -/
def plainBase : Nat := 0x20000000
def plainSize : Nat := 0x2000000

/-- Base and size of the DRAM. -/
def dramBase : Nat := 0x400000000
def dramSize : Nat := 0x400000000

/-- The range that an access of len bytes at a lies wholly in (R227); len 0 counts as 1. -/
def placeOf (a len : Nat) : Place :=
  let last := a + (if len = 0 then 0 else len - 1)
  if last < 0x10000000 then .register a
  else if h : 0x10000000 ≤ a ∧ last < 0x18000000 then
    let n : StallId := ⟨(a - 0x10000000) / 0x200000 % 64, Nat.mod_lt _ (by decide)⟩
    let off := (a - 0x10000000) % 0x200000
    if off + (last - a) < stallSize then .stallMem n off else .reserved
  else if plainBase ≤ a ∧ last < plainBase + plainSize then .plain (a - plainBase)
  else if dramBase ≤ a ∧ last < dramBase + dramSize then .dram (a - dramBase)
  else if 0x1000000000 ≤ a ∧ last < 0x2000000000 ∧ a / 0x100000000 = last / 0x100000000 then
    .remote ⟨a / 0x100000000 % 16, Nat.mod_lt _ (by decide)⟩ (a % 0x100000000)
  else .reserved

/-! ### The firewall (R233-R235) -/

/-- Who makes an access to Plain: the source that an event record names, its class (R234), and whether a LOCK region lets it
write (Hall and the security block). -/
structure Source where
  code : Nat
  cls : Nat
  priv : Bool
deriving DecidableEq, Repr

/-- Hall's accesses are firm and pass LOCK (R233, R234). -/
def Source.hall : Source := ⟨0, 0, true⟩

/-- The queue manager's accesses are firm (R234). -/
def Source.qm : Source := ⟨0, 0, false⟩

/-- A stall's accesses at a class. -/
def Source.stall (n : StallId) (cls : Nat) : Source := ⟨0x1000 + n.val, cls, false⟩

/-- The quadrant of a Plain offset is powered (R232). -/
def State.quadOn (s : State) (off : Nat) : Bool := s.domainOn (64 + off / 0x800000)

/-- Region r contains Plain offset off. -/
def Fabric.inRegion (f : Fabric) (r : Fin 32) (off : Nat) : Bool :=
  wbit (vget f.fwAttr r) 31 && decide (fld (vget f.fwBase r) 12 0 * 4096 ≤ off)
    && decide (off < fld (vget f.fwLimit r) 13 0 * 4096)

/-- The lowest-numbered enabled region that contains an offset (R233). -/
def State.regionOf (s : State) (off : Nat) : Option (Fin 32) :=
  if s.quadOn off then (List.finRange 32).find? fun r => s.fab.inRegion r off else none

/-- One byte of Plain may be accessed (R233). -/
def State.byteAllowed (s : State) (src : Source) (write : Bool) (off : Nat) : Bool :=
  match s.regionOf off with
  | none => false
  | some r =>
    let a := vget s.fab.fwAttr r
    if write then decide (src.cls ≤ fld a 1 0) && (!wbit a 3 || src.priv)
    else !wbit a 4 || decide (src.cls = 0)

/-- First byte of each 4 KiB unit of an access: regions change only there. -/
def unitStarts (off len : Nat) : List Nat :=
  if len = 0 then [] else
    off :: (List.range ((off + len - 1) / 4096 - off / 4096)).map fun i => (off / 4096 + i + 1) * 4096

/-- The first byte that the firewall refuses of an access. -/
def State.fwRefused (s : State) (src : Source) (write : Bool) (off len : Nat) : Option Nat :=
  (unitStarts off len).find? fun b => !s.byteAllowed src write b

/-- A refused access is counted, recorded and reported once (R235). -/
def State.fwViolation (s : State) (src : Source) (write : Bool) (off bad : Nat) : State :=
  let s1 := s.devInc .plainFwViol
  let s2 := { s1 with fab := { s1.fab with fwLast := BitVec.ofNat 32 (plainBase + off) } }
  s2.raise 0x0501 src.code
    (natLE 4 (plainBase + off) ++ [BitVec.ofNat 8 src.cls, BitVec.ofNat 8 (bitNat write),
      match s.regionOf bad with
      | some r => BitVec.ofNat 8 r.val
      | none => 0xFF])

/-- A read of Plain: the bytes, or zeros where the firewall refuses it (R235), and whether it was allowed. -/
def State.plainRead (s : State) (src : Source) (off len : Nat) : List Byte × Bool × State :=
  match s.fwRefused src false off len with
  | none => (memRead s.mem (plainBase + off) len, true, s)
  | some bad => (List.replicate len 0, false, s.fwViolation src false off bad)

/-- A write to Plain: made whole, or refused whole (R233, R235), and whether it was allowed. -/
def State.plainWrite (s : State) (src : Source) (off : Nat) (bs : List Byte) : Bool × State :=
  match s.fwRefused src true off bs.length with
  | none => (true, { s with mem := memWrite s.mem (plainBase + off) bs })
  | some bad => (false, s.fwViolation src true off bad)

/-- Bytes of a stall memory at a stall-local address; zeros while its domain is off (R396). -/
def State.localRead (s : State) (n : StallId) (a len : Nat) : List Byte :=
  if s.domainOn n.val then memRead s.mem (stallBase n + a) len else List.replicate len 0

/-- A write to a stall memory at a stall-local address; not made while its domain is off (R396). -/
def State.localWrite (s : State) (n : StallId) (a : Nat) (bs : List Byte) : State :=
  if s.domainOn n.val then { s with mem := memWrite s.mem (stallBase n + a) bs } else s

/-- A read of memory by an agent that is not a DMA (R227, R235): zeros where the access is not made. -/
def State.agentRead (s : State) (src : Source) (a len : Nat) : List Byte × State :=
  match placeOf a len with
  | .stallMem n off => (s.localRead n off len, s)
  | .plain off => let r := s.plainRead src off len; (r.1, r.2.2)
  | .dram _ => (memRead s.mem a len, s)
  | _ => (List.replicate len 0, s)

/-- A write to memory by an agent that is not a DMA (R227, R235): lost where it is not made. -/
def State.agentWrite (s : State) (src : Source) (a : Nat) (bs : List Byte) : State :=
  match placeOf a bs.length with
  | .stallMem n off => s.localWrite n off bs
  | .plain off => (s.plainWrite src off bs).2
  | .dram _ => { s with mem := memWrite s.mem a bs }
  | _ => s

/-! ### CRC-16 of descriptors and plan headers (R75) -/

/-- One byte into the CRC: polynomial 1021h, no reflection. -/
def crcByte (c : BitVec 16) (b : Byte) : BitVec 16 :=
  (List.range 8).foldl (fun c _ => if c.getLsbD 15 then (c <<< 1) ^^^ 0x1021 else c <<< 1)
    (c ^^^ (BitVec.zeroExtend 16 b <<< 8))

/-- CRC-16 with initial value FFFFh and no final XOR. -/
def crc16 (bs : List Byte) : BitVec 16 := bs.foldl crcByte 0xFFFF

end Sys2Proof.Machine
end

