-- ==== Sys2Proof/Machine/Flags.lean ====
section
/-! DEFINITION. Saturation, the rounding modes of Table 00-5, floating point under RNA (R59, R84, R111), flushing (R127), and
the outcome codes of commands (Tables 02-8, 04-2, 08-4, 09-7). The device has no arithmetic flags: what a manual would call
flags are the saturation marks here, which the counters of R68 and R138 count. -/
namespace Sys2Proof.Machine

/-! ### Saturation and rounding -/

/-- sat32 of R57, with whether it saturated. -/
def sat32 (x : Int) : Int := clampInt (-2147483648) 2147483647 x

/-- x lies outside 32 bits. -/
def over32 (x : Int) : Bool := decide (x < -2147483648) || decide (2147483647 < x)

/-- rna_shift of R57: x divided by 2^s, ties away from zero. -/
def rnaShift (x : Int) (s : Nat) : Int :=
  if s = 0 then x else
    let m := (x.natAbs + 2 ^ (s - 1)) / 2 ^ s
    if x < 0 then -(m : Int) else (m : Int)

/-- The quotient a / b (b > 0) rounded to an integer under RNA (R10). -/
def rnaDiv (a : Int) (b : Nat) : Int :=
  let m := (2 * a.natAbs + b) / (2 * b)
  if a < 0 then -(m : Int) else (m : Int)

/-- RHU of R139: floor of v / 2^s + 1/2. -/
def rhuShift (v : Int) (s : Nat) : Int := if s = 0 then v else (v + 2 ^ (s - 1)) / 2 ^ s

/-! ### Floating point -/

/-- A binary format: precision, least exponent of a unit in the last place, and width (Table 03-1). -/
structure FpFmt where
  p : Nat
  qmin : Int
  bits : Nat
deriving DecidableEq, Repr

def fp32 : FpFmt := ⟨24, -149, 32⟩
def fp16 : FpFmt := ⟨11, -24, 16⟩
def bf16 : FpFmt := ⟨8, -133, 16⟩

/-- Magnitude bits of infinity. -/
def FpFmt.inf (f : FpFmt) : Nat := (2 ^ (f.bits - f.p) - 1) * 2 ^ (f.p - 1)

/-- The canonical quiet NaN (R83). -/
def FpFmt.nan (f : FpFmt) : Nat := f.inf + 2 ^ (f.p - 2)

/-- The sign bit. -/
def FpFmt.sign (f : FpFmt) : Nat := 2 ^ (f.bits - 1)

/-- A floating-point value, exact: ±m × 2^e, with the sign of zero kept. -/
inductive Fp where
  | nan
  | inf (neg : Bool)
  | fin (neg : Bool) (m : Nat) (e : Int)
deriving DecidableEq, Repr

/-- The value that bits spell. -/
def FpFmt.val (f : FpFmt) (b : Nat) : Fp :=
  let neg := decide (f.sign ≤ b % (2 * f.sign))
  let mag := b % f.sign
  if f.inf < mag then .nan
  else if mag = f.inf then .inf neg
  else
    let ex := mag / 2 ^ (f.p - 1)
    let fr := mag % 2 ^ (f.p - 1)
    if ex = 0 then .fin neg fr f.qmin else .fin neg (2 ^ (f.p - 1) + fr) (f.qmin + ex - 1)

/-- Signed bits of a magnitude. -/
def FpFmt.pack (f : FpFmt) (neg : Bool) (mag : Nat) : Nat := if neg then f.sign + mag else mag

/-- 2^e as numerator and denominator. -/
def pow2 (e : Int) : Nat × Nat := if 0 ≤ e then (2 ^ e.toNat, 1) else (1, 2 ^ (-e).toNat)

/-- ±n/d (d > 0) rounded once to the format under RNA: subnormals kept, overflow to infinity, a value that rounds to zero
keeps its sign (R59, R84, R111). -/
def FpFmt.round (f : FpFmt) (neg : Bool) (n d : Nat) : Nat :=
  if n = 0 then f.pack neg 0 else
    let g : Int := (Nat.log2 n : Int) - (Nat.log2 d : Int)
    let t := pow2 g
    let e : Int := if n * t.2 < d * t.1 then g - 1 else g
    let q : Int := max (e - (f.p - 1)) f.qmin
    let u := pow2 q
    let num := n * u.2
    let den := d * u.1
    let m := (2 * num + den) / (2 * den)
    let mag := (q - f.qmin).toNat * 2 ^ (f.p - 1) + m
    f.pack neg (min mag f.inf)

/-- The exact value of a finite Fp as a signed integer and an exponent. -/
def Fp.dyadic : Fp → Int × Int
  | .fin neg m e => (if neg then -(m : Int) else (m : Int), e)
  | _ => (0, 0)

/-- m × 2^e rounded to the format; zneg is the sign of an exact zero. -/
def FpFmt.ofDyadic (f : FpFmt) (zneg : Bool) (m e : Int) : Nat :=
  if m = 0 then f.pack zneg 0 else
    let t := pow2 e
    f.round (decide (m < 0)) (m.natAbs * t.1) t.2

/-- Sum of two dyadics. -/
def dyAdd (a b : Int × Int) : Int × Int :=
  let e := min a.2 b.2
  (a.1 * 2 ^ (a.2 - e).toNat + b.1 * 2 ^ (b.2 - e).toNat, e)

/-- Product of two dyadics. -/
def dyMul (a b : Int × Int) : Int × Int := (a.1 * b.1, a.2 + b.2)

/-- The sign of a value, of zero too. -/
def Fp.neg : Fp → Bool
  | .nan => false
  | .inf n => n
  | .fin n _ _ => n

/-- It is a zero. -/
def Fp.isZero : Fp → Bool
  | .fin _ m _ => m == 0
  | _ => false

def Fp.isNan : Fp → Bool
  | .nan => true
  | _ => false

/-- An FP32 word as a value. -/
def fv (w : Word) : Fp := fp32.val w.toNat

/-- FP32 words from bit patterns. -/
def fw (n : Nat) : Word := BitVec.ofNat 32 n

/-- The canonical NaN of FP32 (R83). -/
def fnan : Word := 0x7FC00000

def finf (neg : Bool) : Word := if neg then 0xFF800000 else 0x7F800000

/-- Product of two FP32 values, rounded once (R59, R111). -/
def fmul (a b : Word) : Word :=
  match fv a, fv b with
  | .nan, _ => fnan
  | _, .nan => fnan
  | .inf n, y => if y.isZero then fnan else finf (n != y.neg)
  | x, .inf n => if x.isZero then fnan else finf (n != x.neg)
  | x, y => let p := dyMul x.dyadic y.dyadic; fw (fp32.ofDyadic (x.neg != y.neg) p.1 p.2)

/-- Sum of two FP32 values, rounded once; an exact zero sum is +0 unless both addends are −0 (R59, R111). -/
def fadd (a b : Word) : Word :=
  match fv a, fv b with
  | .nan, _ => fnan
  | _, .nan => fnan
  | .inf n, .inf m => if n = m then finf n else fnan
  | .inf n, _ => finf n
  | _, .inf n => finf n
  | x, y => let p := dyAdd x.dyadic y.dyadic; fw (fp32.ofDyadic (x.neg && y.neg) p.1 p.2)

/-- The negation of an FP32 value; a NaN gives the canonical NaN. -/
def fneg (a : Word) : Word := if (fv a).isNan then fnan else a ^^^ 0x80000000

/-- The magnitude of an FP32 value; a NaN gives the canonical NaN. -/
def fabs (a : Word) : Word := if (fv a).isNan then fnan else a &&& 0x7FFFFFFF

def fsub (a b : Word) : Word := fadd a (fneg b)

/-- a × b + c rounded once (R111). -/
def ffma (a b c : Word) : Word :=
  match fv a, fv b, fv c with
  | .nan, _, _ => fnan
  | _, .nan, _ => fnan
  | _, _, .nan => fnan
  | x, y, z =>
    let pinf : Option Bool := match x, y with
      | .inf n, _ => some (n != y.neg)
      | _, .inf n => some (n != x.neg)
      | _, _ => none
    match pinf with
    | some n =>
      if x.isZero || y.isZero then fnan else
        match z with
        | .inf m => if m = n then finf n else fnan
        | _ => finf n
    | none =>
      match z with
      | .inf m => finf m
      | _ =>
        let p := dyAdd (dyMul x.dyadic y.dyadic) z.dyadic
        fw (fp32.ofDyadic ((x.neg != y.neg) && z.neg) p.1 p.2)

/-- The exact sum of two exact products, rounded once: a × b ± c × d of complex arithmetic (R111). -/
def fdot (sub : Bool) (a b c d : Word) : Word :=
  let x := fv a; let y := fv b; let z := fv c; let w := fv d
  if x.isNan || y.isNan || z.isNan || w.isNan then fnan else
    let one (u v : Fp) : Option (Option Bool) := match u, v with
      | .inf n, _ => some (if v.isZero then none else some (n != v.neg))
      | _, .inf n => some (if u.isZero then none else some (n != u.neg))
      | _, _ => none
    match one x y, one z w with
    | some none, _ => fnan
    | _, some none => fnan
    | some (some n), some (some m) => if n = (m != sub) then finf n else fnan
    | some (some n), none => finf n
    | none, some (some m) => finf (m != sub)
    | none, none =>
      let q := dyMul z.dyadic w.dyadic
      let p := dyAdd (dyMul x.dyadic y.dyadic) (if sub then -q.1 else q.1, q.2)
      fw (fp32.ofDyadic ((x.neg != y.neg) && ((z.neg != w.neg) != sub)) p.1 p.2)

/-- a / b as an exact quotient of finite values (b ≠ 0), rounded once. -/
def fquot (x : Int × Int) (y : Int × Int) : Word :=
  let neg := decide (x.1 < 0) != decide (y.1 < 0)
  let t := pow2 (x.2 - y.2)
  fw (fp32.round neg (x.1.natAbs * t.1) (y.1.natAbs * t.2))

/-- Order of two FP32 values that are no NaN: −0 below +0 where zeros are ranked (R111, R118). -/
def flt (ranked : Bool) (a b : Word) : Bool :=
  let key (v : Fp) : Int × Int := match v with
    | .inf n => (if n then -1 else 1, 0)
    | _ => (0, 0)
  match fv a, fv b with
  | .nan, _ => false
  | _, .nan => false
  | .inf n, y => (key (.inf n)).1 < (key y).1
  | x, .inf n => (key x).1 < (key (.inf n)).1
  | x, y =>
    let d := dyAdd x.dyadic (-(y.dyadic.1), y.dyadic.2)
    decide (d.1 < 0) || (ranked && d.1 == 0 && x.neg && !y.neg)

/-- Equality of values: −0 equals +0, a NaN equals nothing. -/
def feq (a b : Word) : Bool := !(fv a).isNan && !(fv b).isNan && !flt false a b && !flt false b a

/-- Integer → FP32 under RNA (Table 03-2). -/
def intToF (x : Int) : Word := fw (fp32.ofDyadic false x 0)

/-- FP32 → integer under RNA, saturated to [lo, hi]; NaN gives 0 (Table 03-2). -/
def fToInt (lo hi : Int) (a : Word) : Int :=
  match fv a with
  | .nan => 0
  | .inf n => if n then lo else hi
  | x =>
    let d := x.dyadic
    let t := pow2 d.2
    clampInt lo hi (rnaDiv (d.1 * t.1) t.2)

/-- FP32 → FP16 or BF16 (Table 03-2). -/
def fNarrow (f : FpFmt) (a : Word) : Nat :=
  match fv a with
  | .nan => f.nan
  | .inf n => f.pack n f.inf
  | x => let d := x.dyadic; f.ofDyadic x.neg d.1 d.2

/-- FP16 or BF16 → FP32, exact (Table 03-2). -/
def fWiden (f : FpFmt) (b : Nat) : Word :=
  match f.val b with
  | .nan => fnan
  | .inf n => finf n
  | x => let d := x.dyadic; fw (fp32.ofDyadic x.neg d.1 d.2)

/-- Flushing under FLUSH_THRESHOLD t (R127). -/
def flush (t a : Word) : Word :=
  let tm := t &&& 0x7FFFFFFF
  if tm = 0 ∨ 0x7F800000 ≤ tm.toNat then a
  else if (fv a).isNan then a
  else if (a &&& 0x7FFFFFFF).toNat < tm.toNat then 0 else a

/-! ### Outcome codes -/

def oDone : Byte := 0
def oBadFields : Byte := 1
def oBadShape : Byte := 2
def oBadAddr : Byte := 3
def oBadCheck : Byte := 4
def oClassMismatch : Byte := 5
def oDiscarded : Byte := 6
def oPartial : Byte := 7
def oBadInstr : Byte := 8
def oOutOfExtent : Byte := 9
def oYielded : Byte := 10
def oPassTimeout : Byte := 11
def oFirewall : Byte := 12
def oMemError : Byte := 13
def oCyclicWait : Byte := 14
def oWaitTimeout : Byte := 15
def oBadDesc : Byte := 16
def oPassCancelled : Byte := 17
def oNotReached : Byte := 18
def oNotAdmitted : Byte := 19

end Sys2Proof.Machine
end

