-- ==== Sys2Proof/Machine/Operands.lean ====
section
/-! DEFINITION. Operand forms: element formats (Tables 02-3, 03-1), command descriptors of each class (Tables 02-7, 04-1, 05-5a,
08-2), item lists and results (R77, R281), queue entries (Table 09-1), DMA descriptors (Table 08-3), and block-scaled lines
(R85, R86). -/
namespace Sys2Proof.Machine

/-! ### Element formats (Table 02-3, Table 03-1) -/

def fmtInt8 : Nat := 0
def fmtInt4 : Nat := 1
def fmtInt16 : Nat := 2
def fmtFp16 : Nat := 3
def fmtBf16 : Nat := 4
def fmtCi8 : Nat := 5
def fmtCi16 : Nat := 6
def fmtBs8 : Nat := 7
def fmtBs4 : Nat := 8
def fmtFp32 : Nat := 9
def fmtInt32 : Nat := 10
def fmtBit : Nat := 11
def fmtCi32 : Nat := 12

/-- Bits of an element; of a block-scaled one, without its scales. -/
def fmtBits : Nat → Nat
  | 0 => 8 | 1 => 4 | 2 => 16 | 3 => 16 | 4 => 16 | 5 => 16 | 6 => 32 | 7 => 8 | 8 => 4 | 9 => 32 | 10 => 32 | 11 => 1
  | 12 => 64 | _ => 0

/-- Bytes of a row of n elements of an A, B, C or D operand in a format: BIT rows of C and D fill whole 4-byte words
(R64, R488), block-scaled lines carry their headers (R86). -/
def rowBytes (fmt n : Nat) : Nat :=
  if fmt = fmtBs8 then 16 * (1 + ceilDiv n 512) + n
  else if fmt = fmtBs4 then 16 * (1 + ceilDiv n 512) + ceilDiv n 2
  else ceilDiv (n * fmtBits fmt) 8

/-- Bytes of a row of C or D. -/
def outRowBytes (fmt n : Nat) : Nat := if fmt = fmtBit then 4 * ceilDiv n 32 else rowBytes fmt n

/-- The raw bits of element i of a row at a (Table 03-1). -/
def elemRaw (m : Mem) (a bits i : Nat) : Nat :=
  if bits < 8 then bitsOf (memByte m (a + i * bits / 8)).toNat (i * bits % 8 + bits - 1) (i * bits % 8)
  else memNat m (a + i * bits / 8) (bits / 8)

/-- Offset within its line of element k of a block-scaled line (R86). -/
def bsOffset (fmt k : Nat) : Nat :=
  let g := k / 512
  let blk := if fmt = fmtBs8 then 32 else 16
  16 + g * (16 + 16 * blk) + 16 + k % 512 / 32 * blk + (if fmt = fmtBs8 then k % 32 else k % 32 / 2)

/-- Offset within its line of the scale byte of block b (R86). -/
def bsScaleOffset (fmt b : Nat) : Nat :=
  let blk := if fmt = fmtBs8 then 32 else 16
  16 + b / 16 * (16 + 16 * blk) + b % 16

/-- Integer element k of a block-scaled line at a. -/
def bsElem (m : Mem) (fmt a k : Nat) : Int :=
  let b := (memByte m (a + bsOffset fmt k)).toNat
  if fmt = fmtBs8 then signed 8 b
  else signed 4 (if k % 2 = 0 then b % 16 else b / 16)

/-- An SB8 scale byte as m × 2^e; an invalid byte is 0 (R85). -/
def sb8 (b : Byte) : Int × Int :=
  let e := b.toNat / 8
  if e = 0 then (0, 0) else (8 + b.toNat % 8, (e : Int) - 23)

/-- A scale byte of the invalid kind (R85). -/
def sb8Bad (b : Byte) : Bool := decide (b.toNat / 8 = 0) && decide (b.toNat % 8 ≠ 0)

/-- The bytes that pack the raw elements of a row, bits each, padded with zero bits (R82). -/
def packBits (bits : Nat) (vs : List Nat) : List Byte :=
  natLE (ceilDiv (bits * vs.length) 8) (vs.foldr (fun v n => v % 2 ^ bits + 2 ^ bits * n) 0)

/-! ### Command descriptors (Table 02-7) -/

/-- The fields that every class of command shares (bytes 0-20 and 58-63). -/
structure Desc where
  opclass : Nat
  b1 : Nat
  b2 : Nat
  b3 : Nat
  digest : Bool
  unord : Bool
  rqEn : Bool
  ofsEn : Bool
  dclass : Nat
  queueId : Nat
  crit : Nat
  b5top : Bool
  rqTable : Nat
  passArrive : Bool
  b6top : Nat
  passId : Nat
  b7top : Nat
  launchS : Nat
  launchNs : Nat
  discardNs : Nat
  budget : Nat
  b59 : Nat
  tag : Nat
  check : Nat
deriving DecidableEq, Repr

/-- The shared fields of 64 descriptor bytes. -/
def descOf (b : List Byte) : Desc :=
  let f (o : Nat) := bytesNat b o 1
  let l := bytesNat b 8 8
  { opclass := f 0, b1 := f 1, b2 := f 2, b3 := f 3
    digest := bitOf (f 4) 0, unord := bitOf (f 4) 1, rqEn := bitOf (f 4) 2, ofsEn := bitOf (f 4) 3, dclass := f 4 / 16
    queueId := f 5 % 32, crit := bitsOf (f 5) 6 5, b5top := bitOf (f 5) 7
    rqTable := f 6 % 16, passArrive := bitOf (f 6) 4, b6top := f 6 / 32
    passId := f 7 % 16, b7top := f 7 / 16
    launchS := l / 2 ^ 30, launchNs := l % 2 ^ 30, discardNs := bytesNat b 16 4
    budget := f 58, b59 := f 59, tag := bytesNat b 60 2, check := bytesNat b 62 2 }

/-- A Pass number. -/
def passOf (n : Nat) : PassId := ⟨n % 16, Nat.mod_lt _ (by decide)⟩

/-- A stall number. -/
def stallOf (n : Nat) : StallId := ⟨n % 64, Nat.mod_lt _ (by decide)⟩

/-- A queue number. -/
def queueOf (n : Nat) : QueueId := ⟨n % 32, Nat.mod_lt _ (by decide)⟩

/-- A cell number. -/
def cellOf (n : Nat) : CellId := ⟨n % 16, Nat.mod_lt _ (by decide)⟩

/-- CHECK holds the CRC-16 of bytes 0-61 (R75). -/
def checkOk (b : List Byte) : Bool := bytesNat b 62 2 == (crc16 (b.take 62)).toNat

/-- The operand fields of a matrix command (Table 02-7). -/
structure MxDesc where
  mode : Nat
  fa : Nat
  fb : Nat
  fc : Nat
  stationary : Nat
  conj : Bool
  accInit : Bool
  addrA : Nat
  addrB : Nat
  addrC : Nat
  addrD : Nat
  addrS : Nat
  items : Nat
  m : Nat
  n : Nat
  k : Nat
  lda : Nat
  ldb : Nat
  ldc : Nat
  pshift : Nat
  oshift : Nat
  cmp : Nat
  b57top : Nat
  rqEn : Bool
  ofsEn : Bool
  rqTable : Nat
deriving DecidableEq, Repr

/-- The matrix fields of 64 descriptor bytes. -/
def mxOf (b : List Byte) : MxDesc :=
  let f (o n : Nat) := bytesNat b o n
  { mode := f 1 1, fa := f 2 1 % 16, fb := f 2 1 / 16, fc := f 3 1 % 16, stationary := bitsOf (f 3 1) 5 4
    conj := bitOf (f 3 1) 6, accInit := bitOf (f 3 1) 7
    addrA := f 20 4, addrB := f 24 4, addrC := f 28 4, addrD := f 32 4, addrS := f 36 4, items := f 40 4
    m := f 44 2, n := f 46 2, k := f 48 2, lda := 16 * f 50 2, ldb := 16 * f 52 2, ldc := 16 * f 54 2
    pshift := bitsOf (f 56 2) 3 0, oshift := bitsOf (f 56 2) 8 4, cmp := bitsOf (f 56 2) 11 9, b57top := f 57 1 / 16
    rqEn := bitOf (f 4 1) 2, ofsEn := bitOf (f 4 1) 3, rqTable := f 6 1 % 16 }

/-- The fields that vector and sequencer commands share (Tables 04-1, 05-5a). -/
structure ProgDesc where
  prog : Nat
  len : Nat
  items : Nat
  rdBase : Nat
  rdEnd : Nat
  wrBase : Nat
  wrEnd : Nat
  param : Nat
  irqVec : Nat
  irqEn : Bool
  excl : Bool
  resume : Bool
  saveAddr : Nat
deriving DecidableEq, Repr

/-- The program fields of 64 descriptor bytes; PARAM, IRQ_VEC, EXCL, RESUME and SAVE_ADDR as a sequencer command has them. -/
def progOf (b : List Byte) : ProgDesc :=
  let f (o n : Nat) := bytesNat b o n
  { prog := f 20 4, len := f 24 2, items := f 28 4, rdBase := f 32 4, rdEnd := f 36 4, wrBase := f 40 4, wrEnd := f 44 4
    param := f 48 4, irqVec := f 26 2, irqEn := bitOf (f 52 1) 0, excl := bitOf (f 52 1) 1, resume := bitOf (f 52 1) 2
    saveAddr := f 54 4 }

/-! ### Item lists (R77, R281) -/

/-- The items of a list whose bytes are given, count first; none for a list of count 0. -/
def itemsOf (count : Nat) (bs : List Byte) : List Item :=
  (List.range count).map fun i =>
    { first := bytesNat bs (8 * i) 2, count := bytesNat bs (8 * i + 2) 2, id := BitVec.ofNat 32 (bytesNat bs (8 * i + 4) 4) }

/-- Address of the result area of a list at a with count entries (R281). -/
def resultArea (a count : Nat) : Nat := alignUp (a + 4 + 8 * count) 16

/-- An item result of Table 09-7. -/
def itemResult (outcome : Byte) (rows : Nat) (time : Word) : List Byte :=
  [outcome, 0] ++ natLE 2 rows ++ natLE 4 time.toNat

/-! ### Queue entries (Table 09-1) -/

/-- The fields of a queue entry beside its descriptor. -/
structure EntryFields where
  readyAddr : Nat
  readyValue : Nat
  model : Nat
  affinity : Nat
  link : Bool
  pin : Bool
  cost : Nat
deriving DecidableEq, Repr

def entryOf (b : List Byte) : EntryFields :=
  { readyAddr := bytesNat b 64 8 % 2 ^ 40, readyValue := bytesNat b 72 8, model := bytesNat b 80 2, affinity := bytesNat b 82 1
    link := bitOf (bytesNat b 83 1) 0, pin := bitOf (bytesNat b 83 1) 1, cost := bytesNat b 84 4 }

/-- A completion record (Table 09-6). -/
def completionRecord (outcome : Byte) (opclass : Nat) (stall : Option StallId) (flags : Byte) (tag : Nat) (q : QueueId)
    (gen : Byte) (ac : Nat) (start : Option Int) (now : Int) (rows : Nat) : List Byte :=
  [outcome, BitVec.ofNat 8 opclass, (match stall with | some n => BitVec.ofNat 8 n.val | none => 0xFF), flags ||| 0x80]
    ++ natLE 2 tag ++ [BitVec.ofNat 8 q.val, gen] ++ natLE 4 ac
    ++ (match start with | some t => ptpBytes t | none => List.replicate 12 0)
    ++ natLE 4 (match start with | some t => (nsOf now - nsOf t).toNat | none => 0)
    ++ natLE 2 rows ++ [0, 0]

/-! ### DMA descriptors (Table 08-3) -/

/-- The fields of a DMA descriptor. -/
structure DmaDesc where
  op : Nat
  fence : Bool
  last : Bool
  b0top : Nat
  passId : Nat
  b1top : Nat
  rows : Nat
  len : Nat
  src : Nat
  dst : Nat
  srcPitch : Nat
  dstPitch : Nat
  next : Nat
deriving DecidableEq, Repr

def dmaOf (b : List Byte) : DmaDesc :=
  let f (o n : Nat) := bytesNat b o n
  { op := f 0 1 % 16, fence := bitOf (f 0 1) 4, last := bitOf (f 0 1) 5, b0top := f 0 1 / 64, passId := f 1 1 % 16
    b1top := f 1 1 / 16, rows := f 2 2, len := f 4 4, src := f 8 8, dst := f 16 8, srcPitch := 16 * f 24 2
    dstPitch := 16 * f 26 2, next := f 28 4 }

/-! ### Extents (R50) -/

/-- A set of bytes: rows of len bytes at a pitch. -/
structure Extent where
  base : Nat
  rows : Nat
  pitch : Nat
  len : Nat
deriving DecidableEq, Repr

/-- A plain range [lo, hi). -/
def rangeExtent (lo hi : Nat) : Extent := ⟨lo, 1, 0, hi - lo⟩

/-- First byte after the extent. -/
def Extent.stop (e : Extent) : Nat := if e.rows = 0 ∨ e.len = 0 then e.base else e.base + (e.rows - 1) * e.pitch + e.len

/-- The extent meets [lo, hi): the first row that ends after lo starts before hi. -/
def Extent.meetsRange (e : Extent) (lo hi : Nat) : Bool :=
  if e.rows = 0 ∨ e.len = 0 ∨ hi ≤ lo then false
  else
    let j := if e.pitch = 0 then 0 else if e.base + e.len ≤ lo then (lo - (e.base + e.len)) / e.pitch + 1 else 0
    let k := if e.pitch = 0 then (if lo < e.base + e.len then 0 else e.rows) else j
    decide (k < e.rows) && decide (e.base + k * e.pitch < hi)

/-- Two extents share a byte. -/
def Extent.meets (a b : Extent) : Bool :=
  if a.len = 0 then false
  else (List.range a.rows).any fun i => b.meetsRange (a.base + i * a.pitch) (a.base + i * a.pitch + a.len)

/-- Some extent of one list meets one of another. -/
def extentsMeet (a b : List Extent) : Bool := a.any fun x => b.any fun y => x.meets y

/-- What a command may read and write in its stall's memory (R50). -/
structure Extents where
  reads : List Extent
  writes : List Extent
deriving DecidableEq, Repr

/-- The two commands may not run together: the write extent of one meets an extent of the other (R50). -/
def Extents.conflict (a b : Extents) : Bool :=
  extentsMeet a.writes b.reads || extentsMeet a.writes b.writes || extentsMeet b.writes a.reads

end Sys2Proof.Machine
end

