-- ==== Sys2Proof/Machine/Tables.lean ====
section
/-! DEFINITION. The standard function tables (R126) computed from their definition in 320-bit fixed point, and the methods of the
standard and loadable functions (R125, R128). Log entry 14. -/
namespace Sys2Proof.Machine

/-! ### Real functions in fixed point: an integer stands for itself × 2^-320 -/

def fxOne : Int := 2 ^ 320

def fxMul (a b : Int) : Int := a * b / fxOne

def fxDiv (a b : Int) : Int := a * fxOne / b

/-- n / d. -/
def fxRat (n : Int) (d : Nat) : Int := n * fxOne / d

/-- Artanh series of x, |x| ≤ 1/3. -/
def fxAtanh (x : Int) : Int :=
  let x2 := fxMul x x
  ((List.range 110).foldl (fun s k => (s.1 + s.2 / ((2 * k + 1 : Nat) : Int), fxMul s.2 x2)) ((0 : Int), x)).1

/-- ln(1 + u) for 0 ≤ u ≤ 1. -/
def fxLn1p (u : Int) : Int := 2 * fxAtanh (fxDiv u (2 * fxOne + u))

def fxLn2 : Int := fxLn1p fxOne

/-- e^x for |x| ≤ 64: x / 2^12 by its series, squared 12 times. -/
def fxExp (x : Int) : Int :=
  let y := x / 4096
  let e := ((List.range 40).foldl (fun s k => (s.1 + s.2, fxMul s.2 y / ((k + 1 : Nat) : Int))) ((0 : Int), fxOne)).1
  (List.range 12).foldl (fun a _ => fxMul a a) e

/-- 1 / (1 + e^-x). -/
def fxSigmoid (x : Int) : Int := fxDiv fxOne (fxOne + fxExp (-x))

/-- tanh x, x ≥ 0. -/
def fxTanh (x : Int) : Int := let e := fxExp (-2 * x); fxDiv (fxOne - e) (fxOne + e)

/-- ln(1 + e^x). -/
def fxSoftplus (x : Int) : Int := if 0 < x then x + fxLn1p (fxExp (-x)) else fxLn1p (fxExp x)

/-- The integer part of a square root, bit by bit, of numbers below 2^(2 bits). -/
def isqrtBits (bits v : Nat) : Nat :=
  (List.range bits).foldl (fun r i => let t := r + 2 ^ (bits - 1 - i); if t * t ≤ v then t else r) 0

/-- 1 / sqrt(2 pi). -/
def fxInvSqrt2Pi : Int :=
  -- pi by Machin: 16 artan(1/5) - 4 artan(1/239)
  let atan (n : Nat) : Int :=
    ((List.range 150).foldl (fun s k =>
      ((if k % 2 = 0 then s.1 + s.2 / ((2 * k + 1 : Nat) : Int) else s.1 - s.2 / ((2 * k + 1 : Nat) : Int)),
        s.2 / ((n * n : Nat) : Int))) ((0 : Int), fxOne / (n : Int))).1
  let twoPi := 32 * atan 5 - 8 * atan 239
  (isqrtBits 321 (fxDiv fxOne twoPi * fxOne).toNat : Int)

/-- The normal density. -/
def fxPhi (x : Int) : Int := fxMul fxInvSqrt2Pi (fxExp (-(fxMul x x / 2)))

/-- The normal distribution function, |x| ≤ 8. -/
def fxPhiInt (x : Int) : Int :=
  let x2 := fxMul x x
  let s := ((List.range 260).foldl (fun s k => (s.1 + s.2, fxMul s.2 x2 / ((2 * k + 3 : Nat) : Int))) ((0 : Int), x)).1
  fxOne / 2 + fxMul (fxPhi x) s

/-- The tabulated function of slots 2-7 and its derivative, at end j of a segment (R126). -/
def fxEnd (slot j : Nat) : Int × Int :=
  match slot with
  | 2 =>
    let v := fxExp (fxMul (fxRat j 256) fxLn2)
    (v, fxMul v fxLn2)
  | 3 =>
    let m := fxOne + fxRat j 256
    (fxDiv (fxLn1p (fxRat j 256)) fxLn2, fxDiv fxOne (fxMul m fxLn2))
  | 4 =>
    let v := fxSigmoid (fxRat ((j : Int) - 128) 8)
    (v, fxMul v (fxOne - v))
  | 5 =>
    let v := fxTanh (fxRat j 16)
    (v, fxOne - fxMul v v)
  | 6 =>
    let x := fxRat ((j : Int) - 128) 8
    (fxSoftplus x, fxSigmoid x)
  | _ =>
    let x := fxRat ((j : Int) - 128) 16
    (fxPhiInt x, fxPhi x)

/-- Segments per unit of the argument (Table 04-6). -/
def segInv : Nat → Nat
  | 2 => 256 | 3 => 256 | 4 => 8 | 5 => 16 | 6 => 8 | _ => 16

/-- A fixed-point number rounded once to FP32 under RNA. -/
def fxRound (x : Int) : Word := fw (fp32.round (decide (x < 0)) x.natAbs (2 ^ 320))

/-- Coefficient i of entry j of a standard table (R126). -/
def stdCoef (slot j i : Nat) : Word :=
  match slot with
  | 0 => if i = 0 then fw (fp32.round false 512 (513 + 2 * j)) else 0
  | 1 =>
    if i = 0 then fxRound (isqrtBits 321 ((2 ^ 640 * 512) / (515 + 6 * j)) : Int) else 0
  | _ =>
    if 8 ≤ slot then 0 else
      let a := fxEnd slot j
      let b := fxEnd slot (j + 1)
      let w : Int := segInv slot
      let p0 := a.1; let p1 := b.1; let m0 := a.2 / w; let m1 := b.2 / w
      fxRound (match i with
        | 0 => p0
        | 1 => m0
        | 2 => 3 * (p1 - p0) - 2 * m0 - m1
        | _ => 2 * (p0 - p1) + m0 + m1)

/-- log2 e rounded to 63 fraction bits (Table 04-6, EXP). -/
def expL : Int := (fxDiv fxOne fxLn2 / 2 ^ 256 + 1) / 2

/-! ### Evaluation (R125) -/

/-- A table of the active bank: entry and coefficient to word. -/
abbrev FnTable := Nat → Nat → Nat → Word

/-- Horner of R125: three multiply-add steps, each rounded once. -/
def horner (f : FnTable) (slot j : Nat) (t : Word) : Word :=
  ffma t (ffma t (ffma t (f slot j 3) (f slot j 2)) (f slot j 1)) (f slot j 0)

/-- w × 2^k, rounded once where it leaves the range; beyond ±512 every exponent rounds alike, so k is cut there. -/
def fscale (w : Word) (k : Int) : Word :=
  match fv w with
  | .fin n m e => let d := (Fp.fin n m e).dyadic; fw (fp32.ofDyadic n d.1 (d.2 + clampInt (-512) 512 k))
  | _ => w

/-- Floor and remainder (num/2^sh) of a dyadic scaled by 2^up: (j, t as FP32 rounded once). -/
def segOf (d : Int × Int) : Int × Word :=
  if 0 ≤ d.2 then (d.1 * 2 ^ d.2.toNat, 0)
  else
    let den : Nat := 2 ^ (-d.2).toNat
    (d.1 / (den : Int), fw (fp32.round false (d.1 % (den : Int)).toNat den))

/-- x = m × 2^e with m in [1, 2), for a positive dyadic: (mantissa over 2^23, e). -/
def norm2 (d : Int × Int) : Nat × Int :=
  let l := Nat.log2 d.1.natAbs
  (d.1.natAbs * 2 ^ (23 - l), d.2 + l)

/-- RCP (slot 0); a NaN that a loaded seed makes is the canonical one (R83). -/
def fnRcp (f : FnTable) (x : Word) : Word :=
  match fv x with
  | .nan => fnan
  | .inf n => if n then 0x80000000 else 0
  | .fin n m e =>
    if m = 0 then finf n else
      let q := norm2 ((m : Int), e)
      let mw := fw (fp32.round false q.1 (2 ^ 23))
      let step (y : Word) := fmul y (ffma (fneg mw) y 0x40000000)
      let y := step (step (f 0 ((q.1 - 2 ^ 23) / 2 ^ 15) 0))
      let r := fscale y (-q.2)
      if n then fneg r else r

/-- RSQRT (slot 1). -/
def fnRsqrt (f : FnTable) (x : Word) : Word :=
  match fv x with
  | .nan => fnan
  | .inf n => if n then fnan else 0
  | .fin n m e =>
    if m = 0 then finf n else if n then fnan else
      let q := norm2 ((m : Int), e)
      let odd := q.2 % 2 ≠ 0
      let mant := if odd then 2 * q.1 else q.1
      let ex := if odd then q.2 - 1 else q.2
      let mw := fw (fp32.round false mant (2 ^ 23))
      let h := fmul 0x3F000000 mw
      let step (y : Word) := fmul y (ffma (fneg (fmul h y)) y 0x3FC00000)
      let y := step (step (f 1 ((mant - 2 ^ 23) * 256 / (3 * 2 ^ 23)) 0))
      fscale y (-(ex / 2))

/-- EXP (slot 2). -/
def fnExp (f : FnTable) (x : Word) : Word :=
  match fv x with
  | .nan => fnan
  | .inf n => if n then 0 else 0x7F800000
  | v =>
    if v.isZero then 0x3F800000 else
      let d := v.dyadic
      let p := d.1 * expL
      -- p × 2^(d.2 - 63) floored to 48 fraction bits
      let sh := d.2 - 63 + 48
      let g : Int := if 0 ≤ sh then p * 2 ^ sh.toNat else p / 2 ^ (-sh).toNat
      let k := g / 2 ^ 48
      let fr := (g % 2 ^ 48).toNat
      let t := fw (fp32.round false (fr % 2 ^ 40) (2 ^ 40))
      fscale (horner f 2 (fr / 2 ^ 40) t) k

/-- w × ln 2, the exact product rounded once. -/
def mulLn2 (w : Word) : Word :=
  match fv w with
  | .fin n m e =>
    if m = 0 then w else
      let t := pow2 e
      fw (fp32.round n (m * t.1 * fxLn2.toNat) (t.2 * 2 ^ 320))
  | _ => w

/-- LOG (slot 3). -/
def fnLog (f : FnTable) (x : Word) : Word :=
  match fv x with
  | .nan => fnan
  | .inf n => if n then fnan else 0x7F800000
  | .fin n m e =>
    if m = 0 then 0xFF800000 else if n then fnan else
      let q := norm2 ((m : Int), e)
      let fr := q.1 - 2 ^ 23
      let t := fw (fp32.round false (fr % 2 ^ 15) (2 ^ 15))
      mulLn2 (fadd (intToF q.2) (horner f 3 (fr / 2 ^ 15) t))

/-- Horner of a function of slots 4, 6 or 7 at c (x + a), c segments a unit. -/
def fnSeg (f : FnTable) (slot : Nat) (c a : Int) (d : Int × Int) : Word :=
  let u := dyMul (c, 0) (dyAdd d (a, 0))
  let s := segOf u
  horner f slot s.1.toNat s.2

/-- The value of a finite x compared with an integer: x < n. -/
def dyLt (d : Int × Int) (n : Int) : Bool := decide ((dyAdd d (-n, 0)).1 < 0)

/-- SIGMOID (slot 4). -/
def fnSigmoid (f : FnTable) (x : Word) : Word :=
  match fv x with
  | .nan => fnan
  | .inf n => if n then 0 else 0x3F800000
  | v =>
    let d := v.dyadic
    if v.isZero then 0x3F000000
    else if dyLt d (-16) then fnExp f x
    else if dyLt d 16 then fnSeg f 4 8 16 d
    else 0x3F800000

/-- TANH (slot 5). -/
def fnTanh (f : FnTable) (x : Word) : Word :=
  match fv x with
  | .nan => fnan
  | .inf n => if n then 0xBF800000 else 0x3F800000
  | .fin n m e =>
    if m = 0 then x else
      let d : Int × Int := ((m : Int), e)
      let r := if dyLt d 16 then
          let s := segOf (dyMul (16, 0) d)
          horner f 5 s.1.toNat s.2
        else 0x3F800000
      if n then fneg r else r

/-- SOFTPLUS (slot 6). -/
def fnSoftplus (f : FnTable) (x : Word) : Word :=
  match fv x with
  | .nan => fnan
  | .inf n => if n then 0 else 0x7F800000
  | v =>
    let d := v.dyadic
    if v.isZero then fxRound fxLn2
    else if dyLt d (-16) then fnExp f x
    else if dyLt d 16 then fnSeg f 6 8 16 d
    else x

/-- GELU (slot 7). -/
def fnGelu (f : FnTable) (x : Word) : Word :=
  match fv x with
  | .nan => fnan
  | .inf n => if n then 0 else 0x7F800000
  | v =>
    let d := v.dyadic
    if v.isZero then 0
    else if dyLt d (-8) then 0
    else if dyLt d 8 then fmul x (fnSeg f 7 16 8 d)
    else x

/-- A header word as a result: a NaN is the canonical one (R83). -/
def fnWord (w : Word) : Word := if (fv w).isNan then fnan else w

/-- A loadable slot (R128). -/
def fnLoaded (f : FnTable) (slot : Nat) (x : Word) : Word :=
  let lo := f slot 255 0
  let scl := (f slot 255 1).toInt
  if scl < -126 ∨ 126 < scl then fnan
  else if (fv x).isNan then fnan
  else
    let df := fsub x lo
    if (fv df).isNan then fnan else
      let u := fscale df scl
      match fv u with
      | .nan => fnan
      | .inf n => fnWord (f slot 255 (if n then 2 else 3))
      | v =>
        let d := v.dyadic
        if d.1 < 0 then fnWord (f slot 255 2)
        else if dyLt d 255 then let s := segOf d; horner f slot s.1.toNat s.2
        else fnWord (f slot 255 3)

/-- Function slot s of x (R124, R125, R128). -/
def fnEval (f : FnTable) (s : Nat) (x : Word) : Word :=
  match s with
  | 0 => fnRcp f x
  | 1 => fnRsqrt f x
  | 2 => fnExp f x
  | 3 => fnLog f x
  | 4 => fnSigmoid f x
  | 5 => fnTanh f x
  | 6 => fnSoftplus f x
  | 7 => fnGelu f x
  | n => fnLoaded f n x

end Sys2Proof.Machine
end

