-- ==== Sys2Proof/Machine/Windows.lean ====
section
/-! DEFINITION. Stall and broadcast windows (R441-R443): the stalls that a write reaches. -/
namespace Sys2Proof.Machine

/-- The stalls of a window, lowest first. -/
def Window.stalls : Window → List StallId
  | .stall n => [n]
  | .group g => (List.finRange 64).filter fun n => n.val / 8 == g.val
  | .all => List.finRange 64

/-- A write through a window: f at every stall of the window whose domain is on (R442, R443). -/
def State.overWindow (s : State) (w : Window) (f : State → StallId → State) : State :=
  ((Window.stalls w).filter fun n => s.domainOn n.val).foldl f s

end Sys2Proof.Machine
end

