-- ==== Sys2Proof/Machine/Fabric.lean ====
section
/-! DEFINITION. What the fabric reaches of register space (R227, R443): the function and requantisation stores of the stalls (R96, R97,
R131, R132) and the history post windows (R203). -/
namespace Sys2Proof.Machine

/-! ### The stores of a stall -/

/-- What an unwritten word of a function bank holds: a coefficient of a standard table where Hall has loaded them (R126), 0
otherwise (R132). -/
def sfDefault (std : Bool) (key : Nat) : Word :=
  if std ∧ key % 0x4000 / 0x400 < 8 then stdCoef (key % 0x4000 / 0x400) (key % 0x400 / 4) (key % 4) else 0

/-- A word of the function store. -/
def Stall.sfWord (x : Stall) (bank : Bool) (key : Nat) : Word :=
  sget (sfDefault (vget x.sfStd (bankIx bank)) key) x.sfTable (0x4000 * bitNat bank + key)
where
  bankIx (b : Bool) : Fin 2 := if b then 1 else 0

/-- A 32-bit write at offset off (8000h-FFFFh) of a stall's block: ignored and counted where it reaches the active bank (R96). -/
def Stall.rqWrite (x : Stall) (off : Nat) (v : Word) : Stall :=
  let a := off / 4 * 4
  if a < 0x8000 ∨ 0x10000 ≤ a then x
  else if decide (0xC000 ≤ a) = x.rqActive then x.add .tableWriteRefused 1
  else { x with rqTable := memWrite x.rqTable (a - 0x8000) (natLE 4 v.toNat) }

/-- A 32-bit read there (R96). -/
def Stall.rqRead (x : Stall) (off : Nat) : Word := BitVec.ofNat 32 (memNat x.rqTable (off / 4 * 4 - 0x8000) 4)

/-- Bank and key of offset off (0-FFFh) of the function window, as SF_WIN shows it. -/
def Stall.sfKey (x : Stall) (off : Nat) : Bool × Nat :=
  (x.sfWin.getLsbD 4, 0x400 * (x.sfWin.toNat % 16) + off / 4 % 0x400)

/-- A 32-bit write to the function window: ignored and counted where the bank shown is active (R131). -/
def Stall.sfWrite (x : Stall) (off : Nat) (v : Word) : Stall :=
  let k := x.sfKey off
  if k.1 = x.sfActive then x.add .tableWriteRefused 1
  else { x with sfTable := sput (sfDefault (vget x.sfStd (if k.1 then 1 else 0)) k.2) x.sfTable (0x4000 * bitNat k.1 + k.2) v }

/-- A 32-bit read there. -/
def Stall.sfRead (x : Stall) (off : Nat) : Word := let k := x.sfKey off; x.sfWord k.1 k.2

/-- A write to RQ_BANK: a 1 in TABLE_SWAP requests a swap (R97). -/
def Stall.rqSwap (x : Stall) (v : Word) : Stall := { x with rqPending := x.rqPending || wbit v 2 }

/-- A write to SF_BANK: a 1 in SF_SWAP requests a swap (R132). -/
def Stall.sfSwap (x : Stall) (v : Word) : Stall := { x with sfPending := x.sfPending || wbit v 2 }

def State.modHist (s : State) (f : Hist → Hist) : State := { s with hist := f s.hist }

/-! ### Posting (R203) -/

/-- A request reaches the window of a class: queued, dropped silently while the unit is off, or dropped and reported at a full
ring. -/
def State.histPost (s : State) (cls : Fin 3) (hall : Bool) (bytes : List Byte) : State :=
  if !s.hist.en then s
  else if 128 ≤ (vget s.hist.rings cls).length then
    (s.devInc .hcPostDrop).raise 0x0701 (evtSource 0 0) ([BitVec.ofNat 8 cls.val, 0] ++ natLE 2 (bytesNat bytes 28 2))
  else s.modHist fun h => { h with rings := vmod h.rings cls fun l => l ++ [⟨bytes, hall, s.now⟩] }

/-- The class of the post window at a fabric address (R203). -/
def postWindow (a : Nat) : Option (Fin 3) :=
  if a = 0x01E01000 then some 0 else if a = 0x01E01020 then some 1 else if a = 0x01E01040 then some 2 else none

/-- n free bytes (log entry 5). -/
def State.freeBytes (s : State) (n : Nat) : List Byte :=
  (List.range n).map fun i => (s.freeBits (i / 8) >>> (8 * (i % 8))).setWidth 8

/-! ### Fabric accesses to register space (R227, R443) -/

/-- The window of a stall or broadcast address and the offset in the block. -/
def stallWindow (a : Nat) : Option (Window × Nat) :=
  if 0x01000000 ≤ a ∧ a < 0x01400000 then some (.stall (stallOf ((a - 0x01000000) / 0x10000)), a % 0x10000)
  else if 0x01400000 ≤ a ∧ a < 0x01410000 then some (.all, a % 0x10000)
  else if h : 0x01410000 ≤ a ∧ a < 0x01490000 then some (.group ⟨(a - 0x01410000) / 0x10000, by omega⟩, a % 0x10000)
  else none

/-- Offsets of a stall's block that the fabric reaches (Table 08-1). -/
def fabricOffset (o : Nat) : Bool :=
  o == 0x300 || o == 0x404 || o == 0x408 || (decide (0x4000 ≤ o) && decide (o < 0x5000)) || decide (0x8000 ≤ o)

/-- A 32-bit write to one of them. -/
def Stall.fabricWrite (x : Stall) (o : Nat) (v : Word) : Stall :=
  if o = 0x300 then x.rqSwap v
  else if o = 0x404 then x.sfSwap v
  else if o = 0x408 then { x with sfWin := v.setWidth 5 }
  else if o < 0x5000 then x.sfWrite (o - 0x4000) v
  else x.rqWrite o v

/-- A 32-bit read of one of them. -/
def Stall.fabricRead (x : Stall) (o : Nat) : Word :=
  if o = 0x300 then packWord [(bitNat x.rqPending, 1), (bitNat x.rqActive, 0)]
  else if o = 0x404 then packWord [(bitNat x.sfPending, 1), (bitNat x.sfActive, 0)]
  else if o = 0x408 then x.sfWin.setWidth 32
  else if o < 0x5000 then x.sfRead (o - 0x4000)
  else x.rqRead o

/-- The words of an access. -/
def wordAddrs (a len : Nat) : List Nat := (List.range (ceilDiv len 4)).map fun i => a / 4 * 4 + 4 * i

/-- An access reaches a register that the fabric reaches. -/
def fabricReaches (a len : Nat) : Bool := (wordAddrs a len).any fun w => (stallWindow w).any fun p => fabricOffset p.2

/-- A write to register space: a request to a history post window, or words to the stalls' tables; none where it reaches
neither. -/
def State.fabricWrite (s : State) (a : Nat) (bs : List Byte) : Option State :=
  match postWindow a with
  | some c => if bs.length = 32 then some (s.histPost c false bs) else none
  | none =>
    if fabricReaches a bs.length then
      some ((wordAddrs a bs.length).zipIdx.foldl (fun s p =>
        match stallWindow p.1 with
        | some (w, o) =>
          if fabricOffset o then s.overWindow w fun s n => s.modStall n fun x => x.fabricWrite o (BitVec.ofNat 32 (bytesNat bs (4 * p.2) 4))
          else s
        | none => s) s)
    else none

/-- A read of register space; a broadcast window reads its lowest stall (R443). What a post window reads as the spec does not say: free
(log entry 5). -/
def State.fabricRead (s : State) (a len : Nat) : Option (List Byte) :=
  if (postWindow (a / 32 * 32)).isSome ∧ (a + len - 1) / 32 = a / 32 then some (s.freeBytes len)
  else if fabricReaches a len then
    some (((wordAddrs a len).flatMap fun w => match stallWindow w with
      | some (v, o) =>
        if fabricOffset o then
          match Window.stalls v with
          | n :: _ => if s.domainOn n.val then natLE 4 ((s.stall n).fabricRead o).toNat else [0, 0, 0, 0]
          | [] => [0, 0, 0, 0]
        else [0, 0, 0, 0]
      | none => [0, 0, 0, 0]).take len)
  else none

/-- An uncorrectable read from DRAM (R238). -/
def State.dramUe (s : State) (a : Nat) : State :=
  let off := a - dramBase
  ({ s.devInc .dramUe with fab := { s.fab with ueAddr := BitVec.ofNat 32 (off / 8) } }).raise 0x0502 (evtSource 0 0) (natLE 8 off)

/-- A read by an agent other than a DMA, register space included (R227). -/
def State.fabricGet (s : State) (src : Source) (a len : Nat) : List Byte × State :=
  match placeOf a len with
  | .register o => ((s.fabricRead o len).getD (List.replicate len 0), s)
  | _ => s.agentRead src a len

/-- A write by an agent other than a DMA, register space included (R227). -/
def State.fabricPut (s : State) (src : Source) (a : Nat) (bs : List Byte) : State :=
  match placeOf a bs.length with
  | .register o => (s.fabricWrite o bs).getD s
  | _ => s.agentWrite src a bs

end Sys2Proof.Machine
end

