-- ==== Sys2Proof/WellFormed.lean ====
section
/-! DEFINITION. Which commands can be given: operands within what the fields that carry them on the wire, in a register or in
an instruction word can hold. A meaning is defined on every command; nothing outside this predicate can reach the device. -/
namespace Sys2Proof

/-- Soft values are listed at rising positions, once each. -/
def HarqTx.ok (t : HarqTx) : Bool := decide (t.llrs.Pairwise fun a b => a.1 < b.1)

/-- A PRB of a U-plane section has 12 resource elements of two components each (R289). -/
def UPrb.ok (p : UPrb) : Bool := p.comps.length == 24 && decide (p.exponent < 16)

/-- A section announces at least the PRBs that are present. -/
def USection.ok (u : USection) : Bool :=
  decide (u.prbs.length ≤ u.prbCount) && decide (u.bfpWidth ≤ 16) && u.prbs.all UPrb.ok

/-- The header fields of a U-plane packet within their widths (Table 10-2). -/
def UplaneFrame.ok (f : UplaneFrame) : Bool :=
  decide (f.payloadVersion < 8) && decide (f.subframeId < 16) && decide (f.slotId < 64) && decide (f.symbol < 64)
    && f.sections.all USection.ok

/-- A grant lies in 273 PRBs and 14 symbols (R290). -/
def Grant.ok (g : Grant) : Bool := decide (g.prbStart + g.prbCount ≤ 273) && decide (g.symFirst + g.symCount ≤ 14)

/-- A history request is one aligned 32-byte write (R203). -/
def HcPost.ok : HcPost → Bool
  | .posted _ req => req.length == 32
  | .served => true

/-- A remote write carries its data, a read none (R385). -/
def RemoteRequest.ok (r : RemoteRequest) : Bool := if r.write then r.length == r.bytes.length else r.bytes.isEmpty

/-- Data words of a register-access request are whole (R423). -/
def wholeWords (data : List Byte) : Bool := data.length % 4 == 0

/-- The 51 lifting sizes of 38.212 (R156; PRESUMED, log entry 26): a × 2^j for the odd parts of its table, up to 384. -/
def liftingSizes : List Nat :=
  [2, 3, 5, 7, 9, 11, 13, 15].flatMap fun a => ((List.range 8).map fun j => a * 2 ^ j).filter fun z => decide (z ≤ 384)

/-- Layers (uplink 1-4, downlink 1-8), bits per symbol and Z as the device supports them (R156, R165, R186, R187). -/
def CostShape.ok : CostShape → Bool
  | .uplink _ q layers _ _ _ code => decide (1 ≤ q) && decide (q ≤ 10) && decide (1 ≤ layers) && decide (layers ≤ 4) && match code with
    | .ldpc _ z _ => liftingSizes.contains z
    | .polar n _ _ => decide (1 ≤ n) && decide (n ≤ 1024)
  | .downlink _ layers => decide (1 ≤ layers) && decide (layers ≤ 8)
  | .other _ => true

/-- A transport block of some bits, whose modulation and layers the device supports (R156). -/
def SchTx.ok (t : SchTx) : Bool :=
  decide (8 ≤ t.tbs.toNat) && t.tbs.toNat % 8 == 0 && [1, 2, 4, 6, 8, 10].contains t.qBits && decide (1 ≤ t.layers) && decide (t.layers ≤ 8)
    && decide (t.rate < 2048)

def UnitDesc.ok (u : UnitDesc) : Bool := u.tx.all SchTx.ok

def AllocDesc.ok (a : AllocDesc) : Bool := a.tx.all SchTx.ok

/-- Parts of a UCI code word within what Table 06-8 holds (R173). -/
def UciWord.ok (w : UciWord) : Bool :=
  decide (w.ack ≤ 1706) && decide (w.csi1 ≤ 1706) && decide (w.csi2 ≤ 1706) && decide (w.ack + w.sr + w.csi1 + w.csi2 ≤ 1706)
    && (decide (w.format.toNat ≤ 4) || w.format == 8)

/-- The fields of Tables 06-9 and 06-10 within their ranges. -/
def PrachScan.ok (p : PrachScan) : Bool := decide (p.peaks.length ≤ 64) && p.peaks.all fun x => decide (x.ta ≤ 3846)

def SrsReport.ok (r : SrsReport) : Bool :=
  [1, 2, 4].contains r.ports && [2, 4, 8].contains r.comb && [1, 2, 4, 8, 16].contains r.group
    && r.groups.length == (r.prbCount + r.group - 1) / r.group

def BlockResult.ok : BlockResult → Bool
  | .uci _ _ w => w.ok
  | .prach _ p => p.ok
  | .srs _ r => r.ok
  | _ => true

/-- The well-formed commands. -/
def wellFormed : Instr → Bool
  | .commandCompletion _ _ _ _ _ results => results.all BlockResult.ok
  | .planRelease _ units allocs => units.all UnitDesc.ok && allocs.all AllocDesc.ok
  | .itemBudgetExpiry _ _ _ _ blocks => blocks.all fun b => b.shape.ok
  | .plausibilityVerdict b _ => b.shape.ok
  | .verdictTimeout b => b.shape.ok
  | .mirrorReceive i => match i with
    | .harqPage _ _ _ _ _ _ t => t.ok
    | _ => true
  | .seqLoop _ b count => decide (1 ≤ b) && decide (b ≤ 256) && decide (count < 65536)
  | .seqLoopx _ b _ => decide (1 ≤ b) && decide (b ≤ 256)
  | .seqAsh _ _ k => decide (-64 < k) && decide (k < 64)
  | .seqSta _ _ src _ => decide (src ≤ 47)
  | .seqSta2 _ _ src _ => decide (src ≤ 47)
  | .seqSta4 _ src _ => decide (src ≤ 47)
  | .fetch p => p.ok
  | .append p => p.ok
  | .attach p => p.ok
  | .detach p => p.ok
  | .clone p => p.ok
  | .prefixWrite p => p.ok
  | .migrate p => p.ok
  | .uplaneReceive _ f => f.ok
  | .cplaneLaunch _ _ grants _ _ => grants.all Grant.ok
  | .valleyRemoteRequest _ r => r.ok
  | .thermalSample stalls others => stalls.length == 64 && others.length == 16
  | .pfcPauseReceive _ _ quanta => decide (quanta < 65536)
  | .write _ _ _ data => wholeWords data
  | .writeSame _ _ _ data => wholeWords data
  | _ => true

end Sys2Proof
end

