-- ==== Sys2Proof/Machine/Nr.lean ====
section
/-! DEFINITION. What R164-R185 take from 38.211 and 38.212: CRCs, the scrambling sequence, constellations, segmentation and rate matching
of LDPC. The spec names these standards and does not quote them; the formulae are PRESUMED from them, and their large tables are opaque
(log entry 27). -/
namespace Sys2Proof.Machine

/-! ### CRCs (R182) -/

/-- A CRC: its length L and the terms of its generator below x^L. -/
structure CrcKind where
  len : Nat
  poly : Nat
deriving DecidableEq, Repr

def crc24a : CrcKind := ⟨24, 0x864CFB⟩
def crc24b : CrcKind := ⟨24, 0x800063⟩
def crc24c : CrcKind := ⟨24, 0xB2B117⟩
def crcSixteen : CrcKind := ⟨16, 0x1021⟩
def crcEleven : CrcKind := ⟨11, 0x621⟩
def crcSix : CrcKind := ⟨6, 0x21⟩

/-- A remainder after one more message bit, from a zero state. -/
def CrcKind.bit (c : CrcKind) (r : Nat) (b : Bool) : Nat :=
  let up := r * 2 % 2 ^ c.len
  if bitOf r (c.len - 1) != b then Nat.xor up c.poly else up

/-- The remainder of a chunk, first bit highest. -/
def CrcKind.chunk (c : CrcKind) (m : List Bool) : Nat := m.foldl c.bit 0

/-- A remainder followed by n zero bits: the product with the shift matrix of n (R182 step 3). -/
def CrcKind.shift (c : CrcKind) (n r : Nat) : Nat := (List.replicate n false).foldl c.bit r

/-- Chunks of n bits, in order. -/
def chunksOf {α : Type} (n : Nat) : Nat → List α → List (List α)
  | 0, _ => []
  | k + 1, l => l.take n :: chunksOf n k (l.drop n)

/-- Remainders of neighbouring runs of so many chunks joined pairwise. -/
def CrcKind.join (c : CrcKind) (run : Nat) : List Nat → List Nat
  | a :: b :: t => Nat.xor (c.shift (2048 * run) a) b :: c.join run t
  | l => l

/-- Levels of joins. -/
def CrcKind.levels (c : CrcKind) : Nat → Nat → List Nat → Nat
  | 0, _, l => l.headD 0
  | k + 1, run, l => c.levels k (2 * run) (c.join run l)

/-- The remainder of a message by R182's method: prefixed with zeros to chunks of 2 048 bits, whose remainders are joined pairwise. Zero
chunks ahead of the message, which change nothing, make the joined runs of a level equally long. -/
def CrcKind.rem (c : CrcKind) (m : List Bool) : Nat :=
  let chunks := ceilDiv m.length 2048
  let k := if chunks ≤ 1 then 0 else Nat.log2 (chunks - 1) + 1
  let all := List.replicate (2048 * 2 ^ k - m.length) false ++ m
  c.levels k 1 ((chunksOf 2048 (2 ^ k) all).map c.chunk)

/-- A number as n bits, highest first. -/
def bitsHigh (n v : Nat) : List Bool := (List.range n).map fun i => bitOf v (n - 1 - i)

/-- The number that bits spell, highest first. -/
def bitsValue (m : List Bool) : Nat := m.foldl (fun v b => 2 * v + bitNat b) 0

/-- A message with its CRC attached. -/
def CrcKind.attach (c : CrcKind) (m : List Bool) : List Bool := m ++ bitsHigh c.len (c.rem m)

/-- A message with its CRC checks. -/
def CrcKind.check (c : CrcKind) (m : List Bool) : Bool :=
  decide (c.len ≤ m.length) && c.rem (m.take (m.length - c.len)) == bitsValue (m.drop (m.length - c.len))

/-- Bits as bytes, the first bit in the bit of a byte that `place` gives it. -/
def bitsBytes (place : Nat → Nat) (m : List Bool) : List Byte :=
  (List.range (ceilDiv m.length 8)).map fun i =>
    BitVec.ofNat 8 (((m.drop (8 * i)).take 8).zipIdx.foldl (fun v p => v + bitNat p.1 * 2 ^ place p.2) 0)

/-- Bytes as bits, the first bit in bit 7 of a byte, as a MAC PDU has them. -/
def bytesBits (l : List Byte) : List Bool := l.flatMap fun b => bitsHigh 8 b.toNat

/-! ### Scrambling (R164, R185) -/

/-- One step of the two shift registers of the Gold sequence. -/
def goldStep (x : BitVec 31 × BitVec 31) : BitVec 31 × BitVec 31 :=
  let a := x.1.getLsbD 3 != x.1.getLsbD 0
  let b := ((x.2.getLsbD 3 != x.2.getLsbD 2) != x.2.getLsbD 1) != x.2.getLsbD 0
  ((x.1 >>> 1) ||| (if a then 1#31 <<< 30 else 0), (x.2 >>> 1) ||| (if b then 1#31 <<< 30 else 0))

/-- n steps. -/
def goldRun : Nat → BitVec 31 × BitVec 31 → BitVec 31 × BitVec 31
  | 0, x => x
  | n + 1, x => goldRun n (goldStep x)

/-- The next n bits of the sequence. -/
def goldBits : Nat → BitVec 31 × BitVec 31 → List Bool
  | 0, _ => []
  | n + 1, x => (x.1.getLsbD 0 != x.2.getLsbD 0) :: goldBits n (goldStep x)

/-- Bits first to first + n − 1 of the scrambling sequence with an initial state. -/
def scrambling (cInit : BitVec 31) (first n : Nat) : List Bool := goldBits n (goldRun (1600 + first) (1, cInit))

/-! ### Constellations (R159, R185) -/

/-- The level of an axis from its bits, in steps: the Gray code of 38.211. -/
def axisLevel : List Bool → Int
  | [] => 0
  | b :: bs => (if b then -1 else 1) * (((2 ^ bs.length : Nat) : Int) - axisLevel bs)

/-- Every q-th element from element k on. -/
def everyNth {α : Type} (q k : Nat) (l : List α) : List α := (l.zipIdx.filter fun p => p.2 % q == k).map (·.1)

/-- The symbol of q bits in steps of an axis: real from the even bits, imaginary from the odd ones; π/2-BPSK on the real axis after
de-rotation. -/
def symbolOf (bits : List Bool) : Int × Int :=
  if bits.length = 1 then (axisLevel bits, 0) else (axisLevel (everyNth 2 0 bits), axisLevel (everyNth 2 1 bits))

/-! ### Segmentation of LDPC (R165, R183) -/

/-- How a transport block is coded (38.212). -/
structure LdpcCode where
  bg1 : Bool
  z : Nat
  /-- Code blocks, information bits of each with its CRCs, and of each with filler bits. -/
  blocks : Nat
  kPrime : Nat
  k : Nat
  nCb : Nat
deriving DecidableEq, Repr

/-- Base graph 2 for a small block, or a low rate. -/
def usesBg1 (t : SchTx) : Bool :=
  !(decide (t.tbs.toNat ≤ 292) || (decide (t.tbs.toNat ≤ 3824) && decide (100 * t.rate ≤ 67 * 2048)) || decide (4 * t.rate ≤ 2048))

/-- The transport block's own CRC. -/
def tbCrc (bits : Nat) : CrcKind := if 3824 < bits then crc24a else crcSixteen

def ldpcCode (t : SchTx) : LdpcCode :=
  let a := t.tbs.toNat
  let b := a + (tbCrc a).len
  let bg1 := usesBg1 t
  let kcb := if bg1 then 8448 else 3840
  let c := if b ≤ kcb then 1 else ceilDiv b (kcb - 24)
  let kPrime := ceilDiv (if c = 1 then b else b + 24 * c) c
  let kb := if bg1 then 22 else if 640 < b then 10 else if 560 < b then 9 else if 192 < b then 8 else 6
  let z := (liftingSizes.filter fun z => decide (kPrime ≤ kb * z)).foldl min 384
  let n := (if bg1 then 66 else 50) * z
  { bg1 := bg1, z := z, blocks := c, kPrime := kPrime, k := (if bg1 then 22 else 10) * z
    nCb := if t.lbrm = 0 then n else min n (t.lbrm * 3 / (2 * c)) }

/-- The lifting-size set of Z. -/
def liftingSet (z : Nat) : Nat :=
  [2, 3, 5, 7, 9, 11, 13, 15].findIdx fun a => (List.range 8).any fun j => a * 2 ^ j == z

/-- Coded bits of each code block of a transport block. -/
def blockBits (t : SchTx) (c : LdpcCode) : List Nat :=
  let unit := t.layers * t.qBits
  let per := t.coded / unit
  (List.range c.blocks).map fun j => unit * (if j + per % c.blocks < c.blocks then per / c.blocks else ceilDiv per c.blocks)

/-! ### Rate matching of LDPC (R164, R185) -/

/-- A filler position of the circular buffer. -/
def LdpcCode.filler (c : LdpcCode) (p : Nat) : Bool := decide (c.kPrime - 2 * c.z ≤ p) && decide (p < c.k - 2 * c.z)

/-- k0 of a redundancy version. -/
def LdpcCode.start (c : LdpcCode) (rv : Fin 4) : Nat :=
  let num := if c.bg1 then [0, 17, 33, 56].getD rv.val 0 else [0, 13, 25, 43].getD rv.val 0
  num * c.nCb / ((if c.bg1 then 66 else 50) * c.z) * c.z

/-- The positions that bit selection visits in one round, from k0 on, without the fillers. -/
def LdpcCode.round (c : LdpcCode) (rv : Fin 4) : List Nat :=
  ((List.range c.nCb).map fun j => (c.start rv + j) % c.nCb).filter fun p => !c.filler p

/-- The circular-buffer position of each of e transmitted bits, in transmission order: the bit interleaver reads q rows column by
column. -/
def LdpcCode.positions (c : LdpcCode) (rv : Fin 4) (q e : Nat) : List Nat :=
  let r := c.round rv
  (List.range e).map fun k =>
    let i := k % q * (e / q) + k / q
    r.getD (if r.length = 0 then 0 else i % r.length) 0

end Sys2Proof.Machine
end

