-- ==== Sys2Proof/Machine/Detect.lean ====
section
/-! DEFINITION. Detection in distance mode and the LLRs of a code block (R159-R163). Log entry 27 names the readings. -/
namespace Sys2Proof.Machine

/-- Amplitude of one step of a constellation's axis (Table 06-2). -/
def detectStep (q : Nat) : Int := if q = 1 then 90 else if q = 2 then 64 else if q = 4 then 24 else if q = 6 then 16 else 8

/-- The detection groups allowed (Table 06-2). -/
def groupAllowed (q g : Nat) : Bool :=
  (q == 1 && g == 1) || (q == 2 && (g == 1 || g == 2 || g == 4)) || (q == 4 && (g == 1 || g == 2)) || (q == 6 && g == 1) || (q == 8 && g == 1)

/-- A complex product. -/
def cmulInt (a b : Int × Int) : Int × Int := (a.1 * b.1 - a.2 * b.2, a.1 * b.2 + a.2 * b.1)

/-- A row times a vector of complex numbers. -/
def cdot (row v : List (Int × Int)) : Int × Int :=
  ((row.zip v).map fun p => cmulInt p.1 p.2).foldl (fun a z => (a.1 + z.1, a.2 + z.2)) (0, 0)

/-- A complex sum drained to CI8 without requantisation: each part rounded under RNA by the drain shift, and saturated (R66, R159). -/
def drainCi8 (sh : Nat) (z : Int × Int) : Int × Int := (clampInt (-128) 127 (rnaShift z.1 sh), clampInt (-128) 127 (rnaShift z.2 sh))

/-- The candidate vector of an index: layer by layer, the first bit highest (R159). -/
def candidate (q g idx : Nat) : List (Int × Int) :=
  let bits := bitsHigh (q * g) idx
  (List.range g).map fun l =>
    let p := symbolOf ((bits.drop (q * l)).take q)
    (detectStep q * p.1, detectStep q * p.2)

/-- A column of the candidate matrix: R c, drained as z is; for one layer R is 1 (R159). -/
def candidateColumn (sh q : Nat) (d : DetGroup) (idx : Nat) : List (Int × Int) :=
  let c := candidate q d.r.length idx
  if d.r.length = 1 then c else d.r.map fun row => drainCi8 sh (cdot row c)

/-- z = F y of one RE (R159). -/
def filtered (sh : Nat) (d : DetGroup) (e : DetRe) : List (Int × Int) := d.f.map fun row => drainCi8 sh (cdot row e.y)

/-- The squared distance of z from a candidate, drained to INT16 with OSHIFT = 2 + log2 G (R160). -/
def distance (z c : List (Int × Int)) : Int :=
  let sum := ((z.zip c).map fun p => (p.1.1 - p.2.1) ^ 2 + (p.1.2 - p.2.2) ^ 2).sum
  clampInt (-32768) 32767 (rnaShift sum (2 + Nat.log2 c.length))

/-- The distance row of an RE. -/
def distanceRow (sh q : Nat) (d : DetGroup) (z : List (Int × Int)) : List Int :=
  (List.range ((2 ^ q) ^ d.r.length)).map fun j => distance z (candidateColumn sh q d j)

/-- An LLR saturated at ±127: 80h is never written (R161). -/
def llrByte (x : Int) : Byte := BitVec.ofInt 8 (clampInt (-127) 127 x)

/-- The value of an LLR; 80h is taken as −127 (R161). -/
def llrInt (b : Byte) : Int := max (-127) b.toInt

/-- Zero where the mark says erased (R162, R163). -/
def eraseLlrs (l : List Byte) (erased : List Bool) : List Byte := l.zipIdx.map fun p => if erased.getD p.2 false then 0 else p.1

/-- The z of every RE of a PRB group, by layer group; of DFT-s-OFDM after the inverse DFT (R159). -/
def groupOutputs (sh : Nat) (dfts : Bool) (p : DetPrb) : List (DetGroup × List (List (Int × Int))) :=
  p.groups.map fun d =>
    let z := p.res.map (filtered sh d)
    (d, if dfts then (Config.inverseDft (z.map fun v => v.headD (0, 0))).map ([·]) else z)

/-- The LLRs of a PRB group with their marks: RE by RE, group by group, bit by bit (R162). -/
def prbLlrs (bundle : Option (BitVec 256)) (q : Nat) (dfts : Bool) (p : DetPrb) : List (Byte × Bool) :=
  let sh := Config.detectShift bundle
  let outs := groupOutputs sh dfts p
  p.res.zipIdx.flatMap fun e => outs.flatMap fun o =>
    let g := o.1.r.length
    let row := distanceRow sh q o.1 (o.2.getD e.2 [])
    (List.range (g * q)).map fun b => (if e.1.erased then 0 else llrByte (Config.demapper bundle q g row p.feats b), e.1.erased)

/-- The groups, filters and matrices have the shapes that R159 gives them. -/
def prbShaped (p : DetPrb) (q : Nat) (dfts : Bool) : Bool :=
  p.groups.all fun d => groupAllowed q d.r.length && d.f.length == d.r.length && (d.r.all fun row => row.length == d.r.length)
    && (!dfts || (d.r.length == 1 && p.groups.length == 1))

/-- A source that detection can take. -/
def sourceOk : LlrSource → Bool
  | .learned q dfts prbs _ _ => prbs.all fun p => prbShaped p q dfts
  | .classical l e => l.length == e.length

/-- The LLRs of a source with their erased marks. -/
def madeLlrs (bundle : Option (BitVec 256)) : LlrSource → List Byte × List Bool
  | .learned q dfts prbs skip count =>
    let l := ((prbs.flatMap (prbLlrs bundle q dfts)).drop skip).take count
    (l.map (·.1), l.map (·.2))
  | .classical l e => (eraseLlrs (l.map fun b => llrByte b.toInt) e, e)

end Sys2Proof.Machine
end

