-- ==== Sys2Proof/Machine/Ldpc.lean ====
section
/-! DEFINITION. From the LLRs of a code block to its decoded bits (R164-R171): de-scrambling, de-interleaving and de-rate matching, the
layered decoder, its offset books and its CRC checks. Log entries 16 and 27 name the readings. -/
namespace Sys2Proof.Machine

/-! ### De-scrambling, de-interleaving, de-rate matching (R164) -/

/-- LLRs negated where the scrambling bit is 1; −127 gives +127. -/
def descramble (l : List Byte) (c : List Bool) : List Byte :=
  l.zipIdx.map fun p => llrByte (if c.getD p.2 false then -llrInt p.1 else llrInt p.1)

/-- The first coded bit of a code block within its transport block. -/
def firstCoded (t : SchTx) (c : LdpcCode) (cb : Nat) : Nat := ((blockBits t c).take cb).sum

/-- Coded bits of a code block. -/
def codedBits (t : SchTx) (c : LdpcCode) (cb : Nat) : Nat := (blockBits t c).getD cb 0

/-- What the LLRs of a code block bring to its circular buffer, in transmission order (R164). -/
def placedLlrs (t : SchTx) (cb : Nat) (llrs : List Byte) : List (Nat × Byte) :=
  let c := ldpcCode t
  let e := codedBits t c cb
  (c.positions t.rv t.qBits e).zip (descramble (llrs.take e) (scrambling t.cInit (firstCoded t c cb) e))

/-- The new transmission of a code block, as HARQ combining takes it. -/
def harqTx (t : SchTx) (cb : Nat) (llrs : List Byte) : HarqTx :=
  let c := ldpcCode t
  { tbs := t.tbs, bg := if c.bg1 then 1 else 2, ndi := t.ndi, z := BitVec.ofNat 16 c.z, nCb := BitVec.ofNat 32 c.nCb
    rv := BitVec.ofNat 8 t.rv.val, llrs := placedLlrs t cb llrs }

/-- The sum of two LLRs, saturated at ±127; 80h counts as −127 (R161, R164, R180). -/
def llrAdd (a b : Byte) : Byte := llrByte (llrInt a + llrInt b)

/-- Placed LLRs added to a buffer of n positions in their order (R164, R180). -/
def addLlrs (n : Nat) (m : Mem) (l : List (Nat × Byte)) : Mem :=
  l.foldl (fun m p => if p.1 < n then memPut m p.1 (llrAdd (memByte m p.1) p.2) else m) m

/-- A buffer before any transmission: +127 at the filler positions (R164). -/
def emptyBuffer (c : LdpcCode) : Mem := (((List.range c.nCb).filter c.filler).map fun p => (p, (127 : Byte)))

/-! ### The decoder (R166-R168) -/

/-- Rows of the base graph that the decoder runs, for the highest position with a non-zero LLR (R166). -/
def ldpcRows (bg1 : Bool) (z pMax : Nat) : Nat :=
  max 4 (min (if bg1 then 46 else 42) (ceilDiv (pMax + 1) z + 2 - (if bg1 then 22 else 10)))

/-- Information columns of a base graph, K_b of R166. -/
def infoCols (bg1 : Bool) : Nat := if bg1 then 22 else 10

/-- The edges of a row in ascending column order: column and shift (R170). -/
def rowEdges (bg1 : Bool) (z row : Nat) : List (Nat × Nat) :=
  (List.range (if bg1 then 68 else 52)).filterMap fun col => (Config.ldpcShift bg1 (liftingSet z) row col).map fun v => (col, v % z)

/-- Edges of rows 0 to r − 1. -/
def graphRows (bg1 : Bool) (z r : Nat) : List (List (Nat × Nat)) := (List.range r).map (rowEdges bg1 z)

/-- The variable of an edge in lifted check j. -/
def edgeVar (z j : Nat) (e : Nat × Nat) : Nat := e.1 * z + (j + e.2) % z

/-- The minimum of the magnitudes of the other edges of a check, as the exclusion tile gives it: a row of 32 slots of which the used
ones hold magnitudes and the others 127; the tile holds 127 on its diagonal and beyond degree d, 0 elsewhere (R167 step 2). -/
def exclusionMin (mags : List Int) (j : Nat) : Int :=
  ((List.range 32).map fun k =>
    if k < mags.length then mags.getD k 0 + (if k = j then 127 else 0) else 254).foldl min 254

/-- New messages of a check from its variable-to-check values and the offsets of its edges (R167 steps 2 and 3). -/
def checkMessages (qs offs : List Int) : List Int :=
  let mags := qs.map fun q => ((q.natAbs : Nat) : Int)
  let neg := (qs.filter (· < 0)).length
  qs.zipIdx.map fun p =>
    let m := clampInt 0 127 (exclusionMin mags p.2 + offs.getD p.2 0)
    if (neg - bitNat (decide (p.1 < 0))) % 2 = 1 then -m else m

/-- One lifted check: its posteriors and messages after its step (R167). -/
def checkStep (vars : List Nat) (offs : List Int) (x : Array Int × List Int) : Array Int × List Int :=
  let qs := vars.zipIdx.map fun p => clampInt (-127) 127 (x.1.getD p.1 0 - x.2.getD p.2 0)
  let cs := checkMessages qs offs
  (((vars.zip (qs.zip cs)).foldl (fun a p => a.setIfInBounds p.1 (clampInt (-32767) 32767 (p.2.1 + p.2.2))) x.1), cs)

/-- One row: its Z checks (R167). -/
def rowStep (z : Nat) (edges : List (Nat × Nat)) (offs : List Int) (x : Array Int × List (List Int)) : Array Int × List (List Int) :=
  (List.range z).foldl (fun a j =>
    let y := checkStep (edges.map (edgeVar z j)) offs (a.1, x.2.getD j [])
    (y.1, a.2 ++ [y.2])) (x.1, [])

/-- One iteration over the rows in ascending order (R167). -/
def iterStep (z : Nat) (rows : List (List (Nat × Nat))) (offs : Nat → List Int) (x : Array Int × List (List (List Int))) :
    Array Int × List (List (List Int)) :=
  rows.zipIdx.foldl (fun a p =>
    let y := rowStep z p.1 (offs p.2) (a.1, x.2.getD p.2 [])
    (y.1, a.2 ++ [y.2])) (x.1, [])

/-- A hard decision: 1 where the posterior is negative (R168). -/
def hardBit (p : Array Int) (v : Nat) : Bool := decide (p.getD v 0 < 0)

/-- Checks that do not hold (R168). -/
def syndromeWeight (z : Nat) (rows : List (List (Nat × Nat))) (p : Array Int) : Nat :=
  (rows.map fun edges => ((List.range z).filter fun j => (edges.filter fun e => hardBit p (edgeVar z j e)).length % 2 == 1).length).sum

/-- Iterations until the syndrome is 0 or none of `left` is left: posteriors and iterations run (R168). -/
def iterate (z : Nat) (rows : List (List (Nat × Nat))) (offs : Nat → Nat → List Int) :
    (left i : Nat) → Array Int × List (List (List Int)) → Array Int × Nat
  | 0, i, x => (x.1, i)
  | left + 1, i, x =>
    let y := iterStep z rows (offs i) x
    if syndromeWeight z rows y.1 = 0 then (y.1, i + 1) else iterate z rows offs left (i + 1) y

/-! ### Offset books (R170, R171) -/

/-- Size of a book (Table 06-3). -/
def bookSize (bg1 : Bool) : Nat := if bg1 then 94208 else 86016

/-- Byte of entry (i, l, s). -/
def bookEntry (bg1 : Bool) (i row slot : Nat) : Nat := 2 * (32 * ((if bg1 then 46 else 42) * i + row) + slot)

/-- The offsets of a row in an iteration: of a book at an address, or of the classical book, which holds −2 in every used slot. -/
def bookOffsets (m : Mem) (book : Option Nat) (bg1 : Bool) (degree i row : Nat) : List Int :=
  match book with
  | some a => (List.range degree).map fun s => signed 16 (memNat m (a + bookEntry bg1 i row s) 2)
  | none => List.replicate degree (-2)

/-! ### A block decoded -/

/-- What decoding a block gives: its bits, iterations, syndrome weight, CRC result, and whether it stopped on a zero syndrome before
the cap. -/
structure LdpcResult where
  bits : List Bool
  iterations : Nat
  syndrome : Nat
  crc : Bool
  early : Bool
deriving DecidableEq, Repr

/-- Posteriors before the first iteration: the combined LLR of each circular-buffer position, and 0 at the 2Z punctured ones. -/
def firstPosteriors (c : LdpcCode) (r : Nat) (soft : Mem) : Array Int :=
  ((List.range ((infoCols c.bg1 + r) * c.z)).map fun v => if v < 2 * c.z then 0 else llrInt (memByte soft (v - 2 * c.z))).toArray

/-- The CRC that a code block is checked with (R165). -/
def blockCrc (t : SchTx) (c : LdpcCode) : CrcKind := if c.blocks = 1 then tbCrc t.tbs.toNat else crc24b

/-- A code block decoded from its combined LLRs, under an iteration cap and an offset book (R165-R170). -/
def ldpcDecode (m : Mem) (t : SchTx) (soft : Mem) (cap : Nat) (book : Option Nat) : LdpcResult :=
  let c := ldpcCode t
  let r := ldpcRows c.bg1 c.z ((soft.getLast?.map (·.1)).getD 0)
  let rows := graphRows c.bg1 c.z r
  let offs (i row : Nat) : List Int := bookOffsets m book c.bg1 ((rows.getD row []).length) i row
  let y := iterate c.z rows offs cap 0 (firstPosteriors c r soft, [])
  let bits := (List.range c.kPrime).map (hardBit y.1)
  let w := syndromeWeight c.z rows y.1
  { bits := bits, iterations := y.2, syndrome := w, crc := (blockCrc t c).check bits, early := decide (w = 0) && decide (y.2 < cap) }

/-- The information bits of a transport block from the bits of its code blocks, and whether its own CRC passes (R165, R189). -/
def transportBits (t : SchTx) (blocks : List (List Bool)) : List Bool × Bool :=
  let c := ldpcCode t
  let all := if c.blocks = 1 then blocks.flatten else blocks.flatMap fun b => b.take (b.length - 24)
  (all.take t.tbs.toNat, (tbCrc t.tbs.toNat).check all)

end Sys2Proof.Machine
end

