-- ==== Sys2Proof/Machine/Polar.lean ====
section
/-! DEFINITION. Polar and short block codes (R173-R176, R184). What 38.212 says of their construction is PRESUMED, its reliability sequence,
interleaver and basis sequences opaque (log entry 27). -/
namespace Sys2Proof.Machine

/-! ### Construction of a polar code (38.212) -/

/-- A polar code: N, information bits with their CRC, coded bits E, parity-check bits and how many of those lie on rows of least weight. -/
structure PolarCode where
  n : Nat
  k : Nat
  e : Nat
  nPc : Nat
  nWm : Nat
deriving DecidableEq, Repr

def log2Up (n : Nat) : Nat := if n ≤ 1 then 0 else Nat.log2 (n - 1) + 1

/-- log2 N for K bits coded to E, at most nMax. -/
def polarLog (k e nMax : Nat) : Nat :=
  let n1 := if 8 * e ≤ 9 * 2 ^ (log2Up e - 1) ∧ 16 * k < 9 * e then log2Up e - 1 else log2Up e
  max 5 (min nMax (min n1 (log2Up (8 * k))))

/-- The code of an uplink code word of K bits: N up to 1 024, and 3 parity-check bits for K of 18 to 25 (R173). -/
def uciCode (k e : Nat) : PolarCode :=
  let pc := decide (18 ≤ k) && decide (k ≤ 25)
  { n := 2 ^ polarLog k e 10, k := k, e := e, nPc := if pc then 3 else 0, nWm := if pc && decide (192 < e - k + 3) then 1 else 0 }

/-- The code of a DCI or a MIB: N at most 512 (R184). -/
def dciCode (k e : Nat) : PolarCode := ⟨2 ^ polarLog k e 9, k, e, 0, 0⟩

/-- The sub-block interleaver's order of 32 blocks. -/
def subBlocks : List Nat :=
  [0, 1, 2, 4, 3, 5, 6, 7, 8, 16, 9, 17, 10, 18, 11, 19, 12, 20, 13, 21, 14, 22, 15, 23, 24, 25, 26, 28, 27, 29, 30, 31]

/-- The coded bit at place i of the rate matcher's buffer. -/
def PolarCode.interleave (c : PolarCode) (i : Nat) : Nat := subBlocks.getD (32 * i / c.n) 0 * (c.n / 32) + i % (c.n / 32)

/-- A low rate is punctured, a high one shortened. -/
def PolarCode.punctured (c : PolarCode) : Bool := decide (c.e < c.n) && decide (16 * c.k ≤ 7 * c.e)
def PolarCode.shortened (c : PolarCode) : Bool := decide (c.e < c.n) && !c.punctured

/-- Bit indices frozen by rate matching. -/
def PolarCode.frozenByRate (c : PolarCode) (i : Nat) : Bool :=
  if c.punctured then
    ((List.range (c.n - c.e)).any fun j => c.interleave j == i)
      || decide (i < if 3 * c.n ≤ 4 * c.e then ceilDiv (3 * c.n - 2 * c.e) 4 else ceilDiv (9 * c.n - 4 * c.e) 16)
  else if c.shortened then (List.range (c.n - c.e)).any fun j => c.interleave (c.e + j) == i
  else false

/-- Bit indices of the reliability sequence of this N, least reliable first. -/
def PolarCode.byReliability (c : PolarCode) : List Nat :=
  ((List.finRange 1024).map fun j => (Config.polarSequence j).val).filter fun i => decide (i < c.n)

/-- Bit indices that carry information or parity-check bits, least reliable first. -/
def PolarCode.used (c : PolarCode) : List Nat := keepLast (c.k + c.nPc) (c.byReliability.filter fun i => !c.frozenByRate i)

/-- Ones in the binary form of a bit index: log2 of the weight of its row. -/
def rowWeight (i : Nat) : Nat := ((List.range 10).filter (bitOf i)).length

/-- Bit indices of the parity-check bits: the least reliable ones, and of the most reliable K the one of least weight. -/
def PolarCode.parity (c : PolarCode) : List Nat :=
  let best := (keepLast c.k c.used).reverse
  let light := (best.map rowWeight).foldl min 10
  c.used.take (c.nPc - c.nWm) ++ (best.filter fun i => rowWeight i == light).take c.nWm

/-! ### Encoding -/

/-- x = u G_N over N = 2^n bits: the product with the Kronecker power (R184). -/
def kronecker : Nat → List Bool → List Bool
  | 0, u => u.take 1
  | n + 1, u =>
    let a := kronecker n (u.take (2 ^ n))
    let b := kronecker n (u.drop (2 ^ n))
    (List.zipWith (· != ·) a b) ++ b

/-- The registers that parity-check bits come from: five bits, rotated at each index. -/
def pcRotate (y : List Bool) : List Bool := y.drop 1 ++ y.take 1

/-- u of a code from its K bits: frozen bits 0, parity-check bits their parity (R174). -/
def PolarCode.place (c : PolarCode) (bits : List Bool) : List Bool :=
  let used := c.used
  let pc := c.parity
  ((List.range c.n).foldl (fun (a : List Bool × List Bool × List Bool) i =>
    let y := pcRotate a.2.1
    if pc.contains i then (a.1 ++ [y.headD false], y, a.2.2)
    else if used.contains i then
      let b := a.2.2.headD false
      (a.1 ++ [b], (y.headD false != b) :: y.drop 1, a.2.2.drop 1)
    else (a.1 ++ [false], y, a.2.2)) ([], List.replicate 5 false, bits)).1

/-- Place of each of E transmitted bits in the coded block, before the channel interleaver. -/
def PolarCode.selected (c : PolarCode) : List Nat :=
  (List.range c.e).map fun k => c.interleave ((if c.punctured then k + c.n - c.e else k) % c.n)

/-- The triangular channel interleaver of uplink control: which selected bit each transmitted one is. -/
def triangle (e : Nat) : List Nat :=
  let t := ((List.range (e + 2)).find? fun t => decide (2 * e ≤ t * (t + 1))).getD 0
  ((List.range t).flatMap fun col => (List.range (t - col)).map fun row => row * t - row * (row - 1) / 2 + col).filter fun i => decide (i < e)

/-- The E coded bits of a DCI or MIB (R184). -/
def PolarCode.encode (c : PolarCode) (bits : List Bool) : List Bool :=
  let x := kronecker (Nat.log2 c.n) (c.place bits)
  c.selected.map fun i => x.getD i false

/-! ### The list decoder (R174) -/

def satInt16 (x : Int) : Int := clampInt (-32768) 32767 x

/-- f: min-sum. -/
def polarF (a b : Int) : Int := satInt16 ((if (a < 0) != (b < 0) then -1 else 1) * ((min a.natAbs b.natAbs : Nat) : Int))

/-- g: b + (1 − 2u) a. -/
def polarG (u : Bool) (a b : Int) : Int := satInt16 (b + if u then -a else a)

/-- The LLR of the next bit of a path, from the LLRs of 2^n coded bits and the bits decided before it. -/
def polarLlr : Nat → List Int → List Bool → Int
  | 0, l, _ => l.headD 0
  | n + 1, l, us =>
    let a := l.take (2 ^ n)
    let b := l.drop (2 ^ n)
    if us.length < 2 ^ n then polarLlr n (List.zipWith polarF a b) us
    else
      let x := kronecker n (us.take (2 ^ n))
      polarLlr n (List.zipWith (fun u p => polarG u p.1 p.2) x (a.zip b)) (us.drop (2 ^ n))

/-- A path: its metric, the bits decided and the parity registers. -/
structure PolarPath where
  metric : Nat
  us : List Bool
  regs : List Bool
deriving DecidableEq, Repr

/-- A path with one more bit that its LLR favours or opposes; λ ≥ 0 counts as bit 0. -/
def PolarPath.take (p : PolarPath) (lam : Int) (u : Bool) (regs : List Bool) : PolarPath :=
  ⟨p.metric + (if u = decide (lam < 0) then 0 else lam.natAbs), p.us ++ [u], regs⟩

/-- Candidates that rank below one: metrics carry the candidate's index in their 4 low bits, so that ranks are distinct. -/
def polarRank (l : List PolarPath) (i : Nat) : Nat :=
  let key (j : Nat) : Nat := ((l[j]?.map (·.metric)).getD 0) * 16 + j
  ((List.range l.length).filter fun j => decide (key j < key i)).length

/-- Paths in ascending order of metric, the index deciding between equals. -/
def polarSort (l : List PolarPath) : List PolarPath :=
  (List.range l.length).filterMap fun r => ((List.range l.length).find? fun i => polarRank l i == r).bind (l[·]?)

/-- One bit index. A frozen bit takes 0, a parity-check bit its parity; at an information bit each path splits in two and the 8
lowest-ranked candidates survive. Candidate 2p + u is path p with bit u, and survivors are numbered by rank: the spec does not say which
index a candidate has (DESIGN CHOICE, log entry 27). -/
def PolarCode.listStep (c : PolarCode) (l : List Int) (paths : List PolarPath) (i : Nat) : List PolarPath :=
  let lam (p : PolarPath) : Int := polarLlr (Nat.log2 c.n) l p.us
  if c.parity.contains i then
    paths.map fun p => let y := pcRotate p.regs; p.take (lam p) (y.headD false) y
  else if c.used.contains i then
    (polarSort (paths.flatMap fun p =>
      let y := pcRotate p.regs
      [p.take (lam p) false y, p.take (lam p) true ((!y.headD false) :: y.drop 1)])).take 8
  else paths.map fun p => p.take (lam p) false (pcRotate p.regs)

/-- The K bits of a path. -/
def PolarCode.info (c : PolarCode) (p : PolarPath) : List Bool :=
  let used := c.used
  let pc := c.parity
  (p.us.zipIdx.filter fun x => used.contains x.2 && !pc.contains x.2).map (·.1)

/-- LLRs of the N coded bits: de-interleaved and de-rate matched, added where a bit is sent twice; a shortened bit is known to be 0. -/
def PolarCode.soft (c : PolarCode) (llrs : List Byte) : List Int :=
  let places := c.selected
  let m := addLlrs c.n [] (((triangle c.e).zip llrs).map fun b => (places.getD b.1 0, b.2))
  let known : List Nat := if c.shortened then (List.range (c.n - c.e)).map fun j => c.interleave (c.e + j) else []
  (List.range c.n).map fun i => if known.contains i then 127 else llrInt (memByte m i)

/-- The bits of the first surviving path, in ascending order of metric, whose CRC passes (R174). -/
def PolarCode.decode (c : PolarCode) (crc : CrcKind) (llrs : List Byte) : Option (List Bool) :=
  let l := c.soft llrs
  let paths := (List.range c.n).foldl (c.listStep l) [⟨0, [], List.replicate 5 false⟩]
  ((polarSort paths).map c.info).find? crc.check

/-! ### Uplink control (R173) -/

/-- The CRC of a payload: CRC6 for 12 to 19 bits, CRC11 above. -/
def uciCrc (a : Nat) : CrcKind := if a ≤ 19 then crcSix else crcEleven

/-- Two segments for a long payload. -/
def uciSegments (a e : Nat) : Nat := if (360 ≤ a ∧ 1088 ≤ e) ∨ 1013 ≤ a then 2 else 1

/-- A polar-coded payload of a bits: its segments are decoded apart, and the padding bit of an odd one is dropped. -/
def uciPolar (a : Nat) (llrs : List Byte) : Option (List Bool) :=
  let segs := uciSegments a llrs.length
  let crc := uciCrc a
  let per := ceilDiv a segs
  let e := llrs.length / segs
  let code := uciCode (per + crc.len) e
  let parts := (List.range segs).map fun i => code.decode crc ((llrs.drop (e * i)).take e)
  if parts.all (·.isSome) then
    some ((parts.flatMap fun p => (p.getD []).take per).drop (per * segs - a))
  else none

/-- A code word of a short payload: repetition of one bit, the simplex code of two with placeholders by the modulation, the (32, K) block
code. -/
def shortWord (q e : Nat) (c : List Bool) : List (Option Bool) :=
  let q := max 1 q
  (List.range e).map fun k =>
    if c.length = 1 then (if k % q = 0 then c.head? else none)
    else if c.length = 2 then
      if q = 1 ∨ k % q < 2 then
        let j := (if q = 1 then k else k / q * 2 + k % q) % 3
        some (if j = 2 then c.getD 0 false != c.getD 1 false else c.getD j false)
      else none
    else
      let row : Fin 32 := ⟨k % 32, Nat.mod_lt _ (by decide)⟩
      some (((List.finRange 11).filter fun j => c.getD j.val false && Config.blockBasis row j).length % 2 == 1)

/-- LLRs of a block code word, transmissions of one position added (R164). -/
def foldThirtyTwo (llrs : List Byte) : List Byte :=
  let m := addLlrs 32 [] (llrs.zipIdx.map fun p => (p.2 % 32, p.1))
  memRead m 0 32

/-- The correlation of LLRs with a code word. -/
def correlation (llrs : List Byte) (w : List (Option Bool)) : Int :=
  ((llrs.zip w).map fun p => match p.2 with
    | some true => -llrInt p.1
    | some false => llrInt p.1
    | none => 0).sum

/-- A short payload: the first of the code words with the highest correlation (R173, R175). -/
def uciShort (a q : Nat) (llrs : List Byte) : List Bool :=
  let l := if a ≤ 2 then llrs else foldThirtyTwo llrs
  let words := (List.range (2 ^ a)).map fun v => (List.range a).map (bitOf v)
  let score (c : List Bool) : Int := correlation l (shortWord q l.length c)
  words.foldl (fun best c => if score best < score c then c else best) (List.replicate a false)

end Sys2Proof.Machine
end

