-- ==== Sys2Proof/Machine/Encode.lean ====
section
/-! DEFINITION. Encoding (R183-R185): downlink transport blocks from their payload to modulated symbols, DCI and MIB. What 38.211 and 38.212
say is PRESUMED (log entry 27). -/
namespace Sys2Proof.Machine

/-! ### LDPC encoding (R183) -/

/-- The code blocks of a transport block with their CRCs, before filler bits (R183). -/
def segments (t : SchTx) (payload : List Bool) : List (List Bool) :=
  let c := ldpcCode t
  let all := (tbCrc t.tbs.toNat).attach payload
  if c.blocks = 1 then [all] else (chunksOf (c.kPrime - 24) c.blocks all).map crc24b.attach

/-- The parity sum of check j of a row over the variables known so far: the cyclically shifted bits of its edges (R183 steps 1 and 2). -/
def paritySum (z : Nat) (x : List Bool) (edges : List (Nat × Nat)) (j : Nat) : Bool :=
  (edges.filter fun e => x.getD (edgeVar z j e) false).length % 2 == 1

/-- The parity sums of a row. -/
def rowSums (z : Nat) (x : List Bool) (edges : List (Nat × Nat)) : List Bool := (List.range z).map (paritySum z x edges)

/-- Shift of the edge of a row in a column. -/
def edgeShift (edges : List (Nat × Nat)) (col : Nat) : Option Nat := (edges.find? fun e => e.1 == col).map (·.2)

/-- The first core parity column from the sums of the four core rows: its edges in all rows but one cancel in pairs (R183 step 3). -/
def firstParity (z kb : Nat) (rows : List (List (Nat × Nat))) (sums : List (List Bool)) : List Bool :=
  let total := (List.range z).map fun j => (sums.filter fun l => l.getD j false).length % 2 == 1
  let shifts := rows.filterMap fun edges => edgeShift edges kb
  let v := (shifts.find? fun v => (shifts.filter (· == v)).length % 2 == 1).getD 0
  (List.range z).map fun i => total.getD ((i + z - v) % z) false

/-- The information bits of a block, then its parity columns: the core from its dual diagonal, column after column, the extension from its
rows (R183 step 3). -/
def ldpcEncode (c : LdpcCode) (block : List Bool) : List Bool :=
  let kb := infoCols c.bg1
  let rows := graphRows c.bg1 c.z (if c.bg1 then 46 else 42)
  let info := block ++ List.replicate (c.k - block.length) false
  let core := rows.take 4
  let x0 := info ++ firstParity c.z kb core (core.map (rowSums c.z info))
  let x := (core.take 3).foldl (fun x edges => x ++ rowSums c.z x edges) x0
  (rows.drop 4).foldl (fun x edges => x ++ rowSums c.z x edges) x

/-! ### Rate matching, scrambling, modulation, layers (R185) -/

/-- The coded bits of a code block that are sent. -/
def sentBits (t : SchTx) (cb : Nat) (block : List Bool) : List Bool :=
  let c := ldpcCode t
  let d := (ldpcEncode c block).drop (2 * c.z)
  (c.positions t.rv t.qBits (codedBits t c cb)).map fun p => d.getD p false

/-- A transport block's scrambled bits (R183, R185). -/
def encodedBits (t : SchTx) (payload : List Bool) : List Bool :=
  let l := (segments t payload).zipIdx.flatMap fun p => sentBits t p.2 p.1
  List.zipWith (· != ·) l (scrambling t.cInit 0 l.length)

/-- Bits as symbols in CI16. -/
def modulate (q : Nat) (bits : List Bool) : List (Int × Int) :=
  (chunksOf q (bits.length / q) bits).map fun b =>
    let p := symbolOf b
    (Config.symbolStep q * p.1, Config.symbolStep q * p.2)

/-- The symbols of each layer. -/
def layerSymbols (t : SchTx) (bits : List Bool) : List (List (Int × Int)) :=
  let l := modulate t.qBits bits
  (List.range t.layers).map fun k => everyNth t.layers k l

/-! ### DCI and MIB (R184) -/

/-- The CRC24C of a control message; of a DCI over 24 ones and the message, its last 16 bits scrambled with the RNTI (R184). -/
def controlCrc (rnti : Option (BitVec 16)) (bits : List Bool) : List Bool :=
  match rnti with
  | some r =>
    let p := bitsHigh 24 (crc24c.rem (List.replicate 24 true ++ bits))
    p.take 8 ++ List.zipWith (· != ·) (p.drop 8) (bitsHigh 16 r.toNat)
  | none => bitsHigh 24 (crc24c.rem bits)

/-- The coded bits of a DCI, or of a MIB. -/
def controlBits (rnti : Option (BitVec 16)) (bits : List Bool) (coded : Nat) : List Bool :=
  let m := bits ++ controlCrc rnti bits
  (dciCode m.length coded).encode ((Config.polarInterleaver m.length).map fun i => m.getD i false)

end Sys2Proof.Machine
end

