-- ==== Sys2Proof/Machine/Slots.lean ====
section
/-! DEFINITION. Air-slot arithmetic: slot and symbol starts under 38.211 (R11, R326), SFN.slot and its absolute number, the
stage windows of a processing slot (R12, R18). Absolute slot numbers count the slots of a cell from its frame epoch. -/
namespace Sys2Proof.Machine

/-- Slots per frame (Table 01-1). -/
def slotsPerFrame (mu : Nat) : Nat := 10 * 2 ^ mu

/-- The nominal slot duration S in ns (Table 01-1). -/
def slotNs (mu : Nat) : Nat := 1000000 / 2 ^ mu

/-- T_c units as units of 2^-16 ns, truncated (R326): 983 040 T_c are 0.5 ms. -/
def tcUnits (x : Nat) : Nat := x * 100000 / 3

/-- Start of a slot within its frame in units of 2^-16 ns (R326). -/
def slotStart (mu slot : Nat) : Nat :=
  if mu = 3 then
    slot / 4 * (500000 * 65536) + (if slot % 4 = 0 then 0 else tcUnits (slot % 4 * 245504 + 1024))
  else slot * slotNs mu * 65536

/-- Start of symbol s within its slot in units of 2^-16 ns (R302, 38.211 normal cyclic prefix). -/
def symbolStart (mu slot s : Nat) : Nat :=
  let long := if mu = 0 then (if 8 ≤ s then 2 else if 1 ≤ s then 1 else 0)
    else if mu = 1 then (if 1 ≤ s then 1 else 0)
    else if slot % 4 = 0 ∧ 1 ≤ s then 1 else 0
  tcUnits (s * (140288 / 2 ^ mu) + 1024 * long)

/-- Start of frame 0 of the cell's count in units of 2^-16 ns (R326). -/
def FrameTiming.base (f : FrameTiming) : Int := ns (315964819 * 1000000000 + f.offsetNs)

/-- T_n of an absolute slot number (R326). -/
def FrameTiming.start (f : FrameTiming) (n : Int) : Int :=
  let p : Int := slotsPerFrame f.mu
  f.base + ns (n / p * 10000000) + slotStart f.mu (n % p).toNat

/-- The absolute number of the slot that a time lies in. -/
def FrameTiming.slotAt (f : FrameTiming) (t : Int) : Int :=
  let u := t - f.base
  let fr := u / ns 10000000
  let r := (u - fr * ns 10000000).toNat
  let k := r / (slotNs f.mu * 65536)
  let k := if slotStart f.mu k ≤ r then k else k - 1
  fr * slotsPerFrame f.mu + k

/-- SFN.slot of an absolute number (R326). -/
def FrameTiming.air (f : FrameTiming) (n : Int) : AirSlot :=
  let p : Int := slotsPerFrame f.mu
  ⟨⟨((n / p + f.sfnOffset) % 1024).toNat % 1024, Nat.mod_lt _ (by decide)⟩,
   ⟨(n % p).toNat % 80, Nat.mod_lt _ (by decide)⟩⟩

/-- The absolute number of SFN.slot: of its occurrences, the one nearest to time t (log entry 16). -/
def FrameTiming.absOf (f : FrameTiming) (t : Int) (a : AirSlot) : Int :=
  let p : Int := slotsPerFrame f.mu
  let fr := f.slotAt t / p
  let d := ((a.sfn.val : Int) - f.sfnOffset - fr) % 1024
  (fr + if d < 512 then d else d - 1024) * p + a.slot.val

/-- The slot index of SFN.slot (R200). -/
def slotIndex (mu : Nat) (a : AirSlot) : Nat := a.sfn.val * slotsPerFrame mu + a.slot.val

/-- The period of the slot index (R200). -/
def slotPeriod (mu : Nat) : Nat := 1024 * slotsPerFrame mu

/-- The frame timing of a cell: the time base's, or that of its parameters while the time base holds none (R326, R329). -/
def State.frameTiming (s : State) (c : CellId) : FrameTiming :=
  match vget s.time.timing c with
  | some f => f
  | none =>
    let x := s.cell c
    ⟨x.get .mu, x.get .planLead, x.get .frameOffsetNs, x.get .sfnOffset⟩

/-- T of an air slot of a cell, in units of 2^-16 ns. -/
def State.airStart (s : State) (c : CellId) (a : AirSlot) : Int :=
  (s.frameTiming c).start ((s.frameTiming c).absOf s.now a)

/-- T of the air slot d slots after a. -/
def State.airStartPlus (s : State) (c : CellId) (a : AirSlot) (d : Int) : Int :=
  (s.frameTiming c).start ((s.frameTiming c).absOf s.now a + d)

/-- The air slot d slots after a (R11). -/
def State.airPlus (s : State) (c : CellId) (a : AirSlot) (d : Int) : AirSlot :=
  (s.frameTiming c).air ((s.frameTiming c).absOf s.now a + d)

/-- S of a cell in ns. -/
def State.slotLen (s : State) (c : CellId) : Nat := slotNs (s.frameTiming c).mu

/-- The parameters of CELL_CONFIGURE that a plan is built with (R36). -/
def planParams : List CellParam :=
  [.nUl, .nDl, .bfpWidth, .reservePct, .planLead, .dlAdvance, .estBudget, .detBudget, .decBudget, .iterCap, .delivery, .adaptMode,
   .nfPrbs, .bfwWidth, .rampSyms, .g0, .g1, .rampExt, .rampUpNs, .rampDownNs]

/-- A cell as the plan of processing slot k has it: what changed after Hall built that plan is as it was before (R34, R36). -/
def Cell.inPlan (x : Cell) (k : Int) : Cell :=
  match x.changes.find? fun h => decide (k < h.slot) with
  | some h => { x with
      param := planParams.foldl (fun v p => vset v p.idx (vget h.param p.idx)) x.param
      crateBase := h.crateBase, prachBase := h.prachBase, adapt := { x.adapt with promoted := h.promoted } }
  | none => x

/-- What a running cell holds until P(k + 3), the first plan that Hall builds after a change during processing slot k (R36); a cell
that does not run has no plan that would hold it. -/
def Cell.keepUntil (x : Cell) (k : Int) : List PlanChange :=
  if x.running then x.changes ++ [⟨k + 3, x.param, x.crateBase, x.prachBase, x.adapt.promoted⟩] else []

/-- The weights that the plan of slot k is built with: the promoted ones, or none, the bundle's, with ADAPT_MODE = 0 (R34, R35). -/
def Cell.weightsIn (x : Cell) (k : Int) : Option (List (BitVec 16 × List (BitVec 16))) :=
  let y := x.inPlan k
  if y.get .adaptMode = 1 then y.adapt.promoted else none

/-- PLAN_LEAD of processing slot k in µs: what the time base holds, or what it held while the slot's plan was built (R36). -/
def State.planLeadOf (s : State) (c : CellId) (k : Int) : Nat :=
  match (s.cell c).changes.find? fun h => decide (k < h.slot) with
  | some h => vget h.param CellParam.planLead.idx
  | none => (s.frameTiming c).planLead

/-- The processing slot of a cell now. -/
def State.procNow (s : State) (c : CellId) : Int := (s.frameTiming c).slotAt s.now

/-- A cell as the plan that builds or requests air slot a has it: downlink air slot m, and the C-plane of uplink air slot m, are
work of P(m − 1) (R12, R29). -/
def State.cellBuilt (s : State) (c : CellId) (a : AirSlot) : Cell := (s.cell c).inPlan ((s.frameTiming c).absOf s.now a - 1)

/-- A cell as the plan that decodes uplink air slot n, P(n + 1), has it (R12). -/
def State.cellDecoded (s : State) (c : CellId) (a : AirSlot) : Cell := (s.cell c).inPlan ((s.frameTiming c).absOf s.now a + 1)

/-! ### The grant book (R29) -/

/-- What accepted runs have written for an air slot. -/
def Cell.bookSlot (x : Cell) (a : AirSlot) : BookSlot := (x.book.find? fun b => b.air == a).getD ⟨a, none, none, none⟩

/-- The book with an air slot changed by f. -/
def Cell.putBook (x : Cell) (a : AirSlot) (f : BookSlot → BookSlot) : Cell :=
  { x with book := (x.book.filter fun b => b.air != a) ++ [f (x.bookSlot a)] }

/-- What the run of processing slot k writes once accepted. -/
def State.writeBook (s : State) (c : CellId) (k : Int) (o : SchedOutput) : State :=
  let f := s.frameTiming c
  s.modCell c fun x =>
    let y := (x.putBook (f.air (k + 1)) fun b => { b with roi := some o.roi }).putBook (f.air (k + 2)) fun b => { b with
      allocs := some o.assigns }
    o.grants.foldl (fun x g => x.putBook (f.air (k + 2 + g.1)) fun b => { b with units := some (b.units.getD [] ++ [g.2]) }) y

/-- The time has reached an instant, compared in integer ns (R9, R327). -/
def State.reached (s : State) (t : Int) : Bool := decide (nsOf t ≤ s.nowNs)

/-- p tenths of a per cent of S in units of 2^-16 ns. -/
def pctOf (len p : Nat) : Int := ns (len * p / 1000)

/-- Bytes 2-5 of the usual SFN.slot payload: cell, slot, SFN. -/
def slotPayload (c : CellId) (a : AirSlot) : List Byte :=
  [BitVec.ofNat 8 c.val, BitVec.ofNat 8 a.slot.val] ++ natLE 2 a.sfn.val

end Sys2Proof.Machine
end

