-- ==== Sys2Proof/Machine/Links.lean ====
section
/-! DEFINITION. What the device sends over RoCEv2 queue pairs (R308) and to the members of its system (R384-R386, R391). The
layouts of these messages are not in the spec (log entry 18): kinds of Valley messages are 1 heartbeat, 2 HANDOVER, 3 Pass
stamp, 4 time, 5 lock-step digests, 6 forwarded inputs, 7 power budget, 8 remote access, 9 mirroring; operations of a queue
pair are 0 SEND, 1 RDMA WRITE, 2 RDMA WRITE with immediate data, 3 RDMA READ, 4 READ response, 5 ACK, 6 NAK. -/
namespace Sys2Proof.Machine

def State.qp (s : State) (q : QpId) : QueuePair := vget s.qps q

def State.modQp (s : State) (q : QpId) (f : QueuePair → QueuePair) : State := { s with qps := vmod s.qps q f }

/-- Packets of a request with n bytes of data (R308). -/
def QueuePair.packets (x : QueuePair) (n : Nat) : Nat := max 1 (ceilDiv n x.mtu)

/-- A queue pair that carries requests. -/
def QueuePair.live (x : QueuePair) : Bool := x.configured && !x.error

/-- Wire time of n bytes at 100 Gbit/s (R283). -/
def wireTime (n : Nat) : Int := (ceilDiv (n * 524288) 100 : Nat)

/-- Launches of a port in order, each with its bytes. -/
def addLaunch (x : Int × Nat) : List (Int × Nat) → List (Int × Nat)
  | [] => [x]
  | y :: l => if x.1 = y.1 then (y.1, y.2 + x.2) :: l else if x.1 < y.1 then x :: y :: l else y :: addLaunch x l

/-- The launch instants of a port whose frames are staged, in order, with the bytes that leave at each. -/
def EthPort.launches (x : EthPort) : List (Int × Nat) := x.staged.foldl (fun l f => addLaunch (f.launch, f.bytes.length) l) []

/-- When a frame of another kind than the fronthaul's may start on a port: not while PFC pauses its priority, and only where it finishes
before the next scheduled launch instant, or else once the frames of that instant have left (R284, R306). Scheduled are the
instants whose frames are staged (DESIGN CHOICE, log entry 10). -/
def State.departs (s : State) (p : PortId) (prio : Option (Fin 8)) (len : Nat) : Int :=
  let x := vget s.eth.ports p
  x.launches.foldl (fun t l => if t + wireTime len ≤ l.1 then t else max t (l.1 + wireTime l.2))
    (match prio with | some k => max s.now (vget x.paused k) | none => s.now)

/-- A RoCEv2 frame on a queue pair's port. -/
def State.sendRoce (s : State) (q : QpId) (op : Byte) (addr : BitVec 64) (imm : Word) (bytes : List Byte) : State :=
  s.send (.roce q op addr imm bytes (s.departs (s.qp q).port (some Config.rocePriority) (Config.roceHeader + bytes.length)))

/-- A request on a queue pair: sent, and kept until it is acknowledged (R308); nothing on a queue pair that is not live. A READ
request of n bytes takes the packet numbers of its response. -/
def State.roceSend (s : State) (q : QpId) (op : Byte) (addr : BitVec 64) (imm : Word) (bytes : List Byte) (n : Nat) : State :=
  let x := s.qp q
  if x.live then
    let last := x.psn + BitVec.ofNat 24 (x.packets n - 1)
    (s.modQp q fun x => { x with
        psn := last + 1, sent := x.sent ++ [⟨x.psn, last, op, addr, imm, bytes⟩]
        sentAt := if x.sent = [] then s.up else x.sentAt }).sendRoce q op addr imm bytes
  else s

/-- The links to device d that are up (R384). -/
def State.linksTo (s : State) (d : DeviceId) : List LinkId :=
  (List.finRange 3).filter fun l => (vget s.join.linkMap l == BitVec.ofNat 8 d.val) && (vget s.join.links l).up

/-- The queue pair to device d, if JOIN_CONFIGURE named one (R391). -/
def Join.qpOf (j : Join) (d : DeviceId) : Option QpId :=
  let q := vget j.qpMap d
  if h : q.toNat < 256 then some ⟨q.toNat, h⟩ else none

/-- The priority of Table 13-6 of a message; remote accesses and their answers have theirs by the class that their first byte carries,
bulk before background. -/
def valleyPriority (kind : Byte) (bytes : List Byte) : Nat :=
  if kind.toNat ∈ [1, 2, 3, 4] then 1
  else if kind.toNat ∈ [5, 6] then 2
  else if kind = 7 then 3
  else if kind = 8 then 4 + ((bytes.headD 0).toNat)
  else 4

/-- A message takes its place behind those that go before it: by priority, and within one by arrival (R386). -/
def enqueueValley (x : ValleyMsg) (l : List ValleyMsg) : List ValleyMsg :=
  l.filter (fun y => decide (y.priority ≤ x.priority)) ++ x :: l.filter fun y => decide (x.priority < y.priority)

/-- A message to be sent over link l. -/
def State.toLink (s : State) (l : LinkId) (kind : Byte) (bytes : List Byte) : State :=
  { s with valley := vmod s.valley l (enqueueValley ⟨valleyPriority kind bytes, kind, bytes⟩) }

/-- Each link that is up sends the message that is first at it (R386); how long one takes is timing, and a link serves one message a
tick (DESIGN CHOICE, log entry 18). -/
def State.serveLinks (s : State) : State :=
  (List.finRange 3).foldl (fun s l =>
    match vget s.valley l with
    | [] => s
    | x :: rest =>
      if (vget s.join.links l).up then { s with valley := vset s.valley l rest }.send (.valley l x.kind x.bytes) else s) s

/-- The messages of the first priority that wait at links that are up are sent before a reset takes the links down (R367, R386). -/
def State.sendUrgent (s : State) : State :=
  (List.finRange 3).foldl (fun s l =>
    if (vget s.join.links l).up then
      let q := vget s.valley l
      let first := q.filter fun x => decide (x.priority ≤ 1)
      { s with valley := vset s.valley l (q.filter fun x => decide (1 < x.priority)), out := s.out ++ first.map fun x => .valley l x.kind x.bytes }
    else s) s

/-- The link of a bundle that traffic takes: the one with the fewest messages waiting, of equal ones the first named (R384; the rule for
spreading is DESIGN CHOICE, log entry 18). -/
def State.bundleLink (s : State) (l : LinkId) (ls : List LinkId) : LinkId :=
  ls.foldl (fun a b => if (vget s.valley b).length < (vget s.valley a).length then b else a) l

/-- A message to device d, over a link to it that is up, or its queue pair. -/
def State.tell (s : State) (d : DeviceId) (kind : Byte) (bytes : List Byte) : State :=
  match s.linksTo d with
  | l :: ls => s.toLink (s.bundleLink l ls) kind bytes
  | [] =>
    match s.join.qpOf d with
    | some q => s.roceSend q 0 0 (kind.setWidth 32) bytes bytes.length
    | none => s

/-- This device is the shadow of a comparison pair for cell c: it launches nothing and posts no indication (R388). -/
def State.shadows (s : State) (c : CellId) : Bool := s.join.lockstep.any fun l => l.shadow && l.cells.getLsbD c.val

/-- The cell is in a comparison pair. -/
def State.compared (s : State) (c : CellId) : Bool := s.join.lockstep.any fun l => l.cells.getLsbD c.val

/-- Audit records are formed of a cell under audit or in a comparison pair (R377, R389). -/
def State.audited (s : State) (c : CellId) : Bool := (s.cell c).audit || s.compared c

/-- The active device of a comparison pair forwards inputs of a cell to its shadow (R389). -/
def State.forward (s : State) (c : CellId) (bytes : List Byte) : State :=
  match s.join.lockstep with
  | some l => if !l.shadow && l.cells.getLsbD c.val then s.tell l.partner 6 (BitVec.ofNat 8 c.val :: bytes) else s
  | none => s

/-- The other members of the joined set. -/
def Join.others (j : Join) : List DeviceId :=
  (List.finRange 16).filter fun d => j.members.getLsbD d.val && decide (d ≠ j.device)

/-- A message to every other member. -/
def State.tellAll (s : State) (kind : Byte) (bytes : List Byte) : State :=
  s.join.others.foldl (fun s d => s.tell d kind bytes) s

end Sys2Proof.Machine
end

