-- ==== Sys2Proof/Machine/Harq.lean ====
section
/-! DEFINITION. Uplink slot results (R41, R189) and HARQ (R177-R181): the pool and its grants, combining, decoding in the order of R158,
and what the end of a code block does to its unit. -/
namespace Sys2Proof.Machine

/-! ### The slot's results -/

/-- The uplink air slot of a cell changed by f. -/
def State.modUl (s : State) (c : CellId) (a : AirSlot) (f : UlSlot → UlSlot) : State :=
  s.modCell c fun x => { x with ul := x.ul.map fun u => if u.air = a then f u else u }

/-- The uplink air slot of a cell. -/
def State.ulSlot (s : State) (c : CellId) (a : AirSlot) : Option UlSlot := (s.cell c).ul.find? fun u => u.air == a

/-- The unit of a block. -/
def State.ulUnit (s : State) (r : BlockRef) : Option UlUnit := (s.ulSlot r.cell r.air).bind fun u => u.units[r.unit]?

/-- The unit of a block changed by f. -/
def State.modUnit (s : State) (r : BlockRef) (f : UlUnit → UlUnit) : State :=
  s.modUl r.cell r.air fun u => { u with units := u.units.modify r.unit f }

/-- A block changed by f. -/
def State.modBlock (s : State) (r : BlockRef) (f : UlBlock → UlBlock) : State :=
  s.modUnit r fun u => { u with blocks := u.blocks.modify r.cb f }

/-- The block. -/
def State.ulBlock (s : State) (r : BlockRef) : Option UlBlock := (s.ulUnit r).bind fun u => u.blocks[r.cb]?

/-- Every result of the slot is final. -/
def UlSlot.isFinal (u : UlSlot) : Bool := u.units.all fun x => x.blocks.all fun b => b.final.isSome

/-- The instant at which the results became final is kept (Table 01-7). -/
def UlSlot.stamp (u : UlSlot) (now : Int) : UlSlot :=
  if u.isFinal ∧ u.finalTime = none then { u with finalTime := some now } else u

/-- Every code block of a unit passed, and its own CRC too. -/
def UlUnit.ack (u : UlUnit) : Bool := (u.blocks.all fun b => b.final == some 0) && !u.tbFail

/-! ### The pool (R177, R178) -/

/-- The page belongs to that process. -/
def HarqPage.isOf (p : HarqPage) (c : CellId) (rnti : BitVec 16) (h : Byte) : Bool :=
  p.cell == c && p.rnti == rnti && p.harqId == h

/-- Pages of 32 KiB in the pool. -/
def Harq.total (x : Harq) : Nat := x.pool * 32

/-- A configured cell's reserve. -/
def Harq.reserve (x : Harq) : Nat := x.total / 32

/-- Pages that cell c holds. -/
def Harq.used (x : Harq) (c : CellId) : Nat := (x.pages.filter fun p => p.cell == c).length

/-- n pages can be granted to cell c: the other configured cells' reserves stay whole (R177). -/
def State.harqGrant (s : State) (c : CellId) (n : Nat) : Bool :=
  let held := ((List.finRange 16).filter fun d => d ≠ c ∧ (s.cell d).configured = true).map fun d =>
    s.harq.reserve - s.harq.used d
  decide (s.harq.pages.length + held.sum + n ≤ s.harq.total)

/-- The lowest page that is free. -/
def Harq.freePage (x : Harq) : Nat :=
  ((List.range (x.pages.length + 1)).find? fun n => !(x.pages.any fun p => p.number == n)).getD 0

/-- The address of a page. -/
def Harq.pageAddr (x : Harq) (n : Nat) : Nat := dramBase + 32768 * (x.base + n)

/-- The pool finds its place in DRAM; the spec does not say which (free, log entry 5). -/
def State.placePool (s : State) : State :=
  ({ s with harq := { s.harq with base := (s.freeBits 0).toNat % (524288 - s.harq.total + 1) } }).drew 1

/-- The bytes of a page's header (Table 06-5). -/
def HarqPage.header (p : HarqPage) : List Byte :=
  let b := natLE 2 p.rnti.toNat ++ [p.harqId, BitVec.ofNat 8 p.cell.val] ++ natLE 2 p.cb ++ natLE 2 p.cbCount ++ natLE 4 p.tbs.toNat
    ++ [p.bg, BitVec.ofNat 8 (bitNat p.ndi)] ++ natLE 2 p.z.toNat ++ natLE 4 p.nCb.toNat ++ natLE 4 p.pMax
    ++ [BitVec.ofNat 8 p.txCount, p.lastRv] ++ natLE 2 p.first.sfn.val ++ [BitVec.ofNat 8 p.first.slot.val, 0]
  b ++ natLE 2 (crc16 b).toNat ++ List.replicate 32 0

/-- A page as it lies in memory: its header, then its LLRs (R178). -/
def HarqPage.bytes (p : HarqPage) : List Byte := p.header ++ memRead p.llrs 0 p.nCb.toNat

/-- What a hot-standby primary mirrors to its partner (R366, Table 12-6). -/
def State.mirror (s : State) (bytes : List Byte) : State :=
  match s.join.pair with
  | some p => s.tell p.partner 9 bytes
  | none => s

/-- A page written in place of that of the same block, or into a free one. -/
def State.putPage (s : State) (p : HarqPage) : State :=
  let same (q : HarqPage) : Bool := q.isOf p.cell p.rnti p.harqId && q.cb == p.cb
  let n := match s.harq.pages.find? same with
    | some q => q.number
    | none => s.harq.freePage
  { s with
    harq := { s.harq with pages := (s.harq.pages.filter fun q => !same q) ++ [{ p with number := n }] }
    mem := memWrite s.mem (s.harq.pageAddr n) p.bytes }

/-- A page stored, and mirrored (R366). -/
def State.harqStore (s : State) (p : HarqPage) : State := (s.putPage p).mirror p.bytes

/-- Bytes a to a + n − 1 of a memory, as a memory of their own. -/
def memSlice (m : Mem) (a n : Nat) : Mem := (m.filter fun c => decide (a ≤ c.1) && decide (c.1 < a + n)).map fun c => (c.1 - a, c.2)

/-- The page as memory holds it; none where its CHECK is not valid (R178, R180). -/
def State.harqLoad (s : State) (p : HarqPage) : Option HarqPage :=
  let a := s.harq.pageAddr p.number
  let b := memRead s.mem a 64
  if (crc16 (b.take 30)).toNat = bytesNat b 30 2 then
    some { p with
      rnti := BitVec.ofNat 16 (bytesNat b 0 2), harqId := b.getD 2 0, cb := bytesNat b 4 2, cbCount := bytesNat b 6 2
      tbs := BitVec.ofNat 32 (bytesNat b 8 4), bg := b.getD 12 0, ndi := (b.getD 13 0) != 0, z := BitVec.ofNat 16 (bytesNat b 14 2)
      nCb := BitVec.ofNat 32 (bytesNat b 16 4), pMax := bytesNat b 20 4, txCount := bytesNat b 24 1, lastRv := b.getD 25 0
      llrs := memSlice s.mem (a + 64) (bytesNat b 16 4) }
  else none

/-- The pages of a process freed, and the standby told (R181, R366). -/
def State.harqFree (s : State) (c : CellId) (rnti : BitVec 16) (h : Byte) : State :=
  if s.harq.pages.any fun p => p.isOf c rnti h then
    { s with harq := { s.harq with pages := s.harq.pages.filter fun p => !p.isOf c rnti h } }.mirror
      (natLE 2 rnti.toNat ++ [h, BitVec.ofNat 8 c.val])
  else s

/-! ### Combining (R180) -/

/-- The highest position that holds a non-zero LLR. -/
def llrTop (m : Mem) : Nat := (m.getLast?.map (·.1)).getD 0

/-- A page with a process's header and the buffer as it is before any transmission. -/
def emptyPage (c : CellId) (rnti : BitVec 16) (h : Byte) (cb count : Nat) (first : AirSlot) (t : HarqTx) (buffer : Mem) : HarqPage :=
  { number := 0, rnti := rnti, harqId := h, cell := c, cb := cb, cbCount := count, tbs := t.tbs, bg := t.bg, ndi := t.ndi, z := t.z
    nCb := t.nCb, pMax := llrTop buffer, txCount := 1, lastRv := t.rv, first := first, llrs := buffer }

/-- New LLRs added to a page. -/
def HarqPage.withLlrs (p : HarqPage) (l : List (Nat × Byte)) : HarqPage :=
  let m := addLlrs p.nCb.toNat p.llrs l
  { p with llrs := m, pMax := llrTop m }

/-- The page of a block that has not been decoded. -/
def blankPage (r : BlockRef) (u : UlUnit) (t : SchTx) (cb : Nat) : HarqPage :=
  emptyPage r.cell u.rnti u.harqId cb u.blocks.length r.air (harqTx t cb []) (emptyBuffer (ldpcCode t))

/-- The page of a block from its new transmission alone. -/
def freshPage (r : BlockRef) (u : UlUnit) (t : SchTx) (llrs : List Byte) : HarqPage :=
  (blankPage r u t r.cb).withLlrs (placedLlrs t r.cb llrs)

/-- A stored page combined with a new transmission. -/
def HarqPage.combine (p : HarqPage) (t : HarqTx) : HarqPage :=
  { p.withLlrs t.llrs with txCount := min 255 (p.txCount + 1), lastRv := t.rv }

/-- RNTI, HARQ_ID, TBS, BG, Z, N_CB and CB_COUNT match. -/
def HarqPage.matches_ (p : HarqPage) (u : UlUnit) (t : HarqTx) : Bool :=
  p.rnti == u.rnti && p.harqId == u.harqId && p.tbs == t.tbs && p.bg == t.bg && p.z == t.z && p.nCb == t.nCb
    && p.cbCount == u.blocks.length

/-- A block of an earlier slot's transmission of the process has been combined and is not final: its decode still runs (R180). -/
def State.decodeHeld (s : State) (r : BlockRef) (u : UlUnit) : Bool :=
  (s.cell r.cell).ul.any fun x => x.air != r.air && x.units.any fun y =>
    y.kind == 1 && y.rnti == u.rnti && y.harqId == u.harqId && y.blocks.any fun b => b.final.isNone && b.soft.isSome

/-- The combined soft bits of a block with its new transmission, whether stored ones are among them, and what that does to the
stored pages of its process: a toggled NDI frees them without a count; another difference, an invalid CHECK or a decode that still
holds them frees them and counts each (R180, log entry 16). -/
def State.harqCombine (s : State) (r : BlockRef) (u : UlUnit) (t : SchTx) (llrs : List Byte) : HarqPage × Bool × State :=
  let stored := s.harq.pages.filter fun p => p.isOf r.cell u.rnti u.harqId
  let x := harqTx t r.cb llrs
  let alone := freshPage r u t llrs
  let mismatch := (s.cellAdd r.cell .harqMismatch stored.length).harqFree r.cell u.rnti u.harqId
  if u.pages = some true ∨ stored = [] then (alone, false, s)
  else if s.decodeHeld r u then (alone, false, mismatch)
  else if stored.any fun p => (s.harqLoad p).any fun q => q.matches_ u x && q.ndi != x.ndi then
    (alone, false, s.harqFree r.cell u.rnti u.harqId)
  else if stored.any fun p => !((s.harqLoad p).any fun q => q.matches_ u x) then (alone, false, mismatch)
  else
    match (stored.find? fun p => p.cb == r.cb).bind s.harqLoad with
    | some p => (p.combine x, true, s)
    | none => (alone, false, s)

/-- A transport block is NACKed: pages are taken for every one of its code blocks at once, or none is, and its soft bits are lost
(R42, R179). -/
def State.harqKeep (s : State) (r : BlockRef) : State :=
  match s.ulUnit r with
  | none => s
  | some u =>
    match u.tx with
    | none => s
    | some t =>
      if u.kind ≠ 1 ∨ u.pages.isSome ∨ (s.harq.pages.any fun p => p.isOf r.cell u.rnti u.harqId) then s
      else if s.harqGrant r.cell u.blocks.length then
        let s1 := s.modUnit r fun u => { u with pages := some true }
        (u.blocks.zipIdx).foldl (fun s b => s.harqStore (b.1.soft.getD (blankPage r u t b.2))) s1
      else
        ((s.modUnit r fun u => { u with pages := some false }).cellAdd r.cell .harqNoSpace 1).raise 0x0601
          (evtSource 2 r.cell.val) ([BitVec.ofNat 8 r.cell.val, u.harqId] ++ natLE 2 u.rnti.toNat ++ natLE 2 u.blocks.length)

/-- The pages of every unit of an air slot that has a block which did not pass. -/
def State.harqKeepAll (s : State) (c : CellId) (a : AirSlot) (units : Nat) : State :=
  (List.range units).foldl (fun s i =>
    match s.ulUnit ⟨c, a, i, 0⟩ with
    | some u => if u.blocks.any fun b => b.final.any (· != 0) then s.harqKeep ⟨c, a, i, 0⟩ else s
    | none => s) s

/-- Soft bits of a block that ends: written to the page that its process holds, and counted where stored ones are among them. -/
def State.harqSoft (s : State) (r : BlockRef) (d : Decoded) : State :=
  match d.soft, s.ulUnit r with
  | some p, some u =>
    let s1 := s.cellAdd r.cell .harqCombined (bitNat d.combined)
    if d.combined ∨ u.pages = some true then s1.harqStore p else s1
  | _, _ => s

/-- A transport block all of whose blocks passed frees its pages (R181). -/
def State.harqAck (s : State) (r : BlockRef) : State :=
  match s.ulUnit r with
  | some u => if u.ack then s.harqFree r.cell u.rnti u.harqId else s
  | none => s

/-! ### The end of a block -/

/-- A code block whose CRC passed is a label for site adaptation (R33). -/
def State.label (s : State) (r : BlockRef) : State := s.modCell r.cell fun x => { x with labels := x.labels ++ [r] }

/-- A block made final for a reason (0 passed), where it is not final yet (R22); the pages of a NACKed transport block are taken
(R179). -/
def State.blockFinal (s : State) (r : BlockRef) (reason : Byte) : State :=
  let s1 := (s.modBlock r fun b => if b.final = none then { b with final := some reason } else b).modUl r.cell r.air (·.stamp s.now)
  match s.ulBlock r with
  | some b => if b.final = none ∧ reason ≠ 0 then s1.harqKeep r else s1
  | none => s1

/-- The bits of a decoded code block. -/
def UlBlock.bits (b : UlBlock) : List Bool :=
  match b.payload with
  | .bits l => l
  | _ => []

/-- Once every code block of a transport block has passed, its own CRC is checked; where that fails it is NACKed (R165, R189). -/
def State.transportCheck (s : State) (r : BlockRef) : State :=
  match s.ulUnit r with
  | some u =>
    match u.tx with
    | some t =>
      if u.kind = 1 ∧ (u.blocks.all fun b => b.final == some 0) ∧ (transportBits t (u.blocks.map UlBlock.bits)).2 = false then
        (s.modUnit r fun u => { u with tbFail := true }).harqKeep r
      else s
    | none => s
  | none => s

/-- A decoded result whose verdict accepts it, or that no test of Table 12-2 applies to: its soft bits stored, final, its payload kept,
and its transport block's pages taken or freed. A block that was final before stays as it was (R22). -/
def State.blockAccepted (s : State) (r : BlockRef) (d : Decoded) : State :=
  match s.ulBlock r with
  | some x =>
    if x.final.isSome then s
    else
      let s1 := s.modBlock r fun x => { x with classical := some d.classical, payload := d.payload, waiting := none, soft := d.soft }
      let s2 := (s1.harqSoft r d).blockFinal r d.reason
      let s3 := if d.reason = 0 then (s2.label r).transportCheck r else s2
      s3.harqAck r
  | none => s

/-! ### Decoding (R158 steps 5-8) -/

/-- The books that the plan of processing slot k uses: of those that apply by then, the newest (R171). -/
def Cell.bookFor (x : Cell) (k : Int) : Option BookSet := (x.books.filter fun b => decide (b.slot ≤ k)).getLast?

/-- The books that plans of slot k and later may use (R171). -/
def Cell.keepBooks (x : Cell) (k : Int) : List BookSet :=
  match x.bookFor k with
  | some b => b :: x.books.filter fun y => decide (k < y.slot)
  | none => x.books

/-- The offset book with which a block is decoded: its plan's learned one for LLRs of the learned path of a cell that is not
demoted, otherwise the classical book (R171). -/
def State.bookOf (s : State) (r : BlockRef) (bg1 learned : Bool) : Option Nat :=
  let x := s.cell r.cell
  if learned && !(vget x.paths 0).demoted then
    (x.bookFor ((s.frameTiming r.cell).absOf s.now r.air + 1)).map fun b => if bg1 then b.bg1 else b.bg2
  else none

/-- Counters of a decoded LDPC block (Table 06-11). -/
def State.countLdpc (s : State) (c : CellId) (iterations : Nat) (early : Bool) : State :=
  ((s.cellAdd c .decBlocks 1).cellAdd c .decIterSum iterations).cellAdd c .decEarlyStop (bitNat early)

/-- The LLRs that a decode reads with their marks: those of its own in a recomputation, otherwise those its verdict accepted (R158), and
whether they are the classical path's. -/
def UlBlock.decodes (x : UlBlock) (own : Option (List Byte × List Bool)) : Option ((List Byte × List Bool) × Bool) :=
  match own, x.llr, x.classical with
  | some l, _, _ => some ((eraseLlrs (l.1.map fun b => llrByte b.toInt) l.2, l.2), true)
  | none, some l, some cl => some (l, cl)
  | _, _, _ => none

/-- Every RE of a block was erased: it is not decoded (Table 06-6). -/
def allErased (e : List Bool) : Bool := !e.isEmpty && e.all id

/-- A result that ends without decoding. -/
def undecoded (reason : Byte) (classical : Bool) (payload : BlockPayload) : Decoded := ⟨reason, 0, 0, classical, payload, none, false⟩

/-- An LDPC code block decoded: de-rate matched, combined, decoded and checked, in this order (R158, R164-R170). -/
def State.decodeLdpc (s : State) (r : BlockRef) (u : UlUnit) (t : SchTx) (l : List Byte × List Bool) (classical : Bool) : Decoded × State :=
  if allErased l.2 then (undecoded 6 classical .none, s)
  else
    let h := s.harqCombine r u t l.1
    let c := ldpcCode t
    let y := ldpcDecode s.mem t h.1.llrs ((s.cellDecoded r.cell r.air).get .iterCap) (s.bookOf r c.bg1 (!classical))
    let pass := decide (y.syndrome = 0) && y.crc
    let s1 := (h.2.2.countLdpc r.cell y.iterations y.early).cellAdd r.cell .crcFailBlocks (bitNat !pass)
    (⟨if pass then 0 else 1, y.syndrome, y.iterations, classical, .bits y.bits, some h.1, h.2.1⟩, s1)

/-- Bits of a UCI code word. -/
def uciBits (w : UciWord) : Nat := w.ack + w.sr + w.csi1 + w.csi2

/-- No transmission: the best normalised metric lies less than 9.0 dB above the cell's noise estimate (R176). -/
def UciWord.silent (w : UciWord) : Bool := decide (w.metric ^ 10 < w.noise ^ 10 * 10 ^ 9)

/-- A UCI code word decoded (R173-R176). -/
def State.decodeUci (s : State) (r : BlockRef) (w : UciWord) (l : List Byte × List Bool) (classical : Bool) : Decoded × State :=
  let a := uciBits w
  match w.detected with
  | some bits =>
    if UciWord.silent w then (undecoded 9 classical (.uci w none), s)
    else (undecoded 0 classical (.uci w (some (bits.take a))), s)
  | none =>
    if allErased l.2 then (undecoded 6 classical (.uci w none), s)
    else if a < 12 then
      if UciWord.silent w then (undecoded 9 classical (.uci w none), s)
      else (undecoded 0 classical (.uci w (some (uciShort a w.qBits l.1))), s)
    else
      let s1 := s.cellAdd r.cell .polarBlocks 1
      match uciPolar a l.1 with
      | some bits => (undecoded 0 classical (.uci w (some bits)), s1)
      | none => (undecoded 1 classical (.uci w none), s1.cellAdd r.cell .crcFailBlocks 1)

/-- Preambles that exceed their detection threshold (R176). -/
def PrachScan.found (p : PrachScan) : List PrachPeak := p.peaks.filter fun x => decide (x.threshold < x.power)

/-- A decoded block waits for its verdict; one that was not decoded is final (R158, Table 06-6). A block that was final before stays as it
was (R22). -/
def State.blockDecoded (s : State) (r : BlockRef) (d : Decoded) : State :=
  match s.ulBlock r with
  | some x =>
    if x.final.isSome then s
    else if d.reason = 0 ∨ d.reason = 1 then s.modBlock r fun x => { x with waiting := some (d, s.now), soft := d.soft }
    else s.blockAccepted r d
  | none => s

/-- LLRs made for a block: of a PUSCH code block as many as it has coded bits (R158 steps 1-3). -/
def State.takeLlrs (s : State) (r : BlockRef) (src : LlrSource) : State :=
  let l := madeLlrs (s.cell r.cell).bundle src
  let fits := match (s.ulUnit r).bind (·.tx) with
    | some t => l.1.length == codedBits t (ldpcCode t) r.cb
    | none => true
  if sourceOk src && fits then s.modBlock r fun x => if x.final = none then { x with llr := some l } else x else s

/-- The payload that the host placed for an allocation (R45). -/
def State.placedPayload (s : State) (c : CellId) (a : AirSlot) (x : DlAlloc) : Option (List Byte) :=
  ((s.cell c).payloads.find? fun p => p.1 == a && p.2.1 == x.rnti && p.2.2.1 == x.harqId).map (·.2.2.2)

/-- A downlink air slot of a cell changed by f. -/
def State.modDl (s : State) (c : CellId) (a : AirSlot) (f : DlSlot → DlSlot) : State :=
  s.modCell c fun x => { x with dl := x.dl.map fun d => if d.air = a then f d else d }

/-- A downlink allocation encoded, where its payload is there (R183, R185). -/
def DlAlloc.encoded (x : DlAlloc) (payload : Option (List Byte)) : DlAlloc :=
  match x.tx, payload with
  | some t, some b =>
    let bits := encodedBits t ((bytesBits b).take t.tbs.toNat)
    { x with coded := bits, symbols := layerSymbols t bits }
  | _, _ => x

/-- A downlink allocation of a slot given a reason for not being transmitted, where it has none yet. -/
def State.dlFail (s : State) (c : CellId) (a : AirSlot) (alloc : BitVec 16) (reason : Byte) : State :=
  s.modDl c a fun d => { d with allocs := d.allocs.map fun y => if y.alloc = alloc ∧ y.reason = 0 then { y with reason := reason } else y }

/-- What a command of Septig's kernels leaves of a block (R158-R185). -/
def State.blockResult (s : State) : BlockResult → State
  | .llrs r src => s.takeLlrs r src
  | .ldpc r own =>
    match s.ulUnit r, (s.ulUnit r).bind (·.tx), (s.ulBlock r).bind (·.decodes own) with
    | some u, some t, some (l, cl) => let d := s.decodeLdpc r u t l cl; d.2.blockDecoded r d.1
    | _, _, _ => s
  | .uci r own w =>
    let l := match (s.ulBlock r).bind (·.decodes own) with
      | some l => some l
      | none => if w.detected.isSome then some (([], []), false) else none
    match l with
    | some (l, cl) => let d := s.decodeUci r w l cl; d.2.blockDecoded r d.1
    | none => s
  | .prach r p => s.blockAccepted r (undecoded (if PrachScan.found p = [] then 9 else 0) false (.prach p))
  | .srs r p => s.blockAccepted r (undecoded 0 false (.srs p))
  | .encoded c a alloc =>
    s.modDl c a fun d => { d with allocs := d.allocs.map fun x => if x.alloc = alloc then x.encoded (s.placedPayload c a x) else x }
  | .attention c mask => s.cellAdd c .histNoContext (mask.filter id).length
  | .control c a rnti bits n => s.modDl c a fun d => { d with control := d.control ++ [(rnti, controlBits rnti bits n)] }

/-- The command that would have left it was refused or stopped: on the classical path its block ends with COMMAND_FAULT, on the learned
path its verdict rejects it with LEARNED_FAULT (Tables 06-6, 06-7). -/
def State.blockFaulted (s : State) : BlockResult → State
  | .llrs _ (.learned ..) => s
  | .llrs r (.classical ..) => s.blockFinal r 7
  | .ldpc r own => if own.isSome ∨ (s.ulBlock r).any (fun x => x.classical == some true) then s.blockFinal r 7 else s
  | .uci r own _ => if own.isSome ∨ (s.ulBlock r).any (fun x => x.classical == some true) then s.blockFinal r 7 else s
  | .prach r _ => s.blockFinal r 7
  | .srs r _ => s.blockFinal r 7
  | .encoded c a alloc => s.dlFail c a alloc 7
  | .control .. => s
  | .attention .. => s

end Sys2Proof.Machine
end

