-- ==== Sys2Proof/Machine/Pass.lean ====
section
/-! DEFINITION. The Passes: arrivals (R253), completion and release instants, local (R255) and joined (R256). -/
namespace Sys2Proof.Machine

def State.pass (s : State) (p : PassId) : Pass := vget s.fab.passes p

def State.modPass (s : State) (p : PassId) (f : Pass → Pass) : State :=
  { s with fab := { s.fab with passes := vmod s.fab.passes p f } }

/-- The group of a stall. -/
def groupOf (n : StallId) : Fin 8 := ⟨n.val / 8, by omega⟩

/-- T of R256 for the latest stamp: the least multiple of PASS_QUANTUM ns from the start of its PTP second that is no earlier
than it plus PASS_MARGIN. A quantum of 0 acts as 1 (log entry 16). -/
def joinedRelease (timing : Word) (last : Int) : Int :=
  let q : Int := (max 1 (fld timing 15 0) : Nat)
  let sec := last / ns 1000000000 * ns 1000000000
  let t := last - sec + ns (fld timing 31 16 : Nat)
  sec + (t + ns q - 1) / ns q * ns q

/-- The generation counted now is complete, and no group of it has been released. -/
def PassWave.fresh (w : PassWave) : Bool := w.done == []

/-- The first stamp of each of the given members, if each has one. -/
def firstStamps (held : List (DeviceId × Int)) : List DeviceId → Option (List Int)
  | [] => some []
  | d :: ds =>
    match held.find? (fun m => m.1 == d), firstStamps held ds with
    | some m, some ts => some (m.2 :: ts)
    | _, _ => none

/-- The stamps left once the first of each given member is used. -/
def dropStamps (held : List (DeviceId × Int)) : List DeviceId → List (DeviceId × Int)
  | [] => held
  | d :: ds => dropStamps (held.eraseP fun m => m.1 == d) ds

/-- The latest of some times. -/
def latest (t : Int) (ts : List Int) : Int := ts.foldl max t

/-- Lateness of the members in a generation of a joined Pass: each stamp beyond the earliest, where power is shared (R413). -/
def State.noteLate (s : State) (stamps : List (DeviceId × Int)) : State :=
  let first := (stamps.map (·.2)).foldl min (((stamps.head?).map (·.2)).getD 0)
  if s.pwr.share = [] then s
  else
    { s with pwr := { s.pwr with
        gens := s.pwr.gens + 1
        late := s.pwr.late.map fun l => match stamps.find? fun t => t.1 == l.1 with
          | some t => (l.1, l.2 + (t.2 - first))
          | none => l } }

/-- Joined: the wave at position i of a Pass is stamped once its predecessor's release is known, the stamp is sent, and its
release instant is computed when every member's stamp is held; a release that is already past is late (R256, R387). -/
def State.settleWave (s : State) (p : PassId) (i : Nat) : State :=
  let x := s.pass p
  match x.waves[i]? with
  | none => s
  | some w =>
    let prev : Option Int := if i = 0 then some s.now else (x.waves[i - 1]?).bind (·.release)
    match prev with
    | none => s
    | some t0 =>
      if w.release.isSome then s
      else
        let s1 := match w.stamp with
          | some _ => s
          | none => (s.modPass p fun x => { x with waves := x.waves.set i { w with stamp := some t0 } }).tellAll 3
              (natLE 1 p.val ++ ptpBytes t0)
        let own := w.stamp.getD t0
        let others := s.join.others
        match firstStamps x.members others with
        | none => s1
        | some ts =>
          let t := joinedRelease s.fab.passTiming (latest own ts)
          let late := decide (t < s.now)
          let s2 := (s1.noteLate ((s.join.device, own) :: others.zip ts)).modPass p fun x => { x with
            members := dropStamps x.members others
            waves := x.waves.set i { w with stamp := some own, release := some (if late then s.now else t) } }
          if late then (s2.devInc .passLate).devInc .tdcSched else s2

/-- Joined: every complete generation settled, oldest first. -/
def State.settlePass (s : State) (p : PassId) : State :=
  if (s.pass p).joined then (List.range (s.pass p).waves.length).foldl (fun s i => s.settleWave p i) s else s

/-- An arrival that does not count (R253): source 0 device or a stall. -/
def State.passStray (s : State) (p : PassId) (stall : Option StallId) : State :=
  (s.devInc .passStray).raise 0x0504 (evtSource 6 p.val)
    [BitVec.ofNat 8 p.val, match stall with | some n => BitVec.ofNat 8 n.val | none => 0xFF]

/-- An arrival at Pass p (R252, R253): counted, completing the generation at TARGET; or a stray one. -/
def State.arrive (s : State) (p : PassId) (stall : Option StallId) : State :=
  let x := s.pass p
  if !x.en || decide (2 ≤ (x.waves.filter PassWave.fresh).length) then s.passStray p stall
  else if x.arrived.toNat + 1 < max 1 x.target.toNat then s.modPass p fun x => { x with arrived := x.arrived + 1 }
  else
    let prev := (x.waves.filter PassWave.fresh).getLast?
    let t : Option Int := if x.joined then none else
      some (match prev.bind (·.release) with | some t => t + ns 20 | none => s.now + ns 20)
    let w : PassWave :=
      { gen := x.counting, stamp := if x.joined ∧ prev = none then some s.now else none, release := t, done := [] }
    let s1 := s.modPass p fun x => { x with arrived := 0, counting := x.counting + 1, waves := x.waves ++ [w] }
    let s2 := match w.stamp with
      | some t => s1.tellAll 3 (natLE 1 p.val ++ ptpBytes t)
      | none => s1
    s2.settlePass p

/-- The generation whose release a waiter that starts now and makes no counted arrival waits for (R254). -/
def Pass.nextRelease (x : Pass) : Nat :=
  match x.waves.find? PassWave.fresh with
  | some w => w.gen
  | none => x.counting

/-- The generation that an arrival made now counts in, or the next release where it does not count. -/
def Pass.arrivalGen (x : Pass) : Nat :=
  if 2 ≤ (x.waves.filter PassWave.fresh).length then x.nextRelease else x.counting

end Sys2Proof.Machine
end

