-- ==== Sys2Proof/Machine/QueueOps.lean ====
section
/-! DEFINITION. The queue manager's operations (R258-R281): configuration fields, entries and their bytes, eligibility and
virtual time, taking entries in, admission to the reserve, accounting, retiring, and re-queueing after the loss of a stall. -/
namespace Sys2Proof.Machine

/-! ### Queues and their configuration (Tables 09-10 to 09-14) -/

def State.queue (s : State) (q : QueueId) : Queue := vget s.qm.queues q

def State.modQueue (s : State) (q : QueueId) (f : Queue → Queue) : State :=
  { s with qm := { s.qm with queues := vmod s.qm.queues q f } }

def Queue.en (x : Queue) : Bool := wbit x.cfg 31
def Queue.serial (x : Queue) : Bool := wbit x.cfg 30
def Queue.fallback (x : Queue) : Bool := wbit x.cfg 29
def Queue.lend (x : Queue) : Bool := wbit x.cfg 28
def Queue.cls (x : Queue) : Nat := fld x.cfg 27 26
def Queue.log2 (x : Queue) : Nat := fld x.cfg 20 16
def Queue.cell (x : Queue) : CellId := cellOf (fld x.cfg 11 8)
def Queue.share (x : Queue) : Nat := max 1 (fld x.cfg 7 0)

/-- Entries of the ring. -/
def Queue.size (x : Queue) : Nat := 2 ^ min 12 x.log2

/-- Fabric address of entry i. -/
def Queue.entryAddr (x : Queue) (i : Nat) : Nat := fld x.base 31 7 * 128 + 128 * i

/-- Stall n is in the queue's partition. -/
def Queue.hasStall (x : Queue) (n : StallId) : Bool := (x.maskHi ++ x.maskLo).getLsbD n.val

/-- Entries from HEAD to TAIL. -/
def Queue.used (x : Queue) : Nat := (x.tail.toNat + x.size - x.head.toNat) % x.size

/-- Entries that the ring still takes (R260). -/
def Queue.room (x : Queue) : Nat := x.size - 1 - x.used

/-! ### Entries -/

/-- The entry at a ring index. -/
def Queue.entry (x : Queue) (i : Fin 4096) : Option QEntry := x.entries.find? fun e => e.idx == i

def State.entry (s : State) (q : QueueId) (i : Fin 4096) : Option QEntry := (s.queue q).entry i

/-- The entry at a ring index changed by f. -/
def State.modEntry (s : State) (q : QueueId) (i : Fin 4096) (f : QEntry → QEntry) : State :=
  s.modQueue q fun x => { x with entries := x.entries.map fun e => if e.idx = i then f e else e }

def QEntry.desc (e : QEntry) : Desc := descOf e.bytes
def QEntry.fields (e : QEntry) : EntryFields := entryOf e.bytes

/-- The engine that a command class runs on; a reserved class is checked, and refused, at the matrix array (R75). -/
def engineOf (bytes : List Byte) : Engine :=
  match (descOf bytes).opclass with
  | 1 => .vector
  | 2 => .sequencer
  | 3 => .dma ⟨bytesNat bytes 24 1 % 8, Nat.mod_lt _ (by decide)⟩
  | _ => .matrix

/-- The cell that a command's TAG names. -/
def Desc.cell (d : Desc) : CellId := cellOf (d.tag / 4096)

/-- Its stage (Table 09-5). -/
def Desc.stage (d : Desc) : Nat := d.tag / 256 % 16

/-- The launch instant of a descriptor: the second within 2^33 of the present one that has its low 34 bits (R328). -/
def launchTime (now : Int) (d : Desc) : Int :=
  let sec := now / ns 1000000000
  let lo := sec - 8589934592
  ns ((lo + ((d.launchS : Int) - lo) % 17179869184) * 1000000000 + d.launchNs)

/-- The launch time of a descriptor has been reached; before the step none is (R319, R327). -/
def State.launchReached (s : State) (d : Desc) : Bool := s.time.stepped && s.reached (launchTime s.now d)

/-- Bytes l of a list replaced at offset o; bytes before o that the list lacks are 0. -/
def setBytes (bs : List Byte) (o : Nat) (l : List Byte) : List Byte :=
  bs.take o ++ List.replicate (o - bs.length) 0 ++ l ++ bs.drop (o + l.length)

/-- A descriptor's CHECK recomputed (R273). -/
def reseal (bs : List Byte) : List Byte := setBytes bs 62 (natLE 2 (crc16 (bs.take 62)).toNat)

/-- RESUME of a sequencer descriptor set or cleared, with its CHECK (R273, R277). -/
def setResume (on : Bool) (bs : List Byte) : List Byte :=
  if bytesNat bs 0 1 = 2 then
    let b := bs.getD 52 0
    reseal (setBytes bs 52 [if on then b ||| 4 else b &&& 0xFB])
  else bs

/-- EXCL of a sequencer descriptor set, with its CHECK (R154). -/
def setExcl (bs : List Byte) : List Byte :=
  if bytesNat bs 0 1 = 2 then reseal (setBytes bs 52 [bs.getD 52 0 ||| 2]) else bs

/-- AFFINITY and PIN set. -/
def setPin (n : StallId) (bs : List Byte) : List Byte :=
  setBytes bs 82 [BitVec.ofNat 8 n.val, bs.getD 83 0 ||| 2]

/-- PIN cleared. -/
def clearPin (bs : List Byte) : List Byte := setBytes bs 83 [bs.getD 83 0 &&& 0xFD]

/-- A write of the queue manager (R234). -/
def State.qmWrite (s : State) (a : Nat) (bs : List Byte) : State := s.agentWrite Source.qm a bs

/-- The queue manager's copy of an entry changed, and written back to its ring. -/
def State.rewriteEntry (s : State) (q : QueueId) (i : Fin 4096) (f : List Byte → List Byte) : State :=
  match s.entry q i with
  | some e =>
    (s.modEntry q i fun e => { e with bytes := f e.bytes }).qmWrite ((s.queue q).entryAddr i.val) (f e.bytes)
  | none => s

/-! ### Eligibility (R263) and virtual time (R266) -/

def QEntry.isWaiting (e : QEntry) : Bool := e.phase == .waiting
def QEntry.isRetired (e : QEntry) : Bool := e.phase == .retired

/-- The entry that may be eligible next: in a serial queue the first not retired, in a parallel one the first not dispatched. -/
def Queue.front (x : Queue) : Option QEntry :=
  x.entries.find? fun e => if x.serial then !e.isRetired else e.isWaiting

/-- The eligible entry, if there is one. -/
def Queue.eligible (x : Queue) : Option QEntry :=
  match x.front with
  | some e => if e.isWaiting && e.launched && e.gateMet then some e else none
  | none => none

/-- The smallest virtual time of the queues of a class that p selects. -/
def minVt (vts : List (Nat × Nat)) : Option Nat := (vts.map (·.2)).min?

/-- Queues that gained an eligible entry since s0: the virtual time is first raised to the smallest of the other queues of the
class that have one, and the entry's time of becoming eligible is noted (R266, R268). -/
def State.settleQueue (s0 s : State) (q : QueueId) : State :=
  match (s.queue q).eligible with
  | none => s
  | some e =>
    let s1 := if e.eligibleAt = none then s.modEntry q e.idx fun e => { e with eligibleAt := some s.now } else s
    if (s0.queue q).eligible.isSome then s1
    else
      let others := ((List.finRange 32).filter fun o => o ≠ q ∧ (s.queue o).cls = (s.queue q).cls ∧
        (s.queue o).eligible.isSome = true ∧ ((s0.queue o).eligible.isSome = true ∨ o < q)).map fun o => (s.queue o).vt
      match others.min? with
      | some v => s1.modQueue q fun x => { x with vt := max x.vt v }
      | none => s1

def State.settle (s0 s : State) : State := (List.finRange 32).foldl (fun s q => State.settleQueue s0 s q) s

/-- A run of ac at a stall's clock, in units of 2^-16 ns; a stopped clock counts as 1 MHz. -/
def State.acTime (s : State) (n : StallId) (ac : Nat) : Int := (ac * 1000 * 65536 / max 1 (s.stall n).aclk : Nat)

/-- The ac of a stall's clock in a span of time. -/
def State.timeAc (s : State) (n : StallId) (t : Int) : Nat := t.toNat * (s.stall n).aclk / (1000 * 65536)

/-- E ac charged to a queue: accounted always, and to its virtual time unless the command is a Pass wait (R266). -/
def State.charge (s : State) (q : QueueId) (passWait : Bool) (e : Nat) : State :=
  s.modQueue q fun x => { x with
    acct := x.acct + BitVec.ofNat 64 e
    vt := if passWait then x.vt else x.vt + ceilDiv (e * 255) x.share }

/-! ### Retiring (R260, R280) -/

/-- HEAD moves over the retired entries at it; GEN counts its wraps. The entries of the link group that it passed last are kept for
R277. -/
def Queue.passHead (x : Queue) : List QEntry → Queue
  | [] => { x with entries := [] }
  | e :: es =>
    if e.isRetired then
      let i := e.idx.val + 1
      let wrap := decide (x.size ≤ i)
      Queue.passHead { x with
        head := BitVec.ofNat 12 (if wrap then 0 else i), gen := if wrap then x.gen + 1 else x.gen
        lastStall := e.stall, passed := (if e.fields.link then x.passed else []) ++ [e] } es
    else { x with entries := e :: es }

/-- An entry retires with an outcome: its completion record is written, HEAD moves on, and the Pass it names counts its arrival
whatever the outcome (R253, R280). -/
def State.retire (s : State) (q : QueueId) (i : Fin 4096) (outcome : Byte) (rows : Nat) : State :=
  match s.entry q i with
  | none => s
  | some e =>
    let d := e.desc
    let x := s.queue q
    let rec_ := completionRecord outcome d.opclass e.stall e.flags d.tag q x.gen e.ac
      (if e.stall.isSome then some e.start else none) s.now rows
    let s1 := (s.qmWrite (x.entryAddr i.val + 96) rec_).trace (evtSource 5 q.val)
    let s2 := s1.modEntry q i fun e => { e with phase := .retired }
    let s3 := s2.modQueue q fun x => x.passHead x.entries
    if d.passArrive ∧ d.opclass ≠ 4 then s3.arrive (passOf d.passId) e.stall else s3

/-! ### Admission to the reserve (R27, R271) -/

/-- The reserve of the cell's present processing slot. -/
def State.reserveOf (s : State) (c : CellId) : Option Reserve :=
  s.qm.reserves.find? fun r => r.cell == c && s.reached r.start && !s.reached r.closeAt

/-- The ac of a reserve stall's backlog that are left now. -/
def State.backlogAc (s : State) (r : Reserve) (n : StallId) : Nat :=
  match r.backlog.find? fun f => f.1 == n with
  | some f => f.2.1 - s.timeAc n (s.now - f.2.2)
  | none => 0

/-- The finish time of a cost on a reserve stall: the present time, plus the backlog and the cost at its present ACLK (R27). -/
def State.finishAt (s : State) (r : Reserve) (n : StallId) (cost : Nat) : Int := s.now + s.acTime n (s.backlogAc r n + cost)

/-- A reserve with a stall's backlog set as of now. -/
def State.setBacklog (s : State) (r : Reserve) (n : StallId) (ac : Nat) : Reserve :=
  { r with backlog := (n, ac, s.now) :: r.backlog.filter fun f => f.1 != n }

/-- Every reserve's backlog on stall n as it stands now, before its ACLK changes. -/
def State.restamp (s : State) (n : StallId) : State :=
  { s with qm := { s.qm with reserves := s.qm.reserves.map fun r =>
      if (r.backlog.any fun f => f.1 == n) = true then s.setBacklog r n (s.backlogAc r n) else r } }

/-- The reserve stall that finishes a cost earliest, with that instant; of two that would finish it at the same instant the spec
names none, and the model takes the lower-numbered (DESIGN CHOICE, log entry 16). -/
def State.earliest (s : State) (r : Reserve) (cost : Nat) : Option (StallId × Int) :=
  ((List.finRange 64).filter fun n => r.stalls.getLsbD n.val = true ∧ (s.stall n).inService = true ∧ s.domainOn n.val = true).foldl
    (fun best n =>
      let t := s.finishAt r n cost
      match best with
      | some b => if t < b.2 then some (n, t) else best
      | none => some (n, t)) none

/-- Admission of a cost to the cell's reserve: the stall, with the reserve charged; none where it is not admitted. It must
finish before the window closes (log entry 16). -/
def State.admitEntry (s : State) (c : CellId) (cost : Nat) : Option (StallId × State) :=
  match s.reserveOf c with
  | none => none
  | some r =>
    if r.unspent < cost then none
    else match s.earliest r cost with
      | none => none
      | some (n, t) =>
        if nsOf t < nsOf r.closeAt then
          let r' := { s.setBacklog r n (s.backlogAc r n + cost) with unspent := r.unspent - cost }
          some (n, { s with qm := { s.qm with reserves := s.qm.reserves.map fun x => if x = r then r' else x } })
        else none

/-! ### Engines as the queue manager sees them -/

/-- A stream changed by f. -/
def State.modStream (s : State) (n : StallId) (t : StreamId) (f : Stream → Stream) : State :=
  s.modStall n fun x => { x with streams := vmod x.streams t f }

/-- The engine runs nothing and is reserved for nothing. -/
def Stall.engineFree (x : Stall) : Engine → Bool
  | .matrix => x.matrix == .idle
  | .vector => x.vec == .idle
  | .sequencer => x.seq == .idle
  | .dma t => let y := vget x.streams t; y.chain.isNone && y.reserved.isNone && y.queued.isNone && y.shadow.isNone

/-- The engine reserved for an entry. -/
def State.reserveEngine (s : State) (n : StallId) (e : Engine) (q : QueueId) (i : Fin 4096) : State :=
  match e with
  | .matrix => s.modStall n fun x => { x with matrix := .reserved q i }
  | .vector => s.modStall n fun x => { x with vec := .reserved q i }
  | .sequencer => s.modStall n fun x => { x with seq := .reserved q i }
  | .dma t => s.modStream n t fun y => { y with reserved := some (q, i) }

/-- The entry that an engine is reserved for and has not started. -/
def Stall.reservedFor (x : Stall) : Engine → Option (QueueId × Fin 4096)
  | .matrix => match x.matrix with | .reserved q i => some (q, i) | _ => none
  | .vector => match x.vec with | .reserved q i => some (q, i) | _ => none
  | .sequencer => match x.seq with | .reserved q i => some (q, i) | _ => none
  | .dma t =>
    let y := vget x.streams t
    match y.reserved, y.queued with
    | some p, _ => some p
    | none, some r => some (r.q, r.idx)
    | none, none => none

/-- The engine idle again. -/
def State.freeEngine (s : State) (n : StallId) (e : Engine) : State :=
  match e with
  | .matrix => s.modStall n fun x => { x with matrix := .idle }
  | .vector => s.modStall n fun x => { x with vec := .idle }
  | .sequencer => s.modStall n fun x => { x with seq := .idle }
  | .dma t => s.modStream n t fun y => { y with chain := none, reserved := none, queued := none, preempt := none }

/-- An entry given up by its engine and waiting again: it is charged for its run (R266) and waits under f. -/
def State.unplace (s : State) (q : QueueId) (i : Fin 4096) (ac : Nat) (f : QEntry → QEntry) : State :=
  let wait := match s.entry q i with | some e => e.desc.opclass == 4 | none => false
  (s.charge q wait ac).modEntry q i fun e =>
    f { e with phase := .waiting, ac := e.ac + ac, eligibleAt := none, affinityFree := false, asked := false }

/-! ### Loss of a stall (R277) -/

/-- The running command of an engine, a Pass wait among them. -/
def Stall.running (x : Stall) : Engine → Option Running
  | .matrix => match x.matrix with | .running r _ => some r | .passWait r _ _ _ => some r | _ => none
  | .vector => match x.vec with | .running r _ => some r | _ => none
  | .sequencer => match x.seq with | .running r _ => some r | _ => none
  | .dma t => match (vget x.streams t).chain with | some c => (match c.origin with | .command r => some r | .armed => none) | none => none

/-- A pending swap of the requantisation banks takes effect while the array runs no command (R97). -/
def Stall.rqSwapEffect (x : Stall) : Stall :=
  if x.rqPending ∧ (x.running .matrix).isNone then { x with rqActive := !x.rqActive, rqPending := false } else x

/-- A pending swap of the function banks takes effect while the vector engine runs no command (R132). -/
def Stall.sfSwapEffect (x : Stall) : Stall :=
  if x.sfPending ∧ (x.running .vector).isNone then { x with sfActive := !x.sfActive, sfPending := false } else x

/-- The engines of a stall. -/
def engines : List Engine := [.matrix, .vector, .sequencer] ++ (List.finRange 8).map Engine.dma

/-- An entry that stands on stall n: it runs or is placed there, or, waiting, is bound to it by its save area (R273) or by its
admission to the reserve (R271). -/
def QEntry.onStall (e : QEntry) (fallback : Bool) (n : StallId) : Bool :=
  match e.phase with
  | .placed m _ => m == n
  | .retired => false
  | .waiting =>
    e.fields.pin && e.fields.affinity == n.val && (fallback || (e.desc.opclass == 2 && (progOf e.bytes).resume))

/-- Positions of a queue's entries that must run again when stall n leaves service: those that stand on it, those whose LINK chain
leads back to it, and, with each, its link group from the group's first entry on. The walk holds the group's entries so far
(waiting to be joined), whether the group is lost, and the stall of the previous entry. -/
def lostEntries (fallback : Bool) (n : StallId) : List QEntry → List QEntry → Bool → Option StallId → List (Fin 4096)
  | [], grp, lost, _ => if lost then grp.map (·.idx) else []
  | e :: es, grp, lost, prev =>
    let here := e.onStall fallback n
    if e.fields.link ∧ (grp ≠ [] ∨ prev = some n) then
      lostEntries fallback n es (grp ++ [e]) (lost || here || (!e.isRetired && prev == some n)) (if e.isWaiting then prev else e.stall)
    else
      (if lost then grp.map (·.idx) else []) ++ lostEntries fallback n es [e] here e.stall

/-- HEAD taken back to the first entry of the link group that it passed last, where the ring still holds the group; otherwise the
group restarts at its first entry in the ring (log entry 16). -/
def Queue.recall (x : Queue) : Option Queue :=
  match x.passed with
  | [] => none
  | e :: _ =>
    if x.used + x.passed.length < x.size then
      some { x with
        entries := x.passed ++ x.entries, head := BitVec.ofNat 12 e.idx.val, passed := []
        gen := if x.head.toNat ≤ e.idx.val then x.gen - 1 else x.gen }
    else none

/-- The queue as a loss of stall n finds it, with the entries that must run again. -/
def Queue.lost (x : Queue) (n : StallId) : Queue × List (Fin 4096) :=
  let own := (x, lostEntries x.fallback n x.entries [] false x.lastStall)
  match x.recall with
  | some y =>
    let l := lostEntries y.fallback n y.entries [] false none
    if (l.any fun i => x.passed.any fun e => e.idx == i) = true then (y, l) else own
  | none => own

/-- One entry waits again, afresh: PIN and RESUME cleared, counted (R277). -/
def State.requeue (s : State) (q : QueueId) (i : Fin 4096) : State :=
  match s.entry q i with
  | none => s
  | some e =>
    let ac := match e.phase with | .placed m _ => s.timeAc m (s.now - e.placedAt) | _ => 0
    let s1 := match e.phase with
      | .placed m g => s.freeEngine m g
      | _ => s
    let s2 := s1.rewriteEntry q i fun b => setResume false (clearPin b)
    let s3 := if ac = 0 ∧ e.isWaiting then s2.modEntry q i fun e => { e with flags := e.flags ||| 2, eligibleAt := none }
      else s2.unplace q i ac fun e => { e with flags := e.flags ||| 2 }
    s3.devInc .qmFaultRequeue

/-- Every entry of queue q that stall n's loss takes back waits again. -/
def State.requeueLost (s : State) (n : StallId) (q : QueueId) : State :=
  let l := (s.queue q).lost n
  l.2.foldl (fun s i => s.requeue q i) (s.modQueue q fun _ => l.1)

/-- Stall n leaves service: it is removed from every partition by IN_SERVICE, its engines stop, and its work is re-queued. -/
def State.stallLost (s : State) (n : StallId) : State :=
  let s1 := s.modStall n fun x => { x with inService := false }
  let s2 := (List.finRange 32).foldl (fun s q => s.requeueLost n q) s1
  let s3 := engines.foldl (fun s e => s.freeEngine n e) s2
  State.settle s (s3.modStall n fun x => { x with streams := vmap (fun y => { y with shadow := none }) x.streams })

/-! ### Taking entries in (R259, R261, R271) -/

/-- The stall of the entry before an entry in its queue. -/
def Queue.prevStall (x : Queue) (i : Fin 4096) : Option StallId :=
  match (x.entries.takeWhile fun e => e.idx != i).getLast? with
  | some p => p.stall
  | none => x.lastStall

/-- An entry with LINK whose previous entry retired on a stall that has left service since: the rule for stall loss (R268, R277). -/
def State.relink (s : State) (q : QueueId) (i : Fin 4096) : State :=
  match s.entry q i, (s.queue q).prevStall i with
  | some e, some m => if e.fields.link ∧ (s.stall m).inService = false then s.requeueLost m q else s
  | _, _ => s

/-- The entry whose bytes stand at TAIL joins the queue: its completion record is cleared, and in a fallback queue it is
admitted to the reserve or retired. -/
def State.takeIn (s : State) (q : QueueId) (bytes : List Byte) : State :=
  let x := s.queue q
  let i : Fin 4096 := ⟨x.tail.toNat, by have := x.tail.isLt; omega⟩
  let d := descOf bytes
  let e : QEntry :=
    { idx := i, bytes := bytes, phase := .waiting, launched := s.launchReached d, gateMet := (entryOf bytes).readyAddr == 0
      lastPoll := none, eligibleAt := none, affinityFree := false, missed := false, flags := 0, ac := 0, stall := none, placedAt := 0, start := 0
      asked := false }
  let s1 := (s.qmWrite (x.entryAddr i.val + 96) (List.replicate 32 0)).modQueue q fun x => { x with
    entries := x.entries ++ [e], tail := BitVec.ofNat 12 ((i.val + 1) % x.size) }
  if x.fallback then
    match s1.admitEntry x.cell (entryOf bytes).cost with
    | some (n, s2) => s2.rewriteEntry q i (setPin n)
    | none => ((s1.devInc .qmNotAdmitted).tdc .tdcSched x.cell 1).retire q i oNotAdmitted 0
  else s1.relink q i

/-- An entry of 96 bytes written at TAIL and taken in (R261). -/
def State.append (s : State) (q : QueueId) (bytes : List Byte) : State :=
  let x := s.queue q
  (s.qmWrite (x.entryAddr x.tail.toNat) bytes).takeIn q bytes

end Sys2Proof.Machine
end

