-- ==== Sys2Proof/Machine/SeqOps.lean ====
section
/-! DEFINITION. The signal sequencer's instructions over its registers (R134-R152): values and saturation (R137-R139), circular
addressing (R140), the exposed pipeline (R141), loops (R142), and one definition per operation of Table 05-3. -/
namespace Sys2Proof.Machine

/-! ### Values -/

/-- A 56-bit accumulator result saturated, with whether it did (R138). -/
def sat56 (v : Int) : BitVec 56 × Bool :=
  let w := clampInt (-(2 ^ 55)) (2 ^ 55 - 1) v
  (BitVec.ofInt 56 w, decide (w ≠ v))

/-- v saturated to int24, with whether it did (R139). -/
def sat24 (v : Int) : Int × Bool := let w := clampInt (-8388608) 8388607 v; (w, decide (w ≠ v))

/-- The stored word of an INT24 value: bits [31:24] copies of bit 23 (R137). -/
def int24Word (v : Int) : Word := BitVec.ofInt 32 v

/-- The INT24 value of a loaded word (R137). -/
def wordInt24 (w : Word) : BitVec 24 := w.setWidth 24

/-- The halves of a CI16 word, each shifted left by 8 (R137). -/
def ci16Re (w : Word) : BitVec 24 := (w.setWidth 16).setWidth 24 <<< 8
def ci16Im (w : Word) : BitVec 24 := ((w >>> 16).setWidth 16).setWidth 24 <<< 8

/-- Redundant sign bits of a 56-bit value (Table 05-3, CLS). -/
def cls56 (v : BitVec 56) : Nat :=
  ((List.range 55).foldl (fun (s : Nat × Bool) i =>
    if s.2 && (v.getLsbD (54 - i) == v.getLsbD 55) then (s.1 + 1, true) else (s.1, false)) (0, true)).1

/-! ### Registers (Table 05-5) -/

/-- What one instruction does: registers before the pipeline moves on, writes on their way, bytes stored (stall-local), whether
it saturated, and the outcome with which it ends the program or stops the command. -/
structure SeqResult where
  regs : SeqRegs
  late : List SeqLate
  stores : List (Nat × List Byte)
  sat : Bool
  stop : Option Byte
deriving DecidableEq, Repr

def SeqResult.ok (x : SeqRegs) : SeqResult := ⟨x, [], [], false, none⟩

def SeqResult.bad (x : SeqRegs) : SeqResult := ⟨x, [], [], false, some oBadInstr⟩

def SeqResult.outside (x : SeqRegs) : SeqResult := ⟨x, [], [], false, some oOutOfExtent⟩

/-- Registers at a command's start (R49, R146). -/
def SeqRegs.clear : SeqRegs :=
  { acc := Vector.replicate 4 0, accNew := Vector.replicate 4 0, s := Vector.replicate 2 0, t := Vector.replicate 2 0, c := 0
    ix := Vector.replicate 8 0, cbb := Vector.replicate 4 0, cbl := Vector.replicate 4 0, ls := Vector.replicate 2 0
    le := Vector.replicate 2 0, lc := Vector.replicate 2 0, lstat := 0, sqst := 0, ipc := 0, istat := 0, savep := 0, pc := 0
    late := [], branch := none, shadow := 0, cache := [], issue := 0 }

def ix8 (n : Nat) : Fin 8 := ⟨n % 8, Nat.mod_lt _ (by decide)⟩
def ix4 (n : Nat) : Fin 4 := ⟨n % 4, Nat.mod_lt _ (by decide)⟩
def ix2 (n : Nat) : Fin 2 := ⟨n % 2, Nat.mod_lt _ (by decide)⟩

/-- A register as a signed number; the 24-bit registers sign-extended, the others as 16-bit (log entry 12). -/
def SeqRegs.reg (x : SeqRegs) (n : Fin 31) : Int :=
  let k := n.val
  if k < 8 then (vget x.ix (ix8 k)).toInt
  else if k < 12 then (vget x.cbb (ix4 k)).toInt
  else if k < 16 then (vget x.cbl (ix4 k)).toInt
  else if k = 16 then (vget x.ls 0).toInt else if k = 17 then (vget x.le 0).toInt else if k = 18 then (vget x.lc 0).toInt
  else if k = 19 then (vget x.ls 1).toInt else if k = 20 then (vget x.le 1).toInt else if k = 21 then (vget x.lc 1).toInt
  else if k = 22 then x.lstat.toInt else if k = 23 then x.sqst.toInt
  else if k = 24 then x.ipc.toInt else if k = 25 then x.istat.toInt
  else if k = 26 then (vget x.s 0).toInt else if k = 27 then (vget x.s 1).toInt
  else if k = 28 then (vget x.t 0).toInt else if k = 29 then (vget x.t 1).toInt
  else (x.savep.toNat : Int)

/-- A register written; SAVEP is read only, SQST and LSTAT keep only their bits. LSTAT takes the loop depth of an image of ISTAT,
which bit 15 marks (R151, log entry 12). -/
def SeqRegs.setReg (x : SeqRegs) (n : Fin 31) (v : Int) : SeqRegs :=
  let k := n.val
  let w := BitVec.ofInt 16 v
  if k < 8 then { x with ix := vset x.ix (ix8 k) w }
  else if k < 12 then { x with cbb := vset x.cbb (ix4 k) w }
  else if k < 16 then { x with cbl := vset x.cbl (ix4 k) w }
  else if k = 16 then { x with ls := vset x.ls 0 w } else if k = 17 then { x with le := vset x.le 0 w }
  else if k = 18 then { x with lc := vset x.lc 0 w }
  else if k = 19 then { x with ls := vset x.ls 1 w } else if k = 20 then { x with le := vset x.le 1 w }
  else if k = 21 then { x with lc := vset x.lc 1 w }
  else if k = 22 then { x with lstat := if w.getLsbD 15 then (w >>> 6) &&& 3 else w &&& 3 } else if k = 23 then { x with sqst := w &&& 0x3F }
  else if k = 24 then { x with ipc := w } else if k = 25 then { x with istat := w }
  else if k = 26 then { x with s := vset x.s 0 (BitVec.ofInt 24 v) }
  else if k = 27 then { x with s := vset x.s 1 (BitVec.ofInt 24 v) }
  else if k = 28 then { x with t := vset x.t 0 (BitVec.ofInt 24 v) }
  else if k = 29 then { x with t := vset x.t 1 (BitVec.ofInt 24 v) }
  else x

/-- The distance at which a write to a register is seen (Table 05-2); a load comes a stage later than a move. -/
def seqDistance (n : Fin 31) (load : Bool) : Nat :=
  if n.val < 8 then (if load then 2 else 1) else if n.val < 26 then 3 else 2

/-- It is a loop, status or circular register, whose write opens the shadow (R149). -/
def seqShadowReg (n : Fin 31) : Bool := decide (8 ≤ n.val) && decide (n.val < 24)

/-- One late write made (R141). -/
def SeqRegs.apply (x : SeqRegs) (w : SeqLate) : SeqRegs :=
  match w.dest with
  | .reg n => x.setReg n w.value
  | .acc a => { x with acc := vset x.acc a (BitVec.ofInt 56 w.value) }
  | .accAll a => { x with acc := vset x.acc a (BitVec.ofInt 56 w.value), accNew := vset x.accNew a (BitVec.ofInt 56 w.value) }
  | .coef => { x with c := BitVec.ofInt 24 w.value }

/-- Every write on its way is made: the instructions in flight complete (R149). -/
def SeqRegs.drain (x : SeqRegs) : SeqRegs := { x.late.foldl SeqRegs.apply x with late := [] }

/-- The pipeline moves on by one instruction: writes that fall due are made, then new ones of distance 1; new ones of a
greater distance join the rest (R141). -/
def SeqRegs.shift (x : SeqRegs) (new : List SeqLate) : SeqRegs :=
  let due := x.late.filter fun w => decide (w.wait ≤ 1)
  let rest := (x.late.filter fun w => decide (1 < w.wait)).map fun w => { w with wait := w.wait - 1 }
  let now := new.filter fun w => w.wait == 0
  { (now.foldl SeqRegs.apply (due.foldl SeqRegs.apply x)) with late := rest ++ new.filter fun w => w.wait != 0 }

/-- A register write that is seen at a distance. -/
def lateReg (n : Fin 31) (v : Int) (distance : Nat) : SeqLate := ⟨.reg n, v, distance - 1⟩

/-- An accumulator write by another writer than a multiply-add: distance 2 for every reader (Table 05-2). -/
def lateAcc (a : Fin 4) (v : Int) : SeqLate := ⟨.accAll a, v, 1⟩

/-- Register IX n by number. -/
def regIx (n : Fin 8) : Fin 31 := ⟨n.val, by omega⟩

/-! ### Addresses (R135, R140, R147) -/

/-- IX n moved by i, circular where it is bound (R140). -/
def SeqRegs.moved (x : SeqRegs) (n : Fin 8) (i : Int) : Int :=
  let v := vget x.ix n
  let c := ix4 n.val
  let len := (vget x.cbl c).toNat
  if n.val < 4 ∧ x.sqst.getLsbD n.val = true ∧ len ≠ 0 then
    let b : Int := (vget x.cbb c).toNat
    b + ((v.toNat : Int) - b + i) % (len : Int)
  else (v.toNat : Int) + i

/-- The word index of an address, and the post-modify it makes (Table 05-3). -/
def SeqRegs.addr (x : SeqRegs) (a : SeqAddr) : Nat × List SeqLate :=
  match a with
  | .offset n off => ((vget x.ix n + BitVec.signExtend 16 off).toNat, [])
  | .post n inc => ((vget x.ix n).toNat, [lateReg (regIx n) (x.moved n inc.toInt) 1])

/-- Byte address of a word index (R135). -/
def seqByte (w : Nat) : Nat := 0x150000 + 4 * w

/-- A load of n words at w is permitted: inside sequencer memory, and as a whole in the read extent or in the save area (R147). -/
def seqMayLoad (d : ProgDesc) (w n : Nat) : Bool :=
  let a := seqByte w
  decide (w + n ≤ 0xC000) &&
    ((decide (d.rdBase ≤ a) && decide (a + 4 * n ≤ d.rdEnd)) ||
     (d.saveAddr != 0 && decide (d.saveAddr ≤ a) && decide (a + 4 * n ≤ d.saveAddr + 256)))

/-- A store of n words at w is permitted (R147). -/
def seqMayStore (d : ProgDesc) (w n : Nat) : Bool :=
  decide (w + n ≤ 0xC000) && decide (d.wrBase ≤ seqByte w) && decide (seqByte w + 4 * n ≤ d.wrEnd)

/-- Word w of sequencer memory. -/
def seqWord (m : Mem) (w : Nat) : Word := BitVec.ofNat 32 (memNat m (seqByte w) 4)

/-! ### Control (R142, R143, R149, R150) -/

/-- The loop depth in LSTAT. -/
def SeqRegs.depth (x : SeqRegs) : Nat := (x.lstat &&& 3).toNat

/-- The instruction at pc is the last of the innermost loop's body. -/
def SeqRegs.atLoopEnd (x : SeqRegs) : Bool :=
  decide (0 < x.depth) && decide ((vget x.le (ix2 (x.depth - 1))).toNat = x.pc)

/-- A branch or loop instruction may not stand in a delay slot or at the end of a loop body (R141). -/
def SeqRegs.noBranchHere (x : SeqRegs) : Bool := x.branch.isSome || x.atLoopEnd

/-- After the instruction at pc: the loops that end there run again or close (R142). -/
def seqLoopBack : Nat → SeqRegs → SeqRegs
  | 0, x => { x with pc := x.pc + 1 }
  | k + 1, x =>
    if x.atLoopEnd then
      let l := ix2 (x.depth - 1)
      let n := (vget x.lc l).toNat
      if 1 < n then { x with lc := vset x.lc l (BitVec.ofNat 16 (n - 1)), pc := (vget x.ls l).toNat }
      else seqLoopBack k { x with lstat := BitVec.ofNat 16 (x.depth - 1) }
    else { x with pc := x.pc + 1 }

/-- The program counter after an instruction that is not taken as a branch: delay slots count down to the target. -/
def SeqRegs.step (x : SeqRegs) : SeqRegs :=
  let y := { seqLoopBack 2 x with shadow := x.shadow - 1 }
  match x.branch with
  | some (1, t) => { y with branch := none, pc := t }
  | some (k, t) => { y with branch := some (k - 1, t) }
  | none => y

/-- A taken branch to t (R141). -/
def SeqRegs.jump (x : SeqRegs) (t : Nat) : SeqRegs := { x with branch := some (3, t) }

def seqJmpOp (t : BitVec 16) (x : SeqRegs) : SeqResult :=
  if x.noBranchHere then .bad x else .ok (x.jump t.toNat)

def seqJzOp (n : Fin 8) (t : BitVec 16) (x : SeqRegs) : SeqResult :=
  if x.noBranchHere then .bad x else if vget x.ix n = 0 then .ok (x.jump t.toNat) else .ok x

def seqJnzOp (n : Fin 8) (t : BitVec 16) (x : SeqRegs) : SeqResult :=
  if x.noBranchHere then .bad x else if vget x.ix n = 0 then .ok x else .ok (x.jump t.toNat)

/-- The body of the enclosing loop, whose instructions the loop cache may hold: 16 at most (R142). -/
def SeqRegs.cached (x : SeqRegs) : Option (Nat × Nat) :=
  let l := ix2 (x.depth - 1)
  let a := (vget x.ls l).toNat
  let b := (vget x.le l).toNat
  if 0 < x.depth ∧ b < a + 16 then some (a, b) else none

/-- The loop cache as a loop over the instructions from a to b opens. Their first pass comes over the K bus, so they are let go; of the
rest it keeps the enclosing body's (log entry 12). -/
def SeqRegs.openCache (x : SeqRegs) (a b : Nat) : List (Nat × Word) :=
  match x.cached with
  | some _ => x.cache.filter fun e => decide (e.1 < a) || decide (b < e.1)
  | none => []

/-- LOOP: the next b instructions n times; 0 times skips them; a third level is undefined (R142). It writes the loop's registers, which
opens the shadow of R149. -/
def seqLoopOp (b n : Nat) (x : SeqRegs) : SeqResult :=
  if x.noBranchHere ∨ 2 ≤ x.depth ∨ b = 0 ∨ 256 < b then .bad x
  else if n = 0 then .ok { x with pc := x.pc + b }
  else
    let l := ix2 x.depth
    .ok { x with ls := vset x.ls l (BitVec.ofNat 16 (x.pc + 1)), le := vset x.le l (BitVec.ofNat 16 (x.pc + b))
                 lc := vset x.lc l (BitVec.ofNat 16 n), lstat := BitVec.ofNat 16 (x.depth + 1), shadow := 3
                 cache := x.openCache (x.pc + 1) (x.pc + b) }

/-- ISTAT: SQST in bits [5:0], the loop depth in bits [7:6], and bit 15 set (log entry 12). -/
def istatOf (x : SeqRegs) : BitVec 16 := 0x8000 ||| (x.sqst &&& 0x3F) ||| ((x.lstat &&& 3) <<< 6)

/-- RETI: SQST and LSTAT from ISTAT, and on at IPC after two delay slots (R150). -/
def seqRetiOp (x : SeqRegs) : SeqResult :=
  if x.noBranchHere then .bad x
  else
    { SeqResult.ok (x.jump x.ipc.toNat) with
      late := [lateReg 23 (x.istat &&& 0x3F).toInt 3, lateReg 22 ((x.istat >>> 6) &&& 3).toInt 3] }

/-- EI and DI write SQST.IE and open the shadow (R149). -/
def seqIeOp (on : Bool) (x : SeqRegs) : SeqResult :=
  .ok { x with sqst := if on then x.sqst ||| 0x10 else x.sqst &&& 0x2F, shadow := 3 }

/-- The interrupt of R149 at an instruction boundary outside the shadow. -/
def SeqRegs.interrupt (x : SeqRegs) (vec : Nat) : SeqRegs :=
  let y := x.drain
  { y with ipc := BitVec.ofNat 16 y.pc, istat := istatOf y, sqst := y.sqst &&& 0x2F, lstat := 0, pc := vec, shadow := 1 }

/-- An interrupt may be taken at this boundary, as far as the program goes (R149). -/
def SeqRegs.mayInterrupt (x : SeqRegs) : Bool := x.branch.isNone && x.shadow == 0

/-! ### Moves (R143) -/

/-- The value a move reads, and whether its conversion saturated. -/
def SeqRegs.src (x : SeqRegs) : SeqReg → Int × Bool
  | .reg n => (x.reg n, false)
  | .acc a => sat24 (vget x.acc a).toInt

/-- A move or load into a register or accumulator. -/
def seqInto (x : SeqRegs) (d : SeqReg) (v : Int) (load : Bool) : SeqResult :=
  match d with
  | .reg n =>
    { SeqResult.ok (if seqShadowReg n then { x with shadow := 3 } else x) with late := [lateReg n v (seqDistance n load)] }
  | .acc a => { SeqResult.ok x with late := [lateAcc a v] }

def seqMvOp (d s : SeqReg) (x : SeqRegs) : SeqResult :=
  let v := x.src s
  { seqInto x d v.1 false with sat := v.2 }

def seqMviOp (d : SeqReg) (imm : BitVec 16) (x : SeqRegs) : SeqResult := seqInto x d imm.toInt false

/-! ### Loads and stores of the sample and tap pairs (R137, R143) -/

/-- Words that a format takes. -/
def fmtWords : SeqFmt → Nat
  | .int24 => 2
  | _ => 1

/-- A defined format; an instruction with another is undefined (R137, R143). -/
def fmtListed : SeqFmt → Bool
  | .reserved _ => false
  | _ => true

/-- The pair loaded from word w. -/
def seqPair (m : Mem) (f : SeqFmt) (w : Nat) : BitVec 24 × BitVec 24 :=
  match f with
  | .int24 => (wordInt24 (seqWord m w), wordInt24 (seqWord m (w + 1)))
  | _ => (ci16Re (seqWord m w), ci16Im (seqWord m w))

/-- A load of a pair into S (26, 27) or T (28, 29): distance 2. -/
def seqLoadPair (m : Mem) (d : ProgDesc) (f : SeqFmt) (a : SeqAddr) (r0 r1 : Fin 31) (x : SeqRegs) : SeqResult :=
  let p := x.addr a
  if fmtListed f = false then .bad x
  else if seqMayLoad d p.1 (fmtWords f) then
    let v := seqPair m f p.1
    { SeqResult.ok x with late := p.2 ++ [lateReg r0 v.1.toInt 2, lateReg r1 v.2.toInt 2] }
  else .outside x

def seqLdsOp (m : Mem) (d : ProgDesc) (f : SeqFmt) (a : SeqAddr) (x : SeqRegs) : SeqResult := seqLoadPair m d f a 26 27 x

def seqLdtOp (m : Mem) (d : ProgDesc) (f : SeqFmt) (a : SeqAddr) (x : SeqRegs) : SeqResult := seqLoadPair m d f a 28 29 x

/-- The bytes of a pair in a format: CI16 parts rounded to 16 bits under RHU (log entry 12). -/
def seqPairBytes (f : SeqFmt) (v0 v1 : BitVec 24) : List Byte × Bool :=
  match f with
  | .int24 => (natLE 4 (int24Word v0.toInt).toNat ++ natLE 4 (int24Word v1.toInt).toNat, false)
  | _ =>
    let a := satBits16 (rhuShift v0.toInt 8)
    let b := satBits16 (rhuShift v1.toInt 8)
    (intLE 2 a.1 ++ intLE 2 b.1, a.2 || b.2)
where
  /-- Saturation to 16 bits. -/
  satBits16 (v : Int) : Int × Bool := let w := clampInt (-32768) 32767 v; (w, decide (w ≠ v))

/-- A store of a pair. -/
def seqStorePair (d : ProgDesc) (f : SeqFmt) (a : SeqAddr) (v0 v1 : BitVec 24) (x : SeqRegs) : SeqResult :=
  let p := x.addr a
  if fmtListed f = false then .bad x
  else if seqMayStore d p.1 (fmtWords f) then
    let b := seqPairBytes f v0 v1
    { SeqResult.ok x with late := p.2, stores := [(seqByte p.1, b.1)], sat := b.2 }
  else .outside x

def seqStsOp (d : ProgDesc) (f : SeqFmt) (a : SeqAddr) (x : SeqRegs) : SeqResult :=
  seqStorePair d f a (vget x.s 0) (vget x.s 1) x

def seqSttOp (d : ProgDesc) (f : SeqFmt) (a : SeqAddr) (x : SeqRegs) : SeqResult :=
  seqStorePair d f a (vget x.t 0) (vget x.t 1) x

def seqLdwOp (m : Mem) (d : ProgDesc) (r : Fin 31) (a : SeqAddr) (x : SeqRegs) : SeqResult :=
  let p := x.addr a
  if seqMayLoad d p.1 1 then
    let y := seqInto x (.reg r) (seqWord m p.1).toInt true
    { y with late := p.2 ++ y.late }
  else .outside x

/-- STW: 24-bit registers as INT24 words, the others zero-extended (log entry 12). -/
def seqStwOp (d : ProgDesc) (r : Fin 31) (a : SeqAddr) (x : SeqRegs) : SeqResult :=
  let p := x.addr a
  if seqMayStore d p.1 1 then
    let v := x.reg r
    let w : Word := if 26 ≤ r.val then BitVec.ofInt 32 v else (BitVec.ofInt 16 v).setWidth 32
    { SeqResult.ok x with late := p.2, stores := [(seqByte p.1, natLE 4 w.toNat)] }
  else .outside x

/-- LDC: C from [IX3], with post-modify. -/
def seqLdcOp (m : Mem) (d : ProgDesc) (inc : Byte) (x : SeqRegs) : SeqResult :=
  let p := x.addr (.post 3 inc)
  if seqMayLoad d p.1 1 then
    { SeqResult.ok x with late := p.2 ++ [⟨.coef, (wordInt24 (seqWord m p.1)).toInt, 1⟩] }
  else .outside x

/-! ### Multiply (Table 05-4) -/

/-- The fields of a multiply word. -/
structure SeqMul where
  cls : Nat
  op : Nat
  pair : Nat
  useC : Bool
  sld : Nat
  sinc : Int
  tld : Nat
  tinc : Int
  ci16 : Bool
  conj : Bool
  low : Nat
deriving DecidableEq, Repr

def seqMulOf (w : Word) : SeqMul :=
  { cls := fld w 31 28, op := fld w 27 26, pair := fld w 25 25, useC := wbit w 24, sld := fld w 23 22
    sinc := signed 3 (fld w 21 19), tld := fld w 18 17, tinc := signed 3 (fld w 16 14), ci16 := wbit w 13, conj := wbit w 12
    low := fld w 11 0 }

/-- A defined word of class 4h or 5h (Table 05-4). -/
def SeqMul.defined (u : SeqMul) : Bool :=
  (u.cls == 4 || u.cls == 5) && u.op != 3 && u.sld != 3 && u.tld != 3 && u.low == 0
    && (if u.cls = 4 then !u.conj else !u.useC)

/-- An accumulator after op with an exact product sum (R138). -/
def mulAcc (op : Nat) (a : BitVec 56) (p : Int) : BitVec 56 × Bool :=
  sat56 (match op with | 0 => a.toInt + p | 1 => a.toInt - p | _ => p)

/-- The exact product sums for ACCa and ACCb (R144). -/
def SeqRegs.products (x : SeqRegs) (u : SeqMul) : Int × Int :=
  let s0 := (vget x.s 0).toInt; let s1 := (vget x.s 1).toInt
  let t0 := (vget x.t 0).toInt; let t1 := (vget x.t 1).toInt
  let c := x.c.toInt
  if u.cls = 4 then (s0 * (if u.useC then c else t0), s1 * (if u.useC then c else t1))
  else if u.conj then (s0 * t0 + s1 * t1, s1 * t0 - s0 * t1)
  else (s0 * t0 - s1 * t1, s0 * t1 + s1 * t0)

/-- A multiply instruction with its parallel loads: the loads and the products use the registers as they stand; accumulator
feedback is seen at once by the next multiply-add, by others at distance 2; another writer's result on its way does not undo it (R141,
R144). -/
def seqMulOp (m : Mem) (d : ProgDesc) (w : Word) (x : SeqRegs) : SeqResult :=
  let u := seqMulOf w
  let f := if u.ci16 then SeqFmt.ci16 else SeqFmt.int24
  if !u.defined then .bad x
  else
    let si : Fin 8 := if u.sld = 1 then 0 else 1
    let ti : Fin 8 := if u.tld = 1 then 2 else 3
    let sw := (vget x.ix si).toNat
    let tw := (vget x.ix ti).toNat
    let tn := if u.tld = 1 then (fmtWords f) else 1
    if (u.sld ≠ 0 ∧ seqMayLoad d sw (fmtWords f) = false) ∨ (u.tld ≠ 0 ∧ seqMayLoad d tw tn = false) then .outside x
    else
      let sl : List SeqLate := if u.sld = 0 then [] else
        let v := seqPair m f sw
        [lateReg (regIx si) (x.moved si u.sinc) 1, lateReg 26 v.1.toInt 2, lateReg 27 v.2.toInt 2]
      let tl : List SeqLate := if u.tld = 0 then []
        else if u.tld = 1 then
          let v := seqPair m f tw
          [lateReg (regIx ti) (x.moved ti u.tinc) 1, lateReg 28 v.1.toInt 2, lateReg 29 v.2.toInt 2]
        else [lateReg (regIx ti) (x.moved ti u.tinc) 1, ⟨.coef, (wordInt24 (seqWord m tw)).toInt, 1⟩]
      let ia : Fin 4 := if u.pair = 0 then 0 else 2
      let ib : Fin 4 := if u.pair = 0 then 1 else 3
      let p := x.products u
      let ra := mulAcc u.op (vget x.accNew ia) p.1
      let rb := mulAcc u.op (vget x.accNew ib) p.2
      { regs := { x with accNew := vset (vset x.accNew ia ra.1) ib rb.1, late := x.late.map (fedBack ia ib) }
        late := sl ++ tl ++ [⟨.acc ia, ra.1.toInt, 1⟩, ⟨.acc ib, rb.1.toInt, 1⟩]
        stores := [], sat := ra.2 || rb.2, stop := none }
where
  /-- A write on its way that the feedback of accumulators a and b no longer sees. -/
  fedBack (a b : Fin 4) (w : SeqLate) : SeqLate :=
    match w.dest with
    | .accAll c => if c = a ∨ c = b then { w with dest := .acc c } else w
    | _ => w

/-! ### Accumulators (Table 05-3, class 6h) -/

/-- An accumulator result with saturation. -/
def seqAccResult (a : Fin 4) (v : Int) (x : SeqRegs) : SeqResult :=
  let r := sat56 v
  { SeqResult.ok x with late := [lateAcc a r.1.toInt], sat := r.2 }

def SeqRegs.accv (x : SeqRegs) (a : Fin 4) : Int := (vget x.acc a).toInt

def seqAddOp (a b : Fin 4) (x : SeqRegs) : SeqResult := seqAccResult a (x.accv a + x.accv b) x

def seqSubOp (a b : Fin 4) (x : SeqRegs) : SeqResult := seqAccResult a (x.accv a - x.accv b) x

def seqNegOp (a : Fin 4) (x : SeqRegs) : SeqResult := seqAccResult a (-(x.accv a)) x

def seqAbsOp (a : Fin 4) (x : SeqRegs) : SeqResult := seqAccResult a ((x.accv a).natAbs : Int) x

/-- ASH: left by k, or right by −k towards −∞ (log entry 12). -/
def seqAshOp (a : Fin 4) (k : Int) (x : SeqRegs) : SeqResult :=
  seqAccResult a (if 0 ≤ k then x.accv a * 2 ^ k.toNat else x.accv a / 2 ^ (-k).toNat) x

/-- MIN and MAX: the extreme to ACCa, and IX7 1 when ACCb was taken (Table 05-3). -/
def seqExtreme (takeB : Bool) (a b : Fin 4) (x : SeqRegs) : SeqResult :=
  { SeqResult.ok x with late := [lateAcc a (if takeB then x.accv b else x.accv a), lateReg 7 (bitNat takeB) 2] }

def seqMinOp (a b : Fin 4) (x : SeqRegs) : SeqResult := seqExtreme (decide (x.accv b < x.accv a)) a b x

def seqMaxOp (a b : Fin 4) (x : SeqRegs) : SeqResult := seqExtreme (decide (x.accv a < x.accv b)) a b x

def seqClsOp (a : Fin 4) (x : SeqRegs) : SeqResult :=
  { SeqResult.ok x with late := [lateReg 7 (cls56 (vget x.acc a)) 2] }

/-- DIV (R143). -/
def seqDivOp (a : Fin 4) (x : SeqRegs) : SeqResult :=
  let n := x.accv a
  let d := (vget x.s 0).toInt
  if d = 0 then
    { SeqResult.ok x with late := [lateAcc a (if 0 < n then 8388607 else if n < 0 then -8388608 else 0)] }
  else
    -- floor(n 2^23 / d + 1/2) = floor((2 n 2^23 + d) / (2 d))
    let num := if d < 0 then -(n * 16777216 + d) else n * 16777216 + d
    let r := sat24 (num / (2 * (d.natAbs : Int)))
    { SeqResult.ok x with late := [lateAcc a r.1], sat := r.2 }

/-! ### Rounded stores (R139) -/

def seqStaOp (d : ProgDesc) (a : Fin 4) (s : Nat) (ad : SeqAddr) (x : SeqRegs) : SeqResult :=
  let p := x.addr ad
  if seqMayStore d p.1 1 then
    let y := sat24 (rhuShift (x.accv a) s)
    { SeqResult.ok x with late := p.2, stores := [(seqByte p.1, natLE 4 (int24Word y.1).toNat)], sat := y.2 }
  else .outside x

/-- STA2: a CI16 word from an accumulator pair. -/
def seqSta2Op (d : ProgDesc) (pair : Fin 2) (s : Nat) (ad : SeqAddr) (x : SeqRegs) : SeqResult :=
  let p := x.addr ad
  if seqMayStore d p.1 1 then
    let sat (v : Int) : Int × Bool := let w := clampInt (-32768) 32767 v; (w, decide (w ≠ v))
    let re := sat (rhuShift (x.accv (ix4 (2 * pair.val))) s)
    let im := sat (rhuShift (x.accv (ix4 (2 * pair.val + 1))) s)
    { SeqResult.ok x with late := p.2, stores := [(seqByte p.1, intLE 2 re.1 ++ intLE 2 im.1)], sat := re.2 || im.2 }
  else .outside x

/-- STA4: four bytes, each saturated to ±127. -/
def seqSta4Op (d : ProgDesc) (s : Nat) (ad : SeqAddr) (x : SeqRegs) : SeqResult :=
  let p := x.addr ad
  if seqMayStore d p.1 1 then
    let one (a : Nat) : Int × Bool :=
      let v := rhuShift (x.accv (ix4 a)) s
      let w := clampInt (-127) 127 v
      (w, decide (w ≠ v))
    let rs := (List.range 4).map one
    { SeqResult.ok x with late := p.2, stores := [(seqByte p.1, rs.flatMap fun r => intLE 1 r.1)], sat := rs.any (·.2) }
  else .outside x

/-- SAVA: the 56 raw bits as two words (R139). -/
def seqSavaOp (d : ProgDesc) (a : Fin 4) (ad : SeqAddr) (x : SeqRegs) : SeqResult :=
  let p := x.addr ad
  if seqMayStore d p.1 2 then
    { SeqResult.ok x with late := p.2, stores := [(seqByte p.1, intLE 8 (x.accv a))] }
  else .outside x

/-- LDAR: the two words of SAVA restored. -/
def seqLdarOp (m : Mem) (d : ProgDesc) (a : Fin 4) (ad : SeqAddr) (x : SeqRegs) : SeqResult :=
  let p := x.addr ad
  if seqMayLoad d p.1 2 then
    { SeqResult.ok x with late := p.2 ++ [lateAcc a (BitVec.ofNat 56 (memNat m (seqByte p.1) 8)).toInt] }
  else .outside x

/-- ADDI under R140. -/
def seqAddiOp (n : Fin 8) (imm : BitVec 16) (x : SeqRegs) : SeqResult :=
  { SeqResult.ok x with late := [lateReg (regIx n) (x.moved n imm.toInt) 1] }

/-! ### Fetch and issue (R136, R142, R145) -/

/-- The word at the program index, and whether the loop cache holds it; none past the end of the program. -/
def SeqRegs.fetch (x : SeqRegs) (p : ProgDesc) (m : Mem) : Option (Word × Bool) :=
  if p.len ≤ x.pc then none
  else match x.cache.find? fun e => e.1 == x.pc with
    | some e => some (e.2, true)
    | none => some (BitVec.ofNat 32 (memNat m (p.prog + 4 * x.pc) 4), false)

/-- The loop cache once the word at the program index has been fetched: a word of the innermost body joins it. -/
def SeqRegs.fill (x : SeqRegs) (w : Word) (held : Bool) : List (Nat × Word) :=
  match x.cached with
  | some (a, b) => if held = false ∧ a ≤ x.pc ∧ x.pc ≤ b then x.cache ++ [(x.pc, w)] else x.cache
  | none => x.cache

/-- The bank of a word of sequencer memory (R52). -/
def seqBank (w : Nat) : Nat := seqByte w / 64 % 8

/-- ac that an instruction takes at issue: those of Table 05-3, one more where its S and T accesses meet in a bank, and one more for
each way in which its coefficient access waits: for a bank that S uses, or for a K bus that fetched the instruction (R136, R142). -/
def seqIssue (code : Nat) (w : Word) (held : Bool) (x : SeqRegs) : Nat :=
  let cls := code / 16
  let own := if cls = 5 ∨ code = 0x73 ∨ code = 0x74 then 2 else if code = 0x68 then 26 else 1
  if cls = 4 ∨ cls = 5 then
    let u := seqMulOf w
    let f := if u.ci16 then SeqFmt.ci16 else SeqFmt.int24
    let words (i : Fin 8) (n : Nat) := (List.range n).map fun k => seqBank ((vget x.ix i).toNat + k)
    let sb := if u.sld = 0 then [] else words (if u.sld = 1 then 0 else 1) (fmtWords f)
    let tb := if u.tld = 1 then words 2 (fmtWords f) else if u.tld = 2 then words 3 1 else []
    own + bitNat (tb.any sb.contains) + bitNat (u.tld == 2 && !held)
  else own + bitNat (code == 0x32 && !held)

/-- The registers with the instruction at the program index fetched: its issue is charged, and the loop cache may hold its word. -/
def SeqRegs.fetched (x : SeqRegs) (code : Nat) (w : Word) (held : Bool) : SeqRegs :=
  { x with issue := x.issue + seqIssue code w held x, cache := x.fill w held }

/-- The index registers at the start of an item, or of the whole program (R146, R148). -/
def SeqRegs.load (x : SeqRegs) (p : ProgDesc) (it : Option Item) : SeqRegs :=
  let set (y : SeqRegs) (k : Fin 8) (v : Nat) : SeqRegs := { y with ix := vset y.ix k (BitVec.ofNat 16 v) }
  let y := set (set (set x 0 ((p.rdBase - 0x150000) / 4)) 5 ((p.wrBase - 0x150000) / 4)) 4 p.param
  let z := set (set y 6 ((it.map (·.first)).getD 0)) 7 ((it.map (·.count)).getD 0)
  { z with pc := 0, branch := none, shadow := 0, cache := [] }

end Sys2Proof.Machine
end

