-- ==== Sys2Proof/Machine/VecOps.lean ====
section
/-! DEFINITION. The vector engine's instructions over its registers: one definition per opcode of Table 04-4 (R102-R130). -/
namespace Sys2Proof.Machine

/-! ### Instruction words (Table 04-3) -/

/-- The fields of an instruction word. -/
structure VecInstr where
  op : Nat
  type : Nat
  wrap : Bool
  men : Bool
  msel : Nat
  mzero : Bool
  vd : Nat
  va : Nat
  vb : Nat
  vc : Nat
  ab : Nat
  imm : Nat
deriving DecidableEq, Repr

def vecInstrOf (w : Nat) : VecInstr :=
  { op := bitsOf w 63 56, type := bitsOf w 55 53, wrap := bitOf w 52, men := bitOf w 51, msel := bitsOf w 50 48
    mzero := bitOf w 47, vd := bitsOf w 46 42, va := bitsOf w 41 37, vb := bitsOf w 36 32, vc := bitsOf w 31 27
    ab := bitsOf w 26 24, imm := bitsOf w 23 0 }

/-- What one instruction does to the engine: its registers, the bytes it stores (stall-local), what it adds to
VEC_EMPTY_COUNT and QUANT_BAD_SCALE, free values used, and the outcome with which it stops the command (R108). -/
structure VecResult where
  regs : VecRegs
  stores : List (Nat × List Byte)
  empties : Nat
  bads : Nat
  stop : Option Byte
deriving DecidableEq, Repr

/-- What an instruction reads beside the registers: the stall's memory, the command, the active function bank, and the free
values for what the spec leaves open. -/
structure VecEnv where
  mem : Mem
  desc : ProgDesc
  fn : FnTable
  free : Nat → Word

def VecResult.ok (x : VecRegs) : VecResult := ⟨x, [], 0, 0, none⟩

def VecResult.bad (x : VecRegs) : VecResult := ⟨x, [], 0, 0, some oBadInstr⟩

def VecResult.outside (x : VecRegs) : VecResult := ⟨x, [], 0, 0, some oOutOfExtent⟩

/-! ### Registers -/

def tileIx (n : Nat) : Fin 32 := ⟨n % 32, Nat.mod_lt _ (by decide)⟩

def maskIx (n : Nat) : Fin 8 := ⟨n % 8, Nat.mod_lt _ (by decide)⟩

def VecRegs.tile (x : VecRegs) (n : Nat) : Tile := vget x.v (tileIx n)

def VecRegs.mask (x : VecRegs) (n : Nat) : BitVec 256 := vget x.k (maskIx n)

/-- Address register n; A0 reads 0 (R104). -/
def VecRegs.areg (x : VecRegs) (n : Nat) : Word := if n % 8 = 0 then 0 else vget x.a (maskIx n)

def VecRegs.setTile (x : VecRegs) (n : Nat) (t : Tile) : VecRegs := { x with v := vset x.v (tileIx n) t }

def VecRegs.setMask (x : VecRegs) (n : Nat) (m : BitVec 256) : VecRegs := { x with k := vset x.k (maskIx n) m }

/-- A write to A0 is ignored (R104). -/
def VecRegs.setA (x : VecRegs) (n : Nat) (w : Word) : VecRegs :=
  if n % 8 = 0 then x else { x with a := vset x.a (maskIx n) w }

/-- Element i (16 r + l) of a tile. -/
def tget (t : Tile) (i : Nat) : Word := t.toArray.getD i 0

/-- The tile of f. -/
def tgen (f : Nat → Word) : Tile := ⟨((List.range 256).map f).toArray, by simp⟩

/-- Registers cleared at a command's start (R49). -/
def VecRegs.clear (bank : Bool) (flush : Word) : VecRegs :=
  { v := Vector.replicate 32 (Vector.replicate 256 0), k := Vector.replicate 8 0, a := Vector.replicate 8 0, pc := 0,
    loops := [], bank := bank, flush := flush }

/-- Element i takes part (R103, R114): a complex pair only when both its lanes are active. -/
def VecRegs.active (x : VecRegs) (f : VecInstr) (i : Nat) : Bool :=
  if f.men then
    let m := x.mask f.msel
    if f.type = 2 ∨ f.type = 3 then m.getLsbD (i / 2 * 2) && m.getLsbD (i / 2 * 2 + 1) else m.getLsbD i
  else true

/-- VD with the active elements from g; the others kept, or +0 with MZERO (R114). -/
def VecRegs.put (x : VecRegs) (f : VecInstr) (g : Nat → Word) : VecRegs :=
  let old := x.tile f.vd
  x.setTile f.vd (tgen fun i => if x.active f i then g i else if f.mzero then 0 else tget old i)

/-! ### Loads and stores (R108, R109) -/

/-- The address of row r of an LD or ST. -/
def vecRowAddr (x : VecRegs) (f : VecInstr) (r : Nat) : Nat :=
  (x.areg f.ab).toNat + bitsOf f.imm 11 0 * 16 + r * (bitsOf f.imm 23 12 * 16)

/-- Byte a lies in the read extent: [RD_BASE, RD_END) with the program (R106). -/
def vecReadable (d : ProgDesc) (a : Nat) : Bool :=
  (decide (d.rdBase ≤ a) && decide (a < d.rdEnd)) || (decide (d.prog ≤ a) && decide (a < d.prog + 8 * d.len))

/-- All of n bytes at a may be read. -/
def vecMayRead (d : ProgDesc) (a n : Nat) : Bool := (List.range n).all fun i => vecReadable d (a + i)

/-- LD: 16 rows of 64 bytes. -/
def vecLdStep (e : VecEnv) (f : VecInstr) (x : VecRegs) : VecResult :=
  if (List.range 16).all fun r => vecMayRead e.desc (vecRowAddr x f r) 64 then
    .ok (x.put f fun i => BitVec.ofNat 32 (memNat e.mem (vecRowAddr x f (i / 16) + 4 * (i % 16)) 4))
  else .outside x

/-- ST: 16 rows of 64 bytes, the active elements only. Rows that a pitch below 64 bytes lays over each other are written in ascending
order, so that the later row stands (DESIGN CHOICE, log entry 12: R109 does not say). -/
def vecStStep (e : VecEnv) (f : VecInstr) (x : VecRegs) : VecResult :=
  if (List.range 16).all fun r =>
      decide (e.desc.wrBase ≤ vecRowAddr x f r) && decide (vecRowAddr x f r + 64 ≤ e.desc.wrEnd) then
    let t := x.tile f.vd
    { VecResult.ok x with
      stores := ((List.range 256).filter (x.active f)).map fun i =>
        (vecRowAddr x f (i / 16) + 4 * (i % 16), natLE 4 (tget t i).toNat) }
  else .outside x

/-- LDR: one row copied into all 16. -/
def vecLdrStep (e : VecEnv) (f : VecInstr) (x : VecRegs) : VecResult :=
  let a := (x.areg f.ab).toNat + bitsOf f.imm 11 0 * 16
  if vecMayRead e.desc a 64 then .ok (x.put f fun i => BitVec.ofNat 32 (memNat e.mem (a + 4 * (i % 16)) 4))
  else .outside x

/-! ### Control and addresses (R110) -/

/-- The next instruction once that at pc has run: the innermost loop that ends there runs again or closes (R110). -/
def vecNext : List VecLoop → Nat → List VecLoop × Nat
  | [], pc => ([], pc)
  | l :: ls, pc =>
    if l.last < pc then
      if 1 < l.left then ({ l with left := l.left - 1 } :: ls, l.first) else vecNext ls pc
    else (l :: ls, pc)

/-- The registers with the program index moved past an instruction. -/
def VecRegs.advance (x : VecRegs) (pc : Nat) : VecRegs :=
  let r := vecNext x.loops pc
  { x with loops := r.1, pc := r.2 }

/-- LOOP: the next IMM[21:16] + 1 instructions, IMM[15:0] times. The index is left at the LOOP or before the body. -/
def vecLoopStep (e : VecEnv) (f : VecInstr) (x : VecRegs) : VecResult :=
  let n := bitsOf f.imm 21 16 + 1
  let count := bitsOf f.imm 15 0
  let last := x.pc + n
  if e.desc.len ≤ last ∨ 2 ≤ x.loops.length ∨ (x.loops.any fun l => l.last < last) then .bad x
  else if count = 0 then .ok { x with pc := last }
  else .ok { x with loops := ⟨x.pc + 1, last, count⟩ :: x.loops }

/-- ADDI: A[AB] + 16 × IMM, signed. -/
def vecAddiStep (f : VecInstr) (x : VecRegs) : VecResult :=
  .ok (x.setA f.ab (x.areg f.ab + BitVec.ofInt 32 (16 * signed 24 f.imm)))

/-- ADDM: A[AB] + A[VA] × IMM[15:0] × 16. -/
def vecAddmStep (f : VecInstr) (x : VecRegs) : VecResult :=
  .ok (x.setA f.ab (x.areg f.ab + x.areg (f.va % 8) * BitVec.ofNat 32 (bitsOf f.imm 15 0 * 16)))

/-! ### Arithmetic (R111, R112) -/

/-- An exact integer result fitted to 32 bits: saturated, or wrapped with WRAP (R112). -/
def fit32 (wrap : Bool) (v : Int) : Word := BitVec.ofInt 32 (if wrap then v else sat32 v)

/-- The parts of pair i of a tile: real in the even lane. -/
def pairRe (t : Tile) (i : Nat) : Word := tget t (i / 2 * 2)
def pairIm (t : Tile) (i : Nat) : Word := tget t (i / 2 * 2 + 1)

/-- Lane i is the real part of its pair. -/
def isRe (i : Nat) : Bool := i % 2 == 0

/-- ADD, SUB and MUL by TYPE; F32 and CF32 results are flushed (R111, R127). -/
def vecArith (f : VecInstr) (x : VecRegs) (opI : Int → Int → Int) (opF : Word → Word → Word)
    (cplxI : Nat → Int) (cplxF : Nat → Word) : VecResult :=
  let a := x.tile f.va
  let b := x.tile f.vb
  match f.type with
  | 0 => .ok (x.put f fun i => fit32 f.wrap (opI (tget a i).toInt (tget b i).toInt))
  | 1 => .ok (x.put f fun i => flush x.flush (opF (tget a i) (tget b i)))
  | 2 => .ok (x.put f fun i => fit32 f.wrap (cplxI i))
  | 3 => .ok (x.put f fun i => flush x.flush (cplxF i))
  | _ => .bad x

def vecAddStep (f : VecInstr) (x : VecRegs) : VecResult :=
  let a := x.tile f.va; let b := x.tile f.vb
  vecArith f x (· + ·) fadd (fun i => (tget a i).toInt + (tget b i).toInt) (fun i => fadd (tget a i) (tget b i))

def vecSubStep (f : VecInstr) (x : VecRegs) : VecResult :=
  let a := x.tile f.va; let b := x.tile f.vb
  vecArith f x (· - ·) fsub (fun i => (tget a i).toInt - (tget b i).toInt) (fun i => fsub (tget a i) (tget b i))

/-- MUL: a complex part is an exact sum of two exact products (R111). -/
def vecMulStep (f : VecInstr) (x : VecRegs) : VecResult :=
  let a := x.tile f.va; let b := x.tile f.vb
  vecArith f x (· * ·) fmul
    (fun i =>
      let ar := (pairRe a i).toInt; let ai := (pairIm a i).toInt; let br := (pairRe b i).toInt; let bi := (pairIm b i).toInt
      if isRe i then ar * br - ai * bi else ar * bi + ai * br)
    (fun i =>
      if isRe i then fdot true (pairRe a i) (pairRe b i) (pairIm a i) (pairIm b i)
      else fdot false (pairRe a i) (pairIm b i) (pairIm a i) (pairRe b i))

/-- An elementwise operation of I32 and F32; a complex TYPE is undefined (R109). -/
def vecReal (f : VecInstr) (x : VecRegs) (gI : Nat → Int) (gF : Nat → Word) : VecResult :=
  match f.type with
  | 0 => .ok (x.put f fun i => fit32 f.wrap (gI i))
  | 1 => .ok (x.put f fun i => flush x.flush (gF i))
  | _ => .bad x

def vecFmaStep (f : VecInstr) (x : VecRegs) : VecResult :=
  let a := x.tile f.va; let b := x.tile f.vb; let c := x.tile f.vc
  vecReal f x (fun i => (tget a i).toInt * (tget b i).toInt + (tget c i).toInt)
    fun i => ffma (tget a i) (tget b i) (tget c i)

/-- The lesser (or greater) of two FP32 values, −0 below +0; NaN if either is (R111). -/
def fminmax (mx : Bool) (a b : Word) : Word :=
  if (fv a).isNan || (fv b).isNan then fnan
  else if flt true a b then (if mx then b else a) else (if mx then a else b)

def vecMinStep (f : VecInstr) (x : VecRegs) : VecResult :=
  let a := x.tile f.va; let b := x.tile f.vb
  vecReal f x (fun i => min (tget a i).toInt (tget b i).toInt) fun i => fminmax false (tget a i) (tget b i)

def vecMaxStep (f : VecInstr) (x : VecRegs) : VecResult :=
  let a := x.tile f.va; let b := x.tile f.vb
  vecReal f x (fun i => max (tget a i).toInt (tget b i).toInt) fun i => fminmax true (tget a i) (tget b i)

def vecAbsStep (f : VecInstr) (x : VecRegs) : VecResult :=
  let a := x.tile f.va
  vecReal f x (fun i => ((tget a i).toInt.natAbs : Int)) fun i => fabs (tget a i)

def vecNegStep (f : VecInstr) (x : VecRegs) : VecResult :=
  let a := x.tile f.va
  vecReal f x (fun i => -(tget a i).toInt) fun i => fneg (tget a i)

/-- SHL by VB bits [7:0], exact before fitting; by 32 or more: 0 with WRAP, else 0 or saturated with the sign (R112). -/
def shlWord (wrap : Bool) (a : Word) (n : Nat) : Word := fit32 wrap (a.toInt * 2 ^ n)

/-- SHR, arithmetic; by 32 or more 0 or −1 (R112). -/
def shrWord (a : Word) (n : Nat) : Word := BitVec.ofInt 32 (a.toInt / 2 ^ n)

def vecShlStep (f : VecInstr) (x : VecRegs) : VecResult :=
  let a := x.tile f.va; let b := x.tile f.vb
  if f.type ≤ 1 then .ok (x.put f fun i => shlWord f.wrap (tget a i) (bitsOf (tget b i).toNat 7 0)) else .bad x

def vecShrStep (f : VecInstr) (x : VecRegs) : VecResult :=
  let a := x.tile f.va; let b := x.tile f.vb
  if f.type ≤ 1 then .ok (x.put f fun i => shrWord (tget a i) (bitsOf (tget b i).toNat 7 0)) else .bad x

/-- AND, OR and XOR ignore TYPE but for the pair rule (R109). -/
def vecBitwise (f : VecInstr) (x : VecRegs) (g : Word → Word → Word) : VecResult :=
  let a := x.tile f.va; let b := x.tile f.vb
  .ok (x.put f fun i => g (tget a i) (tget b i))

/-- SEL: K[MSEL] ? VA : VB in every element, ignoring MEN. DESIGN CHOICE (log entry 12): with a complex TYPE each lane's own bit of
K[MSEL] selects, since the pair rule of R114 masks with MEN = 1 and SEL ignores MEN. -/
def vecSelStep (f : VecInstr) (x : VecRegs) : VecResult :=
  let a := x.tile f.va; let b := x.tile f.vb; let m := x.mask f.msel
  .ok (x.setTile f.vd (tgen fun i => if m.getLsbD i then tget a i else tget b i))

/-- CVT (R113); never flushed (R127). -/
def vecCvtStep (f : VecInstr) (x : VecRegs) : VecResult :=
  let a := x.tile f.va
  match f.type with
  | 0 => .ok (x.put f fun i => BitVec.ofInt 32 (fToInt (-2147483648) 2147483647 (tget a i)))
  | 1 => .ok (x.put f fun i => intToF (tget a i).toInt)
  | _ => .bad x

/-- CONJ and MAG2 (R111): complex TYPEs only. DESIGN CHOICE (log entry 12): a real TYPE, to which the spec gives no meaning here, is
an undefined instruction under R108. -/
def vecConjStep (f : VecInstr) (x : VecRegs) : VecResult :=
  let a := x.tile f.va
  let mag := bitOf f.imm 0
  match f.type with
  | 2 => .ok (x.put f fun i =>
      let re := (pairRe a i).toInt; let im := (pairIm a i).toInt
      fit32 f.wrap (if mag then re * re + im * im else if isRe i then re else -im))
  | 3 => .ok (x.put f fun i =>
      let re := pairRe a i; let im := pairIm a i
      flush x.flush (if mag then fdot false re re im im
        else if isRe i then (if (fv re).isNan then fnan else re) else fneg im))
  | _ => .bad x

/-! ### Masks (R103, R114) -/

/-- The mask of the elements that g selects. -/
def maskGen (g : Nat → Bool) : BitVec 256 :=
  BitVec.ofNat 256 ((List.range 256).foldr (fun i n => bitNat (g i) + 2 * n) 0)

/-- A condition of R62 on FP32: false with a NaN but for ≠ (R114). -/
def fcmp (c : Nat) (a b : Word) : Bool :=
  match c with
  | 0 => flt false a b
  | 1 => flt false a b || feq a b
  | 2 => feq a b
  | 3 => !feq a b
  | 4 => flt false b a
  | _ => flt false b a || feq a b

def vecCmpStep (f : VecInstr) (x : VecRegs) : VecResult :=
  let a := x.tile f.va; let b := x.tile f.vb
  let c := bitsOf f.imm 2 0
  if c ≤ 5 ∧ f.type ≤ 1 then
    .ok (x.setMask f.vd (maskGen fun i => x.active f i &&
      (if f.type = 0 then cmpInt c (tget a i).toInt (tget b i).toInt else fcmp c (tget a i) (tget b i))))
  else .bad x
where
  /-- A condition of R62 on integers. -/
  cmpInt (c : Nat) (a b : Int) : Bool :=
    match c with
    | 0 => decide (a < b) | 1 => decide (a ≤ b) | 2 => decide (a = b) | 3 => decide (a ≠ b) | 4 => decide (b < a)
    | _ => decide (b ≤ a)

/-- MOP. DESIGN CHOICE (log entry 12): VA and VB name a mask by their low 3 bits, as VD does in Table 04-3. -/
def vecMopStep (f : VecInstr) (x : VecRegs) : VecResult :=
  let a := x.mask f.va; let b := x.mask f.vb
  .ok (x.setMask f.vd (match bitsOf f.imm 1 0 with
    | 0 => a &&& b | 1 => a ||| b | 2 => a ^^^ b | _ => a &&& ~~~b))

/-- A 16-bit pattern in every row of a mask. -/
def maskRows (p : Nat) : BitVec 256 := (List.range 16).foldl (fun m r => m ||| (BitVec.ofNat 256 p <<< (16 * r))) 0

def vecMsetStep (f : VecInstr) (x : VecRegs) : VecResult := .ok (x.setMask f.vd (maskRows (bitsOf f.imm 15 0)))

def vecMlenStep (f : VecInstr) (x : VecRegs) : VecResult :=
  .ok (x.setMask f.vd (maskRows (2 ^ (min (bitsOf f.imm 4 0) 16) - 1)))

/-! ### Moving and converting (R115, R116) -/

def vecShufStep (f : VecInstr) (x : VecRegs) : VecResult :=
  let a := x.tile f.va
  let m := bitsOf f.imm 7 4
  let g (i : Nat) : Nat := match bitsOf f.imm 1 0 with
    | 0 => Nat.xor i m | 1 => (i + m) % 16 | _ => m
  if bitsOf f.imm 1 0 = 3 then .bad x
  else .ok (x.put f fun i => if bitOf f.imm 2 then tget a (16 * g (i / 16) + i % 16) else tget a (16 * (i / 16) + g (i % 16)))

def vecPermStep (f : VecInstr) (x : VecRegs) : VecResult :=
  let a := x.tile f.va; let b := x.tile f.vb
  .ok (x.put f fun i => if (tget b i).toNat < 256 then tget a (tget b i).toNat else 0)

def vecTransStep (f : VecInstr) (x : VecRegs) : VecResult :=
  let a := x.tile f.va
  .ok (x.put f fun i => tget a (16 * (i % 16) + i / 16))

def vecMovStep (f : VecInstr) (x : VecRegs) : VecResult :=
  let a := x.tile f.va
  .ok (x.put f fun i => tget a i)

/-- Bits a lane takes in PACK and UNPACK: of an element, or of a part of a complex one (R116). -/
def laneBits (fmt : Nat) : Option Nat :=
  match fmt with
  | 0 => some 8 | 1 => some 4 | 2 => some 16 | 3 => some 16 | 4 => some 16 | 5 => some 8 | 6 => some 16 | 11 => some 1
  | _ => none

/-- Row r of a tile as its 512 bits. -/
def rowBits (t : Tile) (r : Nat) : Nat := (List.range 16).foldr (fun l n => (tget t (16 * r + l)).toNat + 2 ^ 32 * n) 0

/-- A lane's raw bits widened (R116). -/
def unpackLane (fmt w v : Nat) : Word :=
  if fmt = fmtBit then BitVec.ofNat 32 v
  else if fmt = fmtFp16 then fWiden fp16 v
  else if fmt = fmtBf16 then fWiden bf16 v
  else BitVec.ofInt 32 (signed w v)

def vecUnpackStep (f : VecInstr) (x : VecRegs) : VecResult :=
  let a := x.tile f.va
  let fmt := bitsOf f.imm 3 0
  let p := bitsOf f.imm 9 4
  match laneBits fmt with
  | some w =>
    if p < 32 / w ∧ f.type ≤ 1 then
      .ok (x.put f fun i => unpackLane fmt w (rowBits a (i / 16) / 2 ^ (w * (16 * p + i % 16)) % 2 ^ w))
    else .bad x
  | none => .bad x

/-- A lane converted to w bits (R116, Table 03-2). -/
def packLane (fmt w : Nat) (float wrap : Bool) (v : Word) : Nat :=
  let lo : Int := if fmt = fmtBit then 0 else -(2 ^ (w - 1) : Nat)
  let hi : Int := if fmt = fmtBit then 1 else (2 ^ (w - 1) : Nat) - 1
  if fmt = fmtFp16 ∨ fmt = fmtBf16 then
    let g := if fmt = fmtFp16 then fp16 else bf16
    if float then fNarrow g v else g.ofDyadic false v.toInt 0
  else if float then (fToInt lo hi v % ((2 ^ w : Nat) : Int)).toNat
  else if wrap then v.toNat % 2 ^ w
  else (clampInt lo hi v.toInt % ((2 ^ w : Nat) : Int)).toNat

def vecPackStep (f : VecInstr) (x : VecRegs) : VecResult :=
  let a := x.tile f.va
  let old := x.tile f.vd
  let fmt := bitsOf f.imm 3 0
  let p := bitsOf f.imm 9 4
  match laneBits fmt with
  | some w =>
    if p < 32 / w ∧ f.type ≤ 1 then
      let row (r : Nat) : Nat :=
        let keep := rowBits old r
        let sh := w * 16 * p
        let part := (List.range 16).foldr (fun l n => packLane fmt w (f.type == 1) f.wrap (tget a (16 * r + l)) + 2 ^ w * n) 0
        keep - bitsOf keep (sh + 16 * w - 1) sh * 2 ^ sh + part * 2 ^ sh
      let rows := (List.range 16).map row
      .ok (x.put f fun i => BitVec.ofNat 32 (rows.getD (i / 16) 0 / 2 ^ (32 * (i % 16))))
    else .bad x
  | none => .bad x

/-! ### Reductions (R117-R119) -/

/-- The pairwise tree of R118 over a vector whose length is a power of two. -/
def treeRed (op : Word → Word → Word) : Nat → List Word → Word
  | 0, vs => vs.getD 0 0
  | k + 1, vs => treeRed op k (List.zipWith op (vs.take (2 ^ k)) (vs.drop (2 ^ k)))

/-- Operation, identity and result when empty of Table 04-5, for the operations that are trees. -/
def redOp (float wrap : Bool) (op : Nat) : (Word → Word → Word) × Word :=
  match float, op with
  | true, 1 => (fmul, 0x3F800000)
  | true, 2 => (fminmax true, 0xFF800000)
  | true, 3 => (fminmax false, 0x7F800000)
  | true, _ => (fadd, 0)
  | false, 1 => (fun a b => fit32 wrap (a.toInt * b.toInt), 1)
  | false, 2 => (fun a b => if a.toInt < b.toInt then b else a, 0x80000000)
  | false, 3 => (fun a b => if b.toInt < a.toInt then b else a, 0x7FFFFFFF)
  | false, _ => (fun a b => fit32 wrap (a.toInt + b.toInt), 0)

/-- v / n rounded once under RNA. -/
def meanWord (float : Bool) (v : Word) (n : Nat) : Word :=
  if float then
    match fv v with
    | .nan => fnan
    | .inf g => finf g
    | .fin g m e => if m = 0 then v else fquot ((if g then -(m : Int) else (m : Int)), e) ((n : Int), 0)
  else BitVec.ofInt 32 (rnaDiv v.toInt n)

/-- The first index of an extreme among the active elements; of a NaN if there is one (R118). -/
def argExt (float mx : Bool) (vs : List (Nat × Word)) : Nat :=
  match (if float then vs.find? fun p => (fv p.2).isNan else none) with
  | some p => p.1
  | none =>
    let less (a b : Word) : Bool := if float then flt true a b else decide (a.toInt < b.toInt)
    match vs with
    | [] => 0xFFFF
    | p :: ps => (ps.foldl (fun b q => if (if mx then less b.2 q.2 else less q.2 b.2) then q else b) p).1

/-- One reduction over indexed elements: tree gives the tree result of the elements with the identity in inactive places.
The result and whether it is empty (R118, R119). -/
def redOne (f : VecInstr) (x : VecRegs) (op : Nat) (els : List (Nat × Word)) (tree : (Word → Word → Word) → Word → Word) :
    Word × Bool :=
  let float := f.type == 1
  let act := els.filter fun p => x.active f p.1
  let empty := act.isEmpty
  let anyNan := float && act.any fun p => (fv p.2).isNan
  let r := redOp float f.wrap op
  let v : Word := match op with
    | 4 => if empty then 0xFFFF else BitVec.ofNat 32 (argExt float true act)
    | 5 => if empty then 0xFFFF else BitVec.ofNat 32 (argExt float false act)
    | 7 => BitVec.ofNat 32 act.length
    | 6 => if empty then 0 else if anyNan then fnan else flushF float (meanWord float (tree r.1 r.2) act.length)
    | _ => if empty then r.2 else if anyNan then fnan else flushF float (tree r.1 r.2)
  (v, empty)
where
  /-- F32 results of SUM, PROD, MAX, MIN and MEAN are flushed (R127). -/
  flushF (float : Bool) (w : Word) : Word := if float then flush x.flush w else w

def vecRedStep (f : VecInstr) (x : VecRegs) : VecResult :=
  let a := x.tile f.va
  let op := bitsOf f.imm 3 0
  let dir := bitsOf f.imm 5 4
  let val (ident : Word) (i : Nat) : Word := if x.active f i then tget a i else ident
  -- the index that ARGMAX and ARGMIN return is the lane, the row, or 16 r + l
  let line (ix : Nat → Nat) (out : Nat → Nat) : Word × Bool :=
    let els := (List.range 16).map fun k => (ix k, tget a (ix k))
    let r := redOne f x op els fun g ident => treeRed g 4 ((List.range 16).map fun k => val ident (ix k))
    if (op = 4 ∨ op = 5) ∧ r.2 = false then (BitVec.ofNat 32 (out r.1.toNat), false) else r
  if f.type ≤ 1 ∧ op ≤ 7 ∧ dir ≤ 2 then
    let rs : List (Nat × Word × Bool) := match dir with
      | 0 => (List.range 16).map fun r => (16 * r, line (fun l => 16 * r + l) (· % 16))
      | 1 => (List.range 16).map fun l => (l, line (fun r => 16 * r + l) (· / 16))
      | _ =>
        let els := (List.range 256).map fun i => (i, tget a i)
        [(0, redOne f x op els fun g ident =>
          treeRed g 4 ((List.range 16).map fun r => treeRed g 4 ((List.range 16).map fun l => val ident (16 * r + l))))]
    let out := tgen fun i => match rs.find? fun p => p.1 == i with | some p => p.2.1 | none => 0
    let comp := maskGen fun i => match rs.find? fun p => p.1 == i with | some p => p.2.2 | none => false
    { VecResult.ok ((x.setTile f.vd out).setMask f.vc comp) with empties := (rs.filter fun p => p.2.2).length }
  else .bad x

/-! ### Functions (R124-R129) -/

def vecFuncStep (e : VecEnv) (f : VecInstr) (x : VecRegs) : VecResult :=
  let a := x.tile f.va
  if f.type ≤ 1 then .ok (x.put f fun i => flush x.flush (fnEval e.fn (bitsOf f.imm 3 0) (tget a i))) else .bad x

def vecFbasStep (e : VecEnv) (f : VecInstr) (x : VecRegs) : VecResult :=
  let a := x.tile f.va; let b := x.tile f.vb; let c := x.tile f.vc
  let act := bitsOf f.imm 4 0
  let row0 := bitOf f.imm 5
  let ix (i : Nat) : Nat := if row0 then i % 16 else i
  if f.type ≤ 1 ∧ act ≤ 17 then
    .ok (x.put f fun i =>
      let v := if f.type = 0 then intToF (tget a i).toInt else tget a i
      let s := fadd v (tget b (ix i))
      let y := if act = 16 then s
        else if act = 17 then (if (fv s).isNan then fnan else if flt true 0 s then s else 0)
        else fnEval e.fn act s
      flush x.flush (fmul y (tget c (ix i))))
  else .bad x

/-! ### Row normalisation and softmax (R120-R123) -/

/-- Element k of row r of a run of tiles from register n on: its value, and whether the mask makes it active. -/
def wideEl (x : VecRegs) (n r k : Nat) : Word := tget (x.tile (n + k / 16)) (16 * r + k % 16)

/-- A mask bit applies to each tile in turn (R120). -/
def wideActive (x : VecRegs) (f : VecInstr) (r k : Nat) : Bool := x.active f (16 * r + k % 16)

/-- log2 of the row width 16 n. -/
def wideLog (f : VecInstr) : Nat := 4 + bitsOf f.imm 17 16

/-- Rows of g written to VD, VD + 1, …; inactive elements where g gives none keep their value or are +0 (R114). -/
def putWide (x : VecRegs) (f : VecInstr) (n : Nat) (g : Nat → Nat → Option Word) : VecRegs :=
  (List.range n).foldl (fun y t =>
    let old := y.tile (f.vd + t)
    y.setTile (f.vd + t) (tgen fun i => match g (i / 16) (16 * t + i % 16) with
      | some w => w
      | none => if f.mzero then 0 else tget old i)) x

/-- One row of NORM (R121): outputs of the active elements, mean, variance, rs, and whether it is empty. -/
def normRow (e : VecEnv) (f : VecInstr) (x : VecRegs) (r : Nat) : (Nat → Word) × Word × Word × Word × Bool :=
  let w := 2 ^ wideLog f
  let acts := (List.range w).filter (wideActive x f r)
  match acts with
  | [] => (fun _ => 0, 0, 0, 0, true)
  | k0 :: _ =>
    let el (k : Nat) := wideEl x f.va r k
    if acts.any fun k => match fv (el k) with | .fin .. => false | _ => true then (fun _ => fnan, fnan, fnan, fnan, false)
    else
      let shift := el k0
      let d := (List.range w).map fun k => if wideActive x f r k then fsub (el k) shift else 0
      let md := meanWord true (treeRed fadd (wideLog f) d) acts.length
      let ev := (List.range w).map fun k => if wideActive x f r k then fsub (d.getD k 0) md else 0
      let var0 := meanWord true (treeRed fadd (wideLog f) (ev.map fun z => fmul z z)) acts.length
      let var := if (fv var0).isNan then fnan else fminmax true var0 0
      let eps : Nat := if bitsOf f.imm 4 0 = 0 then 20 else bitsOf f.imm 4 0
      let rs := fnEval e.fn 1 (fadd var (fw (fp32.round false 1 (2 ^ eps))))
      (fun k => flush x.flush (fmul (ev.getD k 0) rs), flush x.flush (fadd shift md), flush x.flush var, flush x.flush rs, false)

/-- The EMPTY bits of rows at bit 16 r (R120). -/
def emptyMask (rows : List Bool) : BitVec 256 := maskGen fun i => i % 16 == 0 && rows.getD (i / 16) false

def vecNormStep (e : VecEnv) (f : VecInstr) (x : VecRegs) : VecResult :=
  let n := 2 ^ bitsOf f.imm 17 16
  if f.type ≤ 1 ∧ f.va + n ≤ 32 ∧ f.vd + n ≤ 32 then
    let rows := (List.range 16).map (normRow e f x)
    let get (r : Nat) := rows.getD r (fun _ => 0, 0, 0, 0, true)
    let y := putWide x f n fun r k =>
      let q := get r
      if q.2.2.2.2 then some 0 else if wideActive x f r k then some (q.1 k) else none
    let y := y.setTile f.vc (tgen fun i =>
      let q := get (i / 16)
      match i % 16 with | 0 => q.2.1 | 1 => q.2.2.1 | 2 => q.2.2.2.1 | _ => 0)
    { VecResult.ok (y.setMask f.vc (emptyMask (rows.map fun q => q.2.2.2.2))) with
      empties := (rows.filter fun q => q.2.2.2.2).length }
  else .bad x

/-- One row of SOFTMAX (R122, R123): the value of each element the mask makes active, and whether the row is fully masked. -/
def softmaxRow (e : VecEnv) (f : VecInstr) (x : VecRegs) (r : Nat) : (Nat → Word) × Bool :=
  let w := 2 ^ wideLog f
  let el (k : Nat) := wideEl x f.va r k
  let act (k : Nat) : Bool := wideActive x f r k && el k != 0xFF800000
  let acts := (List.range w).filter act
  if acts.isEmpty then (fun _ => 0, true)
  else if acts.any fun k => (fv (el k)).isNan || el k == 0x7F800000 then (fun _ => fnan, false)
  else
    let m := treeRed (fminmax true) (wideLog f) ((List.range w).map fun k => if act k then el k else 0xFF800000)
    let u := (List.range w).map fun k => if act k then flush x.flush (fnEval e.fn 2 (fsub (el k) m)) else 0
    let q := fnEval e.fn 0 (treeRed fadd (wideLog f) u)
    (fun k => if act k then flush x.flush (fmul (u.getD k 0) q) else 0, false)

def vecSoftmaxStep (e : VecEnv) (f : VecInstr) (x : VecRegs) : VecResult :=
  let n := 2 ^ bitsOf f.imm 17 16
  if f.type ≤ 1 ∧ f.va + n ≤ 32 ∧ f.vd + n ≤ 32 then
    let rows := (List.range 16).map (softmaxRow e f x)
    let get (r : Nat) := rows.getD r (fun _ => 0, true)
    let y := putWide x f n fun r k =>
      let q := get r
      if q.2 then some 0 else if wideActive x f r k then some (q.1 k) else none
    { VecResult.ok (y.setMask f.vc (emptyMask (rows.map (·.2)))) with empties := (rows.filter (·.2)).length }
  else .bad x

/-! ### Quantisation (R90-R92, R130) -/

/-- A usable line scale: finite, positive and normal (R90). -/
def scaleOk (s : Word) : Bool :=
  match fv s with
  | .fin n m _ => !n && decide (2 ^ 23 ≤ m)
  | _ => false

/-- The clean-up of R90: infinities to the largest finite value, NaN to +0. -/
def cleanBs (a : Word) : Int × Int :=
  match fv a with
  | .nan => (0, 0)
  | .inf n => (if n then -(2 ^ 24 - 1) else 2 ^ 24 - 1, 104)
  | v => v.dyadic

/-- a ≤ b of magnitudes. -/
def dyLe (a b : Int × Int) : Bool := decide (0 ≤ (dyAdd b (-a.1, a.2)).1)

/-- QBS: scale byte and element codes of one block of 32 values, and whether the bad-scale rule applied (R90). -/
def qbsBlock (q : Nat) (s : Word) (xs : List Word) : Nat × List Int × Bool :=
  let vs := xs.map cleanBs
  let a : Int × Int := vs.foldl (fun m v => let w : Int × Int := ((v.1.natAbs : Int), v.2); if dyLe w m then m else w) (0, 0)
  if a.1 = 0 then (0xA0, vs.map fun _ => 0, false)
  else if !scaleOk s then (0xA0, vs.map fun _ => 0, true)
  else
    let sd := (fv s).dyadic
    let top (b : Nat) := dyMul (sb8 (BitVec.ofNat 8 b)) (dyMul ((q : Int), 0) sd)
    let byte := ((List.range 248).map (· + 8)).find? (fun b => dyLe a (top b)) |>.getD 0xFF
    let den := dyMul (sb8 (BitVec.ofNat 8 byte)) sd
    (byte, vs.map fun v =>
      let t := pow2 (v.2 - den.2)
      clampInt (-(q : Int)) q (rnaDiv (v.1 * t.1) (den.1.natAbs * t.2)), false)

def vecQbsStep (f : VecInstr) (x : VecRegs) : VecResult :=
  let a := x.tile f.va
  let s := tget (x.tile f.vb) 0
  let fmt := bitsOf f.imm 3 0
  if f.type ≤ 1 ∧ (fmt = fmtBs8 ∨ fmt = fmtBs4) then
    let q := if fmt = fmtBs8 then 127 else 7
    let bs := (List.range 8).map fun b => qbsBlock q s ((List.range 32).map fun k => tget a (32 * b + k))
    let y := x.setTile f.vd (tgen fun i => BitVec.ofInt 32 ((bs.getD (i / 32) (0, [], false)).2.1.getD (i % 32) 0))
    let y := y.setTile f.vc (tgen fun i => if i < 8 then BitVec.ofNat 32 (bs.getD i (0, [], false)).1 else 0)
    { VecResult.ok y with bads := (bs.filter fun b => b.2.2).length }
  else .bad x

/-- The clean-up of R91: infinities to ±2^120. -/
def cleanCh (a : Word) : Word := match fv a with | .inf n => if n then 0xFB800000 else 0x7B800000 | _ => a

/-- QRANGE (R91, R130). The spec states no lo and hi of a column that has seen no element and sees none: they are free values
(log entry 5). -/
def vecQrangeStep (e : VecEnv) (f : VecInstr) (x : VecRegs) : VecResult :=
  let a := x.tile f.va
  let c := x.tile f.vc
  if f.type ≤ 1 then
    let col (l : Nat) : Word × Word × Word :=
      let es := (((List.range 16).filter fun r => x.active f (16 * r + l)).map fun r => cleanCh (tget a (16 * r + l))).filter
        fun w => !(fv w).isNan
      let n := tget c (32 + l)
      let seen : Option (Word × Word) := if n = 0 then none else some (tget c l, tget c (16 + l))
      let r := es.foldl (fun (s : Option (Word × Word)) w => match s with
        | none => some (w, w)
        | some p => some (fminmax false p.1 w, fminmax true p.2 w)) seen
      let r := r.getD (e.free l, e.free (16 + l))
      (r.1, r.2, fit32 false (n.toInt + es.length))
    .ok (x.setTile f.vd (tgen fun i => match i / 16 with
      | 0 => (col (i % 16)).1 | 1 => (col (i % 16)).2.1 | 2 => (col (i % 16)).2.2 | _ => e.free i))
  else .bad x

/-- s and z of R91 from a range, for L = 255, H = 128 or L = 15, H = 8. -/
def qparamOf (int4 : Bool) (lo hi : Word) : Word × Word :=
  let l := if int4 then 15 else 255
  let h : Word := if int4 then 0x41000000 else 0x43000000
  if feq hi lo then (0x3F800000, lo)
  else
    let s0 := meanWord true (fsub hi lo) l
    let s := if flt false s0 0x00800000 then 0x00800000 else s0
    (s, ffma h s lo)

def vecQparamStep (e : VecEnv) (f : VecInstr) (x : VecRegs) : VecResult :=
  let a := x.tile f.va
  let fmt := bitsOf f.imm 3 0
  if f.type ≤ 1 ∧ fmt ≤ 1 then
    let col (l : Nat) : Word × Word :=
      if tget a (32 + l) = 0 then qparamOf (fmt == 1) 0 0 else qparamOf (fmt == 1) (tget a l) (tget a (16 + l))
    .ok (x.setTile f.vd (tgen fun i => match i / 16 with
      | 0 => (col (i % 16)).1 | 1 => (col (i % 16)).2 | _ => e.free i))
  else .bad x

/-- q of R91 of one element; none where the quotient is not a number the rule gives. -/
def qapplyOf (int4 : Bool) (s z a : Word) : Option Int :=
  let h : Int := if int4 then 8 else 128
  let l : Int := if int4 then 15 else 255
  match fv (cleanCh a), fv s, fv z with
  | .nan, _, _ => some 0
  | .fin na ma ea, .fin ns ms es, .fin nz mz ez =>
    if ms = 0 then none else
      let d := dyAdd (Fp.fin na ma ea).dyadic (-(Fp.fin nz mz ez).dyadic.1, ez)
      let t := pow2 (d.2 - es)
      let q := rnaDiv (d.1 * t.1) (ms * t.2)
      some (clampInt (-h) (l - h) (if ns then -q else q))
  | _, _, _ => none

def vecQapplyStep (e : VecEnv) (f : VecInstr) (x : VecRegs) : VecResult :=
  let a := x.tile f.va
  let b := x.tile f.vb
  let fmt := bitsOf f.imm 3 0
  if f.type ≤ 1 ∧ fmt ≤ 1 then
    .ok (x.setTile f.vd (tgen fun i =>
      match qapplyOf (fmt == 1) (tget b (i % 16)) (tget b (16 + i % 16)) (tget a i) with
      | some q => BitVec.ofInt 32 q
      | none => e.free i))
  else .bad x

/-! ### One instruction -/

/-- The effect of the instruction word f on the registers, without the move to the next instruction. A reserved TYPE and an
undefined opcode stop the command (R108). -/
def vecStep (e : VecEnv) (f : VecInstr) (x : VecRegs) : VecResult :=
  if 4 ≤ f.type then .bad x else
    match f.op with
    | 0x00 => vecLdStep e f x
    | 0x01 => vecStStep e f x
    | 0x02 => vecLdrStep e f x
    | 0x08 => vecLoopStep e f x
    | 0x09 => vecAddiStep f x
    | 0x0A => vecAddmStep f x
    | 0x10 => vecAddStep f x
    | 0x11 => vecSubStep f x
    | 0x12 => vecMulStep f x
    | 0x13 => vecFmaStep f x
    | 0x14 => vecMinStep f x
    | 0x15 => vecMaxStep f x
    | 0x16 => vecAbsStep f x
    | 0x17 => vecNegStep f x
    | 0x18 => vecShlStep f x
    | 0x19 => vecShrStep f x
    | 0x1A => vecBitwise f x (· &&& ·)
    | 0x1B => vecBitwise f x (· ||| ·)
    | 0x1C => vecBitwise f x (· ^^^ ·)
    | 0x1D => vecSelStep f x
    | 0x1E => vecCvtStep f x
    | 0x1F => vecConjStep f x
    | 0x28 => vecCmpStep f x
    | 0x29 => vecMopStep f x
    | 0x2A => vecMsetStep f x
    | 0x2B => vecMlenStep f x
    | 0x30 => vecShufStep f x
    | 0x31 => vecPermStep f x
    | 0x32 => vecTransStep f x
    | 0x33 => vecPackStep f x
    | 0x34 => vecUnpackStep f x
    | 0x35 => vecMovStep f x
    | 0x38 => vecRedStep f x
    | 0x40 => vecFuncStep e f x
    | 0x41 => vecFbasStep e f x
    | 0x48 => vecNormStep e f x
    | 0x49 => vecSoftmaxStep e f x
    | 0x50 => vecQbsStep f x
    | 0x51 => vecQrangeStep e f x
    | 0x52 => vecQparamStep e f x
    | 0x53 => vecQapplyStep e f x
    | _ => .bad x

/-- The item that a running command has in hand, if it has a list. -/
def Running.curItem (r : Running) : Option Item :=
  match r.items, r.item with
  | some l, some k => l[k]?
  | _, _ => none

/-- A1 to A7 at the start of an item, or of the whole program (R107). -/
def VecRegs.load (x : VecRegs) (p : ProgDesc) (it : Option Item) : VecRegs :=
  let y := (((x.setA 1 (BitVec.ofNat 32 p.rdBase)).setA 2 (BitVec.ofNat 32 p.wrBase)).setA 3 (BitVec.ofNat 32 p.param))
  let z := ((y.setA 4 0).setA 5 0)
  let w := (z.setA 6 (BitVec.ofNat 32 ((it.map (·.first)).getD 0))).setA 7 (BitVec.ofNat 32 ((it.map (·.count)).getD 0))
  { w with pc := 0, loops := [] }

end Sys2Proof.Machine
end

