-- ==== Sys2Proof/Machine/Queue.lean ====
section
/-! DEFINITION. The queue manager's steps: plans (R15, R17, R261), launch, gates and windows (R263, R16), dispatch (R264, R268,
R269, R276), affinity, reserve windows (R269), enabling and flushing (R258, R265), and TAIL (R260). -/
namespace Sys2Proof.Machine

/-! ### COMMAND_LAUNCH (R263, R327) -/

/-- The launch time of a waiting entry is reached. -/
def commandLaunchEffect (q : QueueId) (i : Fin 4096) (s : State) : State :=
  match s.entry q i with
  | some e =>
    if e.isWaiting ∧ e.launched = false ∧ s.launchReached e.desc = true then
      let d := e.desc
      let s1 := if d.stage = 0 then s.forward d.cell [] else s
      State.settle s (s1.modEntry q i fun e => { e with launched := true })
    else s
  | none => s

def execCommandLaunch (q : QueueId) (i : Fin 4096) (s : State) : Host.Outcome State Fault Refusal :=
  .next (commandLaunchEffect q i s)

/-! ### GATE_POLL (R263, R376) -/

/-- At most one read of a gate word in 100 ns. -/
def pollDue (s : State) (last : Option Int) : Bool :=
  match last with
  | none => true
  | some t => decide (ns 100 ≤ s.now - t)

/-- The gate word at an address, read by the queue manager. -/
def State.gateWord (s : State) (a : Nat) : Nat × State :=
  let r := s.fabricGet Source.qm a 8
  (leNat r.1, r.2)

/-- The items of a waiting UNORD command that have not run, with their numbers. -/
def Running.unrun (r : Running) : List (Nat × Item) :=
  match r.items with
  | some its => (its.zipIdx.filter fun p => (r.results.getD p.2 none).isNone).map fun p => (p.2, p.1)
  | none => []

/-- The lowest-numbered unrun item whose gate word is met (R376). -/
def State.unordItem (s : State) : List (Nat × Item) → Option Nat × State
  | [] => (none, s)
  | (k, it) :: rest =>
    let w := s.gateWord it.id.toNat
    if 0x80000000 ≤ w.1 then (some k, w.2) else w.2.unordItem rest

/-- A running UNORD command that waits takes the item found, with the engine's registers as at the start of an item (R107, R148), and TDC_UNORD counts an item that runs before an earlier one. -/
def State.unordStart (s : State) (q : QueueId) (i : Fin 4096) (n : StallId) (e : Engine) (r : Running) (k : Nat) : State :=
  let early := (r.unrun.any fun p => decide (p.1 < k))
  let r' := { r with item := some k, itemStart := s.now, tdc := r.tdc || early }
  let p := progOf r.desc
  let s1 := match e, (s.stall n).vec, (s.stall n).seq with
    | .vector, .running _ x, _ => s.modStall n fun y => { y with vec := .running r' (x.load p r'.curItem) }
    | .sequencer, _, .running _ x => s.modStall n fun y => { y with seq := .running r' (x.drain.load p r'.curItem) }
    | _, _, _ => s
  let cell := match s.entry q i with | some e => e.desc.cell | none => 0
  if early then s1.tdc .tdcUnord cell 1 else s1

/-- A gate is read: an entry's own, or the gates of the items that a running UNORD command waits for. -/
def gatePollEffect (q : QueueId) (i : Fin 4096) (s : State) : State :=
  match s.entry q i with
  | none => s
  | some e =>
    if !pollDue s e.lastPoll then s
    else
      match e.phase with
      | .waiting =>
        if e.gateMet then s
        else
          let w := s.gateWord e.fields.readyAddr
          let met := decide (e.fields.readyValue ≤ w.1)
          State.settle s (w.2.modEntry q i fun e => { e with gateMet := met, lastPoll := some s.now })
      | .placed n g =>
        match (s.stall n).running g with
        | some r =>
          if r.item.isNone ∧ r.outcome.isNone ∧ e.desc.unord ∧ r.unrun ≠ [] then
            let w := s.unordItem r.unrun
            let s1 := w.2.modEntry q i fun e => { e with lastPoll := some s.now }
            match w.1 with
            | some k => s1.unordStart q i n g r k
            | none => s1
          else s
        | none => s
      | .retired => s

def execGatePoll (q : QueueId) (i : Fin 4096) (s : State) : Host.Outcome State Fault Refusal := .next (gatePollEffect q i s)

/-! ### DISPATCH (R264, R268, R269, R276) -/

/-- A stall's open reserve window. -/
def State.window (s : State) (n : StallId) : Option Reserve :=
  s.qm.reserves.find? fun r => r.isOpen && r.stalls.getLsbD n.val

/-- The queue that an entry names. -/
def entryQueue (bytes : List Byte) : QueueId := queueOf (descOf bytes).queueId

/-- The golden queue of stall n, to which Weighhouse appends its frames (R353). -/
def goldenQueue (n : StallId) (q : QueueId) : Bool := (Config.goldenFrame n).any fun b => entryQueue b == q

/-- The reserve rules let in an entry of queue q to stall n (R269): in its window a reserve stall takes the cell's fallback
queues, background queues with LEND_OK, and a golden frame placed after its fifth collision (R28, R354). -/
def State.windowAllows (s : State) (q : QueueId) (n : StallId) : Bool :=
  match s.window n with
  | none => true
  | some r =>
    let x := s.queue q
    (x.fallback && x.cell == r.cell) || (x.cls == 2 && x.lend) ||
      (goldenQueue n q && decide (5 ≤ (s.stall n).golden.collisions))

/-- MODEL is 0 or resident in stall n (R267). -/
def Stall.holds (x : Stall) (model : Nat) : Bool := model == 0 || (vlist x.res).any fun m => m.toNat == model

/-- Stall n is in the queue's partition, in service and on. -/
def State.serves (s : State) (q : QueueId) (n : StallId) : Bool :=
  (s.queue q).hasStall n && (s.stall n).inService && s.domainOn n.val

/-- Stall n qualifies for an entry (R268). -/
def State.qualifies (s : State) (q : QueueId) (e : QEntry) (n : StallId) : Bool :=
  s.serves q n && (s.stall n).holds e.fields.model && s.windowAllows q n

/-- The placement rules of R268. A previous entry that never ran, or whose stall has left service, leaves LINK free; an AFFINITY
that names no stall leaves PIN free (log entry 16). -/
def State.placement (s : State) (q : QueueId) (e : QEntry) (n : StallId) : Bool :=
  let f := e.fields
  let link : Option StallId :=
    if f.link then ((s.queue q).prevStall e.idx).filter fun m => (s.stall m).inService else none
  match link with
  | some m => n == m
  | none =>
    if f.affinity < 64 then n.val == f.affinity || (!f.pin && e.affinityFree) else true

/-- An exclusive sequencer command runs on the stall (R154). -/
def Stall.exclusive (x : Stall) : Bool :=
  match x.seq with
  | .running r _ => (progOf r.desc).excl
  | _ => false

/-- Whether queue q's eligible entry may be dispatched to engine g of stall n now. -/
def State.mayRun (s : State) (n : StallId) (g : Engine) (q : QueueId) (e : QEntry) : Bool :=
  engineOf e.bytes == g && s.qualifies q e n && s.placement q e n
    && !((g == .matrix || g == .vector) && (s.stall n).exclusive)
    && !(s.qm.bgHalted && (s.queue q).cls == 2)

/-- The order of R264: class, virtual time, queue number. -/
def dispatchBefore (s : State) (a b : QueueId) : Bool :=
  let x := s.queue a
  let y := s.queue b
  decide (x.cls < y.cls) || (x.cls == y.cls && (decide (x.vt < y.vt) || (x.vt == y.vt && decide (a < b))))

/-- The queue whose eligible entry is dispatched to engine g of stall n. -/
def State.choose (s : State) (n : StallId) (g : Engine) : Option (QueueId × QEntry) :=
  ((List.finRange 32).filterMap fun q => match (s.queue q).eligible with
    | some e => if s.mayRun n g q e then some (q, e) else none
    | none => none).foldl
    (fun best p => match best with
      | some b => if dispatchBefore s p.1 b.1 then some p else best
      | none => some p) none

/-- An eligible entry of queue q for that kind of engine whose MODEL is resident on no qualifying stall is counted once (R276). -/
def State.countMiss (g : Engine) (s : State) (q : QueueId) : State :=
  match (s.queue q).eligible with
  | some e =>
    if engineOf e.bytes = g ∧ e.missed = false ∧ e.fields.model ≠ 0 ∧
        ((List.finRange 64).all fun n => !s.qualifies q e n) = true then
      ((s.modEntry q e.idx fun e => { e with missed := true }).devInc .qmResMiss).raise 0x0401 (evtSource 5 q.val)
        ([BitVec.ofNat 8 q.val, 0] ++ natLE 2 e.fields.model ++ natLE 2 e.desc.tag)
    else s
  | none => s

/-- A free engine of a stall takes its next command: the engine is reserved for it, and its run starts. -/
def dispatchEffect (n : StallId) (g : Engine) (s : State) : State :=
  let s1 := (List.finRange 32).foldl (State.countMiss g) s
  if (s1.stall n).engineFree g then
    match s1.choose n g with
    | some (q, e) =>
      let s2 := (s1.reserveEngine n g q e.idx).modEntry q e.idx fun e => { e with
        phase := .placed n g, stall := some n, placedAt := s.now, start := s.now }
      State.settle s (s2.trace (evtSource 5 q.val))
    | none => s1
  else s1

def execDispatch (n : StallId) (g : Engine) (s : State) : Host.Outcome State Fault Refusal := .next (dispatchEffect n g s)

/-! ### STAGE_WINDOW_CLOSE (R16, R263) -/

/-- The stage window of a descriptor has closed. -/
def State.windowClosed (s : State) (d : Desc) : Bool :=
  s.time.stepped && d.discardNs != 0 && s.reached (launchTime s.now d + ns d.discardNs)

/-- An entry that has not started: it waits, or its engine is only reserved for it. -/
def State.notStarted (s : State) (q : QueueId) (e : QEntry) : Bool :=
  match e.phase with
  | .waiting => true
  | .placed n g => (s.stall n).reservedFor g == some (q, e.idx) && !((s.stall n).running g).any fun r => r.q == q && r.idx == e.idx
  | .retired => false

/-- The processing slot of a command: that of its launch time. -/
def State.commandSlot (s : State) (c : CellId) (d : Desc) : Int := (s.frameTiming c).slotAt (launchTime s.now d)

/-- SCHED_FALLBACK for the run of processing slot k, counted, and set in the indication of that processing slot, which is that of
uplink air slot k − 1. R30 says 'the slot's indication' and does not say which slot: DESIGN CHOICE (log entry 16). -/
def State.schedFallback (s : State) (c : CellId) (k : Int) : State :=
  (s.modUl c ((s.frameTiming c).air (k - 1)) fun u => { u with schedFallback := true }).cellAdd c .schedFallback 1

/-- The queue on whose firm stalls Hall's classical scheduler runs: the lowest-numbered enabled firm queue with room that is no
fallback queue (DESIGN CHOICE, log entry 16). -/
def State.firmQueue (s : State) : Option QueueId :=
  (List.finRange 32).find? fun q => (s.queue q).en && !(s.queue q).fallback && (s.queue q).cls == 0 && decide (0 < (s.queue q).room)

/-- Hall's classical scheduler replaces the run of processing slot k: its command for the signal sequencer is placed in a firm queue,
and its ac are taken from the reserve (R30). -/
def State.classicalScheduler (s : State) (c : CellId) (k : Int) (command : List Byte) (ac : Nat) : State :=
  let s1 := match s.reserveOf c with
    | some r => { s with qm := { s.qm with reserves := s.qm.reserves.map fun x =>
        if x = r then { x with unspent := x.unspent - ac } else x } }
    | none => s
  let s2 := match s1.firmQueue with
    | some q => s1.append q (setExcl command)
    | none => s1
  s2.schedFallback c k

/-- Releases the engine that is reserved for an entry. -/
def State.unreserve (s : State) (q : QueueId) (e : QEntry) : State :=
  match e.phase with
  | .placed n g =>
    match g with
    | .dma t => s.modStream n t fun y => { y with
        reserved := if y.reserved = some (q, e.idx) then none else y.reserved
        queued := if y.queued.any (fun r => r.q == q && r.idx == e.idx) then none else y.queued }
    | _ => s.freeEngine n g
  | _ => s

/-- A command that has not started when its window closes is discarded; its blocks miss the deadline, or report the loss of
their stall (R22, R277). That the scheduler's run falls back to the classical one (R30), with the command and the ac given, is
Hall's act on the TAG of the record (R279). -/
def stageWindowCloseEffect (q : QueueId) (i : Fin 4096) (blocks : List BlockRef) (classical : List Byte) (ac : Nat) (s : State) : State :=
  match s.entry q i with
  | none => s
  | some e =>
    let d := e.desc
    if s.notStarted q e ∧ s.windowClosed d then
      let s1 := ((s.unreserve q e).tdc .tdcSched d.cell 1).retire q i oDiscarded 0
      let s2 := blocks.foldl (fun s r => s.blockFinal r (if e.flags.getLsbD 1 then 8 else 3)) s1
      let s3 := if d.stage = 0 then s2.classicalScheduler d.cell (s.commandSlot d.cell d) classical ac else s2
      State.settle s s3
    else s

def execStageWindowClose (q : QueueId) (i : Fin 4096) (x : MissedWindow) (s : State) : Host.Outcome State Fault Refusal :=
  .next (stageWindowCloseEffect q i x.blocks x.classical x.ac s)

/-! ### AFFINITY_WAIT_EXPIRY (R268) -/

def affinityWaitExpiryEffect (q : QueueId) (i : Fin 4096) (s : State) : State :=
  match s.entry q i with
  | some e =>
    match e.eligibleAt with
    | some t =>
      if e.isWaiting ∧ ns (fld s.qm.timing 31 16 : Nat) ≤ s.now - t then
        s.modEntry q i fun e => { e with affinityFree := true }
      else s
    | none => s
  | none => s

def execAffinityWaitExpiry (q : QueueId) (i : Fin 4096) (s : State) : Host.Outcome State Fault Refusal :=
  .next (affinityWaitExpiryEffect q i s)

/-! ### PLAN_RELEASE (R15, R17, R261, R269) -/

/-- The fields of a plan header (Table 09-2). -/
structure PlanHeader where
  count : Nat
  mask : BitVec 64
  resvAc : Nat
  openNs : Nat
  closeNs : Nat
deriving DecidableEq, Repr

def planHeader (b : List Byte) : PlanHeader :=
  { count := bytesNat b 0 2, mask := BitVec.ofNat 64 (bytesNat b 8 8), resvAc := bytesNat b 16 4, openNs := bytesNat b 20 4
    closeNs := bytesNat b 24 4 }

/-- Bytes 0-95 of n entries of a table at a, read one entry at a time. -/
def State.readEntries (s : State) (a : Nat) : Nat → List (List Byte) × State
  | 0 => ([], s)
  | n + 1 =>
    let r := s.agentRead Source.qm a 96
    let t := r.2.readEntries (a + 128) n
    (r.1 :: t.1, t.2)

/-- Every queue that the entries name is enabled and has room for all of its entries. -/
def State.planFits (s : State) (entries : List (List Byte)) : Bool :=
  (List.finRange 32).all fun q =>
    let n := (entries.filter fun b => entryQueue b == q).length
    n == 0 || ((s.queue q).en && decide (n ≤ (s.queue q).room))

/-- A stall is reserved for another cell over an overlapping window. -/
def QueueManager.resvTaken (m : QueueManager) (c : CellId) (lo hi : Int) (n : StallId) : Bool :=
  m.reserves.any fun r => r.cell != c && r.stalls.getLsbD n.val && decide (r.openAt < hi) && decide (lo < r.closeAt)

/-- The reserve of a released plan, without the stalls that are taken, which are counted (R269). -/
def State.addReserve (s : State) (c : CellId) (start : Int) (h : PlanHeader) : State :=
  let lo := start + ns h.openNs
  let hi := start + ns h.closeNs
  if hi ≤ lo then s
  else
    let named := (List.finRange 64).filter fun n => h.mask.getLsbD n.val
    let taken := named.filter fun n => s.qm.resvTaken c lo hi n
    let mask := taken.foldl (fun (m : BitVec 64) n => m &&& ~~~((1 : BitVec 64) <<< n.val)) h.mask
    let r : Reserve := ⟨c, mask, h.resvAc, start, lo, hi, false, []⟩
    { s with qm := { s.qm with reserves := s.qm.reserves ++ [r] } }.devAdd .qmResvConflict taken.length

/-- A unit of the grant book as a slot begins, its blocks final for a reason where one is given. -/
def newUnit (final : Option Byte) (u : UnitDesc) : UlUnit :=
  { kind := u.kind, rnti := u.rnti, harqId := u.harqId, tx := u.tx, tbFail := false, pages := none
    blocks := List.replicate (max 1 (match u.tx with | some t => (ldpcCode t).blocks | none => u.cbCount))
      ⟨final, none, none, none, .none, none, false, none⟩ }

/-- The uplink slot k − 1 and the downlink slot k + 1 of processing slot k start on their way (R12, R17), with the units and
allocations that accepted scheduler runs wrote for them (R29), or those given where no run wrote them. -/
def State.openSlots (s : State) (c : CellId) (k : Int) (plan : Bool) (units : List UnitDesc) (allocs : List AllocDesc) : State :=
  let f := s.frameTiming c
  let units := ((s.cell c).bookSlot (f.air (k - 1))).units.getD units
  let allocs := ((s.cell c).bookSlot (f.air (k + 1))).allocs.getD allocs
  let ul : UlSlot := ⟨f.air (k - 1), units.map (newUnit (if plan then none else some 5)), false, false, false, [], none⟩
  let dl : DlSlot :=
    { air := f.air (k + 1), allocs := allocs.map fun a => ⟨a.rnti, a.harqId, a.alloc, if plan then 0 else 5, false, a.tx, [], []⟩
      noPlan := !plan, handedOver := false, before := (false, false), entries := [], cplaneSent := false, launched := [], late := [], demoted := false, control := [] }
  let s1 := s.modCell c fun x => { x with
    ul := x.ul ++ [ul.stamp s.now], dl := x.dl ++ [dl], book := x.book.filter fun b => b.air != f.air (k - 1)
    books := x.keepBooks (k - 1) }
  if plan then s1 else s1.harqKeepAll c (f.air (k - 1)) units.length

/-- No plan for processing slot k (R17). -/
def State.noPlan (s : State) (c : CellId) (k : Int) (units : List UnitDesc) (allocs : List AllocDesc) : State :=
  let a := (s.frameTiming c).air k
  ((s.openSlots c k false units allocs).cellAdd c .planMissing 1).raise 0x0101 (evtSource 2 c.val)
    ([BitVec.ofNat 8 c.val, BitVec.ofNat 8 a.slot.val] ++ natLE 2 a.sfn.val)

/-- The device plans for the cell as the standby of its partner, without serving it (R366). -/
def State.standby (s : State) (c : CellId) : Bool :=
  match s.join.pair with
  | some p => p.standby.getLsbD c.val
  | none => false

/-- A plan at an address is taken: every entry appended to its queue in plan order, or none of them (R261). -/
def State.takePlan (s : State) (c : CellId) (k : Int) (addr : Nat) (start : Int) (units : List UnitDesc)
    (allocs : List AllocDesc) : State :=
  let r := s.agentRead Source.qm addr 64
  let h := planHeader r.1
  let ok := checkOk r.1 && decide (h.count ≤ 8192)
  let es := if ok then r.2.readEntries (addr + 64) h.count else ([], r.2)
  if ok && es.2.planFits es.1 then
    let s1 := es.1.foldl (fun s b => s.append (entryQueue b) b) (es.2.addReserve c start h)
    s1.openSlots c k true units allocs
  else (es.2.devInc .qmRingFull).noPlan c k units allocs

/-- A registration removed. -/
def State.unregister (s : State) (c : CellId) (p : PlanReg) : State :=
  { s with time := { s.time with plans := vmod s.time.plans c fun l => l.filter fun x => x != p } }

/-- P(k + 2) is not registered when P(k) is released: the count of such releases in succession (R351). -/
def State.depthCheck (s : State) (c : CellId) (k : Int) : State :=
  let there := (vget s.time.plans c).any fun p => p.slot == (s.frameTiming c).air (k + 2)
  s.modCell c fun x => { x with depthMiss := if there then 0 else x.depthMiss + 1 }

/-- The release instant of processing slot k (R15). -/
def State.releaseAt (s : State) (c : CellId) (k : Int) : Int :=
  let f := s.frameTiming c
  f.start k - ns (s.planLeadOf c k * 1000 : Nat)

/-- The release of the next processing slot of a cell: of a running cell, the slot after the last; of another, its earliest
registered plan. -/
def planReleaseEffect (c : CellId) (units : List UnitDesc) (allocs : List AllocDesc) (s : State) : State :=
  let x := s.cell c
  let regs := vget s.time.plans c
  let f := s.frameTiming c
  let due : Option (Int × Option PlanReg) :=
    match (if x.running then x.lastSlot else none) with
    | some k0 =>
      if s.reached (s.releaseAt c (k0 + 1)) then some (k0 + 1, regs.find? fun p => p.slot == f.air (k0 + 1)) else none
    | none =>
      (regs.find? fun p => s.reached (ns p.release)).map fun p => (f.absOf (ns p.start) p.slot, some p)
  if s.time.stepped then
    match due with
    | none => s
    | some (k, reg) =>
      let s1 := match reg with | some p => s.unregister c p | none => s
      let s2 := s1.modCell c fun x => { x with lastSlot := if x.running then some k else x.lastSlot }
      if s.standby c then s2
      else
        let s3 := s2.depthCheck c k
        match reg with
        | some p => State.settle s (s3.takePlan c k p.addr.toNat (f.start k) units allocs)
        | none => if x.stopping then s2 else s3.noPlan c k units allocs
  else s

def execPlanRelease (c : CellId) (units : List UnitDesc) (allocs : List AllocDesc) (s : State) : Host.Outcome State Fault Refusal :=
  .next (planReleaseEffect c units allocs s)

/-! ### RESERVE_WINDOW_OPEN and RESERVE_WINDOW_CLOSE (R269) -/

/-- The window of a cell's reserve opens; the remainder in ac of a command that already runs on a reserve stall is backlog. -/
def reserveWindowOpenEffect (c : CellId) (remainders : List (StallId × Nat)) (s : State) : State :=
  match s.qm.reserves.find? fun r => r.cell == c && !r.isOpen && s.reached r.openAt && !s.reached r.closeAt with
  | none => s
  | some r =>
    let late := remainders.filter fun p => r.stalls.getLsbD p.1.val
    let r' := late.foldl (fun x p => s.setBacklog x p.1 (s.backlogAc x p.1 + p.2)) { r with isOpen := true }
    { s with qm := { s.qm with reserves := s.qm.reserves.map fun x => if x = r then r' else x } }

def execReserveWindowOpen (c : CellId) (remainders : List (StallId × Nat)) (s : State) : Host.Outcome State Fault Refusal :=
  .next (reserveWindowOpenEffect c remainders s)

def reserveWindowCloseEffect (c : CellId) (s : State) : State :=
  { s with qm := { s.qm with reserves := s.qm.reserves.filter fun r => !(r.cell == c && s.reached r.closeAt) } }

def execReserveWindowClose (c : CellId) (s : State) : Host.Outcome State Fault Refusal := .next (reserveWindowCloseEffect c s)

/-! ### QUEUE_ENABLE and QUEUE_FLUSH (R258, R265) -/

/-- Writable bits of QM_QCFG (Table 09-10). -/
def qcfgMask : Word := 0xFC1F0FFF

/-- The configuration may be enabled (R258). -/
def Queue.cfgOk (x : Queue) : Bool :=
  decide (4 ≤ x.log2) && decide (x.log2 ≤ 12) && x.cls != 3
    && decide (plainBase ≤ x.entryAddr 0) && decide (x.entryAddr 0 + 128 * 2 ^ x.log2 ≤ plainBase + plainSize)

/-- A write with EN = 1: ignored while the queue is enabled; otherwise the fields are stored, and the queue is enabled with its
virtual time at 0 if they are valid. Pointers beyond a smaller ring wrap (log entry 16). -/
def queueEnableEffect (q : QueueId) (v : Word) (s : State) : State :=
  if (s.queue q).en then s
  else
    s.modQueue q fun x =>
      let y := { x with cfg := wrMask qcfgMask x.cfg v }
      if y.cfgOk ∧ wbit v 31 then
        { y with vt := 0, head := BitVec.ofNat 12 (y.head.toNat % y.size), tail := BitVec.ofNat 12 (y.tail.toNat % y.size) }
      else { y with cfg := y.cfg &&& 0x7FFFFFFF }

def execQueueEnable (q : QueueId) (v : Word) (s : State) : Host.Outcome State Fault Refusal := .next (queueEnableEffect q v s)

/-- A flush: EN clears and every entry that has not been dispatched retires with DISCARDED (R265). -/
def State.flushQueue (s : State) (q : QueueId) : State :=
  let s1 := s.modQueue q fun x => { x with cfg := x.cfg &&& 0x7FFFFFFF }
  ((s.queue q).entries.filter QEntry.isWaiting).foldl (fun s e => s.retire q e.idx oDiscarded 0) s1

/-- A write with EN = 0: a flush while the queue is enabled, a plain write of the fields otherwise. -/
def queueFlushEffect (q : QueueId) (v : Word) (s : State) : State :=
  if (s.queue q).en then State.settle s (s.flushQueue q)
  else s.modQueue q fun x => { x with cfg := wrMask qcfgMask x.cfg v &&& 0x7FFFFFFF }

def execQueueFlush (q : QueueId) (v : Word) (s : State) : Host.Outcome State Fault Refusal := .next (queueFlushEffect q v s)

/-! ### TAIL_WRITE (R260) -/

/-- n entries that stand in the ring from TAIL on are taken in. -/
def State.takeRing (s : State) (q : QueueId) : Nat → State
  | 0 => s
  | n + 1 =>
    let x := s.queue q
    let r := s.agentRead Source.qm (x.entryAddr x.tail.toNat) 96
    (r.2.takeIn q r.1).takeRing q n

/-- A TAIL write appends the entries up to it, or is ignored and counted where it goes beyond full; on a queue that is not
enabled it is ignored (log entry 16). -/
def tailWriteEffect (q : QueueId) (v : Word) (s : State) : State :=
  let x := s.queue q
  let n := (fld v 23 12 + x.size - x.tail.toNat) % x.size
  if !x.en then s
  else if x.room < n then s.devInc .qmRingFull
  else State.settle s (s.takeRing q n)

def execTailWrite (q : QueueId) (v : Word) (s : State) : Host.Outcome State Fault Refusal := .next (tailWriteEffect q v s)

end Sys2Proof.Machine
end

