-- ==== Sys2Proof/Machine/Fallback.lean ====
section
/-! DEFINITION. What follows the rejection of a learned output (R23, R26, R27, R30, R190, R271): its cause is noted and counted,
and its classical recomputation is appended to the cell's fallback queue, or the block fails at once. -/
namespace Sys2Proof.Machine

/-- A cause noted for the FALLBACK record of a slot (R369). -/
def addNote (cause test : Byte) (rnti : BitVec 16) (h : Byte) (l : List FallbackNote) : List FallbackNote :=
  if l.any fun x => x.cause == cause then l.map fun x => if x.cause = cause then { x with blocks := x.blocks + 1 } else x
  else l ++ [⟨cause, test, 1, rnti, h⟩]

/-- A cell's counter of a fallback cause (Table 06-11). -/
def causeCtr (cause : Byte) : CellCtr := .fallbackCause ⟨(cause.toNat - 32) % 6, Nat.mod_lt _ (by decide)⟩

/-- The fallback queue of a cell for a class, or any of the cell's, with room. -/
def State.fallbackQueue (s : State) (c : CellId) (cls : Nat) : Option QueueId :=
  let ok (q : QueueId) := (s.queue q).en && (s.queue q).fallback && (s.queue q).cell == c && decide (0 < (s.queue q).room)
  match (List.finRange 32).find? fun q => ok q && (s.queue q).cls == cls with
  | some q => some q
  | none => (List.finRange 32).find? ok

/-- A recomputation appended to the cell's fallback queue with EXCL and its cost, and whether it was admitted (R27, R154, R271). Without a
queue that takes it, it is not admitted. -/
def State.recompute (s : State) (c : CellId) (template : List Byte) (cost : Nat) : Bool × State :=
  match s.fallbackQueue c (descOf template).crit with
  | none => (false, (s.devInc .qmNotAdmitted).tdc .tdcSched c 1)
  | some q => ((s.admitEntry c cost).isSome, s.append q (setBytes (setExcl template) 84 (natLE 4 cost)))

/-- A rejected uplink block (R27, R190). FALLBACK_BLOCKS, which R46 names and no rule defines, counts here the uplink blocks whose
recomputation is admitted (DESIGN CHOICE, log entry 16). -/
def State.rejectUplink (s : State) (b : JudgedBlock) (cause test : Byte) (cost : Nat) : State :=
  match s.ulBlock b.ref, s.ulUnit b.ref with
  | some x, some u =>
    if x.final.isSome then s
    else
      let c := b.ref.cell
      let s1 := ((s.modBlock b.ref fun y => { y with waiting := none }).cellAdd c (causeCtr cause) 1).modUl c b.ref.air fun y => { y with
        notes := addNote cause test u.rnti u.harqId y.notes }
      let r := s1.recompute c b.template cost
      if r.1 then r.2.cellAdd c .fallbackBlocks 1
      else (r.2.blockFinal b.ref 4).modUl c b.ref.air fun y => { y with reserveShort := true }
  | _, _ => s

/-- A rejected downlink output (R23). -/
def State.rejectDownlink (s : State) (b : JudgedBlock) (alloc : BitVec 16) (cost : Nat) : State :=
  let r := s.recompute b.ref.cell b.template cost
  if r.1 then
    r.2.modCell b.ref.cell fun x => { x with dl := x.dl.map fun d =>
      if d.air = b.ref.air then { d with allocs := d.allocs.map fun y => if y.alloc = alloc then { y with replaced := true } else y }
      else d }
  else r.2.dlFail b.ref.cell b.ref.air alloc 4

/-- A rejected scheduler run: Hall's classical scheduler, the command of the template, replaces it and takes its time from the
reserve (R30). -/
def State.rejectScheduler (s : State) (b : JudgedBlock) (cost : Nat) : State :=
  s.classicalScheduler b.ref.cell ((s.frameTiming b.ref.cell).absOf s.now b.ref.air) b.template cost

/-! ### Classical costs (R166, R172, R175, R186, R187) -/

/-- ac of one LDPC iteration (R172). -/
def iterAc (bg1 : Bool) (z rows : Nat) : Nat := ceilDiv z 32 * (if bg1 then 55 + 5 * (rows - 4) else 30 + 4 * (rows - 4))

/-- The decoding term of R186, at the iteration cap; a polar block by R175. -/
def decodeTermAc (x : CodeShape) (iterCap : Nat) : Nat :=
  match x with
  | .ldpc bg1 z pMax => iterCap * iterAc bg1 z (ldpcRows bg1 z pMax)
  | .polar n k nPc => n * Nat.log2 n / 8 + 8 * (k + nPc)

/-- C_L of Table 05-7. -/
def choleskyAc (l : Nat) : Nat := if l = 1 then 60 else if l = 2 then 180 else if l = 3 then 400 else 720

/-- The fixed cost of a recomputation with N_R streams or N_T antennas (R186, R187). -/
def shapeAc (x : CostShape) (nR nT iterCap : Nat) : Nat :=
  match x with
  | .uplink e q l prbs symbols dmrs code =>
    let weights := 2 * nR * (l * (l + 1) / 2) + choleskyAc l + 2 * l ^ 2 * nR
    100 + ceilDiv (nR * 12 * symbols * prbs) 32 + prbs * dmrs * (37 * nR + weights)
      + ceilDiv e (l * q) * (2 * l * nR + l + l * (q + 2)) + decodeTermAc code iterCap
  | .downlink groups l => 100 + groups * (3 * l * nT + 26 * l)
  | .other ac => ac

/-- The cell as the plan that a judged block belongs to has it. -/
def State.judgedCell (s : State) (b : JudgedBlock) : Cell :=
  if b.dlAlloc.isSome then s.cellBuilt b.ref.cell b.ref.air else s.cellDecoded b.ref.cell b.ref.air

/-- The cost of recomputing a judged block. -/
def State.classicalAc (s : State) (b : JudgedBlock) : Nat :=
  let x := s.judgedCell b
  shapeAc b.shape (x.get .nUl) (x.get .nDl) (x.get .iterCap)

/-- The cost of a block whose shadow LLRs are its classical result: the decoding term alone (R344). -/
def State.decodeOnlyAc (s : State) (b : JudgedBlock) : Nat :=
  match b.shape with
  | .uplink _ _ _ _ _ _ code => decodeTermAc code ((s.judgedCell b).get .iterCap)
  | _ => s.classicalAc b

/-- A learned output is rejected with a cause of Table 06-7 by a test; cost is what its recomputation takes. -/
def State.rejectOutput (s : State) (b : JudgedBlock) (cause test : Byte) (cost : Nat) : State :=
  match b.path, b.dlAlloc with
  | .scheduler, _ => s.rejectScheduler b cost
  | _, some alloc => s.rejectDownlink b alloc cost
  | _, none => s.rejectUplink b cause test cost

end Sys2Proof.Machine
end

