-- ==== Sys2Proof/Machine/Ingest.lean ====
section
/-! DEFINITION. Ports and fronthaul ingest (R283-R299): link state, checks of a received U-plane packet, crates, concealment and
damage reports. The place of the crate queue and of the PRACH buffers is Hall's choice at cell configuration; the layout of
a PRACH buffer is the model's (log entry 10). -/
namespace Sys2Proof.Machine

/-! ### Ports (R283, R284, R311, R394) -/

def State.port (s : State) (p : PortId) : EthPort := vget s.eth.ports p

def State.modPort (s : State) (p : PortId) (f : EthPort → EthPort) : State :=
  { s with eth := { s.eth with ports := vmod s.eth.ports p f } }

def EthPort.en (x : EthPort) : Bool := wbit x.ctrl 31
def EthPort.mode (x : EthPort) : Nat := fld x.ctrl 17 16

/-- The largest frame in bytes; values outside 1 518-9 600 act as the nearer limit (Table 10-10). -/
def EthPort.mtu (x : EthPort) : Nat := max 1518 (min 9600 (fld x.ctrl 13 0))
def EthPort.vid (x : EthPort) : BitVec 12 := x.vlan.setWidth 12
def EthPort.pcp (x : EthPort) : Nat := fld x.vlan 15 13

/-- The port is enabled and its domain on. -/
def State.portOn (s : State) (p : PortId) : Bool := (s.port p).en && s.domainOn (75 + p.val)

/-- A port gains FEC lock and its link comes up (R311). -/
def ethLinkUpEffect (p : PortId) (s : State) : State :=
  if s.portOn p then s.modPort p fun x => { x with fecLock := true, linkUp := true } else s

def execEthLinkUp (p : PortId) (s : State) : Host.Outcome State Fault Refusal := .next (ethLinkUpEffect p s)

/-- A port loses its link, or FEC lock with it (R311). -/
def ethLinkDownEffect (p : PortId) (fecLost : Bool) (s : State) : State :=
  s.modPort p fun x => { x with linkUp := false, fecLock := x.fecLock && !fecLost }

def execEthLinkDown (p : PortId) (fecLost : Bool) (s : State) : Host.Outcome State Fault Refusal :=
  .next (ethLinkDownEffect p fecLost s)

/-- A PFC pause frame: ignored for the eCPRI priority, honoured for the others; a quantum is 512 bits, 5.12 ns at 100 Gbit/s
(R284). -/
def pfcPauseReceiveEffect (p : PortId) (prio : Fin 8) (quanta : Nat) (s : State) : State :=
  if s.portOn p ∧ (s.port p).pcp ≠ prio.val then
    s.modPort p fun x => { x with paused := vset x.paused prio (s.now + (quanta * 512 * 65536 / 100 : Nat)) }
  else s

def execPfcPauseReceive (p : PortId) (prio : Fin 8) (quanta : Nat) (s : State) : Host.Outcome State Fault Refusal :=
  .next (pfcPauseReceiveEffect p prio quanta s)

/-- A received frame discarded by its FCS, or by type, size or an unsupported feature (R283, R285). -/
def State.rxDiscard (s : State) (p : PortId) : RxDiscard → State
  | .badFcs => s.devInc (.ethRxFcs p)
  | .malformed => s.devInc (.ethRxMalformed p)

def ethRxDiscardEffect (p : PortId) (cause : RxDiscard) (s : State) : State :=
  if s.portOn p then s.rxDiscard p cause else s

def execEthRxDiscard (p : PortId) (cause : RxDiscard) (s : State) : Host.Outcome State Fault Refusal :=
  .next (ethRxDiscardEffect p cause s)

/-- 1 ms after EN was cleared the port's domain goes off, and its link with it (R394). -/
def portDomainOffEffect (p : PortId) (s : State) : State :=
  match (s.port p).offAt with
  | some t =>
    if (s.port p).en = false ∧ s.reached (t + ns 1000000) = true then
      { s.modPort p fun x => { x with offAt := none, linkUp := false, fecLock := false, staged := [] } with
        pwr := { s.pwr with domains := s.pwr.domains &&& ~~~(1#86 <<< (75 + p.val)) } }
    else s
  | none => s

def execPortDomainOff (p : PortId) (s : State) : Host.Outcome State Fault Refusal := .next (portDomainOffEffect p s)

/-! ### The region of interest and the crates (R290-R294) -/

/-- eAxC ID of a stream (R286). -/
def eaxcOf (c : CellId) (kind index : Nat) : BitVec 16 := BitVec.ofNat 16 (c.val * 4096 + kind * 256 + index)

def grantCovers (g : Grant) (sym prb : Nat) : Bool :=
  decide (g.prbStart ≤ prb) && decide (prb < g.prbStart + g.prbCount) && decide (g.symFirst ≤ sym)
    && decide (sym < g.symFirst + g.symCount)

/-- PRBs of the ROI set, ascending (R290). -/
def IngSlot.roi (x : IngSlot) : List Nat :=
  (List.range 276).filter fun prb => x.grants.any fun g => !g.prach && decide (g.prbStart ≤ prb) && decide (prb < g.prbStart + g.prbCount)

/-- The uplink C-plane requested that PRB and symbol for the crates. -/
def IngSlot.asked (x : IngSlot) (sym prb : Nat) : Bool := x.grants.any fun g => !g.prach && grantCovers g sym prb

/-- It requested them for any use but PRACH: also as a noise sample (R298). -/
def IngSlot.requested (x : IngSlot) (sym prb : Nat) : Bool := x.asked sym prb || x.noisePrbs.contains prb

/-- It requested them for a PRACH occasion (R299). -/
def IngSlot.askedPrach (x : IngSlot) (occ sym prb : Nat) : Bool :=
  x.grants.any fun g => g.prach && g.index == occ && grantCovers g sym prb

/-- S_C: the smallest of 4, 8, 16, 32 and 64 no less than N_UL (R291). -/
def crateStreams (nUl : Nat) : Nat := if nUl ≤ 4 then 4 else if nUl ≤ 8 then 8 else if nUl ≤ 16 then 16 else if nUl ≤ 32 then 32 else 64

/-- C_max (R291). -/
def cMax (nPrb : Nat) : Nat := ceilDiv nPrb 16

/-- Bytes of a crate entry (R292). -/
def crateSize (sc : Nat) : Nat := 2112 + 5376 * sc

/-- Fabric address of the entry of crate k of an air slot (R291). -/
def Cell.crateAddr (x : Cell) (a : AirSlot) (k : Nat) : Nat :=
  x.crateBase + (slotIndex (x.get .mu) a % 2 * cMax (x.get .nPrb) + k) * crateSize (crateStreams (x.get .nUl))

/-- The ROI PRBs of crate k. -/
def IngSlot.cratePrbs (x : IngSlot) (k : Nat) : List Nat := (x.roi.drop (16 * k)).take 16

/-- Crates that the ROI requires. -/
def IngSlot.required (x : IngSlot) : Nat := ceilDiv x.roi.length 16

def IngSlot.unit (l : List RxUnit) (sym prb stream : Nat) : Option RxUnit :=
  l.find? fun u => u.symbol == sym && u.prb == prb && u.stream == stream

/-- The failure noted for a unit. -/
def IngSlot.noted (x : IngSlot) (sym prb : Nat) (eaxc : BitVec 16) : Option Byte :=
  (x.erased.find? fun d => d.symbol == sym && d.prb == prb && d.eaxc == eaxc).map (·.cause)

/-- The smallest shift in 0-8 that brings every component within ±127 (R293); none where even 8 does not. -/
def crateShift (comps : List Int) : Option Nat :=
  (List.range 9).find? fun sh => comps.all fun v => decide ((rnaShift v sh).natAbs ≤ 127)

/-- Components of the streams of a PRB and symbol of a crate, zeros where nothing was received; and the validity word. -/
def IngSlot.cell (x : IngSlot) (sc nUl sym : Nat) (prb : Option Nat) : List (List Int) × Nat :=
  let rows := (List.range sc).map fun t =>
    match prb with
    | some p => if t < nUl ∧ x.asked sym p then (IngSlot.unit x.rx sym p t).map fun (u : RxUnit) => u.comps else none
    | none => none
  (rows.map fun r => r.getD (List.replicate 24 0), (rows.zipIdx.map fun r => if r.1.isSome then 2 ^ r.2 else 0).sum)

/-- A component stored with a shift; a free byte where no shift fits it (R293, log entry 5). -/
def crateByte (sh : Nat) (free : BitVec 64) (v : Int) : Byte :=
  let w := rnaShift v sh
  if w.natAbs ≤ 127 then BitVec.ofInt 8 w else free.setWidth 8

/-- Data, shifts and masks of a crate: for each symbol and crate PRB its shift, validity word and 12 rows. -/
def State.crateCells (s : State) (x : IngSlot) (sc nUl : Nat) (prbs : List Nat) : List (Nat × Nat × List Byte) :=
  (List.range 224).map fun i =>
    let cell := x.cell sc nUl (i / 16) (prbs[i % 16]?)
    let sh := (crateShift cell.1.flatten).getD ((s.freeBits i).toNat % 9)
    (sh, cell.2, (List.range 12).flatMap fun k => (List.range sc).flatMap fun t => (List.range 2).map fun h =>
      crateByte sh (s.freeBits (224 + ((i * 12 + k) * sc + t) * 2 + h)) (((cell.1.getD t []).getD (2 * k + h)) 0))

/-- Ingest's accesses; firm, as the window table gives crates no class (log entry 17). -/
def ingestSource (c : CellId) : Source := ⟨evtSource 2 c.val, 0, false⟩

/-- Ingest writes into Plain. -/
def State.ingestWrite (s : State) (c : CellId) (a : Nat) (bs : List Byte) : State := s.agentWrite (ingestSource c) a bs

/-- READY of a complete crate (Table 10-3). -/
def readyBytes : List Byte := natLE 8 0x80000000

/-- Data of one capture source of a cell into the capture ring (Table 15-8). -/
def State.captureCell (s : State) (source : Nat) (c : CellId) (bs : List Byte) : State :=
  if s.host.capture.target.toNat = c.val then s.capture source bs else s

/-- A crate is written: data, shifts and mask, then the header, READY last in one write (R292, R294). -/
def State.writeCrate (s : State) (c : CellId) (x : IngSlot) (k : Nat) (flags : Nat) : State :=
  let y := s.cellBuilt c x.air
  let sc := crateStreams (y.get .nUl)
  let prbs := x.cratePrbs k
  let cells := s.crateCells x sc (y.get .nUl) prbs
  let a := y.crateAddr x.air k
  let head := natLE 2 x.air.sfn.val ++ natLE 1 x.air.slot.val ++ natLE 1 c.val ++ natLE 1 k ++ natLE 1 prbs.length ++ natLE 1 flags ++ [0]
    ++ ((List.range 16).flatMap fun p => natLE 2 (prbs.getD p 0xFFFF)) ++ List.replicate 16 0
  let body := (cells.flatMap fun d => natLE 1 d.1) ++ List.replicate 32 0 ++ (cells.flatMap fun d => natLE 8 d.2.1)
    ++ cells.flatMap fun d => d.2.2
  let s1 := s.drew (224 + 5376 * sc)
  let s2 := ((s1.ingestWrite c (a + 64) body).ingestWrite c (a + 8) head).ingestWrite c a readyBytes
  let s3 := if s.audited c then s2.modCell c fun y => { y with crates := y.crates ++ [(x.air, k, readyBytes ++ head ++ body)] } else s2
  s3.captureCell 0 c (readyBytes ++ head ++ body)

/-! ### Damage reports (R296) -/

/-- Units of a list of PRBs of one symbol and eAxC that are missing, with their causes. -/
def IngSlot.missing (x : IngSlot) (l : List RxUnit) (sym stream : Nat) (eaxc : BitVec 16) (prbs : List Nat) : List (Nat × Byte) :=
  (prbs.filter fun p => (IngSlot.unit l sym p stream).isNone).map fun p =>
    (p, (x.noted sym p eaxc).getD (if x.late.contains (sym, eaxc) then 2 else 1))

/-- Contiguous runs of PRBs with one cause: first PRB, count, cause. -/
def damageRuns : List (Nat × Byte) → List (Nat × Nat × Byte)
  | [] => []
  | (p, c) :: rest =>
    match damageRuns rest with
    | (p', n, c') :: more => if p + 1 = p' ∧ c = c' then (p, n + 1, c) :: more else (p, 1, c) :: (p', n, c') :: more
    | [] => [(p, 1, c)]

/-- The slot changed by f. -/
def State.modIng (s : State) (c : CellId) (a : AirSlot) (f : IngSlot → IngSlot) : State :=
  s.modCell c fun x => { x with ing := x.ing.map fun i => if i.air = a then f i else i }

def State.ingSlot (s : State) (c : CellId) (a : AirSlot) : Option IngSlot := (s.cell c).ing.find? fun i => i.air == a

/-- One damage run reported, or counted beyond EVENT_MAX (R296). -/
def State.reportRun (s : State) (c : CellId) (a : AirSlot) (sym : Nat) (eaxc : BitVec 16) (r : Nat × Nat × Byte) : State :=
  let n := ((s.ingSlot c a).map (·.reported)).getD 0
  if n < fld s.eth.ingCfg 7 0 then
    (s.modIng c a fun i => { i with reported := i.reported + 1 }).raise 0x0A01 (evtSource 2 c.val)
      (slotPayload c a ++ [BitVec.ofNat 8 sym, r.2.2] ++ natLE 2 r.1 ++ natLE 2 r.2.1 ++ natLE 2 eaxc.toNat)
  else s.cellAdd c .ingEventSuppressed 1

/-- The missing units of one symbol and eAxC: counted, the slot concealed, and their runs reported. -/
def State.damage (s : State) (c : CellId) (a : AirSlot) (sym : Nat) (eaxc : BitVec 16) (m : List (Nat × Byte)) : State :=
  if m = [] then s
  else
    (damageRuns m).foldl (fun s r => s.reportRun c a sym eaxc r)
      ((s.cellAdd c .ingConceal m.length).modIng c a fun i => { i with concealed := true })

/-- The missing units of crate k, by symbol and stream. -/
def IngSlot.crateMissing (x : IngSlot) (c : CellId) (nUl k : Nat) : List (Nat × BitVec 16 × List (Nat × Byte)) :=
  (List.range 14).flatMap fun sym => (List.range nUl).map fun t =>
    let e := eaxcOf c 0 t
    (sym, e, x.missing x.rx sym t e ((x.cratePrbs k).filter fun p => x.asked sym p))

/-- Every requested unit of crate k was received or is erased (R294). -/
def IngSlot.crateDone (x : IngSlot) (c : CellId) (nUl k : Nat) : Bool :=
  (x.crateMissing c nUl k).all fun g => g.2.2.all fun p => (x.noted g.1 p.1 g.2.1).isSome

/-- Crate k is completed: written, and its damage reported. -/
def State.completeCrate (s : State) (c : CellId) (a : AirSlot) (k : Nat) (forced : Bool) : State :=
  match s.ingSlot c a with
  | none => s
  | some x =>
    let miss := x.crateMissing c ((s.cellBuilt c a).get .nUl) k
    let conceal := miss.any fun g => g.2.2 != []
    let s1 := (s.writeCrate c x k (bitNat forced + 2 * bitNat conceal)).modIng c a fun i => { i with done := i.done ++ [k] }
    miss.foldl (fun s g => s.damage c a g.1 g.2.1 g.2.2) s1

/-- Every open crate of a slot that is complete is written. -/
def State.completeCrates (s : State) (c : CellId) (a : AirSlot) : State :=
  match s.ingSlot c a with
  | none => s
  | some x =>
    ((List.range x.required).filter fun k => !x.done.contains k && x.crateDone c ((s.cellBuilt c a).get .nUl) k).foldl
      (fun s k => s.completeCrate c a k false) s

/-! ### UPLANE_RECEIVE (R287-R289, R299) -/

/-- The absolute number of the slot that a packet names: the occurrence nearest to now (R287). -/
def State.rxSlot (s : State) (c : CellId) (f : UplaneFrame) : Int :=
  let t := s.frameTiming c
  let p : Int := slotsPerFrame t.mu
  let fr := t.slotAt s.now / p
  let d := ((f.frameId.toNat : Int) - t.sfnOffset - fr) % 256
  (fr + if d < 128 then d else d - 256) * p + (f.subframeId * 2 ^ t.mu + f.slotId : Nat)

/-- PRACH buffer of an occasion: 64 KiB each, symbol by symbol, PRB by PRB, 12 CI16 values a PRB (log entry 10). -/
def Cell.prachAddr (x : Cell) (g : Grant) (sym prb : Nat) : Nat :=
  x.prachBase + g.index * 65536 + ((sym - g.symFirst) * g.prbCount + (prb - g.prbStart)) * 48

/-- The CI16 bytes of a PRB. -/
def ci16Bytes (comps : List Int) : List Byte := comps.flatMap fun v => intLE 2 (clampInt (-32768) 32767 v)

/-- A failure noted for a unit, the first one kept. -/
def IngSlot.note (x : IngSlot) (sym prb : Nat) (eaxc : BitVec 16) (cause : Byte) : IngSlot :=
  if (x.noted sym prb eaxc).isSome then x else { x with erased := x.erased ++ [⟨sym, eaxc, prb, cause⟩] }

/-- Checks 7-9 of Table 10-2 and the placing of one PRB. -/
def State.rxPrb (s : State) (c : CellId) (a : AirSlot) (f : UplaneFrame) (prach : Bool) (index prb : Nat) (u : UPrb) : State :=
  let width := (s.cellBuilt c a).get .bfpWidth
  let s0 := s.modIng c a fun i => i.note f.symbol prb f.eaxc 5
  if width < 16 ∧ 16 - width < u.exponent then s0
  else
    match s.ingSlot c a with
    | none => s.cellAdd c .ingUnrequested 1
    | some x =>
      let v : List Int := u.comps.map fun m => if width < 16 then m * ((2 ^ u.exponent : Nat) : Int) else m
      let unit : RxUnit := ⟨f.symbol, prb, index, v⟩
      if prach then
        match x.grants.find? fun g => g.prach && g.index == index && grantCovers g f.symbol prb with
        | none => s.cellAdd c .ingUnrequested 1
        | some g =>
          if (IngSlot.unit x.prach f.symbol prb index).isSome then s.cellAdd c .ingDup 1
          else
            (s.modIng c a fun i => { i with prach := i.prach ++ [unit] }).ingestWrite c ((s.cellBuilt c a).prachAddr g f.symbol prb)
              (ci16Bytes v)
      else if x.requested f.symbol prb then
        if (IngSlot.unit x.rx f.symbol prb index).isSome then s.cellAdd c .ingDup 1
        else s.modIng c a fun i => { i with rx := i.rx ++ [unit] }
      else s.cellAdd c .ingUnrequested 1

/-- Checks 5 and 6 of Table 10-2, and the PRBs of a section. -/
def State.rxSection (s : State) (c : CellId) (a : AirSlot) (f : UplaneFrame) (prach : Bool) (index : Nat) (x : USection) : State :=
  let noteAll (s : State) (lo n : Nat) (cause : Byte) : State :=
    s.modIng c a fun i => (List.range n).foldl (fun i k => i.note f.symbol (lo + k) f.eaxc cause) i
  if x.bfpWidth ≠ (s.cellBuilt c a).get .bfpWidth ∨ x.methodOk = false then noteAll s x.prbStart x.prbCount 3
  else
    let have_ := x.prbs.take x.prbCount
    let s1 := have_.zipIdx.foldl (fun s p => s.rxPrb c a f prach index (x.prbStart + p.2) p.1) s
    noteAll s1 (x.prbStart + have_.length) (x.prbCount - have_.length) 4

/-- The ecpriSeqid of an eAxC is followed: a jump forward counts one gap (R288, log entry 13). -/
def State.rxSeq (s : State) (c : CellId) (f : UplaneFrame) : State :=
  match (s.cell c).seqIds.find? fun e => e.1 == f.eaxc with
  | none => s.modCell c fun x => { x with seqIds := x.seqIds ++ [(f.eaxc, f.seqId + 1)] }
  | some e =>
    let d := (f.seqId - e.2).toNat
    if d < 128 then
      (if d = 0 then s else s.cellAdd c .ingSeqGap 1).modCell c fun x =>
        { x with seqIds := x.seqIds.map fun y => if y.1 = f.eaxc then (y.1, f.seqId + 1) else y }
    else s

/-- The cell, kind and index of an eAxC ID (R286). -/
def eaxcCell (e : BitVec 16) : CellId := ⟨e.toNat / 4096, by have := e.isLt; omega⟩

/-- Check 3 of Table 10-2. -/
def State.eaxcOk (s : State) (p : PortId) (e : BitVec 16) : Bool :=
  let x := s.cell (eaxcCell e)
  let kind := bitsOf e.toNat 11 8
  let index := bitsOf e.toNat 7 0
  x.running && x.get .port == p.val && ((kind == 0 && decide (index < x.get .nUl)) || (kind == 1 && decide (index < 8)))

/-- A packet for a cell's slot within its reception window. -/
def State.rxPacket (s : State) (c : CellId) (n : Int) (f : UplaneFrame) : State :=
  let a := (s.frameTiming c).air n
  let prach := bitsOf f.eaxc.toNat 11 8 == 1
  let s1 := f.sections.foldl (fun s x => s.rxSection c a f prach (bitsOf f.eaxc.toNat 7 0) x) s
  s1.completeCrates c a

/-- A received U-plane packet (Table 10-2). One that names the downlink or another payload version inside the window is
discarded and counted in neither counter (log entry 13). The window compares the receive stamp (R287, R323). -/
def uplaneReceiveEffect (p : PortId) (f : UplaneFrame) (s : State) : State :=
  if !(s.portOn p && s.domainOn 73) then s
  else if !f.fcsOk then s.rxDiscard p .badFcs
  else if (s.port p).mode ≠ 1 ∨ (s.port p).mtu < f.bytes ∨ f.headerOk = false ∨ f.vid ≠ (s.port p).vid ∨ s.eaxcOk p f.eaxc = false then
    s.rxDiscard p .malformed
  else
    let c := eaxcCell f.eaxc
    let s := s.rxSeq c f
    let t := s.frameTiming c
    let n := s.rxSlot c f
    let at_ := nsOf (s.stamp p)
    let s := s.drew 1
    if at_ < nsOf (t.start n) then s.cellAdd c .ingEarly 1
    else if nsOf (t.start (n + 1) + pctOf (slotNs t.mu) 80) ≤ at_ then
      (s.cellAdd c .ingLate 1).modIng c (t.air n) fun i => { i with late := (f.symbol, f.eaxc) :: i.late }
    else if f.dataDirection ∨ f.payloadVersion ≠ 1 then s
    else s.rxPacket c n f

def execUplaneReceive (p : PortId) (f : UplaneFrame) (s : State) : Host.Outcome State Fault Refusal :=
  .next (uplaneReceiveEffect p f s)

/-! ### RECEPTION_WINDOW_OPEN (R294) and CRATE_FORCE (R295) -/

/-- A slot at ingest with nothing received. -/
def IngSlot.fresh (a : AirSlot) (grants : List Grant) (noise : List Nat) : IngSlot :=
  { air := a, grants := grants, noisePrbs := noise, rx := [], prach := [], erased := [], late := [], done := [], opened := false
    closed := false, forced := false, concealed := false, reported := 0 }

/-- At T_n READY clears in every entry of the slot, and the crates with no PRB are written complete. -/
def receptionWindowOpenEffect (c : CellId) (a : AirSlot) (s : State) : State :=
  if (s.cell c).running ∧ s.reached (s.airStart c a) ∧ ((s.ingSlot c a).map (·.opened)).getD false = false then
    let s0 := if (s.ingSlot c a).isSome then s else s.modCell c fun x => { x with ing := x.ing ++ [IngSlot.fresh a [] []] }
    let s1 := s0.modIng c a fun i => { i with opened := true }
    let n := cMax ((s.cell c).get .nPrb)
    let s2 := (List.range n).foldl (fun s k => s.ingestWrite c ((s.cell c).crateAddr a k) (List.replicate 8 0)) s1
    let req := ((s1.ingSlot c a).map IngSlot.required).getD 0
    ((List.range n).drop req).foldl (fun s k => s.completeCrate c a k false) s2
  else s

def execReceptionWindowOpen (c : CellId) (a : AirSlot) (s : State) : Host.Outcome State Fault Refusal :=
  .next (receptionWindowOpenEffect c a s)

/-- The missing units of a PRACH occasion read as zero and are reported (R299). -/
def State.prachForce (s : State) (c : CellId) (x : IngSlot) (g : Grant) : State :=
  let e := eaxcOf c 1 g.index
  ((List.range g.symCount).map (g.symFirst + ·)).foldl (fun s sym =>
    let m := x.missing x.prach sym g.index e ((List.range g.prbCount).map (g.prbStart + ·))
    let s1 := m.foldl (fun s p => s.ingestWrite c ((s.cellBuilt c x.air).prachAddr g sym p.1) (List.replicate 48 0)) s
    s1.damage c x.air sym e m) s

/-- At T_{n+1} + 10 % of S every open crate is forced to completion; the low-water alarm names how many were complete. -/
def crateForceEffect (c : CellId) (a : AirSlot) (s : State) : State :=
  match s.ingSlot c a with
  | none => s
  | some x =>
    if x.opened ∧ x.closed = false ∧ s.reached (s.airStartPlus c a 1 + pctOf (s.slotLen c) 100) then
      let open_ := (List.range x.required).filter fun k => !x.done.contains k
      let s1 := open_.foldl (fun s k => s.completeCrate c a k true) (s.modIng c a fun i => { i with closed := true, forced := open_ != [] })
      let s2 := (x.grants.filter (·.prach)).foldl (fun s g => s.prachForce c x g) s1
      if open_ = [] then s2
      else
        (s2.cellAdd c .ingLowWater 1).raise 0x0A02 (evtSource 2 c.val)
          (slotPayload c a ++ [BitVec.ofNat 8 x.required, BitVec.ofNat 8 (x.required - open_.length)])
    else s

def execCrateForce (c : CellId) (a : AirSlot) (s : State) : Host.Outcome State Fault Refusal := .next (crateForceEffect c a s)

/-! ### The noise floor (R298) -/

/-- Sum of |v|² over the received REs of the noise-sample PRBs, and their number. -/
def IngSlot.noise (x : IngSlot) : Nat × Nat :=
  let l := x.rx.filter fun u => x.noisePrbs.contains u.prb
  ((l.map fun u => (u.comps.map fun v => v.natAbs * v.natAbs).sum).sum, 12 * l.length)

/-- 1000 log10(S / (N 2^31)) is at least −k. -/
def logAtLeast (sum n k : Nat) : Bool := decide ((n * 2 ^ 31) ^ 1000 ≤ sum ^ 1000 * 10 ^ k)

/-- The least k below hi for which that holds, by halving; hi where none does. -/
def logSearch (p : Nat → Bool) : Nat → Nat → Nat → Nat
  | 0, _, hi => hi
  | fuel + 1, lo, hi =>
    if lo < hi then
      let m := (lo + hi) / 2
      if p m then logSearch p fuel lo m else logSearch p fuel (m + 1) hi
    else hi

/-- NOISE_FLOOR: 8000h without a sample; otherwise a value that a logarithm accurate to 0.02 dB rounds to, the free bit
choosing where two are possible (log entry 5). -/
def IngSlot.noiseFloor (x : IngSlot) (free : Bool) : Int :=
  let r := x.noise
  if r.2 = 0 then -32768
  else if r.1 = 0 then -32767
  else
    let k := logSearch (logAtLeast r.1 r.2) 16 0 32768
    -- the value lies in [−k, −k + 1) thousandths of a bel; with the error of 2 in a thousand it rounds to lo or hi
    let lo := rnaDiv (-(k : Int) - 2) 10
    let hi := rnaDiv (-(k : Int) + 3) 10
    clampInt (-32767) 0 (if free then hi else lo)

end Sys2Proof.Machine
end

