-- ==== Sys2Proof/Machine/Egress.lean ====
section
/-! DEFINITION. Downlink egress (R301-R306): the launch list, compression, ramp shaping, launch staging, and the launches of
C-plane and U-plane. What goes into the outbox is a section as the spec fixes it (log entry 18). -/
namespace Sys2Proof.Machine

def State.dlSlot (s : State) (c : CellId) (a : AirSlot) : Option DlSlot := (s.cell c).dl.find? fun d => d.air == a

/-- The slot transmits in a symbol: a section of the U-plane covers it. -/
def DlSlot.transmits (d : DlSlot) (sym : Nat) : Bool :=
  d.entries.any fun e => e.kind == 1 && decide (e.symFirst ≤ sym) && decide (sym < e.symFirst + e.symCount)

/-- The air slot before. -/
def State.airBefore (s : State) (c : CellId) (a : AirSlot) : AirSlot :=
  let f := s.frameTiming c
  f.air (f.absOf s.now a - 1)

/-- Egress's accesses for the launch list itself: firm (DEDUCED, log entry 17). -/
def egressSource (c : CellId) : Source := ⟨evtSource 2 c.val, 0, false⟩

/-- Egress's accesses for an allocation take its class (R234): bulk for the data of a transport block, firm for control (Table 01-2). -/
def State.allocSource (s : State) (c : CellId) (a : AirSlot) (alloc : BitVec 16) : Source :=
  ⟨evtSource 2 c.val, bitNat ((s.dlSlot c a).any fun d => d.allocs.any fun x => x.alloc == alloc), false⟩

/-- T_m − DL_ADVANCE (R302). -/
def State.dlStart (s : State) (c : CellId) (a : AirSlot) : Int := s.airStart c a - pctOf (s.slotLen c) ((s.cellBuilt c a).get .dlAdvance)

/-- The hand-over close of air slot m: 96 % of S minus DL_ADVANCE in processing slot m − 1. -/
def State.handover (s : State) (c : CellId) (a : AirSlot) : Int :=
  s.airStartPlus c a (-1) + pctOf (s.slotLen c) 960 - pctOf (s.slotLen c) ((s.cellBuilt c a).get .dlAdvance)

/-- t_L of a symbol (R302). -/
def State.launchAt (s : State) (c : CellId) (a : AirSlot) (sym : Nat) : Int :=
  s.dlStart c a + symbolStart (s.frameTiming c).mu a.slot.val sym

/-! ### HANDOVER_CLOSE (R301) -/

/-- A launch-list entry and its ACCEPT address (Table 10-7). -/
def launchEntryOf (b : List Byte) : LaunchEntry × Nat :=
  ({ kind := b.getD 0 0, stream := b.getD 1 0, symFirst := bytesNat b 2 1, symCount := bytesNat b 3 1, prbStart := bytesNat b 4 2
     prbCount := bytesNat b 6 2, data := bytesNat b 8 4, beam := BitVec.ofNat 16 (bytesNat b 16 2)
     alloc := BitVec.ofNat 16 (bytesNat b 18 2) }, bytesNat b 12 4)

/-- The launch list read, with for each entry whether its ACCEPT word lets it pass. -/
def State.readLaunch (s : State) (c : CellId) (air : AirSlot) (a : Nat) : Nat → List (LaunchEntry × Bool) × State
  | 0 => ([], s)
  | n + 1 =>
    let r := s.agentRead (egressSource c) a 32
    let e := launchEntryOf r.1
    let w := if e.2 = 0 then ([1], r.2) else r.2.agentRead (s.allocSource c air e.1.alloc) e.2 8
    let rest := (w.2.captureCell 1 c r.1).readLaunch c air (a + 32) n
    ((e.1, decide (leNat w.1 ≠ 0)) :: rest.1, rest.2)

/-- A C-plane section belongs to a U-plane section of the list: same allocation, stream and PRBs (log entry 16). -/
def LaunchEntry.matches_ (x y : LaunchEntry) : Bool :=
  x.alloc == y.alloc && x.stream == y.stream && x.prbStart == y.prbStart && x.prbCount == y.prbCount

/-- The hand-over close: sections whose data was not accepted, or whose allocation has failed, are omitted with their C-plane. -/
def handoverCloseEffect (c : CellId) (a : AirSlot) (list : Word) (entries : Nat) (s : State) : State :=
  match s.dlSlot c a with
  | none => s
  | some d =>
    if d.handedOver = false ∧ s.reached (s.handover c a) then
      let r := if d.noPlan then ([], s) else s.readLaunch c a list.toNat entries
      let failed (e : LaunchEntry) : Bool := e.kind == 1 && d.allocs.any fun x => x.alloc == e.alloc && x.reason != 0
      let bad := r.1.filter fun e => !e.2 || failed e.1
      let keep := (r.1.map (·.1)).filter fun e => !(bad.any fun b => b.1 == e || (e.kind == 2 && b.1.kind == 1 && e.matches_ b.1))
      let s1 := r.2.cellAdd c .egrOmitted (r.1.length - keep.length)
      let s2 := bad.foldl (fun s b => s.dlFail c a b.1.alloc 3) s1
      let tx (sym : Nat) : Bool := (s.dlSlot c (s.airBefore c a)).any fun y => y.transmits sym
      s2.modDl c a fun d => { d with handedOver := true, before := (tx 12, tx 13), entries := keep }
    else s

def execHandoverClose (c : CellId) (a : AirSlot) (list : Word) (entries : Nat) (s : State) : Host.Outcome State Fault Refusal :=
  .next (handoverCloseEffect c a list entries s)

/-! ### Compression (R303) and ramp shaping (R304) -/

/-- A run of b-bit codes packed most significant bit first, padded to whole bytes. -/
def packMsb (b : Nat) (codes : List Int) : List Byte :=
  let total := b * codes.length
  let n : Nat := codes.foldl (fun (n : Nat) (v : Int) => n * 2 ^ b + (v % ((2 ^ b : Nat) : Int)).toNat) 0
  let bytes := ceilDiv total 8
  (natLE bytes (n * 2 ^ (8 * bytes - total))).reverse

/-- The smallest exponent with which every component fits in b bits (R303). -/
def bfpExponent (b : Nat) (comps : List Int) : Nat :=
  ((List.range 16).find? fun e => comps.all fun v =>
    decide (-((2 ^ (b - 1) : Nat) : Int) ≤ rnaShift v e) && decide (rnaShift v e < ((2 ^ (b - 1) : Nat) : Int))).getD 15

/-- A PRB, or a weight vector, compressed at width b: udCompParam and mantissas; the components alone at 16. -/
def compress (b : Nat) (comps : List Int) : List Byte :=
  if b ≥ 16 then packMsb 16 comps
  else let e := bfpExponent b comps; natLE 1 e ++ packMsb b (comps.map fun v => rnaShift v e)

/-- Components shaped by an edge gain (R304). -/
def rampShape (g : Nat) (comps : List Int) : List Int := comps.map fun v => clampInt (-32768) 32767 (rnaShift (v * (g : Int)) 15)

/-- The components that CI16 bytes hold. -/
def ci16Of : List Byte → List Int
  | a :: b :: rest => signed 16 (leNat [a, b]) :: ci16Of rest
  | _ => []

/-! ### FRAME_STAGE (R302, R305) -/

/-- Bytes of a PRB on the wire. -/
def prbBytes (b : Nat) : Nat := if b ≥ 16 then 48 else 1 + 3 * b

/-- Bytes of an O-RAN U-plane frame beside its PRBs: Ethernet with VLAN tag and FCS, eCPRI, and one section with udCompHdr
(PRESUMED from those standards, log entry 18). -/
def frameOverhead : Nat := 40

/-- PRBs of a section in each of its frames (R302). -/
def splitPrbs (per : Nat) : Nat → Nat → Nat → List (Nat × Nat)
  | 0, _, _ => []
  | fuel + 1, start, n => if n = 0 then [] else (start, min per n) :: splitPrbs per fuel (start + min per n) (n - min per n)

/-- Stable sort of sections by eAxC. -/
def insertEntry (e : LaunchEntry) : List LaunchEntry → List LaunchEntry
  | [] => [e]
  | x :: l => if e.stream.toNat < x.stream.toNat then e :: x :: l else x :: insertEntry e l

/-- The U-plane sections of a symbol in ascending eAxC order. -/
def DlSlot.sections (d : DlSlot) (sym : Nat) : List LaunchEntry :=
  (d.entries.filter fun e => e.kind == 1 && decide (e.symFirst ≤ sym) && decide (sym < e.symFirst + e.symCount)).foldl
    (fun l e => insertEntry e l) []

/-- The frames of a symbol: section, first PRB, PRBs. -/
def State.frames (s : State) (p : PortId) (c : CellId) (d : DlSlot) (sym : Nat) : List (LaunchEntry × Nat × Nat) :=
  let per := max 1 (((s.port p).mtu - frameOverhead) / prbBytes ((s.cellBuilt c d.air).get .bfpWidth))
  (d.sections sym).flatMap fun e => (splitPrbs per (e.prbCount + 1) e.prbStart e.prbCount).map fun f => (e, f.1, f.2)

/-- The edge of a burst at which a symbol lies: EDGE of Table 10-6 (bit 0 start, bit 1 end) and its position counted from the gap; of two
edges the nearer gives the position (DESIGN CHOICE, log entry 10). -/
def DlSlot.edge (d : DlSlot) (next : Fin 4) (sym : Nat) : Option (Nat × Nat) :=
  let tx := [d.before.1, d.before.2] ++ (List.range 14).map d.transmits ++ [next.val.testBit 0, next.val.testBit 1]
  let on (i : Nat) : Bool := tx.getD i false
  let j := sym + 2
  let pos (near far : Nat) : Nat := if on near = false then 0 else if on far = false then 1 else 2
  let b := pos (j - 1) (j - 2)
  let e := pos (j + 1) (j + 2)
  if on j = false ∨ (b = 2 ∧ e = 2) then none
  else if b < e then some (1, b) else if e < b then some (2, e) else some (3, b)

/-- The gain of an edge position, where ramp shaping applies to it (R304). -/
def Cell.gain (x : Cell) (edge : Option (Nat × Nat)) : Option Nat :=
  match edge with
  | some (_, i) => if i < x.get .rampSyms then some (if i = 0 then x.get .g0 else x.get .g1) else none
  | none => none

/-- The bytes of a frame: first PRB and count, then the compressed PRBs. -/
def State.frameBytes (s : State) (c : CellId) (a : AirSlot) (sym : Nat) (f : LaunchEntry × Nat × Nat) (gain : Option Nat) : List Byte × State :=
  let e := f.1
  let r := s.agentRead (s.allocSource c a e.alloc) (e.data + ((sym - e.symFirst) * e.prbCount + (f.2.1 - e.prbStart)) * 48) (48 * f.2.2)
  let shape (v : List Int) : List Int := match gain with | some g => rampShape g v | none => v
  let prbs := (List.range f.2.2).flatMap fun i =>
    compress ((s.cellBuilt c a).get .bfpWidth) (shape (ci16Of ((r.1.drop (48 * i)).take 48)))
  (natLE 2 f.2.1 ++ natLE 2 f.2.2 ++ prbs, r.2)

/-- Bytes of the ramp part of a port that shaped symbols hold until they leave (R305): 48 a PRB (DESIGN CHOICE, log entry 10). -/
def EthPort.rampBytes (x : EthPort) : Nat := (x.staged.map (·.ramp)).sum

/-- An edge symbol is shaped: as the frames of it that are staged, or else where the ramp part has room for it. -/
def EthPort.shapes (x : EthPort) (c : CellId) (a : AirSlot) (sym : Nat) (fs : List (LaunchEntry × Nat × Nat)) : Bool :=
  match x.staged.find? fun f => f.cell == c && f.air == a && f.symbol == sym with
  | some f => f.ramp != 0
  | none => decide (x.rampBytes + (fs.map fun f => 48 * f.2.2).sum ≤ 262144)

/-- Launch staging of a port, 256 KiB (R305). -/
def EthPort.stagedBytes (x : EthPort) : Nat := (x.staged.map fun f => f.bytes.length + frameOverhead).sum

def EthPort.isStaged (x : EthPort) (c : CellId) (a : AirSlot) (sym : Nat) (eaxc : BitVec 16) (prb : Nat) : Bool :=
  x.staged.any fun f => f.cell == c && f.air == a && f.symbol == sym && f.eaxc == eaxc && f.prb == prb

/-- One frame found late: counted and recorded once, its allocation not transmitted (R305). -/
def State.frameLate (s : State) (p : PortId) (c : CellId) (a : AirSlot) (sym : Nat) (f : LaunchEntry × Nat × Nat) : State :=
  let e := eaxcOf c 0 f.1.stream.toNat
  match s.dlSlot c a with
  | none => s
  | some d =>
    if d.late.contains (sym, e, f.2.1) then s
    else
      (((s.cellAdd c .egrLate 1).dlFail c a f.1.alloc 3).modDl c a fun d => { d with late := (sym, e, f.2.1) :: d.late }).raise
        0x0A03 (evtSource 2 c.val)
        (slotPayload c a ++ [BitVec.ofNat 8 sym, BitVec.ofNat 8 p.val] ++ natLE 2 f.1.alloc.toNat ++ natLE 2 e.toNat)

/-- Frames staged in launch order while the part has space; the first that finds none waits, and those after it. -/
def State.stageFrames (s : State) (p : PortId) (c : CellId) (a : AirSlot) (sym : Nat) (gain : Option Nat) :
    List (LaunchEntry × Nat × Nat) → State
  | [] => s
  | f :: rest =>
    let e := eaxcOf c 0 f.1.stream.toNat
    if (s.port p).isStaged c a sym e f.2.1 then s.stageFrames p c a sym gain rest
    else
      let r := s.frameBytes c a sym f gain
      if 262144 < (s.port p).stagedBytes + r.1.length + frameOverhead then s
      else
        (r.2.modPort p fun x => { x with staged := x.staged ++
            [⟨c, a, sym, e, f.2.1, s.launchAt c a sym, f.1.alloc, r.1, if gain.isSome then 48 * f.2.2 else 0⟩] }).stageFrames p c a sym gain rest

/-- Egress builds the frames of a symbol, shaping an edge symbol unless the ramp part is full. Past the launch instant the frames
not staged are late (R305, Table 11-3). -/
def frameStageEffect (p : PortId) (c : CellId) (a : AirSlot) (sym : Fin 14) (next : Fin 4) (s : State) : State :=
  match s.dlSlot c a with
  | none => s
  | some d =>
    if d.handedOver ∧ s.portOn p ∧ s.domainOn 74 ∧ (s.cell c).get .port = p.val ∧ d.launched.contains sym.val = false then
      let fs := s.frames p c d sym.val
      if s.reached (s.launchAt c a sym.val) then
        (fs.filter fun f => !(s.port p).isStaged c a sym.val (eaxcOf c 0 f.1.stream.toNat) f.2.1).foldl
          (fun s f => s.frameLate p c a sym.val f) s
      else
        let gain := (s.cellBuilt c a).gain (d.edge next sym.val)
        let shaped := (s.port p).shapes c a sym.val fs
        let first := fs.all fun f => !(s.port p).isStaged c a sym.val (eaxcOf c 0 f.1.stream.toNat) f.2.1
        let s1 := if gain.isSome ∧ shaped = false ∧ first ∧ fs ≠ [] then s.cellAdd c .egrRampSkip 1 else s
        s1.stageFrames p c a sym.val (if shaped then gain else none) fs
    else s

/-- The symbols 0 and 1 in which the next slot transmits, as a number's bits. -/
def nextSymbols (next0 next1 : Bool) : Fin 4 :=
  match next0, next1 with
  | false, false => 0
  | true, false => 1
  | false, true => 2
  | true, true => 3

def execFrameStage (p : PortId) (c : CellId) (a : AirSlot) (sym : Fin 14) (next0 next1 : Bool) (s : State) :
    Host.Outcome State Fault Refusal := .next (frameStageEffect p c a sym (nextSymbols next0 next1) s)

/-! ### CPLANE_LAUNCH (R290, R298, R302, R304) -/

/-- The ramp-timing extension (Table 10-6). -/
def rampExt (x : Cell) (edge pos : Nat) : List Byte :=
  [126, 2] ++ natLE 2 (x.get .rampUpNs) ++ natLE 2 (x.get .rampDownNs) ++ natLE 1 edge ++ natLE 1 pos

/-- A C-plane section sent: its fields, weights at category B (as many as N_DL, compressed as one block at BFW_WIDTH), and the
extension of the edge symbols whose first section it is. -/
def State.sendCplane (s : State) (p : PortId) (c : CellId) (air : AirSlot) (x : Cell) (at_ : Int) (e : LaunchEntry) (exts : List Byte) : State :=
  let r := if e.kind = 2 ∧ x.get .category = 1 ∧ e.data ≠ 0 then s.agentRead (s.allocSource c air e.alloc) e.data (4 * x.get .nDl) else ([], s)
  let w := if r.1 = [] then [] else compress (x.get .bfwWidth) (ci16Of r.1)
  r.2.send (.fronthaul p true (eaxcOf c (if e.kind = 3 then 1 else 0) e.stream.toNat) at_
    ([e.kind, e.stream, BitVec.ofNat 8 e.symFirst, BitVec.ofNat 8 e.symCount] ++ natLE 2 e.prbStart ++ natLE 2 e.prbCount
      ++ natLE 2 e.beam.toNat ++ w ++ exts))

/-- The extensions that the k-th C-plane section carries. -/
def edgeExts (x : Cell) (d : DlSlot) (cs : List LaunchEntry) (k : Nat) (next : Fin 4) : List Byte :=
  if x.get .rampExt = 1 then
    (List.range 14).flatMap fun sym =>
      let first := cs.findIdx fun e => e.kind == 2 && decide (e.symFirst ≤ sym) && decide (sym < e.symFirst + e.symCount)
      match d.edge next sym with
      | some (edge, pos) => if first = k ∧ pos < x.get .rampSyms then rampExt x edge pos else []
      | none => []
  else []

/-- The C-plane of an air slot leaves, and ingest learns what it requested: the region-of-interest list that the accepted scheduler run
wrote (R29), or that given where none wrote it. -/
def cplaneLaunchEffect (c : CellId) (a : AirSlot) (grants : List Grant) (noisePrbs : List Nat) (next : Fin 4) (s : State) :
    State :=
  match s.dlSlot c a with
  | none => s
  | some d =>
    let at_ := s.dlStart c a - pctOf (s.slotLen c) 20
    if d.cplaneSent = false ∧ s.wh.safe = false ∧ s.time.stepped ∧ s.reached at_ then
      let p : PortId := ⟨(s.cell c).get .port % 4, by omega⟩
      let cs := d.entries.filter fun e => e.kind != 1
      let s1 := if s.portOn p ∧ s.domainOn 74 ∧ s.shadows c = false then
          cs.zipIdx.foldl (fun t e => t.sendCplane p c a (s.cellBuilt c a) at_ e.1 (edgeExts (s.cellBuilt c a) d cs e.2 next)) s
        else s
      let s2 := s1.modDl c a fun d => { d with cplaneSent := true }
      let roi := ((s.cell c).bookSlot a).roi.getD grants
      s2.modCell c fun x => { x with ing := x.ing.filter (fun i => i.air != a) ++ [IngSlot.fresh a roi noisePrbs] }
    else s

def execCplaneLaunch (c : CellId) (a : AirSlot) (grants : List Grant) (noisePrbs : List Nat) (next : Fin 4) (s : State) :
    Host.Outcome State Fault Refusal := .next (cplaneLaunchEffect c a grants noisePrbs next s)

/-! ### FRAME_LAUNCH (R302, R330) -/

/-- A staged frame of a symbol leaves in launch order. -/
def StagedFrame.of (f : StagedFrame) (c : CellId) (a : AirSlot) (sym : Nat) : Bool := f.cell == c && f.air == a && f.symbol == sym

/-- The launch monitor drives TIME_IO for the first frame of an instant on MON_PORT (R330, R332). -/
def State.monitor (s : State) (p : PortId) (at_ : Int) : State :=
  let v := s.time.ioSel
  if wbit v 2 ∧ fld v 5 4 = 3 ∧ fld v 13 12 = p.val ∧ s.out.contains (.launchPulse at_) = false then s.send (.launchPulse at_) else s

/-- At t_L the staged frames of a symbol leave back to back; those not staged are late. In safe state nothing is launched
(R361). -/
def frameLaunchEffect (p : PortId) (c : CellId) (a : AirSlot) (sym : Fin 14) (s : State) : State :=
  match s.dlSlot c a with
  | none => s
  | some d =>
    let at_ := s.launchAt c a sym.val
    if d.launched.contains sym.val = false ∧ s.time.stepped ∧ s.reached at_ ∧ (s.cell c).get .port = p.val then
      let s1 := s.modDl c a fun d => { d with launched := d.launched ++ [sym.val] }
      let mine := (s.port p).staged.filter fun f => f.of c a sym.val
      let s2 := s1.modPort p fun x => { x with staged := x.staged.filter fun f => !f.of c a sym.val }
      if s.wh.safe ∨ s.portOn p = false ∨ s.shadows c = true then s2
      else
        let late := (s.frames p c d sym.val).filter fun f => !(s.port p).isStaged c a sym.val (eaxcOf c 0 f.1.stream.toNat) f.2.1
        let s3 := late.foldl (fun s f => s.frameLate p c a sym.val f) s2
        let s4 := mine.foldl (fun s f => s.send (.fronthaul p false f.eaxc at_ f.bytes)) s3
        if mine = [] then s4 else s4.monitor p at_
    else s

def execFrameLaunch (p : PortId) (c : CellId) (a : AirSlot) (sym : Fin 14) (s : State) : Host.Outcome State Fault Refusal :=
  .next (frameLaunchEffect p c a sym s)

end Sys2Proof.Machine
end

