-- ==== Sys2Proof/Machine/SlotCmd.lean ====
section
/-! DEFINITION. Slot results towards the host (R22, R41-R45, R169, R181, R189, R307) and the update step of site adaptation
(R380, R381). -/
namespace Sys2Proof.Machine

/-! ### Delivery (R43, R44, R309, R426) -/

/-- Combined peak decoded uplink rate of the running cells delivered over USB, in Mbit/s. -/
def State.usbRate (s : State) : Nat :=
  (((vlist s.cells).filter fun x => x.running && x.get .delivery == 0xFFFF).map fun x =>
    Config.peakUplink (x.get .mu) (x.get .nPrb) (x.get .nUl)).sum

/-- Endpoint 2 takes indications: configured, and at high speed only within 0.2 Gbit/s (R426). -/
def State.usbAccepts (s : State) : Bool :=
  s.host.usbConfigured && (s.host.usbSpeed == 2 || (s.host.usbSpeed == 1 && decide (s.usbRate ≤ 200)))

/-- The queue pair of a cell's delivery; none for USB. -/
def Cell.deliveryQp (x : Cell) : Option QpId := if h : x.get .delivery < 256 then some ⟨x.get .delivery, h⟩ else none

/-- The delivery path of a cell's air slot accepts an indication; in safe state none does (R361). -/
def State.pathAccepts (s : State) (c : CellId) (a : AirSlot) : Bool :=
  !s.wh.safe &&
    match (s.cellDecoded c a).deliveryQp with
    | some q => (s.qp q).live && s.portOn (s.qp q).port
    | none => s.usbAccepts

/-- Immediate value of a delivered indication (R43). -/
def indicationImm (c : CellId) (a : AirSlot) : Word := packWord [(c.val, 24), (a.sfn.val, 8), (a.slot.val, 0)]

/-- An indication or report goes out: into the host's ring at an address that is the host's, or as one message of endpoint 2. -/
def State.deliver (s : State) (c : CellId) (a : AirSlot) (bytes : List Byte) : State :=
  match (s.cellDecoded c a).deliveryQp with
  | some q =>
    let addr := s.freeBits 0
    ((s.drew 1).roceSend q 1 addr 0 bytes bytes.length).roceSend q 2 addr (indicationImm c a) [] 0
  | none => s.send (.usbMessage 2 0 0 0 0 bytes)

/-- An indication held in the ring of 32; a full ring loses its oldest (R44). -/
def State.hold (s : State) (c : CellId) (a : AirSlot) (bytes : List Byte) : State :=
  let l := (s.cell c).held
  let s1 := match l with
    | (old, _) :: rest =>
      if 32 ≤ l.length then
        ((s.modCell c fun x => { x with held := rest }).cellAdd c .deliveryDrop 1).raise 0x0102 (evtSource 2 c.val) (slotPayload c old)
      else s
    | [] => s
  s1.modCell c fun x => { x with held := x.held ++ [(a, bytes)] }

/-- Posted, unless the device is the cell's shadow (R388), or held while the path does not accept it or older ones wait. -/
def State.post (s : State) (c : CellId) (a : AirSlot) (bytes : List Byte) : State :=
  if s.shadows c then s
  else if (s.cell c).held = [] ∧ s.pathAccepts c a then s.deliver c a bytes else s.hold c a bytes

/-! ### The layouts of Tables 01-7 and 01-8 -/

/-- An entry before its payload is placed. -/
structure IndEntry where
  kind : Byte
  reason : Byte
  path : Byte
  rnti : BitVec 16
  harqId : Byte
  cbCount : Nat
  payload : List Byte
deriving DecidableEq, Repr

def IndEntry.nack (e : IndEntry) : Bool := e.reason != 0

/-- The 16 bytes of an entry whose payload lies at an offset. -/
def IndEntry.bytes (e : IndEntry) (off : Nat) : List Byte :=
  [e.kind, BitVec.ofNat 8 (bitNat e.nack), e.reason, e.path] ++ natLE 2 e.rnti.toNat ++ [e.harqId, BitVec.ofNat 8 e.cbCount]
    ++ natLE 4 off ++ natLE 4 e.payload.length

/-- Entries and payloads from an offset on. -/
def entryBytes (off : Nat) : List IndEntry → List Byte
  | [] => []
  | e :: l => e.bytes off ++ entryBytes (off + e.payload.length) l

/-- An indication or report. -/
def indicationBytes (type : Nat) (c : CellId) (flags : Nat) (a : AirSlot) (mu : Nat) (final : Int) (fallback : Nat) (noise : Int)
    (es : List IndEntry) : List Byte :=
  let payloads := es.flatMap (·.payload)
  natLE 2 type ++ natLE 1 c.val ++ natLE 1 flags ++ natLE 2 a.sfn.val ++ natLE 1 a.slot.val ++ natLE 1 mu ++ ptpBytes final
    ++ natLE 2 es.length ++ natLE 2 (es.filter (·.nack)).length ++ natLE 2 fallback ++ intLE 2 noise ++ natLE 4 payloads.length
    ++ entryBytes (32 + 16 * es.length) es ++ payloads

/-- Precedence of reasons (R189), highest first. -/
def reasonOrder : List Byte := [5, 8, 7, 3, 4, 2, 6, 9, 1]

/-- REASON of a unit: the reason of highest precedence among its blocks; CRC_FAIL where only its own CRC failed (R189). -/
def UlUnit.reason (u : UlUnit) : Byte :=
  match reasonOrder.find? fun r => u.blocks.any fun b => b.final == some r with
  | some r => r
  | none => if u.tbFail then 1 else 0

/-- PATH of a unit, over the blocks whose LLRs were accepted (R189, log entry 16). -/
def UlUnit.path (u : UlUnit) : Byte :=
  let l := u.blocks.filterMap (·.classical)
  if l = [] then 0 else if l.all id then 1 else if l.any id then 2 else 0

/-- The code words of a UCI unit, with their bits where they were decoded. -/
def UlUnit.words (u : UlUnit) : List (UciWord × Option (List Bool)) :=
  u.blocks.filterMap fun b => match b.payload with
    | .uci w bits => some (w, bits)
    | _ => none

/-- The bits of one part of a UCI unit: of each code word so many from an offset on. -/
def UlUnit.part (u : UlUnit) (first len : UciWord → Nat) : List Bool :=
  u.words.flatMap fun w => ((w.2.getD []).drop (first w.1)).take (len w.1)

/-- A part of a UCI unit was decoded: some code word holds it, and each that does was decoded. -/
def UlUnit.hasPart (u : UlUnit) (len : UciWord → Nat) : Bool :=
  (u.words.any fun w => decide (0 < len w.1)) && u.words.all fun w => len w.1 == 0 || w.2.isSome

/-- HARQ-ACK, CSI part 1, CSI part 2 and SR of a UCI unit. -/
def UlUnit.ackBits (u : UlUnit) : List Bool := u.part (fun _ => 0) (·.ack)
def UlUnit.srBits (u : UlUnit) : List Bool := u.part (·.ack) (·.sr)
def UlUnit.csi1Bits (u : UlUnit) : List Bool := u.part (fun w => w.ack + w.sr) (·.csi1)
def UlUnit.csi2Bits (u : UlUnit) : List Bool := u.part (fun w => w.ack + w.sr + w.csi1) (·.csi2)

/-- Bits on whole bytes, the first in bit 0. -/
def lowBits (l : List Bool) : List Byte := bitsBytes id l

/-- The payload of a UCI unit (Table 06-8); SINR and TA are those of its first code word. -/
def UlUnit.uciPayload (u : UlUnit) : List Byte :=
  let w := (u.words.map (·.1)).head?
  let valid := bitNat (u.hasPart (·.ack)) + 2 * bitNat (u.hasPart (·.csi1)) + 4 * bitNat (u.hasPart (·.csi2))
    + 8 * bitNat (u.srBits.any id)
  [(w.map (·.format)).getD 0, BitVec.ofNat 8 valid] ++ natLE 2 u.ackBits.length ++ natLE 2 u.csi1Bits.length ++ natLE 2 u.csi2Bits.length
    ++ intLE 2 ((w.map (·.sinr)).getD 0) ++ intLE 2 ((w.map (·.ta)).getD 0) ++ List.replicate 4 0
    ++ lowBits u.ackBits ++ lowBits u.csi1Bits ++ lowBits u.csi2Bits

/-- The payload of a PRACH occasion (Table 06-9). -/
def prachBytes (p : PrachScan) : List Byte :=
  let l := PrachScan.found p
  [BitVec.ofNat 8 p.occasion.val, BitVec.ofNat 8 l.length] ++ intLE 2 p.noise
    ++ l.flatMap fun x => [BitVec.ofNat 8 x.preamble.val, 0] ++ natLE 2 x.ta ++ intLE 2 x.power ++ [0, 0]

/-- The payload of an SRS report (Table 06-10). -/
def srsBytes (r : SrsReport) : List Byte :=
  [BitVec.ofNat 8 r.ports, BitVec.ofNat 8 r.comb] ++ natLE 2 r.prbStart ++ natLE 2 r.prbCount ++ [BitVec.ofNat 8 r.group, 0]
    ++ intLE 2 r.snr ++ intLE 2 r.ta ++ List.replicate 4 0 ++ r.groups.map (BitVec.ofInt 8)
    ++ List.replicate (alignUp r.groups.length 4 - r.groups.length) 0

/-- The bytes of a passed transport block: its bits in their order, the first in bit 7 of a byte. -/
def UlUnit.transportBytes (u : UlUnit) : List Byte :=
  match u.tx with
  | some t => bitsBytes (7 - ·) (transportBits t (u.blocks.map UlBlock.bits)).1
  | none => []

/-- The payload of a unit (R41, R42, R191-R193). -/
def UlUnit.payload (u : UlUnit) (reason : Byte) : List Byte :=
  if u.kind = 1 then (if reason = 0 then u.transportBytes else [])
  else if u.words ≠ [] then u.uciPayload
  else u.blocks.flatMap fun b => match b.payload with
    | .prach p => prachBytes p
    | .srs r => srsBytes r
    | _ => []

/-- REASON of a unit's entry: of UCI 0 when its HARQ-ACK part, or without one the SR, was decoded (R191); otherwise its blocks' (R189). -/
def UlUnit.status (u : UlUnit) : Byte :=
  if (u.kind = 2 ∨ u.kind = 3) ∧ (u.hasPart (·.ack) ∨ ((u.words.all fun w => w.1.ack == 0) ∧ u.hasPart (·.sr))) then 0 else u.reason

/-- The entry of an uplink unit. -/
def UlUnit.entry (u : UlUnit) : IndEntry :=
  { kind := u.kind, reason := u.status, path := u.path, rnti := u.rnti, harqId := u.harqId
    cbCount := if u.kind = 1 then u.blocks.length else 0, payload := u.payload u.status }

/-- Code blocks whose accepted result came from the classical path. -/
def UlSlot.fallbackCount (u : UlSlot) : Nat :=
  (u.units.map fun x => (x.blocks.filter fun b => b.classical == some true && b.final != some 3).length).sum

/-! ### UPLINK_DEADLINE (R22) -/

/-- Every block of a unit that is not final becomes a NACK with the deadline reason. -/
def UlUnit.expire (u : UlUnit) : UlUnit :=
  { u with blocks := u.blocks.map fun b => if b.final = none then { b with final := some 3 } else b }

/-- T_{n+2}: what is not final is NACKed, and the pages of its transport blocks are taken (R42, R179). -/
def uplinkDeadlineEffect (c : CellId) (a : AirSlot) (s : State) : State :=
  if s.reached (s.airStartPlus c a 2) then
    (s.modUl c a fun u => ({ u with units := u.units.map UlUnit.expire } : UlSlot).stamp s.now).harqKeepAll c a
      (((s.ulSlot c a).map fun u => u.units.length).getD 0)
  else s

def execUplinkDeadline (c : CellId) (a : AirSlot) (s : State) : Host.Outcome State Fault Refusal := .next (uplinkDeadlineEffect c a s)

/-! ### UL_SLOT_INDICATION (R41) -/

/-- Counters of an indication's entries (R46, Table 06-11). -/
def State.countEntry (s : State) (c : CellId) (e : IndEntry) : State :=
  if e.reason = 3 then s.cellAdd c .deadlineNack 1
  else if e.reason = 4 then s.cellAdd c .reserveNack 1
  else if e.reason = 2 then s.cellAdd c .budgetNack 1
  else if e.reason = 9 then s.cellAdd c .dtxCount 1
  else s

/-- The FALLBACK record of one cause in a slot (R369). -/
def State.fallbackEvent (s : State) (c : CellId) (a : AirSlot) (n : FallbackNote) : State :=
  s.raise 0x0C01 (evtSource 2 c.val)
    (slotPayload c a ++ [n.cause, n.test] ++ natLE 2 n.blocks ++ natLE 2 n.rnti.toNat ++ [n.harqId])

/-- FLAGS of an uplink indication. -/
def ulFlags (u : UlSlot) (concealed : Bool) : Nat :=
  bitNat u.demoted + 2 * bitNat u.reserveShort + 4 * bitNat u.schedFallback + 8 * bitNat concealed

/-- Every result of the slot is final: its indication is posted, and the slot is done with. -/
def ulSlotIndicationEffect (c : CellId) (a : AirSlot) (s : State) : State :=
  match s.ulSlot c a with
  | none => s
  | some u =>
    if u.isFinal then
      let es := u.units.map UlUnit.entry
      let i := s.ingSlot c a
      let noise := (i.map fun x => x.noiseFloor ((s.freeBits 0).getLsbD 0)).getD (-32768)
      let bytes := indicationBytes 0x0201 c (ulFlags u ((i.map (·.concealed)).getD false)) a (s.frameTiming c).mu
        (u.finalTime.getD s.now) u.fallbackCount noise es
      let s1 := es.foldl (fun s e => s.countEntry c e) (s.drew 1)
      let s2 := u.notes.foldl (fun s n => s.fallbackEvent c a n) s1
      let s3 := s2.modCell c fun x => { x with ul := x.ul.filter (fun y => y.air != a), ing := x.ing.filter (fun y => y.air != a) }
      s3.post c a bytes
    else s

def execUlSlotIndication (c : CellId) (a : AirSlot) (s : State) : Host.Outcome State Fault Refusal := .next (ulSlotIndicationEffect c a s)

/-! ### HELD_INDICATION_POST (R44) -/

/-- The path accepts data again: the oldest held indication is posted. -/
def heldIndicationPostEffect (c : CellId) (s : State) : State :=
  match (s.cell c).held with
  | (a, bytes) :: rest =>
    if s.pathAccepts c a then (s.modCell c fun x => { x with held := rest }).deliver c a bytes else s
  | [] => s

def execHeldIndicationPost (c : CellId) (s : State) : Host.Outcome State Fault Refusal := .next (heldIndicationPostEffect c s)

/-! ### DL_SLOT_REPORT (R41, R307) and DL_PAYLOAD_CHECK (R45) -/

/-- The last U-plane frame of the slot has left. -/
def DlSlot.sent (d : DlSlot) : Bool :=
  d.noPlan || (d.handedOver && (List.range 14).all fun sym => d.sections sym == [] || d.launched.contains sym)

/-- The entry of an allocation: KIND 9 with its reason where it was not transmitted. -/
def DlAlloc.entry (x : DlAlloc) : IndEntry :=
  { kind := if x.reason = 0 then 8 else 9, reason := x.reason, path := BitVec.ofNat 8 (bitNat x.replaced), rnti := x.rnti
    harqId := x.harqId, cbCount := 0, payload := [] }

/-- FLAGS of a downlink report: DEMOTED, and RESERVE_SHORT where an allocation was not admitted under R27. -/
def DlSlot.flags (d : DlSlot) : Nat := bitNat d.demoted + 2 * bitNat (d.allocs.any fun x => x.reason == 4)

/-- The downlink report. The spec does not say how many code blocks a replaced allocation counts for, so that number is free
(log entry 5). -/
def dlSlotReportEffect (c : CellId) (a : AirSlot) (s : State) : State :=
  match s.dlSlot c a with
  | none => s
  | some d =>
    if d.sent then
      let n := if d.allocs.any (·.replaced) then (s.freeBits 0).toNat % 65536 else 0
      let bytes := indicationBytes 0x0202 c d.flags a (s.frameTiming c).mu s.now n 0 (d.allocs.map DlAlloc.entry)
      let s1 := (s.drew 1).modCell c fun x => { x with dl := x.dl.filter (fun y => y.air != a), payloads := x.payloads.filter fun y => y.1 != a }
      s1.post c a bytes
    else s

def execDlSlotReport (c : CellId) (a : AirSlot) (s : State) : Host.Outcome State Fault Refusal := .next (dlSlotReportEffect c a s)

/-- The set of payloads that counts for an air slot: what the host has placed; on the shadow of a comparison pair what the active
device has forwarded, once it has (R389). -/
def State.payloadSet (s : State) (c : CellId) (a : AirSlot) : Option (List (BitVec 16 × Byte)) :=
  if s.shadows c then
    (s.join.lockstep.bind fun l => l.forwarded.find? fun f => f.1 == c && f.2.1 == a).map (·.2.2)
  else some (((s.cell c).payloads.filter fun p => p.1 == a).map fun p => (p.2.1, p.2.2.1))

/-- T_{m−1}: an allocation whose payload is absent is not transmitted. -/
def dlPayloadCheckEffect (c : CellId) (a : AirSlot) (s : State) : State :=
  match s.payloadSet c a with
  | some set =>
   if s.reached (s.airStartPlus c a (-1)) then
    let here (x : DlAlloc) : Bool := set.contains (x.rnti, x.harqId)
    let s := s.forward c (set.flatMap fun p => natLE 2 p.1.toNat ++ [p.2])
    s.modDl c a fun d => { d with allocs := d.allocs.map fun x => if x.reason = 0 ∧ here x = false then { x with reason := 10 } else x }
   else s
  | none => s

def execDlPayloadCheck (c : CellId) (a : AirSlot) (s : State) : Host.Outcome State Fault Refusal := .next (dlPayloadCheckEffect c a s)

/-! ### HARQ_PAGE_EXPIRY (R181) -/

/-- Age of a page in slots at an air slot. -/
def harqAge (mu : Nat) (p : HarqPage) (now : AirSlot) : Nat :=
  (((slotIndex mu now : Int) - slotIndex mu p.first) % (slotPeriod mu : Int)).toNat

/-- A page older than HARQ_MAX_AGE in the present slot is freed and counted. -/
def harqPageExpiryEffect (c : CellId) (page : Nat) (s : State) : State :=
  let now := (s.frameTiming c).air (s.procNow c)
  let old := s.harq.pages.filter fun p => p.number == page && p.cell == c && decide (s.harq.maxAge < harqAge (s.frameTiming c).mu p now)
  let s1 := old.foldl (fun s p => s.mirror (natLE 2 p.rnti.toNat ++ [p.harqId, BitVec.ofNat 8 c.val])) s
  ({ s1 with harq := { s1.harq with pages := s1.harq.pages.filter fun p => !old.contains p } }).cellAdd c .harqExpired old.length

def execHarqPageExpiry (c : CellId) (page : Nat) (s : State) : Host.Outcome State Fault Refusal := .next (harqPageExpiryEffect c page s)

/-! ### ADAPT_UPDATE_STEP (R380, R381) -/

/-- The 16 random bits of a rounding (R380). -/
def rbits (seed step : BitVec 64) (t : BitVec 16) (e : Nat) : BitVec 16 :=
  let x := seed ^^^ (step * 0x9E3779B97F4A7C15) ^^^ (t.setWidth 64 <<< 48) ^^^ BitVec.ofNat 64 (e % 4294967296)
  let x := (x ^^^ (x >>> 30)) * 0xBF58476D1CE4E5B9
  let x := (x ^^^ (x >>> 27)) * 0x94D049BB133111EB
  (x ^^^ (x >>> 31)).extractLsb' 48 16

/-- Stochastic rounding of an F32 word to BF16 with its random bits (SSR, R380). -/
def ssrBf16 (r : BitVec 16) (v : Word) : BitVec 16 :=
  let m := v &&& 0x7FFFFFFF
  let sign : BitVec 16 := if v.getLsbD 31 then 0x8000 else 0
  if 0x7F800000 < m.toNat then 0x7FC0
  else
    let a := m.extractLsb' 16 16
    let q := m.extractLsb' 0 16
    if q = 0 then sign ||| a
    else
      let x := if r.toNat < q.toNat then a + 1 else a
      sign ||| (if x = 0x7F80 then 0x7F7F else x)

/-- Weights as bytes, tensor by tensor (log entry 20). -/
def weightBytes (w : List (BitVec 16 × List (BitVec 16))) : List Byte := w.flatMap fun t => t.2.flatMap fun x => natLE 2 x.toNat

/-- A tensor of a weight set replaced. -/
def putTensor (w : List (BitVec 16 × List (BitVec 16))) (t : BitVec 16) (v : List (BitVec 16)) : List (BitVec 16 × List (BitVec 16)) :=
  if w.any fun x => x.1 == t then w.map fun x => if x.1 = t then (t, v) else x else w ++ [(t, v)]

/-- One update step on the candidate: the F32 results of training are rounded, the step is recorded, and STEP rises. Only the last
layers of the estimator are trained (R33); which tensors those are, the bundle says. -/
def Adapt.update (x : Adapt) (bundle : Option (BitVec 256)) (keep : Nat) (batch : List Byte) (updates : List (BitVec 16 × List Word)) : Adapt :=
  let w := (updates.filter fun u => Config.lastLayer bundle u.1).foldl (fun w u => putTensor w u.1 (u.2.zipIdx.map fun p => ssrBf16 (rbits x.seed x.stepNo u.1 p.2) p.1)) x.candidate
  { x with
    candidate := w, stepNo := x.stepNo + 1
    journal := keepLast keep (x.journal ++ [(x.stepNo, Config.shake256 batch, Config.shake256 (weightBytes w))])
    batches := keepLast keep (x.batches ++ [(x.stepNo, batch)]), work := 0 }

/-- A step is made on the work of a background command that has run since the last one (R32), on a batch of code blocks whose CRC
passed (R33, R381). With ADAPT_MODE = 0 adaptation does not run (R35). -/
def adaptUpdateStepEffect (c : CellId) (labels : List BlockRef) (batch : List Byte) (updates : List (BitVec 16 × List Word))
    (s : State) : State :=
  let x := s.cell c
  if (x.inPlan (s.procNow c)).get .adaptMode = 1 ∧ 0 < x.adapt.work ∧ labels ≠ [] ∧ (labels.all fun l => x.labels.contains l) = true then
    s.modCell c fun x => { x with adapt := x.adapt.update x.bundle (x.get .adaptKeep) batch updates }
  else s

def execAdaptUpdateStep (c : CellId) (batch : AdaptBatch) (updates : List (BitVec 16 × List Word)) (s : State) :
    Host.Outcome State Fault Refusal := .next (adaptUpdateStepEffect c batch.labels batch.inputs updates s)

end Sys2Proof.Machine
end

