-- ==== Sys2Proof/Machine/HistOps.lean ====
section
/-! DEFINITION. The history cache's operations (R195-R224): geometry, frames and their records, track and prefix records in
Plain, the look-aside buffer, and posting. -/
namespace Sys2Proof.Machine

/-! ### Geometry of a cell's history (Tables 07-1, 07-2) -/

/-- WINDOW, TOK, PREFIX_LEN, MAX_AGE and the bytes of a key line of a cell. -/
structure HistGeo where
  w : Nat
  tok : Nat
  p : Nat
  maxAge : Nat
  lk : Nat
  period : Nat
deriving DecidableEq, Repr

def State.histGeo (s : State) (c : CellId) : HistGeo :=
  let x := s.cell c
  { w := x.get .window, tok := x.get .tok, p := x.get .prefixLen, maxAge := x.get .maxAge
    lk := if x.get .keyFmt = fmtBs8Code then 96 else 64, period := slotPeriod (s.frameTiming c).mu }
where
  fmtBs8Code : Nat := 7

/-- First PRB of subband b, and the first beyond it, of a cell with so many PRBs (R196). -/
def HistGeo.subband (g : HistGeo) (nPrb b : Nat) : Nat × Nat := (b * nPrb / g.tok, (b + 1) * nPrb / g.tok)

/-- Bytes of a row group of keys or values. -/
def HistGeo.rowGroup (g : HistGeo) (value : Bool) : Nat := g.tok * (if value then 128 else g.lk)

/-- Row groups in a page (Table 07-2). -/
def HistGeo.rgpp (g : HistGeo) (value : Bool) : Nat := max 1 (4096 / max 1 (g.rowGroup value))

/-- Pages of n row groups. -/
def HistGeo.pages (g : HistGeo) (value : Bool) (n : Nat) : Nat := ceilDiv n (g.rgpp value)

/-- Page and byte of row group i. -/
def HistGeo.at_ (g : HistGeo) (value : Bool) (i : Nat) : Nat × Nat := (i / g.rgpp value, i % g.rgpp value * g.rowGroup value)

/-- CTX of R207. -/
def HistGeo.ctx (g : HistGeo) : Nat :=
  let n := g.p + g.w
  if n ≤ 16 then 16 else if n ≤ 32 then 32 else if n ≤ 64 then 64 else 128

/-- (a − b) mod Π. -/
def HistGeo.age (g : HistGeo) (ref stamp : Nat) : Nat := ((ref : Int) - stamp) % (g.period : Int) |>.toNat

/-- A reference is at or after an instant of the slot index (R218). -/
def HistGeo.reached (g : HistGeo) (ref e : Nat) : Bool := decide (2 * g.age ref e < g.period)

/-! ### Frames (R198, R216, R223) -/

/-- Where a frame lies: 0 SRAM, 1 Plain, 2 DRAM. -/
def frameLoc (f : Nat) : Nat := if f < 448 then 0 else if f < 2496 then 1 else 2

def Hist.plainCount (h : Hist) : Nat := min 2048 (fld h.plainFrames 11 0)
def Hist.dramCount (h : Hist) : Nat := min 63040 (fld h.dramFrames 15 0)

/-- The frames of a location. -/
def Hist.framesOf (h : Hist) (loc : Nat) : List Nat :=
  match loc with
  | 0 => List.range 448
  | 1 => (List.range h.plainCount).map (448 + ·)
  | 2 => (List.range h.dramCount).map (2496 + ·)
  | _ => []

/-- A frame is free (R216). -/
def Hist.isFree (h : Hist) (f : Nat) : Bool := sget 0 h.refcnt f == 0 && sget 0 h.pin f == 0

/-- Fabric address of a frame in Plain or DRAM. -/
def Hist.frameAddr (h : Hist) (f : Nat) : Nat :=
  if f < 2496 then fld h.plainBase 31 12 * 4096 + (f - 448) * 4096
  else Sys2Proof.Machine.dramBase + fld h.dramBase 21 0 * 4096 + (f - 2496) * 4096

/-- The unit's own accesses (R234): firm. -/
def histSource (cls : Nat) : Source := ⟨evtSource 0 0, cls, false⟩

/-- Bytes of a frame. -/
def State.frameRead (s : State) (f off len : Nat) : List Byte × State :=
  if f < 448 then (memRead s.hist.sram (f * 4096 + off) len, s)
  else s.agentRead (histSource 0) (s.hist.frameAddr f + off) len

def State.frameWrite (s : State) (f off : Nat) (bs : List Byte) : State :=
  if f < 448 then { s with hist := { s.hist with sram := memWrite s.hist.sram (f * 4096 + off) bs } }
  else s.agentWrite (histSource 0) (s.hist.frameAddr f + off) bs

/-- Reference count and pin count changed. -/
def Hist.ref (h : Hist) (f : Nat) (n : Nat) : Hist := { h with refcnt := sput 0 h.refcnt f n }
def Hist.refUp (h : Hist) (f : Nat) : Hist := h.ref f (sget 0 h.refcnt f + 1)
def Hist.refDown (h : Hist) (f : Nat) : Hist := h.ref f (sget 0 h.refcnt f - 1)
def Hist.pinUp (h : Hist) (f : Nat) : Hist := { h with pin := sput 0 h.pin f (sget 0 h.pin f + 1) }
def Hist.pinDown (h : Hist) (f : Nat) : Hist := { h with pin := sput 0 h.pin f (sget 0 h.pin f - 1) }

/-- Kinds of pages, as HC_PLACE orders them (Table 07-17): 0 prefix, 1 ring key, 2 ring value. -/
def Hist.order (h : Hist) (kind : Nat) : List Nat :=
  let lo := if kind = 0 then 0 else if kind = 1 then 8 else 16
  [fld h.place (lo + 1) lo, fld h.place (lo + 3) (lo + 2), fld h.place (lo + 5) (lo + 4)]

/-- A location gives a frame for a kind: a ring page leaves HC_SRAM_RESERVE of the SRAM (R223). -/
def Hist.gives (h : Hist) (kind loc : Nat) : List Nat :=
  let free := (h.framesOf loc).filter h.isFree
  if loc = 0 ∧ kind ≠ 0 ∧ free.length ≤ fld h.sramReserve 8 0 then [] else free

/-- A free frame of the first of some locations that has one; which of them is free (log entry 5). -/
def State.allocFrom (s : State) (kind : Nat) : List Nat → Option (Nat × State)
  | [] => none
  | l :: ls =>
    match s.hist.gives kind l with
    | [] => s.allocFrom kind ls
    | fs => (fs[(s.freeBits 0).toNat % fs.length]?).map fun f => (f, (s.drew 1).modHist fun h => h.ref f 1)

def State.alloc (s : State) (kind : Nat) : Option (Nat × State) := s.allocFrom kind (s.hist.order kind)

/-- Page of one frame copied into another. -/
def State.frameCopy (s : State) (src dst : Nat) : State :=
  let r := s.frameRead src 0 4096
  r.2.frameWrite dst 0 r.1

/-! ### Records (Tables 07-3 to 07-5) -/

/-- A page-table entry. -/
structure Pte where
  v : Bool
  sh : Bool
  frame : Nat
  gen : Nat
deriving DecidableEq, Repr

def Pte.empty : Pte := ⟨false, false, 0, 0⟩

def pteOf (b : List Byte) (o : Nat) : Pte :=
  let n := bytesNat b o 8
  ⟨bitOf n 63, bitOf n 62, bitsOf n 47 32, n % 2 ^ 32⟩

def Pte.bytes (p : Pte) : List Byte :=
  natLE 8 (if p.v then p.gen % 2 ^ 32 + p.frame * 2 ^ 32 + bitNat p.sh * 2 ^ 62 + 2 ^ 63 else 0)

/-- A track record. -/
structure TrackRec where
  attached : Bool
  cell : CellId
  rnti : Nat
  head : Nat
  gen : Nat
  stamps : List Nat
  ptes : List Pte
deriving DecidableEq, Repr

/-- No entry at a ring position. -/
def noStamp : Nat := 0xFFFFFFFF

def trackRecOf (b : List Byte) : TrackRec :=
  { attached := bytesNat b 0 1 == 1, cell := ⟨bytesNat b 1 1 % 16, Nat.mod_lt _ (by decide)⟩, rnti := bytesNat b 2 2
    head := bytesNat b 4 4, gen := bytesNat b 8 4, stamps := (List.range 64).map fun i => bytesNat b (64 + 4 * i) 4
    ptes := (List.range 128).map fun i => pteOf b (512 + 8 * i) }

def TrackRec.bytes (x : TrackRec) : List Byte :=
  [BitVec.ofNat 8 (bitNat x.attached), BitVec.ofNat 8 x.cell.val] ++ natLE 2 x.rnti ++ natLE 4 x.head ++ natLE 4 x.gen
    ++ List.replicate 52 (0 : Byte) ++ x.stamps.flatMap (natLE 4) ++ List.replicate 192 (0 : Byte) ++ x.ptes.flatMap Pte.bytes
    ++ List.replicate 512 (0 : Byte)

def TrackRec.pte (x : TrackRec) (i : Nat) : Pte := x.ptes.getD i Pte.empty
def TrackRec.setPte (x : TrackRec) (i : Nat) (p : Pte) : TrackRec := { x with ptes := x.ptes.set i p }

/-- A cell prefix record. -/
structure PrefixRec where
  gen : Nat
  effective : Nat
  valid : BitVec 64
  ptes : List Pte
deriving DecidableEq, Repr

def prefixRecOf (b : List Byte) : PrefixRec :=
  { gen := bytesNat b 0 4, effective := bytesNat b 4 4, valid := BitVec.ofNat 64 (bytesNat b 8 8)
    ptes := (List.range 64).map fun i => pteOf b (64 + 8 * i) }

def PrefixRec.bytes (x : PrefixRec) : List Byte :=
  natLE 4 x.gen ++ natLE 4 x.effective ++ natLE 8 x.valid.toNat ++ List.replicate 48 (0 : Byte) ++ x.ptes.flatMap Pte.bytes
    ++ List.replicate 448 (0 : Byte)

def Hist.trackAddr (h : Hist) (t : TrackId) : Nat := fld h.trackBase 31 11 * 2048 + 2048 * t.val
def Hist.prefixAddr (h : Hist) (c : CellId) : Nat := fld h.trackBase 31 11 * 2048 + 0x200000 + 1024 * c.val

/-- A record read and written by the walker, each as one access (R201, R234). -/
def State.trackRec (s : State) (t : TrackId) : TrackRec × State :=
  let r := s.agentRead (histSource 0) (s.hist.trackAddr t) 2048
  (trackRecOf r.1, r.2)

def State.putTrack (s : State) (t : TrackId) (x : TrackRec) : State :=
  s.agentWrite (histSource 0) (s.hist.trackAddr t) x.bytes

def State.prefixRec (s : State) (c : CellId) : PrefixRec × State :=
  let r := s.agentRead (histSource 0) (s.hist.prefixAddr c) 1024
  (prefixRecOf r.1, r.2)

def State.putPrefix (s : State) (c : CellId) (x : PrefixRec) : State :=
  s.agentWrite (histSource 0) (s.hist.prefixAddr c) x.bytes

/-- The store as the unit first finds it: no track attached, no prefix, every generation 1 (R201, R225; log entry 19). -/
def State.histInit (s : State) : State :=
  let a := fld s.hist.trackBase 31 11 * 2048
  let s1 : State := match placeOf a (0x200000 + 0x4000) with
    | .plain off =>
      match s.fwRefused (histSource 0) true off (0x200000 + 0x4000) with
      | none => { s with mem := memClear s.mem a (a + 0x200000 + 0x4000) }
      | some bad => s.fwViolation (histSource 0) true off bad
    | _ => s
  let s2 := (List.finRange 16).foldl (fun s c => s.putPrefix c ⟨1, 0, 0, List.replicate 64 Pte.empty⟩) s1
  s2.modHist fun h => { h with init := true, refcnt := [], pin := [] }

/-! ### The look-aside buffer (R220-R222) -/

def labSet (t : TrackId) (p : Fin 128) : Fin 64 := ⟨(t.val + p.val) % 64, Nat.mod_lt _ (by decide)⟩

/-- Entries that p selects are dropped. -/
def Hist.labDrop (h : Hist) (p : LabEntry → Bool) : Hist := { h with lab := vmap (fun l => l.filter fun e => !p e) h.lab }

/-- Entries of a track's pages from lo on below hi are dropped (R221). -/
def Hist.labInval (h : Hist) (t : TrackId) (lo hi : Nat) : Hist :=
  h.labDrop fun e => e.track == t && decide (lo ≤ e.page.val) && decide (e.page.val < hi)

/-- A page of a track translated: from the buffer, or from the record, which fills it (R220). -/
def State.translate (s : State) (t : TrackId) (x : TrackRec) (page : Fin 128) : Option (Nat × Bool) × State :=
  let k := labSet t page
  let l := vget s.hist.lab k
  match l.find? fun e => e.track == t && e.page == page with
  | some e =>
    (some (e.frame, e.sh), (s.modHist fun h => { h with
      lab := vset h.lab k (e :: l.filter fun y => !(y.track == t && y.page == page)) }).devInc .hcLabHit)
  | none =>
    let p := x.pte page.val
    let s1 := s.devInc .hcLabMiss
    if p.v then
      (some (p.frame, p.sh), s1.modHist fun h => { h with lab := vset h.lab k ((⟨t, page, x.cell, p.frame, p.sh⟩ :: l).take 4) })
    else (none, s1)

end Sys2Proof.Machine
end

