-- ==== Sys2Proof/Machine/History.lean ====
section
/-! DEFINITION. The history cache's requests (R203-R224): posting, the walker's order, checks, FETCH, APPEND, ATTACH, DETACH,
CLONE, PREFIX_WRITE and MIGRATE, their data movement and completion, idle tracks and shoot-downs. A request that must wait
leaves the state as it is and is served again later. -/
namespace Sys2Proof.Machine

/-! ### Fields of a request (Table 07-6) -/

structure HistFields where
  op : Nat
  minAge : Nat
  loc : Nat
  flagTop : Nat
  track : TrackId
  trackTop : Nat
  ref : Nat
  addr0 : Nat
  addr1 : Nat
  done : Nat
  first : Nat
  count : Nat
  cell : Nat
  page : Nat
  rnti : Nat
  dest : Nat
  tag : Nat
deriving DecidableEq, Repr

def histOf (b : List Byte) : HistFields :=
  let f (o n : Nat) := bytesNat b o n
  { op := f 0 1, minAge := f 1 1 % 8, loc := bitsOf (f 1 1) 4 3, flagTop := f 1 1 / 32
    track := ⟨f 2 2 % 1024, Nat.mod_lt _ (by decide)⟩, trackTop := f 2 2 / 1024, ref := f 4 4, addr0 := f 8 4, addr1 := f 12 4
    done := f 16 4, first := f 20 1, count := f 21 1, cell := f 22 1, page := f 23 1, rnti := f 24 2, dest := f 26 2
    tag := f 28 2 }

/-- Status codes of Table 07-7. -/
def hDone : Nat := 0
def hBadReq : Nat := 1
def hBadCheck : Nat := 2
def hNoTrack : Nat := 3
def hStale : Nat := 4
def hNoSpace : Nat := 5

/-- The completion record (R205, R234). -/
def State.histDone (s : State) (cls : Fin 3) (f : HistFields) (status result : Nat) : State :=
  s.fabricPut ⟨evtSource 8 f.track.val, cls.val, false⟩ f.done
    (natLE 1 status ++ natLE 1 f.op ++ natLE 2 f.track.val ++ natLE 2 result ++ natLE 2 f.tag)

/-- What any request must hold: its CRC, no reserved bit, aligned addresses, and Hall as its source where only Hall may post it. -/
def histCheck (b : List Byte) (hall : Bool) : Option Nat :=
  let f := histOf b
  if bytesNat b 30 2 ≠ (crc16 (b.take 30)).toNat then some hBadCheck
  else if f.op = 0 ∨ 7 < f.op ∨ f.flagTop ≠ 0 ∨ f.trackTop ≠ 0 ∨ f.done % 16 ≠ 0 ∨ f.addr0 % 16 ≠ 0 ∨ f.addr1 % 16 ≠ 0 ∨
      (hall = false ∧ 2 < f.op) then some hBadReq
  else none

/-- Frames that a request in progress still writes or moves (R206). -/
def Hist.writing (h : Hist) : List Nat :=
  h.active.flatMap fun r => (r.writes.map (·.frame)) ++ r.copies.map (·.2)

/-- A request's data movement begins. -/
def State.histBegin (s : State) (r : HistRun) : State := s.modHist fun h => { h with active := h.active ++ [r] }

/-- An accepted append or prefix write of a cell that this device serves is mirrored to the standby (R366). -/
def State.histShare (s : State) (c : CellId) (bytes : List Byte) : State :=
  if (s.join.pair.any fun p => p.standby.getLsbD c.val) then s else s.mirror (5 :: bytes)

/-- NO_SPACE (R219). -/
def State.histFull (s : State) (cls : Fin 3) (f : HistFields) (wanted : Nat) : State :=
  ((s.devInc .hcNoSpace).raise 0x0702 (evtSource 8 f.track.val)
    (natLE 1 f.op ++ [0] ++ natLE 2 f.track.val ++ natLE 2 f.tag ++ natLE 2 wanted)).histDone cls f hNoSpace 0

/-! ### Rebinding (R218) -/

/-- Prefix entries as a track or cell record holds them: SH where the frame is mapped more than once. -/
def Hist.markShared (h : Hist) (l : List Pte) : List Pte :=
  l.map fun p => if p.v then { p with sh := decide (1 < sget 0 h.refcnt p.frame) } else p

/-- A track bound to the cell's current prefix generation. -/
def State.rebind (s : State) (t : TrackId) (x : TrackRec) : TrackRec × State :=
  let c := x.cell
  let r := s.prefixRec c
  let old := (x.ptes.drop 64).filter (·.v)
  let new := r.1.ptes.filter (·.v)
  let s1 := r.2.modHist fun h =>
    (new.foldl (fun h p => h.refUp p.frame) (old.foldl (fun h p => h.refDown p.frame) h)).labInval t 64 128
  let ptes := s1.hist.markShared r.1.ptes
  let x1 := { x with gen := r.1.gen, ptes := x.ptes.take 64 ++ ptes }
  (x1, (s1.putPrefix c { r.1 with ptes := ptes }).putTrack t x1)

/-- A FETCH or APPEND at or after EFFECTIVE rebinds its track first. -/
def State.rebindAt (s : State) (t : TrackId) (x : TrackRec) (g : HistGeo) (ref : Nat) : TrackRec × State :=
  let r := s.prefixRec x.cell
  if r.1.gen ≠ x.gen ∧ g.reached ref r.1.effective = true then r.2.rebind t x else (x, r.2)

/-! ### FETCH (R207-R209) -/

def page128 (n : Nat) : Fin 128 := ⟨n % 128, Nat.mod_lt _ (by decide)⟩

/-- Context positions before translation: whether valid, and the row groups' page-table indices and bytes. -/
def fetchPlan (g : HistGeo) (x : TrackRec) (valid : BitVec 64) (minAge ref : Nat) : List (Bool × (Nat × Nat) × (Nat × Nat)) :=
  let m := min x.head g.w
  let pre := (List.range g.p).map fun p =>
    let k := g.at_ false p
    let v := g.at_ true p
    (valid.getLsbD p, (64 + k.1, k.2), (96 + v.1, v.2))
  let ring := (List.range m).map fun i =>
    let r := (x.head - m + i) % max 1 g.w
    let st := x.stamps.getD r noStamp
    let a := g.age ref st
    let k := g.at_ false r
    let v := g.at_ true r
    (st != noStamp && decide (minAge ≤ a) && decide (a ≤ g.maxAge), (k.1, k.2), (32 + v.1, v.2))
  pre ++ ring

/-- Each page translated once, with what it maps. -/
def State.translateAll (s : State) (t : TrackId) (x : TrackRec) (pages : List Nat) : List (Nat × Option Nat) × State :=
  pages.foldl (fun (a : List (Nat × Option Nat) × State) p =>
    let r := a.2.translate t x (page128 p)
    (a.1 ++ [(p, r.1.map (·.1))], r.2)) ([], s)

def mapped (m : List (Nat × Option Nat)) (p : Nat) : Option Nat := (m.find? fun e => e.1 == p).bind (·.2)

def State.histFetch (s : State) (cls : Fin 3) (b : List Byte) : Option State :=
  let f := histOf b
  let r := s.trackRec f.track
  if !r.1.attached then some (r.2.histDone cls f hNoTrack 0)
  else
    let g := s.histGeo r.1.cell
    if f.minAge = 0 ∨ f.count = 0 ∨ g.tok < f.first + f.count ∨ g.period ≤ f.ref then some (r.2.histDone cls f hBadReq 0)
    else
      let y := r.2.rebindAt f.track r.1 g f.ref
      let pr := y.2.prefixRec y.1.cell
      let valid := if pr.1.gen = y.1.gen then pr.1.valid else vget pr.2.hist.oldValid y.1.cell
      let plan := fetchPlan g y.1 valid f.minAge f.ref
      let z := pr.2.translateAll f.track y.1 (plan.flatMap fun p => [p.2.1.1, p.2.2.1]).eraseDups
      let frames := (z.1.filterMap (·.2)).eraseDups
      if frames.any fun q => 255 ≤ sget 0 z.2.hist.pin q then none
      else
        let pos := plan.map fun p => match p.1, mapped z.1 p.2.1.1, mapped z.1 p.2.2.1 with
          | true, some k, some v => some (⟨k, p.2.1.2, v, p.2.2.2⟩ : HistPos)
          | _, _, _ => none
        let n := (pos.filter (·.isSome)).length
        let s1 := z.2.modHist fun h => frames.foldl Hist.pinUp h
        some ((s1.devAdd .hcEmptyContext (if n = 0 then f.count else 0)).histBegin
          { cls := cls, bytes := b, waits := [], pins := frames, ctx := pos ++ List.replicate (g.ctx - pos.length) none
            tok := g.tok, lk := g.lk, writes := [], copies := [], result := n * f.count, shot := false })

/-! ### APPEND (R210, R211) -/

/-- A page of a track must be allocated before it is written: it maps nothing, or its frame is shared. -/
def Hist.needsFrame (h : Hist) (p : Pte) : Bool := !p.v || (p.sh && decide (1 < sget 0 h.refcnt p.frame))

/-- A track's page made ready for a write (R210, R216): the frame, whether the write waits for its pins, and the record. -/
def State.ownPage (s : State) (t : TrackId) (x : TrackRec) (page : Nat) (kind : Nat) : Option (Nat × Bool × TrackRec × State) :=
  let r := s.translate t x (page128 page)
  let inval (s : State) := s.modHist fun h => h.labInval t page (page + 1)
  match r.1 with
  | none => (r.2.alloc kind).map fun a => (a.1, false, x.setPte page ⟨true, false, a.1, 0⟩, inval a.2)
  | some (f, true) =>
    if 1 < sget 0 r.2.hist.refcnt f then
      (r.2.alloc kind).map fun a =>
        (a.1, false, x.setPte page ⟨true, false, a.1, 0⟩,
          (inval ((a.2.frameCopy f a.1).modHist fun h => h.refDown f)).devInc .hcCow)
    else
      some (f, decide (sget 0 r.2.hist.pin f ≠ 0), x.setPte page ⟨true, false, f, 0⟩, inval r.2)
  | some (f, false) => some (f, decide (sget 0 r.2.hist.pin f ≠ 0), x, r.2)

/-- The pages whose mapped frame has been replaced by a copy. -/
def copiedPages (old new : List Pte) (pages : List Nat) : List (Nat × Nat) :=
  pages.filterMap fun i =>
    let a := old.getD i Pte.empty
    let b := new.getD i Pte.empty
    if a.v ∧ a.frame ≠ b.frame then some (a.frame, b.frame) else none

/-- Retained entries older than MAX_AGE against REF are retired. -/
def expire (g : HistGeo) (ref : Nat) (l : List Nat) : List Nat :=
  l.map fun st => if st ≠ noStamp ∧ g.maxAge < g.age ref st then noStamp else st

def State.histAppend (s : State) (cls : Fin 3) (b : List Byte) : Option State :=
  let f := histOf b
  let r := s.trackRec f.track
  if !r.1.attached then some (r.2.histDone cls f hNoTrack 0)
  else
    let g := s.histGeo r.1.cell
    if g.period ≤ f.ref then some (r.2.histDone cls f hBadReq 0)
    else
      let y := r.2.rebindAt f.track r.1 g f.ref
      let x := y.1
      let w := max 1 g.w
      let newest := if x.head = 0 then noStamp else x.stamps.getD ((x.head - 1) % w) noStamp
      let same := decide (newest ≠ noStamp) && decide (newest = f.ref)
      if newest ≠ noStamp ∧ g.reached f.ref newest = false then some ((r.2.devInc .hcStale).histDone cls f hStale 0)
      else
        let pos := if same then (x.head - 1) % w else x.head % w
        let k := g.at_ false pos
        let v := g.at_ true pos
        let old := ([x.pte k.1, x.pte (32 + v.1)].filter (·.v)).map (·.frame)
        if old.any fun q => y.2.hist.writing.contains q then none
        else
          let wanted := ([x.pte k.1, x.pte (32 + v.1)].filter y.2.hist.needsFrame).length
          let got := match y.2.ownPage f.track x k.1 1 with
            | none => none
            | some (kf, kw, x1, s1) => (s1.ownPage f.track x1 (32 + v.1) 2).map fun q => (kf, kw, q)
          match got with
          | none => some (r.2.histFull cls f wanted)
          | some (kf, kw, vf, vw, x2, s2) =>
            let x3 := { x2 with
              stamps := (expire g f.ref x2.stamps).set pos f.ref, head := if same then x2.head else x2.head + 1 }
            let waits := (if kw then [kf] else []) ++ (if vw then [vf] else [])
            let s3 := (s2.putTrack f.track x3).modHist fun h => { h with last := vset h.last f.track s.now }
            some ((((s3.devAdd .hcAppendWait waits.length).devAdd .hcAppendReplace (bitNat same)).histShare r.1.cell b).histBegin
              { cls := cls, bytes := b, waits := waits, pins := [], ctx := [], tok := g.tok, lk := g.lk
                writes := [⟨f.addr0, kf, k.2, g.rowGroup false, false⟩, ⟨f.addr1, vf, v.2, g.rowGroup true, true⟩]
                copies := copiedPages x.ptes x2.ptes [k.1, 32 + v.1], result := pos, shot := false })

/-! ### ATTACH, DETACH and CLONE (R196, R217) -/

/-- A track's entries dropped: their frames lose a reference, and the buffer forgets them. -/
def State.dropTrack (s : State) (t : TrackId) (x : TrackRec) : State :=
  (s.modHist fun h => ((x.ptes.filter (·.v)).foldl (fun h p => h.refDown p.frame) h).labInval t 0 128).putTrack t
    { x with attached := false, ptes := List.replicate 128 Pte.empty }

def State.histAttach (s : State) (cls : Fin 3) (b : List Byte) : Option State :=
  let f := histOf b
  let r := s.trackRec f.track
  if h : f.cell < 16 then
    if r.1.attached then some (r.2.histDone cls f hNoTrack 0)
    else
      let x : TrackRec := { attached := true, cell := ⟨f.cell, h⟩, rnti := f.rnti, head := 0, gen := 0
                            stamps := List.replicate 64 noStamp, ptes := List.replicate 128 Pte.empty }
      let y := r.2.rebind f.track x
      some ((y.2.modHist fun h => { h with last := vset h.last f.track s.now }).histDone cls f hDone 0)
  else some (r.2.histDone cls f hBadReq 0)

/-- A track detached, or none where a request still writes one of its frames. -/
def State.detach (s : State) (t : TrackId) (x : TrackRec) : Option State :=
  if x.ptes.any fun p => p.v && s.hist.writing.contains p.frame then none else some (s.dropTrack t x)

def State.histDetach (s : State) (cls : Fin 3) (b : List Byte) : Option State :=
  let f := histOf b
  let r := s.trackRec f.track
  if !r.1.attached then some (r.2.histDone cls f hNoTrack 0)
  else (r.2.detach f.track r.1).map fun s => s.histDone cls f hDone 0

def State.histClone (s : State) (cls : Fin 3) (b : List Byte) : Option State :=
  let f := histOf b
  if h : f.dest < 1024 ∧ f.cell < 16 then
    let d : TrackId := ⟨f.dest, h.1⟩
    let r := s.trackRec f.track
    let q := r.2.trackRec d
    if !r.1.attached || q.1.attached then some (q.2.histDone cls f hNoTrack 0)
    else
      let s1 := q.2.modHist fun h => ((r.1.ptes.filter (·.v)).foldl (fun h p => h.refUp p.frame) h).labInval f.track 0 128
      let ptes := s1.hist.markShared r.1.ptes
      let s2 := (s1.putTrack f.track { r.1 with ptes := ptes }).putTrack d
        { r.1 with cell := ⟨f.cell, h.2⟩, rnti := f.rnti, ptes := ptes }
      some ((s2.modHist fun h => { h with last := vset h.last d (vget h.last f.track) }).histDone cls f hDone 0)
  else some (s.histDone cls f hBadReq 0)

/-! ### PREFIX_WRITE (R218) -/

/-- Every track of the cell bound to an older generation is bound to the current one. -/
def State.rebindCell (s : State) (c : CellId) (gen : Nat) : State :=
  (List.finRange 1024).foldl (fun s t =>
    let r := s.trackRec t
    if r.1.attached ∧ r.1.cell = c ∧ r.1.gen ≠ gen then (r.2.rebind t r.1).2 else s) s

/-- A page of the prefix made ready for the new generation: as it is, copied, or allocated. -/
def State.ownPrefix (s : State) (ptes : List Pte) (i : Nat) : Option (List Pte × State) :=
  let p := ptes.getD i Pte.empty
  let set (f : Nat) : List Pte := ptes.set i ⟨true, false, f, p.gen⟩
  if !p.v then (s.alloc 0).map fun a => (set a.1, a.2)
  else if sget 0 s.hist.refcnt p.frame = 1 ∧ sget 0 s.hist.pin p.frame = 0 then some (ptes, s)
  else (s.alloc 0).map fun a =>
    (set a.1, ((a.2.frameCopy p.frame a.1).modHist fun h => h.refDown p.frame).devInc .hcCow)

def State.ownPrefixes (s : State) (ptes : List Pte) : List Nat → Option (List Pte × State)
  | [] => some (ptes, s)
  | i :: is => match s.ownPrefix ptes i with
    | none => none
    | some (q, s1) => s1.ownPrefixes q is

def State.histPrefix (s : State) (cls : Fin 3) (b : List Byte) : Option State :=
  let f := histOf b
  if h : f.cell < 16 then
    let c : CellId := ⟨f.cell, h⟩
    let g := s.histGeo c
    if f.count = 0 ∨ g.p < f.first + f.count ∨ g.period ≤ f.ref then some (s.histDone cls f hBadReq 0)
    else
      let r0 := s.prefixRec c
      let s0 := r0.2.rebindCell c r0.1.gen
      let r := s0.prefixRec c
      let ps := (List.range f.count).map (f.first + ·)
      let pages := (ps.map fun p => (g.at_ false p).1).eraseDups ++ (ps.map fun p => 32 + (g.at_ true p).1).eraseDups
      let olds := (pages.map fun i => r.1.ptes.getD i Pte.empty).filter (·.v)
      if olds.any fun p => s.hist.writing.contains p.frame then none
      else
        match r.2.ownPrefixes r.1.ptes pages with
        | none =>
          let wanted := pages.length - (olds.filter fun p => sget 0 r.2.hist.refcnt p.frame == 1 && sget 0 r.2.hist.pin p.frame == 0).length
          some (s.histFull cls f wanted)
        | some (ptes, s1) =>
          let gen := (r.1.gen + 1) % 2 ^ 32
          let new := ptes.map fun p => if p.v then { p with gen := gen } else p
          let valid := ps.foldl (fun (v : BitVec 64) p => v ||| ((1 : BitVec 64) <<< p)) r.1.valid
          let s2 := (s1.putPrefix c ⟨gen, f.ref, valid, s1.hist.markShared new⟩).modHist fun h => { h with
            oldValid := vset h.oldValid c r.1.valid }
          let wr := (List.range f.count).flatMap fun i =>
            let k := g.at_ false (f.first + i)
            let v := g.at_ true (f.first + i)
            [(⟨f.addr0 + i * g.rowGroup false, (new.getD k.1 Pte.empty).frame, k.2, g.rowGroup false, false⟩ : HistWrite),
             ⟨f.addr1 + i * g.rowGroup true, (new.getD (32 + v.1) Pte.empty).frame, v.2, g.rowGroup true, false⟩]
          some ((s2.histShare c b).histBegin
            { cls := cls, bytes := b, waits := [], pins := [], ctx := [], tok := g.tok, lk := g.lk, writes := wr
              copies := copiedPages r.1.ptes new pages, result := 0, shot := false })
  else some (s.histDone cls f hBadReq 0)

/-! ### MIGRATE (R224) -/

/-- The page is copied, its entry switched, the buffer told and the old frame freed, all in one step once its pins are 0 (R206). -/
def State.histMigrate (s : State) (cls : Fin 3) (b : List Byte) : Option State :=
  let f := histOf b
  let r := s.trackRec f.track
  if !r.1.attached then some (r.2.histDone cls f hNoTrack 0)
  else
    let p := r.1.pte f.page
    if f.loc = 3 ∨ 128 ≤ f.page ∨ p.v = false ∨ 1 < sget 0 r.2.hist.refcnt p.frame then some (r.2.histDone cls f hBadReq 0)
    else if r.2.hist.writing.contains p.frame ∨ sget 0 r.2.hist.pin p.frame ≠ 0 then none
    else
      let kind := if f.page < 32 then 1 else if f.page < 64 then 2 else 0
      match r.2.allocFrom kind [f.loc] with
      | none => some (r.2.histFull cls f 1)
      | some (q, s1) =>
        let s2 := (s1.frameCopy p.frame q).putTrack f.track (r.1.setPte f.page { p with frame := q, sh := false })
        some ((s2.modHist fun h => (h.refDown p.frame).labInval f.track f.page (f.page + 1)).histBegin
          { cls := cls, bytes := b, waits := [], pins := [], ctx := [], tok := 0, lk := 0, writes := [], copies := [(p.frame, q)]
            result := 0, shot := false })

/-! ### The walker (R203, R206) -/

/-- The ring served next. -/
def Hist.nextRing (h : Hist) (now : Int) : Option (Fin 3) :=
  let late := (vget h.rings 2).head?.any fun r => decide (ns 50000 ≤ now - r.posted)
  if late then some 2
  else if vget h.rings 0 ≠ [] then some 0
  else if vget h.rings 1 ≠ [] then some 1
  else if vget h.rings 2 ≠ [] then some 2
  else none

/-- One request; none where it must wait. -/
def State.histRequest (s : State) (cls : Fin 3) (r : HistReq) : Option State :=
  match histCheck r.bytes r.hall with
  | some e => some (s.histDone cls (histOf r.bytes) e 0)
  | none =>
    match (histOf r.bytes).op with
    | 1 => s.histFetch cls r.bytes
    | 2 => s.histAppend cls r.bytes
    | 3 => s.histAttach cls r.bytes
    | 4 => s.histDetach cls r.bytes
    | 5 => s.histClone cls r.bytes
    | 6 => s.histPrefix cls r.bytes
    | _ => s.histMigrate cls r.bytes

/-- The walker serves its next request, if that has the row's operation (an undefined operation comes under any row). -/
def State.histServe (s : State) (op : Nat) : State :=
  match s.hist.nextRing s.now with
  | none => s
  | some k =>
    match vget s.hist.rings k with
    | [] => s
    | r :: rest =>
      let o := bytesNat r.bytes 0 1
      if o ≠ op ∧ 1 ≤ o ∧ o ≤ 7 then s
      else match s.histRequest k r with
        | none => s
        | some s1 => s1.modHist fun h => { h with rings := vset h.rings k rest }

/-- A row of a request: Hall posts one, or the walker serves the next. -/
def histRow (op : Nat) (p : HcPost) (s : State) : State :=
  match p with
  | .posted cls req => if req.length = 32 ∧ bytesNat req 0 1 = op then s.histPost cls true req else s
  | .served => s.histServe op

def execFetch (p : HcPost) (s : State) : Host.Outcome State Fault Refusal := .next (histRow 1 p s)
def execAppend (p : HcPost) (s : State) : Host.Outcome State Fault Refusal := .next (histRow 2 p s)
def execAttach (p : HcPost) (s : State) : Host.Outcome State Fault Refusal := .next (histRow 3 p s)
def execDetach (p : HcPost) (s : State) : Host.Outcome State Fault Refusal := .next (histRow 4 p s)
def execClone (p : HcPost) (s : State) : Host.Outcome State Fault Refusal := .next (histRow 5 p s)
def execPrefixWrite (p : HcPost) (s : State) : Host.Outcome State Fault Refusal := .next (histRow 6 p s)
def execMigrate (p : HcPost) (s : State) : Host.Outcome State Fault Refusal := .next (histRow 7 p s)

/-! ### PINNED_WRITE_RESUME (R210) -/

/-- Pins of a frame have dropped to 0: the first write that waits for it goes on. -/
def pinnedWriteResumeEffect (frame : Fin 65536) (s : State) : State :=
  if sget 0 s.hist.pin frame.val = 0 then
    match s.hist.active.findIdx? fun r => r.waits.contains frame.val with
    | none => s
    | some i => s.modHist fun h => { h with active := h.active.modify i fun r => { r with waits := r.waits.erase frame.val } }
  else s

def execPinnedWriteResume (frame : Fin 65536) (s : State) : Host.Outcome State Fault Refusal :=
  .next (pinnedWriteResumeEffect frame s)

/-! ### HC_REQUEST_COMPLETE (R205) -/

/-- Lines of one kind of a fetch, by subband and position; zeros where a position is not valid (R209), free values where its frame could
not be read. -/
def State.fetchLines (s : State) (r : HistRun) (value : Bool) (lost : Option Nat) (first count : Nat) : List Byte × State :=
  let len := if value then 128 else r.lk
  ((List.range count).flatMap fun i => r.ctx.map fun p => (i, p)).foldl (fun (a : List Byte × State) e =>
    match e.2 with
    | none => (a.1 ++ List.replicate len 0, a.2)
    | some p =>
      let fr := if value then p.vFrame else p.kFrame
      if lost = some fr then (a.1 ++ a.2.freeBytes len, a.2.drew (ceilDiv len 8))
      else
        let q := a.2.frameRead fr ((if value then p.vOff else p.kOff) + (first + e.1) * len) len
        (a.1 ++ q.1, q.2)) ([], s)

/-- The 16 bytes of a subband's mask. -/
def ctxMask (r : HistRun) : List Byte :=
  natLE 16 ((r.ctx.zipIdx.filter fun p => p.1.isSome).foldl (fun n p => n + 2 ^ p.2) 0)

/-- −0 of BF16 rows replaced by +0 (R210). -/
def cleanZeros : List Byte → List Byte
  | 0x00 :: 0x80 :: bs => 0x00 :: 0x00 :: cleanZeros bs
  | a :: b :: bs => a :: b :: cleanZeros bs
  | bs => bs

/-- A track of a stopped cell that no request writes any more is detached (R196). -/
def State.detachLeaving (s : State) : State :=
  s.hist.leaving.foldl (fun s t =>
    let r := s.trackRec t
    match r.2.detach t r.1 with
    | some s1 => s1.modHist fun h => { h with leaving := h.leaving.filter (· != t) }
    | none => s) s

/-- What a read from DRAM by the unit met (R238): a corrected error is counted. -/
def State.frameEcc (s : State) (f : Nat) : Ecc → State
  | .clean => s
  | .corrected => s.devInc .dramCe
  | .uncorrectable => s.dramUe (s.hist.frameAddr f)

/-- The frames in DRAM that a request reads: those of its context, or those that it copied. -/
def HistRun.dramFrames (r : HistRun) : List Nat :=
  ((r.ctx.filterMap id).flatMap (fun p => [p.kFrame, p.vFrame]) ++ r.copies.map (·.1)).filter fun f => decide (2496 ≤ f)

/-- The copies of a page that could not be read: what they hold instead the spec does not say (free, log entry 5). -/
def State.spoilCopies (s : State) (r : HistRun) (f : Nat) : State :=
  (r.copies.filter fun c => c.1 == f).foldl (fun s c => (s.frameWrite c.2 0 (s.freeBytes 4096)).drew 512) s

/-- The data movement of a request ends: a fetch's context is written and its pins drop; row groups enter the store; and the completion
record is written. Of the data that it read from DRAM the first frame's is in a state: where that cannot be corrected, a fetch delivers free
values for it (R238, log entry 5). -/
def hcRequestCompleteEffect (i : Nat) (ecc : Ecc) (s : State) : State :=
  match s.hist.active[i]? with
  | none => s
  | some r =>
    let f := histOf r.bytes
    let src : Source := ⟨evtSource 8 f.track.val, r.cls.val, false⟩
    let fin (s : State) : State :=
      ((s.modHist fun h => { h with active := h.active.eraseIdx i }).detachLeaving).histDone r.cls f hDone r.result
    let lost := if ecc = .uncorrectable then r.dramFrames.head? else none
    let s0 := match r.dramFrames with
      | q :: _ => s.frameEcc q ecc
      | [] => s
    if r.waits ≠ [] then s
    else if f.op = 1 then
      let k := s0.fetchLines r false lost f.first f.count
      let v := k.2.fetchLines r true lost f.first f.count
      let masks := (List.range f.count).flatMap fun _ => ctxMask r
      let s1 := ((v.2.fabricPut src f.addr0 k.1).fabricPut src f.addr1 v.1).fabricPut src
        (f.addr1 + f.count * r.ctx.length * 128) masks
      fin (s1.modHist fun h => r.pins.foldl Hist.pinDown h)
    else
      let s1 := match lost with
        | some q => s0.spoilCopies r q
        | none => s0
      fin (r.writes.foldl (fun s w =>
        let d := s.fabricGet src w.src w.len
        d.2.frameWrite w.frame w.off (if w.clean then cleanZeros d.1 else d.1)) s1)

def execHcRequestComplete (x : HcMove) (s : State) : Host.Outcome State Fault Refusal := .next (hcRequestCompleteEffect x.request x.ecc s)

/-! ### TRACK_IDLE_DETACH (R196) -/

/-- A track of a cell without an append for HIST_IDLE slots of it is detached by Hall. -/
def trackIdleDetachEffect (t : TrackId) (c : CellId) (s : State) : State :=
  let r := s.trackRec t
  let idle := (s.cell c).get .histIdle * s.slotLen c
  if r.1.attached ∧ r.1.cell = c ∧ s.hist.en ∧ ns (idle : Nat) ≤ s.now - vget s.hist.last t then
    (r.2.detach t r.1).getD s
  else s

def execTrackIdleDetach (t : TrackId) (c : CellId) (s : State) : Host.Outcome State Fault Refusal := .next (trackIdleDetachEffect t c s)

/-! ### HC_LAB_SHOOT and LAB_SHOOT_DONE (R222) -/

/-- The scope of a shoot-down holds a track of a cell; a reserved scope holds none. -/
def inScope (v : Word) (t : Nat) (c : Nat) : Bool :=
  match fld v 5 4 with
  | 0 => true
  | 1 => c == fld v 11 8
  | 2 => t == fld v 25 16
  | _ => false

/-- The entries in scope are dropped, and the fetches that may have used them are waited for; a GO while BUSY is ignored. -/
def hcLabShootEffect (v : Word) (s : State) : State :=
  s.modHist fun h =>
    let h1 := { h with shoot := v &&& 0x03FF0F30 }
    if wbit v 0 ∧ h.busy = false then
      let cellOfRun (r : HistRun) := (s.trackRec (histOf r.bytes).track).1.cell.val
      { (h1.labDrop fun e => inScope v e.track.val e.cell.val) with
        busy := true
        active := h.active.map fun r =>
          if r.pins ≠ [] ∧ inScope v (histOf r.bytes).track.val (cellOfRun r) = true then { r with shot := true } else r }
    else h1

def execHcLabShoot (v : Word) (s : State) : Host.Outcome State Fault Refusal := .next (hcLabShootEffect v s)

/-- BUSY clears once no fetch that translated through a dropped entry holds pins. -/
def labShootDoneEffect (s : State) : State :=
  if s.hist.active.any (·.shot) then s else s.modHist fun h => { h with busy := false }

def execLabShootDone (s : State) : Host.Outcome State Fault Refusal := .next (labShootDoneEffect s)

end Sys2Proof.Machine
end

