-- ==== Sys2Proof/Machine/Matrix.lean ====
section
/-! DEFINITION. The matrix array: modes and formats (Table 02-2), arithmetic to the last bit (R57-R66, R85-R88, R93-R95), checks
(R76), extents (R50), formula time (R73), items (R77, R78) and the scratch region (R72, R487). Log entry 12 names the readings of kc and of
overlapping C and S. -/
namespace Sys2Proof.Machine

/-- The accumulator of a row of Table 02-2. -/
inductive AccKind where
  | int | cplx | fp | block | bit
deriving DecidableEq, Repr

/-- A row of Table 02-2. -/
structure MxRow where
  acc : AccKind
  kt : Nat
  nt : Nat
  kc : Nat
  fcs : List Nat
deriving DecidableEq, Repr

/-- Table 02-2: the combinations the array accepts. kc of SQDIST and L1DIST on CI8 is 1, one entry per complex element: the note under
the table could mean two k positions (R73; DEDUCED, log entry 12). -/
def mxRow (mode fa fb : Nat) : Option MxRow :=
  match mode, fa, fb with
  | 0, 0, 0 => some ⟨.int, 32, 32, 1, [10, 2, 0, 1]⟩
  | 0, 1, 1 => some ⟨.int, 64, 32, 2, [10, 2, 0, 1]⟩
  | 0, 0, 1 => some ⟨.int, 32, 32, 1, [10, 2, 0, 1]⟩
  | 0, 1, 0 => some ⟨.int, 32, 32, 1, [10, 2, 0, 1]⟩
  | 0, 2, 2 => some ⟨.int, 16, 16, 1, [10, 2, 0]⟩
  | 0, 3, 3 => some ⟨.fp, 16, 16, 1, [9, 3, 4]⟩
  | 0, 4, 4 => some ⟨.fp, 16, 16, 1, [9, 3, 4]⟩
  | 0, 7, 7 => some ⟨.block, 32, 32, 1, [9, 3, 4]⟩
  | 0, 7, 8 => some ⟨.block, 32, 32, 1, [9, 3, 4]⟩
  | 0, 8, 7 => some ⟨.block, 32, 32, 1, [9, 3, 4]⟩
  | 0, 8, 8 => some ⟨.block, 64, 32, 2, [9, 3, 4]⟩
  | 0, 5, 5 => some ⟨.cplx, 16, 16, 1, [12, 6, 5]⟩
  | 0, 6, 6 => some ⟨.cplx, 8, 8, 1, [12, 6, 5]⟩
  | 0, 6, 5 => some ⟨.cplx, 8, 8, 1, [12, 6, 5]⟩
  | 0, 5, 6 => some ⟨.cplx, 8, 8, 1, [12, 6, 5]⟩
  | 1, 0, 0 => some ⟨.int, 32, 32, 1, [10, 2, 0]⟩
  | 2, 0, 0 => some ⟨.int, 32, 32, 1, [10, 2, 0]⟩
  | 3, 0, 0 => some ⟨.int, 32, 32, 1, [10, 2]⟩
  | 3, 5, 5 => some ⟨.int, 16, 32, 1, [10, 2]⟩
  | 4, 0, 0 => some ⟨.int, 32, 32, 1, [10, 2]⟩
  | 4, 5, 5 => some ⟨.int, 16, 32, 1, [10, 2]⟩
  | 5, 0, 0 => some ⟨.int, 32, 32, 1, [10, 2]⟩
  | 1, 2, 2 => some ⟨.int, 16, 16, 1, [10, 2, 0]⟩
  | 2, 2, 2 => some ⟨.int, 16, 16, 1, [10, 2, 0]⟩
  | 3, 2, 2 => some ⟨.int, 16, 16, 1, [10, 2]⟩
  | 4, 2, 2 => some ⟨.int, 16, 16, 1, [10, 2]⟩
  | 5, 2, 2 => some ⟨.int, 16, 16, 1, [10, 2]⟩
  | 6, 11, 11 => some ⟨.bit, 256, 32, 8, [11]⟩
  | _, _, _ => none

/-- The format of the accumulator, in which D is read (R488). -/
def AccKind.fmt : AccKind → Nat
  | .int => fmtInt32
  | .cplx => fmtCi32
  | .fp => fmtFp32
  | .block => fmtFp32
  | .bit => fmtBit

/-- The operands have different widths (R61). -/
def mxMixed (d : MxDesc) : Bool :=
  d.mode == 0 && [(0, 1), (1, 0), (7, 8), (8, 7), (6, 5), (5, 6)].contains (d.fa, d.fb)

/-! ### Checks (R76) -/

/-- Check 3 of R76 for a matrix command (R55, R57-R75, R488). -/
def mxFieldsOk (h : Desc) (d : MxDesc) : Bool :=
  match mxRow d.mode d.fa d.fb with
  | none => false
  | some r =>
    let shifts := (d.mode == 0) && (r.acc == .cplx || d.fa == fmtInt16) && !(d.fa == fmtCi8 && d.fb == fmtCi8)
    let narrow := d.fc != r.acc.fmt && (r.acc == .int || r.acc == .cplx)
    r.fcs.contains d.fc
      && d.stationary != 3 && !h.b5top && h.crit != 3 && h.b6top == 0 && h.b7top == 0 && h.b59 == 0 && d.b57top == 0
      && !h.unord && decide (h.launchNs < 1000000000) && decide (h.budget ≤ 200)
      && (d.pshift == 0 || shifts)
      && (!d.conj || (d.mode == 0 && r.acc == .cplx))
      && (if d.mode = 5 then decide (d.cmp ≤ 5) else d.cmp == 0)
      && (!d.ofsEn || ((d.mode == 1 || d.mode == 2) && !d.accInit))
      && (!d.rqEn || (d.mode == 0 && r.acc == .int && (d.fc == fmtInt8 || d.fc == fmtInt4)))
      && (d.oshift == 0 || (narrow && !d.rqEn))

/-- Check 4 of R76: R60 and the pitches. -/
def mxShapeOk (d : MxDesc) (r : MxRow) : Bool :=
  let mn := decide (0 < d.m) && decide (0 < d.n)
  let all := mn && decide (0 < d.k)
  let rowB := if r.acc = .block then rowBytes d.fb d.k else rowBytes d.fb d.n
  (r.acc != .block || d.k % 32 == 0)
    && (!all || (decide (rowBytes d.fa d.k ≤ d.lda) && decide (rowB ≤ d.ldb)))
    && (!mn || decide (outRowBytes d.fc d.n ≤ d.ldc))
    && (!(mn && d.accInit) || decide (outRowBytes r.acc.fmt d.n ≤ d.ldc))

/-- K tiles of the command. -/
def mxKTiles (d : MxDesc) (r : MxRow) : Nat := ceilDiv d.k r.kt

/-- The command uses the region at ADDR_S (R72). -/
def mxUsesS (d : MxDesc) (r : MxRow) : Bool := d.stationary != 2 && decide (1 < mxKTiles d r)

/-- Bytes of a row of the region at ADDR_S (R72). -/
def mxSRow (d : MxDesc) (r : MxRow) : Nat :=
  4 * ceilDiv ((if d.stationary = 0 then r.nt else d.n) * fmtBits r.acc.fmt) 32

/-- The extents of a matrix command: the addresses it uses (R50, R76). -/
def mxExtents (d : MxDesc) (r : MxRow) : Extents :=
  if d.m = 0 ∨ d.n = 0 then ⟨[], []⟩ else
    let a := if d.k = 0 then [] else
      [⟨d.addrA, d.m, d.lda, rowBytes d.fa d.k⟩,
        if r.acc = .block then ⟨d.addrB, d.n, d.ldb, rowBytes d.fb d.k⟩ else ⟨d.addrB, d.k, d.ldb, rowBytes d.fb d.n⟩]
    let dd : List Extent := if d.accInit then [⟨d.addrD, d.m, d.ldc, outRowBytes r.acc.fmt d.n⟩]
      else if d.ofsEn then [⟨d.addrD, 1, 0, 2 * d.n⟩] else []
    let c : List Extent := [⟨d.addrC, d.m, d.ldc, outRowBytes d.fc d.n⟩]
    let ss : List Extent := if mxUsesS d r
      then [⟨d.addrS, 1, 0, (if d.stationary = 0 then d.m else r.nt) * mxSRow d r⟩] else []
    ⟨a ++ dd, c ++ ss⟩

/-- Check 5 of R76: alignment, range and overlap. -/
def mxAddrOk (d : MxDesc) (r : MxRow) : Bool :=
  let e := mxExtents d r
  ((e.reads ++ e.writes).all fun x => x.base % 16 == 0 && decide (x.stop ≤ stallSize))
    && !extentsMeet e.writes e.reads

/-! ### Arithmetic (R57-R65, R88) -/

/-- A running accumulator, with whether it has saturated. -/
inductive Acc where
  | int (v : Int) (sat : Bool)
  | cplx (re im : Int) (sat : Bool)
  | fp (w : Word)
  | bit (b : Bool)
deriving DecidableEq, Repr

/-- An integer element of A (row i, position k) or of B (row k, column j). -/
def mxElem (m : Mem) (fmt base pitch row col : Nat) : Int :=
  signed (fmtBits fmt) (elemRaw m (base + row * pitch) (fmtBits fmt) col)

/-- A complex element as its parts. -/
def mxCplx (m : Mem) (fmt base pitch row col : Nat) : Int × Int :=
  let raw := elemRaw m (base + row * pitch) (fmtBits fmt) col
  let h := fmtBits fmt / 2
  (signed h (raw % 2 ^ h), signed h (raw / 2 ^ h))

/-- An FP16 or BF16 element as FP32. -/
def mxFloat (m : Mem) (fmt base pitch row col : Nat) : Word :=
  fWiden (if fmt = fmtFp16 then fp16 else bf16) (elemRaw m (base + row * pitch) 16 col)

/-- The value the accumulator of element (i, j) starts with: the mode's identity, or D (R57-R62, R64, R65, R488). -/
def accStart (m : Mem) (d : MxDesc) (r : MxRow) (i j : Nat) : Acc :=
  let raw := if d.accInit then elemRaw m (d.addrD + i * d.ldc) (fmtBits r.acc.fmt) j else 0
  match r.acc with
  | .int =>
    if d.accInit then .int (signed 32 raw) false
    else .int (if d.mode = 1 then 2147483647 else if d.mode = 2 then -2147483648 else 0) false
  | .cplx => .cplx (signed 32 (raw % 2 ^ 32)) (signed 32 (raw / 2 ^ 32)) false
  | .fp => .fp (fw raw)
  | .block => .fp (fw raw)
  | .bit => .bit (raw == 1)

/-- sat32 of a sum into an accumulator. -/
def accAdd (v : Int) (sat : Bool) (p : Int) : Acc := .int (sat32 (v + p)) (sat || over32 (v + p))

/-- CMP of R62. -/
def cmpTest (c : Nat) (a b : Int) : Bool :=
  match c with
  | 0 => decide (a < b)
  | 1 => decide (a ≤ b)
  | 2 => decide (a = b)
  | 3 => decide (a ≠ b)
  | 4 => decide (b < a)
  | 5 => decide (b ≤ a)
  | _ => false

/-- The pairs (a, b) of a step k of the integer modes: two for a CI8 element of SQDIST and L1DIST (R55). -/
def mxPairs (m : Mem) (d : MxDesc) (i j k : Nat) : List (Int × Int) :=
  if d.fa = fmtCi8 then
    let x := mxCplx m d.fa d.addrA d.lda i k
    let y := mxCplx m d.fb d.addrB d.ldb k j
    [(x.1, y.1), (x.2, y.2)]
  else [(mxElem m d.fa d.addrA d.lda i k, mxElem m d.fb d.addrB d.ldb k j)]

/-- One pair into an integer accumulator (R57, R62). -/
def intStep (d : MxDesc) (v : Int) (sat : Bool) (a b : Int) : Acc :=
  match d.mode with
  | 0 => accAdd v sat (rnaShift (a * b) d.pshift)
  | 1 => .int (min v (a + b)) sat
  | 2 => .int (max v (a + b)) sat
  | 3 => accAdd v sat ((a - b) * (a - b))
  | 4 => accAdd v sat ((a - b).natAbs : Int)
  | _ => accAdd v sat (bitNat (cmpTest d.cmp a b) : Int)

/-- Step k of element (i, j). kc = 2 of INT4 sums a pair exactly (R57). -/
def mxStep (m : Mem) (d : MxDesc) (i j : Nat) (acc : Acc) (k : Nat) : Acc :=
  match acc with
  | .int v sat =>
    if d.fa = fmtInt4 ∧ d.fb = fmtInt4 then
      if k % 2 = 0 then
        let p (k : Nat) := mxElem m d.fa d.addrA d.lda i k * mxElem m d.fb d.addrB d.ldb k j
        accAdd v sat (p k + if k + 1 < d.k then p (k + 1) else 0)
      else acc
    else (mxPairs m d i j k).foldl (fun a p => match a with | .int v s => intStep d v s p.1 p.2 | x => x) acc
  | .cplx re im sat =>
    let x := mxCplx m d.fa d.addrA d.lda i k
    let y := mxCplx m d.fb d.addrB d.ldb k j
    let ai := if d.conj then -x.2 else x.2
    let pr := rnaShift (x.1 * y.1 - ai * y.2) d.pshift
    let pi := rnaShift (x.1 * y.2 + ai * y.1) d.pshift
    .cplx (sat32 (re + sat32 pr)) (sat32 (im + sat32 pi))
      (sat || over32 pr || over32 pi || over32 (re + sat32 pr) || over32 (im + sat32 pi))
  | .fp w =>
    .fp (fadd w (fmul (mxFloat m d.fa d.addrA d.lda i k) (mxFloat m d.fb d.addrB d.ldb k j)))
  | .bit b =>
    .bit (b != ((elemRaw m (d.addrA + i * d.lda) 1 k == 1) && (elemRaw m (d.addrB + k * d.ldb) 1 j == 1)))

/-- A block of 32 steps of the block-scaled formats (R60, R88); a block with an invalid scale contributes +0 (R85). -/
def mxBlock (m : Mem) (d : MxDesc) (i j : Nat) (acc : Acc) (b : Nat) : Acc :=
  match acc with
  | .fp w =>
    let la := d.addrA + i * d.lda
    let lb := d.addrB + j * d.ldb
    let sab := fmul (fw (memNat m la 4)) (fw (memNat m lb 4))
    let s := (List.range 32).foldl (fun s t => s + bsElem m d.fa la (32 * b + t) * bsElem m d.fb lb (32 * b + t)) 0
    let p := dyMul (sb8 (memByte m (la + bsScaleOffset d.fa b))) (sb8 (memByte m (lb + bsScaleOffset d.fb b)))
    let w1 := fmul sab (fw (fp32.ofDyadic false p.1 p.2))
    let bad := sb8Bad (memByte m (la + bsScaleOffset d.fa b)) || sb8Bad (memByte m (lb + bsScaleOffset d.fb b))
    .fp (fadd w (if bad then 0 else fmul (intToF s) w1))
  | x => x

/-- Element (i, j) accumulated over the first kEnd steps, in ascending k. -/
def mxAcc (m : Mem) (d : MxDesc) (r : MxRow) (i j kEnd : Nat) : Acc :=
  if r.acc = .block then (List.range (kEnd / 32)).foldl (mxBlock m d i j) (accStart m d r i j)
  else (List.range kEnd).foldl (mxStep m d i j) (accStart m d r i j)

/-- The offset of R63 after the last k. -/
def mxOffset (m : Mem) (d : MxDesc) (j : Nat) (a : Acc) : Acc :=
  if d.ofsEn then
    match a with
    | .int v sat => accAdd v sat (signed 16 (memNat m (d.addrD + 2 * j) 2))
    | x => x
  else a

/-- Requantisation by an 8-byte entry (R94, R95): the value before saturation. -/
def requant (entry : List Byte) (acc : Int) : Int :=
  rnaShift (acc * signed 32 (bytesNat entry 0 4)) (bytesNat entry 4 1 % 64) + signed 8 (bytesNat entry 5 1)

/-- v saturated to n bits, with whether it did. -/
def satBits (n : Nat) (v : Int) : Int × Bool :=
  let w := clampInt (-(2 ^ (n - 1) : Nat)) ((2 ^ (n - 1) : Nat) - 1) v
  (w, decide (w ≠ v))

/-- The raw bits of a signed value of n bits. -/
def rawInt (n : Nat) (v : Int) : Nat := (v % ((2 ^ n : Nat) : Int)).toNat

/-- The drain of R66: raw bits of the output element, and whether the element saturated anywhere (R68). -/
def mxDrain (rq : Mem) (d : MxDesc) (bank : Bool) (j : Nat) (a : Acc) : Nat × Bool :=
  match a with
  | .int v sat =>
    if d.fc = fmtInt32 then (rawInt 32 v, sat)
    else
      let w := if d.rqEn
        then requant (memRead rq (bitNat bank * 0x4000 + 8 * ((128 * d.rqTable + j) % 2048)) 8) v
        else rnaShift v d.oshift
      let c := satBits (fmtBits d.fc) w
      (rawInt (fmtBits d.fc) c.1, sat || c.2)
  | .cplx re im sat =>
    let h := fmtBits d.fc / 2
    if d.fc = fmtCi32 then (rawInt 32 re + 2 ^ 32 * rawInt 32 im, sat)
    else
      let x := satBits h (rnaShift re d.oshift)
      let y := satBits h (rnaShift im d.oshift)
      (rawInt h x.1 + 2 ^ h * rawInt h y.1, sat || x.2 || y.2)
  | .fp w => (if d.fc = fmtFp32 then w.toNat else fNarrow (if d.fc = fmtFp16 then fp16 else bf16) w, false)
  | .bit b => (bitNat b, false)

/-- The raw bits of an accumulator in its own format, as the region at ADDR_S holds it (R72). -/
def accRaw : Acc → Nat
  | .int v _ => rawInt 32 v
  | .cplx re im _ => rawInt 32 re + 2 ^ 32 * rawInt 32 im
  | .fp w => w.toNat
  | .bit b => bitNat b

/-- What the drain makes of an element accumulated over the first kEnd steps: raw bits and whether it saturated. -/
def mxOutAt (m rq : Mem) (d : MxDesc) (r : MxRow) (bank : Bool) (i j kEnd : Nat) : Nat × Bool :=
  mxDrain rq d bank j (mxOffset m d j (mxAcc m d r i j kEnd))

/-- An output element of C. -/
def mxOut (m rq : Mem) (d : MxDesc) (r : MxRow) (bank : Bool) (i j : Nat) : Nat × Bool := mxOutAt m rq d r bank i j d.k

/-! ### Writing results -/

/-- Element i of a row of raw elements written at a. -/
def rawWrite (m : Mem) (a bits i v : Nat) : Mem :=
  if bits < 8 then
    let p := a + i * bits / 8
    let sh := i * bits % 8
    let old := (memByte m p).toNat
    memPut m p (BitVec.ofNat 8 (old - bitsOf old (sh + bits - 1) sh * 2 ^ sh + v % 2 ^ bits * 2 ^ sh))
  else memWrite m (a + i * bits / 8) (natLE (bits / 8) v)

/-- The bytes of row i of C. -/
def mxRowBytes (m rq : Mem) (d : MxDesc) (r : MxRow) (bank : Bool) (i : Nat) : List Byte :=
  let bs := packBits (fmtBits d.fc) ((List.range d.n).map fun j => (mxOut m rq d r bank i j).1)
  bs ++ List.replicate (outRowBytes d.fc d.n - bs.length) 0

/-- Output elements of row i that saturated. -/
def mxRowSat (m rq : Mem) (d : MxDesc) (r : MxRow) (bank : Bool) (i : Nat) : Nat :=
  ((List.range d.n).filter fun j => (mxOut m rq d r bank i j).2).length

/-- The memory after rows first to first + count − 1 of C were written; m0 is the stall's view of memory that the command
reads (its operands lie apart from C and S by R76). -/
def mxWriteRows (m0 rq : Mem) (d : MxDesc) (r : MxRow) (bank : Bool) (base : Nat) (rows : List Nat) (m : Mem) : Mem :=
  rows.foldl (fun m i => memWrite m (base + d.addrC + i * d.ldc) (mxRowBytes m0 rq d r bank i)) m

/-- Positions of the region at ADDR_S that an item's passes write, in order: (row of A, column of B, row of the region,
position) (R72, R487). -/
def mxScratch (d : MxDesc) (r : MxRow) (it : Item) : List (Nat × Nat × Nat × Nat) :=
  if !mxUsesS d r then []
  else if d.stationary = 0 then
    (List.range (ceilDiv d.n r.nt)).flatMap fun t =>
      (List.range it.count).flatMap fun i =>
        (List.range (min r.nt (d.n - t * r.nt))).map fun c => (it.first + i, t * r.nt + c, it.first + i, c)
  else
    (List.range (ceilDiv it.count r.nt)).flatMap fun t =>
      (List.range (min r.nt (it.count - t * r.nt))).flatMap fun i =>
        (List.range d.n).map fun j => (it.first + t * r.nt + i, j, i, j)

/-- The memory after an item's partial sums were written to ADDR_S: position p holds the sum after tiles p K tiles of its last
pass (R487); a position with 0 keeps what it held. -/
def mxWriteScratch (m0 : Mem) (d : MxDesc) (r : MxRow) (base : Nat) (it : Item) (tiles : Nat → Nat) (m : Mem) : Mem :=
  ((mxScratch d r it).zipIdx).foldl (fun m p =>
    if tiles p.2 = 0 then m
    else
      rawWrite m (base + d.addrS + p.1.2.2.1 * mxSRow d r) (fmtBits r.acc.fmt) p.1.2.2.2
        (accRaw (mxAcc m0 d r p.1.1 p.1.2.1 (tiles p.2 * r.kt)))) m

/-- A stall's memory as its engines address it: stall-local addresses. -/
def stallView (m : Mem) (n : StallId) : Mem :=
  (m.filter fun c => decide (stallBase n ≤ c.1) && decide (c.1 < stallBase n + stallSize)).map
    fun c => (c.1 - stallBase n, c.2)

/-- Invalid block scales of the lines a command feeds, each once (R85): the given rows of A, and every column of B. -/
def mxBadScales (m : Mem) (d : MxDesc) (r : MxRow) (rows : List Nat) : Nat :=
  if r.acc = .block ∧ 0 < d.k ∧ 0 < d.n ∧ rows ≠ [] then
    let bad (fmt a : Nat) := ((List.range (d.k / 32)).filter fun b => sb8Bad (memByte m (a + bsScaleOffset fmt b))).length
    (rows.eraseDups.map fun i => bad d.fa (d.addrA + i * d.lda)).sum
      + ((List.range d.n).map fun j => bad d.fb (d.addrB + j * d.ldb)).sum
  else 0

/-! ### Formula time (R73) -/

/-- Entries and whether it reads partial sums, of each pass of one item (Table 02-4). -/
def mxPasses (d : MxDesc) (r : MxRow) (rows : Nat) : List (Nat × Bool) :=
  if rows = 0 ∨ d.n = 0 then []
  else if d.k = 0 then List.replicate (ceilDiv rows r.nt * ceilDiv d.n r.nt) (0, false)
  else if d.stationary = 2 then
    List.replicate (ceilDiv rows r.nt * ceilDiv d.n r.nt) (ceilDiv d.k r.kc, false)
  else
    let outer := if d.stationary = 0 then ceilDiv d.n r.nt else ceilDiv rows r.nt
    let e := if d.stationary = 0 then rows else d.n
    (List.range outer).flatMap fun _ => (List.range (mxKTiles d r)).map fun k => (e, decide (0 < k))

/-- A pass of a sequence: its entries, whether it reads partial sums back, and the ac before which no later pass starts (the t_x of
a budget stop; R73). -/
abbrev MxPass := Nat × Bool × Nat

/-- A pass that has started: start, entries, and that bound. -/
abbrev MxStarted := Nat × Nat × Nat

/-- Start of a pass after the one before it (Table 02-4). -/
def mxStart (first : Nat) (prev : Option MxStarted) (reads : Bool) : Nat :=
  match prev with
  | none => first
  | some p =>
    let s := max (p.1 + max p.2.1 32) p.2.2
    if reads then max s (p.1 + 65) else s

/-- The last pass of a sequence, as it started. -/
def mxRun (first : Nat) (prev : Option MxStarted) (l : List MxPass) : Option MxStarted :=
  l.foldl (fun p x => some (mxStart first p x.2.1, x.1, x.2.2)) prev

/-- ac before the first pass starts, and from the end of the last pass's entries to the end (Table 02-4). -/
def mxEnds (d : MxDesc) : Nat × Nat := if d.stationary = 2 ∨ d.k = 0 then (64, 32) else (32, 64)

/-- T of R73 over a sequence of passes. -/
def mxTime (d : MxDesc) (l : List MxPass) : Nat :=
  match mxRun (mxEnds d).1 none l with
  | some p => p.1 + p.2.1 + (mxEnds d).2
  | none => 0

/-- The passes of an item that runs whole. -/
def mxWhole (d : MxDesc) (r : MxRow) (rows : Nat) : List MxPass := (mxPasses d r rows).map fun p => (p.1, p.2, 0)

/-- T of R73 over the item row counts given. -/
def mxFormulaTime (d : MxDesc) (r : MxRow) (rows : List Nat) : Nat := mxTime d (rows.flatMap (mxWhole d r))

/-- The passes of an item that its budget stopped after so many whole passes and entries of the next, at ac tx of the run. -/
def mxCut (d : MxDesc) (r : MxRow) (rows passes fed tx : Nat) : List MxPass :=
  let l := mxPasses d r rows
  (l.take passes).map (fun p => (p.1, p.2, 0)) ++
    match l[passes]? with
    | some p => [(min fed p.1, p.2, tx)]
    | none => []

/-- ROWS_DONE of an item of `rows` rows after so many whole passes and entries of the next: its leading rows whose outputs are final
(R72, R78). -/
def mxRowsDone (d : MxDesc) (r : MxRow) (rows passes fed : Nat) : Nat :=
  let ntiles := ceilDiv d.n r.nt
  if d.k = 0 ∨ d.stationary = 2 then min rows (r.nt * (passes / max 1 ntiles))
  else if d.stationary = 0 then
    let all := mxKTiles d r * ntiles
    if all ≤ passes then rows else if passes + 1 = all then min rows fed else 0
  else min rows (r.nt * (passes / max 1 (mxKTiles d r)))

end Sys2Proof.Machine
end

