-- ==== Sys2Proof/Machine/Start.lean ====
section
/-! DEFINITION. The start of a stall command: its checks in order (R76, R106, R147, R241, R254), the hold of an overlapping
extent (R50), the item list as it stands (R77), and the engine at the command's beginning (R49). -/
namespace Sys2Proof.Machine

/-! ### Checks -/

/-- The device's determinism class (R372). -/
def deviceClass : Nat := if Config.steppingB0 then 2 else 1

/-- A test that gives an outcome where it fails. -/
def failWith (ok : Bool) (o : Byte) (rest : Option Byte) : Option Byte := if ok then rest else some o

/-- Checks 1 and 2 of R76, and then the rest. -/
def commonChecks (b : List Byte) (rest : Option Byte) : Option Byte :=
  let d := descOf b
  failWith (checkOk b) oBadCheck (failWith (d.dclass == 0 || d.dclass == deviceClass) oClassMismatch rest)

/-- Every byte from offset o up to e is 0. -/
def zeroBytes (b : List Byte) (o e : Nat) : Bool := (List.range (e - o)).all fun i => b.getD (o + i) 0 == 0

/-- The shared fields that every class but the matrix command's reserves (R105, R146, R241, R254), and those that every class
reserves (Table 02-7). CRIT equals the CLASS of the command's queue (R262). -/
def sharedFieldsOk (d : Desc) (cls : Nat) : Bool :=
  d.b1 == 0 && d.b2 == 0 && d.b3 == 0 && !d.rqEn && !d.ofsEn && !d.b5top && d.b6top == 0 && d.b7top == 0 && d.b59 == 0
    && d.crit == cls && d.crit != 3 && decide (d.launchNs < 1000000000) && decide (d.budget ≤ 200)

/-- Checks of a matrix command; a reserved OPCLASS fails check 3 (R75). -/
def mxRefusal (b : List Byte) (cls : Nat) : Option Byte :=
  let h := descOf b
  let d := mxOf b
  commonChecks b <| match mxRow d.mode d.fa d.fb with
    | none => some oBadFields
    | some r =>
      failWith (h.opclass == 0 && mxFieldsOk h d && h.crit == cls) oBadFields <|
        failWith (mxShapeOk d r) oBadShape <| failWith (mxAddrOk d r) oBadAddr none

/-- A range [lo, hi) of 16-byte aligned ends in [from, 180000h]. -/
def rangeOk (lo0 lo hi : Nat) : Bool :=
  lo % 16 == 0 && hi % 16 == 0 && decide (lo0 ≤ lo) && decide (lo ≤ hi) && decide (hi ≤ stallSize)

/-- The read extents of a program command, its program of `size` bytes an instruction among them, and its write extent. -/
def progExtents (p : ProgDesc) (size : Nat) : Extents :=
  ⟨[rangeExtent p.rdBase p.rdEnd, rangeExtent p.prog (p.prog + size * p.len)], [rangeExtent p.wrBase p.wrEnd]⟩

/-- Check 5 of R106 and R147, over addresses from lo0 on. -/
def progAddrOk (p : ProgDesc) (size lo0 : Nat) : Bool :=
  let e := progExtents p size
  p.prog % 16 == 0 && decide (lo0 ≤ p.prog) && decide (p.prog + size * p.len ≤ stallSize)
    && rangeOk lo0 p.rdBase p.rdEnd && rangeOk lo0 p.wrBase p.wrEnd && !extentsMeet e.writes e.reads

/-- Checks of a vector command (R105, R106). -/
def vecRefusal (b : List Byte) (cls : Nat) : Option Byte :=
  let d := descOf b
  let p := progOf b
  commonChecks b <|
    failWith (sharedFieldsOk d cls && zeroBytes b 26 28 && zeroBytes b 52 58 && decide (1 ≤ p.len) && decide (p.len ≤ 4096)
      && (!d.unord || p.items != 0)) oBadFields <|
      failWith (progAddrOk p 8 0) oBadAddr none

/-- Checks of a sequencer command (R146, R147). An IRQ_VEC beyond the program is a breach of check 3 (log entry 12). -/
def seqRefusal (b : List Byte) (cls : Nat) : Option Byte :=
  let d := descOf b
  let p := progOf b
  commonChecks b <|
    failWith (sharedFieldsOk d cls && zeroBytes b 50 52 && bytesNat b 52 1 / 8 == 0 && zeroBytes b 53 54
      && decide (1 ≤ p.len) && decide (p.len ≤ 16384) && (!d.unord || p.items != 0)
      && (!p.irqEn || decide (p.irqVec < p.len))) oBadFields <|
      failWith (progAddrOk p 4 0x150000 &&
        (p.saveAddr == 0 || (decide (p.wrBase ≤ p.saveAddr) && decide (p.saveAddr + 256 ≤ p.wrEnd)))) oBadAddr none

/-- A descriptor of a chain may lie there (R241): 32-byte aligned, in Plain or in a stall's memory window. -/
def chainAddrOk (a : Nat) : Bool :=
  a % 32 == 0 && match placeOf a 32 with
    | .plain _ => true
    | .stallMem _ _ => true
    | _ => false

/-- CHAIN, LOCAL_BASE and LOCAL_END of a chain-start command (Table 08-2). -/
def chainOf (b : List Byte) : Nat × Nat × Nat := (bytesNat b 20 4, bytesNat b 28 4, bytesNat b 32 4)

/-- Checks of a chain-start command (R241). -/
def chainRefusal (b : List Byte) (cls : Nat) : Option Byte :=
  let d := descOf b
  let c := chainOf b
  commonChecks b <|
    failWith (sharedFieldsOk d cls && !d.digest && !d.unord && bytesNat b 24 1 / 8 == 0 && zeroBytes b 25 28
      && zeroBytes b 36 58) oBadFields <|
      failWith (chainAddrOk c.1 && rangeOk 0 c.2.1 c.2.2) oBadAddr none

/-- Checks of a Pass wait, whose Pass must be enabled (R254). -/
def waitRefusal (b : List Byte) (cls : Nat) (en : Bool) : Option Byte :=
  let d := descOf b
  commonChecks b <|
    failWith (sharedFieldsOk d cls && !d.digest && !d.unord && d.budget == 0 && zeroBytes b 24 58 && en) oBadFields none

/-! ### Extents of what runs (R50) -/

/-- The extents of the command that an engine runs; a chain may touch its whole LOCAL range. -/
def runningExtents (e : Engine) (r : Running) : Extents :=
  match e with
  | .matrix =>
    let d := mxOf r.desc
    if bytesNat r.desc 0 1 = 4 then ⟨[], []⟩
    else match mxRow d.mode d.fa d.fb with
      | some w => mxExtents d w
      | none => ⟨[], []⟩
  | .vector => progExtents (progOf r.desc) 8
  | .sequencer => progExtents (progOf r.desc) 4
  | .dma _ => let c := chainOf r.desc; ⟨[rangeExtent c.2.1 c.2.2], [rangeExtent c.2.1 c.2.2]⟩

/-- A command on another engine of the stall still runs and may touch a byte that this one writes, or the reverse (R50). -/
def Stall.holds50 (x : Stall) (e : Engine) (w : Extents) : Bool :=
  engines.any fun g => decide (g ≠ e) &&
    match x.running g with
    | some r => r.outcome.isNone && w.conflict (runningExtents g r)
    | none => false

/-! ### Item lists (R77) -/

/-- A read of n bytes of Plain by a command of a stall; what lies outside Plain reads as zeros. -/
def State.plainItems (s : State) (n : StallId) (cls a len : Nat) : List Byte × State :=
  match placeOf a len with
  | .plain off => let r := s.plainRead (Source.stall n cls) off len; (r.1, r.2.2)
  | _ => (List.replicate len 0, s)

/-- The item list at an address; none for address 0. -/
def State.readItems (s : State) (n : StallId) (cls a : Nat) : Option (List Item) × State :=
  if a = 0 then (none, s)
  else
    let c := s.plainItems n cls a 4
    let count := leNat c.1
    let r := c.2.plainItems n cls (a + 4) (8 * count)
    (some (itemsOf count r.1), r.2)

/-- The items of a matrix command; without a list, all its rows (R77, R78). -/
def mxItems (d : MxDesc) (items : Option (List Item)) : List Item := items.getD [⟨0, d.m, 0⟩]

/-- Outcome and ROWS_DONE of an item that ends without running (R77). -/
def mxTrivial (d : MxDesc) (it : Item) : Option (Byte × Nat) :=
  if it.count = 0 then some (oDone, 0)
  else if d.m < it.first + it.count then some (oBadShape, 0)
  else if d.n = 0 then some (oDone, it.count)
  else none

/-! ### Starting -/

/-- What an engine knows of a command as it starts. -/
def newRunning (now : Int) (q : QueueId) (e : QEntry) (items : Option (List Item)) (results : List (Option (Byte × Nat)))
    (outcome : Option Byte) : Running :=
  { q := q, idx := e.idx, desc := e.bytes.take 64, start := now, items := items, item := none, itemStart := now, cuts := []
    results := results, tdc := false, outcome := outcome, itemLog := [], digestLog := [] }

/-- The first item that has not ended, unless items run as their gates are met (R107, R376); it starts now. -/
def Running.nextItem (r : Running) (now : Int) : Running :=
  let k := r.results.findIdx? (·.isNone)
  { r with item := if (descOf r.desc).unord then none else k, itemStart := now, itemLog := [] }

/-- The run of an entry starts: where R50 held it, later than its dispatch (R280). -/
def State.started (s : State) (q : QueueId) (i : Fin 4096) : State := s.modEntry q i fun e => { e with start := s.now }

/-- A refusal is counted and reported (R76). -/
def State.refuse (s : State) (n : StallId) (c : StallCtr) (q : QueueId) (b : List Byte) (o : Byte) : State :=
  let d := descOf b
  (s.stallAdd n c 1).raise 0x0301 (evtSource 1 n.val)
    ([BitVec.ofNat 8 n.val, BitVec.ofNat 8 d.opclass, o, BitVec.ofNat 8 q.val] ++ natLE 2 d.tag)

def State.setMatrix (s : State) (n : StallId) (m : Matrix) : State := s.modStall n fun x => { x with matrix := m }
def State.setVec (s : State) (n : StallId) (v : VecEngine) : State := s.modStall n fun x => { x with vec := v }
def State.setSeq (s : State) (n : StallId) (v : SeqEngine) : State := s.modStall n fun x => { x with seq := v }

/-- The entry that an engine of stall n is reserved for. -/
def State.reservedEntry (s : State) (n : StallId) (e : Engine) : Option (QueueId × QEntry) :=
  match (s.stall n).reservedFor e with
  | some (q, i) => (s.entry q i).map fun x => (q, x)
  | none => none

/-! ### MATRIX_COMMAND (R76) -/

/-- The command reserved for the array is checked; it is refused, held, or starts. -/
def matrixCommandEffect (n : StallId) (s : State) : State :=
  match s.reservedEntry n .matrix with
  | none => s
  | some (q, e) =>
    let cls := (s.queue q).cls
    let x := (s.stall n).rqSwapEffect
    let d := mxOf e.bytes
    if e.desc.opclass = 4 then s
    else match mxRefusal e.bytes cls, mxRow d.mode d.fa d.fb with
      | some o, _ => (s.setMatrix n (.running (newRunning s.now q e none [] (some o)) x.rqActive)).refuse n .mxRefused q e.bytes o
      | none, none => s
      | none, some w =>
        if x.holds50 .matrix (mxExtents d w) then s
        else
          let r := s.readItems n cls d.items
          ((r.2.modStall n Stall.rqSwapEffect).setMatrix n
            (.running (newRunning s.now q e r.1 ((mxItems d r.1).map (mxTrivial d)) none) x.rqActive)).started q e.idx

def execMatrixCommand (n : StallId) (s : State) : Host.Outcome State Fault Refusal := .next (matrixCommandEffect n s)

/-! ### VECTOR_COMMAND (R106) -/

/-- Results not yet known for the items of a program command; one run without a list. -/
def progResults (items : Option (List Item)) : List (Option (Byte × Nat)) :=
  match items with
  | some l => l.map fun _ => none
  | none => [none]

def vectorCommandEffect (n : StallId) (s : State) : State :=
  match s.reservedEntry n .vector with
  | none => s
  | some (q, e) =>
    let cls := (s.queue q).cls
    let x := (s.stall n).sfSwapEffect
    let p := progOf e.bytes
    let v := VecRegs.clear x.sfActive x.vecFlush
    match vecRefusal e.bytes cls with
    | some o => (s.setVec n (.running (newRunning s.now q e none [] (some o)) v)).refuse n .vecRefused q e.bytes o
    | none =>
      if x.holds50 .vector (progExtents p 8) then s
      else
        let i := s.readItems n cls p.items
        let r := (newRunning s.now q e i.1 (progResults i.1) none).nextItem s.now
        ((i.2.modStall n Stall.sfSwapEffect).setVec n (.running r (v.load p r.curItem))).started q e.idx

def execVectorCommand (n : StallId) (s : State) : Host.Outcome State Fault Refusal := .next (vectorCommandEffect n s)

/-! ### SEQUENCER_COMMAND (R147) -/

/-- The sequencer's registers as a command starts. -/
def seqStart (p : ProgDesc) : SeqRegs :=
  { SeqRegs.clear with sqst := if p.resume then 0x20 else 0, savep := BitVec.ofNat 32 p.saveAddr }

def sequencerCommandEffect (n : StallId) (s : State) : State :=
  match s.reservedEntry n .sequencer with
  | none => s
  | some (q, e) =>
    let cls := (s.queue q).cls
    let x := s.stall n
    let p := progOf e.bytes
    match seqRefusal e.bytes cls with
    | some o => (s.setSeq n (.running (newRunning s.now q e none [] (some o)) (seqStart p))).refuse n .seqRefused q e.bytes o
    | none =>
      if x.holds50 .sequencer (progExtents p 4) then s
      else
        let i := s.readItems n cls p.items
        let r := (newRunning s.now q e i.1 (progResults i.1) none).nextItem s.now
        (i.2.setSeq n (.running r ((seqStart p).load p r.curItem))).started q e.idx

def execSequencerCommand (n : StallId) (s : State) : Host.Outcome State Fault Refusal := .next (sequencerCommandEffect n s)

/-! ### CHAIN_START_COMMAND (R241, R242) -/

/-- A chain at its first descriptor. -/
def newChain (o : ChainOrigin) (cls addr lo hi : Nat) (now : Int) : Chain :=
  { origin := o, cls := cls, localBase := lo, localEnd := hi, cur := [], next := addr, fetched := [], phase := .ready
    expired := false, started := now }

/-- A checked chain-start command starts on its stream, if that is free, or waits for it. -/
def State.startQueued (s : State) (n : StallId) (t : StreamId) : State :=
  let y := vget (s.stall n).streams t
  match y.chain, y.queued with
  | none, some r =>
    if r.outcome.isSome ∨ y.shadow.isSome = true ∨ (s.stall n).holds50 (.dma t) (runningExtents (.dma t) r) then s
    else
      let c := chainOf r.desc
      (s.modStream n t fun y => { y with
        queued := none
        chain := some (newChain (.command { r with start := s.now }) (descOf r.desc).crit c.1 c.2.1 c.2.2 s.now) }).started r.q r.idx
  | _, _ => s

def chainStartCommandEffect (n : StallId) (t : StreamId) (s : State) : State :=
  let y := vget (s.stall n).streams t
  match y.reserved with
  | none => s.startQueued n t
  | some (q, i) =>
    match s.entry q i with
    | none => s
    | some e =>
      match chainRefusal e.bytes (s.queue q).cls with
      | some o =>
        (s.modStream n t fun y => { y with reserved := none, queued := some (newRunning s.now q e none [] (some o)) }).refuse n
          .mxRefused q e.bytes o
      | none =>
        (s.modStream n t fun y => { y with reserved := none, queued := some (newRunning s.now q e none [] none) }).startQueued n t

def execChainStartCommand (n : StallId) (t : StreamId) (s : State) : Host.Outcome State Fault Refusal :=
  .next (chainStartCommandEffect n t s)

/-! ### PASS_WAIT_COMMAND (R254) -/

/-- A Pass wait makes its arrival and waits: for the release of the generation its arrival counts in, or for the next. -/
def passWaitCommandEffect (n : StallId) (s : State) : State :=
  match s.reservedEntry n .matrix with
  | none => s
  | some (q, e) =>
    let d := e.desc
    let p := passOf d.passId
    if d.opclass ≠ 4 then s
    else match waitRefusal e.bytes (s.queue q).cls (s.pass p).en with
      | some o => (s.setMatrix n (.passWait (newRunning s.now q e none [] (some o)) p 0 none)).refuse n .mxRefused q e.bytes o
      | none =>
        let gen := if d.passArrive then (s.pass p).arrivalGen else (s.pass p).nextRelease
        let w := bytesNat e.bytes 20 4
        let s1 := (s.setMatrix n (.passWait (newRunning s.now q e none [] none) p gen
          (if w = 0 then none else some (s.now + ns w)))).started q e.idx
        if d.passArrive then s1.arrive p (some n) else s1

def execPassWaitCommand (n : StallId) (s : State) : Host.Outcome State Fault Refusal := .next (passWaitCommandEffect n s)

end Sys2Proof.Machine
end

