-- ==== Sys2Proof/Machine/Finish.lean ====
section
/-! DEFINITION. How stall commands end: matrix results (R57-R78), digests (R378), item results (R281), completion (R280), budgets
(R78, R107, R148), the stop of R489, pre-emption (R272, R273) and the remote abort (R274). -/
namespace Sys2Proof.Machine

/-! ### Matrix results -/

/-- Rows first to first + k − 1 of an item. -/
def itemRows (it : Item) (k : Nat) : List Nat := (List.range k).map (it.first + ·)

/-- Rows of C written, and the elements that saturated counted (R68). -/
def State.mxRows (s : State) (n : StallId) (d : MxDesc) (w : MxRow) (bank : Bool) (rows : List Nat) : State :=
  let m0 := stallView s.mem n
  let rq := (s.stall n).rqTable
  ({ s with mem := mxWriteRows m0 rq d w bank (stallBase n) rows s.mem }).stallAdd n .mxSatCount
    (rows.map (mxRowSat m0 rq d w bank)).sum

/-- Every row of an item written, and its partial sums (R72). Where C and S overlap, which check 5 of R76 does not forbid, the sums are
written first, so that C stands (R487; DESIGN CHOICE, log entry 12). -/
def State.mxItem (s : State) (n : StallId) (d : MxDesc) (w : MxRow) (bank : Bool) (it : Item) : State :=
  ({ s with mem := mxWriteScratch (stallView s.mem n) d w (stallBase n) it (fun _ => mxKTiles d w - 1) s.mem }).mxRows n d w bank
    (itemRows it it.count)

/-- An item stopped after k rows: those are written. Of every element of the others R78 says that it holds its previous content or a
partial result: free value e draws which, over its prefix of k (log entry 5); an element written counts where it saturated (R68).
Each position of the region at ADDR_S holds what some pass before the stop left there (R72). -/
def State.mxStopped (s : State) (n : StallId) (d : MxDesc) (w : MxRow) (bank : Bool) (it : Item) (k : Nat) : State :=
  let m0 := stallView s.mem n
  let rq := (s.stall n).rqTable
  let s1 := s.mxRows n d w bank (itemRows it k)
  let rest := (List.range (it.count - k)).map (it.first + k + ·)
  let elems := rest.flatMap fun i => (List.range d.n).map fun j => (i, j)
  let outs : List ((Nat × Nat) × Nat × Bool) := elems.zipIdx.filterMap fun p =>
    match (s.freeBits p.2).toNat % (d.k + 2) with
    | 0 => none
    | e + 1 => some (p.1, mxOutAt m0 rq d w bank p.1.1 p.1.2 e)
  let m1 := outs.foldl (fun m p => rawWrite m (stallBase n + d.addrC + p.1.1 * d.ldc) (fmtBits d.fc) p.1.2 p.2.1) s1.mem
  let drawn := elems.length
  let m2 := mxWriteScratch m0 d w (stallBase n) it (fun i => (s.freeBits (drawn + i)).toNat % max 1 (mxKTiles d w)) m1
  let s2 : State := { s1 with mem := m2 }
  (s2.drew (drawn + (mxScratch d w it).length)).stallAdd n .mxSatCount (outs.filter fun x => x.2.2).length

/-- The passes of a running matrix command's items, in order, up to the item at position `upto` (R73). An item that ended without
running has none. -/
def Running.passes (r : Running) (d : MxDesc) (w : MxRow) (upto : Nat) : List MxPass :=
  ((mxItems d r.items).zipIdx.filter fun p => decide (p.2 < upto)).flatMap fun p =>
    if (mxTrivial d p.1).isSome then []
    else match r.cuts.find? fun c => c.1 == p.2 with
      | some c => mxCut d w p.1.count c.2.1 c.2.2.1 c.2.2.2
      | none => mxWhole d w p.1.count

/-- The earliest instant at which the first pass of an item starts. -/
def State.mxItemStart (s : State) (n : StallId) (r : Running) (d : MxDesc) (w : MxRow) (k : Nat) : Int :=
  r.start + s.acTime n (mxStart (mxEnds d).1 (mxRun (mxEnds d).1 none (r.passes d w k)) false)

/-- The items of a running matrix command before position `upto` that have not ended are done (R77). -/
def State.mxFinish (s : State) (n : StallId) (r : Running) (bank : Bool) (upto : Nat) : Running × State :=
  let d := mxOf r.desc
  match mxRow d.mode d.fa d.fb with
  | none => (r, s)
  | some w =>
    ((mxItems d r.items).zipIdx.filter fun p => decide (p.2 < upto)).foldl (fun (a : Running × State) p =>
      if (a.1.results.getD p.2 none).isSome then a
      else ({ a.1 with results := a.1.results.set p.2 (some (oDone, p.1.count)) }, a.2.mxItem n d w bank p.1)) (r, s)

/-- The item at which a running matrix command stops, as far as it was fed. -/
def State.mxStopAt (s : State) (n : StallId) (r : Running) (bank : Bool) (stop : StopPoint) : Running × State :=
  let d := mxOf r.desc
  match mxRow d.mode d.fa d.fb, (mxItems d r.items)[stop.item]? with
  | some w, some it =>
    let rows := mxRowsDone d w it.count stop.passes stop.fed
    if (r.results.getD stop.item none).isSome then (r, s)
    else
      ({ r with
          results := r.results.set stop.item (some (oPartial, rows)), itemStart := s.now
          cuts := r.cuts ++ [(stop.item, stop.passes, stop.fed, s.timeAc n (s.now - r.start))] }, s.mxStopped n d w bank it rows)
  | _, _ => (r, s)

/-! ### Outcomes of items -/

/-- Outcome and ROWS_DONE of every item, NOT_REACHED where none is known (Table 09-7). -/
def Running.itemOutcomes (r : Running) : List (Byte × Nat) := r.results.map (·.getD (oNotReached, 0))

/-- DONE if every item is, otherwise PARTIAL (Table 02-8). -/
def itemsOutcome (l : List (Byte × Nat)) : Byte := if l.all fun p => p.1 == oDone then oDone else oPartial

/-- The outcome of a program command that has ended. -/
def Running.ended (r : Running) : Option Byte :=
  match r.outcome with
  | some o => some o
  | none => if r.results.all (·.isSome) then some (itemsOutcome r.itemOutcomes) else none

/-- The 8-byte marker of an item that is not DONE (R378). -/
def itemMarker (it : Option Item) (o : Byte) (rows : Nat) : List Byte :=
  natLE 4 ((it.map (·.id.toNat)).getD 0) ++ [o, 0] ++ natLE 2 rows

/-- An item of a program command ends: its result, and in the digest its stores, or its marker where it is not DONE. -/
def Running.endItem (r : Running) (k : Nat) (o : Byte) : Running :=
  let it := r.items.bind (·[k]?)
  let rows := if o = oDone then (it.map (·.count)).getD 0 else 0
  { r with results := r.results.set k (some (o, rows)), item := none, itemLog := []
           digestLog := r.digestLog ++ (if o = oDone then r.itemLog else itemMarker it o rows) }

/-- The item results at the list's result area (R281); TIME_NS is free. -/
def State.writeResults (s : State) (n : StallId) (cls : Nat) (r : Running) (a : Nat) : State :=
  match r.items with
  | none => s
  | some l =>
    r.itemOutcomes.zipIdx.foldl (fun s p =>
      let bs := itemResult p.1.1 p.1.2 ((s.freeBits 0).setWidth 32)
      let at_ := resultArea a l.length + 8 * p.2
      let s1 := s.drew 1
      match placeOf at_ 8 with
      | .plain off => (s1.plainWrite (Source.stall n cls) off bs).2
      | _ => s1) s

/-! ### Digests (R378) -/

/-- The rows of C of a matrix command in item order, and the markers of items that are not DONE. -/
def mxDigest (m : Mem) (n : StallId) (r : Running) : List Byte :=
  let d := mxOf r.desc
  let its := mxItems d r.items
  r.itemOutcomes.zipIdx.flatMap fun p =>
    let it := its.getD p.2 ⟨0, 0, 0⟩
    if p.1.1 = oDone then
      (itemRows it it.count).flatMap fun i =>
        memRead m (stallBase n + d.addrC + i * d.ldc) (ceilDiv (d.n * fmtBits d.fc) 8)
    else itemMarker (r.items.bind (·[p.2]?)) p.1.1 p.1.2

/-- The markers of the items that a stopped program command did not reach. -/
def notReachedMarkers (r : Running) : List Byte :=
  r.results.zipIdx.flatMap fun p =>
    if p.1.isSome then [] else itemMarker (r.items.bind (·[p.2]?)) oNotReached 0

/-- What the digest unit absorbs of a command that ends with an outcome; of a command that was not run, the header alone
(log entry 16). -/
def digestInput (m : Mem) (n : StallId) (e : Engine) (r : Running) (o : Byte) : List Byte :=
  let d := descOf r.desc
  natLE 2 d.tag ++ [BitVec.ofNat 8 d.opclass, o] ++ natLE 4 r.results.length ++ List.replicate 8 (0 : Byte) ++
    (if r.results = [] then []
     else match e with
       | .matrix => mxDigest m n r
       | _ => r.digestLog ++ notReachedMarkers r)

/-- The record of Table 13-3. -/
def DigestEntry.bytes (x : DigestEntry) : List Byte :=
  natLE 2 x.tag.toNat ++ [BitVec.ofNat 8 x.stall.val, BitVec.ofNat 8 (bitNat x.tdc)] ++ natLE 8 x.launch.toNat
    ++ List.replicate 20 (0 : Byte) ++ natLE 32 x.digest.toNat

/-- The digest record of a command with DIGEST, in its cell's ring and for its slot's audit record. -/
def State.digest (s : State) (n : StallId) (e : Engine) (r : Running) (o : Byte) : State :=
  let d := descOf r.desc
  if d.digest then
    let x : DigestEntry := { tag := BitVec.ofNat 16 d.tag, stall := n, tdc := r.tdc, launch := BitVec.ofNat 64 (bytesNat r.desc 8 8)
                             digest := Config.shake256 (digestInput s.mem n e r o) }
    let c := s.cell d.cell
    let s1 := if c.digestSize = 0 then s
      else match placeOf (c.digestRing + c.digestPos) 64 with
        | .plain off => (s.plainWrite (Source.stall n 0) off x.bytes).2
        | _ => s
    s1.modCell d.cell fun c => { c with
      digests := if s.audited d.cell then c.digests ++ [x] else c.digests
      digestPos := if c.digestSize ≤ c.digestPos + 64 then 0 else c.digestPos + 64 }
  else s

/-! ### COMMAND_COMPLETION (R280) -/

/-- ac counted in units of 256 with the remainder carried. -/
def busySplit (rem ac : Nat) : Nat × Nat := ((rem + ac) / 256, (rem + ac) % 256)

/-- The command was refused at its checks, and never ran (R76, R106, R147). -/
def Running.refused (r : Running) : Bool := r.outcome.isSome && r.items.isNone && r.results == []

/-- The counters of an engine at the end of a command that ran for so many ac; a refused command ran for none. MX_MIXED_COUNT counts
every matrix command of different widths that was accepted (R61). Of a command that stopped early the invalid scales of the lines of
its finished rows are counted, and those of B where it finished a row; R85 does not say which lines of a stopped command count
(DESIGN CHOICE, log entry 12). -/
def State.engineCounts (s : State) (n : StallId) (e : Engine) (r : Running) (ac dry backup : Nat) : State :=
  let x := s.stall n
  let d := mxOf r.desc
  let ran := if r.refused then 0 else ac
  match e with
  | .matrix =>
    let b := busySplit x.mxRem ran
    let s1 := (s.stallAdd n .mxBusyAc b.1).modStall n fun x => { x with mxRem := b.2 }
    if bytesNat r.desc 0 1 = 4 then s1
    else
      let s2 := ((s1.stallAdd n .mxCmdCount (bitNat (bytesNat r.desc 0 1 == 0))).stallAdd n .mxDryAc dry).stallAdd n .mxBackupAc backup
      if r.refused ∨ bytesNat r.desc 0 1 ≠ 0 then s2
      else
        let rows := (r.itemOutcomes.zip (mxItems d r.items)).flatMap fun p =>
          if p.1.1 = oDone ∨ p.1.1 = oPartial then itemRows p.2 p.1.2 else []
        let bad := match mxRow d.mode d.fa d.fb with
          | some w => mxBadScales (stallView s.mem n) d w rows
          | none => 0
        (s2.stallAdd n .mxMixedCount (bitNat (mxMixed d))).stallAdd n .mxScaleInvalid bad
  | .vector =>
    let b := busySplit x.vecRem ran
    ((s.stallAdd n .vecCmdCount 1).stallAdd n .vecBusyAc b.1).modStall n fun x => { x with vecRem := b.2 }
  | .sequencer =>
    let b := busySplit x.seqRem ran
    (((s.stallAdd n .seqCmdCount 1).stallAdd n .seqBusyAc b.1).stallAdd n .seqWaitAc dry).stallAdd n .seqIrqDropped
      (bitNat x.irqPending) |>.modStall n fun x => { x with seqRem := b.2, irqPending := false }
  | .dma _ => s

/-- The run time of a matrix command lies between its formula time and that plus the ac in which a feeder was dry or a drain link
full (R71, R73); one without a pass takes no more than 100 ac (R14). -/
def Running.timeOk (r : Running) (ac dry backup : Nat) : Bool :=
  let d := mxOf r.desc
  match mxRow d.mode d.fa d.fb with
  | some w =>
    let l := r.passes d w r.results.length
    if l = [] then decide (ac ≤ 100) else decide (mxTime d l ≤ ac) && decide (ac ≤ mxTime d l + dry + backup)
  | none => true

/-- The command that an engine has finished after running for so many ac, with its outcome. The sequencer's ran for its issue ac and those
in which it was refused (R145). -/
def State.finished (s : State) (n : StallId) (e : Engine) (ac dry backup : Nat) : Option (Running × Byte × State) :=
  match e with
  | .matrix =>
    match (s.stall n).matrix with
    | .running r bank =>
      match r.outcome with
      | some o => some (r, o, s)
      | none =>
        if r.timeOk ac dry backup then
          let p := s.mxFinish n r bank r.results.length
          some (p.1, itemsOutcome p.1.itemOutcomes, p.2)
        else none
    | .passWait r _ _ _ => r.outcome.map fun o => (r, o, s)
    | _ => none
  | .vector =>
    match (s.stall n).vec with
    | .running r _ => r.ended.map fun o => (r, o, s)
    | _ => none
  | .sequencer =>
    match (s.stall n).seq with
    | .running r x => if r.refused ∨ ac = x.issue + dry then r.ended.map fun o => (r, o, s) else none
    | _ => none
  | .dma t =>
    let y := vget (s.stall n).streams t
    match y.chain, y.queued with
    | some c, _ =>
      match c.origin, c.phase with
      | .command r, .ended o => some (r, o, s)
      | _, _ => none
    | none, some r => r.outcome.map fun o => (r, o, s)
    | none, none => none

/-- A pending swap of an engine's tables takes effect as its command completes (R97, R132). -/
def Stall.swapAt (x : Stall) : Engine → Stall
  | .matrix => x.rqSwapEffect
  | .vector => x.sfSwapEffect
  | _ => x

/-- ac for which an entry held its engine before its run started (R50, R266). -/
def State.heldAc (s : State) (n : StallId) (q : QueueId) (i : Fin 4096) : Nat :=
  match s.entry q i with
  | some e => s.timeAc n (e.start - e.placedAt)
  | none => 0

/-- A background command of site adaptation that is done lets its cell make a step (R32). -/
def State.adaptWork (s : State) (q : QueueId) (d : Desc) (o : Byte) : State :=
  if d.stage = 11 ∧ (s.queue q).cls = 2 ∧ o = oDone then
    s.modCell d.cell fun x => { x with adapt := { x.adapt with work := x.adapt.work + 1 } }
  else s

/-- A refused or stopped command leaves its blocks with ENGINE_FAULT (Table 06-6). -/
def blockFault (o : Byte) : Bool := (1 ≤ o.toNat && o.toNat ≤ 5) || o == oBadInstr || o == oOutOfExtent

/-- ROWS_DONE of the completion record: of a matrix command without an item list that ran (Table 09-6). -/
def recordRows (r : Running) : Nat :=
  if bytesNat r.desc 0 1 = 0 ∧ r.items = none then ((r.itemOutcomes.head?).map (·.2)).getD 0 else 0

/-- A YIELDED sequencer command does not retire: its entry waits again, with RESUME, PIN and AFFINITY set (R273). -/
def State.yielded (s : State) (n : StallId) (r : Running) (ac : Nat) : State :=
  let s1 := s.rewriteEntry r.q r.idx fun b => setPin n (setResume true b)
  s1.unplace r.q r.idx ac fun e => { e with flags := e.flags ||| 4 }

/-- A command that its engine has finished after a run of so many ac is counted and charged from its dispatch on (R266), its results, digest and record are written, its blocks end, and the
engine is free. -/
def commandCompletionEffect (n : StallId) (e : Engine) (ac dry backup : Nat) (results : List BlockResult) (s : State) : State :=
  match s.finished n e ac dry backup with
  | none => s
  | some (r, o, s0) =>
    let d := descOf r.desc
    let s1 := ((s0.engineCounts n e r ac dry backup).freeEngine n e).modStall n fun x => x.swapAt e
    let used := ac + s.heldAc n r.q r.idx
    if o = oYielded then State.settle s (s1.yielded n r used)
    else
      let cls := (s1.queue r.q).cls
      let items := match d.opclass with
        | 0 => (mxOf r.desc).items
        | _ => (progOf r.desc).items
      let s2 := if d.opclass ≤ 2 then (s1.writeResults n cls r items).digest n e r o else s1
      let s3 := (((s2.charge r.q (d.opclass == 4) used).modEntry r.q r.idx fun e => { e with ac := e.ac + used }).retire r.q r.idx o
        (recordRows r)).adaptWork r.q d o
      State.settle s (results.foldl (fun s b => if blockFault o then s.blockFaulted b else s.blockResult b) s3)

def execCommandCompletion (n : StallId) (e : Engine) (ac dry backup : Nat) (results : List BlockResult) (s : State) :
    Host.Outcome State Fault Refusal :=
  .next (commandCompletionEffect n e ac dry backup results s)

/-! ### ITEM_BUDGET_EXPIRY (R78, R107, R148) -/

/-- A vector engine with its registers loaded for the command's next item, or as they stand where none is next. -/
def vecNextItem (r : Running) (x : VecRegs) (now : Int) : VecEngine :=
  let r1 := r.nextItem now
  .running r1 (if r1.item.isSome then x.load (progOf r.desc) r1.curItem else x)

/-- The same for the sequencer; the writes on their way are made (R107, R148). -/
def seqNextItem (r : Running) (x : SeqRegs) (now : Int) : SeqEngine :=
  let r1 := r.nextItem now
  .running r1 (if r1.item.isSome then x.drain.load (progOf r.desc) r1.curItem else x.drain)

/-- The item in hand of a running command is stopped under R78: it is PARTIAL, and the rest of the command goes on; with the command, and
the instant at which the item started. -/
def State.stopItem (s : State) (n : StallId) (e : Engine) (stop : StopPoint) : Option (Running × Int × State) :=
  match e with
  | .matrix =>
    match (s.stall n).matrix with
    | .running r bank =>
      let d := mxOf r.desc
      match mxRow d.mode d.fa d.fb with
      | none => none
      | some w =>
        if r.outcome.isNone ∧ stop.item < r.results.length ∧ (r.results.getD stop.item none).isNone then
          let a := s.mxFinish n r bank stop.item
          let b := a.2.mxStopAt n { a.1 with tdc := true } bank stop
          some (r, s.mxItemStart n r d w stop.item, b.2.setMatrix n (.running b.1 bank))
        else none
    | _ => none
  | .vector =>
    match (s.stall n).vec with
    | .running r x =>
      if r.outcome.isNone ∧ r.item = some stop.item then
        some (r, r.itemStart, s.setVec n (vecNextItem ({ r with tdc := true }.endItem stop.item oPartial) x s.now))
      else none
    | _ => none
  | .sequencer =>
    match (s.stall n).seq with
    | .running r x =>
      if r.outcome.isNone ∧ r.item = some stop.item ∧ x.mayInterrupt = true then
        some (r, r.itemStart, s.setSeq n (seqNextItem ({ r with tdc := true }.endItem stop.item oPartial) x s.now))
      else none
    | _ => none
  | .dma _ => none

/-- The budget of an item has run out, counted from the item's start (R78, R107, R148). -/
def State.budgetStop (s : State) (n : StallId) (e : Engine) (stop : StopPoint) : Option (Running × State) :=
  match s.stopItem n e stop with
  | some (r, start, t) =>
    let b := (descOf r.desc).budget
    if b ≠ 0 ∧ start + ns (1000 * b : Nat) ≤ s.now then some (r, t) else none
  | none => none

/-- The item is counted, and each of its blocks is rejected with FB_BUDGET (Table 06-7). -/
def itemBudgetExpiryEffect (n : StallId) (e : Engine) (stop : StopPoint) (blocks : List JudgedBlock) (s : State) : State :=
  match s.budgetStop n e stop with
  | none => s
  | some (r, s1) =>
    let s2 := s1.tdc .tdcBudget (descOf r.desc).cell 1
    State.settle s (blocks.foldl (fun s b => s.rejectOutput b 34 0 (s.classicalAc b)) s2)

def execItemBudgetExpiry (n : StallId) (e : Engine) (item : Nat) (x : FedPasses) (blocks : List JudgedBlock) (s : State) :
    Host.Outcome State Fault Refusal :=
  .next (itemBudgetExpiryEffect n e ⟨item, x.passes, x.fed⟩ blocks s)

/-! ### DEC_BLOCK_BUDGET_EXPIRY (R169) -/

/-- An LDPC block whose first iteration started at an instant and that has not been decoded within DEC_BLOCK_BUDGET ends with BUDGET after
so many whole iterations: the item of the decode command is stopped under R78, its combined LLRs go to HARQ, and a timing-dependent
choice is counted (R169, R375). It counts among the blocks decoded (DESIGN CHOICE, log entry 16). -/
def decBlockBudgetExpiryEffect (r : BlockRef) (n : StallId) (e : Engine) (stop : StopPoint) (start : Int) (iterations : Nat)
    (own : Option (List Byte × List Bool)) (s : State) : State :=
  match s.ulBlock r, s.ulUnit r, (s.ulUnit r).bind (·.tx), s.stopItem n e stop with
  | some b, some u, some t, some (x, begun, s0) =>
    match b.decodes own with
    | some (l, cl) =>
      if b.final.isSome ∨ b.waiting.isSome ∨ start < begun ∨ start < x.start
          ∨ s.now < start + ns (1000 * (s.cellDecoded r.cell r.air).get .decBudget : Nat) then s
      else
        let s1 := (s0.countLdpc r.cell iterations false).tdc .tdcBudget r.cell 1
        let h := s1.harqCombine r u t l.1
        let d : Decoded := ⟨2, 0, iterations, cl, .none, some h.1, h.2.1⟩
        State.settle s (h.2.2.blockAccepted r d)
    | none => s
  | _, _, _, _ => s

def execDecBlockBudgetExpiry (r : BlockRef) (x : DecodeStop) (iterations : Nat) (s : State) : Host.Outcome State Fault Refusal :=
  .next (decBlockBudgetExpiryEffect r x.n x.e x.stop x.start iterations x.own s)

/-! ### The end of a chain (R242, R247) -/

/-- A chain ends with an outcome: a command's chain keeps its stream until its completion; an armed one frees it. A chain that
ends PARTIAL is counted (Table 13-2). -/
def State.endChain (s : State) (n : StallId) (t : StreamId) (code : Byte) : State :=
  match (vget (s.stall n).streams t).chain with
  | none => s
  | some c =>
    match c.origin with
    | .armed => s.modStream n t fun y => { y with chain := none, preempt := none }
    | .command r =>
      let s1 := s.modStream n t fun y => { y with chain := some { c with phase := .ended code }, preempt := none }
      if code = oPartial then s1.tdc .tdcBudget (descOf r.desc).cell 1 else s1

/-- The budget of a chain expires (R242): a segment in progress completes first; nothing else does. -/
def State.expireChain (s : State) (n : StallId) (t : StreamId) : State :=
  match (vget (s.stall n).streams t).chain with
  | none => s
  | some c =>
    match c.phase with
    | .ended _ => s
    | .moving _ _ => s.modStream n t fun y => { y with chain := some { c with expired := true } }
    | _ => s.endChain n t oPartial

/-! ### The stop of R489 and RESERVE_STALL_LIMIT (R270) -/

/-- A program command stopped under R489: the item in hand is PARTIAL, the rest NOT_REACHED. -/
def Running.stopped (r : Running) : Running :=
  let r1 := match r.item with | some k => r.endItem k oPartial | none => r
  { r1 with outcome := some oPartial }

/-- The command that runs on an engine is stopped under R489, with the cell of the command; none where nothing that can be
stopped now runs: a sequencer command stops outside its shadow (R148). Every item after the one that runs reports NOT_REACHED. A Pass
wait ends with PASS_TIMEOUT, which TDC_SCHED counts. -/
def State.stopCommand (s : State) (n : StallId) (e : Engine) (stop : StopPoint) : Option (Running × State) :=
  match e with
  | .matrix =>
    match (s.stall n).matrix with
    | .running r bank =>
      if r.outcome.isSome then none
      else
        let a := s.mxFinish n r bank stop.item
        let b := a.2.mxStopAt n a.1 bank stop
        let results := b.1.results.take (stop.item + 1) ++ List.replicate (b.1.results.length - (stop.item + 1)) none
        some (r, b.2.setMatrix n (.running { b.1 with results := results, outcome := some oPartial, tdc := true } bank))
    | .passWait r p g l =>
      if r.outcome.isSome then none
      else some (r, (s.setMatrix n (.passWait { r with outcome := some oPassTimeout } p g l)).tdc .tdcSched (descOf r.desc).cell 1)
    | _ => none
  | .vector =>
    match (s.stall n).vec with
    | .running r x => if r.ended.isSome then none else some (r, s.setVec n (.running { r.stopped with tdc := true } x))
    | _ => none
  | .sequencer =>
    match (s.stall n).seq with
    | .running r x =>
      if r.ended.isSome ∨ x.mayInterrupt = false then none
      else some (r, s.setSeq n (.running { r.stopped with tdc := true } x.drain))
    | _ => none
  | .dma t =>
    let y := vget (s.stall n).streams t
    match y.chain with
    | some c =>
      match c.origin, c.phase with
      | _, .ended _ => none
      | .armed, _ => none
      | .command r, _ => some (r, s.expireChain n t)
    | none => none

/-- A background command that started on a reserve stall in its window and has run for 5 µs is stopped; one that ran when the window
opened runs on (R25). -/
def reserveStallLimitEffect (n : StallId) (e : Engine) (stop : StopPoint) (s : State) : State :=
  match (s.stall n).running e, s.window n with
  | some r, some w =>
    if (s.queue r.q).cls = 2 ∧ nsOf w.openAt ≤ nsOf r.start ∧ ns 5000 ≤ s.now - r.start then
      match s.stopCommand n e stop with
      | none => s
      | some (r, s1) =>
        let s2 := s1.modEntry r.q r.idx fun e => { e with flags := e.flags ||| 8 }
        if (descOf r.desc).opclass = 4 then s2 else s2.tdc .tdcSched (descOf r.desc).cell 1
    else s
  | _, _ => s

def execReserveStallLimit (n : StallId) (e : Engine) (item : Nat) (x : FedPasses) (s : State) : Host.Outcome State Fault Refusal :=
  .next (reserveStallLimitEffect n e ⟨item, x.passes, x.fed⟩ s)

/-! ### PREEMPTION (R272, R273) and REMOTE_ABORT (R274) -/

/-- The chain waits on a transfer from a remote device. -/
def Chain.remote (c : Chain) : Bool :=
  match c.phase with
  | .moving _ _ =>
    let d := dmaOf c.cur
    d.op == 0 && match placeOf d.src 16 with | .remote _ _ => true | _ => false
  | _ => false

/-- A command on engine g of stall n that may be asked to give way, with its start: a sequencer command that takes interrupts,
or a chain that waits on a remote transfer; none that is asked already. -/
def Stall.victim (x : Stall) (g : Engine) : Option Running :=
  match g with
  | .sequencer =>
    match x.seq with
    | .running r _ => if r.ended.isNone && (progOf r.desc).irqEn && !x.irqPending then some r else none
    | _ => none
  | .dma t =>
    let y := vget x.streams t
    match y.chain with
    | some c =>
      match c.origin with
      | .command r => if c.remote && y.preempt.isNone then some r else none
      | .armed => none
    | none => none
  | _ => none

/-- The victim of R272: the lowest class, then the latest start, then the highest stall. -/
def State.chooseVictim (s : State) (q : QueueId) (e : QEntry) (g : Engine) : Option (StallId × Running) :=
  ((List.finRange 64).filterMap fun n =>
    if s.qualifies q e n && s.placement q e n then ((s.stall n).victim g).map fun r => (n, r) else none).foldl
    (fun best p =>
      let cls (r : Running) := (s.queue r.q).cls
      if cls p.2 ≤ (s.queue q).cls then best
      else match best with
        | none => some p
        | some b =>
          if cls b.2 < cls p.2 ∨ (cls b.2 = cls p.2 ∧ b.2.start ≤ p.2.start) then some p else best) none

/-- An engine that could take the entry now is free. -/
def State.engineFor (s : State) (q : QueueId) (e : QEntry) (g : Engine) : Bool :=
  (List.finRange 64).any fun n => (s.stall n).engineFree g && s.mayRun n g q e

/-- A firm entry that has been eligible for PREEMPT_DELAY without an engine to run on takes one victim. -/
def preemptionEffect (q : QueueId) (i : Fin 4096) (s : State) : State :=
  match s.entry q i with
  | none => s
  | some e =>
    match e.eligibleAt with
    | none => s
    | some t =>
      let g := engineOf e.bytes
      if e.isWaiting ∧ (s.queue q).cls = 0 ∧ ns (fld s.qm.timing 15 0 : Nat) ≤ s.now - t ∧ e.asked = false ∧
          s.engineFor q e g = false then
        match s.chooseVictim q e g with
        | none => s
        | some (n, _) =>
          let s1 := match g with
            | .dma t => s.modStream n t fun y => { y with preempt := some s.now }
            | _ => s.modStall n fun x => { x with irqPending := true }
          (s1.modEntry q i fun e => { e with asked := true }).devInc .qmPreempt
      else s

def execPreemption (q : QueueId) (i : Fin 4096) (s : State) : Host.Outcome State Fault Refusal := .next (preemptionEffect q i s)

/-- REMOTE_WAIT_MAX in µs as it acts (Table 09-8). -/
def remoteWaitUs (ctrl : Word) : Nat := min 200 (max 1 (fld ctrl 7 0))

/-- The remote transfer of a victim has not completed in time: it is aborted, and the chain's entry runs again later from its
first descriptor. -/
def remoteAbortEffect (n : StallId) (t : StreamId) (ac : Nat) (s : State) : State :=
  let y := vget (s.stall n).streams t
  match y.preempt, y.chain with
  | some t0, some c =>
    match c.origin with
    | .command r =>
      if c.remote ∧ ns (remoteWaitUs s.qm.ctrl * 1000 : Nat) ≤ s.now - t0 then
        let s1 := (s.freeEngine n (.dma t)).unplace r.q r.idx ac fun e => { e with flags := e.flags ||| 1 }
        State.settle s ((s1.devInc .qmRemoteAbort).raise 0x0402 (evtSource 1 n.val)
          ([BitVec.ofNat 8 n.val, BitVec.ofNat 8 t.val] ++ natLE 2 (descOf r.desc).tag))
      else s
    | .armed => s
  | _, _ => s

def execRemoteAbort (n : StallId) (t : StreamId) (ac : Nat) (s : State) : Host.Outcome State Fault Refusal :=
  .next (remoteAbortEffect n t ac s)

end Sys2Proof.Machine
end

