-- ==== Sys2Proof/Machine/Vector.lean ====
section
/-! DEFINITION. The vector engine's instructions as commands (R107-R132): the instruction at the program index is fetched and
run; a row names the opcode that it expects there. An undefined instruction stops the command whichever row comes; another
defined opcode is not this row's event (log entry 2). -/
namespace Sys2Proof.Machine

/-! ### The function store (R124-R132) -/

/-- The active bank as the instructions evaluate it. -/
def Stall.fnTable (x : Stall) (bank : Bool) : FnTable := fun slot j i => x.sfWord bank (0x400 * slot + 4 * j + i)

/-! ### One instruction -/

/-- The row of the table that an instruction is: its opcode, with MAG2 apart from CONJ (Table 04-4). -/
def vecRow (f : VecInstr) : Nat := if f.op = 0x1F ∧ bitOf f.imm 0 = true then 0x11F else f.op

/-- The opcodes of Table 04-4. -/
def vecRows : List Nat :=
  [0x00, 0x01, 0x02, 0x08, 0x09, 0x0A, 0x10, 0x11, 0x12, 0x13, 0x14, 0x15, 0x16, 0x17, 0x18, 0x19, 0x1A, 0x1B,
   0x1C, 0x1D, 0x1E, 0x1F, 0x11F, 0x28, 0x29, 0x2A, 0x2B, 0x30, 0x31, 0x32, 0x33, 0x34, 0x35, 0x38, 0x40,
   0x41, 0x48, 0x49, 0x50, 0x51, 0x52, 0x53]

/-- Stores of one instruction as the digest unit absorbs them: the offset of the first byte from WR_BASE, and the bytes
(R378). -/
def storeDigest (base : Nat) (stores : List (Nat × List Byte)) : List Byte :=
  match stores with
  | [] => []
  | p :: _ => natLE 4 (p.1 - base) ++ stores.flatMap (·.2)

/-- The bytes that an instruction stores, at stall-local addresses. -/
def State.applyStores (s : State) (n : StallId) (stores : List (Nat × List Byte)) : State :=
  { s with mem := stores.foldl (fun m p => memWrite m (stallBase n + p.1) p.2) s.mem }

/-- An instruction that stops the command: the item in hand reports the outcome, and no later one runs (R108). -/
def Running.fail (r : Running) (k : Nat) (o : Byte) : Running := { r.endItem k o with outcome := some o }

/-- The engine after an instruction that ran: on to the next one, or past the last to the next item (R107, R110). -/
def vecAfter (r : Running) (k : Nat) (x : VecRegs) (now : Int) : VecEngine :=
  let y := x.advance (x.pc + 1)
  if (progOf r.desc).len ≤ y.pc then vecNextItem (r.endItem k oDone) y now else .running r y

/-- The instruction at the program index runs, if a command runs there and the instruction is that row's. -/
def vecRun (n : StallId) (row : Nat) (s : State) : State :=
  match (s.stall n).vec with
  | .running r x =>
    match r.outcome, r.item with
    | none, some k =>
      let p := progOf r.desc
      let v := stallView s.mem n
      let f := vecInstrOf (memNat v (p.prog + 8 * x.pc) 8)
      if vecRow f ≠ row ∧ vecRows.contains (vecRow f) = true then s
      else
        let e : VecEnv := { mem := v, desc := p, fn := (s.stall n).fnTable x.bank, free := fun i => (s.freeBits i).setWidth 32 }
        let z := vecStep e f x
        let s0 := if 0x51 ≤ f.op ∧ f.op ≤ 0x53 then s.drew 256 else s
        match z.stop with
        | some o => s0.setVec n (.running (r.fail k o) z.regs)
        | none =>
          let r1 := { r with itemLog := r.itemLog ++ storeDigest p.wrBase z.stores }
          (((s0.applyStores n z.stores).stallAdd n .vecEmptyCount z.empties).stallAdd n .quantBadScale z.bads).setVec n
            (vecAfter r1 k z.regs s.now)
    | _, _ => s
  | _ => s

/-- LD (R109). -/
def execVecLd (n : StallId) (s : State) : Host.Outcome State Fault Refusal := .next (vecRun n 0x00 s)

/-- ST (R109). -/
def execVecSt (n : StallId) (s : State) : Host.Outcome State Fault Refusal := .next (vecRun n 0x01 s)

/-- LDR (R109). -/
def execVecLdr (n : StallId) (s : State) : Host.Outcome State Fault Refusal := .next (vecRun n 0x02 s)

/-- LOOP (R110). -/
def execVecLoop (n : StallId) (s : State) : Host.Outcome State Fault Refusal := .next (vecRun n 0x08 s)

/-- ADDI (R109). -/
def execVecAddi (n : StallId) (s : State) : Host.Outcome State Fault Refusal := .next (vecRun n 0x09 s)

/-- ADDM (R109). -/
def execVecAddm (n : StallId) (s : State) : Host.Outcome State Fault Refusal := .next (vecRun n 0x0A s)

/-- ADD (R111). -/
def execVecAdd (n : StallId) (s : State) : Host.Outcome State Fault Refusal := .next (vecRun n 0x10 s)

/-- SUB (R111). -/
def execVecSub (n : StallId) (s : State) : Host.Outcome State Fault Refusal := .next (vecRun n 0x11 s)

/-- MUL (R111). -/
def execVecMul (n : StallId) (s : State) : Host.Outcome State Fault Refusal := .next (vecRun n 0x12 s)

/-- FMA (R111). -/
def execVecFma (n : StallId) (s : State) : Host.Outcome State Fault Refusal := .next (vecRun n 0x13 s)

/-- MIN (R111). -/
def execVecMin (n : StallId) (s : State) : Host.Outcome State Fault Refusal := .next (vecRun n 0x14 s)

/-- MAX (R111). -/
def execVecMax (n : StallId) (s : State) : Host.Outcome State Fault Refusal := .next (vecRun n 0x15 s)

/-- ABS (R112). -/
def execVecAbs (n : StallId) (s : State) : Host.Outcome State Fault Refusal := .next (vecRun n 0x16 s)

/-- NEG (R112). -/
def execVecNeg (n : StallId) (s : State) : Host.Outcome State Fault Refusal := .next (vecRun n 0x17 s)

/-- SHL (R112). -/
def execVecShl (n : StallId) (s : State) : Host.Outcome State Fault Refusal := .next (vecRun n 0x18 s)

/-- SHR (R112). -/
def execVecShr (n : StallId) (s : State) : Host.Outcome State Fault Refusal := .next (vecRun n 0x19 s)

/-- AND (R109). -/
def execVecAnd (n : StallId) (s : State) : Host.Outcome State Fault Refusal := .next (vecRun n 0x1A s)

/-- OR (R109). -/
def execVecOr (n : StallId) (s : State) : Host.Outcome State Fault Refusal := .next (vecRun n 0x1B s)

/-- XOR (R109). -/
def execVecXor (n : StallId) (s : State) : Host.Outcome State Fault Refusal := .next (vecRun n 0x1C s)

/-- SEL (R109). -/
def execVecSel (n : StallId) (s : State) : Host.Outcome State Fault Refusal := .next (vecRun n 0x1D s)

/-- CVT (R113). -/
def execVecCvt (n : StallId) (s : State) : Host.Outcome State Fault Refusal := .next (vecRun n 0x1E s)

/-- CONJ (R109). -/
def execVecConj (n : StallId) (s : State) : Host.Outcome State Fault Refusal := .next (vecRun n 0x1F s)

/-- MAG2 (R111). -/
def execVecMag2 (n : StallId) (s : State) : Host.Outcome State Fault Refusal := .next (vecRun n 0x11F s)

/-- CMP (R114). -/
def execVecCmp (n : StallId) (s : State) : Host.Outcome State Fault Refusal := .next (vecRun n 0x28 s)

/-- MOP (R109). -/
def execVecMop (n : StallId) (s : State) : Host.Outcome State Fault Refusal := .next (vecRun n 0x29 s)

/-- MSET (R109). -/
def execVecMset (n : StallId) (s : State) : Host.Outcome State Fault Refusal := .next (vecRun n 0x2A s)

/-- MLEN (R109). -/
def execVecMlen (n : StallId) (s : State) : Host.Outcome State Fault Refusal := .next (vecRun n 0x2B s)

/-- SHUF (R115). -/
def execVecShuf (n : StallId) (s : State) : Host.Outcome State Fault Refusal := .next (vecRun n 0x30 s)

/-- PERM (R115). -/
def execVecPerm (n : StallId) (s : State) : Host.Outcome State Fault Refusal := .next (vecRun n 0x31 s)

/-- TRANS (R109). -/
def execVecTrans (n : StallId) (s : State) : Host.Outcome State Fault Refusal := .next (vecRun n 0x32 s)

/-- PACK (R116). -/
def execVecPack (n : StallId) (s : State) : Host.Outcome State Fault Refusal := .next (vecRun n 0x33 s)

/-- UNPACK (R116). -/
def execVecUnpack (n : StallId) (s : State) : Host.Outcome State Fault Refusal := .next (vecRun n 0x34 s)

/-- MOV (R109). -/
def execVecMov (n : StallId) (s : State) : Host.Outcome State Fault Refusal := .next (vecRun n 0x35 s)

/-- RED (R117). -/
def execVecRed (n : StallId) (s : State) : Host.Outcome State Fault Refusal := .next (vecRun n 0x38 s)

/-- FUNC (R125). -/
def execVecFunc (n : StallId) (s : State) : Host.Outcome State Fault Refusal := .next (vecRun n 0x40 s)

/-- FBAS (R129). -/
def execVecFbas (n : StallId) (s : State) : Host.Outcome State Fault Refusal := .next (vecRun n 0x41 s)

/-- NORM (R121). -/
def execVecNorm (n : StallId) (s : State) : Host.Outcome State Fault Refusal := .next (vecRun n 0x48 s)

/-- SOFTMAX (R123). -/
def execVecSoftmax (n : StallId) (s : State) : Host.Outcome State Fault Refusal := .next (vecRun n 0x49 s)

/-- QBS (R130). -/
def execVecQbs (n : StallId) (s : State) : Host.Outcome State Fault Refusal := .next (vecRun n 0x50 s)

/-- QRANGE (R130). -/
def execVecQrange (n : StallId) (s : State) : Host.Outcome State Fault Refusal := .next (vecRun n 0x51 s)

/-- QPARAM (R130). -/
def execVecQparam (n : StallId) (s : State) : Host.Outcome State Fault Refusal := .next (vecRun n 0x52 s)

/-- QAPPLY (R130). -/
def execVecQapply (n : StallId) (s : State) : Host.Outcome State Fault Refusal := .next (vecRun n 0x53 s)

end Sys2Proof.Machine
end

