-- ==== Sys2Proof/Machine/Sequencer.lean ====
section
/-! DEFINITION. The signal sequencer's instructions as commands (R134-R152) and its interrupt (R149, R150). The spec gives the
encoding of classes 4h and 5h alone, so a row carries its decoded instruction; the word at the program index must name its class and
operation, and in classes 4h and 5h be the very word (log entry 12). -/
namespace Sys2Proof.Machine

/-- The operation that a word names: 16 times its class and the operation's place in Table 05-3, or OP in classes 4h and 5h (Table
05-4). None for an encoding that is not listed (R143). -/
def State.seqDecode (s : State) (w : Word) : Option Nat :=
  let cls := fld w 31 28
  if cls = 4 ∨ cls = 5 then if fld w 27 26 = 3 then none else some (16 * cls + fld w 27 26)
  else ((s.seqOps.getD cls []).idxOf? (fld w 27 24)).map (16 * cls + ·)

/-- The operation at the program index with its word, and whether the loop cache holds that; none past the end of the program. -/
def State.seqCode (s : State) (p : ProgDesc) (v : Mem) (x : SeqRegs) : Option (Nat × Word × Bool) :=
  match x.fetch p v with
  | some (w, held) => (s.seqDecode w).map fun c => (c, w, held)
  | none => none

/-- The registers after an instruction: writes fall due, and the program index moves on (R141, R142). -/
def SeqResult.after (z : SeqResult) : SeqRegs := (z.regs.shift z.late).step

/-- The operation with a code runs at the program index; w is the word that it must be, where its class has an encoding. An encoding
that is not listed, or the end of the program, stops the command whichever row comes. -/
def seqRun (n : StallId) (code : Nat) (w : Option Word) (op : Mem → ProgDesc → SeqRegs → SeqResult) (s : State) : State :=
  match (s.stall n).seq with
  | .running r x =>
    match r.outcome, r.item with
    | none, some k =>
      let p := progOf r.desc
      let v := stallView s.mem n
      match s.seqCode p v x with
      | none => s.setSeq n (.running (r.fail k oBadInstr) x.drain)
      | some (c, u, held) =>
      if c ≠ code ∨ (w.any fun t => t != u) = true then s
      else
        let x1 := x.fetched code u held
        let z := op v p x1
        match z.stop with
        | some o => s.setSeq n (.running (r.fail k o) x1.drain)
        | none =>
          let r1 := { r with itemLog := r.itemLog ++ storeDigest p.wrBase z.stores }
          ((s.applyStores n z.stores).stallAdd n .seqSatCount (bitNat z.sat)).setSeq n (.running r1 z.after)
    | _, _ => s
  | _ => s

/-- HALT: with 0 the item, or the program, is done; with 1 the command yields (R143, R151). -/
def seqHaltEffect (n : StallId) (yielded : Bool) (s : State) : State :=
  match (s.stall n).seq with
  | .running r x =>
    match r.outcome, r.item with
    | none, some k =>
      match s.seqCode (progOf r.desc) (stallView s.mem n) x with
      | some (c, _, _) =>
        let x1 := { x with issue := x.issue + 1 }
        if c ≠ 1 then s
        else if yielded then s.setSeq n (.running { r with outcome := some oYielded } x1.drain)
        else s.setSeq n (seqNextItem (r.endItem k oDone) x1 s.now)
      | none => s.setSeq n (.running (r.fail k oBadInstr) x.drain)
    | _, _ => s
  | _ => s

/-- HALT (R143). -/
def execSeqHalt (n : StallId) (yielded : Bool) (s : State) : Host.Outcome State Fault Refusal := .next (seqHaltEffect n yielded s)

/-- NOP (R143). -/
def execSeqNop (n : StallId) (s : State) : Host.Outcome State Fault Refusal :=
  .next (seqRun n 0x00 none (fun _ _ x => SeqResult.ok x) s)

/-- JMP (R141). -/
def execSeqJmp (n : StallId) (target : BitVec 16) (s : State) : Host.Outcome State Fault Refusal :=
  .next (seqRun n 0x02 none (fun _ _ x => seqJmpOp target x) s)

/-- JZ (R141). -/
def execSeqJz (n : StallId) (ix : Fin 8) (target : BitVec 16) (s : State) : Host.Outcome State Fault Refusal :=
  .next (seqRun n 0x03 none (fun _ _ x => seqJzOp ix target x) s)

/-- JNZ (R141). -/
def execSeqJnz (n : StallId) (ix : Fin 8) (target : BitVec 16) (s : State) : Host.Outcome State Fault Refusal :=
  .next (seqRun n 0x04 none (fun _ _ x => seqJnzOp ix target x) s)

/-- LOOP (R142). -/
def execSeqLoop (n : StallId) (b : Nat) (count : Nat) (s : State) : Host.Outcome State Fault Refusal :=
  .next (seqRun n 0x05 none (fun _ _ x => seqLoopOp b count x) s)

/-- LOOPX (R142). -/
def execSeqLoopx (n : StallId) (b : Nat) (ix : Fin 8) (s : State) : Host.Outcome State Fault Refusal :=
  .next (seqRun n 0x06 none (fun _ _ x => seqLoopOp b (vget x.ix ix).toNat x) s)

/-- RETI (R150). -/
def execSeqReti (n : StallId) (s : State) : Host.Outcome State Fault Refusal :=
  .next (seqRun n 0x07 none (fun _ _ x => seqRetiOp x) s)

/-- EI (R149). -/
def execSeqEi (n : StallId) (s : State) : Host.Outcome State Fault Refusal :=
  .next (seqRun n 0x08 none (fun _ _ x => seqIeOp true x) s)

/-- DI (R149). -/
def execSeqDi (n : StallId) (s : State) : Host.Outcome State Fault Refusal :=
  .next (seqRun n 0x09 none (fun _ _ x => seqIeOp false x) s)

/-- MV (R143). -/
def execSeqMv (n : StallId) (d s_ : SeqReg) (s : State) : Host.Outcome State Fault Refusal :=
  .next (seqRun n 0x10 none (fun _ _ x => seqMvOp d s_ x) s)

/-- MVI (R143). -/
def execSeqMvi (n : StallId) (d : SeqReg) (imm : BitVec 16) (s : State) : Host.Outcome State Fault Refusal :=
  .next (seqRun n 0x11 none (fun _ _ x => seqMviOp d imm x) s)

/-- LDS (R137). -/
def execSeqLds (n : StallId) (fmt : SeqFmt) (a : SeqAddr) (s : State) : Host.Outcome State Fault Refusal :=
  .next (seqRun n 0x20 none (fun v p x => seqLdsOp v p fmt a x) s)

/-- STS (R137). -/
def execSeqSts (n : StallId) (fmt : SeqFmt) (a : SeqAddr) (s : State) : Host.Outcome State Fault Refusal :=
  .next (seqRun n 0x21 none (fun _ p x => seqStsOp p fmt a x) s)

/-- LDW (R143). -/
def execSeqLdw (n : StallId) (d : Fin 31) (a : SeqAddr) (s : State) : Host.Outcome State Fault Refusal :=
  .next (seqRun n 0x22 none (fun v p x => seqLdwOp v p d a x) s)

/-- STW (R143). -/
def execSeqStw (n : StallId) (r : Fin 31) (a : SeqAddr) (s : State) : Host.Outcome State Fault Refusal :=
  .next (seqRun n 0x23 none (fun _ p x => seqStwOp p r a x) s)

/-- LDT (R137). -/
def execSeqLdt (n : StallId) (fmt : SeqFmt) (a : SeqAddr) (s : State) : Host.Outcome State Fault Refusal :=
  .next (seqRun n 0x30 none (fun v p x => seqLdtOp v p fmt a x) s)

/-- STT (R137). -/
def execSeqStt (n : StallId) (fmt : SeqFmt) (a : SeqAddr) (s : State) : Host.Outcome State Fault Refusal :=
  .next (seqRun n 0x31 none (fun _ p x => seqSttOp p fmt a x) s)

/-- LDC (R136). -/
def execSeqLdc (n : StallId) (inc : Byte) (s : State) : Host.Outcome State Fault Refusal :=
  .next (seqRun n 0x32 none (fun v p x => seqLdcOp v p inc x) s)

/-- MAC2 (R144). -/
def execSeqMac2 (n : StallId) (w : Word) (s : State) : Host.Outcome State Fault Refusal :=
  .next (seqRun n 0x40 (some w) (fun v p x => seqMulOp v p w x) s)

/-- MSU2 (R144). -/
def execSeqMsu2 (n : StallId) (w : Word) (s : State) : Host.Outcome State Fault Refusal :=
  .next (seqRun n 0x41 (some w) (fun v p x => seqMulOp v p w x) s)

/-- MPY2 (R144). -/
def execSeqMpy2 (n : StallId) (w : Word) (s : State) : Host.Outcome State Fault Refusal :=
  .next (seqRun n 0x42 (some w) (fun v p x => seqMulOp v p w x) s)

/-- CMAC (R144). -/
def execSeqCmac (n : StallId) (w : Word) (s : State) : Host.Outcome State Fault Refusal :=
  .next (seqRun n 0x50 (some w) (fun v p x => seqMulOp v p w x) s)

/-- CMSU (R144). -/
def execSeqCmsu (n : StallId) (w : Word) (s : State) : Host.Outcome State Fault Refusal :=
  .next (seqRun n 0x51 (some w) (fun v p x => seqMulOp v p w x) s)

/-- CMPY (R144). -/
def execSeqCmpy (n : StallId) (w : Word) (s : State) : Host.Outcome State Fault Refusal :=
  .next (seqRun n 0x52 (some w) (fun v p x => seqMulOp v p w x) s)

/-- ADD (R143). -/
def execSeqAdd (n : StallId) (a b : Fin 4) (s : State) : Host.Outcome State Fault Refusal :=
  .next (seqRun n 0x60 none (fun _ _ x => seqAddOp a b x) s)

/-- SUB (R143). -/
def execSeqSub (n : StallId) (a b : Fin 4) (s : State) : Host.Outcome State Fault Refusal :=
  .next (seqRun n 0x61 none (fun _ _ x => seqSubOp a b x) s)

/-- NEG (R143). -/
def execSeqNeg (n : StallId) (a : Fin 4) (s : State) : Host.Outcome State Fault Refusal :=
  .next (seqRun n 0x62 none (fun _ _ x => seqNegOp a x) s)

/-- ABS (R143). -/
def execSeqAbs (n : StallId) (a : Fin 4) (s : State) : Host.Outcome State Fault Refusal :=
  .next (seqRun n 0x63 none (fun _ _ x => seqAbsOp a x) s)

/-- ASH (R143). -/
def execSeqAsh (n : StallId) (a : Fin 4) (k : Int) (s : State) : Host.Outcome State Fault Refusal :=
  .next (seqRun n 0x64 none (fun _ _ x => seqAshOp a k x) s)

/-- MIN (R143). -/
def execSeqMin (n : StallId) (a b : Fin 4) (s : State) : Host.Outcome State Fault Refusal :=
  .next (seqRun n 0x65 none (fun _ _ x => seqMinOp a b x) s)

/-- MAX (R143). -/
def execSeqMax (n : StallId) (a b : Fin 4) (s : State) : Host.Outcome State Fault Refusal :=
  .next (seqRun n 0x66 none (fun _ _ x => seqMaxOp a b x) s)

/-- CLS (R143). -/
def execSeqCls (n : StallId) (a : Fin 4) (s : State) : Host.Outcome State Fault Refusal :=
  .next (seqRun n 0x67 none (fun _ _ x => seqClsOp a x) s)

/-- DIV (R143). -/
def execSeqDiv (n : StallId) (a : Fin 4) (s : State) : Host.Outcome State Fault Refusal :=
  .next (seqRun n 0x68 none (fun _ _ x => seqDivOp a x) s)

/-- STA (R139). -/
def execSeqSta (n : StallId) (a : Fin 4) (sh : Nat) (ad : SeqAddr) (s : State) : Host.Outcome State Fault Refusal :=
  .next (seqRun n 0x70 none (fun _ p x => seqStaOp p a sh ad x) s)

/-- STA2 (R139). -/
def execSeqSta2 (n : StallId) (pair : Fin 2) (sh : Nat) (ad : SeqAddr) (s : State) : Host.Outcome State Fault Refusal :=
  .next (seqRun n 0x71 none (fun _ p x => seqSta2Op p pair sh ad x) s)

/-- STA4 (R139). -/
def execSeqSta4 (n : StallId) (sh : Nat) (ad : SeqAddr) (s : State) : Host.Outcome State Fault Refusal :=
  .next (seqRun n 0x72 none (fun _ p x => seqSta4Op p sh ad x) s)

/-- SAVA (R139). -/
def execSeqSava (n : StallId) (a : Fin 4) (ad : SeqAddr) (s : State) : Host.Outcome State Fault Refusal :=
  .next (seqRun n 0x73 none (fun _ p x => seqSavaOp p a ad x) s)

/-- LDAR (R139). -/
def execSeqLdar (n : StallId) (a : Fin 4) (ad : SeqAddr) (s : State) : Host.Outcome State Fault Refusal :=
  .next (seqRun n 0x74 none (fun v p x => seqLdarOp v p a ad x) s)

/-- ADDI (R140). -/
def execSeqAddi (n : StallId) (ix : Fin 8) (imm : BitVec 16) (s : State) : Host.Outcome State Fault Refusal :=
  .next (seqRun n 0x80 none (fun _ _ x => seqAddiOp ix imm x) s)

/-! ### SEQ_IRQ_RAISE and SEQ_IRQ_TAKEN (R149, R150) -/

/-- A write to SEQ_IRQ of one stall: RAISE leaves one request pending while a command runs; a 1 clears TAKEN (Table 05-8). -/
def Stall.writeIrq (x : Stall) (v : Word) : Stall :=
  let busy := match x.seq with
    | .running _ _ => true
    | _ => false
  { x with irqPending := x.irqPending || (wbit v 0 && busy), irqTaken := x.irqTaken && !wbit v 2 }

def execSeqIrqRaise (w : Window) (v : Word) (s : State) : Host.Outcome State Fault Refusal :=
  .next (s.overWindow w fun s n => s.modStall n fun x => x.writeIrq v)

/-- The pending request is taken at an instruction boundary outside the shadow, with IRQ_EN and SQST.IE set. -/
def seqIrqTakenEffect (n : StallId) (s : State) : State :=
  let y := s.stall n
  match y.seq with
  | .running r x =>
    let p := progOf r.desc
    if r.outcome.isNone ∧ r.item.isSome ∧ y.irqPending ∧ p.irqEn ∧ x.sqst.getLsbD 4 = true ∧ x.mayInterrupt = true then
      (s.setSeq n (.running r (x.interrupt p.irqVec))).modStall n fun y => { y with irqPending := false, irqTaken := true }
    else s
  | _ => s

def execSeqIrqTaken (n : StallId) (s : State) : Host.Outcome State Fault Refusal := .next (seqIrqTakenEffect n s)

end Sys2Proof.Machine
end

