-- ==== Sys2Proof/Machine/StallTables.lean ====
section
/-! DEFINITION. Requantisation and function stores of a stall: table windows, bank swaps (R96-R99, R131, R132). -/
namespace Sys2Proof.Machine

def execRqTableWrite (w : Window) (off : BitVec 16) (v : Word) (s : State) : Host.Outcome State Fault Refusal :=
  .next (s.overWindow w fun s n => s.modStall n fun x => x.rqWrite off.toNat v)

def execSfTableWrite (w : Window) (off : BitVec 12) (v : Word) (s : State) : Host.Outcome State Fault Refusal :=
  .next (s.overWindow w fun s n => s.modStall n fun x => x.sfWrite off.toNat v)

def execTableSwap (w : Window) (v : Word) (s : State) : Host.Outcome State Fault Refusal :=
  .next (s.overWindow w fun s n => s.modStall n fun x => x.rqSwap v)

def execSfSwap (w : Window) (v : Word) (s : State) : Host.Outcome State Fault Refusal :=
  .next (s.overWindow w fun s n => s.modStall n fun x => x.sfSwap v)

def execRqSwapEffect (n : StallId) (s : State) : Host.Outcome State Fault Refusal := .next (s.modStall n Stall.rqSwapEffect)

def execSfSwapEffect (n : StallId) (s : State) : Host.Outcome State Fault Refusal := .next (s.modStall n Stall.sfSwapEffect)

end Sys2Proof.Machine
end

