-- ==== Sys2Proof/Machine/Dma.lean ====
section
/-! DEFINITION. The stall DMA (R227, R230, R231, R237-R251): accesses and their failures, descriptors and their fetch, the six
operations, segments, budgets, armed chains and stream reserves. Writes become visible in the order in which the commands here
make them, which R251 allows (log entry 17). -/
namespace Sys2Proof.Machine

/-! ### Accesses of a chain (R231, R235, R242, R385) -/

def oLinkLost : Byte := 20

/-- A device of the joined set other than this one. -/
def Join.member (j : Join) (d : DeviceId) : Bool := j.members.getLsbD d.val && decide (d ≠ j.device)

/-- A remote offset that a remote access may reach. -/
def remoteOffsetOk (off len : Nat) : Bool :=
  match placeOf off len with
  | .stallMem _ _ => true
  | .plain _ => true
  | _ => false

/-- A remote access as it goes over the link: class, direction, offset, and data or length. -/
def remoteMsg (cls : Nat) (write : Bool) (off : Nat) (rest : List Byte) : List Byte :=
  [BitVec.ofNat 8 cls, BitVec.ofNat 8 (bitNat write)] ++ natLE 4 off ++ rest

/-- A read by a chain of stall n: the bytes, or the code with which the chain ends. -/
def State.chainRead (s : State) (n : StallId) (c : Chain) (a len : Nat) : Except Byte (List Byte) × State :=
  match placeOf a len with
  | .stallMem m off =>
    if s.domainOn m.val = false then (.error oBadAddr, s)
    else if m = n ∧ (off < c.localBase ∨ c.localEnd < off + len) then (.error oOutOfExtent, s)
    else (.ok (memRead s.mem a len), s)
  | .plain off =>
    let r := s.plainRead (Source.stall n c.cls) off len
    if r.2.1 then (.ok r.1, r.2.2) else (.error oFirewall, r.2.2)
  | .dram _ => (.ok (memRead s.mem a len), s)
  | .remote d off =>
    if s.join.member d ∧ remoteOffsetOk off len = true then
      (.ok (s.freeBytes len), (s.drew (ceilDiv len 8)).tell d 8 (remoteMsg c.cls false off (natLE 4 len)))
    else (.error oBadAddr, s)
  | .register a => match s.fabricRead a len with
    | some bs => (.ok bs, s.drew (ceilDiv len 8))
    | none => (.error oBadAddr, s)
  | .reserved => (.error oBadAddr, s)

/-- A stall-local range lies in a stall's inbound window (R231). -/
def Stall.inbound (x : Stall) (off len : Nat) : Bool :=
  decide (x.inboundBase.toNat * 32 ≤ off) && decide (off + len ≤ x.inboundEnd.toNat * 32)

/-- A write by a chain of stall n: made, or the code with which the chain ends. -/
def State.chainWrite (s : State) (n : StallId) (c : Chain) (a : Nat) (bs : List Byte) : Option Byte × State :=
  match placeOf a bs.length with
  | .stallMem m off =>
    let armed := match c.origin with | .armed => true | .command _ => false
    if s.domainOn m.val = false then (some oBadAddr, s)
    else if m = n ∧ armed = false then
      if off < c.localBase ∨ c.localEnd < off + bs.length then (some oOutOfExtent, s)
      else (none, { s with mem := memWrite s.mem a bs })
    else if (s.stall m).inbound off bs.length then (none, { s with mem := memWrite s.mem a bs })
    else (some oBadAddr, s)
  | .plain off =>
    let r := s.plainWrite (Source.stall n c.cls) off bs
    (if r.1 then none else some oFirewall, r.2)
  | .dram _ => (none, { s with mem := memWrite s.mem a bs })
  | .remote d off =>
    if s.join.member d ∧ remoteOffsetOk off bs.length = true then (none, s.tell d 8 (remoteMsg c.cls true off bs))
    else (some oBadAddr, s)
  | .register a => match s.fabricWrite a bs with
    | some s1 => (none, s1)
    | none => (some oBadAddr, s)
  | .reserved => (some oBadAddr, s)

/-! ### Descriptors (R241, R243-R245) -/

/-- Whether a descriptor's fields are as R244 asks. -/
def dmaOk (d : DmaDesc) : Bool :=
  let src := decide (d.src < 2 ^ 40)
  let dst := decide (d.dst < 2 ^ 40)
  decide (d.op ≤ 5) && d.b0top == 0 && d.b1top == 0 && d.next % 32 == 0 &&
    match d.op with
    | 0 => src && dst && d.src % 16 == 0 && d.dst % 16 == 0 && d.len % 16 == 0 && decide (d.len ≤ 16777216)
    | 1 => dst && d.dst % 16 == 0 && d.len % 16 == 0 && decide (d.len ≤ 16777216)
    | 2 => dst && d.dst % 8 == 0
    | 3 => src && d.src % 8 == 0
    | 4 => src && dst && d.src % 16 == 0 && d.dst % 16 == 0 && d.len % 16 == 0
    | _ => true

/-- What a fetch of the descriptor at an address gives: its 32 bytes, or one byte, the code with which the chain ends when it
reaches it (R241, R242). A firewall refusal is counted when it is reached. -/
def State.fetchDesc (s : State) (n : StallId) (c : Chain) (a : Nat) : List Byte :=
  if !chainAddrOk a then [oBadAddr]
  else match (s.chainRead n c a 32).1 with
    | .ok bs => bs
    | .error e => [e]

/-- A run of k descriptors from an address on. -/
def State.fetchRun (s : State) (n : StallId) (c : Chain) (a k : Nat) : List (Nat × List Byte) :=
  (List.range k).map fun i => (a + 32 * i, s.fetchDesc n c (a + 32 * i))

/-- The chain with its next descriptor taken: the fetched one if there is one, else fetched now; in service mode in bursts of 8
whenever fewer than 4 remain (R245, R246). An arm-window image stands at address 0. -/
def State.takeDesc (s : State) (n : StallId) (c : Chain) : Chain × List Byte :=
  let service := (s.stall n).dmaMode == 0
  let have_ := if c.fetched.isEmpty then s.fetchRun n c c.next (if service then 8 else 1) else c.fetched
  match have_ with
  | [] => (c, [oBadAddr])
  | (a, bs) :: rest =>
    let d := dmaOf bs
    let last := ((rest.getLast?).map (·.1)).getD a
    let more := if service && decide (rest.length < 4) && decide (a ≠ 0) then s.fetchRun n c (last + 32) 8 else []
    ({ c with cur := bs, next := if d.next = 0 then a + 32 else d.next
              fetched := if d.next = 0 then rest ++ more else [] }, bs)

/-- The descriptor in progress ends: the chain ends after LAST, ends PARTIAL once its budget has expired, or is ready for the
next. -/
def State.descDone (s : State) (n : StallId) (t : StreamId) : State :=
  match (vget (s.stall n).streams t).chain with
  | none => s
  | some c =>
    if c.expired then s.endChain n t oPartial
    else if (dmaOf c.cur).last then s.endChain n t oDone
    else s.modStream n t fun y => { y with chain := some { c with phase := .ready } }

/-- The chain's phase set. -/
def State.setPhase (s : State) (n : StallId) (t : StreamId) (p : ChainPhase) : State :=
  s.modStream n t fun y => { y with chain := y.chain.map fun c => { c with phase := p } }

/-- An access that ended the chain, or the next descriptor. -/
def State.afterAccess (n : StallId) (t : StreamId) (r : Option Byte × State) : State :=
  match r.1 with
  | some code => r.2.endChain n t code
  | none => r.2.descDone n t

/-- A read by a chain whose data, where it comes from DRAM, is in a state: an uncorrectable one ends the chain with MEM_ERROR
(R238). -/
def State.chainReadEcc (s : State) (n : StallId) (c : Chain) (a len : Nat) (ecc : Ecc) : Except Byte (List Byte) × State :=
  match placeOf a len, ecc with
  | .dram _, .uncorrectable => (.error oMemError, s.dramUe a)
  | .dram _, .corrected => (s.devInc .dramCe).chainRead n c a len
  | _, _ => s.chainRead n c a len

/-- One read of a WAIT descriptor's word (R244). -/
def State.waitRead (s : State) (n : StallId) (t : StreamId) (c : Chain) (ecc : Ecc) : State :=
  let d := dmaOf c.cur
  let r := s.chainReadEcc n c d.src 8 ecc
  match r.1 with
  | .error e => r.2.endChain n t e
  | .ok bs => if d.dst ≤ leNat bs then r.2.descDone n t else r.2

/-- A descriptor with good fields starts. -/
def State.runDesc (s : State) (n : StallId) (t : StreamId) (c : Chain) (ecc : Ecc) : State :=
  let d := dmaOf c.cur
  match d.op with
  | 0 | 1 => if d.rows = 0 ∨ d.len = 0 then s.descDone n t else s.setPhase n t (.moving 0 0)
  | 2 => State.afterAccess n t (s.chainWrite n c d.dst (natLE 8 d.src))
  | 3 => (s.setPhase n t (.waiting s.now)).waitRead n t c ecc
  | 4 =>
    let r := s.chainReadEcc n c d.src 32 ecc
    match r.1 with
    | .error e => r.2.endChain n t e
    | .ok bs => State.afterAccess n t (r.2.chainWrite n c d.dst bs)
  | _ =>
    let p := passOf d.passId
    let s1 := s.setPhase n t (.pass p (s.pass p).arrivalGen)
    let s2 := s1.arrive p (some n)
    if (s.pass p).en then s2 else s2.endChain n t oPassCancelled

/-- A chain that is ready starts its next descriptor, if that is the row's operation; one that cannot start ends the chain under
any row. -/
def dmaStart (op : Nat) (n : StallId) (t : StreamId) (ecc : Ecc) (s : State) : State :=
  match (vget (s.stall n).streams t).chain with
  | none => s
  | some c =>
    match c.phase with
    | .ready =>
      let r := s.takeDesc n c
      let s1 := s.modStream n t fun y => { y with chain := some r.1 }
      match r.2 with
      | [code] =>
        let s2 := if code = oFirewall then (s1.chainRead n r.1 c.next 32).2 else s1
        s2.endChain n t code
      | bs =>
        let d := dmaOf bs
        if !dmaOk d then s1.endChain n t oBadDesc
        else if d.op ≠ op then s
        else s1.runDesc n t r.1 ecc
    | _ => s

def execDmaCopy (n : StallId) (t : StreamId) (s : State) : Host.Outcome State Fault Refusal := .next (dmaStart 0 n t .clean s)
def execDmaFill (n : StallId) (t : StreamId) (s : State) : Host.Outcome State Fault Refusal := .next (dmaStart 1 n t .clean s)
def execDmaSignal (n : StallId) (t : StreamId) (s : State) : Host.Outcome State Fault Refusal := .next (dmaStart 2 n t .clean s)
def execDmaWait (n : StallId) (x : StreamRead) (s : State) : Host.Outcome State Fault Refusal := .next (dmaStart 3 n x.t x.ecc s)
def execDmaPost (n : StallId) (x : StreamRead) (s : State) : Host.Outcome State Fault Refusal := .next (dmaStart 4 n x.t x.ecc s)
def execDmaPass (n : StallId) (t : StreamId) (s : State) : Host.Outcome State Fault Refusal := .next (dmaStart 5 n t .clean s)

/-! ### WAIT (R244) -/

/-- A WAIT reads its word again. -/
def dmaWaitSatisfiedEffect (n : StallId) (t : StreamId) (ecc : Ecc) (s : State) : State :=
  match (vget (s.stall n).streams t).chain with
  | some c => match c.phase with
    | .waiting _ => s.waitRead n t c ecc
    | _ => s
  | none => s

def execDmaWaitSatisfied (n : StallId) (x : StreamRead) (s : State) : Host.Outcome State Fault Refusal :=
  .next (dmaWaitSatisfiedEffect n x.t x.ecc s)

def waitTimeoutEffect (n : StallId) (t : StreamId) (s : State) : State :=
  match (vget (s.stall n).streams t).chain with
  | some c => match c.phase with
    | .waiting since =>
      let us := (dmaOf c.cur).len % 65536
      if us ≠ 0 ∧ ns (us * 1000 : Nat) ≤ s.now - since then s.endChain n t oWaitTimeout else s
    | _ => s
  | none => s

def execWaitTimeout (n : StallId) (t : StreamId) (s : State) : Host.Outcome State Fault Refusal :=
  .next (waitTimeoutEffect n t s)

/-! ### DMA_SEGMENT_COMPLETE (R244, R248, R238) -/

/-- The segment at byte off of a row: source and destination addresses and length. -/
def segment (d : DmaDesc) (row off : Nat) : Nat × Nat × Nat :=
  let dst := d.dst + row * d.dstPitch + off
  (d.src + row * d.srcPitch + off, dst, min (d.len - off) (2048 - dst % 2048))

/-- After a segment is written: the next one, the next row, or the next descriptor. -/
def State.segmentDone (s : State) (n : StallId) (t : StreamId) (d : DmaDesc) (row off len : Nat) : State :=
  let s1 := s.modStream n t fun y => { y with preempt := none }
  let expired := match (vget (s.stall n).streams t).chain with | some c => c.expired | none => false
  if expired then s1.endChain n t oPartial
  else if off + len < d.len then s1.setPhase n t (.moving row (off + len))
  else if row + 1 < d.rows then s1.setPhase n t (.moving (row + 1) 0)
  else s1.descDone n t

/-- The staging slots that a stream can hold: its own reserve, and the slots that no stream reserves (R248). -/
def Stall.stageLimit (x : Stall) (t : StreamId) : Nat :=
  (vget x.dmaResv t).toNat + (128 - ((vlist x.dmaResv).map (·.toNat)).sum)

/-- The data of the segment in progress is present, in slots that its stream can hold: it is written, or the chain ends with what went
wrong. -/
def dmaSegmentCompleteEffect (n : StallId) (t : StreamId) (ecc : Ecc) (s : State) : State :=
  match (vget (s.stall n).streams t).chain with
  | none => s
  | some c =>
    match c.phase with
    | .moving row off =>
      let d := dmaOf c.cur
      let g := segment d row off
      if d.op = 0 ∧ (s.stall n).stageLimit t < ceilDiv g.2.2 256 then s
      else
        let r := if d.op = 0 then s.chainReadEcc n c g.1 g.2.2 ecc
          else (.ok ((List.range (g.2.2 / 8)).flatMap fun _ => natLE 8 d.src), s)
        match r.1 with
        | .error e => r.2.endChain n t e
        | .ok bs =>
          let w := r.2.chainWrite n c g.2.1 bs
          match w.1 with
          | some e => w.2.endChain n t e
          | none => w.2.segmentDone n t d row off g.2.2
    | _ => s

def execDmaSegmentComplete (n : StallId) (t : StreamId) (ecc : Ecc) (s : State) : Host.Outcome State Fault Refusal :=
  .next (dmaSegmentCompleteEffect n t ecc s)

/-! ### CHAIN_BUDGET_EXPIRY (R242) -/

def chainBudgetExpiryEffect (n : StallId) (t : StreamId) (s : State) : State :=
  match (vget (s.stall n).streams t).chain with
  | none => s
  | some c =>
    match c.origin with
    | .armed => s
    | .command r =>
      let b := (descOf r.desc).budget
      if b ≠ 0 ∧ ns (b * 1000 : Nat) ≤ s.now - c.started then s.expireChain n t else s

def execChainBudgetExpiry (n : StallId) (t : StreamId) (s : State) : Host.Outcome State Fault Refusal :=
  .next (chainBudgetExpiryEffect n t s)

/-! ### Armed chains (R247) -/

/-- The image in a stream's arm window; one with LAST = 0 and NEXT = 0 ends after itself. -/
def Stall.armImage (x : Stall) (t : StreamId) : List Byte :=
  let bs := (List.range 8).flatMap fun i => natLE 4 (x.armWin.toArray.getD (8 * t.val + i) 0).toNat
  if (dmaOf bs).next = 0 then setBytes bs 0 [bs.getD 0 0 ||| 0x20] else bs

/-- An armed chain that starts with an image. -/
def Stall.startArmed (x : Stall) (t : StreamId) (image : List Byte) (now : Int) : Stall :=
  let c := { newChain .armed x.armCrit.toNat 0 0 stallSize now with fetched := [(0, image)] }
  { x with streams := vmod x.streams t fun y => { y with chain := some c } }

/-- A stream armed: its chain starts at once, or its image waits in the shadow. -/
def Stall.arm (x : Stall) (t : StreamId) (now : Int) : Stall :=
  let y := vget x.streams t
  let image := x.armImage t
  if y.chain.isNone ∧ y.shadow.isNone then x.startArmed t image now
  else
    let x1 := { x with streams := vmod x.streams t fun y => { y with shadow := some image } }
    if y.shadow.isSome then x1.add .dmaRearmOverwrite 1 else x1

/-- A write to DMA_ARM. -/
def Stall.writeArm (x : Stall) (v : Word) (now : Int) : Stall :=
  ((List.finRange 8).filter fun t => wbit v t.val).foldl (fun x t => x.arm t now) x

def execDmaArm (w : Window) (v : Word) (s : State) : Host.Outcome State Fault Refusal :=
  .next (s.overWindow w fun s n => s.modStall n fun x => x.writeArm v s.now)

/-- The shadow starts once the stream is free. -/
def Stall.shadowStart (x : Stall) (t : StreamId) (now : Int) : Stall :=
  let y := vget x.streams t
  match y.chain, y.shadow with
  | none, some image => { x with streams := vmod x.streams t fun y => { y with shadow := none } }.startArmed t image now
  | _, _ => x

def execShadowChainStart (n : StallId) (t : StreamId) (s : State) : Host.Outcome State Fault Refusal :=
  .next (s.modStall n fun x => x.shadowStart t s.now)

/-! ### Stream reserves (R248-R250) -/

/-- A stream that holds slots waits for another one: its COPY moves, and its own reserve is used up (R248). -/
def Stall.stuck (x : Stall) (t : StreamId) (held : Nat) : Bool :=
  match (vget x.streams t).chain with
  | some c => match c.phase with
    | .moving _ _ => decide ((dmaOf c.cur).op = 0) && decide ((vget x.dmaResv t).toNat ≤ held)
    | _ => false
  | none => false

/-- No slot of the pool is free: each is held by a stream, as `held` gives them by stream, or kept by a reserve (R248). -/
def Stall.poolFull (x : Stall) (held : List Nat) : Bool :=
  decide (((List.finRange 8).map fun t => max (held.getD t.val 0) (vget x.dmaResv t).toNat).sum = 128)

/-- Test mode: no slot is free and every stream that holds slots waits for another; the chain that started latest is aborted
(log entry 17). -/
def cyclicWaitEffect (n : StallId) (held : List Nat) (s : State) : State :=
  let x := s.stall n
  let hs := (List.finRange 8).filter fun t => 0 < held.getD t.val 0
  if x.dmaMode = 2 ∧ held.length ≤ 8 ∧ x.poolFull held = true ∧ (hs.all fun t => x.stuck t (held.getD t.val 0)) = true then
    let started (t : StreamId) : Int := match (vget x.streams t).chain with | some c => c.started | none => 0
    match hs.foldl (fun (b : Option StreamId) t => match b with
        | some u => if started u ≤ started t then some t else b
        | none => some t) none with
    | none => s
    | some t =>
      ((s.endChain n t oCyclicWait).stallAdd n .dmaCyclicAbort 1).raise 0x0503 (evtSource 1 n.val)
        [BitVec.ofNat 8 n.val, BitVec.ofNat 8 t.val]
  else s

def execCyclicWait (n : StallId) (held : List Nat) (s : State) : Host.Outcome State Fault Refusal :=
  .next (cyclicWaitEffect n held s)

/-- A write to DMA_RESV_s (R249, R250). -/
def Stall.writeResv (x : Stall) (t : StreamId) (v : Word) : Stall :=
  let k := if x.dmaMode = 2 then fld v 7 0 else max 8 (fld v 7 0)
  let r := vset x.dmaResv t (BitVec.ofNat 8 k)
  if ((vlist r).map (·.toNat)).sum ≤ 128 then { x with dmaResv := r } else x

def execDmaResvWrite (w : Window) (t : StreamId) (v : Word) (s : State) : Host.Outcome State Fault Refusal :=
  .next (s.overWindow w fun s n => s.modStall n fun x => x.writeResv t v)

/-- A write to DRAM_RESV: ignored, with RESV_ERR, where its shares exceed 64 (R237). -/
def Fabric.writeDramResv (f : Fabric) (v : Word) : Fabric :=
  if 64 < fld v 6 0 + fld v 14 8 + fld v 22 16 then { f with resvErr := true } else { f with dramResv := v &&& 0x007F7F7F }

def execDramResvWrite (v : Word) (s : State) : Host.Outcome State Fault Refusal :=
  .next { s with fab := s.fab.writeDramResv v }

/-! ### The Pass (R252-R256) -/

/-- A chain's PASS descriptor is released for a generation, or ends with PASS_CANCELLED, on the streams of a stall. -/
def State.passChains (s : State) (n : StallId) (p : PassId) (gen : Option Nat) : State :=
  (List.finRange 8).foldl (fun s t =>
    match (vget (s.stall n).streams t).chain with
    | some c => match c.phase with
      | .pass q g =>
        if q = p then
          match gen with
          | some k => if g = k then s.descDone n t else s
          | none => s.endChain n t oPassCancelled
        else s
      | _ => s
    | none => s) s

/-- The Pass wait of a stall ends with an outcome, if it waits at p (for the generation given). -/
def Stall.passEnd (x : Stall) (p : PassId) (gen : Option Nat) (o : Byte) : Stall :=
  match x.matrix with
  | .passWait r q g l =>
    if q = p ∧ r.outcome.isNone ∧ gen.all (· == g) = true then { x with matrix := .passWait { r with outcome := some o } q g l } else x
  | _ => x

/-- Group g of Pass p is released for the oldest generation that has not released it (R255): its waiters complete and its
descriptors proceed; at group 0 GEN increments. -/
def passReleaseEffect (p : PassId) (g : Fin 8) (s : State) : State :=
  let x := s.pass p
  match x.waves.find? fun w => !w.done.contains g with
  | none => s
  | some w =>
    match w.release with
    | none => s
    | some t =>
      if x.en ∧ ((List.finRange 8).all fun h => decide (h < g) → w.done.contains h) = true ∧ s.reached (t + ns (8 * g.val : Nat)) = true then
        let w' := { w with done := w.done ++ [g] }
        let waves := x.waves.filterMap fun y => if y.gen = w.gen then (if w'.done.length = 8 then none else some w') else some y
        let s1 := s.modPass p fun x => { x with waves := waves, gen := if g = 0 then x.gen + 1 else x.gen }
        ((List.finRange 64).filter fun n => groupOf n == g).foldl (fun s n =>
          (s.modStall n fun y => y.passEnd p (some w.gen) oDone).passChains n p (some w.gen)) s1
      else s

def execPassRelease (p : PassId) (g : Fin 8) (s : State) : Host.Outcome State Fault Refusal := .next (passReleaseEffect p g s)

/-- A member's stamp of a joined Pass arrives (R256). -/
def passStampEffect (p : PassId) (d : DeviceId) (stamp : Int) (s : State) : State :=
  if (s.pass p).joined ∧ (s.pass p).en ∧ s.join.member d = true then
    (s.modPass p fun x => { x with members := x.members ++ [(d, stamp)] }).settlePass p
  else s

def execPassStamp (p : PassId) (d : DeviceId) (stamp : Int) (s : State) : Host.Outcome State Fault Refusal :=
  .next (passStampEffect p d stamp s)

/-- WAIT_MAX_NS of a Pass wait elapses (R254). -/
def passTimeoutEffect (n : StallId) (s : State) : State :=
  match (s.stall n).matrix with
  | .passWait r p g (some l) =>
    if r.outcome.isNone ∧ s.reached l = true then
      (s.setMatrix n (.passWait { r with outcome := some oPassTimeout } p g (some l))).tdc .tdcSched (descOf r.desc).cell 1
    else s
  | _ => s

def execPassTimeout (n : StallId) (s : State) : Host.Outcome State Fault Refusal := .next (passTimeoutEffect n s)

/-- A write to PASS_CFG_p (R252, R256): while enabled, TARGET and JOINED stay; EN = 0 cancels what waits. -/
def passCfgEffect (p : PassId) (v : Word) (s : State) : State :=
  let x := s.pass p
  let on := wbit v 31
  let s1 := s.modPass p fun x => if x.en then { x with en := on } else
    { x with en := on, joined := wbit v 30, target := BitVec.ofNat 12 (fld v 11 0) }
  if x.en && !on then
    let s2 := s1.modPass p fun x => { x with waves := [], arrived := 0, members := [] }
    (List.finRange 64).foldl (fun s n => (s.modStall n fun y => y.passEnd p none oPassCancelled).passChains n p none) s2
  else s1

def execPassCfgWrite (p : PassId) (v : Word) (s : State) : Host.Outcome State Fault Refusal := .next (passCfgEffect p v s)

end Sys2Proof.Machine
end

