-- ==== Sys2Proof/Machine/MbOps.lean ====
section
/-! DEFINITION. The mailboxes (R427-R434): rings and answers, the items of a request, and the shared frame of every mailbox
command. Log entry 21 names the readings. -/
namespace Sys2Proof.Machine

def State.mb (s : State) (m : MboxId) : Mailbox := vget s.host.mbox m

def State.modMb (s : State) (m : MboxId) (f : Mailbox → Mailbox) : State :=
  { s with host := { s.host with mbox := vmod s.host.mbox m f } }

/-- Hall is absent: in safe state (R361), not loaded, or in its reset (R358). -/
def State.hallAbsent (s : State) : Bool := s.wh.safe || !s.sec.hallRun || s.wh.hallDown.isSome

/-! ### Status codes (Table 15-7) -/

def stOk : Nat := 0
def stBusy : Nat := 1
def stBadArg : Nat := 2
def stDenied : Nat := 3
def stConflict : Nat := 4
def stTimeout : Nat := 5
def stNoResource : Nat := 6
def stFault : Nat := 7
def stNotReady : Nat := 8
def stVersion : Nat := 9

/-! ### Answers (R428, Table 15-5) -/

/-- A response: header and items. -/
def mbResponse (m : MboxId) (cmd seq status detail : Nat) (items : List Byte) : List Byte :=
  natLE 2 3 ++ natLE 2 cmd ++ natLE 2 seq ++ [BitVec.ofNat 8 status, BitVec.ofNat 8 m.val] ++ natLE 4 items.length
    ++ natLE 4 detail ++ items

/-- The bytes of the response page that hold the stored response. -/
def Mailbox.stored (x : Mailbox) : List Byte := memRead x.resp 0 (16 + memNat x.resp 8 4)

/-- A response goes back by its request's path (R427). -/
def State.mbSend (s : State) (m : MboxId) (p : MbPath) (bs : List Byte) : State :=
  match p with
  | .registers => s
  | .endpoint1 => s.send (.usbMailbox m bs)
  | .roce q => s.roceSend q 0 0 0 bs bs.length

/-- MAILBOX_DONE (Table 15-10). -/
def State.mbDone (s : State) (m : MboxId) (status seq cmd : Nat) : State :=
  s.raise 0x0F02 (evtSource 7 m.val) ([BitVec.ofNat 8 m.val, BitVec.ofNat 8 status] ++ natLE 2 seq ++ natLE 2 cmd)

/-- The status leaves LAST_SEQ and DONE as they are (R429). -/
def keepsDone (status : Nat) : Bool := status == stBusy || status == stTimeout || status == stNotReady

/-- Hall answers a command (R428 step 4, R429). -/
def State.mbAnswer (s : State) (m : MboxId) (cmd seq status detail : Nat) (items : List Byte) : State :=
  let x := s.mb m
  let bs := mbResponse m cmd seq status detail items
  let s1 := s.modMb m fun x => { x with
    resp := memWrite x.resp 0 bs, busy := false, phase := .idle
    done := if keepsDone status then x.done else true
    lastSeq := if keepsDone status then x.lastSeq else x.seq }
  let s2 := { s1 with host := { s1.host with order := s1.host.order.filter (· ≠ m) } }
  (if x.noEvent then s2 else s2.mbDone m status seq cmd).mbSend m x.path bs

/-- The controller answers NOT_READY for an absent Hall: the header goes to the response page and back by the path, LAST_SEQ and
DONE stay (R429, R431). -/
def State.mbAbsent (s : State) (m : MboxId) (seq : BitVec 16) (p : MbPath) : State :=
  let bs := mbResponse m (memNat (s.mb m).req 2 2) seq.toNat stNotReady 0 []
  (s.modMb m fun x => { x with resp := memWrite x.resp 0 bs, busy := false, phase := .idle }).mbSend m p bs

/-- Hall goes: every command that runs or waits is answered NOT_READY (R431). -/
def State.mbHallGone (s : State) : State :=
  let s1 := (List.finRange 8).foldl (fun s m => if (s.mb m).busy then s.mbAbsent m (s.mb m).seq (s.mb m).path else s) s
  { s1 with host := { s1.host with order := [] }
            time := { s1.time with stepPend := s1.time.stepPend.map fun _ => none } }

/-! ### Items (R433) -/

structure MItem where
  id : Nat
  val : List Byte
  /-- Byte offset in the item area. -/
  off : Nat
deriving DecidableEq, Repr

/-- The items of bytes at an offset; none with the offset of the first that does not fit. -/
def parseItems : Nat → Nat → List Byte → List MItem × Option Nat
  | 0, off, bs => ([], if bs = [] then none else some off)
  | fuel + 1, off, bs =>
    if bs = [] then ([], none)
    else
      let n := bytesNat bs 2 2
      let full := 4 + alignUp n 4
      if bs.length < full then ([], some off)
      else
        let r := parseItems fuel (off + full) (bs.drop full)
        (⟨bytesNat bs 0 2, (bs.drop 4).take n, off⟩ :: r.1, r.2)

/-- The first faulty item: repeated, not taken by the command, or out of its range. allow answers none for an identifier that
the command does not take. -/
def firstFault (allow : Nat → List Byte → Option Bool) : List Nat → List MItem → Option Nat
  | _, [] => none
  | seen, i :: l =>
    if seen.contains i.id ∨ allow i.id i.val ≠ some true then some i.off else firstFault allow (i.id :: seen) l

/-- A number in 1-8 bytes within [lo, hi]. -/
def inRange (lo hi : Nat) (v : List Byte) : Bool :=
  decide (1 ≤ v.length) && decide (v.length ≤ 8) && decide (lo ≤ leNat v) && decide (leNat v ≤ hi)

/-- A value of n bytes. -/
def sized (n : Nat) (v : List Byte) : Bool := decide (v.length = n)

def itemVal (l : List MItem) (id : Nat) : Option (List Byte) := (l.find? fun i => i.id == id).map (·.val)

def itemNum (l : List MItem) (id : Nat) : Option Nat := (itemVal l id).map leNat

/-- An item of a response, padded to a multiple of 4 bytes. -/
def itemBytes (id : Nat) (v : List Byte) : List Byte :=
  natLE 2 id ++ natLE 2 v.length ++ v ++ List.replicate (alignUp v.length 4 - v.length) 0

/-- Offset in the request of the item with that identifier; of the first item where there is none (log entry 21). -/
def itemOffset (l : List MItem) (id : Nat) : Nat := 16 + ((l.find? fun i => i.id == id).map (·.off)).getD 0

/-! ### The header of a request (R428 step 3, R432) -/

def mbCommands : List Nat :=
  [0x01, 0x02, 0x03, 0x04, 0x05, 0x06, 0x10, 0x11, 0x12, 0x13, 0x20, 0x21, 0x22, 0x23, 0x24, 0x25, 0x26, 0x27, 0x28, 0x29,
   0x2A, 0x2B, 0x2C, 0x2D, 0x2E, 0x30, 0x31, 0x32, 0x33, 0x34, 0x35, 0x40, 0x41, 0x50, 0x51, 0x52]

/-- Commands marked B (Table 15-8). -/
def mbBackground (code : Nat) : Bool := [0x05, 0x10, 0x11, 0x2C, 0x2D, 0x2E].contains code

def Mailbox.command (x : Mailbox) : Nat := memNat x.req 2 2

/-- Status and DETAIL of a faulty header. -/
def Mailbox.headerFault (x : Mailbox) (m : MboxId) : Option (Nat × Nat) :=
  if memNat x.req 4 2 ≠ x.seq.toNat then some (stBadArg, 4)
  else if memNat x.req 6 1 ≠ m.val then some (stBadArg, 6)
  else if memNat x.req 0 2 ≠ 3 then some (stVersion, 0)
  else if 4080 < memNat x.req 8 4 ∨ memNat x.req 8 4 % 4 ≠ 0 then some (stBadArg, 8)
  else if 2 ≤ memNat x.req 7 1 then some (stBadArg, 7)
  else if memNat x.req 12 4 ≠ 0 then some (stBadArg, 12)
  else if mbCommands.contains x.command = false then some (stBadArg, 2)
  else none

/-- NO_EVENT of the request. -/
def Mailbox.quiet (x : Mailbox) : Bool := memNat x.req 7 1 % 2 == 1

/-! ### Taking commands (R430) -/

/-- Hall is held by a command that it runs to its end. -/
def State.mbHeld (s : State) : Bool :=
  (vlist s.host.mbox).any fun x =>
    match x.phase with
    | .taken b _ _ _ _ _ => !b
    | _ => false

/-- Commands in the background, and whether one of them names that cell. -/
def State.mbBack (s : State) : List (Option CellId) :=
  (vlist s.host.mbox).filterMap fun x =>
    match x.phase with
    | .taken true _ c _ _ _ => some c
    | _ => none

/-- Commands with a faulty header at the front of the order are answered as Hall takes them. -/
def State.mbSettle (s : State) : Nat → State
  | 0 => s
  | n + 1 =>
    match s.host.order with
    | [] => s
    | m :: _ =>
      if s.hallAbsent ∨ s.mbHeld then s
      else
        let x := s.mb m
        match x.headerFault m with
        | some f =>
          ((s.modMb m fun x => { x with noEvent := x.quiet }).mbAnswer m x.command (memNat x.req 4 2) f.1 f.2 []).mbSettle n
        | none => s

/-- A doorbell (R428, R429, R431). -/
def State.ring (s : State) (m : MboxId) (seq : BitVec 16) (p : MbPath) : State :=
  let x := s.mb m
  if s.hallAbsent then s.mbAbsent m seq p
  else if x.busy then
    if x.seq = seq then s
    else
      (s.modMb m fun x => { x with overrun := true }).mbSend m p (mbResponse m x.command seq.toNat stBusy 0 [])
  else if x.done ∧ seq = x.lastSeq then
    let bs := x.stored
    (if x.noEvent then s else s.mbDone m (bytesNat bs 6 1) (bytesNat bs 4 2) (bytesNat bs 2 2)).mbSend m p bs
  else
    let s1 := s.modMb m fun x => { x with busy := true, done := false, seq := seq, path := p, phase := .rung }
    ({ s1 with host := { s1.host with order := s1.host.order ++ [m] } }).mbSettle 8

/-- A transfer or a SEND with a request (R427): bound elsewhere, it is answered DENIED; naming no mailbox, or no page, BAD_ARG
(log entry 21). -/
def State.mbTransfer (s : State) (p : MbPath) (bs : List Byte) : State :=
  let cmd := bytesNat bs 2 2
  let seq := bytesNat bs 4 2
  let k := bytesNat bs 6 1
  let m : MboxId := ⟨k % 8, Nat.mod_lt _ (by decide)⟩
  if bs.length < 7 ∨ 8 ≤ k then s.mbSend m p (mbResponse m cmd seq stBadArg 6 [])
  else if bs.length < 16 ∨ 4096 < bs.length then s.mbSend m p (mbResponse m cmd seq stBadArg 8 [])
  else
    let x := s.mb m
    let bound := match p with
      | .roce q => x.transport && x.qp.toNat == q.val
      | _ => !x.transport
    if bound then (s.modMb m fun x => { x with req := memWrite x.req 0 bs }).ring m (BitVec.ofNat 16 seq) p
    else s.mbSend m p (mbResponse m cmd seq stDenied 0 [])

/-! ### The frame of a command -/

/-- What a command answers, and the state it leaves. -/
structure Reply where
  status : Nat
  detail : Nat
  items : List Byte
  after : State

def Reply.ok (s : State) (items : List Byte := []) : Reply := ⟨stOk, 0, items, s⟩

def Reply.bad (s : State) (status detail : Nat) : Reply := ⟨status, detail, [], s⟩

/-- The cell that a command names, by TARGET, CELL or none. -/
def itemsCell (l : List MItem) : Option CellId :=
  match itemNum l 0x101 with
  | some c => if h : c < 16 then some ⟨c, h⟩ else none
  | none =>
    match itemNum l 1 with
    | some t => if h : t < 16 then some ⟨t, h⟩ else none
    | none => none

/-- Items of the request in a mailbox. -/
def Mailbox.items (x : Mailbox) : List MItem × Option Nat :=
  parseItems 1024 0 (memRead x.req 16 (memNat x.req 8 4))

/-- Commands that Hall takes before READY (R458, R461). -/
def State.bootTakes (s : State) (code : Nat) : Bool :=
  code == 0x01 || code == 0x12 || (code == 0x10 && s.sec.failed.isSome)

/-- Hall takes the command of mailbox m now: it is first in doorbell order, its header is good, its code is this one, nothing
holds Hall, at most 4 commands run in the background, and none of them for the same cell (R430). -/
def State.mbTakes (s : State) (m : MboxId) (code : Nat) : Bool :=
  let x := s.mb m
  !s.hallAbsent && !s.mbHeld && s.host.order.head? == some m && x.headerFault m == none && x.command == code
    && (!mbBackground code || decide (s.mbBack.length < 4))
    && (match itemsCell x.items.1 with
        | some c => !s.mbBack.contains (some c)
        | none => true)

/-- How a command is answered once taken: now, once its background work is done, or once what holds Hall is over (R430). -/
inductive Hold where
  | now
  | background
  | foreground
deriving DecidableEq, Repr

/-- Hall runs the command of mailbox m: a fault of its items is answered; before READY most commands are NOT_READY (R434);
otherwise f gives the reply. -/
def State.mbCommand (s : State) (m : MboxId) (code : Nat) (allow : Nat → List Byte → Option Bool)
    (f : List MItem → State → Reply × Hold) : State :=
  if s.mbTakes m code then
    let x := s.mb m
    let s0 := s.modMb m fun x => { x with noEvent := x.quiet }
    let p := x.items
    let bad := match firstFault allow [] p.1 with
      | some o => some o
      | none => p.2
    let r : Reply × Hold := match bad with
      | some o => (Reply.bad s0 stBadArg (16 + o), .now)
      | none => if s.sec.ready || s.bootTakes code then f p.1 s0 else (Reply.bad s0 stNotReady 0, .now)
    let s1 := r.1.after
    if r.2 = .now ∨ r.1.status ≠ stOk then (s1.mbAnswer m code x.seq.toNat r.1.status r.1.detail r.1.items).mbSettle 8
    else
      ({ s1 with host := { s1.host with order := s1.host.order.filter (· ≠ m) } }.modMb m fun x => { x with
        phase := .taken (decide (r.2 = Hold.background)) code (itemsCell p.1) r.1.status r.1.detail r.1.items }).mbSettle 8
  else s

/-- A command that Hall has taken is answered; what it waited for is over. -/
def State.mbRelease (s : State) (m : MboxId) : State :=
  match (s.mb m).phase with
  | .taken _ code _ status detail items => (s.mbAnswer m code (s.mb m).seq.toNat status detail items).mbSettle 8
  | _ => s

/-- The same with another answer. -/
def State.mbReleaseWith (s : State) (m : MboxId) (status detail : Nat) (items : List Byte) : State :=
  match (s.mb m).phase with
  | .taken _ code _ _ _ _ => (s.mbAnswer m code (s.mb m).seq.toNat status detail items).mbSettle 8
  | _ => s

/-- A command whose response is answered at once. -/
def State.mbNow (s : State) (m : MboxId) (code : Nat) (allow : Nat → List Byte → Option Bool)
    (f : List MItem → State → Reply) : State :=
  s.mbCommand m code allow fun l s => (f l s, .now)

/-! ### Doorbells -/

/-- MB_DOORBELL (R428, R429): ignored on a mailbox bound to RoCEv2 (R427). Hall needs no doorbell of its own mailboxes; its
write acts alike. -/
def mbDoorbellEffect (m : MboxId) (v : Word) (s : State) : State :=
  if (s.mb m).transport then s else s.ring m (v.setWidth 16) .registers

def execMbDoorbell (_ : Agent) (m : MboxId) (v : Word) (s : State) : Host.Outcome State Fault Refusal := .next (mbDoorbellEffect m v s)

/-- MAILBOX_TRANSFER: a transfer on endpoint 1 OUT (R427), which only an enumerated host can make. -/
def mailboxTransferEffect (bs : List Byte) (s : State) : State :=
  if s.host.usbConfigured ∧ s.sec.phase ≠ .rom then s.mbTransfer .endpoint1 bs else s

def execMailboxTransfer (bs : List Byte) (s : State) : Host.Outcome State Fault Refusal := .next (mailboxTransferEffect bs s)

end Sys2Proof.Machine
end

