-- ==== Sys2Proof/Machine/Time.lean ====
section
/-! DEFINITION. The time base (R312-R319, R327-R332) and Hall's servo with PTP (R320-R325). Log entries 1, 4 and 24 name the
readings. -/
namespace Sys2Proof.Machine

def State.modTime (s : State) (f : TimeBase → TimeBase) : State := { s with time := f s.time }
def State.modServo (s : State) (f : Servo → Servo) : State := s.modTime fun t => { t with servo := f t.servo }

/-! ### Rate and step (R314, R317, R318) -/

/-- TB_RATE as it reads: the value written last. -/
def TimeBase.rateReg (t : TimeBase) : Word := t.ratePend.getD t.rate

def tbRateWriteEffect (v : Word) (s : State) : State := s.modTime fun t => { t with ratePend := some v }

def execTbRateWrite (v : Word) (s : State) : Host.Outcome State Fault Refusal := .next (tbRateWriteEffect v s)

/-- The rate takes effect: the anchor moves to now, then the rate changes. -/
def TimeBase.applyRate (t : TimeBase) : TimeBase :=
  match t.ratePend with
  | some r => { t with anchorT := t.ptp, anchorC := t.cnt, rate := r, ratePend := none }
  | none => t

def rateApplyEffect (s : State) : State := s.modTime TimeBase.applyRate

def execRateApply (s : State) : Host.Outcome State Fault Refusal := .next (rateApplyEffect s)

/-- TB_STEP_CTRL: the fraction, and a request with GO. -/
def tbStepGoEffect (v : Word) (s : State) : State :=
  s.modTime fun t => { t with
    stepFrac := (v >>> 16).setWidth 16
    stepPend := if wbit v 0 then t.stepPend ++ [none] else t.stepPend }

def execTbStepGo (v : Word) (s : State) : Host.Outcome State Fault Refusal := .next (tbStepGoEffect v s)

/-- The signed amount of the step in units of 2^-16 ns. -/
def TimeBase.stepAmount (t : TimeBase) : Int :=
  (t.stepSHi ++ t.stepSLo).toInt * 65536000000000 + (t.stepNs.toNat : Int) * 65536 + t.stepFrac.toNat

/-- The amount in the layout of Table 11-1. -/
def TimeBase.stepBytes (t : TimeBase) : List Byte :=
  natLE 6 (t.stepSHi ++ t.stepSLo).toNat ++ natLE 4 t.stepNs.toNat ++ natLE 2 t.stepFrac.toNat

/-- One GO is judged (R317, R318). -/
def State.judgeGo (s : State) (who : Option MboxId) : State :=
  if s.time.stepped then
    let s1 := (s.devInc .tbStepDenied).modTime fun t => { t with denied := true }
    match who with
    | some m => s1.mbReleaseWith m stDenied 0 []
    | none => s1
  else
    let d := s.time.stepAmount
    let s1 := s.modTime fun t => { t with
      anchorT := t.anchorT + d, stepped := true, denied := false
      servo := { t.servo with exchanges := 0, run := 0, offsets := [], sync := none, delayReq := none
                              lastExchange := t.servo.lastExchange + d } }
    let s2 := s1.modTime fun t => { t with ppsLast := nsOf t.ptp / 1000000000 }
    let s3 := s2.raise 0x0B02 0 s.time.stepBytes
    match who with
    | some m => s3.mbRelease m
    | none => s3

/-- The requests of the tick, after its rate change. -/
def stepJudgeEffect (s : State) : State :=
  let gos := s.time.stepPend
  if gos = [] then s
  else gos.foldl State.judgeGo ((rateApplyEffect s).modTime fun t => { t with stepPend := [] })

def execStepJudge (s : State) : Host.Outcome State Fault Refusal := .next (stepJudgeEffect s)

/-- One tick of the time-base clock: CNT, then a rate change, then the step requests, and what the Valley links serve meanwhile (R312,
R314, R317, R386; log entry 1). -/
def tickEffect (s : State) : State :=
  (stepJudgeEffect (rateApplyEffect (s.modTime fun t => { t with cnt := t.cnt + 1 }))).serveLinks

/-- A read of TB_NOW_FRAC latches the time and CNT (R316). -/
def tbNowLatchEffect (s : State) : State :=
  let n := nsOf s.now
  let sec : BitVec 48 := BitVec.ofInt 48 (n / 1000000000)
  s.modTime fun t => { t with
    nowNs := BitVec.ofInt 30 (n % 1000000000), nowSLo := sec.setWidth 32, nowSHi := (sec >>> 32).setWidth 16
    nowCntLo := t.cnt.setWidth 32, nowCntHi := (t.cnt >>> 32).setWidth 32 }

def execTbNowLatch (_ : Agent) (s : State) : Host.Outcome State Fault Refusal := .next (tbNowLatchEffect s)

/-! ### Plan registration (R329) -/

def TimeBase.planCell (t : TimeBase) : CellId := cellOf (fld t.planSlot 27 24)

/-- The registration that TB_PLAN_SLOT and an address make; none where it is refused before the entries are looked at. -/
def State.planReg (s : State) (addr : Word) : Option PlanReg :=
  match vget s.time.timing s.time.planCell with
  | none => none
  | some f =>
    let slot := fld s.time.planSlot 6 0
    if s.time.stepped ∧ slot < slotsPerFrame f.mu then
      let a : AirSlot := ⟨⟨fld s.time.planSlot 17 8 % 1024, Nat.mod_lt _ (by decide)⟩, ⟨slot % 80, Nat.mod_lt _ (by decide)⟩⟩
      let start := f.start (f.absOf s.now a)
      let release := start - ns (s.planLeadOf s.time.planCell (f.absOf s.now a) * 1000 : Nat)
      if s.reached release then none else some ⟨a, addr, nsOf start, nsOf release⟩
    else none

def planRegisterEffect (addr : Word) (s : State) : State :=
  let c := s.time.planCell
  let l := vget s.time.plans c
  match s.planReg addr with
  | none => s.devInc .tbPlanRefused
  | some p =>
    if l.any fun q => q.slot == p.slot then
      (s.devInc .tbPlanReplaced).modTime fun t => { t with
        plans := vset t.plans c (l.map fun q => if q.slot = p.slot then p else q) }
    else if 4 ≤ l.length then s.devInc .tbPlanRefused
    else s.modTime fun t => { t with plans := vset t.plans c (l ++ [p]) }

def execPlanRegister (_ : Agent) (addr : Word) (s : State) : Host.Outcome State Fault Refusal := .next (planRegisterEffect addr s)

/-! ### TIME_IO and GPIO7 (R330-R332) -/

def timeIoMask : Word := 0x3737

/-- The function that drives or reads TIME_IO: selected and enabled. -/
def ioActive (v : Word) (f : Nat) : Bool := fld v 5 4 == f && wbit v (f - 1)

/-- The same of GPIO7: 0 capture, 1 mirror. -/
def g7Active (v : Word) (f : Nat) : Bool := fld v 10 10 == f && wbit v (8 + f)

/-- An enabled function is not selected. -/
def ioConflict (v : Word) : Bool :=
  (wbit v 0 && fld v 5 4 != 1) || (wbit v 1 && fld v 5 4 != 2) || (wbit v 2 && fld v 5 4 != 3)
    || (wbit v 8 && fld v 10 10 != 0) || (wbit v 9 && fld v 10 10 != 1)

/-- TIME_IO_SEL is written; a newly selected function counts its captures from 0, and PPS starts at the next second. -/
def timeIoSelWriteEffect (value : Word) (s : State) : State :=
  let old := s.time.ioSel
  let v := value &&& timeIoMask
  let t0 := s.time
  let n := (nsOf s.now - 1) / 1000000000
  let s1 := { s with time := { t0 with
    ioSel := v
    capCount := vgen 2 fun i =>
      if (i.val = 0 ∧ fld old 5 4 ≠ fld v 5 4) ∨ (i.val = 1 ∧ fld old 10 10 ≠ fld v 10 10) then 0 else vget t0.capCount i
    ppsLast := if ioActive v 1 ∧ ioActive old 1 = false then n else t0.ppsLast
    ppsHigh := if ioActive v 1 then t0.ppsHigh else none } }
  if ioConflict v then s1.devInc .pinConflict else s1

def execTimeIoSelWrite (v : Word) (s : State) : Host.Outcome State Fault Refusal := .next (timeIoSelWriteEffect v s)

/-- High time of the PPS output in µs (Table 11-20). -/
def TimeBase.ppsUs (t : TimeBase) : Nat := max 1 (min 500000 (fld t.pps 18 0))

/-- The PPS output rises at a whole second that it has not risen for. -/
def ppsOutputEffect (s : State) : State :=
  let sec := s.nowNs / 1000000000
  if s.time.stepped ∧ ioActive s.time.ioSel 1 ∧ s.time.ppsLast < sec then
    s.modTime fun t => { t with ppsLast := sec, ppsHigh := some (ns (sec * 1000000000 + (t.ppsUs * 1000 : Nat))) }
  else s

def execPpsOutput (s : State) : Host.Outcome State Fault Refusal := .next (ppsOutputEffect s)

/-- An edge on a capture input; its record's time is within ±4 ns of the edge. -/
def timeIoCaptureEffect (gpio7 : Bool) (s : State) : State :=
  let i : Fin 2 := if gpio7 then 1 else 0
  let active := if gpio7 then g7Active s.time.ioSel 0 else ioActive s.time.ioSel 2
  if active then
    let close := match vget s.time.capLast i with
      | some t => decide (nsOf (s.up - t) < 1000)
      | none => false
    if close then s.devInc .tbCapOverrun
    else
      let n := vget s.time.capCount i + 1
      let at_ := s.now + ((s.freeBits 0).toNat % 524289 : Nat) - 262144
      ((s.drew 1).modTime fun t => { t with capCount := vset t.capCount i n, capLast := vset t.capLast i (some s.up) }).raiseAt
        at_ 0x0B01 0 ([BitVec.ofNat 8 i.val, 0, 0, 0] ++ natLE 4 n)
  else s

def execTimeIoCapture (gpio7 : Bool) (s : State) : Host.Outcome State Fault Refusal := .next (timeIoCaptureEffect gpio7 s)

/-! ### The servo (R320, R334) -/

/-- A measured offset as the event records hold it. -/
def offsetField (x : Int) : List Byte := intLE 4 (clampInt (-2147418112) 2147418112 x)

/-- TIME_LOCKED. -/
def State.timeLocked (s : State) : State :=
  let v := s.time.servo
  (s.modServo fun v => { v with locked := true, alarm := false }).raise 0x0B03 0
    ([BitVec.ofNat 8 v.source, 0] ++ natLE 2 (min 65535 v.exchanges) ++ offsetField v.lastOffset ++ natLE 4 s.time.rateReg.toNat)

/-- TIME_ALARM: the time is not LOCKED, and master ports stop (R322). -/
def State.timeAlarm (s : State) (reason : Byte) : State :=
  let v := s.time.servo
  (s.modServo fun v => { v with locked := false, alarm := true, run := 0, ports := vmap (fun p => { p with master := false }) v.ports }).raise
    0x0B04 0 ([BitVec.ofNat 8 v.source, reason, 0, 0] ++ offsetField v.lastOffset ++ natLE 4 s.time.rateReg.toNat)

/-- The step request from the first offset estimate: the estimate lies between the least and the greatest of the measured
offsets; how Hall forms it the spec does not say, so it is free within them (log entry 24). -/
def State.servoStep (s : State) : State :=
  let l := s.time.servo.offsets
  let lo := l.foldl min (l.headD 0)
  let hi := l.foldl max (l.headD 0)
  let est := lo + ((s.freeBits 0).toNat % ((hi - lo).toNat + 1) : Nat)
  let d := -est
  let sec : BitVec 48 := BitVec.ofInt 48 (d / 65536000000000)
  let rest := d % 65536000000000
  (s.drew 1).modTime fun t => { t with
    stepSLo := sec.setWidth 32, stepSHi := (sec >>> 32).setWidth 16, stepNs := BitVec.ofInt 30 (rest / 65536)
    stepFrac := BitVec.ofInt 16 (rest % 65536), stepPend := t.stepPend ++ [none] }

/-- A complete exchange with a measured offset. -/
def State.exchange (s : State) (offset : Int) (newRate : Word) : State :=
  let s1 := s.modServo fun v => { v with
    lastOffset := offset, lastExchange := s.now, sync := none, delayReq := none
    exchanges := if s.time.stepped then v.exchanges + 1 else v.exchanges
    run := if -3276800 ≤ offset ∧ offset ≤ 3276800 then v.run + 1 else 0
    offsets := if s.time.stepped then v.offsets else v.offsets ++ [offset] }
  if s.time.stepped = false then
    if 4 ≤ s1.time.servo.offsets.length ∧ s1.time.stepPend = [] then s1.servoStep else s1
  else if (offset < -65536000 ∨ 65536000 < offset) ∧ s1.time.servo.alarm = false then s1.timeAlarm 0
  else
    let s2 := tbRateWriteEffect newRate s1
    if 16 ≤ s2.time.servo.run ∧ s2.time.servo.locked = false then s2.timeLocked else s2

/-- No usable exchange for 2 s. -/
def noExchangeTimeoutEffect (s : State) : State :=
  if s.hallAbsent = false ∧ s.time.servo.alarm = false ∧ s.reached (s.time.servo.lastExchange + ns 2000000000) then s.timeAlarm 1 else s

def execNoExchangeTimeout (s : State) : Host.Outcome State Fault Refusal := .next (noExchangeTimeoutEffect s)

/-! ### PTP (R321-R325) -/

/-- The port takes PTP frames, and Hall is there to follow them. -/
def State.ptpOn (s : State) (p : PortId) : Bool := s.portOn p && (s.port p).mode != 0

/-- A PTP frame on a port: f for one that needs nothing unsupported; another is counted as malformed, and so is any in mode 0
(R283). -/
def State.ptpFrame (s : State) (p : PortId) (supported : Bool) (f : State → State) : State :=
  if s.ptpOn p then
    if supported then (if s.hallAbsent then s else f s) else s.rxDiscard p .malformed
  else if s.portOn p then s.rxDiscard p .malformed
  else s

/-- The stamp of a PTP frame that leaves now, as soon as it may start (R306, R323). -/
def State.txStamp (s : State) (p : PortId) : Int := s.stampAt p (s.departs p none Config.ptpFrame)

/-- The port is the slave port. -/
def State.isSlave (s : State) (p : PortId) : Bool := s.time.servo.source == p.val

/-- A Sync: its arrival, less its correction, and its origin unless a Follow_Up brings it. -/
def syncReceiveEffect (p : PortId) (m : PtpMsg) (s : State) : State :=
  s.ptpFrame p m.supported fun s =>
    if s.isSlave p then
      let at_ := s.stamp p
      (s.drew 1).modServo fun v => { v with sync := some ⟨m.seqId, if m.twoStep then none else some m.origin, at_ - m.correction⟩ }
    else s

def execSyncReceive (p : PortId) (m : PtpMsg) (s : State) : Host.Outcome State Fault Refusal := .next (syncReceiveEffect p m s)

def followUpReceiveEffect (p : PortId) (m : PtpMsg) (s : State) : State :=
  s.ptpFrame p m.supported fun s =>
    if s.isSlave p then
      s.modServo fun v => { v with sync := v.sync.map fun x =>
        if x.seqId = m.seqId ∧ x.origin = none then { x with origin := some (m.origin + m.correction) } else x }
    else s

def execFollowUpReceive (p : PortId) (m : PtpMsg) (s : State) : Host.Outcome State Fault Refusal := .next (followUpReceiveEffect p m s)

/-- The slave port sends a Delay_Req; its departure stamp goes to Hall (R324). -/
def delayReqTransmitEffect (p : PortId) (seqId : BitVec 16) (s : State) : State :=
  if s.ptpOn p ∧ s.isSlave p ∧ s.hallAbsent = false then
    let at_ := s.txStamp p
    (((s.drew 1).modServo fun v => { v with delayReq := some (seqId, at_) }).send (.ptp p 1 seqId at_ 0))
  else s

def execDelayReqTransmit (p : PortId) (seqId : BitVec 16) (s : State) : Host.Outcome State Fault Refusal :=
  .next (delayReqTransmitEffect p seqId s)

/-- A Delay_Resp completes the exchange: half the difference of the two one-way readings is the offset. -/
def delayRespReceiveEffect (p : PortId) (m : PtpMsg) (newRate : Word) (s : State) : State :=
  s.ptpFrame p m.supported fun s =>
    match s.isSlave p, s.time.servo.delayReq, s.time.servo.sync with
    | true, some (seqId, t3), some ⟨_, some t1, t2⟩ =>
      if seqId = m.seqId then s.exchange (((t2 - t1) - (m.origin - m.correction - t3)) / 2) newRate else s
    | _, _, _ => s

def execDelayRespReceive (p : PortId) (m : PtpMsg) (newRate : Word) (s : State) : Host.Outcome State Fault Refusal :=
  .next (delayRespReceiveEffect p m newRate s)

/-- An Announce heard on a port. -/
def announceReceiveEffect (p : PortId) (m : AnnounceMsg) (s : State) : State :=
  s.ptpFrame p m.supported fun s =>
    s.modServo fun v => { v with ports := vmod v.ports p fun x => { x with best := some m.rank, heard := s.up } }

def execAnnounceReceive (p : PortId) (m : AnnounceMsg) (s : State) : Host.Outcome State Fault Refusal := .next (announceReceiveEffect p m s)

/-- The best Announce heard on a port within the last 3 Announce intervals of 125 ms (PRESUMED: the receipt timeout of G.8275.1, log entry
24). -/
def State.bestOn (s : State) (p : PortId) : Option Nat :=
  let x := vget s.time.servo.ports p
  if s.up - x.heard < ns 375000000 then x.best else none

/-- A port may act as master: not the slave port, the time is LOCKED, and no better master is heard on it (R321, R322). -/
def State.mayMaster (s : State) (p : PortId) : Bool :=
  let v := s.time.servo
  s.ptpOn p && !s.isSlave p && v.locked && !s.hallAbsent &&
    match s.bestOn p, (if h : v.source < 4 then s.bestOn ⟨v.source, h⟩ else none) with
    | some here, some up => decide (up ≤ here)
    | some _, none => false
    | none, _ => true

def State.setMaster (s : State) (p : PortId) : State := s.modServo fun v => { v with ports := vmod v.ports p fun x => { x with master := true } }

/-- A master port sends a Sync: one-step with the seconds and nanoseconds of its departure, the fraction in the correction; in
two-step mode its Follow_Up carries them (R324). -/
def syncTransmitEffect (p : PortId) (seqId : BitVec 16) (twoStep : Bool) (s : State) : State :=
  if s.mayMaster p then
    let at_ := s.txStamp p
    let whole := nsOf at_ * 65536
    let s1 := (s.drew 1).setMaster p
    if twoStep then (s1.send (.ptp p 0x80 seqId at_ 0)).send (.ptp p 8 seqId whole (at_ - whole))
    else s1.send (.ptp p 0 seqId whole (at_ - whole))
  else s

def execSyncTransmit (p : PortId) (seqId : BitVec 16) (twoStep : Bool) (s : State) : Host.Outcome State Fault Refusal :=
  .next (syncTransmitEffect p seqId twoStep s)

def announceTransmitEffect (p : PortId) (s : State) : State :=
  if s.mayMaster p then (s.setMaster p).send (.ptp p 0x0B 0 (s.departs p none Config.ptpFrame) 0) else s

def execAnnounceTransmit (p : PortId) (s : State) : Host.Outcome State Fault Refusal := .next (announceTransmitEffect p s)

/-- A Delay_Req on a master port is answered with its receive stamp. -/
def delayReqReceiveEffect (p : PortId) (m : PtpMsg) (s : State) : State :=
  s.ptpFrame p m.supported fun s =>
    if s.mayMaster p then
      let at_ := s.stamp p
      (s.drew 1).send (.ptp p 9 m.seqId at_ m.correction)
    else s

def execDelayReqReceive (p : PortId) (m : PtpMsg) (s : State) : Host.Outcome State Fault Refusal := .next (delayReqReceiveEffect p m s)

/-- A stamped message over the Valley link that is the time source: an exchange with that offset (R325). -/
def valleyTimeMessageEffect (l : LinkId) (offset : Int) (newRate : Word) (s : State) : State :=
  if s.time.servo.source = 16 + l.val ∧ (vget s.join.links l).up ∧ s.hallAbsent = false then s.exchange offset newRate else s

def execValleyTimeMessage (l : LinkId) (offset : Int) (newRate : Word) (s : State) : Host.Outcome State Fault Refusal :=
  .next (valleyTimeMessageEffect l offset newRate s)

/-! ### Mailbox commands of the time base -/

/-- TIME_CONFIGURE: source, domain, and a port's stamp correction (R321, R325, log entry 24). -/
def timeConfigureItems (id : Nat) (v : List Byte) : Option Bool :=
  if id = 0x0B03 then some (inRange 0 3 v || inRange 16 18 v)
  else if id = 0x0B04 then some (inRange 24 43 v)
  else if id = 0x0B09 then some (sized 4 v)
  else if id = 1 then some (inRange 0x100 0x103 v)
  else none

def timeConfigureEffect (m : MboxId) (s : State) : State :=
  s.mbNow m 0x32 timeConfigureItems fun l s =>
    let src := (itemNum l 0x0B03).getD s.time.servo.source
    let s1 := s.modServo fun v => { v with
      source := src, domain := (itemNum l 0x0B04).getD v.domain
      sync := if src = v.source then v.sync else none, delayReq := if src = v.source then v.delayReq else none }
    match itemNum l 0x0B09, itemNum l 1 with
    | some a, some t =>
      let p : PortId := ⟨t % 4, Nat.mod_lt _ (by decide)⟩
      Reply.ok (s1.modTime fun x => { x with asym := vset x.asym p (BitVec.ofNat 32 a) })
    | some _, none => Reply.bad s stBadArg (itemOffset l 0x0B09)
    | none, _ => Reply.ok s1

def execTimeConfigure (m : MboxId) (s : State) : Host.Outcome State Fault Refusal := .next (timeConfigureEffect m s)

/-- TIME_STEP requests the step and is answered once it is judged (R317, R318). -/
def timeStepEffect (m : MboxId) (s : State) : State :=
  s.mbCommand m 0x33 (fun _ _ => none) fun _ s =>
    (Reply.ok (s.modTime fun t => { t with stepPend := t.stepPend ++ [some m] }), .foreground)

def execTimeStep (m : MboxId) (s : State) : Host.Outcome State Fault Refusal := .next (timeStepEffect m s)

/-- The functions that hold TIME_IO and GPIO7, as TIME_IO_FUNC and GPIO7_FUNC number them; 0 none. -/
def ioHolder (v : Word) : Nat := fld v 5 4
def g7Holder (v : Word) : Nat := if g7Active v 0 then 1 else if g7Active v 1 then 2 else 0

def timeIoItems (id : Nat) (v : List Byte) : Option Bool :=
  if id = 0x0B05 then some (inRange 0 3 v)
  else if id = 0x0B06 then some (inRange 0 2 v)
  else if id = 0x0B07 then some (inRange 0 3 v)
  else if id = 0x0B08 then some (inRange 1 500000 v)
  else none

/-- TIME_IO_SEL for a choice of functions and a monitored port. -/
def ioWord (f g mon : Nat) : Word :=
  packWord [(if f = 0 then 0 else 2 ^ (f - 1), 0), (f, 4), (if g = 0 then 0 else 2 ^ (g - 1), 8), (g - 1, 10), (mon, 12)]

/-- TIME_IO_CONFIGURE (R331): a pin that another function holds is a CONFLICT that names the holder. -/
def timeIoConfigureEffect (m : MboxId) (s : State) : State :=
  s.mbNow m 0x34 timeIoItems fun l s =>
    let v := s.time.ioSel
    let f := (itemNum l 0x0B05).getD (ioHolder v)
    let g := (itemNum l 0x0B06).getD (g7Holder v)
    if f ≠ 0 ∧ ioHolder v ≠ 0 ∧ f ≠ ioHolder v then Reply.bad s stConflict (ioHolder v)
    else if g ≠ 0 ∧ g7Holder v ≠ 0 ∧ g ≠ g7Holder v then Reply.bad s stConflict (15 + g7Holder v)
    else
      let s1 := s.modTime fun t => { t with pps := match itemNum l 0x0B08 with
        | some w => BitVec.ofNat 32 w
        | none => t.pps }
      Reply.ok (timeIoSelWriteEffect (ioWord f g ((itemNum l 0x0B07).getD (fld v 13 12))) s1)

def execTimeIoConfigure (m : MboxId) (s : State) : Host.Outcome State Fault Refusal := .next (timeIoConfigureEffect m s)

/-- TIME_STATUS: source, and in a BLOB LOCKED, alarm, STEPPED, the last offset and the rate (log entry 18). -/
def timeStatusEffect (m : MboxId) (s : State) : State :=
  s.mbNow m 0x35 (fun _ _ => none) fun _ s =>
    let v := s.time.servo
    Reply.ok s (itemBytes 0x0B03 [BitVec.ofNat 8 v.source] ++ itemBytes 12
      ([BitVec.ofNat 8 (bitNat v.locked), BitVec.ofNat 8 (bitNat v.alarm), BitVec.ofNat 8 (bitNat s.time.stepped), 0]
        ++ intLE 8 v.lastOffset ++ natLE 4 s.time.rateReg.toNat))

def execTimeStatus (m : MboxId) (s : State) : Host.Outcome State Fault Refusal := .next (timeStatusEffect m s)

end Sys2Proof.Machine
end

