-- ==== Sys2Proof/Machine/PowerOps.lean ====
section
/-! DEFINITION. Power domains (R394-R396), the frequency and voltage that a stall may have (R400, R401, R416), and Hall's reduction
of the load (R37, R40, R408). -/
namespace Sys2Proof.Machine

def State.modPwr (s : State) (f : Power → Power) : State := { s with pwr := f s.pwr }

/-- Domain d on, or off. -/
def State.setDomain (s : State) (d : Nat) (on : Bool) : State :=
  s.modPwr fun p => { p with domains := if on then p.domains ||| (1#86 <<< d) else p.domains &&& ~~~(1#86 <<< d) }

/-! ### Voltage and frequency (R400-R402, R416) -/

def fmaxMhz (n : StallId) : Nat := (Config.fuseFmax n).toNat

/-- V_req of stall n at f MHz in mV: VMIN + 0.4 mV per MHz above 2 000, up to a multiple of 5, at least 600 (R401). -/
def vreqMv (n : StallId) (f : Nat) : Nat :=
  let tenth : Int := 10 * ((Config.fuseVmin n).toNat : Int) + 4 * ((f : Int) - 2000)
  max 600 (5 * (-((-tenth) / 50)).toNat)

/-- Frequencies that a PLL can be set to, highest first: 2 250 to 1 000 MHz in steps of 25. -/
def pllSteps : List Nat := (List.range 51).map fun i => 2250 - 25 * i

/-- The highest frequency whose V_req does not exceed a voltage (R416). -/
def voltLimit (n : StallId) (mv : Nat) : Nat := (pllSteps.find? fun f => decide (vreqMv n f ≤ mv)).getD 1000

/-- The limits of stall n with the reason each gives, in the order of R400; VOLTAGE only in an AVS fault. -/
def State.limits (s : State) (n : StallId) : List (Nat × Nat) :=
  let x := s.stall n
  [(fmaxMhz n, 0), (x.fTherm, 1), (s.pwr.fpwr, 2), (x.fDroop, 3)]
    ++ if s.pwr.avsFault then [(voltLimit n s.pwr.ackMv, 4)] else []

/-- The smallest limit and the first reason that gives it. -/
def lowest : List (Nat × Nat) → Nat × Nat
  | [] => (0, 0)
  | [x] => x
  | x :: l => let y := lowest l; if x.1 ≤ y.1 then x else y

/-- The target frequency of stall n: the smallest limit, down to a step of 25 MHz, at least 1 000 MHz. -/
def State.targetOf (s : State) (n : StallId) : Nat := max 1000 ((lowest (s.limits n)).1 / 25 * 25)

/-- The VDD_CORE target: the largest V_req of the stalls that are on, at their targets and, until a fall has completed, at
their present frequencies, within 650-850 mV; in an AVS fault the voltage is held. -/
def State.vddTarget (s : State) : Nat :=
  let on := (List.finRange 64).filter fun n => s.domainOn n.val
  if s.pwr.avsFault then s.pwr.ackMv
  else if on = [] then s.pwr.targetMv
  else max 650 (min 850 ((on.map fun n => vreqMv n (max (s.stall n).aclk (s.stall n).aclkTarget)).foldl max 0))

/-! ### The load (R37, R40, R408) -/

/-- The load of N_PRB, N_UL and μ at a reserve in 0.1 % (R37). -/
def shapeLoad (nPrb nUl mu rsv : Nat) : Rat :=
  ((nPrb * nUl * (1000 * 2 ^ mu) : Nat) : Rat) / 698880 * 850 / ((1000 - rsv : Nat) : Rat)

/-- L_c of a cell at a reserve in 0.1 %; 1.05 times that under audit (R37, R377). -/
def cellLoad (x : Cell) (rsv : Nat) : Rat :=
  shapeLoad (x.get .nPrb) (x.get .nUl) (x.get .mu) rsv * if x.audit then 105 / 100 else 1

def State.configuredCells (s : State) : List CellId := (List.finRange 16).filter fun c => (s.cell c).configured

/-- The load of the configured cells with each reserve k tenths of a per cent lower, none below 8 % (R40). -/
def State.loadAt (s : State) (k : Nat) : Rat :=
  (s.configuredCells.map fun c => cellLoad (s.cell c) (max 80 ((s.cell c).get .reservePct - k))).sum

def State.inServiceCount (s : State) : Nat := ((List.finRange 64).filter fun n => (s.stall n).inService).length

/-- Σ f_s over the stalls in service, MHz: 2 000 N_eff (R408). -/
def State.effMhz (s : State) : Nat :=
  (((List.finRange 64).filter fun n => (s.stall n).inService).map fun n => (s.stall n).aclkTarget).sum

/-- The least reduction of the reserves, in equal steps, that fits a limit. R40 does not give the size of a step: 0.1 % is
the model's (DESIGN CHOICE, log entry 16). -/
def findStep (fits : Nat → Bool) : Nat → Nat → Option Nat
  | 0, _ => none
  | n + 1, k => if fits k then some k else findStep fits n (k + 1)

/-- Reserve reduction and PRB cap, both in 0.1 %, that R40 gives for the stalls there are; none reduced while N_eff is not below
the count that the configuration was accepted with. -/
def State.r40 (s : State) : Nat × Nat :=
  if 2000 * s.pwr.accepted ≤ s.effMhz then (0, 1000)
  else
    let limit : Rat := (s.effMhz : Rat) * 100 / 128000
    match findStep (fun k => decide (s.loadAt k ≤ limit)) 221 0 with
    | some k => (k, 1000)
    | none => (220, if s.loadAt 220 = 0 then 1000 else (limit * 1000 / s.loadAt 220).floor.toNat)

/-- Hall reduces or restores reserves and PRB caps, and says so for every cell that changes (LOAD_CHANGED, Table 15-10). -/
def State.adjustLoad (s : State) : State :=
  if s.hallAbsent then s
  else
    let r := s.r40
    s.configuredCells.foldl (fun s c =>
      let x := s.cell c
      let rsv := max 80 (x.get .reservePct - r.1)
      if x.reserveNow = rsv ∧ x.prbCap = r.2 then s
      else
        let lower := decide (rsv < x.reserveNow ∨ r.2 < x.prbCap)
        (s.modCell c fun x => { x with reserveNow := rsv, prbCap := r.2 }).raise 0x0103 (evtSource 2 c.val)
          [BitVec.ofNat 8 (rsv / 10), BitVec.ofNat 8 (r.2 / 10), BitVec.ofNat 8 s.inServiceCount, if lower then 0 else 1]) s

/-- Target and limiting reason of stall n; none while its domain is off. -/
def State.retargetStall (s : State) (n : StallId) : Stall :=
  let x := s.stall n
  if s.domainOn n.val then
    { x with
      aclkTarget := s.targetOf n, limit := BitVec.ofNat 4 (lowest (s.limits n)).2
      slewAt := if x.aclk = x.aclkTarget ∧ s.targetOf n ≠ x.aclkTarget then s.up else x.slewAt }
  else { x with aclk := 0, aclkTarget := 0, limit := 5 }

/-- Every target again after a limit, a domain or a voltage changed; Hall follows with the load. -/
def State.retarget (s : State) : State :=
  let s1 := { s with stalls := vgen 64 s.retargetStall }
  (s1.modPwr fun p => { p with targetMv := s1.vddTarget }).adjustLoad

/-! ### Stall domains (R395, R396) -/

/-- A stall whose domain is turned off: every register at its reset value. What Weighhouse and the power manager keep of it
stays (R347, R353, R357, R403, R410). -/
def Stall.off (x : Stall) : Stall :=
  { Stall.reset with
    out := x.out, bootFail := x.bootFail, golden := { x.golden with due := false, running := false }, outTimes := x.outTimes
    suspect := x.suspect, fTherm := x.fTherm, fDroop := x.fDroop, droopTrips := x.droopTrips, droopAt := x.droopAt
    thermAt := x.thermAt, limit := 5 }

/-- The domain of stall n goes off: its engines stop and its chains end, its work waits again (R277), its memory and registers
are lost. -/
def State.stallOff (s : State) (n : StallId) : State :=
  let s1 := (s.stallLost n).setDomain n.val false
  ({ s1.modStall n Stall.off with mem := memClear s1.mem (stallBase n) (stallBase n + 0x200000) }).retarget

/-- Hall loads the classical kernels into the sequencer memory of stall n (R153). -/
def State.loadKernels (s : State) (n : StallId) : State :=
  { s with mem := memWrite s.mem (stallBase n + 0x150000) (Config.kernels s.sec.hallImage) }

/-- The domain of stall n is on: its PLL runs at a frequency that the spec does not give, no higher than its target (R395, log
entry 5); Hall loads its tables and kernels (R98, R126, R153), and runs recovery on a stall that is out of service (R246, log entry
17). -/
def State.stallOn (s : State) (n : StallId) : State :=
  let s1 := s.setDomain n.val true
  let f := 1000 + (s.freeBits 0).toNat % ((s1.targetOf n - 1000) / 25 + 1) * 25
  (((s1.loadKernels n).drew 1).modStall n fun x => { x with
    aclk := f, slewAt := s.up, sfStd := Vector.replicate 2 true, limit := 0, dmaMode := if x.out then 3 else x.dmaMode }).retarget

def stallDomainOffEffect (n : StallId) (s : State) : State :=
  if s.domainOn n.val ∧ (s.stall n).inService = false then s.stallOff n else s

def execStallDomainOff (n : StallId) (s : State) : Host.Outcome State Fault Refusal := .next (stallDomainOffEffect n s)

def stallDomainOnEffect (n : StallId) (s : State) : State :=
  if s.domainOn n.val = false ∧ s.pwr.tripHold = false ∧ s.sec.phase ≠ .held then s.stallOn n else s

def execStallDomainOn (n : StallId) (s : State) : Host.Outcome State Fault Refusal := .next (stallDomainOnEffect n s)

/-- The least time in which the PLL of stall n slews from its present setting to its target: 25 MHz per µs (R398). -/
def Stall.slewTime (x : Stall) : Int := ns (1000 * ceilDiv (if x.aclk ≤ x.aclkTarget then x.aclkTarget - x.aclk else x.aclk - x.aclkTarget) 25)

/-- The clock of stall n reaches its target, once it has had the time to slew there: a rise only once VDD_CORE is acknowledged at V_req
(R398, R401, R415); none moves without REFCLK (R399). In between ACLK shows the frequency that the PLL left (DESIGN CHOICE, log entry
23). -/
def aclkTargetReachedEffect (n : StallId) (s : State) : State :=
  let x := s.stall n
  if s.domainOn n.val ∧ s.pwr.refLost = false ∧ x.aclk ≠ x.aclkTarget ∧ x.slewTime ≤ s.up - x.slewAt
      ∧ (x.aclkTarget ≤ x.aclk ∨ vreqMv n x.aclkTarget ≤ s.pwr.ackMv) then
    ((s.restamp n).modStall n fun x => { x with aclk := x.aclkTarget }).retarget
  else s

def execAclkTargetReached (n : StallId) (s : State) : Host.Outcome State Fault Refusal := .next (aclkTargetReachedEffect n s)

/-- A stall enters service once its self-test has passed; Hall sets DMA_CTRL.MODE to service (R246). -/
def State.serve (s : State) (n : StallId) : State :=
  s.modStall n fun x => { x with inService := true, out := false, selftest := false, dmaMode := 0 }

end Sys2Proof.Machine
end

