-- ==== Sys2Proof/Machine/Images.lean ====
section
/-! DEFINITION. Fuses (R456, R467), signed images and their verification (R451, R452), the flash directory (R454) and the
measurements (R463). Log entry 22 names the readings. -/
namespace Sys2Proof.Machine

def State.modSec (s : State) (f : Security → Security) : State := { s with sec := f s.sec }
def State.modWh (s : State) (f : Weigh → Weigh) : State := { s with wh := f s.wh }

/-! ### Fuses -/

def bitCount (x : BitVec 64) : Nat := ((List.range 64).filter fun i => x.getLsbD i).length

/-- The 64 fuse bits of anti-rollback counter t, and its value (R456). -/
def State.counterBits (s : State) (t : Fin 3) : BitVec 64 := Config.fuseCounter t ||| vget s.sec.blown t
def State.svnCounter (s : State) (t : Fin 3) : Nat := bitCount (s.counterBits t)

/-- Key slots revoked. -/
def State.revokedKeys (s : State) : BitVec 4 := Config.fuseRevoked ||| s.sec.revoked

/-- Word w (32 bits) of a fused number. -/
def fuseNum (x w : Nat) : Word := BitVec.ofNat 32 (x / 2 ^ (32 * w))

/-- A word of the fuses (Table 16-9). -/
def State.fuseWord (s : State) (a : Nat) : Word :=
  if a < 0x10 then fuseNum Config.serial.toNat (a / 4)
  else if a = 0x10 then
    packWord [(bitNat Config.gradeE, 0), (bitNat Config.usbBootDisable, 1), (bitNat Config.debugDisable, 2), (s.revokedKeys.toNat, 4)]
  else if a = 0x14 then Config.idVendor.setWidth 32
  else if 0x40 ≤ a ∧ a < 0xC0 then fuseNum (Config.keyHash ⟨(a - 0x40) / 32 % 4, Nat.mod_lt _ (by decide)⟩).toNat (a % 32 / 4)
  else if 0xC0 ≤ a ∧ a < 0xE0 then fuseNum Config.debugKeyHash.toNat (a % 32 / 4)
  else if 0x100 ≤ a ∧ a < 0x118 then fuseNum (s.counterBits ⟨(a - 0x100) / 8 % 3, Nat.mod_lt _ (by decide)⟩).toNat (a % 8 / 4)
  else if 0x200 ≤ a ∧ a < 0x300 then
    let n := stallOf ((a - 0x200) / 4)
    packWord [((Config.fuseFmax n).toNat, 0), ((Config.fuseVmin n).toNat, 12)]
  else if 0x400 ≤ a ∧ a < 0xC00 then Config.fuseCertWord ⟨(a - 0x400) / 4 % 512, Nat.mod_lt _ (by decide)⟩
  else 0

/-- n words of the fuses from address a on, as bytes. -/
def State.fuseBytes (s : State) (a n : Nat) : List Byte := (List.range n).flatMap fun i => natLE 4 (s.fuseWord (a + 4 * i)).toNat

/-- Fuse bits blown one by one from the lowest until the counter reads v. -/
def blowTo (v : Nat) (have_ : BitVec 64) : Nat → BitVec 64 → BitVec 64
  | 0, b => b
  | n + 1, b =>
    let i := 63 - n
    if bitCount (have_ ||| b) < v ∧ have_.getLsbD i = false ∧ b.getLsbD i = false then blowTo v have_ n (b ||| (1#64 <<< i))
    else blowTo v have_ n b

/-! ### The header of an image (Table 16-2) -/

def imgType (b : List Byte) : Nat := bytesNat b 4 1
def imgClass (b : List Byte) : Nat := bytesNat b 6 1
def imgKey (b : List Byte) : Fin 4 := ⟨bytesNat b 7 1 % 4, Nat.mod_lt _ (by decide)⟩
def imgSvn (b : List Byte) : Nat := bytesNat b 8 1
def imgFlags (b : List Byte) : Nat := bytesNat b 9 1
def imgSize (b : List Byte) : Nat := bytesNat b 16 4

/-- Largest body by type. -/
def imgLimit (type : Nat) : Nat := if type = 1 then 1572864 else if type = 2 then 196608 else 268434944

/-- Index of a type's counter. -/
def imgCounter (type : Nat) : Fin 3 := ⟨(type - 1) % 3, Nat.mod_lt _ (by decide)⟩

/-- Bytes of a digest, byte 0 lowest. -/
def digestBytes {w : Nat} (x : BitVec w) : List Byte := natLE (w / 8) x.toNat

/-- The header of an image of that type is as Table 16-2 has it. -/
def imgHeaderOk (type : Nat) (b : List Byte) : Bool :=
  decide (512 ≤ b.length) && bytesNat b 0 4 == 0x43563634 && imgType b == type && bytesNat b 5 1 == 1
    && decide (bytesNat b 7 1 < 4) && decide (imgSvn b ≤ 64) && decide (imgFlags b < 4) && zeroBytes b 10 12 && zeroBytes b 20 32
    && zeroBytes b 89 96 && zeroBytes b 160 256 && zeroBytes b 370 512 && decide (imgSize b ≤ imgLimit type)

/-- The checks of Table 16-3 in order; the reason of the first that fails. -/
def State.verifyImage (s : State) (type : Nat) (b : List Byte) : Option Nat :=
  let key := (b.drop 32).take 57
  let body := (b.drop 512).take (imgSize b)
  if imgHeaderOk type b = false then some 1
  else if b.length < 512 + imgSize b then some 8
  else if s.revokedKeys.getLsbD (imgKey b).val then some 2
  else if Config.shake256 key ≠ Config.keyHash (imgKey b) then some 3
  else if Config.ed448Verify key (b.take 256) ((b.drop 256).take 114) = false then some 4
  else if digestBytes (Config.shake512 body) ≠ (b.drop 96).take 64 then some 5
  else if imgClass b ≠ deviceClass ∧ ¬(type = 3 ∧ imgClass b = 0) then some 6
  else if imgSvn b < s.svnCounter (imgCounter type) then some 7
  else none

/-- VERIFY_FAIL (R452, Table 16-8). -/
def State.verifyFail (s : State) (type reason src : Nat) (b : List Byte) : State :=
  (s.devInc .secVerifyFail).raise 0x0901 0
    ([BitVec.ofNat 8 type, BitVec.ofNat 8 reason, BitVec.ofNat 8 src, BitVec.ofNat 8 (bytesNat b 7 1), BitVec.ofNat 8 (imgSvn b),
      BitVec.ofNat 8 (s.svnCounter (imgCounter type))] ++ natLE 4 (bytesNat b 12 4))

/-- An image from a source of Table 16-8 is verified; a rejection is counted and recorded. -/
def State.tryImage (s : State) (type src : Nat) (b : List Byte) : Bool × State :=
  match s.verifyImage type b with
  | none => (true, s)
  | some r => (false, s.verifyFail type r src b)

/-! ### Measurements (R463) -/

def State.extend (s : State) (n : Fin 8) (v : List Byte) : State :=
  s.modSec fun x => { x with meas := vmod x.meas n fun m => Config.shake512 (digestBytes m ++ v) }

/-- The value that an image extends a measurement with. -/
def imgMeasure (b : List Byte) : List Byte := digestBytes (Config.shake512 (b.take 256))

/-- The fused-settings digest. -/
def State.fuseDigest (s : State) : BitVec 512 := Config.shake512 (s.fuseBytes 0 256)

/-! ### The flash directory (R454; offsets within a copy are the model's, log entry 22) -/

def dirOk (d : List Byte) : Bool := bytesNat d 0 4 == 0x43564449 && bytesNat d 254 2 == (crc16 (d.take 254)).toNat

/-- DWORD n (from 1) of the basic flash parameters of an SFDP table, which the first parameter header points to; 0 where the table has no
signature (JESD216, PRESUMED, log entry 22). -/
def sfdpWord (t : List Byte) (n : Nat) : Nat :=
  if bytesNat t 0 4 = 0x50444653 then bytesNat t (bytesNat t 12 3 + 4 * (n - 1)) 4 else 0

/-- The table advertises 1-4-4 fast reads. -/
def sfdpQuad (t : List Byte) : Bool := bitOf (sfdpWord t 1) 21

/-- Capacity that the table declares, in bits: the second word plus one, or a power of two. -/
def sfdpBits (t : List Byte) : Nat :=
  let w := sfdpWord t 2
  if bitOf w 31 then 2 ^ (w % 64) else w + 1

/-- The ROM reads the SFDP table with 5Ah and settles how it reads from then on: 1-4-4 fast reads or 03h, and 4-byte addresses where
the table declares more than 16 MiB (R453). -/
def State.readSfdp (s : State) : State :=
  s.modSec fun x => { x with romQuad := sfdpQuad x.sfdp, romWide := decide (16777216 * 8 < sfdpBits x.sfdp) }

/-- n bytes that the ROM reads of the flash: a 3-byte address takes the low 24 bits of an offset. -/
def State.romRead (s : State) (a n : Nat) : List Byte :=
  if s.sec.romWide then memRead s.sec.flash a n else (List.range n).map fun i => memByte s.sec.flash ((a + i) % 16777216)

def State.dirCopy (s : State) (second : Bool) : List Byte := memRead s.sec.flash (if second then 0x10000 else 0) 256

/-- The valid copy with the higher DIR_SEQ, and whether it is the second one. -/
def State.flashDir (s : State) : Option (Bool × List Byte) :=
  let a := s.dirCopy false
  let b := s.dirCopy true
  if dirOk a then
    if dirOk b ∧ bytesNat a 4 4 < bytesNat b 4 4 then some (true, b) else some (false, a)
  else if dirOk b then some (true, b) else none

/-- The active slot of Hall or Weighhouse images: slot A where no copy is valid. -/
def State.activeSlot (s : State) (wh : Bool) : Bool :=
  match s.flashDir with
  | some (_, d) => bytesNat d (if wh then 25 else 24) 1 == 1
  | none => false

/-- Flash offset of a slot's image; free where no copy of the directory is valid. -/
def State.slotOffset (s : State) (wh slot : Bool) : Nat :=
  let i := 2 * bitNat wh + bitNat slot
  match s.flashDir with
  | some (_, d) => bytesNat d (8 + 4 * i) 4
  | none => (s.freeBits i).toNat % 4294967296

/-- An image as it lies in flash. -/
def State.flashImage (s : State) (type off : Nat) : List Byte :=
  let h := s.romRead off 512
  h ++ s.romRead (off + 512) (min (imgLimit type) (imgSize h))

/-- The first image that passes, of the active slot and then the other (R454), read as the SFDP table has it (R453). -/
def State.loadFlash (s0 : State) (wh : Bool) : Option (Bool × List Byte) × State :=
  let s := s0.readSfdp
  let type := if wh then 2 else 1
  let first := s.activeSlot wh
  let a := s.flashImage type (s.slotOffset wh first)
  let r := s.tryImage type (bitNat first) a
  if r.1 then (some (first, a), r.2)
  else
    let b := s.flashImage type (s.slotOffset wh (!first))
    let q := r.2.tryImage type (bitNat (!first)) b
    (if q.1 then some (!first, b) else none, q.2.drew 4)

/-- A directory copy with a new active slot and DIR_SEQ one higher. -/
def newDir (d : List Byte) (wh slot : Bool) : List Byte :=
  let d1 := setBytes (setBytes d 4 (natLE 4 (bytesNat d 4 4 + 1))) (if wh then 25 else 24) [BitVec.ofNat 8 (bitNat slot)]
  setBytes d1 254 (natLE 2 (crc16 (d1.take 254)).toNat)

/-- A verified image goes into the slot that is not active, and then into both directory copies (R455). -/
def State.writeFlash (s : State) (wh : Bool) (b : List Byte) : State :=
  let slot := !s.activeSlot wh
  let off := s.slotOffset wh slot
  let old := match s.flashDir with
    | some (_, d) => d
    | none => natLE 4 0x43564449 ++ natLE 4 0 ++ (List.range 4).flatMap (fun i => natLE 4 (s.slotOffset (decide (2 ≤ i)) (i % 2 == 1)))
        ++ List.replicate 232 0
  let d := newDir old wh slot
  (s.drew 4).modSec fun x => { x with flash := memWrite (memWrite (memWrite x.flash off b) 0 d) 0x10000 d }

/-! ### Fuses advance at READY (R456) -/

/-- What a running image asks of the fuses. -/
def State.advanceFuses (s : State) (b : List Byte) : State :=
  let t := imgCounter (imgType b)
  let old := s.svnCounter t
  let s1 :=
    if bitOf (imgFlags b) 0 ∧ old < imgSvn b then
      let s1 := s.modSec fun x => { x with blown := vmod x.blown t fun v => blowTo (imgSvn b) (Config.fuseCounter t) 64 v }
      s1.raise 0x0903 0 [BitVec.ofNat 8 (imgType b), BitVec.ofNat 8 old, BitVec.ofNat 8 (s1.svnCounter t)]
    else s
  if bitOf (imgFlags b) 1 then
    let was := s1.revokedKeys
    let s2 := s1.modSec fun x => { x with revoked := x.revoked ||| BitVec.ofNat 4 (2 ^ (imgKey b).val - 1) }
    if s2.revokedKeys = was then s2 else s2.raise 0x0903 0 [0xFF, was.setWidth 8, s2.revokedKeys.setWidth 8]
  else s1

end Sys2Proof.Machine
end

