-- ==== Sys2Proof/Machine/Reset.lean ====
section
/-! DEFINITION. Resets and boot (R359-R364, R394, R449, R450, R457-R461): the warm reset that every cause shares, cold boot, USB
boot-ROM mode, READY, and the return to serving. Log entry 22 names the readings. -/
namespace Sys2Proof.Machine

/-! ### Images start -/

/-- BOOT_SEL as the ROM acts on it (Table 16-1): 0 flash with USB recovery, 1 USB, 2 flash alone. -/
def bootSource (sel : BitVec 2) : Nat :=
  if sel = 3 then 2 else if Config.usbBootDisable ∧ sel ≠ 2 then 2 else sel.toNat

/-- The bus terminations are there, with an interface protocol (R419, R422, R457). -/
def State.attach (s : State) (protocol : Byte) : State :=
  { s with host := { s.host with usbAttached := true, usbProtocol := protocol, usbSpeed := 2, usbConfigured := false, usbAddress := 0 } }

/-- USB boot-ROM mode (R457). -/
def State.enterRom (s : State) : State :=
  (s.modSec fun x => { x with
    phase := .rom, hallRun := false, whRun := false, romHall := [], romWh := [], romPos := Vector.replicate 2 0 }).attach 0

/-- A verified Hall image runs: measurements 0 and 1, USB with protocol 03h. -/
def State.startHall (s : State) (img : List Byte) (src : BitVec 2) (slot : Bool) : State :=
  let s1 := s.modSec fun x => { x with
    hallRun := true, hallImage := img, source := src, hallSlot := slot
    phase := if x.phase = .served then .served else .booting }
  ((s1.extend 0 (digestBytes s1.fuseDigest)).extend 1 (imgMeasure img)).attach 3

/-- A verified Weighhouse image runs: DRAM leaves self-refresh (R239, Table 12-5), measurement 2, and after a warm reset bundles and
unlocks again (R459, R463, R465). -/
def State.startWh (s : State) (img : List Byte) (slot : Bool) : State :=
  let s0 := { s with fab := { s.fab with selfRefresh := false } }
  let s1 := (s0.modSec fun x => { x with whRun := true, whImage := img, whSlot := slot }).extend 2 (imgMeasure img)
  let s2 := s1.sec.bundles.foldl (fun s b => s.extend 3 (imgMeasure b.2)) s1
  s2.sec.unlocks.foldl (fun s c => s.extend 4 c) s2

/-- The Weighhouse image from flash; without one the device does not become READY (R461). -/
def State.startWhFlash (s : State) : State :=
  match s.loadFlash true with
  | (some (slot, img), s1) => s1.startWh img slot
  | (none, s1) => s1.modSec fun x => { x with failed := some 1 }

/-- Every image of the source has failed (Table 16-1). -/
def State.bootFails (s : State) : State :=
  if bootSource s.sec.bootSel = 2 then
    (s.modSec fun x => { x with phase := .halted }).modWh fun w => { w with faultLow := true }
  else s.enterRom

/-- Boot from flash (Table 16-5). -/
def State.bootFlash (s : State) : State :=
  match s.loadFlash false with
  | (some (slot, img), s1) => (s1.startHall img 0 slot).startWhFlash
  | (none, s1) => s1.bootFails

/-- The cold boot starts once PWR_GOOD and RESET_N are both high. -/
def coldBootEffect (sel : BitVec 2) (s : State) : State :=
  if s.sec.phase = .held then
    let s1 := { s.modSec fun x => { x with bootSel := sel } with pins := { s.pins with pwrGood := true } }
    if bootSource sel = 1 then s1.enterRom else s1.bootFlash
  else s

def execColdBoot (sel : BitVec 2) (s : State) : Host.Outcome State Fault Refusal := .next (coldBootEffect sel s)

/-! ### Cold and warm reset -/

/-- A cold reset: everything at its reset value but the flash, the fuses and the model's own fields. -/
def State.coldReset (s : State) (power : Bool) : State :=
  { State.reset with
    sec := { Security.reset with flash := s.sec.flash, sfdp := s.sec.sfdp, blown := s.sec.blown, revoked := s.sec.revoked }
    pins := { s.pins with pwrGood := power }, free := s.free, seqOps := s.seqOps, out := s.out, pending := s.pending }

/-- A cell across a warm reset: its configuration is in Hall's journal, its adapted weights and bundle in DRAM (R35, R362);
after a reset that the host asked for it is not configured. -/
def Cell.warm (x : Cell) (c : CellId) (fault : Bool) : Cell :=
  { Cell.reset c with
    configured := fault && x.configured, param := x.param, reserveNow := x.get .reservePct
    paths := vmap (fun p => { PathState.reset with held := p.held }) x.paths
    crateBase := x.crateBase, prachBase := x.prachBase, bundle := x.bundle, books := x.books, adapt := x.adapt
    audit := x.audit, digestRing := x.digestRing, digestSize := x.digestSize }

/-- Cells that run. -/
def State.runningMask (s : State) : BitVec 16 :=
  ((List.finRange 16).filter fun c => (s.cell c).running).foldl (fun (m : BitVec 16) c => m ||| (1#16 <<< c.val)) 0

/-- The domains right after a warm reset: stalls and ports are off, the others as they were. -/
def warmDomains (d : BitVec 86) : BitVec 86 := d &&& (0x3F87FF#86 <<< 64)

/-- Instants within the last t of a list. -/
def recent (now t : Int) (l : List Int) : List Int := l.filter fun x => decide (now - x < t)

def Weigh.warm (w : Weigh) (now : Int) (cause : Byte) (fault : Bool) (cells : BitVec 16) : Weigh :=
  let resets := recent now (ns 60000000000) w.resets ++ if fault then [now] else []
  { Weigh.reset with
    safe := fault || w.safe, faultLow := fault || w.faultLow, cause := cause
    faultResets := if fault ∧ w.faultResets ≠ 0xFFFF then w.faultResets + 1 else w.faultResets
    resets := resets, pwrReqLow := w.pwrReqLow || decide (3 ≤ resets.length), tick := w.tick
    restart := some ⟨now, fault, cells⟩ }

/-- The state that a warm reset leaves before any image runs (Table 12-5): every domain but the time base and the DRAM is reset,
and what Hall keeps in DRAM stays. -/
def State.warmBase (s : State) (cause : Byte) (fault : Bool) (cells : BitVec 16) : State :=
  { s with
    mem := memClear s.mem 0x10000000 0x18000000
    dev := vgen 52 fun i => if 23 ≤ i.val ∧ i.val ≤ 27 then vget s.dev i else Ctr.zero
    stalls := vmap (fun x => { Stall.reset with out := x.out, outTimes := x.outTimes, bootFail := x.bootFail }) s.stalls
    qm := QueueManager.reset
    fab := { Fabric.reset with trained := s.fab.trained, selfRefresh := true }
    host := { HostIf.reset with ring := s.host.ring, evtSeq := s.host.evtSeq, ringSize := s.host.ringSize }
    time := { s.time with servo := { s.time.servo with sync := none, delayReq := none }, stepPend := s.time.stepPend.map fun _ => none }
    pwr := { Power.reset with domains := warmDomains s.pwr.domains, accepted := s.pwr.accepted }
    cells := vgen 16 fun c => (s.cell c).warm c fault
    eth := { Eth.reset with ports := vmap (fun p => { EthPort.reset with journal := p.journal }) s.eth.ports }
    wh := s.wh.warm s.up cause fault cells
    sec := { s.sec with
      ready := false, hallRun := false, whRun := false, meas := Vector.replicate 8 0, challenge := none, owner := none, failed := none }
    harq := { s.harq with pages := [] }
    hist := Hist.reset
    join := { s.join with links := vmap (fun l => { l with up := false, lanes := 0, peer := 0, downAt := some s.up, replays := [] }) s.join.links
                          sent := none }
    valley := Vector.replicate 3 []
    qps := vmap (fun q => { q with sent := [], psn := 0, expect := 0, retries := 0, error := false, rate := 1 }) s.qps }

/-- The images run again from their copies in DRAM, or else from the source of the last cold boot (R459). -/
def State.startWhWarm (s : State) : State :=
  let r := s.tryImage 2 3 s.sec.whImage
  if r.1 then r.2.startWh s.sec.whImage s.sec.whSlot
  else if s.sec.usbBoot then r.2.enterRom
  else r.2.startWhFlash

def State.romWarm (s : State) : State :=
  let r := s.tryImage 1 3 s.sec.hallImage
  if r.1 then (r.2.startHall s.sec.hallImage 2 s.sec.hallSlot).startWhWarm
  else if s.sec.usbBoot ∨ bootSource s.sec.bootSel = 1 then r.2.enterRom
  else
    match r.2.loadFlash false with
    | (some (slot, img), s1) => (s1.startHall img 0 slot).startWhWarm
    | (none, s1) => s1.bootFails

/-- A fault-caused reset or an entry into safe state tells the partner first (R367). -/
def State.handOver (s : State) : State :=
  match s.join.pair with
  | some p => (s.tell p.partner 2 []).sendUrgent
  | none => s

/-- The partner hears a HANDOVER: a link to it is up. -/
def State.partnerHears (s : State) : Bool :=
  match s.join.pair with
  | some p => s.linksTo p.partner != []
  | none => false

/-- A warm reset (R362). Cells that a hearing partner takes over are not restored: this device is standby for them (R367). -/
def State.warmReset (s : State) (cause : Byte) (fault : Bool) : State :=
  let s0 := if fault then s.handOver else s
  let was := match s.wh.restart with | some r => r.cells ||| s.runningMask | none => s.runningMask
  let taken := fault && s.partnerHears
  let s1 := s0.warmBase cause fault (if fault ∧ taken = false then was else 0)
  let s2 := if taken then { s1 with join := { s1.join with pair := s1.join.pair.map fun p =>
      { p with standby := p.standby ||| was, taken := false, linkLost := false } } } else s1
  s2.romWarm

/-- Safe state (R361): Hall is absent for the mailboxes, FAULT_N is low. -/
def State.enterSafe (s : State) : State :=
  (s.handOver.mbHallGone).modWh fun w => { w with safe := true, faultLow := true }

/-! ### Pins -/

def pwrGoodFallEffect (s : State) : State := s.coldReset false

def execPwrGoodFall (s : State) : Host.Outcome State Fault Refusal := .next (pwrGoodFallEffect s)

/-- RESET_N falls: a warm reset once READY has been reached, before that the cold boot starts again (R449). -/
def resetNAssertEffect (s : State) : State :=
  if s.pins.pwrGood = false then s
  else if s.sec.phase = .served ∨ s.wh.restart.isSome then s.warmReset 6 false
  else s.coldReset true

def execResetNAssert (s : State) : Host.Outcome State Fault Refusal := .next (resetNAssertEffect s)

/-! ### USB boot-ROM mode (R457) -/

/-- The 8-byte response of boot-ROM mode. -/
def State.romAnswer (s : State) (status reason next : Nat) : State :=
  s.send (.usbMailbox 0 ([BitVec.ofNat 8 status, BitVec.ofNat 8 reason, 0, 0] ++ natLE 4 next))

/-- A chunk of an image, at the offset that the ROM expects. -/
def State.romChunk (s : State) (wh : Bool) (offset : Word) (data : List Byte) : State :=
  let i : Fin 2 := if wh then 1 else 0
  if s.sec.phase = .rom ∧ s.host.usbConfigured then
    let pos := vget s.sec.romPos i
    if offset.toNat ≠ pos ∨ 65536 < data.length then s.romAnswer 2 0 pos
    else
      let s1 := s.modSec fun x => { x with
        romHall := if wh then x.romHall else setBytes x.romHall pos data
        romWh := if wh then setBytes x.romWh pos data else x.romWh
        romPos := vset x.romPos i (pos + data.length) }
      s1.romAnswer 0 0 (pos + data.length)
  else s

def hallChunkEffect (offset : Word) (data : List Byte) (s : State) : State := s.romChunk false offset data
def execHallChunk (offset : Word) (data : List Byte) (s : State) : Host.Outcome State Fault Refusal := .next (hallChunkEffect offset data s)

def weighhouseChunkEffect (offset : Word) (data : List Byte) (s : State) : State := s.romChunk true offset data
def execWeighhouseChunk (offset : Word) (data : List Byte) (s : State) : Host.Outcome State Fault Refusal :=
  .next (weighhouseChunkEffect offset data s)

/-- GO: the Hall image is verified and runs, then the Weighhouse image; a failure keeps both buffers and starts their offsets
again. -/
def goEffect (s : State) : State :=
  if s.sec.phase = .rom ∧ s.host.usbConfigured then
    let hall := s.sec.romHall
    let wh := s.sec.romWh
    match s.verifyImage 1 hall with
    | none =>
      let s1 := ((s.romAnswer 0 0 0).modSec fun x => { x with
        usbBoot := true, phase := if s.wh.restart.isSome then .served else .booting }).startHall hall 1 false
      let r := s1.tryImage 2 2 wh
      if r.1 then r.2.startWh wh false else r.2.modSec fun x => { x with failed := some 1 }
    | some reason =>
      ((s.verifyFail 1 reason 2 hall).modSec fun x => { x with romPos := Vector.replicate 2 0 }).romAnswer 7 reason 0
  else s

def execGo (s : State) : Host.Outcome State Fault Refusal := .next (goEffect s)

/-! ### READY and serving (R458, R460-R462, R362) -/

/-- Stall n once it has been tested: in service at a frequency of its PLL that the spec does not give (R246, R395), or out of service. -/
def State.upStall (s : State) (pass : StallId → Bool) (n : StallId) : Stall :=
  let x := s.stall n
  if pass n then
    { x with
      inService := true, out := false, selftest := false, limit := 0, sfStd := Vector.replicate 2 true, dmaMode := 0
      slewAt := s.up
      aclk := 1000 + (s.freeBits n.val).toNat % ((s.targetOf n - 1000) / 25 + 1) * 25 }
  else x.off

/-- The stall domains turn on in stall order, before the stalls are tested (R395); the domain of one that fails is turned off again, and
the others are served, with their kernels (R153). -/
def State.stallsUp (s : State) (pass : StallId → Bool) : State :=
  let s1 := (List.finRange 64).foldl (fun s n => s.setDomain n.val true) s
  let s2 := (List.finRange 64).foldl (fun (s : State) n => if pass n then s.loadKernels n else s.setDomain n.val false) s1
  ({ s2 with stalls := vgen 64 (s2.upStall pass) }.drew 64).retarget

/-- Weighhouse and Hall are up and the device serves. -/
def State.serving (s : State) : State :=
  (s.modWh fun w => { w with ready := true, hallUp := true, safe := false, faultLow := false, restart := none, hallDown := none }).modSec
    fun x => { x with ready := true, phase := .served }

/-- A stall that fails its boot self-test is named (R460). -/
def State.bootStallFail (s : State) (f : StallId × Fin 3) : State :=
  (s.modStall f.1 fun x => { x with bootFail := true, out := true }).raise 0x0905 (evtSource 1 f.1.val)
    [BitVec.ofNat 8 f.1.val, BitVec.ofNat 8 f.2.val]

/-- Boot completes (R458): DRAM trained, stalls tested, memories cleared and tables loaded; then READY, unless Weighhouse, training
or every stall has failed (R461), and the fuses advance (R456). -/
def deviceReadyEffect (failed : List (StallId × Fin 3)) (trained : Bool) (bootMs : Nat) (s : State) : State :=
  if s.sec.phase = .booting ∧ s.sec.hallRun ∧ s.sec.failed = none then
    if trained = false then s.modSec fun x => { x with failed := some 2 }
    else
      let s0 := { s with
        fab := { s.fab with trained := true }
        mem := memClear s.mem 0x10000000 (plainBase + plainSize)
        hist := { s.hist with sram := [] } }.modPwr fun p => { p with domains := p.domains ||| (0x7FF#86 <<< 64) }
      let s1 := failed.foldl State.bootStallFail s0
      let pass := fun n : StallId => !(failed.any fun f => f.1 == n)
      if (List.finRange 64).all fun n => !pass n then s1.modSec fun x => { x with failed := some 3 }
      else
        let s2 := (s1.stallsUp pass).serving
        let s3 := (s2.modSec fun x => { x with
          bootMs := BitVec.ofNat 32 bootMs, advanced := true
          stageBase := BitVec.ofNat 22 ((s2.freeBits 0).toNat % 4128769) }).drew 1 |>.placePool
        let s4 := (s3.advanceFuses s3.sec.hallImage).advanceFuses s3.sec.whImage
        s4.raise 0x0902 0 ([BitVec.ofNat 8 (bitNat s4.sec.usbBoot), BitVec.ofNat 8 (bitNat s4.sec.hallSlot),
          BitVec.ofNat 8 s4.inServiceCount, 0] ++ natLE 4 bootMs)
  else s

def execDeviceReady (failed : List (StallId × Fin 3)) (trained : Bool) (bootMs : Nat) (s : State) : Host.Outcome State Fault Refusal :=
  .next (deviceReadyEffect failed trained bootMs s)

/-- A cell is served from the first processing slot whose release lies at least 300 µs ahead (R359, Table 15-8). -/
def State.startCell (s : State) (c : CellId) : State :=
  let f := s.frameTiming c
  let t := s.now + ns 300000 + ns (f.planLead * 1000 : Nat)
  let k := f.slotAt t
  let k := if f.start k < t then k + 1 else k
  s.modCell c fun x => { x with running := true, stopping := false, lastSlot := some (k - 1), depthMiss := 0 }

/-- Port registers as Hall's journal has them; the port's domain follows EN (R394). -/
def State.restorePorts (s : State) : State :=
  (List.finRange 4).foldl (fun s p =>
    let j := (s.port p).journal
    (s.modPort p fun x => { x with ctrl := j.1, vlan := j.2 }).setDomain (75 + p.val) (wbit j.1 31)) s

def bitList16 (m : BitVec 16) : List (Fin 16) := (List.finRange 16).filter fun i => m.getLsbD i.val

/-- The device serves again after a warm reset (R362): stalls and tables, and after a fault the ports and cells; safe state ends and
FAULT_N is released, unless a power cycle is asked for (R361, R364). -/
def deviceServingEffect (s : State) : State :=
  match s.wh.restart with
  | some r =>
    if s.sec.hallRun ∧ s.sec.whRun ∧ s.sec.failed = none ∧ s.wh.pwrReqLow = false then
      let s1 := (s.stallsUp fun n => !(s.stall n).out && !(s.stall n).bootFail).serving
      let s2 := if r.fault then (bitList16 r.cells).foldl (fun s c => s.startCell c) s1.restorePorts else s1
      s2.raise 0x0C09 0 ([s.wh.cause, 0, 0, 0] ++ natLE 4 (nsOf (s.up - r.start) / 1000).toNat ++ natLE 2 r.cells.toNat)
    else s
  | none => s

def execDeviceServing (s : State) : Host.Outcome State Fault Refusal := .next (deviceServingEffect s)

/-- A fault-caused warm reset that is not serving after 100 ms asks for a power cycle (R364). -/
def powerCycleRequestEffect (s : State) : State :=
  match s.wh.restart with
  | some r =>
    if r.fault ∧ ns 100000000 ≤ s.up - r.start then s.modWh fun w => { w with pwrReqLow := true, safe := true, faultLow := true } else s
  | none => s

def execPowerCycleRequest (s : State) : Host.Outcome State Fault Refusal := .next (powerCycleRequestEffect s)

end Sys2Proof.Machine
end

