-- ==== Sys2Proof/Machine/SecCmd.lean ====
section
/-! DEFINITION. Loading images and bundles (R455, R462), attestation (R464) and debug unlock (R465). Log entries 6, 21 and 22 name
the readings. -/
namespace Sys2Proof.Machine

/-! ### The staging area (R462) -/

def stagingSize : Nat := 0x10000000

/-- DRAM address of the staging area. -/
def State.stagingAddr (s : State) : Nat := dramBase + s.sec.stageBase.toNat * 4096

/-- The area belongs to a command of the other type. -/
def State.staged (s : State) (code : Nat) : Bool :=
  match s.sec.owner with
  | some (o, _) => o != code
  | none => false

/-- A chunk at an offset: to DRAM, or before READY to Hall memory, which takes one Weighhouse image (R461). -/
def State.putChunk (s : State) (code off : Nat) (bs : List Byte) : State :=
  let owner := if off = 0 then some (code, s.up) else s.sec.owner.map fun o => (o.1, s.up)
  let s1 := s.modSec fun x => { x with owner := owner }
  if s.sec.ready then { s1 with mem := memWrite s1.mem (s.stagingAddr + off) bs }
  else s1.modSec fun x => { x with romWh := setBytes x.romWh off bs }

/-- The bytes that a finish takes. -/
def State.stagedImage (s : State) (total : Nat) : List Byte :=
  if s.sec.ready then memRead s.mem s.stagingAddr total else s.sec.romWh.take total

/-- Room of the area. -/
def State.stagingRoom (s : State) : Nat := if s.sec.ready then stagingSize else 196608 + 512

/-- The chunk and finish of a transfer; finish acts on a verified image. -/
def State.transfer (s : State) (code type : Nat) (l : List MItem) (finish : List Byte → State → Reply) : Reply :=
  if s.staged code then Reply.bad s stConflict (if (itemVal l 12).isSome then 0x0902 else 0x0903)
  else
    let s1 : Option State := match itemVal l 12, itemNum l 0x0902 with
      | some bs, some off => if off + bs.length ≤ s.stagingRoom then some (s.putChunk code off bs) else none
      | none, none => some s
      | _, _ => none
    match s1 with
    | none => Reply.bad s stBadArg (itemOffset l (if (itemVal l 0x0902).isSome then 0x0902 else 12))
    | some s1 =>
      match itemNum l 0x0903 with
      | none => if (itemVal l 12).isSome then Reply.ok s1 else Reply.bad s stBadArg 16
      | some total =>
        if s.stagingRoom < total then Reply.bad s stBadArg (itemOffset l 0x0903)
        else
          let img := s1.stagedImage total
          let r := (s1.modSec fun x => { x with owner := none }).tryImage type 4 img
          if r.1 then finish img r.2 else Reply.bad r.2 stFault 0

def chunkItems (id : Nat) (v : List Byte) : Option Bool :=
  if id = 12 then some (decide (v.length ≤ 4064))
  else if id = 0x0902 then some (sized 4 v)
  else if id = 0x0903 then some (sized 4 v)
  else none

/-- FIRMWARE_UPDATE (R455). -/
def firmwareUpdateEffect (m : MboxId) (s : State) : State :=
  s.mbCommand m 0x10 (fun id v => if id = 0x0901 then some (inRange 1 2 v) else chunkItems id v) fun l s =>
    match itemNum l 0x0901 with
    | none => if (itemVal l 0x0903).isSome then (Reply.bad s stBadArg 16, .now)
      else (s.transfer 0x10 1 l fun _ s => Reply.ok s, .background)
    | some t => (s.transfer 0x10 t l fun img s => Reply.ok (s.writeFlash (t == 2) img), .background)

def execFirmwareUpdate (m : MboxId) (s : State) : Host.Outcome State Fault Refusal := .next (firmwareUpdateEffect m s)

/-- The offset books of a bundle are copied into Plain, at addresses that the spec leaves to Hall (free, log entry 5), for the plans that
Hall builds from now on (R171). -/
def State.loadBooks (s : State) (c : CellId) (img : List Byte) : State :=
  let put (s : State) (bg1 : Bool) (a : Nat) : State := s.agentWrite Source.hall a ((Config.bundleBook img bg1).take (bookSize bg1))
  let place (i : Nat) (bg1 : Bool) : Nat := plainBase + (s.freeBits i).toNat % ((plainSize - bookSize bg1) / 64 + 1) * 64
  let x := s.cell c
  let k := if x.running then s.procNow c + 3 else 0
  ((put (put (s.drew 2) true (place 0 true)) false (place 1 false))).modCell c fun x => { x with
    books := (if x.running then x.books else []) ++ [⟨k, place 0 true, place 1 false⟩] }

/-- A bundle that passes is loaded for a cell (R462): measurement 3, its fuses (R456), its offset books, and its identity
mirrored (Table 12-6). -/
def State.loadBundle (s : State) (c : CellId) (img : List Byte) : State :=
  let h := img.take 512
  let d := Config.shake256 h
  let s1 := ((s.modCell c fun x => { x with bundle := some d }).modSec fun x => { x with bundles := x.bundles ++ [(c, h)] }).loadBooks c img
  ((s1.extend 3 (imgMeasure img)).advanceFuses h).mirror ([2, BitVec.ofNat 8 c.val] ++ digestBytes d)

def bundleLoadEffect (m : MboxId) (s : State) : State :=
  s.mbCommand m 0x11 (fun id v => if id = 0x0101 then some (inRange 0 15 v) else chunkItems id v) fun l s =>
    match itemNum l 0x0101, itemNum l 0x0903 with
    | none, some _ => (Reply.bad s stBadArg 16, .now)
    | c, _ => (s.transfer 0x11 3 l fun img s => Reply.ok (s.loadBundle (cellOf (c.getD 0)) img), .background)

def execBundleLoad (m : MboxId) (s : State) : Host.Outcome State Fault Refusal := .next (bundleLoadEffect m s)

/-- 10 s without a chunk free the area (R462). -/
def stagingTimeoutEffect (s : State) : State :=
  match s.sec.owner with
  | some (_, t) => if ns 10000000000 ≤ s.up - t then s.modSec fun x => { x with owner := none } else s
  | none => s

def execStagingTimeout (s : State) : Host.Outcome State Fault Refusal := .next (stagingTimeoutEffect s)

/-! ### Attestation (R464) -/

def steppingCode : Nat := if Config.steppingB0 then 0xB0 else 0xA1

/-- Bytes 0-687 of the report (Table 16-7). -/
def State.attestBody (s : State) (nonce : List Byte) : List Byte :=
  natLE 4 0x43564154 ++ natLE 2 1
    ++ [BitVec.ofNat 8 steppingCode, BitVec.ofNat 8 deviceClass, BitVec.ofNat 8 (bitNat Config.gradeE), (s.sec.debug).setWidth 8,
        BitVec.ofNat 8 (s.svnCounter 0), BitVec.ofNat 8 (s.svnCounter 1), BitVec.ofNat 8 (s.svnCounter 2), 0, 0, 0]
    ++ digestBytes Config.serial ++ (nonce ++ List.replicate (64 - nonce.length) 0) ++ digestBytes s.fuseDigest
    ++ (vlist s.sec.meas).flatMap (fun m => digestBytes m) ++ ptpBytes s.now ++ natLE 4 0

/-- The two certificates in the fuses, each after its length. -/
def State.certificates (s : State) : List Byte × List Byte :=
  let b := s.fuseBytes 0x400 512
  let n := bytesNat b 0 2
  let rest := b.drop (2 + n)
  ((b.drop 2).take n, (rest.drop 2).take (bytesNat rest 0 2))

def attestEffect (m : MboxId) (s : State) : State :=
  s.mbNow m 0x12 (fun id v => if id = 0x0904 then some (decide (1 ≤ v.length) && decide (v.length ≤ 64)) else none) fun l s =>
    match itemVal l 0x0904 with
    | none => Reply.bad s stBadArg 16
    | some nonce =>
      if s.sec.keysDead then Reply.bad s stDenied 0x0904
      else
        let body := s.attestBody nonce
        let report := body ++ digestBytes (Config.attestSign body) ++ List.replicate 14 0
        Reply.ok s (itemBytes 0x0905 report ++ itemBytes 0x0906 s.certificates.1 ++ itemBytes 0x0907 s.certificates.2)

def execAttest (m : MboxId) (s : State) : Host.Outcome State Fault Refusal := .next (attestEffect m s)

/-! ### Debug unlock (R465) -/

/-- A challenge for a level. -/
def State.challenge (s : State) (level : Nat) : List Byte :=
  digestBytes Config.serial ++ digestBytes (Config.randomBlock s.sec.randoms) ++ [BitVec.ofNat 8 level] ++ List.replicate 15 0

/-- The level that a challenge is for. -/
def challengeLevel (c : List Byte) : Nat := bytesNat c 48 1

def debugUnlockEffect (m : MboxId) (s : State) : State :=
  s.mbNow m 0x13 (fun id v => if id = 0x090A then some (inRange 1 2 v) else if id = 0x0909 then some (sized 114 v) else none) fun l s =>
    if Config.debugDisable then Reply.bad s stDenied 0x090A
    else
      match itemVal l 0x0909, itemNum l 0x090A with
      | none, none => Reply.bad s stBadArg 16
      | none, some level =>
        let c := s.challenge level
        Reply.ok (s.modSec fun x => { x with challenge := some (c, s.up + ns 60000000000), randoms := x.randoms + 1 }) (itemBytes 0x0908 c)
      | some resp, _ =>
        match s.sec.challenge with
        | some (c, t) =>
          if t ≤ s.up then Reply.bad s stDenied 0x0909
          else
            let s1 := s.modSec fun x => { x with challenge := none }
            if Config.shake256 Config.debugKey = Config.debugKeyHash ∧ Config.ed448Verify Config.debugKey c resp then
              let level := challengeLevel c
              Reply.ok (((s1.modSec fun x => { x with
                debug := BitVec.ofNat 2 level, keysDead := x.keysDead || level == 2, unlocks := x.unlocks ++ [c] }).extend 4 c).raise
                  0x0904 0 [BitVec.ofNat 8 level])
            else Reply.bad s1 stFault 0
        | none => Reply.bad s stDenied 0x0909

def execDebugUnlock (m : MboxId) (s : State) : Host.Outcome State Fault Refusal := .next (debugUnlockEffect m s)

/-- A challenge expires after 60 s. -/
def debugChallengeExpiryEffect (s : State) : State :=
  match s.sec.challenge with
  | some (_, t) => if t ≤ s.up then s.modSec fun x => { x with challenge := none } else s
  | none => s

def execDebugChallengeExpiry (s : State) : Host.Outcome State Fault Refusal := .next (debugChallengeExpiryEffect s)

end Sys2Proof.Machine
end

