-- ==== Sys2Proof/Machine/Golden.lean ====
section
/-! DEFINITION. Golden frames and their collisions (R353, R354, R356), stalls taken out of service and returned (R356, R357), and
the self-test of the checker (R355). Log entry 25 names the readings. -/
namespace Sys2Proof.Machine

def Golden.reset : Golden := ⟨false, false, 0, 0, none⟩

def State.modGolden (s : State) (n : StallId) (f : Golden → Golden) : State :=
  s.modStall n fun x => { x with golden := f x.golden }

/-! ### Placing a frame (R353, R354) -/

/-- The frame of stall n is placed in its queue, or stays due where the queue does not take all of it. -/
def State.placeGolden (s : State) (n : StallId) : State :=
  let es := Config.goldenFrame n
  if s.planFits es then
    let s1 := es.foldl (fun s b => s.append (entryQueue b) b) s
    State.settle s (s1.modGolden n fun g => { g with due := false, running := true })
  else s.modGolden n fun g => { g with due := true }

/-- The bulk queue whose waiting entry would be the next one on stall n. -/
def State.firstBulk (s : State) (n : StallId) : Option QueueId :=
  ((List.finRange 32).filter fun q => (s.queue q).cls = 1 ∧ s.serves q n = true ∧
      ((s.queue q).front.any fun e => e.isWaiting) = true).foldl
    (fun best q => match best with
      | some b => if dispatchBefore s q b then some q else best
      | none => some q) none

/-- The cell of the first bulk entry that a frame goes ahead of on stall n. -/
def State.aheadOf (s : State) (n : StallId) : Option CellId :=
  ((s.firstBulk n).bind fun q => (s.queue q).front).map fun e => e.desc.cell

/-- A frame under the rule for the fifth collision: at once, at each engine's next command boundary. -/
def State.goldenAtOnce (s : State) (n : StallId) : State :=
  let s1 := s.modGolden n fun g => { g with collisions := max 5 g.collisions, charge := s.aheadOf n }
  if (s.stall n).golden.running then s1 else s1.placeGolden n

/-- An engine of stall n runs a firm or bulk command, or the stall is a reserve stall in its window. -/
def State.goldenCollides (s : State) (n : StallId) : Bool :=
  (s.window n).isSome || engines.any fun e => ((s.stall n).running e).any fun r => decide ((s.queue r.q).cls < 2)

/-- Tick j at stall n: a frame that falls due or was deferred is placed, or collides. -/
def goldenDue (j : Int) (s : State) (n : StallId) : State :=
  let g := (s.stall n).golden
  if (s.stall n).inService = false ∨ s.domainOn n.val = false ∨ g.running = true then s
  else if g.due = false ∧ j % 256 ≠ 4 * (n.val : Int) then s
  else if s.goldenCollides n then
    if 4 ≤ g.collisions then s.goldenAtOnce n
    else s.modGolden n fun g => { g with due := true, collisions := g.collisions + 1 }
  else s.placeGolden n

/-- GOLDEN_TICK: the tick that has begun, once. -/
def goldenTickEffect (s : State) : State :=
  let j := s.nowNs / 500000
  if s.wh.ready ∧ s.wh.tick ≠ j then (List.finRange 64).foldl (goldenDue j) (s.modWh fun w => { w with tick := j }) else s

def execGoldenTick (s : State) : Host.Outcome State Fault Refusal := .next (goldenTickEffect s)

/-! ### Stalls out of service (R356, R357) -/

/-- Stall n is taken out of service for a reason of Table 12-8. -/
def State.stallOut (s : State) (n : StallId) (reason : Byte) : State :=
  let s1 := s.raise 0x0C06 (evtSource 1 n.val) [BitVec.ofNat 8 n.val, reason]
  let s2 := s1.modStall n fun x => { x with
    out := true, golden := Golden.reset, outTimes := recent s.up (ns 3600000000000) x.outTimes ++ [s.up] }
  s2.stallOff n

/-- The engine time of a frame counts against the reserve of its cell. -/
def State.chargeGolden (s : State) (n : StallId) (ac : Nat) : State :=
  match (s.stall n).golden.charge.bind fun c => s.reserveOf c with
  | some r => { s with qm := { s.qm with reserves := s.qm.reserves.map fun x =>
      if x = r then { x with unspent := x.unspent - ac } else x } }
  | none => s

/-- A golden failure starts the pair's count of lock-step mismatches again (R390). -/
def State.forgetMismatches (s : State) : State :=
  { s with join := { s.join with lockstep := s.join.lockstep.map fun y => { y with mismatches := [] } } }

/-- The digest of a frame is right, or wrong: a second wrong one in succession takes the stall out of service. -/
def goldenFrameResultEffect (n : StallId) (ok : Bool) (ac : Nat) (s : State) : State :=
  let g := (s.stall n).golden
  if g.running then
    let s1 := s.chargeGolden n ac
    if ok then s1.modStall n fun x => { x with suspect := false, golden := Golden.reset }
    else
      let s2 := (s1.forgetMismatches.devInc .whGoldenFail).raise 0x0C05 (evtSource 1 n.val)
        [BitVec.ofNat 8 n.val, BitVec.ofNat 8 (g.failures + 1), BitVec.ofNat 8 g.collisions]
      if g.failures = 0 then (s2.modGolden n fun g => { g with running := false, failures := 1 }).goldenAtOnce n
      else s2.stallOut n (if (s.stall n).suspect then 2 else 0)
  else s

def execGoldenFrameResult (n : StallId) (ok : Bool) (ac : Nat) (s : State) : Host.Outcome State Fault Refusal :=
  .next (goldenFrameResultEffect n ok ac s)

/-- The mailbox whose STALL_SERVICE waits for stall n: the command holds the stall as DETAIL until it is answered. -/
def State.serviceOf (s : State) (n : StallId) : Option MboxId :=
  (List.finRange 8).find? fun m =>
    match (s.mb m).phase with
    | .taken _ code _ _ detail _ => code == 0x41 && detail == n.val
    | _ => false

/-- The test of a stall that was out has ended: 1 s after it left, unless it left 3 times within 3 600 s, or because the host asks. -/
def stallReturnEffect (n : StallId) (pass : Bool) (s : State) : State :=
  let x := s.stall n
  let host := s.serviceOf n
  let waited := match x.outTimes.getLast? with
    | some t => decide (ns 1000000000 ≤ s.up - t)
    | none => true
  if x.out = true ∧ x.bootFail = false ∧ s.hallAbsent = false ∧ s.pwr.tripHold = false ∧
      (host.isSome = true ∨ (waited = true ∧ x.outTimes.length < 3)) then
    let s1 :=
      if pass then
        let on := if s.domainOn n.val then s else s.stallOn n
        ((on.serve n).modStall n fun x => { x with suspect := false, golden := Golden.reset }).retarget.raise 0x0C07
          (evtSource 1 n.val) [BitVec.ofNat 8 n.val]
      else s
    match host with
    | some m => if pass then s1.mbReleaseWith m stOk 0 [] else s1.mbReleaseWith m stFault 0 []
    | none => s1
  else s

def execStallReturn (n : StallId) (pass : Bool) (s : State) : Host.Outcome State Fault Refusal := .next (stallReturnEffect n pass s)

def stallServiceItems (id : Nat) (v : List Byte) : Option Bool :=
  if id = 1 then some (inRange 0x400 0x43F v) else none

/-- STALL_SERVICE (R357): a stall that failed its self-test at boot stays out until the next cold boot (R460). -/
def stallServiceEffect (m : MboxId) (s : State) : State :=
  s.mbCommand m 0x41 stallServiceItems fun l s =>
    match itemNum l 1 with
    | none => (Reply.bad s stBadArg 16, .now)
    | some t =>
      let n := stallOf t
      let x := s.stall n
      if x.inService then (Reply.ok s, .now)
      else if x.bootFail then (Reply.bad s stDenied 1, .now)
      else if s.pwr.tripHold then (Reply.bad s stNotReady 0, .now)
      else (⟨stOk, n.val, [], s.modStall n fun x => { x with out := true }⟩, .foreground)

def execStallService (m : MboxId) (s : State) : Host.Outcome State Fault Refusal := .next (stallServiceEffect m s)

/-! ### The checker's self-test (R355) -/

/-- At every tick with j mod 1 024 = 2; a failure resets the device (R363). -/
def checkerSelfTestEffect (ok : Bool) (s : State) : State :=
  if s.wh.ready ∧ s.nowNs / 500000 % 1024 = 2 ∧ ok = false then s.warmReset 5 true else s

def execCheckerSelfTest (ok : Bool) (s : State) : Host.Outcome State Fault Refusal := .next (checkerSelfTestEffect ok s)

end Sys2Proof.Machine
end

