-- ==== Sys2Proof/Machine/Params.lean ====
section
/-! DEFINITION. The parameters of a cell that mailbox items set: identifiers (Table 15-6), ranges and units (Tables 01-3, 01-5, 07-1,
10-8, 11-3a, 12-2; R433). -/
namespace Sys2Proof.Machine

/-- A parameter: its item, and the values that its range holds. -/
structure ParamSpec where
  id : Nat
  param : CellParam
  ok : Nat → Bool

def between (lo hi v : Nat) : Bool := decide (lo ≤ v) && decide (v ≤ hi)
def oneOf (l : List Nat) (v : Nat) : Bool := l.contains v

/-- Table 01-5 (with Table 01-3) and ADAPT_KEEP. N_PRB is held against MU when both are known. -/
def cellParams : List ParamSpec :=
  [⟨0x0102, .mu, oneOf [0, 1, 3]⟩, ⟨0x0103, .nPrb, between 11 273⟩, ⟨0x0104, .nUl, between 1 64⟩, ⟨0x0105, .nDl, between 1 64⟩,
   ⟨0x0106, .category, between 0 1⟩, ⟨0x0107, .port, between 0 3⟩, ⟨0x0108, .bfpWidth, oneOf [9, 12, 14, 16]⟩,
   ⟨0x0109, .reservePct, between 80 300⟩, ⟨0x010A, .planLead, between 5 100⟩, ⟨0x010B, .dlAdvance, between 100 400⟩,
   ⟨0x010C, .estBudget, between 4 200⟩, ⟨0x010D, .detBudget, between 4 200⟩, ⟨0x010E, .decBudget, between 1 50⟩,
   ⟨0x010F, .iterCap, between 1 32⟩, ⟨0x0110, .delivery, fun v => between 0 255 v || v == 0xFFFF⟩, ⟨0x0111, .adaptMode, between 0 1⟩,
   ⟨0x0113, .adaptKeep, between 16 1024⟩]

/-- Table 10-8. -/
def frontParams : List ParamSpec :=
  [⟨0x0A01, .nfPrbs, between 0 16⟩, ⟨0x0A02, .bfwWidth, oneOf [9, 12, 14, 16]⟩, ⟨0x0A03, .rampSyms, between 0 2⟩,
   ⟨0x0A04, .g0, between 0 32768⟩, ⟨0x0A05, .g1, between 0 32768⟩, ⟨0x0A06, .rampExt, between 0 1⟩,
   ⟨0x0A07, .rampUpNs, between 0 65535⟩, ⟨0x0A08, .rampDownNs, between 0 65535⟩]

/-- Table 11-3a. -/
def frameParams : List ParamSpec :=
  [⟨0x0B01, .frameOffsetNs, between 0 9999999⟩, ⟨0x0B02, .sfnOffset, between 0 1023⟩]

/-- Table 07-1. -/
def histParams : List ParamSpec :=
  [⟨0x0701, .window, oneOf [16, 32, 48, 64]⟩, ⟨0x0702, .tok, oneOf [4, 8, 16]⟩, ⟨0x0703, .keyFmt, oneOf [7, 8]⟩,
   ⟨0x0704, .prefixLen, oneOf [0, 16, 32, 48, 64]⟩, ⟨0x0705, .maxAge, between 16 1024⟩, ⟨0x0706, .histTracks, between 1 256⟩,
   ⟨0x0707, .histIdle, between 64 4096⟩]

/-- Table 12-2: percentages and decibels in units of 0.1, the ratio in units of 1/16. -/
def checkParams : List ParamSpec :=
  [⟨0x0C03, .thr3, between 50 1000⟩, ⟨0x0C04, .thr4, between 24 256⟩, ⟨0x0C05, .thr5, between 30 200⟩, ⟨0x0C08, .thr8, between 5 60⟩,
   ⟨0x0C09, .thr9, between 10 120⟩, ⟨0x0C0D, .thr13, between 1 100⟩, ⟨0x0C0E, .thr14, between 10 100⟩,
   ⟨0x0C10, .autoRepromote, between 0 1⟩]

/-- Whether an item sets one of some parameters, and within its range. -/
def paramOk (ps : List ParamSpec) (id : Nat) (v : List Byte) : Option Bool :=
  (ps.find? fun p => p.id == id).map fun p => inRange 0 (2 ^ 64) v && p.ok (leNat v)

/-- TARGET names a cell. -/
def targetCell (v : List Byte) : Bool := inRange 0 15 v

/-- A parameter of a cell set. -/
def Cell.set (x : Cell) (p : CellParam) (v : Nat) : Cell := { x with param := vset x.param p.idx v }

/-- Parameters of a cell set from the items that are there. -/
def Cell.setItems (l : List MItem) (ps : List ParamSpec) (x : Cell) : Cell :=
  ps.foldl (fun x p => match itemNum l p.id with | some v => x.set p.param v | none => x) x

/-- A parameter of a cell set by its item. -/
def Cell.setById (x : Cell) (id v : Nat) : Cell :=
  match (cellParams ++ frontParams ++ frameParams ++ histParams ++ checkParams).find? fun p => p.id == id with
  | some p => if p.ok v then x.set p.param v else x
  | none => x

/-- The frame timing of a cell in the time base follows its parameters (R326, R329). -/
def State.setTiming (s : State) (c : CellId) : State :=
  let x := s.cell c
  { s with time := { s.time with
    timing := vset s.time.timing c (some ⟨x.get .mu, x.get .planLead, x.get .frameOffsetNs, x.get .sfnOffset⟩) } }

/-- Width of a parameter's item in a response: 4 bytes for FRAME_OFFSET_NS, 2 for the others. -/
def paramWidth (id : Nat) : Nat := if id = 0x0B01 then 4 else 2

/-- Some parameters of a cell as items. -/
def paramItems (ps : List ParamSpec) (x : Cell) : List Byte :=
  ps.flatMap fun p => itemBytes p.id (natLE (paramWidth p.id) (x.get p.param))

end Sys2Proof.Machine
end

