-- ==== Sys2Proof/Machine/Verdict.lean ====
section
/-! DEFINITION. Verdicts (R335-R348): the tests of Table 12-2, the verdict port, rejection, disagreement, demotion and promotion of
learned paths. Log entries 11, 15 and 25 name the readings. -/
namespace Sys2Proof.Machine

/-! ### Comparisons in decibels

A power ratio a ÷ b is at least k tenths of a decibel when (a ÷ b)^100 is at least 10^k. -/

/-- a ÷ b exceeds k tenths of a decibel. -/
def dbOver (a b : Nat) (k : Int) : Bool := decide (b ^ 100 * 10 ^ k.toNat < a ^ 100 * 10 ^ (-k).toNat)

/-- a ÷ b is at least k tenths of a decibel. -/
def dbReach (a b : Nat) (k : Int) : Bool := decide (b ^ 100 * 10 ^ k.toNat ≤ a ^ 100 * 10 ^ (-k).toNat)

/-! ### The tests of Table 12-2 -/

/-- The magnitude of an LLR; 80h counts as −127 (R161). -/
def llrMag (b : Byte) : Nat := min 127 b.toInt.natAbs

/-- Bits on which both LLRs are at least 8 in magnitude, with whether the hard decisions differ (R343). -/
def shadowBits (a b : List Byte) : List Bool :=
  ((a.zip b).filter fun p => decide (8 ≤ llrMag p.1) && decide (8 ≤ llrMag p.2)).map fun p =>
    p.1.toInt.sign != p.2.toInt.sign

/-- The first of numbered tests that fails. -/
def firstFailing (l : List (Nat × Bool)) : Option Nat := (l.find? (·.2)).map (·.1)

/-- Test 4: the mean magnitude against Λ_ref; skipped where P is not available or P_blk does not exceed it (R340). -/
def llrMagFails (tol : Nat) (llrs : List Byte) (pow : Option (Nat × Nat)) (q : Nat) : Bool :=
  match pow with
  | some (pBlk, p) =>
    if pBlk ≤ p then false
    else
      let g := Nat.gcd (pBlk - p) p
      let mean : Rat := ((llrs.map llrMag).sum : Rat) / (llrs.length : Rat)
      let ref := Config.lambdaRef q ((pBlk - p) / g) (p / g)
      let t : Rat := (tol : Rat) / 16
      decide (mean > ref * t) || decide (mean * t < ref)
  | none => false

/-- Test 5: the CRC failed although SNR_ref reaches REQ and the margin. -/
def decSnrFails (margin : Nat) (crcPass : Bool) (mcs layers : Nat) (pow : Option (Nat × Nat)) : Bool :=
  match pow with
  | some (pBlk, p) => if pBlk ≤ p then false else !crcPass && dbReach (pBlk - p) p (Config.reqSnr mcs layers + margin)
  | none => false

/-- Weight power of a layer, and of one antenna over the layers. -/
def layerPower (l : List (Int × Int)) : Nat := (l.map fun w => w.1.natAbs ^ 2 + w.2.natAbs ^ 2).sum
def antennaPower (ls : List (List (Int × Int))) (a : Nat) : Nat :=
  (ls.map fun l => layerPower ((l.drop a).take 1)).sum

/-- Test 9: an antenna's share of the weight power exceeds the mean over the antennas. -/
def antennaFails (max_ : Nat) (ls : List (List (Int × Int))) : Bool :=
  let n := (ls.map List.length).foldl max 0
  let total := (ls.map layerPower).sum
  (List.range n).any fun a => dbOver (antennaPower ls a * n) total max_

/-- The channels of a scheduler's output are what Table 06-1 supports, and it asks for nothing that R156 excludes. -/
def shapesOk (o : SchedOutput) : Bool :=
  !o.unsupported
    && (o.pusch.all fun p => if p.dfts then p.layers == 1 && [1, 2, 4, 6, 8].contains p.qBits
      else decide (1 ≤ p.layers) && decide (p.layers ≤ 4) && [2, 4, 6, 8].contains p.qBits)
    && (o.pdsch.all fun p => decide (1 ≤ p.1) && decide (p.1 ≤ 8) && [2, 4, 6, 8, 10].contains p.2)
    && (o.srs.all fun p => [1, 2, 4].contains p.1 && [2, 4, 8].contains p.2) && o.pucch.all fun f => decide (f ≤ 4)

/-- The first failing test of an output of a cell; pow is P_blk and P of an uplink block, in one unit (R340). -/
def Cell.judge (x : Cell) (pow : Option (Nat × Nat)) : VerdictInput → Option Nat
  | .llr llrs erased q snr shadow =>
    let n := llrs.length
    firstFailing
      ([(1, llrs.contains 0x80), (2, (llrs.zip erased).any fun p => p.2 && p.1 != 0),
        (3, decide (x.get .thr3 * n < 1000 * (llrs.filter fun b => llrMag b == 127).length)),
        (4, llrMagFails (x.get .thr4) llrs pow q)]
       ++ match shadow with
          | some o =>
            let bits := shadowBits llrs o.llrs
            [(13, decide (x.get .thr13 * bits.length < 1000 * (bits.filter id).length)),
             (14, decide ((x.get .thr14 : Int) < ((snr - o.snr).natAbs : Int)))]
          | none => [])
  | .decoded crcPass syndrome iters recheckPass mcs layers =>
    firstFailing
      [(5, decSnrFails (x.get .thr5) crcPass mcs layers pow),
       (6, (crcPass && syndrome != 0) || decide (x.get .iterCap < iters)),
       (7, crcPass && !recheckPass)]
  | .uci crcPass recheckPass => firstFailing [(7, crcPass && !recheckPass)]
  | .weights layers fullScale =>
    firstFailing
      [(8, layers.any fun l => dbOver (layerPower l) fullScale (x.get .thr8) || dbOver fullScale (layerPower l) (x.get .thr8)),
       (9, antennaFails (x.get .thr9) layers)]
  | .precoded comps =>
    firstFailing [(10, decide (comps.length < 1000 * (comps.filter fun c => c == 0x8000 || c == 0x7FFF).length))]
  | .encoded crcAgrees syndrome => firstFailing [(11, !crcAgrees || syndrome != 0)]
  | .sched tbs cbs layers uciPucch uciPusch prach srs pdsch dci prbEnd overlap mcsOk ndiOk out =>
    firstFailing [(12, decide (32 < tbs ∨ 160 < cbs ∨ 16 < layers ∨ x.get .nUl < layers ∨ 64 < uciPucch ∨ 32 < uciPusch ∨ 8 < prach
      ∨ 64 < srs ∨ 32 < pdsch ∨ 64 < dci ∨ x.get .nPrb < prbEnd ∨ 16 < overlap) || !mcsOk || !ndiOk || !shapesOk out)]

/-! ### The slot of an output -/

/-- The processing slot in which an output of a path is made: uplink air slot n in slot n + 1, downlink air slot m in slot m − 1. -/
def State.procSlot (s : State) (b : JudgedBlock) : Int :=
  let a := (s.frameTiming b.ref.cell).absOf s.now b.ref.air
  match b.path with
  | .receiver => a + 1
  | .precoder => a - 1
  | .scheduler => a

/-- Position of a path. -/
def pathIdx : PathKind → Fin 3
  | .receiver => 0
  | .precoder => 1
  | .scheduler => 2

def State.path (s : State) (c : CellId) (p : PathKind) : PathState := vget (s.cell c).paths (pathIdx p)

def State.modPath (s : State) (c : CellId) (p : PathKind) (f : PathState → PathState) : State :=
  s.modCell c fun x => { x with paths := vmod x.paths (pathIdx p) f }

/-- The code block's number among those of the cell's slot, in grant-book order; code words of UCI are no code blocks (R342). -/
def State.codeIndex (s : State) (r : BlockRef) : Nat :=
  match s.ulSlot r.cell r.air with
  | some u => (((u.units.take r.unit).filter fun x => x.kind == 1).map fun x => x.blocks.length).sum + r.cb
  | none => r.cb

/-- The block is sampled by the shadow tally (R342). -/
def State.sampled (s : State) (r : BlockRef) : Bool :=
  (s.ulUnit r).all (fun u => u.kind == 1) && (s.codeIndex r + slotIndex (s.frameTiming r.cell).mu r.air) % 8 == 0

/-! ### Reference powers (R340) -/

/-- Sum of |v|² over the streams of a resource element that the crate has data of, dequantised, and their number. -/
def State.rePower (s : State) (y : Cell) (x : IngSlot) (prb sym k : Nat) : Nat × Nat :=
  let j := x.roi.findIdx (· == prb)
  if x.roi.length ≤ j then (0, 0)
  else
    let sc := crateStreams (y.get .nUl)
    let a := y.crateAddr x.air (j / 16)
    let i := 16 * sym + j % 16
    let sh := memNat s.mem (a + 64 + i) 1
    let mask := memNat s.mem (a + 320 + 8 * i) 8
    let row := a + 2112 + (12 * i + k) * (2 * sc)
    let power (t : Nat) : Nat :=
      let re := (memByte s.mem (row + 2 * t)).toInt.natAbs
      let im := (memByte s.mem (row + 2 * t + 1)).toInt.natAbs
      (re * re + im * im) * 4 ^ sh
    let ts := (List.range sc).filter fun t => bitOf mask t
    ((ts.map power).sum, ts.length)

/-- P_blk of a block from its crates and P of its air slot, in one unit; none where P is not available. -/
def State.powers (s : State) (b : JudgedBlock) : Option (Nat × Nat) :=
  match s.ingSlot b.ref.cell b.ref.air with
  | some x =>
    let y := s.cellBuilt b.ref.cell b.ref.air
    let l := b.res.map fun r => s.rePower y x r.1 r.2.1 r.2.2
    let n := x.noise
    if n.2 = 0 then none else some ((l.map (·.1)).sum * n.2, n.1 * (l.map (·.2)).sum)
  | none => none

/-- A block of the learned path whose shadow LLRs count (R343). -/
def State.shadowCounts (s : State) (b : JudgedBlock) : Bool :=
  b.learned && s.sampled b.ref && !(s.ulBlock b.ref).any (·.withdrawn)

/-- The engine's own CRC over the decoded bits, where the model holds them (test 7). -/
def State.recheck (s : State) (b : JudgedBlock) (given : Bool) : Bool :=
  match (s.ulUnit b.ref).bind (·.tx), (s.ulBlock b.ref).bind (·.waiting) with
  | some t, some (⟨_, _, _, _, .bits l, _, _⟩, _) => (blockCrc t (ldpcCode t)).check l
  | _, _ => given

/-- The most units of a kind that a scheduler's output grants for one air slot. -/
def schedMost (o : SchedOutput) (f : UnitDesc → Bool) : Nat :=
  (o.grants.map fun g => (o.grants.filter fun h => h.1 == g.1 && f h.2).length).foldl max 0

/-- Code blocks of the largest transport block that the output grants or assigns. -/
def schedLargest (o : SchedOutput) : Nat :=
  ((o.grants.filterMap fun g => g.2.tx) ++ o.assigns.filterMap (·.tx)).foldl (fun n t => max n (ldpcCode t).blocks) 0

/-- Highest PRB that the region-of-interest list reaches, plus 1. -/
def schedPrbEnd (o : SchedOutput) : Nat := (o.roi.map fun g => g.prbStart + g.prbCount).foldl max 0

/-- What a block is judged by: its LLRs and marks as detection made them, its decoding result as it waits and its CRC (R158), where the
model holds them; the shadow counts on sampled blocks of the learned path only; and what a scheduler's output itself shows of the
counts of Table 06-1. -/
def State.shadowed (s : State) (b : JudgedBlock) : VerdictInput → VerdictInput
  | .llr l e q snr sh =>
    let made := ((s.ulBlock b.ref).bind (·.llr)).getD (l, e)
    .llr made.1 made.2 q snr (if s.shadowCounts b then sh else none)
  | .decoded pass w it recheck mcs layers =>
    match (s.ulBlock b.ref).bind (·.waiting) with
    | some d => .decoded (d.1.reason == 0) d.1.syndrome d.1.iterations (s.recheck b recheck) mcs layers
    | none => .decoded pass w it recheck mcs layers
  | .sched tbs cbs layers uciPucch uciPusch prach srs pdsch dci prbEnd overlap mcsOk ndiOk out =>
    .sched (max tbs (schedMost out fun u => u.kind == 1)) (max cbs (schedLargest out)) layers uciPucch uciPusch prach (max srs out.srs.length)
      (max pdsch out.pdsch.length) dci (max prbEnd (schedPrbEnd out)) overlap mcsOk ndiOk out
  | v => v

/-- The verdict of a sampled block waits for its shadow LLRs (R343). -/
def State.waitsShadow (s : State) (b : JudgedBlock) : VerdictInput → Bool
  | .llr _ _ _ _ none => s.shadowCounts b
  | _ => false

/-! ### Demotion and promotion (R345-R348) -/

/-- Bytes of the DEMOTED and PROMOTED records of processing slot k. -/
def State.pathPayload (s : State) (c : CellId) (p : PathKind) (k : Int) (last : List Byte) : List Byte :=
  let a := (s.frameTiming c).air k
  [BitVec.ofNat 8 c.val, BitVec.ofNat 8 (pathIdx p).val] ++ natLE 2 a.sfn.val ++ [BitVec.ofNat 8 a.slot.val] ++ last

/-- A change of a path's state is mirrored (Table 12-6). -/
def State.mirrorPath (s : State) (c : CellId) (p : PathKind) (demoted : Bool) : State :=
  s.mirror [7, BitVec.ofNat 8 c.val, BitVec.ofNat 8 (pathIdx p).val, BitVec.ofNat 8 (bitNat demoted)]

/-- A path is demoted in processing slot k, whose indication and report, those of air slots k − 1 and k + 1, say so. -/
def State.demote (s : State) (c : CellId) (p : PathKind) (k : Int) : State :=
  let s1 := (s.modPath c p fun x => { x with demoted := true, demotedAt := some k, clean := 0 }).cellAdd c .demotions 1
  let f := s1.frameTiming c
  let s2 := (s1.modUl c (f.air (k - 1)) fun u => { u with demoted := true }).modCell c fun x => { x with
    dl := x.dl.map fun d => if d.air = f.air (k + 1) then { d with demoted := true } else d }
  (s2.raise 0x0C02 (evtSource 2 c.val) (s2.pathPayload c p k [])).mirrorPath c p true

/-- A path is promoted, by the host or automatically. -/
def State.promote (s : State) (c : CellId) (p : PathKind) (byHost : Bool) : State :=
  let k := (s.frameTiming c).slotAt s.now
  let s1 := (s.modPath c p fun _ => PathState.reset).cellAdd c .promotions 1
  (s1.raise 0x0C03 (evtSource 2 c.val) (s1.pathPayload c p k [BitVec.ofNat 8 (bitNat byHost)])).mirrorPath c p false

/-- A disagreement slot noted with the stall of the rejected output, within the last 64 slots counting slot k. -/
def noteDisagree (k : Int) (n : StallId) (l : List (Int × List StallId)) : List (Int × List StallId) :=
  let l1 := l.filter fun e => decide (k - 64 < e.1)
  if l1.any fun e => e.1 == k then
    l1.map fun e => if e.1 = k ∧ e.2.contains n = false then (e.1, e.2 ++ [n]) else e
  else (k, [n]) :: l1

/-- A rejection with cause 32 or 33 of a learned output of a stall that is not suspect (R345-R347). -/
def State.disagree (s : State) (b : JudgedBlock) : State :=
  let c := b.ref.cell
  let k := s.procSlot b
  let x := s.path c b.path
  let fresh := !(x.disagree.any fun e => e.1 == k)
  let l := noteDisagree k b.stall x.disagree
  let s1 := s.cellAdd c .disagreeSlots (bitNat fresh)
  if 3 ≤ (l.filter fun e => e.2.contains b.stall).length then
    let s2 := s1.modPath c b.path fun x => { x with disagree := l.filter fun e => !e.2.contains b.stall }
    (s2.modStall b.stall fun y => { y with suspect := true }).goldenAtOnce b.stall
  else
    let s2 := s1.modPath c b.path fun x => { x with disagree := l }
    if 4 ≤ l.length ∧ x.demoted = false then s2.demote c b.path k else s2

/-! ### The verdict port (R336, R337) -/

/-- The verdict word at an address; Weighhouse reads Plain without firewall checks (R335). -/
def State.verdictWord (s : State) (a : Word) : Nat := memNat s.mem a.toNat 8

/-- A block has been judged. -/
def State.judged (s : State) (a : Word) : Bool := bitOf (s.verdictWord a) 31

def verdictBits (rejected : Bool) (test cause : Nat) : Nat :=
  2 ^ 31 + bitNat rejected * 2 ^ 30 + test % 256 * 256 + cause % 256

def State.writeVerdict (s : State) (b : JudgedBlock) (rejected : Bool) (test cause : Nat) : State :=
  s.qmWrite b.verdictAddr.toNat (natLE 8 (verdictBits rejected test cause))

/-- An LLR block of the learned estimate of a user in an air slot has been judged. Once every block of the user's units has been, the
verdict on the estimate is decided, and its word is written: accepted when none was rejected with cause 32 or 33 (R341). -/
def State.noteEstimate (s : State) (b : JudgedBlock) (ok : Bool) : State :=
  if b.learned = false then s
  else
    let s1 := s.modBlock b.ref fun x => { x with estimate := some (x.estimate.getD ok) }
    match s1.ulSlot b.ref.cell b.ref.air, s1.ulUnit b.ref with
    | some u, some x =>
      let l := (u.units.filter fun y => y.rnti == x.rnti).flatMap (·.blocks)
      if (l.all fun y => y.estimate.isSome) ∧ b.estimateAddr ≠ 0 then
        s1.qmWrite b.estimateAddr.toNat (natLE 8 (verdictBits (l.any fun y => y.estimate == some false) 0 0))
      else s1
    | _, _ => s1

/-- The input is an LLR block. -/
def isLlr : VerdictInput → Bool
  | .llr .. => true
  | _ => false

/-- An accepted output: an LLR block may be decoded, a decoded block is final, a downlink output is let into its launch list, and
the scheduler's output is written to the grant book (R29), let into the launch list with its C-plane sections, and mirrored
(R366). -/
def State.acceptOutput (s : State) (b : JudgedBlock) (v : VerdictInput) : State :=
  let s1 := s.writeVerdict b false 0 0
  let s2 := if (b.dlAlloc.isSome ∨ b.path = .scheduler) ∧ b.acceptAddr ≠ 0 then s1.qmWrite b.acceptAddr.toNat (natLE 8 (2 ^ 31)) else s1
  match v with
  | .llr .. => (s2.modBlock b.ref fun x => { x with classical := some (!b.learned) }).noteEstimate b true
  | .sched _ _ _ _ _ _ _ _ _ _ _ _ _ out =>
    (s2.writeBook b.ref.cell (s2.procSlot b) out).mirror (4 :: slotPayload b.ref.cell b.ref.air)
  | .decoded .. | .uci .. =>
    match (s2.ulBlock b.ref).bind (·.waiting) with
    | some w => s2.blockAccepted b.ref w.1
    | none => s2
  | _ => s2

/-- A rejected output: its word, and its recomputation at a cost. -/
def State.rejectVerdict (s : State) (b : JudgedBlock) (cause test cost : Nat) : State :=
  (s.writeVerdict b true test cause).rejectOutput b (BitVec.ofNat 8 cause) (BitVec.ofNat 8 test) cost

/-- A learned output of the path in a plan released more than 2 slots after the demotion (R346). -/
def State.afterDemotion (s : State) (b : JudgedBlock) : Bool :=
  let x := s.path b.ref.cell b.path
  x.demoted && match x.demotedAt with
    | some k => decide (k + 2 < s.procSlot b)
    | none => false

/-- PLAUSIBILITY_VERDICT (R339-R347): a block is judged once. -/
def plausibilityVerdictEffect (b : JudgedBlock) (v : VerdictInput) (s : State) : State :=
  let done (t : State) : State := State.settle s t
  let llr (ok : Bool) (t : State) : State := if isLlr v then t.noteEstimate b ok else t
  if s.wh.ready = false ∨ s.judged b.verdictAddr = true then s
  else if b.fault then done (llr true (s.rejectVerdict b 36 0 (s.classicalAc b)))
  else if b.learned && s.afterDemotion b then done (llr true (s.rejectVerdict b 37 0 (s.classicalAc b)))
  else if b.learned && (s.stall b.stall).suspect then done (llr true (s.rejectVerdict b 36 0 (s.classicalAc b)))
  else if s.waitsShadow b v then s
  else
    let c := b.ref.cell
    let v := s.shadowed b v
    let s1 := match v with
      | .llr _ _ _ _ (some _) => s.cellAdd c .shadowSamples 1
      | _ => s
    match (s.judgedCell b).judge (s.powers b) v with
    | none => done (s1.acceptOutput b v)
    | some t =>
      let shadow := t == 13 || t == 14
      let s2 := s1.cellAdd c (if shadow then .shadowDisagreeBlocks else .verdictRejectBlocks) 1
      let s3 := s2.rejectVerdict b (if shadow then 33 else 32) t (if shadow then s.decodeOnlyAc b else s.classicalAc b)
      let s4 := llr false s3
      done (if b.learned then s4.disagree b else s4)

def execPlausibilityVerdict (b : JudgedBlock) (v : VerdictInput) (s : State) : Host.Outcome State Fault Refusal :=
  .next (plausibilityVerdictEffect b v s)

/-- The instant, in ns, of a completion record: its START and DURATION_NS (Table 09-6), where it has been written; Weighhouse reads it
without firewall checks (R335). -/
def State.recordEnd (s : State) (a : Word) : Option Int :=
  let b := memRead s.mem a.toNat 32
  if a ≠ 0 ∧ (b.getD 3 0).getLsbD 7 then
    some ((bytesNat b 12 6 * 1000000000 + bytesNat b 18 4 + bytesNat b 24 4 : Nat) : Int)
  else none

/-- The later of the two moments of R338: the completion of the command that produced the block, and for a shadow-sampled block whose
sample has not been withdrawn the completion of its shadow; none while one of them is still to come. -/
def State.verdictFrom (s : State) (b : JudgedBlock) : Option Int :=
  let shadow := b.shadowRecord != 0 && s.shadowCounts b
  match s.recordEnd b.record, (if shadow then s.recordEnd b.shadowRecord else some 0) with
  | some t, some u => some (max t u)
  | _, _ => none

/-- 4 µs have passed without a verdict (R338). -/
def verdictTimeoutEffect (b : JudgedBlock) (s : State) : State :=
  let due := (s.verdictFrom b).any fun t => decide (t + 4000 ≤ s.nowNs)
  if s.wh.ready = false ∨ s.judged b.verdictAddr = true ∨ due = false then s
  else
    let t := (s.tdc .tdcBudget b.ref.cell 1).rejectVerdict b 35 15 (s.classicalAc b)
    State.settle s (if b.path = .receiver then t.noteEstimate b true else t)

def execVerdictTimeout (b : JudgedBlock) (s : State) : Host.Outcome State Fault Refusal := .next (verdictTimeoutEffect b s)

/-- The close of the detection window of an uplink block: 70 % of S into its processing slot (Table 01-2). -/
def State.detectionClose (s : State) (b : JudgedBlock) : Int :=
  (s.frameTiming b.ref.cell).start (s.procSlot b) + pctOf (s.slotLen b.ref.cell) 700

/-- The shadow LLRs of a sample are not there when the detection window closes: the sample is withdrawn, once (R343). -/
def shadowWithdrawEffect (b : JudgedBlock) (s : State) : State :=
  if s.shadowCounts b ∧ s.judged b.verdictAddr = false ∧ s.reached (s.detectionClose b) ∧ s.recordEnd b.shadowRecord = none then ((s.modBlock b.ref fun x => { x with withdrawn := true }).cellAdd b.ref.cell .shadowLate 1).tdc .tdcSched b.ref.cell 1 else s

def execShadowWithdraw (b : JudgedBlock) (s : State) : Host.Outcome State Fault Refusal := .next (shadowWithdrawEffect b s)

/-! ### Re-promotion (R348, R354) -/

/-- The path may be promoted without the host. -/
def State.autoPath (s : State) (c : CellId) (p : PathKind) : Bool :=
  (s.path c p).demoted && !(s.path c p).held && (s.cell c).get .autoRepromote == 1

/-- A slot of the demoted path has been judged against the classical output: clean, or not; a slot without a sample counts for
nothing. -/
def autoRepromoteEffect (c : CellId) (p : PathKind) (sampled clean : Bool) (s : State) : State :=
  if s.autoPath c p ∧ sampled = true then s.modPath c p fun x => { x with clean := if clean then x.clean + 1 else 0 } else s

def execAutoRepromote (c : CellId) (p : PathKind) (sampled clean : Bool) (s : State) : Host.Outcome State Fault Refusal :=
  .next (autoRepromoteEffect c p sampled clean s)

/-- The golden set of a cell's bundle has run: under a candidate's weights, which plans hold from the next that Hall builds (R34), or for a path with 1 024 clean slots (R348). -/
def goldenSetResultEffect (c : CellId) (p : PathKind) (candidate pass : Bool) (s : State) : State :=
  if candidate then
    let a := (s.cell c).adapt
    if pass ∧ a.candidate ≠ [] then
      (s.modCell c fun x => { x with changes := x.keepUntil (s.procNow c), adapt := { x.adapt with promoted := some a.candidate } }).mirror
        ([3, BitVec.ofNat 8 c.val] ++ weightBytes a.candidate)
    else s
  else if s.autoPath c p ∧ 1024 ≤ (s.path c p).clean then
    if pass then s.promote c p false else s.modPath c p fun x => { x with clean := 0 }
  else s

def execGoldenSetResult (c : CellId) (p : PathKind) (candidate pass : Bool) (s : State) : Host.Outcome State Fault Refusal :=
  .next (goldenSetResultEffect c p candidate pass s)

/-! ### Mailbox commands -/

def pathItems (id : Nat) (v : List Byte) : Option Bool :=
  if id = 1 then some (targetCell v) else if id = 2 then some (inRange 0 2 v) else none

/-- The cell and path of LEARNED_PROMOTE and LEARNED_DEMOTE. -/
def pathOf (l : List MItem) : Option (CellId × PathKind) :=
  match itemsCell l, itemNum l 2 with
  | some c, some 0 => some (c, .receiver)
  | some c, some 1 => some (c, .precoder)
  | some c, some _ => some (c, .scheduler)
  | _, _ => none

/-- LEARNED_PROMOTE: a demoted path is promoted at once; AUTO_REPROMOTE acts on it again. -/
def learnedPromoteEffect (m : MboxId) (s : State) : State :=
  s.mbNow m 0x28 pathItems fun l s =>
    match pathOf l with
    | none => Reply.bad s stBadArg 16
    | some (c, p) =>
      if (s.path c p).demoted then Reply.ok (s.promote c p true)
      else Reply.ok (s.modPath c p fun x => { x with held := false })

def execLearnedPromote (m : MboxId) (s : State) : Host.Outcome State Fault Refusal := .next (learnedPromoteEffect m s)

/-- LEARNED_DEMOTE: the path is demoted at once and stays so until the host promotes it. -/
def learnedDemoteEffect (m : MboxId) (s : State) : State :=
  s.mbNow m 0x29 pathItems fun l s =>
    match pathOf l with
    | none => Reply.bad s stBadArg 16
    | some (c, p) =>
      let s1 := s.modPath c p fun x => { x with held := true }
      Reply.ok (if (s.path c p).demoted then s1 else s1.demote c p ((s.frameTiming c).slotAt s.now))

def execLearnedDemote (m : MboxId) (s : State) : Host.Outcome State Fault Refusal := .next (learnedDemoteEffect m s)

/-- Items of CHECK_CONFIGURE: TARGET names the cell. -/
def checkItems (id : Nat) (v : List Byte) : Option Bool := if id = 1 then some (targetCell v) else paramOk checkParams id v

/-- CHECK_CONFIGURE (R339): the thresholds in force are returned, and mirrored. -/
def checkConfigureEffect (m : MboxId) (s : State) : State :=
  s.mbNow m 0x27 checkItems fun l s =>
    match itemsCell l with
    | none => Reply.bad s stBadArg 16
    | some c =>
      let s1 := s.modCell c (Cell.setItems l checkParams)
      let items := paramItems checkParams (s1.cell c)
      Reply.ok (s1.mirror (0 :: items)) (itemBytes 1 (natLE 2 c.val) ++ items)

def execCheckConfigure (m : MboxId) (s : State) : Host.Outcome State Fault Refusal := .next (checkConfigureEffect m s)

end Sys2Proof.Machine
end

