-- ==== Sys2Proof/Machine/Watch.lean ====
section
/-! DEFINITION. The watchdogs of the stages (R349, R350), of Hall (R351, R358, R359) and of Weighhouse (R352, R363), and the loss of the
reference clock (R399). Log entries 22 and 25 name the readings. -/
namespace Sys2Proof.Machine

/-! ### Stage watchdogs (R349, R350) -/

/-- The window of a stage in 0.1 % of S (Table 01-2); a downlink window ends at the hand-over close. -/
def stageSpan (dlAdvance : Nat) : Nat → Nat × Nat
  | 0 => (0, 400)
  | 1 => (0, min 300 (960 - dlAdvance))
  | 2 => (50, min 660 (960 - dlAdvance))
  | 3 => (50, min 720 (960 - dlAdvance))
  | 4 => (100, 550)
  | 5 => (140, 700)
  | 6 => (180, 850)
  | 7 => (180, 880)
  | _ => (200, 940)

/-- The last window of a stage's direction has closed for processing slot k. -/
def State.directionOver (s : State) (c : CellId) (stage : Nat) (k : Int) : Bool :=
  let f := s.frameTiming c
  if stage ≤ 3 then s.reached (s.handover c (f.air (k + 1))) else s.reached (f.start (k + 1))

/-- A command has run for longer than its budget plus 10 µs since its start or the end of an item (R349), or without a budget than its
stage window. -/
def State.stuck (s : State) (c : CellId) (stage : Nat) (r : Running) : Bool :=
  let b := (descOf r.desc).budget
  let w := stageSpan (((s.cell c).inPlan (s.commandSlot c (descOf r.desc))).get .dlAdvance) stage
  let limit := if b = 0 then pctOf (s.slotLen c) (w.2 - w.1) else ns (1000 * b + 10000)
  decide (limit < s.now - if b = 0 then r.start else r.itemStart)

/-- Queues that are a cell's: its fallback queue, and those whose waiting entries are all its own (log entry 25). -/
def State.queuesOf (s : State) (c : CellId) : List QueueId :=
  (List.finRange 32).filter fun q =>
    let x := s.queue q
    let w := x.entries.filter QEntry.isWaiting
    x.en && ((x.fallback && x.cell == c) || (w != [] && w.all fun e => decide (e.desc.cell = c)))

/-- A cell is re-initialised: its queues are flushed and enabled again, and its registered plans are dropped for fresh ones. -/
def State.reinitCell (s : State) (c : CellId) : State :=
  let s1 := (s.queuesOf c).foldl (fun s q =>
    let cfg := (s.queue q).cfg
    queueEnableEffect q cfg (State.settle s (s.flushQueue q))) s
  (({ s1 with time := { s1.time with plans := vset s1.time.plans c [] } } : State).modCell c fun x => { x with wdSlots := [] }).cellAdd c
    .cellReinit 1

/-- A processing slot with a trip: the third of the last 16 makes Hall re-initialise the cell. -/
def State.tripSlot (s : State) (c : CellId) (k : Int) : State :=
  let l := k :: (s.cell c).wdSlots.filter fun j => decide (k - 16 < j) && decide (j ≠ k)
  let s1 := s.modCell c fun x => { x with wdSlots := l }
  if 3 ≤ l.length ∧ s.hallAbsent = false then s1.reinitCell c else s1

/-- A stop that still waits for its command. -/
def State.stopLive (s : State) (w : StopWatch) : Bool :=
  ((s.stall w.stall).running w.engine).any fun r => r.q == w.q && r.idx == w.idx

/-- WD_TRIP: the command on engine e of stall n is of that cell and stage, and one of the two conditions holds. -/
def wdTripEffect (c : CellId) (stage : Fin 9) (n : StallId) (e : Engine) (progress : Bool) (stop : StopPoint) (s : State) :
    State :=
  match (s.stall n).running e with
  | none => s
  | some r =>
    let d := descOf r.desc
    let k := s.commandSlot c d
    let watched := s.wh.stops.any fun w => w.stall == n && w.engine == e && s.stopLive w
    if s.wh.ready = false ∨ (s.cell c).running = false ∨ d.cell ≠ c ∨ d.stage ≠ stage.val ∨ watched = true then s
    else if (if progress then s.stuck c stage.val r else s.directionOver c stage.val k) = false then s
    else
      let a := (s.frameTiming c).air k
      let st := s.stopCommand n e stop
      let s1 := match st with | some p => p.2 | none => s
      let s2 := (s1.modWh fun w => { w with stops := (w.stops.filter s1.stopLive) ++ [⟨c, stage.val, n, e, r.q, r.idx, s.up⟩] }).cellAdd c
        .wdTrips 1
      let s3 := s2.raise 0x0C04 (evtSource 2 c.val)
        ([BitVec.ofNat 8 c.val, BitVec.ofNat 8 stage.val, BitVec.ofNat 8 n.val, BitVec.ofNat 8 (bitNat progress)]
          ++ natLE 2 a.sfn.val ++ [BitVec.ofNat 8 a.slot.val, BitVec.ofNat 8 (bitNat st.isSome)])
      State.settle s (s3.tripSlot c k)

def execWdTrip (c : CellId) (stage : Fin 9) (n : StallId) (e : Engine) (progress : Bool) (item : Nat) (x : FedPasses) (s : State) :
    Host.Outcome State Fault Refusal :=
  .next (wdTripEffect c stage n e progress ⟨item, x.passes, x.fed⟩ s)

/-- WD_STOP_TIMEOUT: the command has not ended 10 µs after its stop, so its stall leaves service. -/
def wdStopTimeoutEffect (c : CellId) (stage : Fin 9) (n : StallId) (e : Engine) (s : State) : State :=
  let hit := s.wh.stops.any fun w => w.cell == c && w.stage == stage.val && w.stall == n && w.engine == e && s.stopLive w
    && decide (ns 10000 ≤ s.up - w.since)
  if hit then
    (s.modWh fun w => { w with stops := w.stops.filter fun x => x.stall != n }).stallOut n 1
  else s

def execWdStopTimeout (c : CellId) (stage : Fin 9) (n : StallId) (e : Engine) (s : State) : Host.Outcome State Fault Refusal :=
  .next (wdStopTimeoutEffect c stage n e s)

/-! ### Hall's watchdog (R351, R358, R359) -/

/-- The Hall domain is reset for a reason of Table 12-8; the ROM verifies the image in DRAM again. The third reset within 10 s is a
warm reset. -/
def State.hallTrip (s : State) (reason : Nat) : State :=
  let resets := recent s.up (ns 10000000000) s.wh.hallResets ++ [s.up]
  let s1 := ((s.modWh fun w => { w with hallUp := false, hallDown := some s.up, hallKick := none, hallResets := resets }).devInc
    .whHallResets).raise 0x0C08 (evtSource 0 0) [BitVec.ofNat 8 reason, BitVec.ofNat 8 resets.length]
  if 3 ≤ resets.length then s1.warmReset 2 true
  else
    let r := s1.mbHallGone.tryImage 1 3 s1.sec.hallImage
    if r.1 then r.2 else r.2.modSec fun x => { x with hallRun := false }

/-- Weighhouse watches Hall. -/
def State.hallWatched (s : State) : Bool := s.wh.ready && s.wh.hallUp && s.wh.hallDown.isNone

/-- HALL_KICK: the first kick starts the watch; a later one comes 100 µs to 2 ms after the one before and counts on from it. -/
def hallKickEffect (v : BitVec 16) (s : State) : State :=
  if s.sec.hallRun = false then s
  else
    match s.wh.hallKick with
    | none => s.modWh fun w => { w with hallKick := some (v, s.up) }
    | some (old, t) =>
      let dt := s.up - t
      if dt < ns 100000 ∨ ns 2000000 < dt then (if s.hallWatched then s.hallTrip 0 else s.modWh fun w => { w with hallKick := none })
      else if v ≠ old + 1 then (if s.hallWatched then s.hallTrip 1 else s.modWh fun w => { w with hallKick := none })
      else s.modWh fun w => { w with hallKick := some (v, s.up) }

def execHallKick (v : BitVec 16) (s : State) : Host.Outcome State Fault Refusal := .next (hallKickEffect v s)

/-- HALL_WATCHDOG_TRIP for a reason of Table 12-8: 0 no kick for 2 ms, 2 a running cell's plans two releases behind, 3 lock-step; a
wrong value (1) trips with its kick. -/
def hallWatchdogTripEffect (reason : Fin 4) (s : State) : State :=
  let due := match reason.val with
    | 0 => s.wh.hallKick.any fun k => decide (ns 2000000 < s.up - k.2)
    | 1 => false
    | 2 => (List.finRange 16).any fun c => (s.cell c).running && decide (2 ≤ (s.cell c).depthMiss)
    | _ => true
  if s.hallWatched ∧ due = true then s.hallTrip reason.val else s

def execHallWatchdogTrip (reason : Fin 4) (s : State) : Host.Outcome State Fault Refusal := .next (hallWatchdogTripEffect reason s)

/-- HALL_UP: Hall has kicked in sequence and says that it is back. -/
def hallUpEffect (s : State) : State :=
  if s.wh.hallDown.isSome ∧ s.sec.hallRun ∧ s.wh.hallKick.isSome then
    ({ s with cells := vmap (fun x : Cell => { x with depthMiss := 0 }) s.cells } : State).modWh fun w => { w with hallUp := true, hallDown := none }
  else s

def execHallUp (s : State) : Host.Outcome State Fault Refusal := .next (hallUpEffect s)

/-- HALL_RETURN_TIMEOUT: Hall is not back within 12 ms. -/
def hallReturnTimeoutEffect (s : State) : State :=
  match s.wh.hallDown with
  | some t => if ns 12000000 ≤ s.up - t then s.warmReset 1 true else s
  | none => s

def execHallReturnTimeout (s : State) : Host.Outcome State Fault Refusal := .next (hallReturnTimeoutEffect s)

/-! ### Weighhouse (R352, R363) -/

/-- WH_WATCHDOG_KICK: at least 50 µs and less than 500 µs after the one before. -/
def whWatchdogKickEffect (s : State) : State :=
  if s.sec.whRun = false then s
  else
    match s.wh.whKick with
    | none => s.modWh fun w => { w with whKick := some s.up }
    | some t =>
      if ns 50000 ≤ s.up - t ∧ s.up - t < ns 500000 then s.modWh fun w => { w with whKick := some s.up } else s.warmReset 4 true

def execWhWatchdogKick (s : State) : Host.Outcome State Fault Refusal := .next (whWatchdogKickEffect s)

/-- WH_WATCHDOG_EXPIRY: no kick for 500 µs. -/
def whWatchdogExpiryEffect (s : State) : State :=
  match s.wh.whKick with
  | some t => if s.sec.whRun ∧ ns 500000 ≤ s.up - t then s.warmReset 4 true else s
  | none => s

def execWhWatchdogExpiry (s : State) : Host.Outcome State Fault Refusal := .next (whWatchdogExpiryEffect s)

def whLockstepMismatchEffect (s : State) : State := if s.sec.whRun then s.warmReset 3 true else s

def execWhLockstepMismatch (s : State) : Host.Outcome State Fault Refusal := .next (whLockstepMismatchEffect s)

/-! ### The reference clock (R399) -/

/-- REFCLK_LOST: safe state; every PLL holds its setting. -/
def refclkLostEffect (s : State) : State :=
  if s.pins.pwrGood ∧ s.pwr.refLost = false then s.enterSafe.modPwr fun p => { p with refLost := true } else s

def execRefclkLost (s : State) : Host.Outcome State Fault Refusal := .next (refclkLostEffect s)

/-- REFCLK_RESTORED: within tolerance for 1 ms, and a warm reset follows. -/
def refclkRestoredEffect (s : State) : State := if s.pwr.refLost then s.warmReset 9 true else s

def execRefclkRestored (s : State) : Host.Outcome State Fault Refusal := .next (refclkRestoredEffect s)

end Sys2Proof.Machine
end

