-- ==== Sys2Proof/Machine/Standby.lean ====
section
/-! DEFINITION. Heartbeats, the loss of a member (R367, R387) and hot standby: takeover and mirrored state (R365-R367, Table 12-6).
Log entries 18 and 25 name the readings. -/
namespace Sys2Proof.Machine

def State.modJoin (s : State) (f : Join → Join) : State := { s with join := f s.join }

/-! ### Loss of a member (R387) -/

/-- The chain waits on a transfer with device d. -/
def Chain.withDevice (c : Chain) (d : DeviceId) : Bool :=
  match c.phase with
  | .moving _ _ =>
    let x := dmaOf c.cur
    let far (a : Nat) : Bool := match placeOf a 1 with | .remote e _ => e == d | _ => false
    (x.op == 0 && far x.src) || (decide (x.op ≤ 1) && far x.dst)
  | _ => false

/-- Remote transfers with device d end with LINK_LOST. -/
def State.dropTransfers (s : State) (d : DeviceId) : State :=
  (List.finRange 64).foldl (fun s n => (List.finRange 8).foldl (fun s t =>
    match (vget (s.stall n).streams t).chain with
    | some c => if c.withDevice d then s.endChain n t oLinkLost else s
    | none => s) s) s

/-- The remaining members share power again from their configured shares (R413). -/
def State.reshare (s : State) (d : DeviceId) : State :=
  s.modPwr fun p =>
    let l := p.shareCfg.filter fun x => x.1 != d
    { p with shareCfg := l, share := l, late := l.map fun x => (x.1, 0), gens := 0, transfer := none
             cap := match l.find? fun x => x.1 == s.join.device with
               | some x => wrMask 0x1FF p.cap (BitVec.ofNat 32 x.2)
               | none => p.cap }

/-- A member leaves the joined set, for a trigger of Table 13-18: joined Passes go on with the stamps of the others. -/
def State.removeMember (s : State) (d : DeviceId) (trigger : Byte) : State :=
  let up := (s.linksTo d).foldl (fun n l => n + 2 ^ l.val) 0
  let s1 := (s.modJoin fun j => { j with members := j.members &&& ~~~(1#16 <<< d.val) }).raise 0x0D02 (evtSource 0 0)
    [BitVec.ofNat 8 d.val, trigger, BitVec.ofNat 8 up]
  let s2 := (s1.dropTransfers d).reshare d
  (List.finRange 16).foldl (fun s p =>
    (s.modPass p fun x => { x with members := x.members.filter fun m => m.1 != d }).settlePass p) s2

/-! ### Heartbeats (R367) -/

/-- HEARTBEAT_SEND: every 50 µs over every link that is up. -/
def heartbeatSendEffect (s : State) : State :=
  let due := match s.join.sent with | some t => decide (ns 50000 ≤ s.up - t) | none => true
  if s.wh.ready ∧ s.sec.whRun ∧ due = true then
    ((List.finRange 3).filter fun l => (vget s.join.links l).up).foldl (fun s l => s.toLink l 1 [])
      (s.modJoin fun j => { j with sent := some s.up })
  else s

def execHeartbeatSend (s : State) : Host.Outcome State Fault Refusal := .next (heartbeatSendEffect s)

/-- HEARTBEAT_RECEIVE: from a device at the far end of a link that is up. -/
def heartbeatReceiveEffect (d : DeviceId) (s : State) : State :=
  if s.linksTo d = [] then s else s.modJoin fun j => { j with beats := vset j.beats d s.up }

def execHeartbeatReceive (d : DeviceId) (s : State) : Host.Outcome State Fault Refusal := .next (heartbeatReceiveEffect d s)

/-! ### Takeover (R367, R390) -/

/-- The cell is held from now on: the next release runs its plan. -/
def State.holdCell (s : State) (c : CellId) : State :=
  let f := s.frameTiming c
  s.modCell c fun x => { x with
    configured := true, running := true, stopping := false, depthMiss := 0
    lastSlot := some (f.slotAt (s.now + ns (f.planLead * 1000 : Nat))) }

/-- An air slot begun on the failed device: every item of it is NACKed with DEADLINE; a shadow gives up what it has of that slot. -/
def State.begunSlot (s : State) (c : CellId) (a : AirSlot) (units : List UnitDesc) : State :=
  let u : UlSlot := ⟨a, units.map (newUnit (some 3)), false, false, false, [], none⟩
  (s.modCell c fun x => { x with ul := (x.ul.filter fun y => y.air != a) ++ [u.stamp s.now] }).harqKeepAll c a units.length

/-- The slots begun on the failed device in the cells taken over. -/
def State.begunSlots (s : State) (cells : BitVec 16) (begun : List (CellId × AirSlot × List UnitDesc)) : State :=
  (begun.filter fun b => cells.getLsbD b.1.val).foldl (fun s b => s.begunSlot b.1 b.2.1 b.2.2) s

/-- TAKEOVER of the cells of device d (Table 12-8). -/
def State.takeoverEvent (s : State) (d : DeviceId) (trigger : Byte) (cells : BitVec 16) : State :=
  s.raise 0x0C0A (evtSource 0 0) ([BitVec.ofNat 8 d.val, trigger] ++ natLE 2 cells.toNat)

/-- The standby takes its partner's cells over. -/
def State.takeover (s : State) (p : Pair) (trigger : Byte) (begun : List (CellId × AirSlot × List UnitDesc)) : State :=
  let s1 := (bitList16 p.standby).foldl (fun s c => s.holdCell c) s
  ((s1.begunSlots p.standby begun).modJoin fun j => { j with pair := some { p with standby := 0, taken := true } }).takeoverEvent p.partner trigger p.standby

/-- The shadow of a comparison pair with TAKEOVER becomes the device that serves its cells, under R367. -/
def State.shadowTakeover (s : State) (l : Lockstep) (trigger : Byte) (begun : List (CellId × AirSlot × List UnitDesc)) : State :=
  ((s.begunSlots l.cells begun).modJoin fun j => { j with lockstep := none }).takeoverEvent l.partner trigger l.cells

/-- The shadow rule of R390 applies to device d. -/
def State.shadowRule (s : State) (d : DeviceId) : Option Lockstep :=
  s.join.lockstep.filter fun l => l.partner == d && l.shadow && l.takeover

/-- HANDOVER_RECEIVE from the partner. -/
def handoverReceiveEffect (d : DeviceId) (begun : List (CellId × AirSlot × List UnitDesc)) (s : State) : State :=
  match s.join.pair, s.shadowRule d with
  | some p, _ => if p.partner = d ∧ p.taken = false then s.takeover p 0 begun else s
  | none, some l => s.shadowTakeover l 0 begun
  | none, none => s

def execHandoverReceive (d : DeviceId) (begun : List (CellId × AirSlot × List UnitDesc)) (s : State) :
    Host.Outcome State Fault Refusal := .next (handoverReceiveEffect d begun s)

/-- PAIR_LINK_LOST (Table 12-8). -/
def State.pairLinkLost (s : State) (d : DeviceId) : State := s.raise 0x0C0B (evtSource 0 0) [BitVec.ofNat 8 d.val]

/-- HEARTBEAT_SILENCE: no heartbeat of device d on any link for 150 µs. With GPIO6 low a standby takes over; with GPIO6 high only
the links are lost. A member to which no partner rule applies leaves the joined set. -/
def heartbeatSilenceEffect (d : DeviceId) (gpio6Low : Bool) (begun : List (CellId × AirSlot × List UnitDesc)) (s : State) : State :=
  if s.wh.ready = false ∨ s.up - vget s.join.beats d < ns 150000 then s
  else
    let mine := s.join.pair.filter fun p => p.partner == d
    match mine, s.shadowRule d with
    | some p, _ =>
      if p.taken then s
      else if gpio6Low then s.takeover p 1 begun
      else if p.linkLost then s
      else (s.modJoin fun j => { j with pair := some { p with linkLost := true } }).pairLinkLost d
    | none, some l => if gpio6Low then s.shadowTakeover l 1 begun else if s.join.member d then (s.removeMember d 0).pairLinkLost d else s
    | none, none => if s.join.member d then s.removeMember d 0 else s

def execHeartbeatSilence (d : DeviceId) (gpio6Low : Bool) (begun : List (CellId × AirSlot × List UnitDesc)) (s : State) :
    Host.Outcome State Fault Refusal := .next (heartbeatSilenceEffect d gpio6Low begun s)

/-! ### Mirrored state (R366) -/

/-- The cell that an item names. -/
def mirrorCell : MirrorItem → Option CellId
  | .cellParam c _ _ => some c
  | .bundle c _ => some c
  | .weights c _ => some c
  | .harqPage c _ _ _ _ _ _ => some c
  | .harqFree c _ _ => some c
  | .demotion c _ _ => some c
  | .grantBook _ _ => none
  | .history _ _ => none

/-- A mirrored HARQ page. -/
def mirrorHarq (c : CellId) (rnti : BitVec 16) (h : Byte) (cb count : Nat) (first : AirSlot) (t : HarqTx) : HarqPage :=
  (emptyPage c rnti h cb count first t []).withLlrs t.llrs

/-- An item of the primary's state as the standby takes it. -/
def State.mirrored (s : State) : MirrorItem → State
  | .cellParam c item v => (s.modCell c fun x => { x.setById item.toNat v with configured := true }).setTiming c
  | .bundle c d => s.modCell c fun x => { x with bundle := some d }
  | .weights c w => s.modCell c fun x => { x with adapt := { x.adapt with promoted := some w } }
  | .grantBook a bs => s.agentWrite Source.hall a.toNat bs
  | .harqPage c rnti h cb count first t => s.putPage (mirrorHarq c rnti h cb count first t)
  | .harqFree c rnti h => { s with harq := { s.harq with pages := s.harq.pages.filter fun p => !p.isOf c rnti h } }
  | .history req rows =>
    (rows.foldl (fun s r => s.agentWrite Source.hall r.1.toNat r.2) s).histPost 0 true req
  | .demotion c p d => s.modPath c p fun x => { x with
      demoted := d, demotedAt := if d then some ((s.frameTiming c).slotAt s.now) else none, disagree := if d then x.disagree else []
      clean := 0 }

/-- MIRROR_RECEIVE: from the partner, about a cell that it serves. -/
def mirrorReceiveEffect (i : MirrorItem) (s : State) : State :=
  match s.join.pair with
  | some p =>
    let known := match mirrorCell i with | some c => p.standby.getLsbD c.val | none => true
    if s.linksTo p.partner ≠ [] ∧ known = true ∧ s.hallAbsent = false then s.mirrored i else s
  | none => s

def execMirrorReceive (i : MirrorItem) (s : State) : Host.Outcome State Fault Refusal := .next (mirrorReceiveEffect i s)

end Sys2Proof.Machine
end

