-- ==== Sys2Proof/Machine/Joined.lean ====
section
/-! DEFINITION. Audit records (R379), the comparison of a lock-step pair (R389, R390), remote accesses that arrive (R385), and the
Valley links (R383). Log entries 18 and 25 name the readings. -/
namespace Sys2Proof.Machine

/-! ### AUDIT_RECORD (R379) -/

/-- The processing slot of a digest record, by its LAUNCH. -/
def State.digestSlot (s : State) (c : CellId) (x : DigestEntry) : Int :=
  s.commandSlot c (descOf (List.replicate 8 0 ++ natLE 8 x.launch.toNat ++ List.replicate 48 0))

/-- Insertion by TAG: ascending TAG_STAGE and then TAG_SEQ. -/
def insertDigest (x : DigestEntry) : List DigestEntry → List DigestEntry
  | [] => [x]
  | y :: l => if x.tag.toNat < y.tag.toNat then x :: y :: l else y :: insertDigest x l

def sortDigests (l : List DigestEntry) : List DigestEntry := l.foldl (fun r x => insertDigest x r) []

/-- The command digests of processing slot k of a cell, in order. -/
def State.slotDigests (s : State) (c : CellId) (k : Int) : List DigestEntry :=
  sortDigests ((s.cell c).digests.filter fun x => decide (s.digestSlot c x = k))

/-- The crates of an air slot in crate order. -/
def Cell.crateInputs (x : Cell) (a : AirSlot) : List Byte :=
  let l := x.crates.filter fun e => e.1 == a
  (List.range 64).flatMap fun k => (l.filter fun e => e.2.1 == k).flatMap (·.2.2)

/-- The payloads taken for an air slot, in ring order. -/
def State.takenPayloads (s : State) (c : CellId) (a : AirSlot) : List Byte :=
  let taken (rnti : BitVec 16) (h : Byte) : Bool :=
    (s.dlSlot c a).any fun d => d.allocs.any fun x => x.rnti == rnti && x.harqId == h && x.reason != 10
  ((s.cell c).payloads.filter fun p => p.1 == a && taken p.2.1 p.2.2.1).flatMap (·.2.2.2)

/-- The record of Table 13-4. -/
def auditBytes (c : CellId) (r : AuditRec) : List Byte :=
  [BitVec.ofNat 8 c.val, BitVec.ofNat 8 r.slot.slot.val] ++ natLE 2 r.slot.sfn.val ++ natLE 2 r.commands ++ natLE 2 r.tdc
    ++ [BitVec.ofNat 8 deviceClass] ++ List.replicate 7 0 ++ natLE 32 r.input.toNat ++ natLE 32 r.result.toNat
    ++ List.replicate 16 0

/-- AUDIT_RECORD: processing slot `air` of an audited cell has ended, and its record is written once; in a comparison pair it goes
to the partner with the command digests. -/
def auditRecordEffect (c : CellId) (air : AirSlot) (s : State) : State :=
  let x := s.cell c
  let k := (s.frameTiming c).absOf s.now air
  if s.audited c = false ∨ s.hallAbsent = true ∨ s.reached ((s.frameTiming c).start (k + 1)) = false
      ∨ (x.audits.getLast?.any fun r => r.slot == air) = true then s
  else
    let ds := s.slotDigests c k
    let up := (s.frameTiming c).air (k - 1)
    let r : AuditRec :=
      { slot := air, commands := ds.length, tdc := min 65535 x.tdc
        input := Config.shake256 (x.crateInputs up ++ s.takenPayloads c ((s.frameTiming c).air (k + 1)))
        result := Config.shake256 (ds.flatMap fun d => digestBytes d.digest) }
    let s1 := s.modCell c fun y => { y with
      audits := keepLast 4096 (y.audits ++ [r]), auditCount := y.auditCount + 1, tdc := 0
      crates := y.crates.filter fun e => e.1 != up
      digests := y.digests.filter fun d => decide (k < s.digestSlot c d) || (s.compared c && decide (s.digestSlot c d = k)) }
    match s.join.lockstep with
    | some l => if l.cells.getLsbD c.val then s1.tell l.partner 5 (auditBytes c r ++ ds.flatMap DigestEntry.bytes) else s1
    | none => s1

def execAuditRecord (c : CellId) (air : AirSlot) (s : State) : Host.Outcome State Fault Refusal := .next (auditRecordEffect c air s)

/-! ### LOCKSTEP_COMPARE (R389, R390) -/

/-- The first record that differs, with the two stalls (FFh where one side has no such record): TAG, own stall, the other's. -/
def firstDiff : List DigestEntry → List DigestRecord → Option (BitVec 16 × Byte × Byte)
  | [], [] => none
  | x :: _, [] => some (x.tag, BitVec.ofNat 8 x.stall.val, 0xFF)
  | [], y :: _ => some (y.tag, 0xFF, y.stall)
  | x :: xs, y :: ys =>
    if x.tag = y.tag then
      if x.digest = y.digest then firstDiff xs ys else some (x.tag, BitVec.ofNat 8 x.stall.val, y.stall)
    else if x.tag.toNat < y.tag.toNat then some (x.tag, BitVec.ofNat 8 x.stall.val, 0xFF)
    else some (y.tag, 0xFF, y.stall)

/-- Records flagged TDC on either device are left out. -/
def comparedDiff (own : List DigestEntry) (other : List DigestRecord) : Option (BitVec 16 × Byte × Byte) :=
  let skip (t : BitVec 16) : Bool := (own.any fun x => x.tag == t && x.tdc) || (other.any fun y => y.tag == t && y.tdc)
  firstDiff (own.filter fun x => !skip x.tag) (other.filter fun y => !skip y.tag)

/-- A mismatch of a cell in processing slot k: counted and reported, a golden frame goes on the own stall, and the pair's third within
64 slots, of any of its cells, is LOCKSTEP_DIVERGED. -/
def State.lsMismatchAt (s : State) (l : Lockstep) (c : CellId) (k : Int) (d : BitVec 16 × Byte × Byte) : State :=
  let a := (s.frameTiming c).air k
  let own := d.2.1
  let act := if l.shadow then d.2.2 else own
  let sha := if l.shadow then own else d.2.2
  let s1 := (s.devInc .lsMismatch).raise 0x0D01 (evtSource 2 c.val)
    ([BitVec.ofNat 8 c.val, BitVec.ofNat 8 a.slot.val] ++ natLE 2 a.sfn.val ++ natLE 2 d.1.toNat
      ++ [act, sha, BitVec.ofNat 8 l.partner.val])
  let s2 := if h : own.toNat < 64 then s1.goldenAtOnce ⟨own.toNat, h⟩ else s1
  let f := s.frameTiming c
  let ms := (l.mismatches.filter fun t => decide (f.start (k - 64) < t)) ++ [f.start k]
  let s3 := s2.modJoin fun j => { j with lockstep := j.lockstep.map fun y => { y with mismatches := ms } }
  if ms.length = 3 then
    s3.raise 0x0D03 (evtSource 2 c.val)
      ([BitVec.ofNat 8 c.val, BitVec.ofNat 8 l.partner.val, 3, 0] ++ natLE 2 a.sfn.val ++ [BitVec.ofNat 8 a.slot.val])
  else s3

/-- The partner's audit record of processing slot `air` against the own one. -/
def lockstepCompareEffect (c : CellId) (air : AirSlot) (input result : BitVec 256) (records : List DigestRecord) (s : State) : State :=
  match s.join.lockstep, (s.cell c).audits.find? fun r => r.slot == air with
  | some l, some own =>
    if l.cells.getLsbD c.val = false ∨ s.hallAbsent = true then s
    else
      let k := (s.frameTiming c).absOf s.now air
      let ds := s.slotDigests c k
      let s1 := s.modCell c fun y => { y with digests := y.digests.filter fun d => decide (s.digestSlot c d ≠ k) }
      if own.input ≠ input then s1.devInc .lsInputDiff
      else if own.result = result then s1
      else
        match comparedDiff ds records with
        | some d => s1.lsMismatchAt l c k d
        | none => s1.devInc .lsTdcOnly
  | _, _ => s

def execLockstepCompare (c : CellId) (air : AirSlot) (input result : BitVec 256) (records : List DigestRecord) (s : State) :
    Host.Outcome State Fault Refusal := .next (lockstepCompareEffect c air input result records s)

/-- FORWARDED_INPUTS_RECEIVE: the shadow takes the active device's host reports into Plain, and its set of payloads (R389). -/
def forwardedInputsReceiveEffect (c : CellId) (air : AirSlot) (reports : List (BitVec 40 × List Byte))
    (payloads : List (BitVec 16 × Byte)) (s : State) : State :=
  if s.shadows c then
    let s1 := reports.foldl (fun s r => s.agentWrite Source.hall r.1.toNat r.2) s
    s1.modJoin fun j => { j with lockstep := j.lockstep.map fun l => { l with
      forwarded := keepLast 64 ((l.forwarded.filter fun f => !(f.1 == c && f.2.1 == air)) ++ [(c, air, payloads)]) } }
  else s

def execForwardedInputsReceive (c : CellId) (air : AirSlot) (reports : List (BitVec 40 × List Byte)) (payloads : List (BitVec 16 × Byte))
    (s : State) : Host.Outcome State Fault Refusal := .next (forwardedInputsReceiveEffect c air reports payloads s)

/-! ### VALLEY_REMOTE_REQUEST (R385) -/

/-- An access to this device's memory by a member, at the class it carries and under the source code of its link or port: the bytes
read, or none where it is refused. -/
def State.remoteAccess (s : State) (code : Nat) (r : RemoteRequest) : Option (List Byte) × State :=
  let len := if r.write then r.bytes.length else r.length
  match placeOf r.offset.toNat len with
  | .stallMem n off =>
    if s.domainOn n.val = false then (none, s)
    else if r.write then
      if (s.stall n).inbound off len then (some [], { s with mem := memWrite s.mem r.offset.toNat r.bytes }) else (none, s)
    else (some (memRead s.mem r.offset.toNat len), s)
  | .plain off =>
    let src : Source := ⟨code, r.cls.val, false⟩
    if r.write then
      let w := s.plainWrite src off r.bytes
      (if w.1 then some [] else none, w.2)
    else
      let d := s.plainRead src off len
      (if d.2.1 then some d.1 else none, d.2.2)
  | _ => (none, s)

/-- The access is made and answered: code 0 with the data read, or BAD_ADDR; a firewall refusal is answered as such. -/
def valleyRemoteRequestEffect (l : LinkId) (r : RemoteRequest) (s : State) : State :=
  if (vget s.join.links l).up = false ∨ s.join.member r.device = false ∨ vget s.join.linkMap l ≠ BitVec.ofNat 8 r.device.val then s
  else
    let a := s.remoteAccess (evtSource 4 l.val) r
    match a.1 with
    | some bs => a.2.toLink l 8 ([BitVec.ofNat 8 r.cls.val, 2, 0] ++ bs)
    | none =>
      let code := match placeOf r.offset.toNat (if r.write then r.bytes.length else r.length) with
        | .plain _ => oFirewall
        | _ => oBadAddr
      a.2.toLink l 8 [BitVec.ofNat 8 r.cls.val, 2, code]

def execValleyRemoteRequest (l : LinkId) (r : RemoteRequest) (s : State) : Host.Outcome State Fault Refusal :=
  .next (valleyRemoteRequestEffect l r s)

/-! ### Valley links (R383) -/

def State.modLink (s : State) (l : LinkId) (f : VlLink → VlLink) : State :=
  s.modJoin fun j => { j with links := vmod j.links l f }

/-- VL_UP: the link has trained. -/
def vlUpEffect (l : LinkId) (lanes peer : BitVec 4) (s : State) : State :=
  if (vget s.join.links l).downAt.isNone ∧ s.domainOn (79 + l.val) then
    let d : DeviceId := ⟨peer.toNat, peer.isLt⟩
    (s.modLink l fun x => { x with up := true, lanes := lanes, peer := peer, replays := [] }).modJoin fun j => { j with
      beats := vset j.beats d s.up }
  else s

def execVlUp (l : LinkId) (lanes peer : BitVec 4) (s : State) : Host.Outcome State Fault Refusal := .next (vlUpEffect l lanes peer s)

/-- VL_REPLAY: a frame goes again from the replay buffer. -/
def vlReplayEffect (l : LinkId) (s : State) : State :=
  if (vget s.join.links l).up then
    (s.devInc (.vlReplay l)).modLink l fun x => { x with replays := recent s.up (ns 1000000) x.replays ++ [s.up] }
  else s

def execVlReplay (l : LinkId) (s : State) : Host.Outcome State Fault Refusal := .next (vlReplayEffect l s)

/-- VL_DOWN: lane lock is lost, or there were more than 1 000 replays in 1 ms. -/
def vlDownEffect (l : LinkId) (laneLost : Bool) (lanes : BitVec 4) (s : State) : State :=
  let x := vget s.join.links l
  let n := (recent s.up (ns 1000000) x.replays).length
  if x.up = true ∧ (laneLost = true ∨ 1000 < n) then
    (s.modLink l fun x => { x with up := false, lanes := lanes, downAt := some s.up }).raise 0x0D04 (evtSource 4 l.val)
      ([BitVec.ofNat 8 l.val, BitVec.ofNat 8 (bitNat laneLost), x.peer.setWidth 8, lanes.setWidth 8] ++ natLE 4 n)
  else s

def execVlDown (l : LinkId) (laneLost : Bool) (lanes : BitVec 4) (s : State) : Host.Outcome State Fault Refusal :=
  .next (vlDownEffect l laneLost lanes s)

/-- VL_RETRAIN: Hall starts the training of a link that has been down for 10 ms; VL_UP follows once it has trained. -/
def vlRetrainEffect (l : LinkId) (s : State) : State :=
  match (vget s.join.links l).downAt with
  | some t => if ns 10000000 ≤ s.up - t ∧ s.hallAbsent = false then s.modLink l fun x => { x with downAt := none } else s
  | none => s

def execVlRetrain (l : LinkId) (s : State) : Host.Outcome State Fault Refusal := .next (vlRetrainEffect l s)

end Sys2Proof.Machine
end

