-- ==== Sys2Proof/Machine/CellCmd.lean ====
section
/-! DEFINITION. Mailbox commands about cells: configuration, start, stop and status (R36-R46, R195, R196, R177, R181, R373, R377, R436).
Log entries 20 and 21 name the readings. -/
namespace Sys2Proof.Machine

/-- A command about one cell, by TARGET or CELL. -/
def cellReply (l : List MItem) (s : State) (f : CellId → Reply) : Reply :=
  match itemsCell l with
  | some c => f c
  | none => Reply.bad s stBadArg 16

/-- TARGET of kind cell, or CELL. -/
def cellItem (id : Nat) (v : List Byte) : Option Bool :=
  if id = 1 then some (targetCell v) else if id = 0x0101 then some (inRange 0 15 v) else none

/-- The first of some checks that takes an item, else the second. -/
def orItems (f g : Nat → List Byte → Option Bool) (id : Nat) (v : List Byte) : Option Bool :=
  match f id v with
  | some b => some b
  | none => g id v

/-! ### CELL_CONFIGURE (R36-R38, R43, R326, R381) -/

/-- Widest carrier of μ (Table 01-1). -/
def maxPrb (mu : Nat) : Nat := if mu = 0 then 270 else if mu = 1 then 273 else 264

/-- Bits per second of one stream (R38). -/
def Cell.streamRate (x : Cell) : Nat :=
  let b := x.get .bfpWidth
  8 * (x.get .nPrb * (if b = 16 then 48 else 3 * b + 1) + 56) * 14 * (1000 * 2 ^ x.get .mu)

/-- The total load of the configured cells fits the stalls in service (R37). -/
def State.loadFits (s : State) : Bool := decide (s.loadAt 0 ≤ (s.inServiceCount : Rat) * 100 / 64)

/-- Every port carries its cells within 90 Gbit/s in each direction (R38). -/
def State.portsFit (s : State) : Bool :=
  (List.finRange 4).all fun p =>
    let xs := (s.configuredCells.map s.cell).filter fun x => x.get .port == p.val
    decide ((xs.map fun x => x.get .nUl * x.streamRate).sum ≤ 90000000000)
      && decide ((xs.map fun x => x.get .nDl * x.streamRate).sum ≤ 90000000000)

/-- Cells delivered over USB stay within 2 Gbit/s (R43), 0.2 Gbit/s at high speed (R426). -/
def State.usbFits (s : State) : Bool :=
  let r := (((s.configuredCells.map s.cell).filter fun x => x.get .delivery == 0xFFFF).map fun x =>
    Config.peakUplink (x.get .mu) (x.get .nPrb) (x.get .nUl)).sum
  decide (r ≤ if s.host.usbSpeed = 1 then 200 else 2000)

/-- What may not change on a running cell (R36, R326), with its item. -/
def fixedParams : List (Nat × CellParam) :=
  [(0x0102, .mu), (0x0103, .nPrb), (0x0107, .port), (0x0106, .category), (0x0B01, .frameOffsetNs), (0x0B02, .sfnOffset)]

def configureItems (id : Nat) (v : List Byte) : Option Bool :=
  if id = 0x0101 then some (inRange 0 15 v)
  else if id = 0x0112 then some (sized 8 v)
  else paramOk (cellParams ++ frontParams ++ frameParams) id v

/-- The cell with the items in force; at its first configuration what is omitted takes its default. -/
def Cell.configuredBy (x : Cell) (c : CellId) (l : List MItem) : Cell :=
  let base := if x.configured then x else
    (cellParams ++ frontParams ++ frameParams).foldl (fun x p => x.set p.param (p.param.default c)) x
  { base.setItems l (cellParams ++ frontParams ++ frameParams) with configured := true }

/-- Bytes of a cell's prepared-crate queue (R291). -/
def Cell.queueBytes (x : Cell) : Nat := 2 * cMax (x.get .nPrb) * crateSize (crateStreams (x.get .nUl))

/-- The prepared-crate queues of the configured cells fit Hall's Plain plan (R291). -/
def State.queuesFit (s : State) : Bool :=
  decide (((s.configuredCells.map s.cell).map Cell.queueBytes).sum ≤ min plainSize Config.cratePlan)

/-- Hall places the crate queue and the PRACH buffers of 8 occasions in Plain (R291, R299): where is its choice. -/
def State.placeCell (s : State) (c : CellId) : State :=
  let place (i size : Nat) : Nat := plainBase + (s.freeBits i).toNat % ((plainSize - size) / 64 + 1) * 64
  (s.drew 2).modCell c fun x => { x with crateBase := place 0 x.queueBytes, prachBase := place 1 0x80000 }

/-- SEED is drawn at the first enabling of adaptation (R381). -/
def State.drawSeed (s : State) (c : CellId) : State :=
  let x := s.cell c
  if x.get .adaptMode = 1 ∧ x.adapt.seed = 0 then
    (s.modCell c fun x => { x with adapt := { x.adapt with seed := (Config.randomBlock s.sec.randoms).setWidth 64 } }).modSec fun y => { y with
      randoms := y.randoms + 1 }
  else s

/-- The parameters as accepted are in force from the next plan that Hall builds: of a running cell, P(k + 3) (R36). -/
def State.acceptCell (s : State) (c : CellId) (y : Cell) (seed : Option Nat) : State :=
  let x := s.cell c
  let keep := y.get .adaptKeep
  let s1 := s.modCell c fun _ => { y with
    reserveNow := y.get .reservePct, prbCap := 1000, changes := x.keepUntil (s.procNow c)
    adapt := { y.adapt with
      seed := (seed.map (BitVec.ofNat 64)).getD y.adapt.seed
      journal := keepLast keep y.adapt.journal, batches := keepLast keep y.adapt.batches } }
  let s2 := if x.configured ∧ x.get .nPrb = y.get .nPrb ∧ x.get .nUl = y.get .nUl then s1 else s1.placeCell c
  (((s2.setTiming c).drawSeed c).modPwr fun p => { p with accepted := s.inServiceCount }).adjustLoad

def cellConfigureEffect (m : MboxId) (s : State) : State :=
  s.mbNow m 0x20 configureItems fun l s =>
    match itemNum l 0x0101 with
    | none => Reply.bad s stBadArg 16
    | some k =>
      let c := cellOf k
      let x := s.cell c
      let y := x.configuredBy c l
      let t := s.modCell c fun _ => y
      match (if x.running then fixedParams.find? fun p => x.get p.2 != y.get p.2 else none) with
      | some p => Reply.bad s stDenied p.1
      | none =>
        if maxPrb (y.get .mu) < y.get .nPrb then
          Reply.bad s stBadArg (itemOffset l (if (itemVal l 0x0103).isSome then 0x0103 else 0x0102))
        else if (itemVal l 0x0112).isSome ∧ y.get .adaptMode = 1 then Reply.bad s stDenied 0x0112
        else if t.loadFits = false then Reply.bad s stNoResource 0x0101
        else if t.portsFit = false then Reply.bad s stNoResource 0x0107
        else if t.queuesFit = false then Reply.bad s stNoResource 0x0103
        else if t.usbFits = false then Reply.bad s stNoResource 0x0110
        else
          let s1 := s.acceptCell c y (itemNum l 0x0112)
          let x1 := s1.cell c
          Reply.ok (s1.mirror (0 :: (itemBytes 0x0101 [BitVec.ofNat 8 c.val]
            ++ paramItems (cellParams ++ frontParams ++ frameParams) x1)))

def execCellConfigure (m : MboxId) (s : State) : Host.Outcome State Fault Refusal := .next (cellConfigureEffect m s)

/-! ### CELL_START and CELL_STOP (R181, R196, R320) -/

/-- CELL_START: served from the first processing slot whose release lies at least 300 µs ahead. -/
def cellStartEffect (m : MboxId) (s : State) : State :=
  s.mbNow m 0x21 cellItem fun l s => cellReply l s fun c =>
    if (s.cell c).configured = false ∨ s.time.servo.locked = false then Reply.bad s stNotReady 0
    else if (s.cell c).running then Reply.ok s
    else Reply.ok (s.startCell c)

def execCellStart (m : MboxId) (s : State) : Host.Outcome State Fault Refusal := .next (cellStartEffect m s)

/-- Every plan of a cell that was registered has been released and its processing slot is over. -/
def State.plansRun (s : State) (c : CellId) : Bool :=
  vget s.time.plans c == [] &&
    match (s.cell c).lastSlot with
    | some k => s.reached ((s.frameTiming c).start (k + 1))
    | none => true

/-- Pages of a cell, of one RNTI or all, freed. -/
def State.freePages (s : State) (c : CellId) (rnti : Option (BitVec 16)) : State :=
  (s.harq.pages.filter fun p => p.cell == c && rnti.all fun r => p.rnti == r).foldl (fun s p => s.harqFree p.cell p.rnti p.harqId) s

/-- Tracks of a cell detached; one that a request still writes once it does so no longer (R196, R206). -/
def State.freeTracks (s : State) (c : CellId) : State :=
  if s.hist.en then
    (List.finRange 1024).foldl (fun s t =>
      let r := s.trackRec t
      if r.1.attached ∧ r.1.cell = c then
        (r.2.detach t r.1).getD (r.2.modHist fun h => { h with leaving := t :: h.leaving.filter (· != t) })
      else s) s
  else s

/-- A stopped cell: its HARQ pages and tracks are free. -/
def State.stopped (s : State) (c : CellId) : State :=
  ((s.modCell c fun x => { x with running := false, stopping := false, lastSlot := none }).freePages c none).freeTracks c

/-- CELL_STOP: no further plan is registered; answered once the last registered plan has run. The command in progress is looked at
again each time it is given (log entry 21). -/
def cellStopEffect (m : MboxId) (s : State) : State :=
  match (s.mb m).phase with
  | .taken false 0x22 (some c) _ _ _ =>
    if s.hallAbsent = false ∧ s.plansRun c then (s.stopped c).mbRelease m else s
  | _ =>
    s.mbCommand m 0x22 cellItem fun l s =>
      let now := (itemsCell l).all fun c => !(s.cell c).running || s.plansRun c
      (cellReply l s fun c =>
        if (s.cell c).running = false then Reply.ok s
        else if now then Reply.ok (s.stopped c)
        else Reply.ok (s.modCell c fun x => { x with stopping := true }), if now then .now else .foreground)

def execCellStop (m : MboxId) (s : State) : Host.Outcome State Fault Refusal := .next (cellStopEffect m s)

/-! ### CELL_STATUS (R373, R436) -/

/-- Listed settings of a parameter group, 4 bytes each. -/
def paramBytes (ps : List ParamSpec) (x : Cell) : List Byte := ps.flatMap fun p => natLE 4 (x.get p.param)

/-- Table 13-1, item by item, in the model's byte layout (log entry 20). -/
def State.settingsBytes (s : State) (c : CellId) : List Byte :=
  let x := s.cell c
  let cell := cellParams.filter fun p => p.param != .delivery && p.param != .port && p.param != .planLead && p.param != .adaptKeep
  [BitVec.ofNat 8 deviceClass] ++ digestBytes (Config.shake256 s.sec.hallImage)
    ++ (match x.bundle with | some d => 1 :: digestBytes d | none => [0])
    ++ (match x.weightsIn (s.procNow c) with | some w => 1 :: digestBytes (Config.shake256 (weightBytes w)) | none => [0])
    ++ paramBytes cell x
    ++ paramBytes frontParams x ++ paramBytes histParams x ++ natLE 4 s.harq.pool ++ natLE 4 s.harq.maxAge
    ++ paramBytes checkParams x
    ++ (List.finRange 64).flatMap (fun n =>
      let y := s.stall n
      if y.inService then
        natLE 4 y.vecFlush.toNat ++ natLE 4 y.rqTable.length ++ y.rqTable.flatMap (fun e => natLE 4 e.1 ++ [e.2])
          ++ natLE 4 y.sfTable.length ++ y.sfTable.flatMap (fun e => natLE 4 e.1 ++ natLE 4 e.2.toNat)
      else [])
    ++ [BitVec.ofNat 8 (bitNat x.audit), BitVec.ofNat 8 (bitNat (s.compared c))]

def State.settingsDigest (s : State) (c : CellId) : BitVec 256 := Config.shake256 (s.settingsBytes c)

/-- The counter items of Table 15-29. -/
def Cell.counterItems (x : Cell) : List Byte :=
  (List.finRange 44).flatMap fun i => itemBytes (0x1001 + i.val) (natLE 4 (vget x.ctr i).toNat)

def cellStatusEffect (m : MboxId) (s : State) : State :=
  s.mbNow m 0x23 (orItems cellItem fun id v => if id = 3 then some (inRange 0 1 v) else none) fun l s => cellReply l s fun c =>
    let items := itemBytes 1 (natLE 2 c.val) ++ itemBytes 0x1000 (digestBytes (s.settingsDigest c)) ++ (s.cell c).counterItems
    Reply.ok (if itemNum l 3 = some 1 then s.modCell c fun x => { x with ctr := Vector.replicate 44 0 } else s) items

def execCellStatus (m : MboxId) (s : State) : Host.Outcome State Fault Refusal := .next (cellStatusEffect m s)

/-! ### HIST_CONFIGURE (R195) -/

/-- Frames that a cell's history needs (R195, Table 07-2). -/
def HistGeo.need (g : HistGeo) (tracks : Nat) : Nat :=
  tracks * (g.pages false g.w + g.pages true g.w) + 2 * (g.pages false g.p + g.pages true g.p)

/-- Frames in the pool. -/
def Hist.poolFrames (h : Hist) : Nat := 448 + h.plainCount + h.dramCount

/-- The histories of all cells, configured or not, fit the frames and the 1 024 tracks (R195). -/
def State.histFits (s : State) : Bool :=
  decide (((List.finRange 16).map fun c => (s.histGeo c).need ((s.cell c).get .histTracks)).sum ≤ s.hist.poolFrames)
    && decide (((List.finRange 16).map fun c => (s.cell c).get .histTracks).sum ≤ 1024)

def histConfigureEffect (m : MboxId) (s : State) : State :=
  s.mbNow m 0x24 (orItems cellItem (paramOk histParams)) fun l s => cellReply l s fun c =>
    let x := s.cell c
    let y := x.setItems l histParams
    let s1 := s.modCell c fun _ => y
    let fixed : List (Nat × CellParam) := [(0x0701, .window), (0x0702, .tok), (0x0703, .keyFmt), (0x0704, .prefixLen)]
    match (if x.running then fixed.find? fun p => x.get p.2 != y.get p.2 else none) with
    | some p => Reply.bad s stDenied p.1
    | none =>
      if 128 < y.get .prefixLen + y.get .window then
        Reply.bad s stBadArg (itemOffset l (if (itemVal l 0x0704).isSome then 0x0704 else 0x0701))
      else if s1.histFits = false then
        Reply.bad s stNoResource 0x0706
      else
        Reply.ok (s1.mirror (0 :: (itemBytes 0x0101 [BitVec.ofNat 8 c.val] ++ paramItems histParams y)))

def execHistConfigure (m : MboxId) (s : State) : Host.Outcome State Fault Refusal := .next (histConfigureEffect m s)

/-! ### HARQ_CONFIGURE and HARQ_FLUSH (R177, R181) -/

def harqItems (id : Nat) (v : List Byte) : Option Bool :=
  if id = 0x0601 then some (inRange 256 4096 v && leNat v % 256 == 0)
  else if id = 0x0602 then some (inRange 8 1024 v)
  else none

def harqConfigureEffect (m : MboxId) (s : State) : State :=
  s.mbNow m 0x25 harqItems fun l s =>
    if (vlist s.cells).any (·.running) then Reply.bad s stDenied 0x0601
    else
      let h := { s.harq with pool := (itemNum l 0x0601).getD s.harq.pool, maxAge := (itemNum l 0x0602).getD s.harq.maxAge }
      Reply.ok (({ s with harq := h } : State).placePool.mirror (0 :: (itemBytes 0x0601 (natLE 2 h.pool) ++ itemBytes 0x0602 (natLE 2 h.maxAge))))

def execHarqConfigure (m : MboxId) (s : State) : Host.Outcome State Fault Refusal := .next (harqConfigureEffect m s)

def harqFlushEffect (m : MboxId) (s : State) : State :=
  s.mbNow m 0x26 (orItems cellItem fun id v => if id = 8 then some (sized 2 v) else none) fun l s => cellReply l s fun c =>
    Reply.ok (s.freePages c ((itemNum l 8).map (BitVec.ofNat 16)))

def execHarqFlush (m : MboxId) (s : State) : Host.Outcome State Fault Refusal := .next (harqFlushEffect m s)

/-! ### AUDIT_CONFIGURE and AUDIT_READ (R377, R379) -/

def auditItems (id : Nat) (v : List Byte) : Option Bool :=
  if id = 0x0D09 then some (inRange 0 1 v)
  else if id = 7 then some (sized 8 v)
  else if id = 11 then some (sized 4 v && decide (0 < leNat v) && leNat v % 64 == 0)
  else none

/-- AUDIT_CONFIGURE: audit on or off, and the cell's digest ring in Plain, where the host says or else where Hall chooses. -/
def auditConfigureEffect (m : MboxId) (s : State) : State :=
  s.mbNow m 0x2A (orItems cellItem auditItems) fun l s => cellReply l s fun c =>
    let x := s.cell c
    let free := x.digestSize == 0
    let size := (itemNum l 11).getD (if free then 64 * (1 + (s.freeBits 1).toNat % 4096) else x.digestSize)
    let base := (itemNum l 7).getD (if free then plainBase + (s.freeBits 0).toNat % 0x70000 * 64 else x.digestRing)
    let moved := decide (base ≠ x.digestRing ∨ size ≠ x.digestSize)
    let y := { x with
      audit := ((itemNum l 0x0D09).map (· == 1)).getD x.audit, digestRing := base, digestSize := size
      digestPos := if moved then 0 else x.digestPos }
    let s1 := (s.drew 2).modCell c fun _ => y
    match placeOf base size with
    | .plain _ =>
      if base % 64 ≠ 0 then Reply.bad s stBadArg (itemOffset l 7)
      else if y.audit ∧ s1.loadFits = false then Reply.bad s stNoResource 0x0D09
      else Reply.ok s1
    | _ => Reply.bad s stBadArg (itemOffset l 7)

def execAuditConfigure (m : MboxId) (s : State) : Host.Outcome State Fault Refusal := .next (auditConfigureEffect m s)

/-- AUDIT_READ: up to 42 audit records in a BLOB, from the number FROM_SEQ, counted from the last reset, on. -/
def auditReadEffect (m : MboxId) (s : State) : State :=
  s.mbNow m 0x2B (orItems cellItem fun id v =>
      if id = 4 then some (sized 4 v) else if id = 5 then some (inRange 1 42 v) else none) fun l s => cellReply l s fun c =>
    let x := s.cell c
    let first := x.auditCount - x.audits.length
    let rs := (x.audits.drop ((itemNum l 4).getD first - first)).take ((itemNum l 5).getD 42)
    Reply.ok s (itemBytes 12 (rs.flatMap (auditBytes c)))

def execAuditRead (m : MboxId) (s : State) : Host.Outcome State Fault Refusal := .next (auditReadEffect m s)

end Sys2Proof.Machine
end

