-- ==== Sys2Proof/Machine/Power.lean ====
section
/-! DEFINITION. The power manager: droop (R403), the cap (R405-R408), temperatures (R409-R411), shared budgets (R412, R413) and the
AVS link (R414-R416). Power is in units of 0.1 W; fractions are kept exactly and truncated in registers and records (log entry
23). -/
namespace Sys2Proof.Machine

/-! ### Droop (R403) -/

/-- DROOP_TRIP: the clock stretches; more than 100 stretches within 1 ms lower the limit of the stall. -/
def droopTripEffect (n : StallId) (s : State) : State :=
  let x := s.stall n
  if s.domainOn n.val = false ∨ x.stretched = true then s
  else
    let l := recent s.up (ns 1000000) x.droopTrips ++ [s.up]
    let low := decide (100 < l.length)
    ((s.devInc .pwrDroop).modStall n fun x => { x with
      stretched := true, droopAt := s.up, droopTrips := if low then [] else l
      fDroop := if low then max 1000 (min x.fDroop (fmaxMhz n) - 25) else x.fDroop }).retarget

def execDroopTrip (n : StallId) (s : State) : Host.Outcome State Fault Refusal := .next (droopTripEffect n s)

/-- DROOP_STRETCH_END: after at least 64 ac, once no detector of the stall is tripped. -/
def droopStretchEndEffect (n : StallId) (s : State) : State :=
  let x := s.stall n
  if x.stretched = true ∧ s.acTime n 64 ≤ s.up - x.droopAt then s.modStall n fun x => { x with stretched := false } else s

def execDroopStretchEnd (n : StallId) (s : State) : Host.Outcome State Fault Refusal := .next (droopStretchEndEffect n s)

/-- DROOP_RECOVER: 1 s without a stretch raises the limit by 25 MHz. -/
def droopRecoverEffect (n : StallId) (s : State) : State :=
  let x := s.stall n
  if x.fDroop < fmaxMhz n ∧ x.stretched = false ∧ ns 1000000000 ≤ s.up - x.droopAt then
    (s.modStall n fun x => { x with fDroop := min (fmaxMhz n) (x.fDroop + 25), droopAt := s.up }).retarget
  else s

def execDroopRecover (n : StallId) (s : State) : Host.Outcome State Fault Refusal := .next (droopRecoverEffect n s)

/-! ### The cap (R405-R407) -/

/-- PWR_OTHER in W as it acts (Table 14-6). -/
def Power.otherW (p : Power) : Nat := min 120 (max 10 (fld p.cap 24 16))

/-- PWR_CAP − PWR_OTHER in 0.1 W. -/
def Power.budget (p : Power) : Nat := 10 * (fld p.cap 8 0 - p.otherW)

/-- B in 0.1 W: the larger of the estimate and the measured figure carried forward. -/
def Power.basisNow (p : Power) (est : Nat) : Rat :=
  if p.est10Sum = 0 then (est : Rat)
  else max (est : Rat) (p.meas * est * p.est10Count / p.est10Sum)

/-- The highest ACLK now set. -/
def State.fHi (s : State) : Nat := ((vlist s.stalls).map (·.aclk)).foldl max 0

/-- Every stall that is on runs at its target. -/
def State.settledClocks (s : State) : Bool := (List.finRange 64).all fun n => !s.domainOn n.val || (s.stall n).aclk == (s.stall n).aclkTarget

/-- F_pwr after one lowering for a basis above the budget. -/
def lowerTo (fpwr fHi fmin : Nat) (b : Rat) (budget : Nat) : Nat :=
  if budget = 0 then fmin
  else max fmin (min fpwr fHi - 25 * ((b - budget) / ((budget : Rat) / 50)).ceil.toNat)

/-- F_pwr at its floor with B still over the budget (POWER_FLOOR, Table 14-20). -/
def State.powerFloor (s : State) (b : Rat) : State :=
  if s.qm.bgHalted then s
  else
    (({ s with qm := { s.qm with bgHalted := true } }).modPwr fun p => { p with floor := true }).raise 0x0E02 (evtSource 0 0)
      (natLE 2 b.floor.toNat ++ natLE 2 s.pwr.budget ++ natLE 2 s.pwr.fmin.toNat)

/-- POWER_ESTIMATE: the estimate of one µs. -/
def powerEstimateEffect (est : Nat) (s : State) : State :=
  let p := s.pwr
  let b := p.basisNow est
  let budget : Rat := (p.budget : Rat)
  let fmin := p.fmin.toNat
  let s1 := s.modPwr fun p => { p with
    est := est, basis := b, estSum := p.estSum + est, estCount := p.estCount + 1
    lowering := p.lowering && !s.settledClocks }
  let s2 := if b < budget then { s1 with qm := { s1.qm with bgHalted := false } } else s1
  if budget < b then
    if s1.pwr.lowering then s2.modPwr fun p => { p with calm := 0 }
    else if p.fpwr ≤ fmin then (s2.modPwr fun p => { p with calm := 0 }).powerFloor b
    else (s2.modPwr fun p => { p with fpwr := lowerTo p.fpwr s.fHi fmin b p.budget, lowering := true, calm := 0 }).retarget
  else if b < budget * 95 / 100 then
    if 99 ≤ p.calm ∧ p.fpwr < 2250 then (s2.modPwr fun p => { p with fpwr := min 2250 (p.fpwr + 25), calm := 0 }).retarget
    else s2.modPwr fun p => { p with calm := min 100 (p.calm + 1) }
  else s2.modPwr fun p => { p with calm := 0 }

def execPowerEstimate (est : Nat) (s : State) : Host.Outcome State Fault Refusal := .next (powerEstimateEffect est s)

/-- Thirty-seconds of its running current that the array of stall n draws as filler while a Pass wait holds it (R255, R404): none in the
floor of R406, while B exceeds the budget (log entry 23). -/
def State.fillerSteps (s : State) (n : StallId) : Nat :=
  match (s.stall n).matrix with
  | .passWait r _ _ _ =>
    if r.outcome.isSome ∨ s.qm.bgHalted then 0 else (min 100 s.pwr.filler.toNat * 32 + 50) / 100
  | _ => 0

/-! ### The AVS link (R414-R416) -/

/-- The device acts as AVSBus master once Hall runs after a cold reset (R475). -/
def State.avsUp (s : State) : Bool := s.pins.pwrGood && (s.sec.hallRun || s.sec.phase == .served)

/-- A transaction that did not fail. -/
def State.avsOk (s : State) : State :=
  let run := min 100 (s.pwr.okRun + 1)
  let s1 := s.modPwr fun p => { p with failRun := 0, okRun := run }
  if s.pwr.avsFault ∧ 100 ≤ run then (s1.modPwr fun p => { p with avsFault := false }).retarget else s1

/-- A failed transaction: its number and kind of failure as in Table 14-20. The third in succession is AVS_FAULT. -/
def State.avsFail (s : State) (transaction failure : Byte) : State :=
  let run := s.pwr.failRun + 1
  let s1 := (s.devInc .pwrAvsErr).modPwr fun p => { p with failRun := min 3 run, okRun := 0 }
  if s.pwr.avsFault = false ∧ 3 ≤ run then
    ((s1.modPwr fun p => { p with avsFault := true, written := none }).raise 0x0E05 (evtSource 0 0)
      ([transaction, failure] ++ natLE 2 s1.pwr.ackMv ++ natLE 2 s1.pwr.status.toNat)).retarget
  else s1

/-- How a transaction that gave no value failed. -/
def avsFailure : AvsReply → Byte
  | .badCrc => 1
  | _ => 0

/-- The measurement interval ends with P_meas: P_est10 of it, and whether the two agree (R407). -/
def State.measured (s : State) (meas : Rat) : State :=
  let p := s.pwr
  let s1 := s.modPwr fun p => { p with
    meas := meas, est10Sum := p.estSum, est10Count := p.estCount, estSum := 0, estCount := 0 }
  let a := meas * p.estCount
  let b : Rat := p.estSum
  if p.estCount = 0 then s1
  else if max a b < 5 * (max a b - min a b) then
    let run := min 255 (p.mismatchRun + 1)
    let s2 := s1.modPwr fun p => { p with mismatchRun := run }
    if 5 ≤ run ∧ p.mismatchSent = false then
      ((s2.devInc .pwrMismatch).modPwr fun p => { p with mismatch := true, mismatchSent := true }).raise 0x0E01 (evtSource 0 0)
        (natLE 2 meas.floor.toNat ++ natLE 2 (p.estSum / max 1 p.estCount) ++ [BitVec.ofNat 8 (if b < a then 0 else 1), BitVec.ofNat 8 run])
    else s2
  else s1.modPwr fun p => { p with mismatchRun := 0, mismatchSent := false }

/-- AVS_READ_CURRENT, every 10 µs: current in units of 10 mA times the acknowledged voltage; in an AVS fault a failed read counts as
1.25 × P_est. -/
def avsReadCurrentEffect (r : AvsReply) (s : State) : State :=
  if s.avsUp then
    let s0 := s.send (.avs false 2)
    match r with
    | .ok v => (s0.avsOk).measured ((v * s.pwr.ackMv : Nat) / 10000)
    | r =>
      let s1 := s0.avsFail 2 (avsFailure r)
      if s1.pwr.avsFault then s1.measured ((s.pwr.est * 5 : Nat) / 4) else s1
  else s

def execAvsReadCurrent (r : AvsReply) (s : State) : Host.Outcome State Fault Refusal := .next (avsReadCurrentEffect r s)

/-- The next step of VDD_CORE from the acknowledged voltage towards the target: at most 25 mV, a multiple of 5 mV. -/
def nextStep (ack target : Nat) : Nat := if ack < target then min target ((ack + 25) / 5 * 5) else max target ((ack - 25 + 4) / 5 * 5)

/-- AVS_WRITE_VOLTAGE: a step is due, none waits for its acknowledgement, and the voltage is not held. A rail whose voltage has
never been read is read first (log entry 23). -/
def avsWriteVoltageEffect (r : AvsReply) (s : State) : State :=
  let p := s.pwr
  if s.avsUp ∧ p.avsFault = false ∧ p.written = none ∧ p.ackMv ≠ 0 ∧ p.ackMv ≠ p.targetMv then
    let mv := nextStep p.ackMv p.targetMv
    let s0 := s.send (.avs true mv)
    match r with
    | .ok _ => (s0.modPwr fun p => { p with written := some (mv, s.up) }).avsOk
    | r => s0.avsFail 0 (avsFailure r)
  else s

def execAvsWriteVoltage (r : AvsReply) (s : State) : Host.Outcome State Fault Refusal := .next (avsWriteVoltageEffect r s)

/-- AVS_READ_VOLTAGE, in mV: acknowledges a step within 5 mV of it; a step not acknowledged after 20 µs has failed. -/
def avsReadVoltageEffect (r : AvsReply) (s : State) : State :=
  if s.avsUp then
    let s0 := s.send (.avs false 1)
    match r with
    | .ok v =>
      match s.pwr.written with
      | some (w, t) =>
        if (if v < w then w - v else v - w) ≤ 5 then
          ((s0.modPwr fun p => { p with ackMv := w, written := none }).avsOk).retarget
        else if ns 20000 ≤ s.up - t then (s0.modPwr fun p => { p with written := none }).avsFail 0 2
        else s0.avsOk
      | none => (if s.pwr.ackMv = 0 then s0.modPwr fun p => { p with ackMv := v } else s0).avsOk
    | r => s0.avsFail 1 (avsFailure r)
  else s

def execAvsReadVoltage (r : AvsReply) (s : State) : Host.Outcome State Fault Refusal := .next (avsReadVoltageEffect r s)

/-- AVS_READ_STATUS: the last status word is kept. -/
def avsReadStatusEffect (r : AvsReply) (s : State) : State :=
  if s.avsUp then
    let s0 := s.send (.avs false 3)
    match r with
    | .ok v => (s0.modPwr fun p => { p with status := BitVec.ofNat 16 v }).avsOk
    | r => s0.avsFail 3 (avsFailure r)
  else s

def execAvsReadStatus (r : AvsReply) (s : State) : Host.Outcome State Fault Refusal := .next (avsReadStatusEffect r s)

/-! ### Temperatures (R409-R411) -/

/-- T_jmax of the grade (Table 14-19). -/
def tjmax : Int := if Config.gradeE then 105 else 95

/-- A sample reaches T_jmax + d °C, in units of 0.125 °C. -/
def tempAtLeast (v : BitVec 12) (d : Int) : Bool := decide (8 * (tjmax + d) ≤ v.toInt)

/-- A stall's sample: its own and the reaction of its limit; a stall whose domain is off reads 0. -/
def Stall.sampled (x : Stall) (on : Bool) (now : Int) (fmax : Nat) (v : BitVec 12) : Stall :=
  let v := if on then v else 0
  let hot := tempAtLeast v (-5)
  { x with
    temp := v, tripRun := if tempAtLeast v 10 then min 2 (x.tripRun + 1) else 0
    fTherm := if hot then min x.fTherm fmax - 25 else x.fTherm
    thermAt := if tempAtLeast v (-8) then now else x.thermAt }

/-- Sensors that throttle after a sample: from the throttle start until below the release. -/
def hotAfter (was : Bool) (v : BitVec 12) : Bool := tempAtLeast v (-5) || (was && tempAtLeast v (-8))

def bits80 (f : Fin 80 → Bool) : BitVec 80 := (List.finRange 80).foldl (fun b i => if f i then b ||| (1#80 <<< i.val) else b) 0

/-- The sample of sensor i. -/
def State.sensor (s : State) (i : Fin 80) : BitVec 12 :=
  if h : i.val < 64 then (s.stall ⟨i.val, h⟩).temp else vget s.pwr.tempX ⟨i.val - 64, by omega⟩

/-- The record of a sensor on which throttling starts. -/
def State.throttleEvent (s : State) (i : Fin 80) : State :=
  let lim := if h : i.val < 64 then (s.stall ⟨i.val, h⟩).fTherm else s.pwr.fpwr
  s.raise 0x0E03 (if i.val < 64 then evtSource 1 i.val else evtSource 0 0)
    ([BitVec.ofNat 8 i.val, 0] ++ natLE 2 (s.sensor i).toNat ++ natLE 2 lim)

/-- A sensor has read at or above the trip on two samples. -/
def State.tripped (s : State) : Bool := (vlist s.stalls).any (fun x => decide (2 ≤ x.tripRun)) || (vlist s.pwr.tripX).any fun n => decide (2 ≤ n)

/-- The thermal trip: safe state, and every stall domain off. -/
def State.thermalTrip (s : State) : State :=
  let s1 := s.enterSafe
  (((List.finRange 64).filter fun n => s1.domainOn n.val).foldl (fun s n => s.stallOff n) s1).modPwr fun p => { p with tripHold := true }

/-- THERMAL_SAMPLE: every sensor; while the device is held after a trip, it restarts once all read below the restart value. -/
def thermalSampleEffect (stalls others : List (BitVec 12)) (s : State) : State :=
  let fs := s.pwr.fpwr
  let s1 := { s with stalls := vgen 64 fun n => (s.stall n).sampled (s.domainOn n.val) s.up (fmaxMhz n) (stalls.getD n.val 0) }
  let xs := vgen 16 fun i => others.getD i.val 0
  let anyHot := (vlist xs).any fun v => tempAtLeast v (-5)
  let s2 := s1.modPwr fun p => { p with
    tempX := xs
    tripX := vgen 16 fun i => if tempAtLeast (vget xs i) 10 then min 2 (vget p.tripX i + 1) else 0
    fpwr := if anyHot then max p.fmin.toNat (fs - 25) else fs }
  let hot := bits80 fun i => hotAfter (s.pwr.hot.getLsbD i.val) (s2.sensor i)
  let fresh := (List.finRange 80).filter fun i => hot.getLsbD i.val && !s.pwr.hot.getLsbD i.val
  let s3 := fresh.foldl (fun s i => s.throttleEvent i) (s2.modPwr fun p => { p with hot := hot })
  if s.pwr.tripHold then
    if (List.finRange 80).all fun i => !tempAtLeast (s3.sensor i) (-10) then s3.warmReset 8 true else s3
  else if s3.tripped then s3.thermalTrip
  else s3.retarget

def execThermalSample (stalls others : List (BitVec 12)) (s : State) : Host.Outcome State Fault Refusal :=
  .next (thermalSampleEffect stalls others s)

/-- THERMAL_RELEASE_STEP: 1 ms below the throttle release raises the limit by 25 MHz, up to FMAX_MHZ. -/
def thermalReleaseStepEffect (n : StallId) (s : State) : State :=
  let x := s.stall n
  if x.fTherm < fmaxMhz n ∧ tempAtLeast x.temp (-8) = false ∧ ns 1000000 ≤ s.up - x.thermAt then
    (s.modStall n fun x => { x with fTherm := min (fmaxMhz n) (x.fTherm + 25), thermAt := s.up }).retarget
  else s

def execThermalReleaseStep (n : StallId) (s : State) : Host.Outcome State Fault Refusal := .next (thermalReleaseStepEffect n s)

/-! ### Shared budgets (R412, R413) -/

/-- This device and the members joined to it over Valley links. -/
def State.sharers (s : State) : List DeviceId :=
  (List.finRange 16).filter fun d => s.join.members.getLsbD d.val &&
    (d == s.join.device || (vlist s.join.linkMap).contains (BitVec.ofNat 8 d.val))

/-- PWR_GROUP set: with a group budget every share starts equal, and CAP_W holds the own one. -/
def State.setGroup (s : State) (w : Word) : State :=
  let g := fld w 11 0
  let l := s.sharers
  let each := g / max 1 l.length
  let shares := if g = 0 then [] else l.map fun d => (d, each)
  s.modPwr fun p => { p with
    group := w &&& 0x1FFFFF, shareCfg := shares, share := shares, late := shares.map fun x => (x.1, 0), gens := 0, transfer := none
    lastMs := s.nowNs / 1000000
    cap := if shares.any fun x => x.1 == s.join.device then wrMask 0x1FF p.cap (BitVec.ofNat 32 each) else p.cap }

/-- Shares put in force, the own one in CAP_W. -/
def State.setShares (s : State) (l : List (DeviceId × Nat)) : State :=
  s.modPwr fun p => { p with
    share := l
    cap := match l.find? fun x => x.1 == s.join.device with
      | some x => wrMask 0x1FF p.cap (BitVec.ofNat 32 x.2)
      | none => p.cap }

/-- Member with the largest (or smallest) lateness; a tie goes to the lower device number. -/
def extreme (better : Int → Int → Bool) : List (DeviceId × Int) → Option (DeviceId × Int)
  | [] => none
  | x :: l =>
    match extreme better l with
    | some y => if better y.2 x.2 then some y else some x
    | none => some x

/-- The transfer of a millisecond: giver and receiver. -/
def State.powerTransfer (s : State) : Option (DeviceId × DeviceId) :=
  let p := s.pwr
  match extreme (fun a b => decide (b < a)) p.late, extreme (fun a b => decide (a < b)) p.late with
  | some r, some g =>
    let share (d : DeviceId) : Nat := ((p.share.find? fun x => x.1 == d).map (·.2)).getD 0
    if p.gens ≠ 0 ∧ ns 500 * p.gens < r.2 - g.2 ∧ fld p.group 20 12 + 2 ≤ share g.1 ∧ share r.1 + 2 ≤ 260 then some (g.1, r.1) else none
  | _, _ => none

/-- POWER_SHARE_EVAL: the millisecond just ended is judged, and shares and counts go to the members. -/
def powerShareEvalEffect (s : State) : State :=
  let ms := s.nowNs / 1000000
  if s.pwr.share ≠ [] ∧ s.time.stepped ∧ s.pwr.lastMs < ms ∧ s.pwr.transfer = none then
    let s1 := s.modPwr fun p => { p with lastMs := ms, transfer := some (s.powerTransfer, ns (ms * 1000000 + 100000)) }
    s1.tellAll 7 (s.pwr.share.flatMap (fun x => natLE 2 x.2) ++ s.pwr.late.flatMap fun x => intLE 4 (x.2 / 65536))
  else s

def execPowerShareEval (s : State) : Host.Outcome State Fault Refusal := .next (powerShareEvalEffect s)

/-- POWER_SHARE_APPLY: 100 µs after the boundary. -/
def powerShareApplyEffect (s : State) : State :=
  match s.pwr.transfer with
  | none => s
  | some (x, t) =>
    if s.reached t then
      let l := match x with
        | some (g, r) => s.pwr.share.map fun y => if y.1 = g then (y.1, y.2 - 2) else if y.1 = r then (y.1, y.2 + 2) else y
        | none => s.pwr.share
      (s.setShares l).modPwr fun p => { p with transfer := none, gens := 0, late := p.late.map fun y => (y.1, 0) }
    else s

def execPowerShareApply (s : State) : Host.Outcome State Fault Refusal := .next (powerShareApplyEffect s)

/-- The first member whose share or lateness (in ns) differs from what a member reports, with the reported share. -/
def shareDiff : List (DeviceId × Nat) → List (DeviceId × Int) → List Nat → List Nat → Option (DeviceId × Nat × Nat)
  | x :: xs, l :: ls, r :: rs, t :: ts =>
    if x.2 ≠ r ∨ (l.2 / 65536).toNat ≠ t then some (x.1, x.2, r) else shareDiff xs ls rs ts
  | _, _, _, _ => none

/-- POWER_SHARE_RECEIVE: values that differ return every share to its configured value (POWER_SHARE_DIFF). -/
def powerShareReceiveEffect (d : DeviceId) (shares late : List Nat) (s : State) : State :=
  if s.pwr.share.any fun x => x.1 == d then
    match shareDiff s.pwr.share s.pwr.late shares late with
    | some (m, own, rep) =>
      (s.raise 0x0E04 (evtSource 0 0) ([BitVec.ofNat 8 m.val, 0] ++ natLE 2 own ++ natLE 2 rep)).setShares s.pwr.shareCfg
    | none => s
  else s

def execPowerShareReceive (d : DeviceId) (shares late : List Nat) (s : State) : Host.Outcome State Fault Refusal :=
  .next (powerShareReceiveEffect d shares late s)

/-! ### POWER_CONFIGURE (R406, R412) -/

def powerItems (id : Nat) (v : List Byte) : Option Bool :=
  if id = 0x0E01 then some (inRange 10 120 v)
  else if id = 0x0E02 then some (inRange 100 260 v)
  else if id = 0x0E03 then some (inRange 1000 2000 v && leNat v % 25 == 0)
  else if id = 0x0E04 then some (inRange 0 100 v)
  else if id = 0x0E05 then some (inRange 20 80 v)
  else if id = 0x0E06 then some (inRange 0 260 v)
  else if id = 0x0E07 then some (inRange 0 4095 v)
  else none

/-- PWR_CAP, PWR_FMIN, filler, droop threshold and group as items give them; equal shares must lie within DEV_MIN_W-260 W. -/
def powerConfigureEffect (m : MboxId) (s : State) : State :=
  s.mbNow m 0x40 powerItems fun l s =>
    let p := s.pwr
    let dmin := (itemNum l 0x0E06).getD (fld p.group 20 12)
    let g := (itemNum l 0x0E07).getD (fld p.group 11 0)
    let each := g / max 1 s.sharers.length
    if g ≠ 0 ∧ ¬(dmin ≤ each ∧ each ≤ 260) then Reply.bad s stBadArg (itemOffset l 0x0E07)
    else
      let s1 := s.modPwr fun p => { p with
        cap := packWord [((itemNum l 0x0E02).getD (fld p.cap 8 0), 0), ((itemNum l 0x0E01).getD (fld p.cap 24 16), 16)]
        fmin := BitVec.ofNat 12 ((itemNum l 0x0E03).getD p.fmin.toNat), filler := BitVec.ofNat 7 ((itemNum l 0x0E04).getD p.filler.toNat)
        thresh := BitVec.ofNat 7 ((itemNum l 0x0E05).getD p.thresh.toNat) }
      Reply.ok (if (itemVal l 0x0E06).isSome ∨ (itemVal l 0x0E07).isSome then s1.setGroup (packWord [(g, 0), (dmin, 12)]) else s1)

def execPowerConfigure (m : MboxId) (s : State) : Host.Outcome State Fault Refusal := .next (powerConfigureEffect m s)

end Sys2Proof.Machine
end

