-- ==== Sys2Proof/Machine/Registers.lean ====
section
/-! DEFINITION. Register space (R5-R8, R441-R446): its windows and spans, what each register reads as, what a write to it does, the
counter snapshots and the indirect pair. Registers with a row of their own in the command table act by that row's effect. Log
entry 21 names the readings. -/
namespace Sys2Proof.Machine

/-! ### Windows and spans (R441, Table 15-11) -/

/-- A block of the register space and the offset in its decoded span. -/
inductive RegSite where
  | global (o : Nat)
  | stalls (w : Window) (o : Nat)
  | plain (o : Nat)
  | dram (o : Nat)
  | eth (p : PortId) (o : Nat)
  | time (o : Nat)
  | ingest (o : Nat)
  | egress (o : Nat)
  | hist (o : Nat)
  | power (o : Nat)
  | weigh (o : Nat)
  | sec (o : Nat)
  | usb (o : Nat)
  | valley (o : Nat)
  | mbox (m : MboxId) (o : Nat)
deriving DecidableEq, Repr

/-- The register that an address reaches; none outside every window. -/
def regSite (a : Nat) : Option RegSite :=
  if a < 0x01000000 then some (.global (a % 0x8000))
  else match stallWindow a with
    | some (w, o) => some (.stalls w o)
    | none =>
      if a < 0x01800000 ∨ 0x02500000 ≤ a then none
      else
        let o := a % 0x100000
        match (a - 0x01800000) / 0x100000 with
        | 0 => some (.plain (o % 0x2000))
        | 1 => some (.dram (o % 0x100))
        | 2 => some (.eth ⟨o / 0x10000 % 4, Nat.mod_lt _ (by decide)⟩ (o % 0x100))
        | 3 => some (.time (o % 0x200))
        | 4 => some (.ingest (o % 0x100))
        | 5 => some (.egress (o % 0x100))
        | 6 => some (.hist (o % 0x2000))
        | 7 => some (.power (o % 0x800))
        | 8 => some (.weigh (o % 0x100))
        | 9 => some (.sec (o % 0x1000))
        | 10 => some (.usb (o % 0x100))
        | 11 => some (.valley (o % 0x800))
        | _ => some (.mbox ⟨o / 0x4000 % 8, Nat.mod_lt _ (by decide)⟩ (o % 0x4000))

/-! ### Counters (R8, R445) -/

/-- A counter register. -/
inductive CtrSite where
  | dev (c : DevCtr)
  | stall (n : StallId) (c : StallCtr)
deriving DecidableEq, Repr

/-- Counters of a stall's block. -/
def stallCtrAt (o : Nat) : Option StallCtr :=
  ([(0x200, StallCtr.mxCmdCount), (0x204, .mxBusyAc), (0x208, .mxDryAc), (0x20C, .mxBackupAc), (0x210, .mxSatCount), (0x214, .mxRefused),
    (0x218, .mxMixedCount), (0x304, .tableWriteRefused), (0x308, .mxScaleInvalid), (0x410, .vecCmdCount), (0x414, .vecBusyAc),
    (0x418, .vecRefused), (0x41C, .vecEmptyCount), (0x420, .quantBadScale), (0x504, .seqCmdCount), (0x508, .seqBusyAc),
    (0x50C, .seqWaitAc), (0x510, .seqRefused), (0x514, .seqSatCount), (0x518, .seqIrqDropped), (0x680, .dmaRearmOverwrite),
    (0x684, .dmaCyclicAbort)] : List (Nat × StallCtr)).lookup o

/-- Counters of the other blocks. -/
def devCtrAt : RegSite → Option DevCtr
  | .global o =>
    ([(0x4020, DevCtr.qmPreempt), (0x4024, .qmRemoteAbort), (0x4028, .qmResMiss), (0x402C, .qmFaultRequeue), (0x4030, .qmRingFull),
      (0x4034, .qmResvConflict), (0x4038, .qmNotAdmitted), (0x5010, .tdcUnord), (0x5014, .tdcBudget), (0x5018, .tdcSched)]
      : List (Nat × DevCtr)).lookup o
  | .stalls _ _ => none
  | .plain o => ([(0, DevCtr.plainFwViol), (0x1104, .passStray), (0x1108, .passLate)] : List (Nat × DevCtr)).lookup o
  | .dram o => ([(0x10, DevCtr.dramCe), (0x14, .dramUe)] : List (Nat × DevCtr)).lookup o
  | .eth p o => if o = 0x10 then some (.ethRxFcs p) else if o = 0x14 then some (.ethRxMalformed p) else none
  | .time o =>
    ([(0xA0, DevCtr.tbStepDenied), (0xA4, .pinConflict), (0xA8, .tbPlanRefused), (0xAC, .tbPlanReplaced), (0xB0, .tbCapOverrun)]
      : List (Nat × DevCtr)).lookup o
  | .ingest _ => none
  | .egress _ => none
  | .hist o =>
    ([(0x40, DevCtr.hcLabHit), (0x44, .hcLabMiss), (0x48, .hcCow), (0x4C, .hcAppendWait), (0x50, .hcAppendReplace), (0x54, .hcStale),
      (0x58, .hcNoSpace), (0x5C, .hcEmptyContext), (0x60, .hcPostDrop)] : List (Nat × DevCtr)).lookup o
  | .power o => ([(0x30, DevCtr.pwrMismatch), (0x34, .pwrDroop), (0x38, .pwrAvsErr)] : List (Nat × DevCtr)).lookup o
  | .weigh o => ([(0x24, DevCtr.whHallResets), (0x28, .whGoldenFail)] : List (Nat × DevCtr)).lookup o
  | .sec o => if o = 0x20 then some .secVerifyFail else none
  | .usb o => ([(0x10, DevCtr.evtDropped), (0x14, .evtUsbDrop), (0x18, .regUnmapped)] : List (Nat × DevCtr)).lookup o
  | .valley o =>
    ([(4, DevCtr.vlReplay 0), (0x104, .vlReplay 1), (0x204, .vlReplay 2), (0x400, .lsMismatch), (0x404, .lsInputDiff), (0x408, .lsTdcOnly)]
      : List (Nat × DevCtr)).lookup o
  | .mbox _ _ => none

/-- Bit of SNAP_CMD.BLOCKS that selects a device counter (Table 15-17); SEC_VERIFY_FAIL goes with the global block (log entry 21). -/
def devBlock (i : Fin 52) : Nat :=
  if i.val < 10 then 0 else if i.val < 13 then 2 else if i.val < 15 then 3 else if i.val < 23 then 4 else if i.val < 28 then 5
  else if i.val < 37 then 6 else if i.val = 37 then 7 else if i.val < 40 then 8 else if i.val < 43 then 9 else if i.val < 49 then 10
  else if i.val = 49 then 0 else 7

/-- The counter that a register read reaches: through a broadcast window that of the lowest stall (R443). -/
def ctrAt (x : RegSite) : Option CtrSite :=
  match x with
  | .stalls w o =>
    match Window.stalls w with
    | n :: _ => (stallCtrAt o).map (CtrSite.stall n)
    | [] => none
  | y => (devCtrAt y).map CtrSite.dev

def CtrSite.block : CtrSite → Nat
  | .dev c => devBlock c.idx
  | .stall _ _ => 1

def State.ctr (s : State) : CtrSite → Ctr
  | .dev c => s.devCtr c
  | .stall n c => if s.domainOn n.val then vget (s.stall n).ctr c.idx else Ctr.zero

def State.modCtr (s : State) (f : Ctr → Ctr) : CtrSite → State
  | .dev c => { s with dev := vmod s.dev c.idx f }
  | .stall n c => if s.domainOn n.val then s.modStall n fun x => { x with ctr := vmod x.ctr c.idx f } else s

/-- SNAP_STATUS.HELD as the reader has it. -/
def State.heldFor (s : State) (g : Agent) : BitVec 11 :=
  match g with
  | .host => s.host.held
  | .hall => s.host.hallHeld

/-- What a counter reads as (R445). -/
def State.ctrRead (s : State) (g : Agent) (c : CtrSite) : Word :=
  if (s.heldFor g).getLsbD c.block then
    match g with
    | .host => (s.ctr c).hold
    | .hall => (s.ctr c).hall
  else (s.ctr c).live

/-- A read of a counter by the host clears it unless its block is held; Hall's reads and reads of Weighhouse counters never do
(R8, R371, R445). -/
def State.ctrReadClear (s : State) (g : Agent) (c : CtrSite) : State :=
  match g with
  | .hall => s
  | .host => if (s.heldFor .host).getLsbD c.block ∨ c.block = 8 then s else s.modCtr (fun x => { x with live := 0 }) c

/-- One counter copied to the holding register of the agent, and reduced by the copy with CLEAR; Hall clears nothing. -/
def Ctr.snap (g : Agent) (clear : Bool) (c : Ctr) : Ctr :=
  match g with
  | .host => { c with hold := c.live, live := if clear then 0 else c.live }
  | .hall => { c with hall := c.live }

def Queue.snap (g : Agent) (clear : Bool) (x : Queue) : Queue :=
  match g with
  | .host => { x with acctHold := x.acct, acct := if clear then 0 else x.acct }
  | .hall => { x with acctHall := x.acct }

/-- A snapshot of the blocks that a SNAP_CMD value selects. -/
def State.snapshot (s : State) (g : Agent) (v : Word) : State :=
  let sel (b : Nat) : Bool := decide (b < 11) && wbit v b
  let clear := wbit v 31
  let s1 : State := { s with
    dev := vgen 52 fun i =>
      if sel (devBlock i) then Ctr.snap g (clear && devBlock i != 8) (vget s.dev i) else vget s.dev i }
  let s2 : State := if sel 1 then { s1 with stalls := vmap (fun x => { x with ctr := vmap (Ctr.snap g clear) x.ctr }) s1.stalls } else s1
  let s3 : State := if sel 0 then { s2 with qm := { s2.qm with queues := vmap (Queue.snap g clear) s2.qm.queues } } else s2
  match g with
  | .host => { s3 with host := { s3.host with held := s3.host.held ||| v.setWidth 11 } }
  | .hall => { s3 with host := { s3.host with hallHeld := s3.host.hallHeld ||| v.setWidth 11 } }

/-- The selected blocks are released. -/
def State.snapRelease (s : State) (g : Agent) (v : Word) : State :=
  match g with
  | .host => { s with host := { s.host with held := s.host.held &&& ~~~(v.setWidth 11) } }
  | .hall => { s with host := { s.host with hallHeld := s.host.hallHeld &&& ~~~(v.setWidth 11) } }

/-- A write to SNAP_CMD. -/
def State.snapCmd (s : State) (g : Agent) (v : Word) : State := if wbit v 30 then s.snapRelease g v else s.snapshot g v

def execCounterSnapshot (g : Agent) (v : Word) (s : State) : Host.Outcome State Fault Refusal := .next (s.snapCmd g (v &&& 0xBFFFFFFF))

def execCounterRelease (g : Agent) (v : Word) (s : State) : Host.Outcome State Fault Refusal := .next (s.snapRelease g v)

/-! ### The indirect pair (R444, Table 15-12) -/

def agentIx : Agent → Fin 2
  | .host => 0
  | .hall => 1

/-- A region of the indirect space: its domain, and the word at an address; `none` is a word that reads 0. -/
inductive IndWord where
  | unmapped
  | off
  | zero
  | fuse (a : Nat)
  /-- Lock bit of an Ethernet or Valley lane, or TRAINED of a pseudo-channel, where the device knows it. -/
  | lock (known : Bool)
  | board
deriving DecidableEq, Repr

/-- What an indirect address reaches. -/
def State.indAt (s : State) (a : Nat) : IndWord :=
  let lane (lanes o : Nat) (lock : Fin 4 → Bool) : IndWord :=
    let n := o / 0x400
    let w := o % 0x400 / 4
    if lanes ≤ n ∨ 4 ≤ w then .zero else if w = 0 then .lock (lock ⟨n % 4, Nat.mod_lt _ (by decide)⟩) else .board
  if a < 0x1000 then (if s.domainOn 83 then .fuse (a / 4 * 4) else .off)
  else if 0x01000000 ≤ a ∧ a < 0x01040000 then
    let p : PortId := ⟨(a - 0x01000000) / 0x10000 % 4, Nat.mod_lt _ (by decide)⟩
    if s.domainOn (75 + p.val) then lane 2 (a % 0x10000) fun _ => (vget s.eth.ports p).fecLock else .off
  else if 0x02000000 ≤ a ∧ a < 0x02030000 then
    let l : LinkId := ⟨(a - 0x02000000) / 0x10000 % 3, Nat.mod_lt _ (by decide)⟩
    if s.domainOn (79 + l.val) then lane 4 (a % 0x10000) fun n => (vget s.join.links l).lanes.getLsbD n.val else .off
  else if 0x03000000 ≤ a ∧ a < 0x03010000 then
    if s.domainOn 68 then
      let w := a % 0x800 / 4
      if w = 0 then .lock s.fab.trained else if w < 3 then .board else .zero
    else .off
  else if 0x04000000 ≤ a ∧ a < 0x04000100 then
    if s.domainOn 85 then (if a % 0x10 / 4 < 3 then .board else .zero) else .off
  else .unmapped

/-- A read of IND_DATA: the word, or 0 with its reason in IND_STATUS; `answered` is false where no answer comes within 10 µs. -/
def State.indRead (s : State) (g : Agent) (answered : Bool) : Word × State :=
  let i := agentIx g
  let a := vget s.host.indAddr i
  let status (b : BitVec 4) : HostIf := { s.host with indStatus := vmod s.host.indStatus i (· ||| b) }
  let r : Word × HostIf := match s.indAt a.toNat with
    | .unmapped => (0, status 1)
    | .off => (0, status 2)
    | x =>
      if answered = false then (0, status 4)
      else match x with
        | .fuse f => (s.fuseWord f, s.host)
        | .lock known =>
          if known then (1, s.host) else (Config.boardWord a s.host.indReads &&& 1, { s.host with indReads := s.host.indReads + 1 })
        | .board => (Config.boardWord a s.host.indReads, { s.host with indReads := s.host.indReads + 1 })
        | _ => (0, s.host)
  (r.1, { s with host := { r.2 with indAddr := vset s.host.indAddr i (a + 4) } })

/-- A write to IND_DATA: refused, and the address moves on. -/
def State.indWrite (s : State) (g : Agent) : State :=
  let i := agentIx g
  { s with host := { s.host with
    indStatus := vmod s.host.indStatus i (· ||| 8), indAddr := vmod s.host.indAddr i (· + 4) } }

def execIndDataRead (g : Agent) (answered : Bool) (s : State) : Host.Outcome State Fault Refusal := .next (s.indRead g answered).2

def execIndDataWrite (g : Agent) (_ : Word) (s : State) : Host.Outcome State Fault Refusal := .next (s.indWrite g)

/-! ### What registers read as -/

def bits16 (f : Fin 16 → Bool) : Nat := (List.finRange 16).foldl (fun n i => if f i then n + 2 ^ i.val else n) 0

def bits32 (f : Fin 32 → Bool) : Word := (List.finRange 32).foldl (fun b i => if f i then b ||| (1#32 <<< i.val) else b) 0

/-- A register of a queue (Tables 09-10 to 09-16). -/
def Queue.reg (x : Queue) (g : Agent) (o : Nat) : Word :=
  let acct : BitVec 64 := match g with | .host => x.acctHold | .hall => x.acctHall
  match o with
  | 0x00 => x.cfg
  | 0x04 => x.base
  | 0x08 => packWord [(x.gen.toNat, 24), (x.tail.toNat, 12), (x.head.toNat, 0)]
  | 0x10 => x.maskLo
  | 0x14 => x.maskHi
  | 0x18 => acct.setWidth 32
  | 0x1C => (acct >>> 32).setWidth 32
  | _ => 0

def State.globalReg (s : State) (g : Agent) (o : Nat) : Word :=
  if 0x4100 ≤ o ∧ o < 0x4500 then (vget s.qm.queues ⟨(o - 0x4100) / 0x20 % 32, Nat.mod_lt _ (by decide)⟩).reg g (o % 0x20)
  else match o with
    | 0x00 => packWord [(0x0640, 16), (steppingCode, 8), (bitNat Config.gradeE, 0)]
    | 0x10 => vget s.host.indAddr (agentIx g)
    | 0x18 => (vget s.host.indStatus (agentIx g)).setWidth 32
    | 0x24 => (s.heldFor g).setWidth 32
    | 0x4000 => s.qm.ctrl
    | 0x4004 => s.qm.timing
    | 0x5000 => BitVec.ofNat 32 deviceClass
    | _ => 0

/-- A register of a stall's block; its counters apart. -/
def State.stallReg (s : State) (n : StallId) (o : Nat) : Word :=
  let x := s.stall n
  if s.domainOn n.val = false then 0
  else if 0x620 ≤ o ∧ o < 0x640 then (vget x.dmaResv ⟨(o - 0x620) / 4 % 8, Nat.mod_lt _ (by decide)⟩).setWidth 32
  else if 0x700 ≤ o ∧ o < 0x800 then vget x.armWin ⟨(o - 0x700) / 4 % 64, Nat.mod_lt _ (by decide)⟩
  else if 0x800 ≤ o ∧ o < 0x840 then (vget x.res ⟨(o - 0x800) / 4 % 16, Nat.mod_lt _ (by decide)⟩).setWidth 32
  else if fabricOffset o then x.fabricRead o
  else match o with
    | 0x00 => packWord [(n.val, 8), (bitNat (x.running .sequencer).isSome, 4), (bitNat (x.running .vector).isSome, 3),
        (bitNat (x.running .matrix).isSome, 2), (bitNat (x.selftest || x.golden.running), 1), (bitNat x.inService, 0)]
    | 0x04 => (Config.fuseFmax n).setWidth 32
    | 0x400 => x.vecFlush
    | 0x500 => packWord [(bitNat x.irqTaken, 2), (bitNat x.irqPending, 1)]
    | 0x600 => packWord [(x.armCrit.toNat, 4), (x.dmaMode.toNat, 0)]
    | 0x604 =>
      let full := (List.finRange 8).foldl (fun k t => if (vget x.streams t).shadow.isSome then k + 2 ^ t.val else k) 0
      let busy := (List.finRange 8).foldl (fun k t => if (vget x.streams t).chain.isSome then k + 2 ^ t.val else k) 0
      packWord [(full, 8), (busy, 0)]
    | 0x608 => packWord [(x.inboundBase.toNat, 16), (x.inboundEnd.toNat, 0)]
    | _ => 0

def Fabric.plainReg (f : Fabric) (o : Nat) : Word :=
  if 0x100 ≤ o ∧ o < 0x300 then
    let r : Fin 32 := ⟨(o - 0x100) / 16 % 32, Nat.mod_lt _ (by decide)⟩
    match o % 16 with
    | 0 => vget f.fwBase r
    | 4 => vget f.fwLimit r
    | 8 => vget f.fwAttr r
    | _ => 0
  else if 0x1000 ≤ o ∧ o < 0x1100 then
    let x := vget f.passes ⟨(o - 0x1000) / 16 % 16, Nat.mod_lt _ (by decide)⟩
    match o % 16 with
    | 0 => packWord [(bitNat x.en, 31), (bitNat x.joined, 30), (x.target.toNat, 0)]
    | 4 => packWord [(x.gen.toNat, 16), (x.arrived.toNat, 0)]
    | _ => 0
  else match o with
    | 0x04 => f.fwLast
    | 0x1100 => f.passTiming
    | _ => 0

def Fabric.dramReg (f : Fabric) : Nat → Word
  | 0x00 => f.dramResv
  | 0x04 => packWord [(bitNat f.resvErr, 2), (bitNat f.selfRefresh, 1), (bitNat f.trained, 0)]
  | 0x18 => f.ueAddr
  | _ => 0

def EthPort.reg (x : EthPort) : Nat → Word
  | 0x00 => x.ctrl
  | 0x04 => x.vlan
  | 0x08 => packWord [(bitNat x.fecLock, 1), (bitNat x.linkUp, 0)]
  | _ => 0

def TimeBase.reg (t : TimeBase) (o : Nat) : Word :=
  if 0x100 ≤ o ∧ o < 0x110 then vget t.asym ⟨(o - 0x100) / 4 % 4, Nat.mod_lt _ (by decide)⟩
  else match o with
    | 0x00 => packWord [(bitNat t.stepped, 0)]
    | 0x10 => BitVec.ofNat 32 (t.ptp % 65536).toNat
    | 0x14 => t.nowNs.setWidth 32
    | 0x18 => t.nowSLo
    | 0x1C => t.nowSHi.setWidth 32
    | 0x20 => t.nowCntLo
    | 0x24 => t.nowCntHi
    | 0x30 => t.rateReg
    | 0x40 => t.stepSLo
    | 0x44 => t.stepSHi.setWidth 32
    | 0x48 => t.stepNs.setWidth 32
    | 0x4C => packWord [(t.stepFrac.toNat, 16), (bitNat t.denied, 1)]
    | 0x60 => t.planSlot
    | 0x80 => t.ioSel
    | 0x84 => t.pps
    | _ => 0

def Hist.reg (h : Hist) : Nat → Word
  | 0x00 => packWord [(bitNat h.en, 0)]
  | 0x04 => packWord [((vget h.rings 2).length, 24), ((vget h.rings 1).length, 16), ((vget h.rings 0).length, 8), (bitNat (h.en && h.init), 0)]
  | 0x10 => h.trackBase
  | 0x14 => h.plainBase
  | 0x18 => h.plainFrames
  | 0x1C => h.dramBase
  | 0x20 => h.dramFrames
  | 0x24 => h.place
  | 0x28 => h.sramReserve
  | 0x30 => h.shoot ||| packWord [(bitNat h.busy, 1)]
  | _ => 0

def State.powerReg (s : State) (o : Nat) : Word :=
  let p := s.pwr
  if 0x80 ≤ o ∧ o < 0x8C then (p.domains >>> (32 * ((o - 0x80) / 4))).setWidth 32
  else if 0x100 ≤ o ∧ o < 0x200 then
    let n := stallOf ((o - 0x100) / 4)
    let x := s.stall n
    packWord [(x.limit.toNat, 24), (if s.domainOn n.val then vreqMv n x.aclkTarget % 1024 else 0, 14), (if s.domainOn n.val then x.aclk else 0, 0)]
  else if 0x200 ≤ o ∧ o < 0x300 then
    let n := stallOf ((o - 0x200) / 4)
    if s.domainOn n.val then (s.stall n).temp.setWidth 32 else 0
  else if 0x300 ≤ o ∧ o < 0x340 then (vget p.tempX ⟨(o - 0x300) / 4 % 16, Nat.mod_lt _ (by decide)⟩).setWidth 32
  else match o with
    | 0x00 => p.cap
    | 0x04 => packWord [(bitNat (p.hot != 0), 4), (bitNat p.avsFault, 3), (bitNat p.floor, 2), (bitNat p.mismatch, 1),
        (bitNat (decide (p.fpwr < 2250)), 0)]
    | 0x08 => packWord [(p.fmin.toNat, 16), (p.fpwr, 0)]
    | 0x0C => p.filler.setWidth 32
    | 0x10 => p.thresh.setWidth 32
    | 0x20 => packWord [(p.est10Sum / max 1 p.est10Count, 16), (p.est, 0)]
    | 0x24 => packWord [(p.meas.floor.toNat, 16), (p.basis.floor.toNat, 0)]
    | 0x28 => packWord [(p.ackMv, 16), (p.targetMv, 0)]
    | 0x400 => p.group
    | 0x404 => BitVec.ofInt 32 tjmax
    | _ => 0

def State.weighReg (s : State) (o : Nat) : Word :=
  let demoted (i : Fin 3) : Nat := bits16 fun c => (vget (s.cell c).paths i).demoted
  let oos (n : StallId) : Bool := (s.stall n).out || (s.stall n).bootFail
  match o with
  | 0x00 => packWord [(bitNat s.wh.safe, 3), (bitNat s.join.pair.isSome, 2), (bitNat s.wh.hallUp, 1), (bitNat s.wh.ready, 0)]
  | 0x04 => packWord [(demoted 1, 16), (demoted 0, 0)]
  | 0x08 => packWord [(((vlist s.stalls).filter (·.suspect)).length, 16), (demoted 2, 0)]
  | 0x10 => bits32 fun i => oos ⟨i.val, by omega⟩
  | 0x14 => bits32 fun i => oos ⟨32 + i.val, by omega⟩
  | 0x20 => packWord [(s.wh.faultResets.toNat, 16), (s.wh.cause.toNat, 0)]
  | _ => 0

def State.secReg (s : State) (o : Nat) : Word :=
  let x := s.sec
  if 0x100 ≤ o ∧ o < 0x300 then
    BitVec.ofNat 32 ((vget x.meas ⟨(o - 0x100) / 0x40 % 8, Nat.mod_lt _ (by decide)⟩).toNat / 2 ^ (8 * (o % 0x40 / 4 * 4)))
  else match o with
    | 0x00 => packWord [((x.debug).toNat, 9), (x.bootSel.toNat, 7), (x.source.toNat, 5), (bitNat x.whSlot, 4), (bitNat x.hallSlot, 3),
        (bitNat x.whRun, 2), (bitNat x.hallRun, 1), (bitNat x.ready, 0)]
    | 0x04 => packWord [(s.svnCounter 2, 16), (s.svnCounter 1, 8), (s.svnCounter 0, 0)]
    | 0x08 => packWord [(bitNat Config.usbBootDisable, 5), (bitNat Config.debugDisable, 4), (s.revokedKeys.toNat, 0)]
    | 0x0C => x.bootMs
    | 0x10 => x.stageBase.setWidth 32
    | _ => 0

def HostIf.usbReg (h : HostIf) : Nat → Word
  | 0x00 => packWord [(h.usbSpeed.toNat, 1), (bitNat h.usbConfigured, 0)]
  | 0x04 => packWord [(Config.idVendor.toNat, 16), (0x0640, 0)]
  | 0x08 => h.evtMask.setWidth 32
  | 0x0C => h.evtSeq
  | _ => 0

def Join.valleyReg (j : Join) (o : Nat) : Word :=
  if o < 0x300 ∧ o % 0x100 = 0 then
    let x := vget j.links ⟨o / 0x100 % 3, Nat.mod_lt _ (by decide)⟩
    packWord [(x.peer.toNat, 8), (x.lanes.toNat, 4), (bitNat x.up, 0)]
  else 0

def Mailbox.reg (x : Mailbox) (o : Nat) : Word :=
  if o < 0x1000 then BitVec.ofNat 32 (memNat x.req o 4)
  else if o < 0x2000 then BitVec.ofNat 32 (memNat x.resp (o - 0x1000) 4)
  else match o with
    | 0x2004 => packWord [(x.lastSeq.toNat, 16), (bitNat x.overrun, 2), (bitNat x.done, 1), (bitNat x.busy, 0)]
    | 0x2008 => packWord [(x.qp.toNat, 8), (bitNat x.transport, 0)]
    | _ => 0

/-- What a register other than a counter and IND_DATA reads as: 0 for write-only ones and offsets that hold none (R5, R441). -/
def State.regValue (s : State) (g : Agent) : RegSite → Word
  | .global o => s.globalReg g o
  | .stalls w o =>
    match Window.stalls w with
    | n :: _ => s.stallReg n o
    | [] => 0
  | .plain o => s.fab.plainReg o
  | .dram o => s.fab.dramReg o
  | .eth p o => (vget s.eth.ports p).reg o
  | .time o => s.time.reg o
  | .ingest o => if o = 0 then s.eth.ingCfg else 0
  | .egress o => if o = 0 then packWord [(256, 16), (256, 0)] else 0
  | .hist o => s.hist.reg o
  | .power o => s.powerReg o
  | .weigh o => s.weighReg o
  | .sec o => s.secReg o
  | .usb o => s.host.usbReg o
  | .valley o => s.join.valleyReg o
  | .mbox m o => (s.mb m).reg o

/-- A 32-bit read of register space: its value and what the read does (R5, R316, R441, R444, R445). -/
def State.regRead (s : State) (g : Agent) (a : Nat) (answered : Bool) : Word × State :=
  match regSite (a / 4 * 4) with
  | none => (0, s.devInc .regUnmapped)
  | some (.global 0x14) => s.indRead g answered
  | some (.time 0x10) => (s.time.reg 0x10, tbNowLatchEffect s)
  | some x =>
    match ctrAt x with
    | some c => (s.ctrRead g c, s.ctrReadClear g c)
    | none => (s.regValue g x, s)

/-- COUNTER_READ_CLEAR: a read of a counter register. -/
def counterReadClearEffect (g : Agent) (a : Word) (s : State) : State :=
  match regSite (a.toNat / 4 * 4) with
  | some x =>
    match ctrAt x with
    | some c => s.ctrReadClear g c
    | none => s
  | none => s

def execCounterReadClear (g : Agent) (a : Word) (s : State) : Host.Outcome State Fault Refusal := .next (counterReadClearEffect g a s)

/-! ### What a write does -/

/-- A register of a queue. -/
def State.writeQueue (s : State) (q : QueueId) (o : Nat) (v : Word) : State :=
  match o with
  | 0x00 => if wbit v 31 then queueEnableEffect q v s else queueFlushEffect q v s
  | 0x04 => s.modQueue q fun x => if x.en then x else { x with base := v &&& 0xFFFFFF80 }
  | 0x08 => tailWriteEffect q v s
  | 0x10 => s.modQueue q fun x => if x.en then x else { x with maskLo := v }
  | 0x14 => s.modQueue q fun x => if x.en then x else { x with maskHi := v }
  | _ => s

def State.writeGlobal (s : State) (g : Agent) (o : Nat) (v : Word) : State :=
  if 0x4100 ≤ o ∧ o < 0x4500 then s.writeQueue ⟨(o - 0x4100) / 0x20 % 32, Nat.mod_lt _ (by decide)⟩ (o % 0x20) v
  else match o with
    | 0x10 => { s with host := { s.host with indAddr := vset s.host.indAddr (agentIx g) (v &&& 0xFFFFFFFC) } }
    | 0x14 => s.indWrite g
    | 0x18 => { s with host := { s.host with indStatus := vmod s.host.indStatus (agentIx g) (· &&& ~~~(v.setWidth 4)) } }
    | 0x20 => s.snapCmd g v
    | 0x4000 => { s with qm := { s.qm with ctrl := v &&& 0xFF } }
    | 0x4004 => { s with qm := { s.qm with timing := v } }
    | _ => s

/-- A register of one stall's block, at the time now. -/
def Stall.writeReg (x : Stall) (o : Nat) (v : Word) (now : Int) : Stall :=
  if 0x620 ≤ o ∧ o < 0x640 then x.writeResv ⟨(o - 0x620) / 4 % 8, Nat.mod_lt _ (by decide)⟩ v
  else if 0x700 ≤ o ∧ o < 0x800 then { x with armWin := vset x.armWin ⟨(o - 0x700) / 4 % 64, Nat.mod_lt _ (by decide)⟩ v }
  else if 0x800 ≤ o ∧ o < 0x840 then { x with res := vset x.res ⟨(o - 0x800) / 4 % 16, Nat.mod_lt _ (by decide)⟩ (v.setWidth 16) }
  else if fabricOffset o then x.fabricWrite o v
  else match o with
    | 0x400 => { x with vecFlush := v }
    | 0x500 => x.writeIrq v
    | 0x600 => { x with dmaMode := v.setWidth 2, armCrit := if fld v 5 4 = 3 then x.armCrit else BitVec.ofNat 2 (fld v 5 4) }
    | 0x608 => { x with inboundBase := (v >>> 16).setWidth 16, inboundEnd := v.setWidth 16 }
    | 0x640 => x.writeArm v now
    | _ => x

def State.writePlain (s : State) (o : Nat) (v : Word) : State :=
  let modFab (f : Fabric → Fabric) : State := { s with fab := f s.fab }
  if 0x100 ≤ o ∧ o < 0x300 then
    let r : Fin 32 := ⟨(o - 0x100) / 16 % 32, Nat.mod_lt _ (by decide)⟩
    match o % 16 with
    | 0 => modFab fun f => { f with fwBase := vset f.fwBase r (v &&& 0x1FFF) }
    | 4 => modFab fun f => { f with fwLimit := vset f.fwLimit r (v &&& 0x3FFF) }
    | 8 => modFab fun f => { f with fwAttr := vmod f.fwAttr r (wrMask (if fld v 1 0 = 3 then 0x80000018 else 0x8000001B) · v) }
    | _ => s
  else if 0x1000 ≤ o ∧ o < 0x1100 ∧ o % 16 = 0 then passCfgEffect ⟨(o - 0x1000) / 16 % 16, Nat.mod_lt _ (by decide)⟩ v s
  else if o = 0x1100 then modFab fun f => { f with passTiming := v }
  else s

def State.writeDram (s : State) (o : Nat) (v : Word) : State :=
  match o with
  | 0x00 => { s with fab := s.fab.writeDramResv v }
  | 0x04 => { s with fab := { s.fab with resvErr := s.fab.resvErr && !wbit v 2 } }
  | _ => s

/-- ETH_CTRL_p and ETH_VLAN_p: EN turns the port's domain on, or starts its way off (R394). -/
def State.writeEth (s : State) (p : PortId) (o : Nat) (v : Word) : State :=
  let modPort (f : EthPort → EthPort) : State := { s with eth := { s.eth with ports := vmod s.eth.ports p f } }
  match o with
  | 0x00 =>
    let s1 := modPort fun x => { x with
      ctrl := v &&& 0x80033FFF
      offAt := if wbit v 31 then none else if wbit x.ctrl 31 then some s.now else x.offAt }
    if wbit v 31 then s1.setDomain (75 + p.val) true else s1
  | 0x04 => modPort fun x => { x with vlan := v &&& 0xEFFF }
  | _ => s

def State.writeTime (s : State) (o : Nat) (v : Word) : State :=
  if 0x100 ≤ o ∧ o < 0x110 then s.modTime fun t => { t with asym := vset t.asym ⟨(o - 0x100) / 4 % 4, Nat.mod_lt _ (by decide)⟩ v }
  else match o with
    | 0x30 => tbRateWriteEffect v s
    | 0x40 => s.modTime fun t => { t with stepSLo := v }
    | 0x44 => s.modTime fun t => { t with stepSHi := v.setWidth 16 }
    | 0x48 => s.modTime fun t => { t with stepNs := v.setWidth 30 }
    | 0x4C => tbStepGoEffect v s
    | 0x60 => s.modTime fun t => { t with planSlot := v &&& 0x0F03FF7F }
    | 0x64 => planRegisterEffect v s
    | 0x80 => timeIoSelWriteEffect v s
    | 0x84 => s.modTime fun t => { t with pps := v &&& 0x7FFFF }
    | _ => s

/-- The history registers: the layout ones take effect only while EN = 0 (R226). -/
def State.writeHist (s : State) (o : Nat) (v : Word) : State :=
  let layout (f : Hist → Hist) : State := if s.hist.en then s else { s with hist := f s.hist }
  match o with
  | 0x00 =>
    let s1 : State := { s with hist := { s.hist with en := wbit v 0 } }
    if wbit v 0 ∧ s.hist.init = false then s1.histInit else s1
  | 0x10 => layout fun h => { h with trackBase := v &&& 0xFFFFF800 }
  | 0x14 => layout fun h => { h with plainBase := v &&& 0xFFFFF000 }
  | 0x18 => layout fun h => { h with plainFrames := v &&& 0xFFF }
  | 0x1C => layout fun h => { h with dramBase := v &&& 0x3FFFFF }
  | 0x20 => layout fun h => { h with dramFrames := v &&& 0xFFFF }
  | 0x24 => layout fun h => { h with place := v &&& 0x3F3F3F }
  | 0x28 => layout fun h => { h with sramReserve := v &&& 0x1FF }
  | 0x30 => hcLabShootEffect v s
  | _ => s

def State.writePower (s : State) (o : Nat) (v : Word) : State :=
  match o with
  | 0x00 => s.modPwr fun p => { p with cap := v &&& 0x01FF01FF }
  | 0x04 => s.modPwr fun p => { p with floor := p.floor && !wbit v 2, mismatch := p.mismatch && !wbit v 1 }
  | 0x08 => s.modPwr fun p => { p with fmin := (v >>> 16).setWidth 12 }
  | 0x0C => s.modPwr fun p => { p with filler := v.setWidth 7 }
  | 0x10 => s.modPwr fun p => { p with thresh := v.setWidth 7 }
  | 0x400 => s.setGroup v
  | _ => s

/-- A write to a mailbox's page, doorbell, status or configuration (R427, Tables 15-19 to 15-22). -/
def State.writeMbox (s : State) (g : Agent) (m : MboxId) (o : Nat) (v : Word) : State :=
  if o < 0x1000 then
    if (s.mb m).transport then s else s.modMb m fun x => { x with req := memWrite x.req o (natLE 4 v.toNat) }
  else match o with
    | 0x2000 => mbDoorbellEffect m v s
    | 0x2004 => s.modMb m fun x => { x with overrun := x.overrun && !wbit v 2 }
    | 0x2008 => if g = .host then s.modMb m fun x => { x with qp := (v >>> 8).setWidth 8, transport := wbit v 0 } else s
    | _ => s

/-- A write to one register: its fields under their access codes; nothing where no register is (R5, R441, R442). -/
def State.regWriteAt (s : State) (g : Agent) (v : Word) : RegSite → State
  | .global o => s.writeGlobal g o v
  | .stalls w o => s.overWindow w fun s n => s.modStall n fun x => x.writeReg o v s.now
  | .plain o => s.writePlain o v
  | .dram o => s.writeDram o v
  | .eth p o => s.writeEth p o v
  | .time o => s.writeTime o v
  | .ingest o => if o = 0 then { s with eth := { s.eth with ingCfg := v &&& 0xFF } } else s
  | .egress _ => s
  | .hist o => s.writeHist o v
  | .power o => s.writePower o v
  | .weigh _ => s
  | .sec _ => s
  | .usb o => if o = 8 then { s with host := { s.host with evtMask := v.setWidth 16 } } else s
  | .valley _ => s
  | .mbox m o => s.writeMbox g m o v

/-- A 32-bit write to register space. -/
def State.regWrite (s : State) (g : Agent) (a : Nat) (v : Word) : State :=
  match regSite (a / 4 * 4) with
  | none => s.devInc .regUnmapped
  | some x => s.regWriteAt g v x

def execRegisterWrite (g : Agent) (a v : Word) (s : State) : Host.Outcome State Fault Refusal := .next (s.regWrite g a.toNat v)

end Sys2Proof.Machine
end

