-- ==== Sys2Proof/Machine/Usb.lean ====
section
/-! DEFINITION. The USB port (R419-R426, R438): endpoint 0, register access, the event endpoint and the fallback to high speed.
What the spec takes from USB 3.2 chapter 9 is PRESUMED (log entry 18). -/
namespace Sys2Proof.Machine

/-! ### Endpoint 0 (R419-R421) -/

/-- The device descriptor; bcdDevice is the stepping code. -/
def HostIf.deviceDescriptor (h : HostIf) : List Byte :=
  let ss := h.usbSpeed == 2
  [18, 1] ++ natLE 2 (if ss then 0x320 else 0x210) ++ [0, 0, 0, if ss then 9 else 64] ++ natLE 2 Config.idVendor.toNat ++ natLE 2 0x0640
    ++ natLE 2 steppingCode ++ [0, 0, 0, 1]

/-- An endpoint descriptor, with its companion at SuperSpeedPlus. -/
def HostIf.endpointDescriptor (h : HostIf) (addr : Byte) (interrupt : Bool) : List Byte :=
  let ss := h.usbSpeed == 2
  [7, 5, addr, if interrupt then 3 else 2] ++ natLE 2 (if interrupt || ss then 1024 else 512) ++ [if interrupt then 1 else 0]
    ++ if ss then [6, 0x30, if interrupt then 0 else 15, 0] ++ natLE 2 (if interrupt then 1024 else 0) else []

/-- The configuration with its one interface and the endpoints of Table 15-1; boot-ROM mode has the endpoint 1 pair only (R457).
Self-powered, nothing drawn from VBUS. -/
def HostIf.configDescriptor (h : HostIf) : List Byte :=
  let eps := h.endpointDescriptor 0x01 false ++ h.endpointDescriptor 0x81 false
    ++ if h.usbProtocol = 0 then []
       else h.endpointDescriptor 0x02 false ++ h.endpointDescriptor 0x82 false ++ h.endpointDescriptor 0x83 true
  [9, 2] ++ natLE 2 (18 + eps.length) ++ [1, 1, 0, 0xC0, 0]
    ++ [9, 4, 0, 0, if h.usbProtocol = 0 then 2 else 5, 0xFF, 0x00, h.usbProtocol, 0] ++ eps

/-- Endpoint 0 answers: data cut to wLength, or STALL. -/
def State.control (s : State) (length : BitVec 16) (data : Option (List Byte)) : State :=
  match data with
  | some bs => s.send (.usbControl true (bs.take length.toNat))
  | none => s.send (.usbControl false [])

/-- USB_STANDARD_REQUEST. -/
def usbStandardRequestEffect (requestType request : Byte) (value _index length : BitVec 16) (s : State) : State :=
  let h := s.host
  let modHost (f : HostIf → HostIf) : State := { s with host := f s.host }
  if h.usbAttached = false then s
  else if fld (requestType.setWidth 32) 6 5 ≠ 0 then s.control length none
  else match request.toNat with
    | 0x00 => s.control length (some [if requestType = 0x80 then 1 else 0, 0])
    | 0x01 => s.control length (some [])
    | 0x03 => s.control length (some [])
    | 0x05 => (modHost fun h => { h with usbAddress := value.setWidth 7 }).control length (some [])
    | 0x06 =>
      match value.toNat / 256 with
      | 1 => s.control length (some h.deviceDescriptor)
      | 2 => s.control length (some h.configDescriptor)
      | 15 => (s.drew (ceilDiv length.toNat 8)).control length (some (s.freeBytes length.toNat))
      | _ => s.control length none
    | 0x08 => s.control length (some [BitVec.ofNat 8 (bitNat h.usbConfigured)])
    | 0x09 =>
      if value.toNat % 256 ≤ 1 then
        (modHost fun h => { h with usbConfigured := value.toNat % 256 == 1 }).control length (some [])
      else s.control length none
    | 0x0A => s.control length (some [0])
    | 0x0B => s.control length (if value = 0 then some [] else none)
    | 0x30 => s.control length (some [])
    | 0x31 => s.control length (some [])
    | _ => s.control length none

def execUsbStandardRequest (requestType request : Byte) (value index length : BitVec 16) (s : State) :
    Host.Outcome State Fault Refusal := .next (usbStandardRequestEffect requestType request value index length s)

/-- USB_RESET_COMMAND: a vendor request; the reset command with every field as in R421, any other is answered with STALL. -/
def usbResetCommandEffect (requestType request : Byte) (value index length : BitVec 16) (s : State) : State :=
  if s.host.usbAttached = false then s
  else if requestType = 0x40 ∧ request = 0x01 ∧ value = 0x0640 ∧ index = 0 ∧ length = 0 then
    (s.send (.usbControl true [])).warmReset 7 false
  else s.send (.usbControl false [])

def execUsbResetCommand (requestType request : Byte) (value index length : BitVec 16) (s : State) :
    Host.Outcome State Fault Refusal := .next (usbResetCommandEffect requestType request value index length s)

/-- USB_FALLBACK: the link goes on at high speed (R419, R426). -/
def usbFallbackEffect (s : State) : State :=
  if s.host.usbSpeed = 2 then { s with host := { s.host with usbSpeed := 1 } } else s

def execUsbFallback (s : State) : Host.Outcome State Fault Refusal := .next (usbFallbackEffect s)

/-! ### Register access (R423-R425) -/

/-- Endpoint 2 is there: configured, and not in boot-ROM mode. -/
def State.endpoint2 (s : State) : Bool := s.host.usbConfigured && s.sec.phase != .rom

/-- The addresses of a request. -/
def accessAddrs (same : Bool) (addr : Word) (count : Nat) : List Nat :=
  (List.range count).map fun i => if same then addr.toNat else (addr + BitVec.ofNat 32 (4 * i)).toNat

/-- A request with a response message: STATUS 2 for a malformed one, which accesses nothing; otherwise the words read. -/
def State.registerAccess (s : State) (tag : BitVec 16) (addr : Word) (count : BitVec 16) (lengthOk : Bool)
    (run : State → List Word × State) : State :=
  if s.endpoint2 = false then s
  else if addr.toNat % 4 ≠ 0 ∨ count.toNat < 1 ∨ 1016 < count.toNat ∨ lengthOk = false then s.send (.usbMessage 1 2 tag addr 0 [])
  else
    let r := run s
    r.2.send (.usbMessage 1 0 tag addr (BitVec.ofNat 16 r.1.length) (r.1.flatMap fun w => natLE 4 w.toNat))

/-- Words read in order; `late` names those whose indirect access is not answered within 10 µs (R444). -/
def State.readWords (late : List Nat) : List (Nat × Nat) → State → List Word × State
  | [], s => ([], s)
  | (a, i) :: l, s =>
    let r := s.regRead .host a (!late.contains i)
    let t := State.readWords late l r.2
    (r.1 :: t.1, t.2)

/-- Words written in order. -/
def State.writeWords : List (Nat × Word) → State → State
  | [], s => s
  | (a, v) :: l, s => State.writeWords l (s.regWrite .host a v)

def State.accessRead (s : State) (same : Bool) (tag : BitVec 16) (addr : Word) (count : BitVec 16) (data : List Byte) (late : List Nat) :
    State :=
  s.registerAccess tag addr count (data == []) fun s => State.readWords late (accessAddrs same addr count.toNat).zipIdx s

def State.accessWrite (s : State) (same : Bool) (tag : BitVec 16) (addr : Word) (count : BitVec 16) (data : List Byte) : State :=
  s.registerAccess tag addr count (data.length == 4 * count.toNat) fun s =>
    ([], State.writeWords ((accessAddrs same addr count.toNat).zipIdx.map fun p => (p.1, BitVec.ofNat 32 (bytesNat data (4 * p.2) 4))) s)

def execRead (tag : BitVec 16) (addr : Word) (count : BitVec 16) (data : List Byte) (late : List Nat) (s : State) :
    Host.Outcome State Fault Refusal := .next (s.accessRead false tag addr count data late)

def execReadSame (tag : BitVec 16) (addr : Word) (count : BitVec 16) (data : List Byte) (late : List Nat) (s : State) :
    Host.Outcome State Fault Refusal := .next (s.accessRead true tag addr count data late)

def execWrite (tag : BitVec 16) (addr : Word) (count : BitVec 16) (data : List Byte) (s : State) :
    Host.Outcome State Fault Refusal := .next (s.accessWrite false tag addr count data)

def execWriteSame (tag : BitVec 16) (addr : Word) (count : BitVec 16) (data : List Byte) (s : State) :
    Host.Outcome State Fault Refusal := .next (s.accessWrite true tag addr count data)

/-! ### Events (R438, R439) -/

/-- EVENT_ENDPOINT_POLL: a packet of up to 32 records, oldest first. -/
def eventEndpointPollEffect (s : State) : State :=
  if s.endpoint2 = false ∨ s.host.endpoint3 = [] then s
  else ({ s with host := { s.host with endpoint3 := s.host.endpoint3.drop 32 } }).send (.usbEvents (s.host.endpoint3.take 32))

def execEventEndpointPoll (s : State) : Host.Outcome State Fault Refusal := .next (eventEndpointPollEffect s)

/-- EVENTS_DROPPED: once a µs without a refusal has passed, the number refused is recorded; where the record itself finds no room
it waits. -/
def eventsDroppedEffect (s : State) : State :=
  if s.host.evtRefused = 0 ∨ usOf s.now < s.host.evtRefusedUs + 2 then s
  else
    let s1 := State.raise { s with host := { s.host with evtRefused := 0 } } 0x0F01 0 (natLE 4 s.host.evtRefused)
    if s1.host.evtRefused = 0 then s1 else s

def execEventsDropped (s : State) : Host.Outcome State Fault Refusal := .next (eventsDroppedEffect s)

end Sys2Proof.Machine
end

