-- ==== Sys2Proof/Machine/HostCmd.lean ====
section
/-! DEFINITION. Mailbox commands about the device, its events and captures, ports and queue pairs (Table 15-8). Log entry 21 names the
readings. -/
namespace Sys2Proof.Machine

/-- BACKGROUND_COMMAND_DONE: a command in the background ends and is answered (R430). -/
def backgroundCommandDoneEffect (m : MboxId) (s : State) : State :=
  match (s.mb m).phase with
  | .taken true _ _ _ _ _ => if s.hallAbsent then s else s.mbRelease m
  | _ => s

def execBackgroundCommandDone (m : MboxId) (s : State) : Host.Outcome State Fault Refusal := .next (backgroundCommandDoneEffect m s)

/-! ### DEVICE_INFO -/

/-- What DEVICE_INFO returns in a BLOB: GLOBAL_ID, class, interface version, stalls in service, Hall and Weighhouse image versions, a bit
per stall in service, and FMAX and VMIN of each stall. -/
def State.deviceInfo (s : State) : List Byte :=
  natLE 4 (s.globalReg .hall 0).toNat ++ [BitVec.ofNat 8 deviceClass, 3] ++ natLE 2 s.inServiceCount
    ++ natLE 4 (bytesNat s.sec.hallImage 12 4) ++ natLE 4 (bytesNat s.sec.whImage 12 4)
    ++ natLE 8 ((List.finRange 64).foldl (fun k n => if (s.stall n).inService then k + 2 ^ n.val else k) 0)
    ++ (List.finRange 64).flatMap fun n => natLE 2 (Config.fuseFmax n).toNat ++ natLE 2 (Config.fuseVmin n).toNat

def deviceInfoEffect (m : MboxId) (s : State) : State :=
  s.mbNow m 0x01 (fun _ _ => none) fun _ s => Reply.ok s (itemBytes 12 s.deviceInfo)

def execDeviceInfo (m : MboxId) (s : State) : Host.Outcome State Fault Refusal := .next (deviceInfoEffect m s)

/-! ### Events (R437, R438) -/

def powerOfTwo (v : Nat) : Bool := (List.range 32).any fun k => v == 2 ^ k

/-- SIZE, and the USB mask in ENABLE. -/
def eventItems (id : Nat) (v : List Byte) : Option Bool :=
  if id = 11 then some (sized 4 v && inRange 4096 1048576 v && powerOfTwo (leNat v))
  else if id = 6 then some (inRange 0 0xFFFF v)
  else none

def eventConfigureEffect (m : MboxId) (s : State) : State :=
  s.mbNow m 0x02 eventItems fun l s =>
    let h := s.host
    let size := (itemNum l 11).getD h.ringSize
    Reply.ok { s with host := { h with
      ringSize := size, ring := keepLast size h.ring, evtMask := ((itemNum l 6).map (BitVec.ofNat 16)).getD h.evtMask } }

def execEventConfigure (m : MboxId) (s : State) : Host.Outcome State Fault Refusal := .next (eventConfigureEffect m s)

/-- Records of the ring from a SEQ on; those that the ring has overwritten are left out. -/
def HostIf.recordsFrom (h : HostIf) (seq : Option Nat) : List Event :=
  match seq with
  | none => h.ring
  | some q => h.ring.filter fun e => !(e.seq - BitVec.ofNat 32 q).getLsbD 31

def eventReadItems (id : Nat) (v : List Byte) : Option Bool :=
  if id = 4 then some (sized 4 v) else if id = 5 then some (inRange 1 127 v) else none

def eventReadEffect (m : MboxId) (s : State) : State :=
  s.mbNow m 0x03 eventReadItems fun l s =>
    let rs := (s.host.recordsFrom (itemNum l 4)).take ((itemNum l 5).getD 127)
    Reply.ok s (itemBytes 12 (rs.flatMap eventBytes))

def execEventRead (m : MboxId) (s : State) : Host.Outcome State Fault Refusal := .next (eventReadEffect m s)

/-! ### Captures (Table 15-8, R484) -/

def captureItems (id : Nat) (v : List Byte) : Option Bool :=
  if id = 1 then some (sized 2 v)
  else if id = 6 then some (inRange 0 1 v)
  else if id = 10 then some (inRange 0 2 v)
  else if id = 11 then some (sized 4 v)
  else none

/-- CAPTURE_CONFIGURE: the trace ring is DENIED while debug is locked; another source or size empties the ring. -/
def captureConfigureEffect (m : MboxId) (s : State) : State :=
  s.mbNow m 0x04 captureItems fun l s =>
    let c := s.host.capture
    let source := (itemNum l 10).getD c.source
    let size := (itemNum l 11).getD c.size
    if source = 2 ∧ s.sec.debug = 0 then Reply.bad s stDenied 10
    else
      let same := decide (source = c.source ∧ size = c.size)
      Reply.ok { s with host := { s.host with capture := {
        enabled := ((itemNum l 6).map (· == 1)).getD c.enabled, source := source, size := size
        target := ((itemNum l 1).map (BitVec.ofNat 16)).getD c.target, data := if same then c.data else [] } } }

def execCaptureConfigure (m : MboxId) (s : State) : Host.Outcome State Fault Refusal := .next (captureConfigureEffect m s)

/-- Bytes of a capture message. -/
def captureChunk : Nat := 65536

/-- Messages of KIND 3 with the ring from a byte offset on. -/
def State.upload (s : State) (tag : BitVec 16) : Nat → Nat → List Byte → State
  | 0, _, _ => s
  | n + 1, off, bs =>
    (s.send (.usbMessage 3 0 tag (BitVec.ofNat 32 off) 0 (bs.take captureChunk))).upload tag n (off + captureChunk) (bs.drop captureChunk)

/-- CAPTURE_READ: the ring goes out on endpoint 2 under the command's SEQ. -/
def captureReadEffect (m : MboxId) (s : State) : State :=
  s.mbCommand m 0x05 (fun _ _ => none) fun _ s =>
    let bs := s.host.capture.data
    if s.endpoint2 then (Reply.ok (s.upload (s.mb m).seq (ceilDiv bs.length captureChunk) 0 bs), .background)
    else (Reply.bad s stNotReady 0, .now)

def execCaptureRead (m : MboxId) (s : State) : Host.Outcome State Fault Refusal := .next (captureReadEffect m s)

/-! ### Ports and queue pairs (R283, R284, R308) -/

def portItems (id : Nat) (v : List Byte) : Option Bool :=
  if id = 1 then some (inRange 0x100 0x103 v)
  else if id = 0x0A09 then some (inRange 0 3 v)
  else if id = 0x0A0A then some (inRange 0 4095 v)
  else if id = 0x0A0B then some (inRange 0 7 v)
  else if id = 0x0A0C then some (inRange 1518 9600 v)
  else none

/-- Port p carries the fronthaul of a running cell. -/
def State.portBusy (s : State) (p : PortId) : Bool := (vlist s.cells).any fun x => x.running && x.get .port == p.val

/-- PORT_CONFIGURE: MODE, VLAN and MTU; a port with a mode is enabled. -/
def portConfigureEffect (m : MboxId) (s : State) : State :=
  s.mbNow m 0x30 portItems fun l s =>
    match itemNum l 1 with
    | none => Reply.bad s stBadArg 16
    | some t =>
      let p : PortId := ⟨t % 4, Nat.mod_lt _ (by decide)⟩
      if s.portBusy p then Reply.bad s stDenied 1
      else
        let x := vget s.eth.ports p
        let mode := (itemNum l 0x0A09).getD x.mode
        let ctrl := packWord [(if mode = 0 then 0 else 1, 31), (mode, 16), ((itemNum l 0x0A0C).getD (fld x.ctrl 13 0), 0)]
        let vlan := packWord [((itemNum l 0x0A0B).getD x.pcp, 13), ((itemNum l 0x0A0A).getD x.vid.toNat, 0)]
        let s1 := (s.writeEth p 0 ctrl).writeEth p 4 vlan
        Reply.ok (s1.modPort p fun x => { x with journal := (ctrl, vlan) })

def execPortConfigure (m : MboxId) (s : State) : Host.Outcome State Fault Refusal := .next (portConfigureEffect m s)

def qpItems (id : Nat) (v : List Byte) : Option Bool :=
  if id = 0x0A10 then some (inRange 0 255 v)
  else if id = 0x0A11 then some (inRange 0 3 v)
  else if id = 0x0A12 then some (inRange 0 4096 v && [1024, 2048, 4096].contains (leNat v))
  else if id = 0x0A13 then some (sized 16 v)
  else if id = 0x0A14 then some (inRange 0 0xFFFFFF v)
  else if id = 0x0A15 then some (sized 6 v)
  else if id = 0x0A16 then some (inRange 0 14 v)
  else if id = 0x0A17 then some (sized 16 v)
  else none

/-- A queue pair established afresh: no request is outstanding and packet numbers start at 0. -/
def QueuePair.fresh (x : QueuePair) (now : Int) : QueuePair :=
  { x with configured := true, error := false, psn := 0, expect := 0, sent := [], retries := 0, sentAt := now, rate := 1, rateAt := now }

/-- A region opened, in place of one under the same key; with length 0 that one is closed. -/
def QueuePair.open_ (x : QueuePair) (v : List Byte) : QueuePair :=
  let r : RoceRegion := ⟨BitVec.ofNat 64 (bytesNat v 0 8), bytesNat v 8 4, BitVec.ofNat 32 (bytesNat v 12 4)⟩
  let rest := x.regions.filter fun y => y.key != r.key
  { x with regions := if r.length = 0 then rest else rest ++ [r] }

/-- ROCE_QP_CONFIGURE: a queue pair and one of its regions; a command that names the far end, and any for a queue pair that is not
live, establishes it afresh. -/
def roceQpConfigureEffect (m : MboxId) (s : State) : State :=
  s.mbNow m 0x31 qpItems fun l s =>
    match itemNum l 0x0A10 with
    | none => Reply.bad s stBadArg 16
    | some q =>
      let q : QpId := ⟨q % 256, Nat.mod_lt _ (by decide)⟩
      let named := [0x0A11, 0x0A12, 0x0A13, 0x0A14, 0x0A15].any fun id => (itemVal l id).isSome
      Reply.ok (s.modQp q fun x =>
        let y : QueuePair := { x with
          port := ((itemNum l 0x0A11).map fun p => ⟨p % 4, Nat.mod_lt _ (by decide)⟩).getD x.port
          mtu := (itemNum l 0x0A12).getD x.mtu, gid := ((itemNum l 0x0A13).map (BitVec.ofNat 128)).getD x.gid
          qpn := ((itemNum l 0x0A14).map (BitVec.ofNat 32)).getD x.qpn, mac := ((itemNum l 0x0A15).map (BitVec.ofNat 48)).getD x.mac
          retryT := (itemNum l 0x0A16).getD x.retryT }
        let z := match itemVal l 0x0A17 with | some v => y.open_ v | none => y
        if named || !x.live then z.fresh s.up else z)

def execRoceQpConfigure (m : MboxId) (s : State) : Host.Outcome State Fault Refusal := .next (roceQpConfigureEffect m s)

/-! ### REINIT (R447) -/

/-- A cell is flushed and its plans are rebuilt; a port or a Valley link starts its link again; a queue pair is established afresh. -/
def State.reinit (s : State) (t : Nat) : Reply :=
  match t / 256 with
  | 0 =>
    if h : t < 16 then
      if (s.cell ⟨t, h⟩).configured then Reply.ok (s.reinitCell ⟨t, h⟩) else Reply.bad s stNotReady 0
    else Reply.bad s stBadArg 16
  | 1 =>
    if t % 256 < 4 then
      Reply.ok (s.modPort ⟨t % 256 % 4, Nat.mod_lt _ (by decide)⟩ fun x => { x with
        linkUp := false, fecLock := false, staged := [], paused := Vector.replicate 8 0 })
    else Reply.bad s stBadArg 16
  | 2 =>
    if t % 256 < 3 then
      Reply.ok { s with join := { s.join with
        links := vmod s.join.links ⟨t % 256 % 3, Nat.mod_lt _ (by decide)⟩ fun x => { x with
          up := false, lanes := 0, replays := [], downAt := none } } }
    else Reply.bad s stBadArg 16
  | 3 =>
    let q : QpId := ⟨t % 256, Nat.mod_lt _ (by decide)⟩
    if (s.qp q).configured then Reply.ok (s.modQp q fun x => x.fresh s.up) else Reply.bad s stNotReady 0
  | _ => Reply.bad s stBadArg 16

def reinitEffect (m : MboxId) (s : State) : State :=
  s.mbNow m 0x06 (fun id v => if id = 1 then some (sized 2 v) else none) fun l s =>
    match itemNum l 1 with
    | none => Reply.bad s stBadArg 16
    | some t => s.reinit t

def execReinit (m : MboxId) (s : State) : Host.Outcome State Fault Refusal := .next (reinitEffect m s)

end Sys2Proof.Machine
end

