-- ==== Sys2Proof/Machine/JoinCmd.lean ====
section
/-! DEFINITION. Mailbox commands about site adaptation (R35, R381, R382), joined devices (R384, R391), hot-standby pairs (R365) and
comparison pairs (R388). Log entries 18 and 21 name the layouts and readings. -/
namespace Sys2Proof.Machine

/-! ### The exported adaptation of a cell (log entry 18) -/

def tensorsBytes (w : List (BitVec 16 × List (BitVec 16))) : List Byte :=
  natLE 4 w.length ++ w.flatMap fun t => natLE 2 t.1.toNat ++ natLE 4 t.2.length ++ t.2.flatMap fun x => natLE 2 x.toNat

/-- SEED, STEP, the weights, the journal and the batches. -/
def Adapt.export_ (x : Adapt) : List Byte :=
  natLE 8 x.seed.toNat ++ natLE 8 x.stepNo.toNat ++ tensorsBytes x.candidate
    ++ natLE 4 x.journal.length ++ (x.journal.flatMap fun j => natLE 8 j.1.toNat ++ digestBytes j.2.1 ++ digestBytes j.2.2)
    ++ natLE 4 x.batches.length ++ (x.batches.flatMap fun b => natLE 8 b.1.toNat ++ natLE 4 b.2.length ++ b.2)

/-- A number off the front of bytes. -/
def takeNat (n : Nat) (bs : List Byte) : Option (Nat × List Byte) := if bs.length < n then none else some (leNat (bs.take n), bs.drop n)

/-- n things off the front of bytes. -/
def takeMany {α : Type} (one : List Byte → Option (α × List Byte)) : Nat → List Byte → Option (List α × List Byte)
  | 0, bs => some ([], bs)
  | n + 1, bs =>
    match one bs with
    | none => none
    | some (x, bs1) => (takeMany one n bs1).map fun r => (x :: r.1, r.2)

/-- A counted list of things. -/
def takeList {α : Type} (one : List Byte → Option (α × List Byte)) (bs : List Byte) : Option (List α × List Byte) :=
  match takeNat 4 bs with
  | none => none
  | some (n, bs1) => if bs.length < n then none else takeMany one n bs1

def takeWord16 (bs : List Byte) : Option (BitVec 16 × List Byte) := (takeNat 2 bs).map fun r => (BitVec.ofNat 16 r.1, r.2)

def takeTensor (bs : List Byte) : Option ((BitVec 16 × List (BitVec 16)) × List Byte) :=
  match takeWord16 bs with
  | none => none
  | some (t, b1) => (takeList takeWord16 b1).map fun r => ((t, r.1), r.2)

def takeJournal (bs : List Byte) : Option ((BitVec 64 × BitVec 256 × BitVec 256) × List Byte) :=
  match takeNat 8 bs with
  | none => none
  | some (k, b1) =>
    if b1.length < 64 then none
    else some ((BitVec.ofNat 64 k, BitVec.ofNat 256 (bytesNat b1 0 32), BitVec.ofNat 256 (bytesNat b1 32 32)), b1.drop 64)

def takeBatch (bs : List Byte) : Option ((BitVec 64 × List Byte) × List Byte) :=
  match takeNat 8 bs with
  | none => none
  | some (k, b1) =>
    match takeNat 4 b1 with
    | none => none
    | some (n, b2) => if b2.length < n then none else some ((BitVec.ofNat 64 k, b2.take n), b2.drop n)

/-- The adaptation that bytes export; none where they are no export. -/
def importAdapt (bs : List Byte) : Option Adapt :=
  match takeNat 8 bs with
  | none => none
  | some (seed, b1) =>
    match takeNat 8 b1 with
    | none => none
    | some (step, b2) =>
      match takeList takeTensor b2 with
      | none => none
      | some (w, b3) =>
        match takeList takeJournal b3 with
        | none => none
        | some (j, b4) =>
          (takeList takeBatch b4).map fun r =>
            { seed := BitVec.ofNat 64 seed, stepNo := BitVec.ofNat 64 step, promoted := none, candidate := w, journal := j, batches := r.1, work := 0 }

/-- ADDRESS, SIZE, FROM_SEQ and BLOB of an export or import. -/
def adaptItems (id : Nat) (v : List Byte) : Option Bool :=
  if id = 7 then some (sized 8 v) else if id = 11 then some (sized 4 v) else if id = 4 then some (sized 4 v)
  else if id = 12 then some (decide (v.length ≤ 4064)) else none

/-- ADAPT_EXPORT: written at ADDRESS where it is given, and otherwise returned, up to 4 064 bytes from the byte FROM_SEQ on; SIZE is the
whole. -/
def adaptExportEffect (m : MboxId) (s : State) : State :=
  s.mbCommand m 0x2C (orItems cellItem adaptItems) fun l s =>
    (cellReply l s fun c =>
      let bs := (s.cell c).adapt.export_
      let size := itemBytes 11 (natLE 4 bs.length)
      match itemNum l 7 with
      | some a => Reply.ok (s.agentWrite Source.hall a bs) size
      | none => Reply.ok s (size ++ itemBytes 12 ((bs.drop ((itemNum l 4).getD 0)).take 4064)), .background)

def execAdaptExport (m : MboxId) (s : State) : Host.Outcome State Fault Refusal := .next (adaptExportEffect m s)

/-- The bytes that a command brings: BLOB, or SIZE bytes at ADDRESS, and what reading them does (R235). -/
def State.broughtBytes (s : State) (l : List MItem) : Option (List Byte) × State :=
  match itemVal l 12, itemNum l 7, itemNum l 11 with
  | some bs, _, _ => (some bs, s)
  | none, some a, some n => let r := s.agentRead Source.hall a n; (some r.1, r.2)
  | _, _, _ => (none, s)

/-- ADAPT_IMPORT installs an export: its weights are the candidate, which no plan holds before it passes golden frames (R34); the
promoted weights stay as they are (DEDUCED, log entry 17). -/
def adaptImportEffect (m : MboxId) (s : State) : State :=
  s.mbCommand m 0x2D (orItems cellItem adaptItems) fun l s =>
    (cellReply l s fun c =>
      let r := s.broughtBytes l
      match r.1.bind importAdapt with
      | none => Reply.bad r.2 stBadArg (itemOffset l (if (itemVal l 12).isSome then 12 else 7))
      | some x =>
        let keep := (s.cell c).get .adaptKeep
        Reply.ok (r.2.modCell c fun z => { z with adapt := { x with
          promoted := z.adapt.promoted, journal := keepLast keep x.journal, batches := keepLast keep x.batches } }), .background)

def execAdaptImport (m : MboxId) (s : State) : Host.Outcome State Fault Refusal := .next (adaptImportEffect m s)

/-- Replayed steps: each batch with the F32 results of its training. -/
def Adapt.replay (x : Adapt) (bundle : Option (BitVec 256)) : List (List Byte × List (BitVec 16 × List Word)) → List (BitVec 64 × BitVec 256)
  | [] => []
  | (b, u) :: l =>
    let y := x.update bundle 1 b u
    (x.stepNo, Config.shake256 (weightBytes y.candidate)) :: y.replay bundle l

/-- ADAPT_REPLAY: exported steps run again from exported weights, from the step of the first batch; nothing is promoted and the cell is
unchanged. The F32 results of each step's training are operands (log entry 11). STEP and the weights digest of each step are
returned, up to 100 from the step number FROM_SEQ on. -/
def adaptReplayEffect (m : MboxId) (updates : List (List (BitVec 16 × List Word))) (s : State) : State :=
  s.mbCommand m 0x2E (orItems cellItem adaptItems) fun l s =>
    (cellReply l s fun c =>
      let br := s.broughtBytes l
      match br.1.bind importAdapt with
      | none => Reply.bad br.2 stBadArg (itemOffset l (if (itemVal l 12).isSome then 12 else 7))
      | some x =>
        let x0 : Adapt := { x with stepNo := (x.batches.head?.map (·.1)).getD x.stepNo }
        let rs := x0.replay (s.cell c).bundle ((x.batches.map (·.2)).zip updates)
        Reply.ok br.2 (itemBytes 12 (((rs.drop ((itemNum l 4).getD 0)).take 100).flatMap fun r => natLE 8 r.1.toNat ++ digestBytes r.2)),
      .background)

def execAdaptReplay (m : MboxId) (updates : List (List (BitVec 16 × List Word))) (s : State) : Host.Outcome State Fault Refusal :=
  .next (adaptReplayEffect m updates s)

/-! ### JOIN_CONFIGURE (R384, R391, Table 13-5) -/

def joinItems (id : Nat) (v : List Byte) : Option Bool :=
  if id = 0x0D01 then some (inRange 0 0xFFFFFFFF v)
  else if id = 0x0D02 then some (inRange 0 15 v)
  else if id = 0x0D03 then some (sized 2 v)
  else if id = 0x0D04 then some (sized 4 v)
  else if id = 0x0D05 then some (sized 32 v)
  else none

/-- The link map is one of Table 13-5: with two devices 1-3 links, with three or four one link to each; device numbers 0-3; and where it
names a device, the cabling has it there (byte l of `cabling`). -/
def linkMapOk (j : Join) (cabling : Word) : Bool :=
  let ends := (vlist j.linkMap).filter (· != 0xFF)
  let far := ends.eraseDups
  ends.all (fun d => d.toNat < 4 && d.toNat != j.device.val && j.members.getLsbD d.toNat)
    && (far == [] || decide (j.device.val < 4))
    && (decide (far.length ≤ 1) || far.length == ends.length)
    && (List.finRange 3).all fun l => vget j.linkMap l == 0xFF || vget j.linkMap l == BitVec.ofNat 8 (fld cabling (8 * l.val + 7) (8 * l.val))

/-- Every other member is reached over a link or a queue pair. -/
def Join.reaches (j : Join) : Bool :=
  j.others.all fun d => (vlist j.linkMap).contains (BitVec.ofNat 8 d.val) || (j.qpOf d).isSome

/-- The system as items give it; with MEMBERS 0 the device is not joined. -/
def Join.configuredBy (j : Join) (l : List MItem) : Join :=
  { j with
    system := ((itemNum l 0x0D01).map (BitVec.ofNat 32)).getD j.system
    device := ((itemNum l 0x0D02).map fun d => ⟨d % 16, Nat.mod_lt _ (by decide)⟩).getD j.device
    members := ((itemNum l 0x0D03).map (BitVec.ofNat 16)).getD j.members
    linkMap := match itemVal l 0x0D04 with | some v => vgen 3 fun i => v.getD i.val 0xFF | none => j.linkMap
    qpMap := match itemVal l 0x0D05 with | some v => vgen 16 fun i => BitVec.ofNat 16 (bytesNat v (2 * i.val) 2) | none => j.qpMap }

/-- The system in force: heartbeats are awaited from now on, link domains follow the map (R394), transfers with former members end,
pairs with them are over, and shares start equal again (R412). -/
def State.joinAs (s : State) (j : Join) : State :=
  let stays (d : DeviceId) : Bool := j.members.getLsbD d.val
  let old := s.join.others.filter fun d => !stays d
  let s1 := { s with
    valley := vgen 3 fun l => if vget j.linkMap l = 0xFF then [] else vget s.valley l
    join := { j with
      beats := vmap (fun _ => s.up) j.beats
      pair := j.pair.filter fun p => stays p.partner, lockstep := j.lockstep.filter fun p => stays p.partner
      links := vgen 3 fun l => if vget j.linkMap l = 0xFF then ⟨false, 0, 0, [], none⟩ else vget s.join.links l } }
  let s2 := (List.finRange 3).foldl (fun s l => s.setDomain (79 + l.val) (vget j.linkMap l != 0xFF)) s1
  let s3 := old.foldl State.dropTransfers s2
  if fld s3.pwr.group 11 0 = 0 then s3 else s3.setGroup s3.pwr.group

def joinConfigureEffect (m : MboxId) (cabling : Word) (s : State) : State :=
  s.mbNow m 0x50 joinItems fun l s =>
    let j := s.join.configuredBy l
    if j.members ≠ 0 ∧ j.members.getLsbD j.device.val = false then Reply.bad s stBadArg (itemOffset l 0x0D03)
    else if linkMapOk j cabling = false then Reply.bad s stBadArg (itemOffset l 0x0D04)
    else if j.reaches = false then Reply.bad s stBadArg (itemOffset l 0x0D05)
    else Reply.ok (s.joinAs j)

def execJoinConfigure (m : MboxId) (cabling : Word) (s : State) : Host.Outcome State Fault Refusal :=
  .next (joinConfigureEffect m cabling s)

/-! ### PAIR_CONFIGURE (R365) -/

def pairItems (id : Nat) (v : List Byte) : Option Bool :=
  if id = 0x0D07 then some (inRange 0 15 v) else if id = 0x0D08 then some (sized 2 v) else none

/-- Loads fit a device under R40 with a PRB cap of 50 % or more: at a reserve of 8 %, half of them are within the limit. -/
def pairFits (load : Rat) (mhz : Nat) : Bool := decide (load / 2 ≤ (mhz : Rat) * 100 / 128000)

/-- PAIR_CONFIGURE: CELLS are the partner's cells, for which this device is standby. The partner's cells (N_PRB, N_UL, μ) and its Σ f_s
are operands, and whether GPIO6 is in use (log entry 11). -/
def pairConfigureEffect (m : MboxId) (partnerCells : List (Nat × Nat × Nat)) (partnerMhz : Nat) (gpio6InUse : Bool) (s : State) : State :=
  s.mbNow m 0x51 pairItems fun l s =>
    match itemNum l 0x0D07 with
    | none => Reply.bad s stBadArg 16
    | some d =>
      let d : DeviceId := ⟨d % 16, Nat.mod_lt _ (by decide)⟩
      let cells := ((itemNum l 0x0D08).map (BitVec.ofNat 16)).getD 0
      let own := (s.configuredCells.filter fun c => !cells.getLsbD c.val).map fun c => cellLoad (s.cell c) 80
      let load := own.sum + (partnerCells.map fun x => shapeLoad x.1 x.2.1 x.2.2 80).sum
      if s.join.member d = false ∨ (vlist s.join.linkMap).contains (BitVec.ofNat 8 d.val) = false then Reply.bad s stNotReady 0
      else if wbit s.time.ioSel 8 ∨ gpio6InUse then Reply.bad s stConflict 0x0D07
      else if s.join.lockstep.isSome then Reply.bad s stConflict 0x0D07
      else if pairFits load s.effMhz = false ∨ pairFits load partnerMhz = false then Reply.bad s stNoResource 0x0D08
      else Reply.ok (s.modJoin fun j => { j with pair := some ⟨d, cells, false, false⟩ })

def execPairConfigure (m : MboxId) (partnerCells : List (Nat × Nat × Nat)) (partnerMhz : Nat) (gpio6InUse : Bool) (s : State) :
    Host.Outcome State Fault Refusal := .next (pairConfigureEffect m partnerCells partnerMhz gpio6InUse s)

/-! ### LOCKSTEP_CONFIGURE (R388, R390) -/

def lockstepItems (id : Nat) (v : List Byte) : Option Bool :=
  if id = 0x0D06 then some (inRange 0 1 v)
  else if id = 0x0D07 then some (inRange 0 15 v)
  else if id = 0x0D08 then some (sized 2 v)
  else if id = 0x0C11 then some (inRange 0 1 v)
  else none

/-- LOCKSTEP_CONFIGURE: CELLS 0 ends the comparison. The partner's class and digests, whether it is paired, and whether the shadow
carries the cells where that is the partner, are operands (log entry 11). -/
def lockstepConfigureEffect (m : MboxId) (partnerClass : Fin 16) (partnerDigests : List (CellId × BitVec 256)) (partnerPaired shadowFits : Bool)
    (s : State) : State :=
  s.mbNow m 0x52 lockstepItems fun l s =>
    let cells := ((itemNum l 0x0D08).map (BitVec.ofNat 16)).getD ((s.join.lockstep.map (·.cells)).getD 0)
    if cells = 0 then Reply.ok (s.modJoin fun j => { j with lockstep := none })
    else
      match itemNum l 0x0D07 with
      | none => Reply.bad s stBadArg 16
      | some d =>
        let d : DeviceId := ⟨d % 16, Nat.mod_lt _ (by decide)⟩
        let shadow := (itemNum l 0x0D06).getD 0 == 1
        let same := (bitList16 cells).all fun c => partnerDigests.contains (c, s.settingsDigest c)
        if s.join.member d = false ∨ (vlist s.join.linkMap).contains (BitVec.ofNat 8 d.val) = false then Reply.bad s stNotReady 0
        else if partnerClass.val ≠ deviceClass ∨ s.join.pair.isSome ∨ partnerPaired then Reply.bad s stConflict 0x0D07
        else if same = false then Reply.bad s stConflict 0x0D08
        else if (if shadow then s.loadFits else shadowFits) = false then Reply.bad s stNoResource 0x0D08
        else Reply.ok (s.modJoin fun j => { j with
          lockstep := some ⟨d, shadow, cells, (itemNum l 0x0C11).getD 0 == 1, [], []⟩ })

def execLockstepConfigure (m : MboxId) (partnerClass : Fin 16) (partnerDigests : List (CellId × BitVec 256)) (partnerPaired shadowFits : Bool)
    (s : State) : Host.Outcome State Fault Refusal :=
  .next (lockstepConfigureEffect m partnerClass partnerDigests partnerPaired shadowFits s)

end Sys2Proof.Machine
end

