-- ==== Sys2Proof/Machine/Jtag.lean ====
section
/-! DEFINITION. The TAP (R483). The codes of its instructions are not in the spec; the model numbers them 0 BYPASS, 1 IDCODE,
2 SAMPLE/PRELOAD, 3 EXTEST, 4 EXTEST_PULSE, 5 EXTEST_TRAIN, 6 CLAMP, 7 HIGHZ (log entry 18). Every supply is within tolerance. -/
namespace Sys2Proof.Machine

/-- An instruction is in the TAP; what it shifts out or drives goes out. -/
def State.jtag (s : State) (instr : Byte) (bits : List Bool) : State :=
  { s with pins := { s.pins with tap := instr } }.send (.jtag instr bits)

/-- BYPASS: one bit, 0. -/
def State.bypass (s : State) : State := s.jtag 0 [false]

def execBypass (s : State) : Host.Outcome State Fault Refusal := .next s.bypass

/-- The device's identification, bit 0 first. -/
def idcodeWord : Word :=
  packWord [(if Config.steppingB0 then 2 else 1, 28), (0x0640, 12), (Config.jtagManufacturer.toNat, 1), (1, 0)]

def execIdcode (s : State) : Host.Outcome State Fault Refusal := .next (s.jtag 1 ((List.range 32).map fun i => wbit idcodeWord i))

/-- SAMPLE/PRELOAD: the pins' levels go out, and the boundary cells take what is shifted in. -/
def samplePreloadEffect (levels load : List Bool) (s : State) : State :=
  (s.jtag 2 levels) |> fun s => { s with pins := { s.pins with boundary := load } }

def execSamplePreload (levels load : List Bool) (s : State) : Host.Outcome State Fault Refusal := .next (samplePreloadEffect levels load s)

/-- An instruction that drives pins: only while PWR_GOOD is low; otherwise it acts as BYPASS. -/
def State.jtagDrive (s : State) (instr : Byte) (bits : List Bool) : State := if s.pins.pwrGood then s.bypass else s.jtag instr bits

def execExtest (s : State) : Host.Outcome State Fault Refusal := .next (s.jtagDrive 3 s.pins.boundary)

/-- EXTEST_PULSE: as EXTEST, with one pulse on the AC-coupled lanes. -/
def execExtestPulse (s : State) : Host.Outcome State Fault Refusal := .next (s.jtagDrive 4 s.pins.boundary)

/-- EXTEST_TRAIN: as EXTEST, with a train of pulses on the AC-coupled lanes. -/
def execExtestTrain (s : State) : Host.Outcome State Fault Refusal := .next (s.jtagDrive 5 s.pins.boundary)

/-- CLAMP: the boundary cells drive the pins, with the bypass register in the chain. -/
def execClamp (s : State) : Host.Outcome State Fault Refusal := .next (s.jtagDrive 6 s.pins.boundary)

/-- HIGHZ: no output drives. -/
def execHighz (s : State) : Host.Outcome State Fault Refusal := .next (s.jtagDrive 7 [])

end Sys2Proof.Machine
end

