-- ==== Sys2Proof/Machine/Roce.lean ====
section
/-! DEFINITION. RoCEv2 on the receiving side (R308, R309): requests into regions that Hall has opened, members of the system beyond
a Valley group (R391), loss recovery and congestion. Log entries 10, 13 and 18 name the readings. -/
namespace Sys2Proof.Machine

/-- A frame for a queue pair on a port that carries RoCEv2: f; one in a mode that does not is discarded and counted (R283). Nothing
happens on a queue pair that is not live. -/
def State.roceFrame (s : State) (q : QpId) (f : State → State) : State :=
  let x := s.qp q
  let p := s.port x.port
  if s.portOn x.port = false then s
  else if p.mode = 1 ∨ p.mode = 2 then (if x.live then f s else s)
  else s.rxDiscard x.port .malformed

/-- An acknowledgement (5) or a negative one (6) of the packet with that number. -/
def State.roceReply (s : State) (q : QpId) (nak : Bool) (psn : BitVec 24) : State :=
  s.sendRoce q (if nak then 6 else 5) 0 (psn.setWidth 32) []

/-- A request of n data bytes arrives with its first packet number: in order it is taken and acknowledged, one seen before is
acknowledged again, and one ahead of the expected is answered with a NAK that names the expected (go-back-N, R308). f answers
none for a request that is refused: it is answered with a NAK and nothing is taken. -/
def State.roceRequest (s : State) (q : QpId) (psn : BitVec 24) (n : Nat) (f : State → Option State × State) : State :=
  s.roceFrame q fun s =>
    let x := s.qp q
    if psn = x.expect then
      let r := f s
      match r.1 with
      | some s1 =>
        let last := psn + BitVec.ofNat 24 (x.packets n - 1)
        (s1.modQp q fun y => { y with expect := last + 1 }).roceReply q false last
      | none => r.2.roceReply q true psn
    else if (psn - x.expect).getLsbD 23 then s.roceReply q false (x.expect - 1)
    else s.roceReply q true x.expect

/-- The bytes lie in a region that Hall has opened for the queue pair under that key. -/
def QueuePair.opens (x : QueuePair) (addr : BitVec 64) (key : Word) (len : Nat) : Bool :=
  x.regions.any fun r =>
    r.key == key && decide (r.addr.toNat ≤ addr.toNat) && decide (addr.toNat + len ≤ r.addr.toNat + r.length)

/-- The member that a queue pair reaches (R391). -/
def State.memberOf (s : State) (q : QpId) : Option DeviceId :=
  (List.finRange 16).find? fun d => s.join.members.getLsbD d.val && s.join.qpOf d == some q

/-- ROCE_SEND_RECEIVE: a mailbox request (R309, R427); a SEND of a member is a message of the system (R391), whose effect is that
message's own command. -/
def roceSendReceiveEffect (q : QpId) (psn : BitVec 24) (bytes : List Byte) (s : State) : State :=
  let fresh := psn == (s.qp q).expect && (s.qp q).live && s.portOn (s.qp q).port
    && ((s.port (s.qp q).port).mode == 1 || (s.port (s.qp q).port).mode == 2)
  let s1 := s.roceRequest q psn bytes.length fun s => (some s, s)
  if fresh && (s.memberOf q).isNone then s1.mbTransfer (.roce q) bytes else s1

def execRoceSendReceive (q : QpId) (psn : BitVec 24) (bytes : List Byte) (s : State) : Host.Outcome State Fault Refusal :=
  .next (roceSendReceiveEffect q psn bytes s)

/-- A payload of the downlink payload ring, by the place that its write fills (R45). -/
def State.placePayload (s : State) (place : Option (CellId × AirSlot × BitVec 16 × Byte)) (bytes : List Byte) : State :=
  match place with
  | some (c, a, rnti, h) =>
    s.modCell c fun x => { x with
      payloads := (x.payloads.filter fun p => !(p.1 == a && p.2.1 == rnti && p.2.2.1 == h)) ++ [(a, rnti, h, bytes)] }
  | none => s

/-- ROCE_RDMA_WRITE_RECEIVE: from a member a remote write (R385, R391), otherwise a write into an opened region. `cls` is the class
that a member's request carries; `place` the place in a downlink payload ring that the write fills (log entry 10). -/
def roceRdmaWriteReceiveEffect (q : QpId) (psn : BitVec 24) (addr : BitVec 64) (key : Word) (bytes : List Byte) (cls : Fin 3)
    (place : Option (CellId × AirSlot × BitVec 16 × Byte)) (s : State) : State :=
  s.roceRequest q psn bytes.length fun s =>
    let x := s.qp q
    let code := evtSource 3 x.port.val
    match s.memberOf q with
    | some d =>
      let r := s.remoteAccess code ⟨d, cls, true, addr.setWidth 32, bytes, bytes.length⟩
      (r.1.map fun _ => r.2, r.2)
    | none =>
      if x.opens addr key bytes.length then
        match placeOf addr.toNat bytes.length with
        | .plain off =>
          let w := s.plainWrite ⟨code, 0, false⟩ off bytes
          if w.1 then (some (w.2.placePayload place bytes), w.2) else (none, w.2)
        | _ => (some ((s.fabricPut ⟨code, 0, false⟩ addr.toNat bytes).placePayload place bytes), s)
      else (none, s)

def execRoceRdmaWriteReceive (q : QpId) (psn : BitVec 24) (addr : BitVec 64) (key : Word) (bytes : List Byte) (cls : Fin 3)
    (place : Option (CellId × AirSlot × BitVec 16 × Byte)) (s : State) : Host.Outcome State Fault Refusal :=
  .next (roceRdmaWriteReceiveEffect q psn addr key bytes cls place s)

/-- ROCE_RDMA_READ_RECEIVE: as a write; the data goes back in a READ response (4). Data of DRAM that cannot be corrected goes to no
agent: the request is refused (R238). -/
def roceRdmaReadReceiveEffect (q : QpId) (psn : BitVec 24) (addr : BitVec 64) (key : Word) (len : Nat) (cls : Fin 3) (ecc : Ecc)
    (s : State) : State :=
  s.roceRequest q psn len fun s =>
    let x := s.qp q
    let code := evtSource 3 x.port.val
    let r : Option (List Byte) × State := match s.memberOf q with
      | some d => s.remoteAccess code ⟨d, cls, false, addr.setWidth 32, [], len⟩
      | none =>
        if x.opens addr key len then
          match placeOf addr.toNat len with
          | .plain off =>
            let w := s.plainRead ⟨code, 0, false⟩ off len
            (if w.2.1 then some w.1 else none, w.2.2)
          | .dram _ =>
            match ecc with
            | .clean => (some (memRead s.mem addr.toNat len), s)
            | .corrected => (some (memRead s.mem addr.toNat len), s.devInc .dramCe)
            | .uncorrectable => (none, s.dramUe addr.toNat)
          | _ => let w := s.fabricGet ⟨code, 0, false⟩ addr.toNat len; (some w.1, w.2)
        else (none, s)
    (r.1.map fun bs => r.2.sendRoce q 4 addr (psn.setWidth 32) bs, r.2)

def execRoceRdmaReadReceive (q : QpId) (psn : BitVec 24) (addr : BitVec 64) (key : Word) (len : Nat) (mode : ReadMode)
    (s : State) : Host.Outcome State Fault Refusal := .next (roceRdmaReadReceiveEffect q psn addr key len mode.cls mode.ecc s)

/-! ### Loss recovery and congestion (R308) -/

/-- Every request that is not acknowledged goes again, oldest first. -/
def State.roceResend (s : State) (q : QpId) : State :=
  (s.qp q).sent.foldl (fun s r => s.sendRoce q r.op r.addr r.imm r.bytes) (s.modQp q fun x => { x with sentAt := s.up })

/-- ROCE_ACK_RECEIVE: an acknowledgement of all packets up to psn; a NAK names the packet expected, acknowledges those before it, and
the requests from there on go again. -/
def roceAckReceiveEffect (q : QpId) (psn : BitVec 24) (nak : Bool) (s : State) : State :=
  s.roceFrame q fun s =>
    let top := if nak then psn - 1 else psn
    let left := (s.qp q).sent.filter fun r => (top - r.last).getLsbD 23
    let moved := decide (left.length < (s.qp q).sent.length)
    let s1 := s.modQp q fun x => { x with
      sent := left, retries := if moved then 0 else x.retries, sentAt := if moved then s.up else x.sentAt }
    if nak then s1.roceResend q else s1

def execRoceAckReceive (q : QpId) (psn : BitVec 24) (nak : Bool) (s : State) : Host.Outcome State Fault Refusal :=
  .next (roceAckReceiveEffect q psn nak s)

/-- The queue pair enters the error state: ROCE_QP_ERROR names it, and a member reached by it leaves the joined set (R308, R391). -/
def State.qpError (s : State) (q : QpId) : State :=
  let x := s.qp q
  let s1 := (s.modQp q fun x => { x with error := true, sent := [] }).raise 0x0A04 (evtSource 3 x.port.val)
    ([BitVec.ofNat 8 x.port.val, 0] ++ natLE 2 q.val)
  match s.memberOf q with
  | some d => s1.removeMember d 1
  | none => s1

/-- ROCE_RETRANSMIT_TIMEOUT: 4 µs × 2^t after the oldest unacknowledged request was sent; the 8th in succession ends the queue
pair. -/
def roceRetransmitTimeoutEffect (q : QpId) (s : State) : State :=
  let x := s.qp q
  if x.live ∧ x.sent ≠ [] ∧ ns (4000 * 2 ^ x.retryT : Nat) ≤ s.up - x.sentAt then
    if x.retries < 7 then (s.modQp q fun x => { x with retries := x.retries + 1 }).roceResend q else s.qpError q
  else s

def execRoceRetransmitTimeout (q : QpId) (s : State) : Host.Outcome State Fault Refusal := .next (roceRetransmitTimeoutEffect q s)

/-- CNP_RECEIVE: the rate is halved. -/
def cnpReceiveEffect (q : QpId) (s : State) : State :=
  s.roceFrame q fun s => s.modQp q fun x => { x with rate := x.rate / 2, rateAt := s.up }

def execCnpReceive (q : QpId) (s : State) : Host.Outcome State Fault Refusal := .next (cnpReceiveEffect q s)

/-- ROCE_RATE_RESTORE: 55 µs after the last CNP or restoration 5 % of line rate come back. -/
def roceRateRestoreEffect (q : QpId) (s : State) : State :=
  let x := s.qp q
  if x.live ∧ x.rate < 1 ∧ ns 55000 ≤ s.up - x.rateAt then
    s.modQp q fun x => { x with rate := min 1 (x.rate + 1 / 20), rateAt := s.up }
  else s

def execRoceRateRestore (q : QpId) (s : State) : Host.Outcome State Fault Refusal := .next (roceRateRestoreEffect q s)

end Sys2Proof.Machine
end

