-- ==== Sys2Proof/Machine/Dispatch.lean ====
section
/-! DEFINITION. One arm per command: a direct call of its meaning. -/
namespace Sys2Proof.Machine

def exec (i : Instr) (s : State) : Host.Outcome State Fault Refusal :=
  match i with
  | .planRegister agent addr => Sys2Proof.Machine.execPlanRegister agent addr s
  | .planRelease cell units allocs => Sys2Proof.Machine.execPlanRelease cell units allocs s
  | .commandLaunch q idx => Sys2Proof.Machine.execCommandLaunch q idx s
  | .gatePoll q idx => Sys2Proof.Machine.execGatePoll q idx s
  | .dispatch n e => Sys2Proof.Machine.execDispatch n e s
  | .stageWindowClose q idx missed => Sys2Proof.Machine.execStageWindowClose q idx missed s
  | .affinityWaitExpiry q idx => Sys2Proof.Machine.execAffinityWaitExpiry q idx s
  | .matrixCommand n => Sys2Proof.Machine.execMatrixCommand n s
  | .vectorCommand n => Sys2Proof.Machine.execVectorCommand n s
  | .sequencerCommand n => Sys2Proof.Machine.execSequencerCommand n s
  | .chainStartCommand n t => Sys2Proof.Machine.execChainStartCommand n t s
  | .passWaitCommand n => Sys2Proof.Machine.execPassWaitCommand n s
  | .commandCompletion n e ac dry backup results => Sys2Proof.Machine.execCommandCompletion n e ac dry backup results s
  | .itemBudgetExpiry n e item fed blocks => Sys2Proof.Machine.execItemBudgetExpiry n e item fed blocks s
  | .decBlockBudgetExpiry r x iterations => Sys2Proof.Machine.execDecBlockBudgetExpiry r x iterations s
  | .reserveWindowOpen cell remainders => Sys2Proof.Machine.execReserveWindowOpen cell remainders s
  | .reserveWindowClose cell => Sys2Proof.Machine.execReserveWindowClose cell s
  | .reserveStallLimit n e item fed => Sys2Proof.Machine.execReserveStallLimit n e item fed s
  | .preemption q idx => Sys2Proof.Machine.execPreemption q idx s
  | .remoteAbort n t ac => Sys2Proof.Machine.execRemoteAbort n t ac s
  | .queueEnable q value => Sys2Proof.Machine.execQueueEnable q value s
  | .queueFlush q value => Sys2Proof.Machine.execQueueFlush q value s
  | .tailWrite q value => Sys2Proof.Machine.execTailWrite q value s
  | .uplinkDeadline cell air => Sys2Proof.Machine.execUplinkDeadline cell air s
  | .ulSlotIndication cell air => Sys2Proof.Machine.execUlSlotIndication cell air s
  | .heldIndicationPost cell => Sys2Proof.Machine.execHeldIndicationPost cell s
  | .dlSlotReport cell air => Sys2Proof.Machine.execDlSlotReport cell air s
  | .dlPayloadCheck cell air => Sys2Proof.Machine.execDlPayloadCheck cell air s
  | .harqPageExpiry cell page => Sys2Proof.Machine.execHarqPageExpiry cell page s
  | .adaptUpdateStep cell batch updates => Sys2Proof.Machine.execAdaptUpdateStep cell batch updates s
  | .rqTableWrite w off value => Sys2Proof.Machine.execRqTableWrite w off value s
  | .tableSwap w value => Sys2Proof.Machine.execTableSwap w value s
  | .rqSwapEffect n => Sys2Proof.Machine.execRqSwapEffect n s
  | .sfTableWrite w off value => Sys2Proof.Machine.execSfTableWrite w off value s
  | .sfSwap w value => Sys2Proof.Machine.execSfSwap w value s
  | .sfSwapEffect n => Sys2Proof.Machine.execSfSwapEffect n s
  | .counterReadClear agent addr => Sys2Proof.Machine.execCounterReadClear agent addr s
  | .registerWrite agent addr value => Sys2Proof.Machine.execRegisterWrite agent addr value s
  | .vecLd n => Sys2Proof.Machine.execVecLd n s
  | .vecSt n => Sys2Proof.Machine.execVecSt n s
  | .vecLdr n => Sys2Proof.Machine.execVecLdr n s
  | .vecLoop n => Sys2Proof.Machine.execVecLoop n s
  | .vecAddi n => Sys2Proof.Machine.execVecAddi n s
  | .vecAddm n => Sys2Proof.Machine.execVecAddm n s
  | .vecAdd n => Sys2Proof.Machine.execVecAdd n s
  | .vecSub n => Sys2Proof.Machine.execVecSub n s
  | .vecMul n => Sys2Proof.Machine.execVecMul n s
  | .vecFma n => Sys2Proof.Machine.execVecFma n s
  | .vecMin n => Sys2Proof.Machine.execVecMin n s
  | .vecMax n => Sys2Proof.Machine.execVecMax n s
  | .vecAbs n => Sys2Proof.Machine.execVecAbs n s
  | .vecNeg n => Sys2Proof.Machine.execVecNeg n s
  | .vecShl n => Sys2Proof.Machine.execVecShl n s
  | .vecShr n => Sys2Proof.Machine.execVecShr n s
  | .vecAnd n => Sys2Proof.Machine.execVecAnd n s
  | .vecOr n => Sys2Proof.Machine.execVecOr n s
  | .vecXor n => Sys2Proof.Machine.execVecXor n s
  | .vecSel n => Sys2Proof.Machine.execVecSel n s
  | .vecCvt n => Sys2Proof.Machine.execVecCvt n s
  | .vecConj n => Sys2Proof.Machine.execVecConj n s
  | .vecMag2 n => Sys2Proof.Machine.execVecMag2 n s
  | .vecCmp n => Sys2Proof.Machine.execVecCmp n s
  | .vecMop n => Sys2Proof.Machine.execVecMop n s
  | .vecMset n => Sys2Proof.Machine.execVecMset n s
  | .vecMlen n => Sys2Proof.Machine.execVecMlen n s
  | .vecShuf n => Sys2Proof.Machine.execVecShuf n s
  | .vecPerm n => Sys2Proof.Machine.execVecPerm n s
  | .vecTrans n => Sys2Proof.Machine.execVecTrans n s
  | .vecPack n => Sys2Proof.Machine.execVecPack n s
  | .vecUnpack n => Sys2Proof.Machine.execVecUnpack n s
  | .vecMov n => Sys2Proof.Machine.execVecMov n s
  | .vecRed n => Sys2Proof.Machine.execVecRed n s
  | .vecFunc n => Sys2Proof.Machine.execVecFunc n s
  | .vecFbas n => Sys2Proof.Machine.execVecFbas n s
  | .vecNorm n => Sys2Proof.Machine.execVecNorm n s
  | .vecSoftmax n => Sys2Proof.Machine.execVecSoftmax n s
  | .vecQbs n => Sys2Proof.Machine.execVecQbs n s
  | .vecQrange n => Sys2Proof.Machine.execVecQrange n s
  | .vecQparam n => Sys2Proof.Machine.execVecQparam n s
  | .vecQapply n => Sys2Proof.Machine.execVecQapply n s
  | .seqNop n => Sys2Proof.Machine.execSeqNop n s
  | .seqHalt n yielded => Sys2Proof.Machine.execSeqHalt n yielded s
  | .seqJmp n target => Sys2Proof.Machine.execSeqJmp n target s
  | .seqJz n ix target => Sys2Proof.Machine.execSeqJz n ix target s
  | .seqJnz n ix target => Sys2Proof.Machine.execSeqJnz n ix target s
  | .seqLoop n b count => Sys2Proof.Machine.execSeqLoop n b count s
  | .seqLoopx n b ix => Sys2Proof.Machine.execSeqLoopx n b ix s
  | .seqReti n => Sys2Proof.Machine.execSeqReti n s
  | .seqEi n => Sys2Proof.Machine.execSeqEi n s
  | .seqDi n => Sys2Proof.Machine.execSeqDi n s
  | .seqMv n d src => Sys2Proof.Machine.execSeqMv n d src s
  | .seqMvi n d imm => Sys2Proof.Machine.execSeqMvi n d imm s
  | .seqLds n fmt a => Sys2Proof.Machine.execSeqLds n fmt a s
  | .seqSts n fmt a => Sys2Proof.Machine.execSeqSts n fmt a s
  | .seqLdw n d a => Sys2Proof.Machine.execSeqLdw n d a s
  | .seqStw n src a => Sys2Proof.Machine.execSeqStw n src a s
  | .seqLdt n fmt a => Sys2Proof.Machine.execSeqLdt n fmt a s
  | .seqStt n fmt a => Sys2Proof.Machine.execSeqStt n fmt a s
  | .seqLdc n inc => Sys2Proof.Machine.execSeqLdc n inc s
  | .seqMac2 n w => Sys2Proof.Machine.execSeqMac2 n w s
  | .seqMsu2 n w => Sys2Proof.Machine.execSeqMsu2 n w s
  | .seqMpy2 n w => Sys2Proof.Machine.execSeqMpy2 n w s
  | .seqCmac n w => Sys2Proof.Machine.execSeqCmac n w s
  | .seqCmsu n w => Sys2Proof.Machine.execSeqCmsu n w s
  | .seqCmpy n w => Sys2Proof.Machine.execSeqCmpy n w s
  | .seqAdd n a b => Sys2Proof.Machine.execSeqAdd n a b s
  | .seqSub n a b => Sys2Proof.Machine.execSeqSub n a b s
  | .seqNeg n a => Sys2Proof.Machine.execSeqNeg n a s
  | .seqAbs n a => Sys2Proof.Machine.execSeqAbs n a s
  | .seqAsh n a k => Sys2Proof.Machine.execSeqAsh n a k s
  | .seqMin n a b => Sys2Proof.Machine.execSeqMin n a b s
  | .seqMax n a b => Sys2Proof.Machine.execSeqMax n a b s
  | .seqCls n a => Sys2Proof.Machine.execSeqCls n a s
  | .seqDiv n a => Sys2Proof.Machine.execSeqDiv n a s
  | .seqSta n a src addr => Sys2Proof.Machine.execSeqSta n a src addr s
  | .seqSta2 n pair src addr => Sys2Proof.Machine.execSeqSta2 n pair src addr s
  | .seqSta4 n src addr => Sys2Proof.Machine.execSeqSta4 n src addr s
  | .seqSava n a addr => Sys2Proof.Machine.execSeqSava n a addr s
  | .seqLdar n a addr => Sys2Proof.Machine.execSeqLdar n a addr s
  | .seqAddi n ix imm => Sys2Proof.Machine.execSeqAddi n ix imm s
  | .seqIrqRaise w value => Sys2Proof.Machine.execSeqIrqRaise w value s
  | .seqIrqTaken n => Sys2Proof.Machine.execSeqIrqTaken n s
  | .fetch p => Sys2Proof.Machine.execFetch p s
  | .append p => Sys2Proof.Machine.execAppend p s
  | .attach p => Sys2Proof.Machine.execAttach p s
  | .detach p => Sys2Proof.Machine.execDetach p s
  | .clone p => Sys2Proof.Machine.execClone p s
  | .prefixWrite p => Sys2Proof.Machine.execPrefixWrite p s
  | .migrate p => Sys2Proof.Machine.execMigrate p s
  | .pinnedWriteResume frame => Sys2Proof.Machine.execPinnedWriteResume frame s
  | .hcRequestComplete move => Sys2Proof.Machine.execHcRequestComplete move s
  | .trackIdleDetach track cell => Sys2Proof.Machine.execTrackIdleDetach track cell s
  | .hcLabShoot value => Sys2Proof.Machine.execHcLabShoot value s
  | .labShootDone => Sys2Proof.Machine.execLabShootDone s
  | .dmaCopy n t => Sys2Proof.Machine.execDmaCopy n t s
  | .dmaFill n t => Sys2Proof.Machine.execDmaFill n t s
  | .dmaSignal n t => Sys2Proof.Machine.execDmaSignal n t s
  | .dmaWait n x => Sys2Proof.Machine.execDmaWait n x s
  | .dmaWaitSatisfied n x => Sys2Proof.Machine.execDmaWaitSatisfied n x s
  | .waitTimeout n t => Sys2Proof.Machine.execWaitTimeout n t s
  | .dmaPost n x => Sys2Proof.Machine.execDmaPost n x s
  | .dmaPass n t => Sys2Proof.Machine.execDmaPass n t s
  | .dmaSegmentComplete n t ecc => Sys2Proof.Machine.execDmaSegmentComplete n t ecc s
  | .chainBudgetExpiry n t => Sys2Proof.Machine.execChainBudgetExpiry n t s
  | .dmaArm w value => Sys2Proof.Machine.execDmaArm w value s
  | .shadowChainStart n t => Sys2Proof.Machine.execShadowChainStart n t s
  | .cyclicWait n held => Sys2Proof.Machine.execCyclicWait n held s
  | .dmaResvWrite w t value => Sys2Proof.Machine.execDmaResvWrite w t value s
  | .dramResvWrite value => Sys2Proof.Machine.execDramResvWrite value s
  | .passCfgWrite p value => Sys2Proof.Machine.execPassCfgWrite p value s
  | .passRelease p g => Sys2Proof.Machine.execPassRelease p g s
  | .passStamp p d stamp => Sys2Proof.Machine.execPassStamp p d stamp s
  | .passTimeout n => Sys2Proof.Machine.execPassTimeout n s
  | .uplaneReceive port f => Sys2Proof.Machine.execUplaneReceive port f s
  | .receptionWindowOpen cell air => Sys2Proof.Machine.execReceptionWindowOpen cell air s
  | .crateForce cell air => Sys2Proof.Machine.execCrateForce cell air s
  | .handoverClose cell air list entries => Sys2Proof.Machine.execHandoverClose cell air list entries s
  | .frameStage port cell air symbol next0 next1 => Sys2Proof.Machine.execFrameStage port cell air symbol next0 next1 s
  | .cplaneLaunch cell air grants noisePrbs next => Sys2Proof.Machine.execCplaneLaunch cell air grants noisePrbs next s
  | .frameLaunch port cell air symbol => Sys2Proof.Machine.execFrameLaunch port cell air symbol s
  | .roceSendReceive qp psn bytes => Sys2Proof.Machine.execRoceSendReceive qp psn bytes s
  | .roceRdmaWriteReceive qp psn addr key bytes cls place => Sys2Proof.Machine.execRoceRdmaWriteReceive qp psn addr key bytes cls place s
  | .roceRdmaReadReceive qp psn addr key length mode => Sys2Proof.Machine.execRoceRdmaReadReceive qp psn addr key length mode s
  | .roceAckReceive qp psn nak => Sys2Proof.Machine.execRoceAckReceive qp psn nak s
  | .roceRetransmitTimeout qp => Sys2Proof.Machine.execRoceRetransmitTimeout qp s
  | .cnpReceive qp => Sys2Proof.Machine.execCnpReceive qp s
  | .roceRateRestore qp => Sys2Proof.Machine.execRoceRateRestore qp s
  | .tbRateWrite value => Sys2Proof.Machine.execTbRateWrite value s
  | .rateApply => Sys2Proof.Machine.execRateApply s
  | .tbStepGo value => Sys2Proof.Machine.execTbStepGo value s
  | .stepJudge => Sys2Proof.Machine.execStepJudge s
  | .tbNowLatch agent => Sys2Proof.Machine.execTbNowLatch agent s
  | .syncReceive port m => Sys2Proof.Machine.execSyncReceive port m s
  | .followUpReceive port m => Sys2Proof.Machine.execFollowUpReceive port m s
  | .delayReqTransmit port seqId => Sys2Proof.Machine.execDelayReqTransmit port seqId s
  | .delayRespReceive port m newRate => Sys2Proof.Machine.execDelayRespReceive port m newRate s
  | .noExchangeTimeout => Sys2Proof.Machine.execNoExchangeTimeout s
  | .announceReceive port m => Sys2Proof.Machine.execAnnounceReceive port m s
  | .syncTransmit port seqId twoStep => Sys2Proof.Machine.execSyncTransmit port seqId twoStep s
  | .announceTransmit port => Sys2Proof.Machine.execAnnounceTransmit port s
  | .valleyTimeMessage link offset newRate => Sys2Proof.Machine.execValleyTimeMessage link offset newRate s
  | .ppsOutput => Sys2Proof.Machine.execPpsOutput s
  | .timeIoCapture gpio7 => Sys2Proof.Machine.execTimeIoCapture gpio7 s
  | .timeIoSelWrite value => Sys2Proof.Machine.execTimeIoSelWrite value s
  | .plausibilityVerdict b v => Sys2Proof.Machine.execPlausibilityVerdict b v s
  | .verdictTimeout b => Sys2Proof.Machine.execVerdictTimeout b s
  | .shadowWithdraw b => Sys2Proof.Machine.execShadowWithdraw b s
  | .autoRepromote cell path sampled clean => Sys2Proof.Machine.execAutoRepromote cell path sampled clean s
  | .goldenSetResult cell path candidate pass => Sys2Proof.Machine.execGoldenSetResult cell path candidate pass s
  | .wdTrip cell stage n e progress item fed => Sys2Proof.Machine.execWdTrip cell stage n e progress item fed s
  | .wdStopTimeout cell stage n e => Sys2Proof.Machine.execWdStopTimeout cell stage n e s
  | .hallKick value => Sys2Proof.Machine.execHallKick value s
  | .hallWatchdogTrip reason => Sys2Proof.Machine.execHallWatchdogTrip reason s
  | .hallUp => Sys2Proof.Machine.execHallUp s
  | .hallReturnTimeout => Sys2Proof.Machine.execHallReturnTimeout s
  | .whWatchdogKick => Sys2Proof.Machine.execWhWatchdogKick s
  | .whWatchdogExpiry => Sys2Proof.Machine.execWhWatchdogExpiry s
  | .whLockstepMismatch => Sys2Proof.Machine.execWhLockstepMismatch s
  | .deviceServing => Sys2Proof.Machine.execDeviceServing s
  | .powerCycleRequest => Sys2Proof.Machine.execPowerCycleRequest s
  | .goldenTick => Sys2Proof.Machine.execGoldenTick s
  | .goldenFrameResult n ok ac => Sys2Proof.Machine.execGoldenFrameResult n ok ac s
  | .stallReturn n pass => Sys2Proof.Machine.execStallReturn n pass s
  | .checkerSelfTest ok => Sys2Proof.Machine.execCheckerSelfTest ok s
  | .heartbeatSend => Sys2Proof.Machine.execHeartbeatSend s
  | .heartbeatReceive d => Sys2Proof.Machine.execHeartbeatReceive d s
  | .heartbeatSilence d gpio6Low begun => Sys2Proof.Machine.execHeartbeatSilence d gpio6Low begun s
  | .handoverReceive d begun => Sys2Proof.Machine.execHandoverReceive d begun s
  | .mirrorReceive item => Sys2Proof.Machine.execMirrorReceive item s
  | .auditRecord cell air => Sys2Proof.Machine.execAuditRecord cell air s
  | .lockstepCompare cell air input result records => Sys2Proof.Machine.execLockstepCompare cell air input result records s
  | .forwardedInputsReceive cell air reports payloads => Sys2Proof.Machine.execForwardedInputsReceive cell air reports payloads s
  | .valleyRemoteRequest link r => Sys2Proof.Machine.execValleyRemoteRequest link r s
  | .vlDown l laneLost lanes => Sys2Proof.Machine.execVlDown l laneLost lanes s
  | .vlRetrain l => Sys2Proof.Machine.execVlRetrain l s
  | .powerShareReceive d shares late => Sys2Proof.Machine.execPowerShareReceive d shares late s
  | .powerShareEval => Sys2Proof.Machine.execPowerShareEval s
  | .powerShareApply => Sys2Proof.Machine.execPowerShareApply s
  | .stallDomainOn n => Sys2Proof.Machine.execStallDomainOn n s
  | .stallDomainOff n => Sys2Proof.Machine.execStallDomainOff n s
  | .aclkTargetReached n => Sys2Proof.Machine.execAclkTargetReached n s
  | .refclkLost => Sys2Proof.Machine.execRefclkLost s
  | .refclkRestored => Sys2Proof.Machine.execRefclkRestored s
  | .droopTrip n => Sys2Proof.Machine.execDroopTrip n s
  | .droopRecover n => Sys2Proof.Machine.execDroopRecover n s
  | .powerEstimate est => Sys2Proof.Machine.execPowerEstimate est s
  | .avsReadCurrent r => Sys2Proof.Machine.execAvsReadCurrent r s
  | .avsWriteVoltage r => Sys2Proof.Machine.execAvsWriteVoltage r s
  | .avsReadVoltage r => Sys2Proof.Machine.execAvsReadVoltage r s
  | .avsReadStatus r => Sys2Proof.Machine.execAvsReadStatus r s
  | .thermalSample stalls others => Sys2Proof.Machine.execThermalSample stalls others s
  | .thermalReleaseStep n => Sys2Proof.Machine.execThermalReleaseStep n s
  | .usbStandardRequest requestType request value index length => Sys2Proof.Machine.execUsbStandardRequest requestType request value index length s
  | .usbResetCommand requestType request value index length => Sys2Proof.Machine.execUsbResetCommand requestType request value index length s
  | .read tag addr count data late => Sys2Proof.Machine.execRead tag addr count data late s
  | .write tag addr count data => Sys2Proof.Machine.execWrite tag addr count data s
  | .readSame tag addr count data late => Sys2Proof.Machine.execReadSame tag addr count data late s
  | .writeSame tag addr count data => Sys2Proof.Machine.execWriteSame tag addr count data s
  | .mailboxTransfer bytes => Sys2Proof.Machine.execMailboxTransfer bytes s
  | .mbDoorbell agent m value => Sys2Proof.Machine.execMbDoorbell agent m value s
  | .backgroundCommandDone m => Sys2Proof.Machine.execBackgroundCommandDone m s
  | .eventEndpointPoll => Sys2Proof.Machine.execEventEndpointPoll s
  | .eventsDropped => Sys2Proof.Machine.execEventsDropped s
  | .indDataRead agent answered => Sys2Proof.Machine.execIndDataRead agent answered s
  | .indDataWrite agent value => Sys2Proof.Machine.execIndDataWrite agent value s
  | .counterSnapshot agent value => Sys2Proof.Machine.execCounterSnapshot agent value s
  | .counterRelease agent value => Sys2Proof.Machine.execCounterRelease agent value s
  | .deviceInfo m => Sys2Proof.Machine.execDeviceInfo m s
  | .eventConfigure m => Sys2Proof.Machine.execEventConfigure m s
  | .eventRead m => Sys2Proof.Machine.execEventRead m s
  | .captureConfigure m => Sys2Proof.Machine.execCaptureConfigure m s
  | .captureRead m => Sys2Proof.Machine.execCaptureRead m s
  | .reinit m => Sys2Proof.Machine.execReinit m s
  | .firmwareUpdate m => Sys2Proof.Machine.execFirmwareUpdate m s
  | .bundleLoad m => Sys2Proof.Machine.execBundleLoad m s
  | .stagingTimeout => Sys2Proof.Machine.execStagingTimeout s
  | .attest m => Sys2Proof.Machine.execAttest m s
  | .debugUnlock m => Sys2Proof.Machine.execDebugUnlock m s
  | .debugChallengeExpiry => Sys2Proof.Machine.execDebugChallengeExpiry s
  | .cellConfigure m => Sys2Proof.Machine.execCellConfigure m s
  | .cellStart m => Sys2Proof.Machine.execCellStart m s
  | .cellStop m => Sys2Proof.Machine.execCellStop m s
  | .cellStatus m => Sys2Proof.Machine.execCellStatus m s
  | .histConfigure m => Sys2Proof.Machine.execHistConfigure m s
  | .harqConfigure m => Sys2Proof.Machine.execHarqConfigure m s
  | .harqFlush m => Sys2Proof.Machine.execHarqFlush m s
  | .checkConfigure m => Sys2Proof.Machine.execCheckConfigure m s
  | .learnedPromote m => Sys2Proof.Machine.execLearnedPromote m s
  | .learnedDemote m => Sys2Proof.Machine.execLearnedDemote m s
  | .auditConfigure m => Sys2Proof.Machine.execAuditConfigure m s
  | .auditRead m => Sys2Proof.Machine.execAuditRead m s
  | .adaptExport m => Sys2Proof.Machine.execAdaptExport m s
  | .adaptImport m => Sys2Proof.Machine.execAdaptImport m s
  | .adaptReplay m updates => Sys2Proof.Machine.execAdaptReplay m updates s
  | .portConfigure m => Sys2Proof.Machine.execPortConfigure m s
  | .roceQpConfigure m => Sys2Proof.Machine.execRoceQpConfigure m s
  | .timeConfigure m => Sys2Proof.Machine.execTimeConfigure m s
  | .timeStep m => Sys2Proof.Machine.execTimeStep m s
  | .timeIoConfigure m => Sys2Proof.Machine.execTimeIoConfigure m s
  | .timeStatus m => Sys2Proof.Machine.execTimeStatus m s
  | .powerConfigure m => Sys2Proof.Machine.execPowerConfigure m s
  | .stallService m => Sys2Proof.Machine.execStallService m s
  | .joinConfigure m cabling => Sys2Proof.Machine.execJoinConfigure m cabling s
  | .pairConfigure m partnerCells partnerMhz gpio6InUse => Sys2Proof.Machine.execPairConfigure m partnerCells partnerMhz gpio6InUse s
  | .lockstepConfigure m partnerClass partnerDigests partnerPaired shadowFits => Sys2Proof.Machine.execLockstepConfigure m partnerClass partnerDigests partnerPaired shadowFits s
  | .coldBoot bootSel => Sys2Proof.Machine.execColdBoot bootSel s
  | .deviceReady failed trained bootMs => Sys2Proof.Machine.execDeviceReady failed trained bootMs s
  | .pwrGoodFall => Sys2Proof.Machine.execPwrGoodFall s
  | .resetNAssert => Sys2Proof.Machine.execResetNAssert s
  | .hallChunk offset data => Sys2Proof.Machine.execHallChunk offset data s
  | .weighhouseChunk offset data => Sys2Proof.Machine.execWeighhouseChunk offset data s
  | .go => Sys2Proof.Machine.execGo s
  | .bypass => Sys2Proof.Machine.execBypass s
  | .idcode => Sys2Proof.Machine.execIdcode s
  | .samplePreload pins load => Sys2Proof.Machine.execSamplePreload pins load s
  | .extest => Sys2Proof.Machine.execExtest s
  | .extestPulse => Sys2Proof.Machine.execExtestPulse s
  | .extestTrain => Sys2Proof.Machine.execExtestTrain s
  | .clamp => Sys2Proof.Machine.execClamp s
  | .highz => Sys2Proof.Machine.execHighz s
  | .ethLinkUp p => Sys2Proof.Machine.execEthLinkUp p s
  | .ethLinkDown p fecLost => Sys2Proof.Machine.execEthLinkDown p fecLost s
  | .vlUp l lanes peer => Sys2Proof.Machine.execVlUp l lanes peer s
  | .vlReplay l => Sys2Proof.Machine.execVlReplay l s
  | .delayReqReceive port m => Sys2Proof.Machine.execDelayReqReceive port m s
  | .pfcPauseReceive port prio quanta => Sys2Proof.Machine.execPfcPauseReceive port prio quanta s
  | .ethRxDiscard port cause => Sys2Proof.Machine.execEthRxDiscard port cause s
  | .usbFallback => Sys2Proof.Machine.execUsbFallback s
  | .portDomainOff p => Sys2Proof.Machine.execPortDomainOff p s
  | .droopStretchEnd n => Sys2Proof.Machine.execDroopStretchEnd n s

end Sys2Proof.Machine
end

