-- ==== Sys2Proof/Machine/Step.lean ====
section
/-! DEFINITION. One step: the command at the front of the queue, or one tick of the time base while none waits (log entry 1). -/
namespace Sys2Proof.Machine

/-- The command at the front of the queue is taken and carried out with the rest of the queue; on an empty queue the time
base takes one tick. -/
def step (s : State) : Host.Outcome State Fault Refusal :=
  match s.pending with
  | [] => .next (tickEffect s)
  | c :: rest => exec c { s with pending := rest }

/-- The command that a word spells at the front of the queue: the opcode table gives no row any bits, so no word spells one. -/
def State.withFetchWord (s : State) (nbits w : Nat) : State :=
  match decodeTableWord nbits w with
  | some c => { s with pending := c :: s.pending }
  | none => s

end Sys2Proof.Machine
end

