-- ==== Sys2Proof/Safety.lean ====
section
/-! DEFINITION. What counts as a good state and a good step, in the terms that claims use: the invariants, what a command leaves
unchanged, and what it is for a command to complete. -/
namespace Sys2Proof.Safety
open Sys2Proof.Machine

/-- The memory is in its canonical form: addresses strictly rising, no byte listed that reads as 0. -/
def MemOk (s : State) : Prop := Mem.wf s.mem = true

/-- The function store of a stall lists its words at rising keys. -/
def SfOk (x : Stall) : Prop := x.sfTable.Pairwise fun a b => a.1 < b.1

/-- The parts of the state. -/
inductive Part where
  | mem | dev | stalls | qm | fab | host | time | pwr | cells | eth | wh | sec | pins | harq | hist | join | qps | valley | out | free | seqOps
deriving DecidableEq, Repr

/-- The part is the same in both states. -/
def Part.same (s t : State) : Part → Prop
  | .mem => t.mem = s.mem
  | .dev => t.dev = s.dev
  | .stalls => t.stalls = s.stalls
  | .qm => t.qm = s.qm
  | .fab => t.fab = s.fab
  | .host => t.host = s.host
  | .time => t.time = s.time
  | .pwr => t.pwr = s.pwr
  | .cells => t.cells = s.cells
  | .eth => t.eth = s.eth
  | .wh => t.wh = s.wh
  | .sec => t.sec = s.sec
  | .pins => t.pins = s.pins
  | .harq => t.harq = s.harq
  | .hist => t.hist = s.hist
  | .join => t.join = s.join
  | .qps => t.qps = s.qps
  | .valley => t.valley = s.valley
  | .out => t.out = s.out
  | .free => t.free = s.free
  | .seqOps => t.seqOps = s.seqOps

/-- Between the two states nothing changes but the parts named; the queue of waiting commands is the same. -/
def OnlyChanges (ps : List Part) (s t : State) : Prop := t.pending = s.pending ∧ ∀ p, p ∉ ps → p.same s t

/-- The bytes of memory outside [a, a + n) read as before. -/
def MemOnly (a n : Nat) (s t : State) : Prop := ∀ x, x < a ∨ a + n ≤ x → memByte t.mem x = memByte s.mem x

/-- The other stalls are as before. -/
def OtherStalls (n : StallId) (s t : State) : Prop := ∀ m, m ≠ n → t.stall m = s.stall m

/-- The other cells are as before. -/
def OtherCells (c : CellId) (s t : State) : Prop := ∀ d, d ≠ c → t.cell d = s.cell d

/-- The other command queues are as before. -/
def OtherQueues (q : QueueId) (s t : State) : Prop := ∀ r, r ≠ q → t.queue r = s.queue r

/-! ### The program engines -/

/-- The bytes that a command stores at stall-local addresses of stall n, in order; the rest of memory is as before. -/
def Stored (n : StallId) (l : List (Nat × List Byte)) (s t : State) : Prop :=
  t.mem = l.foldl (fun m p => memWrite m (stallBase n + p.1) p.2) s.mem ∧
  ∀ a, (∀ p ∈ l, a < stallBase n + p.1 ∨ stallBase n + p.1 + p.2.length ≤ a) → memByte t.mem a = memByte s.mem a

/-- Stall n's vector engine is at item k of command r with the registers x, and the word at its program index spells f. -/
structure VecAt (s : State) (n : StallId) (r : Running) (x : VecRegs) (k : Nat) (f : VecInstr) : Prop where
  engine : (s.stall n).vec = .running r x
  going : r.outcome = none
  item : r.item = some k
  word : vecInstrOf (memNat (stallView s.mem n) ((progOf r.desc).prog + 8 * x.pc) 8) = f

/-- The engine goes on with the registers y: at the next instruction, or past the last at the end of the item. -/
def VecGoes (t : State) (n : StallId) (r : Running) (k : Nat) (y : VecRegs) : Prop :=
  let z := y.advance (y.pc + 1)
  if z.pc < (progOf r.desc).len then (t.stall n).vec = .running r z
  else (t.stall n).vec = vecNextItem (r.endItem k oDone) z t.now

/-- The instruction c runs: registers as P says, nothing stored, and the engine goes on. -/
def VecDoes (c : Instr) (s : State) (n : StallId) (r : Running) (k : Nat) (P : VecRegs → Prop) : Prop :=
  ∃ t y, exec c s = .next t ∧ P y ∧ VecGoes t n r k y ∧ t.mem = s.mem ∧ OnlyChanges [.stalls, .free] s t ∧ OtherStalls n s t

/-- The command stops with the outcome o: the item in hand reports it, and nothing is stored. -/
def VecStops (c : Instr) (s : State) (n : StallId) (r : Running) (k : Nat) (o : Byte) : Prop :=
  ∃ t r' y, exec c s = .next t ∧ (t.stall n).vec = .running r' y ∧ r'.outcome = some o ∧
    r'.results = r.results.set k (some (o, 0)) ∧ t.mem = s.mem ∧ OtherStalls n s t

/-- The registers are as in x, but that the active elements of VD are g's, and the others kept, or +0 with MZERO. -/
def TileOnly (f : VecInstr) (x : VecRegs) (g : Nat → Word) (y : VecRegs) : Prop :=
  y = { x with v := vset x.v (tileIx f.vd) (y.tile f.vd) } ∧
  ∀ i, i < 256 → tget (y.tile f.vd) i = if x.active f i then g i else if f.mzero then 0 else tget (x.tile f.vd) i

/-- The registers are as in x, but that mask VD is m. -/
def MaskOnly (f : VecInstr) (x : VecRegs) (m : Nat → Bool) (y : VecRegs) : Prop :=
  y = { x with k := vset x.k (maskIx f.vd) (y.mask f.vd) } ∧ ∀ i, i < 256 → (y.mask f.vd).getLsbD i = m i

/-- Stall n's sequencer is at item k of command r; the word at its program index, from memory or from the loop cache, is w and names the
operation c (16 times its class and its place in Table 05-3, or OP); x are its registers with that word fetched: its issue is charged,
and the loop cache may hold it. -/
structure SeqAt (s : State) (n : StallId) (r : Running) (x : SeqRegs) (k c : Nat) (w : Word) : Prop where
  engine : ∃ x0 held, (s.stall n).seq = .running r x0 ∧
    s.seqCode (progOf r.desc) (stallView s.mem n) x0 = some (c, w, held) ∧ x = x0.fetched c w held
  going : r.outcome = none
  item : r.item = some k

/-- The instruction c runs: the registers y with the writes of `late` on their way, the bytes of `stores` stored, and the
program counter moved on; SEQ_SAT_COUNT counts it if it saturated. -/
def SeqDoes (c : Instr) (s : State) (n : StallId) (r : Running) (y : SeqRegs) (late : List SeqLate)
    (stores : List (Nat × List Byte)) (sat : Bool) : Prop :=
  ∃ t r', exec c s = .next t ∧ (t.stall n).seq = .running r' (y.shift late).step ∧ r' = { r with itemLog := r'.itemLog } ∧
    vget (t.stall n).ctr StallCtr.seqSatCount.idx =
      (if sat then (vget (s.stall n).ctr StallCtr.seqSatCount.idx).add 1 else vget (s.stall n).ctr StallCtr.seqSatCount.idx) ∧
    Stored n stores s t ∧ OnlyChanges [.stalls, .mem] s t ∧ OtherStalls n s t

/-- The command stops with the outcome o, and nothing is stored. -/
def SeqStops (c : Instr) (s : State) (n : StallId) (r : Running) (k : Nat) (o : Byte) : Prop :=
  ∃ t r' y, exec c s = .next t ∧ (t.stall n).seq = .running r' y ∧ r'.outcome = some o ∧
    r'.results = r.results.set k (some (o, 0)) ∧ t.mem = s.mem ∧ OtherStalls n s t

/-! ### The history cache -/

/-- The walker's next request is r, at the head of ring k, with the operation op and the fields f. -/
structure HistServes (s : State) (k : Fin 3) (r : HistReq) (rest : List HistReq) (f : HistFields) (op : Nat) : Prop where
  next : s.hist.nextRing s.now = some k
  head : vget s.hist.rings k = r :: rest
  fields : histOf r.bytes = f
  code : f.op = op

/-- The walker may write a track's record, which lies in Plain. -/
def WalkerMayWrite (s : State) (x : TrackId) : Prop :=
  ∃ off, placeOf (s.hist.trackAddr x) 2048 = .plain off ∧ s.fwRefused (histSource 0) true off 2048 = none

/-- The completion record goes to a stall memory that is on. -/
def DoneInStall (s : State) (f : HistFields) : Prop :=
  ∃ n off, placeOf f.done 8 = .stallMem n off ∧ s.domainOn n.val = true

/-- The 8 bytes of the completion record (R205). -/
def doneBytes (f : HistFields) (status result : Nat) : List Byte :=
  natLE 1 status ++ natLE 1 f.op ++ natLE 2 f.track.val ++ natLE 2 result ++ natLE 2 f.tag

/-- A track's record as memory holds it. -/
def trackIn (s : State) (x : TrackId) : TrackRec := trackRecOf (memRead s.mem (s.hist.trackAddr x) 2048)

/-! ### The stall DMA -/

/-- The chain that runs on stream u of stall n. -/
def chainOn (s : State) (n : StallId) (u : StreamId) : Option Chain := (vget (s.stall n).streams u).chain

/-- The chain c on stream u of stall n is ready, and the descriptor that it takes next has good fields; c' is the chain with
that descriptor taken. -/
structure DmaNext (s : State) (n : StallId) (u : StreamId) (c c' : Chain) (d : DmaDesc) : Prop where
  chain : chainOn s n u = some c
  ready : c.phase = .ready
  taken : s.takeDesc n c = (c', c'.cur)
  bytes : 2 ≤ c'.cur.length
  fields : dmaOf c'.cur = d
  good : dmaOk d = true

/-- An 8-byte word at a that lies in a stall memory or the DRAM and that the chain may write. -/
def ChainWord (s : State) (n : StallId) (c : Chain) (a : Nat) : Prop :=
  (∃ off, placeOf a 8 = .stallMem n off ∧ s.domainOn n.val = true ∧ c.localBase ≤ off ∧ off + 8 ≤ c.localEnd) ∨
  ∃ off, placeOf a 8 = .dram off

/-! ### The fronthaul -/

/-- A packet that passes checks 1 to 3 of Table 10-2 at a port that is on. -/
structure RxGood (s : State) (p : PortId) (f : UplaneFrame) : Prop where
  on : s.portOn p = true
  ingest : s.domainOn 73 = true
  fcs : f.fcsOk = true
  mode : (s.port p).mode = 1
  size : f.bytes ≤ (s.port p).mtu
  header : f.headerOk = true
  vid : f.vid = (s.port p).vid
  eaxc : s.eaxcOk p f.eaxc = true

/-- A counter of cell c grows by k. -/
def CellCounts (s t : State) (c : CellId) (i : CellCtr) (k : Nat) : Prop :=
  vget (t.cell c).ctr i.idx = satAdd (vget (s.cell c).ctr i.idx) k

/-! ### The mailboxes -/

/-- Hall takes the command `code` of mailbox m now; the request's items are l, and the command takes every one of them. -/
structure MbRuns (s : State) (m : MboxId) (code : Nat) (allow : Nat → List Byte → Option Bool) (l : List MItem) : Prop where
  takes : s.mbTakes m code = true
  items : (s.mb m).items = (l, none)
  good : firstFault allow [] l = none
  ready : s.sec.ready = true ∨ s.bootTakes code = true

/-- Mailbox m is answered (R428): the response with that STATUS, DETAIL and items stands in its response page, BUSY is 0, and but for
BUSY, TIMEOUT and NOT_READY DONE is 1 and LAST_SEQ the request's SEQ (R429). -/
structure MbAnswers (s t : State) (m : MboxId) (code status detail : Nat) (items : List Byte) : Prop where
  response : (t.mb m).resp = memWrite (s.mb m).resp 0 (mbResponse m code (s.mb m).seq.toNat status detail items)
  free : (t.mb m).busy = false
  idle : (t.mb m).phase = .idle
  gone : m ∉ t.host.order
  done : (t.mb m).done = (if keepsDone status then (s.mb m).done else true)
  last : (t.mb m).lastSeq = (if keepsDone status then (s.mb m).lastSeq else (s.mb m).seq)

/-- The command completes: it is answered so, P holds of the state after, and beside what every answer changes (mailboxes, events,
messages to the outside) nothing changes but the parts named. -/
def MbDoes (c : Instr) (s : State) (m : MboxId) (code status detail : Nat) (items : List Byte) (ps : List Part) (P : State → Prop) :
    Prop :=
  ∃ t, exec c s = .next t ∧ MbAnswers s t m code status detail items ∧ P t ∧ OnlyChanges ([.host, .dev, .qps, .out] ++ ps) s t

/-- The command is taken and goes on in the background (R430): the answer stands ready, and is sent when it ends. -/
def MbStarts (c : Instr) (s : State) (m : MboxId) (code : Nat) (cell : Option CellId) (items : List Byte) (ps : List Part)
    (P : State → Prop) : Prop :=
  ∃ t, exec c s = .next t ∧ (t.mb m).phase = .taken true code cell 0 0 items ∧ m ∉ t.host.order ∧ P t ∧
    OnlyChanges ([.host, .dev, .qps, .out] ++ ps) s t

/-! ### Power -/

/-- R400: while no AVS fault holds, the target of every stall that is on is the smallest of its four limits, down to a step of 25 MHz
and at least 1 000 MHz; a stall that is off has no clock. -/
def TargetsFollow (t : State) : Prop :=
  ∀ n : StallId,
    (t.domainOn n.val = true → t.pwr.avsFault = false → (t.stall n).aclkTarget =
      max 1000 (min (min (fmaxMhz n) (t.stall n).fTherm) (min t.pwr.fpwr (t.stall n).fDroop) / 25 * 25)) ∧
    (t.domainOn n.val = false → (t.stall n).aclk = 0)

/-- What follows a change of a limit beside it: targets and limit fields of stalls, the VDD_CORE target, and the load of cells. -/
abbrev Retargets : List Part := [.stalls, .pwr, .cells, .host, .dev]

/-! ### Safety and recovery -/

/-- A fault-caused warm reset with that cause has begun (R362, R363): safe state, FAULT_N low, counted, every stall off and nothing
queued, while the time base runs on. -/
structure FaultReset (s t : State) (cause : Byte) : Prop where
  cause : t.wh.cause = cause
  safe : t.wh.safe = true
  low : t.wh.faultLow = true
  notReady : t.wh.ready = false ∧ t.sec.ready = false
  count : t.wh.faultResets = (if s.wh.faultResets = 0xFFFF then s.wh.faultResets else s.wh.faultResets + 1)
  time : t.time.ptp = s.time.ptp ∧ t.time.stepped = s.time.stepped
  queues : t.qm = QueueManager.reset
  stalls : ∀ n : StallId, t.domainOn n.val = false ∧ (t.stall n).inService = false

/-- The Hall domain has been reset (R358): it is absent until it kicks and says HALL_UP; stalls, cells and the time base go on. -/
structure HallReset (s t : State) : Prop where
  down : t.wh.hallDown = some s.up
  notUp : t.wh.hallUp = false
  count : t.devCtr .whHallResets = (s.devCtr .whHallResets).add 1
  image : t.sec.hallRun = true → s.sec.hallRun = true ∧ s.verifyImage 1 s.sec.hallImage = none
  goesOn : t.stalls = s.stalls ∧ t.cells = s.cells ∧ t.qm = s.qm ∧ t.mem = s.mem ∧ t.time.ptp = s.time.ptp

/-- The verdict word of a block is written, once, in Plain (R337). -/
def VerdictWritten (s t : State) (b : JudgedBlock) (word : Nat) : Prop :=
  t.mem = memWrite s.mem b.verdictAddr.toNat (natLE 8 word)

/-- The verdict writer may write the verdict word of the block: its address lies in Plain, inside a region open to it. -/
def VerdictOpen (s : State) (b : JudgedBlock) : Prop :=
  ∃ off, placeOf b.verdictAddr.toNat 8 = .plain off ∧ b.verdictAddr.toNat = plainBase + off ∧ s.fwRefused Source.qm true off 8 = none

end Sys2Proof.Safety
end

