-- ==== Sys2Proof/Certificates/Slice0/Obligations.lean ====
section
/-! DEFINITION. The statements about the model, from the numbered rules of the spec. Each names the rows it speaks of; a clause
for a row says under which conditions on the state and the operands the row completes, and what its own effect is then. -/
open Sys2Proof Sys2Proof.Machine Sys2Proof.Safety

/-- The queue of commands: the command at its front is carried out with the rest of the queue; on an empty queue the time base takes
one tick (the model's choice, log entry 1). Every command of the table, in every state, answers a next state: none stops (log entry 2). -/
def Obligations.StepRunsTheFrontCommand : Prop :=
  (∀ (s : State) (c : Instr) (rest : List Instr), step { s with pending := c :: rest } = exec c { s with pending := rest }) ∧
  (∀ (c : Instr) (s : State), ∃ t, exec c s = .next t) ∧
  ∀ s : State, s.pending = [] → ∃ t, step s = .next t ∧ t.time.cnt = s.time.cnt + 1 ∧ t.mem = s.mem ∧ t.pending = []

/-- The memory keeps its canonical form over every command and every tick. -/
def Obligations.MemoryStaysCanonical : Prop :=
  ∀ s t : State, MemOk s → step s = .next t → MemOk t

/-- The memory has its canonical form at reset. -/
def Obligations.MemoryIsCanonicalAtReset : Prop :=
  MemOk State.reset

/-- R456, R458: a blown fuse bit stays blown, and a revoked key revoked, whatever command follows, a reset among them; an anti-rollback
counter therefore never reads less than before. -/
def Obligations.BlownFusesStayBlown : Prop :=
  ∀ s t : State, step s = .next t →
    (∀ (k : Fin 3) (i : Nat), (vget s.sec.blown k).getLsbD i = true → (vget t.sec.blown k).getLsbD i = true) ∧
    (∀ i, s.revokedKeys.getLsbD i = true → t.revokedKeys.getLsbD i = true) ∧
    ∀ k : Fin 3, s.svnCounter k ≤ t.svnCounter k

/-- R7, R98, R319, R458 and the Reset columns of the register tables: after a cold reset these registers read their reset values, every
counter and every HEAD, TAIL and GEN reads 0, no queue is enabled, every stall has its domain off, both banks of its stores 0, bank 0
active, VEC_FLUSH 0080_0000h and DMA mode 1, no cell runs, the time scale is not stepped, and no image runs. -/
def Obligations.ResetLeavesTheTableValues : Prop :=
  (∀ x ∈ ([(0x4000, 20), (0x4004, 0x07D003E8), (0x10, 0), (0x18, 0), (0x24, 0), (0x1801100, 0x07D001F4), (0x1900000, 0x00042410),
      (0x1900004, 0), (0x1B00000, 0), (0x1B00030, 0), (0x1B00084, 100000), (0x1C00000, 64), (0x1D00000, 0x01000100), (0x1E00000, 0),
      (0x1E00004, 0), (0x1E00024, 0x00392424), (0x1E00028, 192), (0x1F00000, 0x002D0104), (0x1F0000C, 60), (0x1F00010, 40),
      (0x1F00400, 0x00096000), (0x2200008, 0xFFFF), (0x220000C, 0)] : List (Nat × Word)),
    (State.reset.regRead .host x.1 true).1 = x.2) ∧
  (∀ p : PortId, (State.reset.regRead .host (0x1A00000 + 0x10000 * p.val) true).1 = 9600 ∧
    (State.reset.regRead .host (0x1A00004 + 0x10000 * p.val) true).1 = 0xE000) ∧
  (∀ m : MboxId, (State.reset.regRead .host (0x2402008 + 0x4000 * m.val) true).1 = if 6 ≤ m.val then 1 else 0) ∧
  (∀ q : QueueId, (State.reset.regRead .host (0x4100 + 0x20 * q.val) true).1 = 1 ∧
    (State.reset.regRead .host (0x4108 + 0x20 * q.val) true).1 = 0) ∧
  (∀ c : CtrSite, (State.reset.ctr c).live = 0 ∧ (State.reset.ctr c).hold = 0) ∧
  (∀ n : StallId, State.reset.domainOn n.val = false ∧ (State.reset.stall n).rqActive = false ∧ (State.reset.stall n).sfActive = false ∧
    (∀ a, memByte (State.reset.stall n).rqTable a = 0) ∧ (State.reset.stall n).vecFlush = 0x00800000 ∧ (State.reset.stall n).dmaMode = 1 ∧
    ∀ t : StreamId, (vget (State.reset.stall n).dmaResv t) = 8) ∧
  (∀ c : CellId, (State.reset.cell c).running = false ∧ (State.reset.cell c).configured = false) ∧
  State.reset.time.stepped = false ∧ State.reset.sec.ready = false ∧ State.reset.sec.hallRun = false ∧ State.reset.sec.whRun = false ∧
  State.reset.pending = []

/-- R328: the launch second of a descriptor is the one value with the low 34 bits that the descriptor carries and within 2^33 s of
the present second. -/
def Obligations.LaunchSecondIsTheNearest : Prop :=
  ∀ (now : Int) (d : Desc), d.launchS < 2 ^ 34 → ∃ l : Int, launchTime now d = ns (l * 1000000000 + d.launchNs) ∧
    l % 2 ^ 34 = d.launchS ∧ now / ns 1000000000 - 2 ^ 33 ≤ l ∧ l < now / ns 1000000000 + 2 ^ 33 ∧
    ∀ m : Int, m % 2 ^ 34 = d.launchS → now / ns 1000000000 - 2 ^ 33 ≤ m → m < now / ns 1000000000 + 2 ^ 33 → m = l

/-- COMMAND_LAUNCH, GATE_POLL and AFFINITY_WAIT_EXPIRY complete (R263, R327, R268, R376): COMMAND_LAUNCH marks a waiting entry
whose launch time is reached; GATE_POLL reads the gate word of a waiting entry, at most once in 100 ns, and the gate is met when
the word is no less than READY_VALUE; for a running UNORD command that waits it starts the lowest-numbered unrun item whose gate
word is met; AFFINITY_WAIT_EXPIRY frees an entry of its AFFINITY once it has been eligible for AFFINITY_WAIT. The entry keeps its
bytes.
DISPATCH completes (R264, R268, R276): where the engine is free and no eligible entry with a MODEL is new to the count of
R276, DISPATCH reserves the engine for the entry that the queue manager chooses and records stall and start; no eligible entry
that may run there comes before the chosen one by class, then virtual time, then queue number. An eligible entry whose MODEL is
resident on no stall that qualifies for it is counted in QM_RES_MISS. -/
def Obligations.EntriesBecomeReadyAndAreDispatched : Prop :=
  ((∀ (q : QueueId) (i : Fin 4096) (e : QEntry) (s : State), s.entry q i = some e → e.phase = .waiting → e.launched = false →
    s.launchReached e.desc = true →
    ∃ t e', exec (.commandLaunch q i) s = .next t ∧ t.entry q i = some e' ∧ e'.launched = true ∧ e'.phase = .waiting ∧
      e'.bytes = e.bytes ∧ e'.gateMet = e.gateMet ∧ OnlyChanges [.qm, .out, .qps, .valley] s t) ∧
  (∀ (q : QueueId) (i : Fin 4096) (e : QEntry) (s : State), s.entry q i = some e → e.phase = .waiting → e.gateMet = false →
    (∀ p, e.lastPoll = some p → ns 100 ≤ s.now - p) →
    ∃ t e', exec (.gatePoll q i) s = .next t ∧ t.entry q i = some e' ∧
      (e'.gateMet = true ↔ e.fields.readyValue ≤ (s.gateWord e.fields.readyAddr).1) ∧
      e'.lastPoll = some s.now ∧ e'.phase = .waiting ∧ e'.bytes = e.bytes ∧ e'.launched = e.launched ∧
      OnlyChanges [.qm, .dev, .fab, .host] s t) ∧
  (∀ (q : QueueId) (i : Fin 4096) (e : QEntry) (n : StallId) (r : Running) (x : VecRegs) (k : Nat) (s s' : State),
    s.entry q i = some e → e.phase = .placed n .vector → (s.stall n).vec = .running r x → r.item = none → r.outcome = none →
    e.desc.unord = true → (∀ p, e.lastPoll = some p → ns 100 ≤ s.now - p) → s.unordItem r.unrun = (some k, s') →
    ∃ t r', exec (.gatePoll q i) s = .next t ∧ (t.stall n).vec = .running r' (x.load (progOf r.desc) r'.curItem) ∧
      r'.item = some k ∧ r'.itemStart = s.now ∧ r'.results = r.results ∧ r'.tdc = (r.tdc || r.unrun.any fun p => decide (p.1 < k)) ∧ OtherStalls n s t) ∧
  (∀ (q : QueueId) (i : Fin 4096) (e : QEntry) (n : StallId) (r : Running) (x : SeqRegs) (k : Nat) (s s' : State),
    s.entry q i = some e → e.phase = .placed n .sequencer → (s.stall n).seq = .running r x → r.item = none → r.outcome = none →
    e.desc.unord = true → (∀ p, e.lastPoll = some p → ns 100 ≤ s.now - p) → s.unordItem r.unrun = (some k, s') →
    ∃ t r', exec (.gatePoll q i) s = .next t ∧ (t.stall n).seq = .running r' (x.drain.load (progOf r.desc) r'.curItem) ∧
      r'.item = some k ∧ r'.itemStart = s.now ∧ r'.results = r.results ∧ r'.tdc = (r.tdc || r.unrun.any fun p => decide (p.1 < k)) ∧ OtherStalls n s t) ∧
  (∀ (q : QueueId) (i : Fin 4096) (e : QEntry) (t0 : Int) (s : State), s.entry q i = some e → e.phase = .waiting →
    e.eligibleAt = some t0 → t0 + ns (fld s.qm.timing 31 16 : Nat) ≤ s.now →
    ∃ t, exec (.affinityWaitExpiry q i) s = .next t ∧ t.entry q i = some { e with affinityFree := true } ∧
      OnlyChanges [.qm] s t ∧ OtherQueues q s t)) ∧
  ((∀ (n : StallId) (g : Engine) (q : QueueId) (e : QEntry) (s : State),
    (∀ p x, (s.queue p).eligible = some x → x.fields.model = 0 ∨ x.missed = true) → (s.stall n).engineFree g = true →
    s.choose n g = some (q, e) →
    ∃ t, exec (.dispatch n g) s = .next t ∧ (t.stall n).reservedFor g = some (q, e.idx) ∧
      t.entry q e.idx = (s.entry q e.idx).map (fun x => { x with
        phase := .placed n g, stall := some n, placedAt := s.now, start := s.now }) ∧
      OnlyChanges [.qm, .stalls, .host, .free] s t ∧ OtherStalls n s t) ∧
  (∀ (n : StallId) (g : Engine) (q : QueueId) (e : QEntry) (s : State), s.choose n g = some (q, e) →
    (s.queue q).eligible = some e ∧ s.mayRun n g q e = true ∧
    ∀ p x, (s.queue p).eligible = some x → s.mayRun n g p x = true → dispatchBefore s p q = false) ∧
  (∀ (n : StallId) (g : Engine) (q : QueueId) (e : QEntry) (s : State), (s.queue q).eligible = some e → engineOf e.bytes = g →
    e.missed = false → e.fields.model ≠ 0 → (∀ m, s.qualifies q e m = false) →
    (∀ p x, p ≠ q → (s.queue p).eligible = some x → x.fields.model = 0 ∨ x.missed = true) →
    ∃ t, exec (.dispatch n g) s = .next t ∧ (t.devCtr .qmResMiss).live = satAdd (s.devCtr .qmResMiss).live 1 ∧ t.mem = s.mem))

/-- R16, R30, R265, R375: STAGE_WINDOW_CLOSE completes on a waiting entry whose window has closed: the entry is retired, unrun, and counts
in TDC_SCHED; where it was the cell's scheduler run, Hall's classical scheduler replaces it, which SCHED_FALLBACK counts and whose ac
the reserve pays. QUEUE_FLUSH completes with EN clear: it retires every entry that has not been dispatched. -/
def Obligations.UnstartedEntriesAreDiscarded : Prop :=
  (∀ (q : QueueId) (i : Fin 4096) (blocks : List BlockRef) (cmd : List Byte) (ac : Nat) (e : QEntry) (s : State),
    s.entry q i = some e → e.phase = .waiting → s.time.stepped = true → e.desc.discardNs ≠ 0 →
    s.reached (launchTime s.now e.desc + ns e.desc.discardNs) = true →
    (e.desc.stage ≠ 0 → ∃ t, exec (.stageWindowClose q i ⟨blocks, cmd, ac⟩) s = .next t ∧
      (∀ e', t.entry q i = some e' → e'.phase = .retired) ∧ (t.devCtr .tdcSched).live = satAdd (s.devCtr .tdcSched).live 1 ∧
      t.stalls = s.stalls ∧ t.time = s.time ∧ t.sec = s.sec) ∧
    (e.desc.stage = 0 → ∃ t, exec (.stageWindowClose q i ⟨blocks, cmd, ac⟩) s = .next t ∧
      (t.devCtr .tdcSched).live = satAdd (s.devCtr .tdcSched).live 1 ∧
      vget (t.cell e.desc.cell).ctr CellCtr.schedFallback.idx = satAdd (vget (s.cell e.desc.cell).ctr CellCtr.schedFallback.idx) 1 ∧
      t.qm.reserves = s.qm.reserves.map (fun x => if s.reserveOf e.desc.cell = some x then { x with unspent := x.unspent - ac } else x) ∧
      t.time = s.time ∧ t.sec = s.sec)) ∧
  (∀ (q : QueueId) (v : Word) (s : State), (s.queue q).en = true →
    ∃ t, exec (.queueFlush q v) s = .next t ∧ (t.queue q).en = false ∧ (∀ e ∈ (t.queue q).entries, e.phase ≠ .waiting) ∧
      t.stalls = s.stalls ∧ t.cells = s.cells) ∧
  (∀ (q : QueueId) (v : Word) (s : State), (s.queue q).en = false →
    ∃ t, exec (.queueFlush q v) s = .next t ∧ (t.queue q).cfg = (wrMask 0xFC1F0FFF (s.queue q).cfg v) &&& 0x7FFFFFFF ∧
      (t.queue q).entries = (s.queue q).entries ∧ OnlyChanges [.qm] s t ∧ OtherQueues q s t)

/-- QUEUE_ENABLE completes (R258, R266): a write with EN = 1 to a queue that is not enabled enables it, with its virtual time at
0, when LOG2_SIZE is 4 to 12, CLASS is not 3 and the ring lies in Plain; otherwise EN stays 0. While the queue is enabled the
write changes nothing.
TAIL_WRITE completes (R260): a TAIL write on an enabled queue takes in the entries up to it, each at the index where it stood,
and is ignored and counted in QM_RING_FULL when it would take the ring beyond full. -/
def Obligations.QueuesAreEnabledAndFilled : Prop :=
  (∀ (q : QueueId) (v : Word) (s : State), ∃ t, exec (.queueEnable q v) s = .next t ∧ OnlyChanges [.qm] s t ∧ OtherQueues q s t ∧
    ((s.queue q).en = true → t = s) ∧
    ((s.queue q).en = false → wbit v 31 = true → 4 ≤ fld v 20 16 → fld v 20 16 ≤ 12 → fld v 27 26 ≠ 3 →
      0x20000000 ≤ (s.queue q).entryAddr 0 → (s.queue q).entryAddr 0 + 128 * 2 ^ fld v 20 16 ≤ 0x22000000 →
      (t.queue q).en = true ∧ (t.queue q).vt = 0 ∧ (t.queue q).cfg = wrMask 0xFC1F0FFF (s.queue q).cfg v) ∧
    ((s.queue q).en = false → (fld v 20 16 < 4 ∨ 12 < fld v 20 16 ∨ fld v 27 26 = 3) → (t.queue q).en = false)) ∧
  ((∀ (q : QueueId) (v : Word) (s : State), (s.queue q).en = true → (s.queue q).fallback = false →
    (fld v 23 12 + (s.queue q).size - (s.queue q).tail.toNat) % (s.queue q).size ≤ (s.queue q).room →
    (s.queue q).tail.toNat < (s.queue q).size → (∀ m, (s.queue q).lastStall = some m → (s.stall m).inService = true) →
    (∀ e ∈ (s.queue q).entries, ∀ m, e.stall = some m → (s.stall m).inService = true) →
    ∃ t, exec (.tailWrite q v) s = .next t ∧ (t.queue q).tail.toNat = fld v 23 12 % (s.queue q).size ∧
      (t.queue q).head = (s.queue q).head ∧
      (t.queue q).entries.length = (s.queue q).entries.length +
        (fld v 23 12 + (s.queue q).size - (s.queue q).tail.toNat) % (s.queue q).size ∧ t.cells = s.cells ∧ t.stalls = s.stalls) ∧
  (∀ (q : QueueId) (v : Word) (s : State), (s.queue q).en = true →
    (s.queue q).room < (fld v 23 12 + (s.queue q).size - (s.queue q).tail.toNat) % (s.queue q).size →
    ∃ t, exec (.tailWrite q v) s = .next t ∧ (t.devCtr .qmRingFull).live = satAdd (s.devCtr .qmRingFull).live 1 ∧
      OnlyChanges [.dev] s t) ∧
  (∀ (q : QueueId) (v : Word) (s : State), (s.queue q).en = true → (s.queue q).fallback = true → s.reserveOf (s.queue q).cell = none →
    (fld v 23 12 + (s.queue q).size - (s.queue q).tail.toNat) % (s.queue q).size = 1 → 1 ≤ (s.queue q).room →
    (s.queue q).tail.toNat < (s.queue q).size →
    ∃ t, exec (.tailWrite q v) s = .next t ∧ t.devCtr .qmNotAdmitted = (s.devCtr .qmNotAdmitted).add 1))

/-- R12, R15, R17, R46, R261, R329: PLAN_RELEASE completes for a running cell whose next processing slot is due and has a registered plan
whose CHECK holds and whose queues are enabled and have room: every entry joins its queue, TAIL passing it, and the slot's uplink and
downlink air slots are on their way. Without a registered plan it counts PLAN_MISSING; of a plan whose CHECK does not hold it takes
nothing, counting QM_RING_FULL.
RESERVE_WINDOW_OPEN and RESERVE_WINDOW_CLOSE complete (R269): a reserve stall's window opens at its instant, with the
remainder of a command that already runs there as backlog, and the reserve is gone after its close. -/
def Obligations.PlansReleaseAndReservesOpen : Prop :=
  ((∀ (c : CellId) (us : List UnitDesc) (as : List AllocDesc) (k : Int) (p : PlanReg) (es : List (List Byte)) (s : State),
    s.time.stepped = true → (s.cell c).running = true → (s.cell c).lastSlot = some k → s.standby c = false →
    s.reached (s.releaseAt c (k + 1)) = true → (vget s.time.plans c).find? (fun p => p.slot == (s.frameTiming c).air (k + 1)) = some p →
    checkOk (s.agentRead Source.qm p.addr.toNat 64).1 = true → (planHeader (s.agentRead Source.qm p.addr.toNat 64).1).count ≤ 8192 →
    (s.readEntries (p.addr.toNat + 64) (planHeader (s.agentRead Source.qm p.addr.toNat 64).1).count).1 = es → s.planFits es = true →
    ∃ t, exec (.planRelease c us as) s = .next t ∧ (t.cell c).lastSlot = some (k + 1) ∧ p ∉ vget t.time.plans c ∧
      (∀ q, (s.queue q).tail.toNat < (s.queue q).size →
        (t.queue q).tail.toNat = ((s.queue q).tail.toNat + (es.filter fun b => entryQueue b == q).length) % (s.queue q).size) ∧
      (t.cell c).dl.length = (s.cell c).dl.length + 1 ∧ (t.cell c).ul.length = (s.cell c).ul.length + 1 ∧
      vget (t.cell c).ctr CellCtr.planMissing.idx = vget (s.cell c).ctr CellCtr.planMissing.idx ∧ t.sec = s.sec) ∧
  (∀ (c : CellId) (us : List UnitDesc) (as : List AllocDesc) (k : Int) (s : State), s.time.stepped = true →
    (s.cell c).running = true → (s.cell c).stopping = false → (s.cell c).lastSlot = some k → s.standby c = false →
    s.reached (s.releaseAt c (k + 1)) = true →
    (∀ p ∈ vget s.time.plans c, p.slot ≠ (s.frameTiming c).air (k + 1)) →
    ∃ t, exec (.planRelease c us as) s = .next t ∧ (t.cell c).lastSlot = some (k + 1) ∧
      vget (t.cell c).ctr CellCtr.planMissing.idx = satAdd (vget (s.cell c).ctr CellCtr.planMissing.idx) 1 ∧
      (t.cell c).dl.length = (s.cell c).dl.length + 1 ∧ (t.cell c).ul.length = (s.cell c).ul.length + 1 ∧
      t.qm = s.qm ∧ t.time = s.time ∧ t.stalls = s.stalls ∧ OtherCells c s t) ∧
  (∀ (c : CellId) (us : List UnitDesc) (as : List AllocDesc) (p : PlanReg) (s : State), s.time.stepped = true →
    (s.cell c).running = false → s.standby c = false → (vget s.time.plans c).find? (fun p => s.reached (ns p.release)) = some p →
    checkOk (s.agentRead Source.qm p.addr.toNat 64).1 = false →
    ∃ t, exec (.planRelease c us as) s = .next t ∧ p ∉ vget t.time.plans c ∧ (t.devCtr .qmRingFull).live = satAdd (s.devCtr .qmRingFull).live 1 ∧
      (∀ q, (t.queue q).entries.length = (s.queue q).entries.length))) ∧
  ((∀ (c : CellId) (rem : List (StallId × Nat)) (r : Reserve) (s : State),
    s.qm.reserves.find? (fun r => r.cell == c && !r.isOpen && s.reached r.openAt && !s.reached r.closeAt) = some r →
    ∃ t r', exec (.reserveWindowOpen c rem) s = .next t ∧ r' ∈ t.qm.reserves ∧ r'.cell = c ∧ r'.isOpen = true ∧
      r'.stalls = r.stalls ∧ r'.unspent = r.unspent ∧ r'.closeAt = r.closeAt ∧
      (∀ n, r.stalls.getLsbD n.val = true →
        t.backlogAc r' n = s.backlogAc r n + ((rem.filter fun p => p.1 == n).map (·.2)).sum) ∧
      OnlyChanges [.qm] s t) ∧
  (∀ (c : CellId) (s : State), ∃ t, exec (.reserveWindowClose c) s = .next t ∧
    (∀ r, r ∈ t.qm.reserves ↔ r ∈ s.qm.reserves ∧ ¬(r.cell = c ∧ nsOf r.closeAt ≤ s.nowNs)) ∧
    t.qm.queues = s.qm.queues ∧ OnlyChanges [.qm] s t))

/-- R22: UPLINK_DEADLINE at or after T_(n+2) completes: every block of the air slot that is not final is a NACK with reason 3, and the
reason of every final block stays.
R169, R375: DEC_BLOCK_BUDGET_EXPIRY completes on an LDPC block whose decode has LLRs and an item in hand, and whose first iteration
started DEC_BLOCK_BUDGET ago or more: the block ends with the BUDGET reason, which TDC_BUDGET counts. A block that is final stays as it
is.
R41, R43, R44: UL_SLOT_INDICATION completes for a slot whose every block is final: it is posted, and is then done with: over USB as one message of endpoint 2 that
begins with TYPE 0201h, the cell and SFN.slot, over RoCEv2 as an RDMA WRITE that an RDMA WRITE with the immediate value of R43
follows; while the path does not accept it, it is held. HELD_INDICATION_POST completes once the path accepts data: the oldest held
indication is posted. -/
def Obligations.UplinkBlocksEndAndArePosted : Prop :=
  (∀ (c : CellId) (a : AirSlot) (s : State), s.reached (s.airStartPlus c a 2) = true →
    ∃ t, exec (.uplinkDeadline c a) s = .next t ∧
      (∀ (u k : Nat) (b : UlBlock), s.ulBlock ⟨c, a, u, k⟩ = some b →
        ∃ b', t.ulBlock ⟨c, a, u, k⟩ = some b' ∧ b'.final = some (b.final.getD 3)) ∧
      OnlyChanges [.cells, .harq, .mem, .host, .dev, .qps, .valley, .out] s t ∧ OtherCells c s t) ∧
  ((∀ (r : BlockRef) (n : StallId) (e : Engine) (stop : StopPoint) (start begun : Int) (k : Nat) (own : Option (List Byte × List Bool))
    (b : UlBlock) (u : UlUnit) (x : Running) (s s' : State), s.ulBlock r = some b → s.ulUnit r = some u → u.tx.isSome = true →
    s.stopItem n e stop = some (x, begun, s') → (b.decodes own).isSome = true → b.final = none → b.waiting = none → begun ≤ start →
    x.start ≤ start → start + ns (1000 * (s.cellDecoded r.cell r.air).get .decBudget : Nat) ≤ s.now →
    ∃ t b', exec (.decBlockBudgetExpiry r ⟨n, e, stop, start, own⟩ k) s = .next t ∧ t.ulBlock r = some b' ∧ b'.final = some 2 ∧
      (t.devCtr .tdcBudget).live = satAdd (s.devCtr .tdcBudget).live 1 ∧ OtherCells r.cell s t) ∧
  (∀ (r : BlockRef) (n : StallId) (e : Engine) (stop : StopPoint) (start : Int) (k : Nat) (own : Option (List Byte × List Bool))
    (b : UlBlock) (s : State), s.ulBlock r = some b → b.final ≠ none →
    exec (.decBlockBudgetExpiry r ⟨n, e, stop, start, own⟩ k) s = .next s)) ∧
  ((∀ (c : CellId) (a : AirSlot) (u : UlSlot) (s : State), s.ulSlot c a = some u → u.isFinal = true → s.shadows c = false →
    (s.cell c).held = [] → s.pathAccepts c a = true → (s.cellDecoded c a).deliveryQp = none →
    ∃ t b, exec (.ulSlotIndication c a) s = .next t ∧ t.out = s.out ++ [.usbMessage 2 0 0 0 0 b] ∧
      b.take 3 = [0x01, 0x02, BitVec.ofNat 8 c.val] ∧ (b.drop 4).take 3 = natLE 2 a.sfn.val ++ [BitVec.ofNat 8 a.slot.val] ∧
      t.ulSlot c a = none ∧ (t.cell c).held = [] ∧ OtherCells c s t ∧ t.mem = s.mem) ∧
  (∀ (c : CellId) (a : AirSlot) (u : UlSlot) (q : QpId) (s : State), s.ulSlot c a = some u → u.isFinal = true →
    s.shadows c = false → (s.cell c).held = [] → s.pathAccepts c a = true → (s.cellDecoded c a).deliveryQp = some q →
    ∃ t b x t1 t2, exec (.ulSlotIndication c a) s = .next t ∧
      t.out = s.out ++ [.roce q 1 x 0 b t1,
        .roce q 2 x (BitVec.ofNat 32 (c.val * 2 ^ 24 + a.sfn.val * 2 ^ 8 + a.slot.val)) [] t2] ∧
      b.take 3 = [0x01, 0x02, BitVec.ofNat 8 c.val] ∧ t.ulSlot c a = none ∧ OtherCells c s t) ∧
  (∀ (c : CellId) (a : AirSlot) (u : UlSlot) (s : State), s.ulSlot c a = some u → u.isFinal = true → s.shadows c = false →
    s.pathAccepts c a = false → (s.cell c).held.length < 32 →
    ∃ t b, exec (.ulSlotIndication c a) s = .next t ∧ (t.cell c).held = (s.cell c).held ++ [(a, b)] ∧ t.out = s.out ∧
      t.ulSlot c a = none ∧ OtherCells c s t) ∧
  (∀ (c : CellId) (a : AirSlot) (b : List Byte) (rest : List (AirSlot × List Byte)) (s : State),
    (s.cell c).held = (a, b) :: rest → s.pathAccepts c a = true → (s.cellDecoded c a).deliveryQp = none →
    ∃ t, exec (.heldIndicationPost c) s = .next t ∧ (t.cell c).held = rest ∧ t.out = s.out ++ [.usbMessage 2 0 0 0 0 b] ∧
      OnlyChanges [.cells, .out] s t ∧ OtherCells c s t))

/-- R45, R307: DL_PAYLOAD_CHECK and DL_SLOT_REPORT complete: at T_(m-1) an allocation whose payload the host has not placed gets the payload-late reason, another keeps its own;
after the last symbol's U-plane the slot's report is posted with TYPE 0202h and the payloads of the slot are discarded.
R181: HARQ_PAGE_EXPIRY completes: it frees the named page of the cell where its age at the present air slot exceeds HARQ_MAX_AGE and
keeps every other page; a freed page counts in HARQ_EXPIRED. -/
def Obligations.DownlinkReportsAndHarqPages : Prop :=
  ((∀ (c : CellId) (a : AirSlot) (d : DlSlot) (s : State), s.shadows c = false → s.reached (s.airStartPlus c a (-1)) = true →
    s.dlSlot c a = some d →
    ∃ t d', exec (.dlPayloadCheck c a) s = .next t ∧ t.dlSlot c a = some d' ∧
      d'.allocs = d.allocs.map (fun x => if x.reason = 0 ∧ ¬(∃ p ∈ (s.cell c).payloads, p.1 = a ∧ p.2.1 = x.rnti ∧ p.2.2.1 = x.harqId)
        then { x with reason := 10 } else x) ∧ OnlyChanges [.cells, .out, .qps, .valley] s t ∧ OtherCells c s t) ∧
  (∀ (c : CellId) (a : AirSlot) (d : DlSlot) (s : State), s.dlSlot c a = some d → d.sent = true → s.shadows c = false →
    (s.cell c).held = [] → s.pathAccepts c a = true → (s.cellDecoded c a).deliveryQp = none →
    ∃ t b, exec (.dlSlotReport c a) s = .next t ∧ t.out = s.out ++ [.usbMessage 2 0 0 0 0 b] ∧
      b.take 4 = [0x02, 0x02, BitVec.ofNat 8 c.val, BitVec.ofNat 8 d.flags] ∧ (b.drop 20).take 2 = natLE 2 d.allocs.length ∧
      t.dlSlot c a = none ∧ (∀ p ∈ (t.cell c).payloads, p.1 ≠ a) ∧ OnlyChanges [.cells, .out, .free] s t ∧ OtherCells c s t)) ∧
  (∀ (c : CellId) (n : Nat) (s : State), ∃ t, exec (.harqPageExpiry c n) s = .next t ∧
    t.harq.pages = s.harq.pages.filter (fun p => !(p.number == n && p.cell == c &&
      decide (s.harq.maxAge < harqAge (s.frameTiming c).mu p ((s.frameTiming c).air (s.procNow c))))) ∧
    t.harq.maxAge = s.harq.maxAge ∧ t.harq.pool = s.harq.pool ∧ t.harq.base = s.harq.base ∧
    vget (t.cell c).ctr CellCtr.harqExpired.idx = satAdd (vget (s.cell c).ctr CellCtr.harqExpired.idx)
      (s.harq.pages.length - t.harq.pages.length) ∧
    OnlyChanges [.harq, .cells, .out, .qps, .valley] s t ∧ OtherCells c s t)

/-- R32, R33, R35, R380, R381: ADAPT_UPDATE_STEP completes with ADAPT_MODE 1, on the work of a background command that has run, for a batch
of code blocks whose CRC passed: it raises STEP by one, enters its step number into the journal and leaves the promoted weights alone.
With ADAPT_MODE 0 it does not run.
ADAPT_EXPORT, ADAPT_IMPORT and ADAPT_REPLAY complete (R35, R381, R382). An exported adaptation reads back as it was: its import is
the same SEED, STEP, candidate weights, journal and batches. ADAPT_EXPORT writes the export at ADDRESS or returns it, and changes no
cell; ADAPT_IMPORT installs an export in the cell, whose promoted weights stay until golden frames pass (the model's reading of R34,
log entry 17); ADAPT_REPLAY returns STEP and digest of each step run again and changes nothing. -/
def Obligations.AdaptationsStepExportAndImport : Prop :=
  ((∀ (c : CellId) (labels : List BlockRef) (batch : List Byte) (us : List (BitVec 16 × List Word)) (s : State),
    ((s.cell c).inPlan (s.procNow c)).get .adaptMode = 1 → 1 ≤ (s.cell c).get .adaptKeep → 0 < (s.cell c).adapt.work → labels ≠ [] →
    (∀ l ∈ labels, l ∈ (s.cell c).labels) →
    ∃ t x, exec (.adaptUpdateStep c ⟨labels, batch⟩ us) s = .next t ∧ (t.cell c).adapt.stepNo = (s.cell c).adapt.stepNo + 1 ∧
      (t.cell c).adapt.journal.getLast? = some ((s.cell c).adapt.stepNo, Config.shake256 batch, x) ∧
      (t.cell c).adapt.promoted = (s.cell c).adapt.promoted ∧ (t.cell c).adapt.seed = (s.cell c).adapt.seed ∧
      OnlyChanges [.cells] s t ∧ OtherCells c s t) ∧
  (∀ (c : CellId) (labels : List BlockRef) (batch : List Byte) (us : List (BitVec 16 × List Word)) (s : State),
    ((s.cell c).inPlan (s.procNow c)).get .adaptMode = 0 → exec (.adaptUpdateStep c ⟨labels, batch⟩ us) s = .next s)) ∧
  ((∀ x : Adapt, x.candidate.length < 2 ^ 32 → (∀ w ∈ x.candidate, w.2.length < 2 ^ 32) → x.journal.length < 2 ^ 32 →
    x.batches.length < 2 ^ 32 → (∀ b ∈ x.batches, b.2.length < 2 ^ 32) →
    importAdapt x.export_ = some { x with promoted := none, work := 0 }) ∧
  (∀ (s : State) (m : MboxId) (l : List MItem) (c : CellId), MbRuns s m 0x2C (orItems cellItem adaptItems) l → itemsCell l = some c →
    (∀ a off, itemNum l 7 = some a → placeOf a (s.cell c).adapt.export_.length = .dram off →
      MbStarts (.adaptExport m) s m 0x2C (some c) (itemBytes 11 (natLE 4 (s.cell c).adapt.export_.length)) [.mem] fun t =>
        t.mem = memWrite s.mem a (s.cell c).adapt.export_ ∧ MemOnly a (s.cell c).adapt.export_.length s t) ∧
    (itemNum l 7 = none →
      MbStarts (.adaptExport m) s m 0x2C (some c) (itemBytes 11 (natLE 4 (s.cell c).adapt.export_.length) ++
        itemBytes 12 (((s.cell c).adapt.export_.drop ((itemNum l 4).getD 0)).take 4064)) [] fun _ => True)) ∧
  (∀ (s : State) (m : MboxId) (l : List MItem) (c : CellId) (bs : List Byte), MbRuns s m 0x2D (orItems cellItem adaptItems) l →
    itemsCell l = some c → itemVal l 12 = some bs →
    (importAdapt bs = none → ∃ d, MbDoes (.adaptImport m) s m 0x2D 2 d [] [] fun _ => True) ∧
    (∀ x, importAdapt bs = some x → x.journal.length ≤ (s.cell c).get .adaptKeep → x.batches.length ≤ (s.cell c).get .adaptKeep →
      MbStarts (.adaptImport m) s m 0x2D (some c) [] [.cells] fun t => t.cell c = { s.cell c with adapt := { x with promoted := (s.cell c).adapt.promoted } } ∧
        OtherCells c s t)) ∧
  (∀ (s : State) (m : MboxId) (l : List MItem) (c : CellId) (bs : List Byte) (us : List (List (BitVec 16 × List Word))) (x : Adapt)
    (k : BitVec 64) (b : List Byte), MbRuns s m 0x2E (orItems cellItem adaptItems) l → itemsCell l = some c → itemVal l 12 = some bs →
    importAdapt bs = some x → x.batches = [(k, b)] → us.length = 1 → itemNum l 4 = none →
    MbStarts (.adaptReplay m us) s m 0x2E (some c) (itemBytes 12 (natLE 8 k.toNat ++
      digestBytes (Config.shake256 (weightBytes (Adapt.update { x with stepNo := k } (s.cell c).bundle 1 b (us.getD 0 [])).candidate)))) [] fun _ => True))

/-- R49, R50, R67, R76, R97, R106, R107, R132, R147, R241, R254, R280: MATRIX_COMMAND, VECTOR_COMMAND, SEQUENCER_COMMAND,
CHAIN_START_COMMAND and PASS_WAIT_COMMAND complete for a command that passes its checks and meets no running command's extent: it starts
now, the array and the vector engine with the bank that is active once a requested swap has taken effect, the vector engine with all its
registers 0 but A1 to A7, the sequencer with its accumulators 0, a chain at its first descriptor, a Pass wait with its arrival made and its
deadline set.
R76, R79: a command reserved for its engine whose CHECK does not hold is not run: its outcome is BAD_CHECK, the engine's count
of refusals rises by one, and memory stays as it was. -/
def Obligations.CommandsAreCheckedAndStart : Prop :=
  ((∀ (n : StallId) (q : QueueId) (e : QEntry) (w : MxRow) (s : State), s.reservedEntry n .matrix = some (q, e) →
    e.desc.opclass ≠ 4 → mxRefusal e.bytes (s.queue q).cls = none →
    mxRow (mxOf e.bytes).mode (mxOf e.bytes).fa (mxOf e.bytes).fb = some w →
    (s.stall n).holds50 .matrix (mxExtents (mxOf e.bytes) w) = false →
    ∃ t r, exec (.matrixCommand n) s = .next t ∧ (t.stall n).matrix = .running r (s.stall n).rqSwapEffect.rqActive ∧ r.outcome = none ∧
      r.desc = e.bytes.take 64 ∧ r.q = q ∧ r.idx = e.idx ∧ r.start = s.now ∧ t.entry q e.idx = some { e with start := s.now } ∧
      t.mem = s.mem ∧ OtherStalls n s t) ∧
  (∀ (n : StallId) (q : QueueId) (e : QEntry) (s : State), s.reservedEntry n .vector = some (q, e) →
    vecRefusal e.bytes (s.queue q).cls = none → (s.stall n).holds50 .vector (progExtents (progOf e.bytes) 8) = false →
    ∃ t r x, exec (.vectorCommand n) s = .next t ∧ (t.stall n).vec = .running r x ∧ r.outcome = none ∧ r.q = q ∧ r.idx = e.idx ∧
      x.pc = 0 ∧ x.loops = [] ∧ (∀ i j, vget (vget x.v i) j = 0) ∧ (∀ i, vget x.k i = 0) ∧ x.bank = (s.stall n).sfSwapEffect.sfActive ∧
      x.flush = (s.stall n).vecFlush ∧ vget x.a 0 = 0 ∧ vget x.a 1 = BitVec.ofNat 32 (progOf e.bytes).rdBase ∧
      vget x.a 2 = BitVec.ofNat 32 (progOf e.bytes).wrBase ∧ t.entry q e.idx = some { e with start := s.now } ∧ t.mem = s.mem ∧
      OtherStalls n s t) ∧
  (∀ (n : StallId) (q : QueueId) (e : QEntry) (s : State), s.reservedEntry n .sequencer = some (q, e) →
    seqRefusal e.bytes (s.queue q).cls = none → (s.stall n).holds50 .sequencer (progExtents (progOf e.bytes) 4) = false →
    ∃ t r x, exec (.sequencerCommand n) s = .next t ∧ (t.stall n).seq = .running r x ∧ r.outcome = none ∧ r.q = q ∧
      r.idx = e.idx ∧ x.pc = 0 ∧ (∀ a, vget x.acc a = 0) ∧ x.late = [] ∧ x.branch = none ∧
      vget x.ix 0 = BitVec.ofNat 16 (((progOf e.bytes).rdBase - 0x150000) / 4) ∧ t.entry q e.idx = some { e with start := s.now } ∧ t.mem = s.mem ∧
      OtherStalls n s t) ∧
  (∀ (n : StallId) (d : StreamId) (q : QueueId) (i : Fin 4096) (e : QEntry) (s : State),
    (vget (s.stall n).streams d).reserved = some (q, i) → s.entry q i = some e → chainRefusal e.bytes (s.queue q).cls = none →
    (vget (s.stall n).streams d).chain = none → (vget (s.stall n).streams d).shadow = none →
    (s.stall n).holds50 (.dma d) (runningExtents (.dma d) (newRunning s.now q e none [] none)) = false →
    ∃ t c, exec (.chainStartCommand n d) s = .next t ∧ (vget (t.stall n).streams d).chain = some c ∧ c.phase = .ready ∧
      c.next = bytesNat e.bytes 20 4 ∧ c.localBase = bytesNat e.bytes 28 4 ∧ c.localEnd = bytesNat e.bytes 32 4 ∧
      c.expired = false ∧ c.cls = e.desc.crit ∧ (vget (t.stall n).streams d).reserved = none ∧
      OnlyChanges [.stalls, .qm] s t ∧ OtherStalls n s t) ∧
  (∀ (n : StallId) (q : QueueId) (e : QEntry) (s : State), s.reservedEntry n .matrix = some (q, e) → e.desc.opclass = 4 →
    waitRefusal e.bytes (s.queue q).cls (s.pass (passOf e.desc.passId)).en = none →
    ∃ t r g, exec (.passWaitCommand n) s = .next t ∧
      (t.stall n).matrix = .passWait r (passOf e.desc.passId) g (if bytesNat e.bytes 20 4 = 0 then none else some (s.now + ns (bytesNat e.bytes 20 4))) ∧
      r.outcome = none ∧ t.entry q e.idx = some { e with start := s.now } ∧ t.mem = s.mem ∧ OtherStalls n s t)) ∧
  ((∀ (n : StallId) (q : QueueId) (e : QEntry) (s : State), s.reservedEntry n .matrix = some (q, e) → e.desc.opclass = 0 →
    checkOk e.bytes = false →
    ∃ t r b, exec (.matrixCommand n) s = .next t ∧ (t.stall n).matrix = .running r b ∧ r.outcome = some 4 ∧
      vget (t.stall n).ctr StallCtr.mxRefused.idx = (vget (s.stall n).ctr StallCtr.mxRefused.idx).add 1 ∧
      OnlyChanges [.stalls, .host, .dev] s t ∧ OtherStalls n s t) ∧
  (∀ (n : StallId) (q : QueueId) (e : QEntry) (s : State), s.reservedEntry n .vector = some (q, e) → checkOk e.bytes = false →
    ∃ t r x, exec (.vectorCommand n) s = .next t ∧ (t.stall n).vec = .running r x ∧ r.outcome = some 4 ∧
      vget (t.stall n).ctr StallCtr.vecRefused.idx = (vget (s.stall n).ctr StallCtr.vecRefused.idx).add 1 ∧
      OnlyChanges [.stalls, .host, .dev] s t ∧ OtherStalls n s t) ∧
  (∀ (n : StallId) (q : QueueId) (e : QEntry) (s : State), s.reservedEntry n .sequencer = some (q, e) → checkOk e.bytes = false →
    ∃ t r x, exec (.sequencerCommand n) s = .next t ∧ (t.stall n).seq = .running r x ∧ r.outcome = some 4 ∧
      vget (t.stall n).ctr StallCtr.seqRefused.idx = (vget (s.stall n).ctr StallCtr.seqRefused.idx).add 1 ∧
      OnlyChanges [.stalls, .host, .dev] s t ∧ OtherStalls n s t) ∧
  (∀ (n : StallId) (d : StreamId) (q : QueueId) (i : Fin 4096) (e : QEntry) (s : State),
    (vget (s.stall n).streams d).reserved = some (q, i) → s.entry q i = some e → checkOk e.bytes = false →
    ∃ t r, exec (.chainStartCommand n d) s = .next t ∧ (vget (t.stall n).streams d).queued = some r ∧ r.outcome = some 4 ∧
      (vget (t.stall n).streams d).chain = (vget (s.stall n).streams d).chain ∧
      OnlyChanges [.stalls, .host, .dev] s t ∧ OtherStalls n s t) ∧
  (∀ (n : StallId) (q : QueueId) (e : QEntry) (s : State), s.reservedEntry n .matrix = some (q, e) → e.desc.opclass = 4 →
    checkOk e.bytes = false →
    ∃ t r p g l, exec (.passWaitCommand n) s = .next t ∧ (t.stall n).matrix = .passWait r p g l ∧ r.outcome = some 4 ∧
      OnlyChanges [.stalls, .host, .dev] s t ∧ OtherStalls n s t))

/-- R71, R73, R145, R266, R273, R280: COMMAND_COMPLETION completes for a vector command that has ended, a matrix command that has run for a
time of R73, and one that has been refused or stopped: it frees the engine, counts the command and retires its entry. Of a sequencer
command that yielded after its issue ac and those in which it was refused, the entry waits again with RESUME, PIN and AFFINITY set. -/
def Obligations.CompletionRetiresOrRequeues : Prop :=
  (∀ (n : StallId) (r : Running) (x : VecRegs) (o : Byte) (ac dry bk : Nat) (res : List BlockResult) (s : State),
    (s.stall n).vec = .running r x → r.ended = some o → o ≠ oYielded →
    ∃ t, exec (.commandCompletion n .vector ac dry bk res) s = .next t ∧ (t.stall n).vec = .idle ∧
      vget (t.stall n).ctr StallCtr.vecCmdCount.idx = (vget (s.stall n).ctr StallCtr.vecCmdCount.idx).add 1 ∧
      (∀ e, t.entry r.q r.idx = some e → e.phase = .retired) ∧ OtherStalls n s t) ∧
  (∀ (n : StallId) (r : Running) (x : SeqRegs) (e : QEntry) (ac dry bk : Nat) (res : List BlockResult) (s : State),
    (s.stall n).seq = .running r x → r.ended = some oYielded → s.entry r.q r.idx = some e → ac = x.issue + dry →
    ∃ t e', exec (.commandCompletion n .sequencer ac dry bk res) s = .next t ∧ (t.stall n).seq = .idle ∧
      t.entry r.q r.idx = some e' ∧ e'.phase = .waiting ∧ e'.bytes = setPin n (setResume true e.bytes) ∧ e'.ac = e.ac + (ac + s.heldAc n r.q r.idx) ∧
      e'.flags = e.flags ||| 4 ∧ OtherStalls n s t) ∧
  (∀ (n : StallId) (r : Running) (b : Bool) (o : Byte) (ac dry bk : Nat) (res : List BlockResult) (s : State),
    (s.stall n).matrix = .running r b → r.outcome = some o → o ≠ oYielded →
    ∃ t, exec (.commandCompletion n .matrix ac dry bk res) s = .next t ∧ (t.stall n).matrix = .idle ∧
      (∀ e, t.entry r.q r.idx = some e → e.phase = .retired) ∧ OtherStalls n s t) ∧
  (∀ (n : StallId) (r : Running) (b : Bool) (ac dry bk : Nat) (res : List BlockResult) (s : State),
    (s.stall n).matrix = .running r b → r.outcome = none → r.timeOk ac dry bk = true →
    ∃ t, exec (.commandCompletion n .matrix ac dry bk res) s = .next t ∧ (t.stall n).matrix = .idle ∧
      (∀ e, t.entry r.q r.idx = some e → e.phase = .retired) ∧ OtherStalls n s t)

/-- R20, R78, R107, R148, R375: ITEM_BUDGET_EXPIRY completes once ITEM_BUDGET has passed since the item in hand started: the item's outcome
is PARTIAL, of a vector or sequencer command with ROWS_DONE 0, of a matrix command with the rows that its last whole pass completed;
the command goes on, and TDC_BUDGET counts the event. R25, R270, R489: RESERVE_STALL_LIMIT completes on a background command that started
in the window of a reserve stall and has run there for 5 µs: it is stopped with the outcome PARTIAL.
R272, R273, R274: PREEMPTION completes once a firm entry for the sequencer has waited PREEMPT_DELAY with no engine free for it: it takes
one victim, which is asked by an interrupt, and QM_PREEMPT counts it. REMOTE_ABORT completes: a victim chain whose remote transfer has not
completed within REMOTE_WAIT_MAX gives up its stream, its entry waits again with REMOTE_REQUEUED set, and QM_REMOTE_ABORT counts it. -/
def Obligations.BudgetsAndPreemptionStopCommands : Prop :=
  ((∀ (n : StallId) (r : Running) (x : VecRegs) (stop : StopPoint) (bs : List JudgedBlock) (s : State),
    (s.stall n).vec = .running r x → r.outcome = none → r.item = some stop.item → stop.item < r.results.length →
    (descOf r.desc).budget ≠ 0 → r.itemStart + ns (1000 * (descOf r.desc).budget : Nat) ≤ s.now → (∀ b ∈ bs, b.path ≠ .scheduler) →
    ∃ t r' x', exec (.itemBudgetExpiry n .vector stop.item ⟨stop.passes, stop.fed⟩ bs) s = .next t ∧ (t.stall n).vec = .running r' x' ∧
      r'.results[stop.item]? = some (some (7, 0)) ∧ r'.outcome = none ∧ r'.tdc = true ∧
      (t.devCtr .tdcBudget).live = satAdd (s.devCtr .tdcBudget).live 1 ∧ (bs = [] → t.mem = s.mem) ∧ OtherStalls n s t) ∧
  (∀ (n : StallId) (r : Running) (x : SeqRegs) (stop : StopPoint) (bs : List JudgedBlock) (s : State),
    (s.stall n).seq = .running r x → r.outcome = none → r.item = some stop.item → stop.item < r.results.length →
    x.mayInterrupt = true → (descOf r.desc).budget ≠ 0 → r.itemStart + ns (1000 * (descOf r.desc).budget : Nat) ≤ s.now →
    (∀ b ∈ bs, b.path ≠ .scheduler) →
    ∃ t r' x', exec (.itemBudgetExpiry n .sequencer stop.item ⟨stop.passes, stop.fed⟩ bs) s = .next t ∧ (t.stall n).seq = .running r' x' ∧
      r'.results[stop.item]? = some (some (7, 0)) ∧ r'.outcome = none ∧ r'.tdc = true ∧
      (t.devCtr .tdcBudget).live = satAdd (s.devCtr .tdcBudget).live 1 ∧ (bs = [] → t.mem = s.mem) ∧ OtherStalls n s t) ∧
  (∀ (n : StallId) (r : Running) (b : Bool) (w : MxRow) (it : Item) (stop : StopPoint) (bs : List JudgedBlock) (s : State),
    (s.stall n).matrix = .running r b → r.outcome = none → stop.item < r.results.length → r.results.getD stop.item none = none →
    mxRow (mxOf r.desc).mode (mxOf r.desc).fa (mxOf r.desc).fb = some w → (mxItems (mxOf r.desc) r.items)[stop.item]? = some it →
    (descOf r.desc).budget ≠ 0 →
    s.mxItemStart n r (mxOf r.desc) w stop.item + ns (1000 * (descOf r.desc).budget : Nat) ≤ s.now → (∀ x ∈ bs, x.path ≠ .scheduler) →
    ∃ t r', exec (.itemBudgetExpiry n .matrix stop.item ⟨stop.passes, stop.fed⟩ bs) s = .next t ∧ (t.stall n).matrix = .running r' b ∧
      r'.results[stop.item]? = some (some (7, mxRowsDone (mxOf r.desc) w it.count stop.passes stop.fed)) ∧ r'.outcome = none ∧
      r'.tdc = true ∧ (t.devCtr .tdcBudget).live = satAdd (s.devCtr .tdcBudget).live 1 ∧ OtherStalls n s t) ∧
  (∀ (n : StallId) (r : Running) (x : VecRegs) (w : Reserve) (stop : StopPoint) (s : State), (s.stall n).vec = .running r x →
    r.ended = none → s.window n = some w → (s.queue r.q).cls = 2 → nsOf w.openAt ≤ nsOf r.start → r.start + ns 5000 ≤ s.now →
    ∃ t r', exec (.reserveStallLimit n .vector stop.item ⟨stop.passes, stop.fed⟩) s = .next t ∧ (t.stall n).vec = .running r' x ∧ r'.outcome = some 7 ∧
      t.mem = s.mem ∧ OtherStalls n s t)) ∧
  ((∀ (q : QueueId) (i : Fin 4096) (e : QEntry) (t0 : Int) (n : StallId) (r : Running) (s : State), s.entry q i = some e →
    e.eligibleAt = some t0 → e.phase = .waiting → (s.queue q).cls = 0 → t0 + ns (fld s.qm.timing 15 0 : Nat) ≤ s.now →
    engineOf e.bytes = .sequencer → e.asked = false → s.engineFor q e .sequencer = false →
    s.chooseVictim q e .sequencer = some (n, r) →
    ∃ t, exec (.preemption q i) s = .next t ∧ (t.stall n).irqPending = true ∧
      t.entry q i = some { e with asked := true } ∧
      (t.devCtr .qmPreempt).live = satAdd (s.devCtr .qmPreempt).live 1 ∧ OnlyChanges [.stalls, .qm, .dev] s t ∧ OtherStalls n s t) ∧
  (∀ (n : StallId) (d : StreamId) (ac : Nat) (t0 : Int) (c : Chain) (r : Running) (e : QEntry) (s : State),
    (vget (s.stall n).streams d).preempt = some t0 → (vget (s.stall n).streams d).chain = some c → c.origin = .command r →
    c.remote = true → t0 + ns (remoteWaitUs s.qm.ctrl * 1000 : Nat) ≤ s.now → s.entry r.q r.idx = some e →
    ∃ t e', exec (.remoteAbort n d ac) s = .next t ∧ (vget (t.stall n).streams d).chain = none ∧ t.entry r.q r.idx = some e' ∧
      e'.phase = .waiting ∧ e'.flags = e.flags ||| 1 ∧ e'.ac = e.ac + ac ∧
      (t.devCtr .qmRemoteAbort).live = satAdd (s.devCtr .qmRemoteAbort).live 1 ∧ t.mem = s.mem ∧ OtherStalls n s t))

/-- R96, R97, R131, R132: RQ_TABLE_WRITE, SF_TABLE_WRITE, TABLE_SWAP, SF_SWAP, RQ_SWAP_EFFECT and SF_SWAP_EFFECT complete: a write
to the inactive bank of the requantisation or function store takes effect; one to the active bank is ignored and counted in
TABLE_WRITE_REFUSED; a swap that is requested takes effect while the engine runs nothing. -/
def Obligations.TableWritesAndSwaps : Prop :=
  (∀ (n : StallId) (off : BitVec 16) (v : Word) (s : State), s.domainOn n.val = true → 0x8000 ≤ off.toNat → off.toNat % 4 = 0 →
    decide (0xC000 ≤ off.toNat) ≠ (s.stall n).rqActive → Mem.wf (s.stall n).rqTable = true →
    ∃ t, exec (.rqTableWrite (.stall n) off v) s = .next t ∧ (t.stall n).rqRead off.toNat = v ∧
      (∀ a, a < off.toNat - 0x8000 ∨ off.toNat - 0x8000 + 4 ≤ a → memByte (t.stall n).rqTable a = memByte (s.stall n).rqTable a) ∧
      OnlyChanges [.stalls] s t ∧ OtherStalls n s t) ∧
  (∀ (n : StallId) (off : BitVec 16) (v : Word) (s : State), s.domainOn n.val = true → 0x8000 ≤ off.toNat →
    decide (0xC000 ≤ off.toNat / 4 * 4) = (s.stall n).rqActive →
    ∃ t, exec (.rqTableWrite (.stall n) off v) s = .next t ∧ (t.stall n).rqTable = (s.stall n).rqTable ∧
      vget (t.stall n).ctr StallCtr.tableWriteRefused.idx = (vget (s.stall n).ctr StallCtr.tableWriteRefused.idx).add 1 ∧
      OnlyChanges [.stalls] s t ∧ OtherStalls n s t) ∧
  (∀ (n : StallId) (off : BitVec 12) (v : Word) (s : State), s.domainOn n.val = true →
    (s.stall n).sfWin.getLsbD 4 = (s.stall n).sfActive →
    ∃ t, exec (.sfTableWrite (.stall n) off v) s = .next t ∧ (t.stall n).sfTable = (s.stall n).sfTable ∧
      vget (t.stall n).ctr StallCtr.tableWriteRefused.idx = (vget (s.stall n).ctr StallCtr.tableWriteRefused.idx).add 1 ∧
      OnlyChanges [.stalls] s t ∧ OtherStalls n s t) ∧
  (∀ (n : StallId) (off : BitVec 12) (v : Word) (s : State), s.domainOn n.val = true → off.toNat % 4 = 0 →
    (s.stall n).sfWin.getLsbD 4 ≠ (s.stall n).sfActive → SfOk (s.stall n) →
    ∃ t, exec (.sfTableWrite (.stall n) off v) s = .next t ∧ (t.stall n).sfRead off.toNat = v ∧
      OnlyChanges [.stalls] s t ∧ OtherStalls n s t) ∧
  (∀ (w : Window) (v : Word) (s : State), ∃ t, exec (.tableSwap w v) s = .next t ∧ OnlyChanges [.stalls] s t ∧
    ∀ n, t.stall n = if n ∈ Window.stalls w ∧ s.domainOn n.val = true then
      { s.stall n with rqPending := (s.stall n).rqPending || wbit v 2 } else s.stall n) ∧
  (∀ (w : Window) (v : Word) (s : State), ∃ t, exec (.sfSwap w v) s = .next t ∧ OnlyChanges [.stalls] s t ∧
    ∀ n, t.stall n = if n ∈ Window.stalls w ∧ s.domainOn n.val = true then
      { s.stall n with sfPending := (s.stall n).sfPending || wbit v 2 } else s.stall n) ∧
  (∀ (n : StallId) (s : State), ∃ t, exec (.rqSwapEffect n) s = .next t ∧
    t.stall n = (if (s.stall n).rqPending = true ∧ (s.stall n).running .matrix = none then
      { s.stall n with rqActive := !(s.stall n).rqActive, rqPending := false } else s.stall n) ∧
    OnlyChanges [.stalls] s t ∧ OtherStalls n s t) ∧
  (∀ (n : StallId) (s : State), ∃ t, exec (.sfSwapEffect n) s = .next t ∧
    t.stall n = (if (s.stall n).sfPending = true ∧ (s.stall n).running .vector = none then
      { s.stall n with sfActive := !(s.stall n).sfActive, sfPending := false } else s.stall n) ∧
    OnlyChanges [.stalls] s t ∧ OtherStalls n s t)

/-- VEC_LD, VEC_ST, VEC_LDR, VEC_LOOP, VEC_ADDI and VEC_ADDM complete (R109, R110, R104, R106, R108): the loads, stores and
control of the vector engine. LD, LDR and ST stop the command with OUT_OF_EXTENT outside the command's extents. -/
def Obligations.VectorLoadsStoresAndControl : Prop :=
  ∀ (s : State) (n : StallId) (r : Running) (x : VecRegs) (k : Nat) (f : VecInstr), VecAt s n r x k f → f.type < 4 →
    let p := progOf r.desc
    let m := stallView s.mem n
    let a := (x.areg f.ab).toNat + bitsOf f.imm 11 0 * 16
    let row := fun j => a + j * (bitsOf f.imm 23 12 * 16)
    (f.op = 0x00 → (∀ j i, j < 16 → i < 64 → vecReadable p (row j + i) = true) →
      VecDoes (.vecLd n) s n r k (TileOnly f x fun i => BitVec.ofNat 32 (memNat m (row (i / 16) + 4 * (i % 16)) 4))) ∧
    (f.op = 0x00 → (∃ j i, j < 16 ∧ i < 64 ∧ vecReadable p (row j + i) = false) → VecStops (.vecLd n) s n r k oOutOfExtent) ∧
    (f.op = 0x01 → (∀ j, j < 16 → p.wrBase ≤ row j ∧ row j + 64 ≤ p.wrEnd) →
      ∃ t r', exec (.vecSt n) s = .next t ∧ VecGoes t n r' k x ∧ r' = { r with itemLog := r'.itemLog } ∧
        Stored n (((List.range 256).filter (x.active f)).map fun i =>
          (row (i / 16) + 4 * (i % 16), natLE 4 (tget (x.tile f.vd) i).toNat)) s t ∧
        OnlyChanges [.stalls, .mem] s t ∧ OtherStalls n s t) ∧
    (f.op = 0x01 → (∃ j, j < 16 ∧ ¬(p.wrBase ≤ row j ∧ row j + 64 ≤ p.wrEnd)) → VecStops (.vecSt n) s n r k oOutOfExtent) ∧
    (f.op = 0x02 → (∀ i, i < 64 → vecReadable p (a + i) = true) →
      VecDoes (.vecLdr n) s n r k (TileOnly f x fun i => BitVec.ofNat 32 (memNat m (a + 4 * (i % 16)) 4))) ∧
    (f.op = 0x02 → (∃ i, i < 64 ∧ vecReadable p (a + i) = false) → VecStops (.vecLdr n) s n r k oOutOfExtent) ∧
    (f.op = 0x08 → x.pc + bitsOf f.imm 21 16 + 1 < p.len → x.loops.length < 2 →
      (∀ l ∈ x.loops, x.pc + bitsOf f.imm 21 16 + 1 ≤ l.last) →
      VecDoes (.vecLoop n) s n r k fun y =>
        if bitsOf f.imm 15 0 = 0 then y = { x with pc := x.pc + bitsOf f.imm 21 16 + 1 }
        else y = { x with loops := ⟨x.pc + 1, x.pc + bitsOf f.imm 21 16 + 1, bitsOf f.imm 15 0⟩ :: x.loops }) ∧
    (f.op = 0x08 → (2 ≤ x.loops.length ∨ p.len ≤ x.pc + bitsOf f.imm 21 16 + 1) → VecStops (.vecLoop n) s n r k oBadInstr) ∧
    (f.op = 0x09 → VecDoes (.vecAddi n) s n r k fun y =>
      (f.ab % 8 = 0 → y = x) ∧ (f.ab % 8 ≠ 0 → y = { x with a := vset x.a (maskIx f.ab) (vget x.a (maskIx f.ab) +
        BitVec.ofInt 32 (16 * signed 24 f.imm)) })) ∧
    (f.op = 0x0A → VecDoes (.vecAddm n) s n r k fun y =>
      (f.ab % 8 = 0 → y = x) ∧ (f.ab % 8 ≠ 0 → y = { x with a := vset x.a (maskIx f.ab) (vget x.a (maskIx f.ab) +
        x.areg (f.va % 8) * BitVec.ofNat 32 (bitsOf f.imm 15 0 * 16)) }))

/-- VEC_ADD, VEC_SUB, VEC_MUL, VEC_FMA, VEC_MIN, VEC_MAX, VEC_ABS, VEC_NEG, VEC_SHL, VEC_SHR, VEC_CVT, VEC_CONJ and VEC_MAG2
complete (R109, R111, R112, R113, R114, R127): the arithmetic of the vector engine on the active elements. Integer results are
exact, then saturated to 32 bits, or wrapped with WRAP; FP32 results are rounded once and flushed; a TYPE that the row does not
have stops the command with BAD_INSTR. -/
def Obligations.VectorArithmetic : Prop :=
  ∀ (s : State) (n : StallId) (r : Running) (x : VecRegs) (k : Nat) (f : VecInstr), VecAt s n r x k f → f.type < 4 →
    let A := fun i => tget (x.tile f.va) i
    let B := fun i => tget (x.tile f.vb) i
    let C := fun i => tget (x.tile f.vc) i
    let re := fun i => i / 2 * 2
    let im := fun i => i / 2 * 2 + 1
    let I := fun (v : Int) => fit32 f.wrap v
    let F := fun (w : Word) => flush x.flush w
    (f.op = 0x10 → VecDoes (.vecAdd n) s n r k (TileOnly f x fun i =>
      if f.type % 2 = 0 then I ((A i).toInt + (B i).toInt) else F (fadd (A i) (B i)))) ∧
    (f.op = 0x11 → VecDoes (.vecSub n) s n r k (TileOnly f x fun i =>
      if f.type % 2 = 0 then I ((A i).toInt - (B i).toInt) else F (fsub (A i) (B i)))) ∧
    (f.op = 0x12 → VecDoes (.vecMul n) s n r k (TileOnly f x fun i =>
      if f.type = 0 then I ((A i).toInt * (B i).toInt)
      else if f.type = 1 then F (fmul (A i) (B i))
      else if f.type = 2 then
        (if i % 2 = 0 then I ((A (re i)).toInt * (B (re i)).toInt - (A (im i)).toInt * (B (im i)).toInt)
         else I ((A (re i)).toInt * (B (im i)).toInt + (A (im i)).toInt * (B (re i)).toInt))
      else if i % 2 = 0 then F (fdot true (A (re i)) (B (re i)) (A (im i)) (B (im i)))
      else F (fdot false (A (re i)) (B (im i)) (A (im i)) (B (re i))))) ∧
    (f.op = 0x13 → f.type ≤ 1 → VecDoes (.vecFma n) s n r k (TileOnly f x fun i =>
      if f.type = 0 then I ((A i).toInt * (B i).toInt + (C i).toInt) else F (ffma (A i) (B i) (C i)))) ∧
    (f.op = 0x14 → f.type ≤ 1 → VecDoes (.vecMin n) s n r k (TileOnly f x fun i =>
      if f.type = 0 then (if (A i).toInt ≤ (B i).toInt then A i else B i) else F (fminmax false (A i) (B i)))) ∧
    (f.op = 0x15 → f.type ≤ 1 → VecDoes (.vecMax n) s n r k (TileOnly f x fun i =>
      if f.type = 0 then (if (B i).toInt ≤ (A i).toInt then A i else B i) else F (fminmax true (A i) (B i)))) ∧
    (f.op = 0x16 → f.type ≤ 1 → VecDoes (.vecAbs n) s n r k (TileOnly f x fun i =>
      if f.type = 0 then I (if (A i).toInt < 0 then -(A i).toInt else (A i).toInt) else F (fabs (A i)))) ∧
    (f.op = 0x17 → f.type ≤ 1 → VecDoes (.vecNeg n) s n r k (TileOnly f x fun i =>
      if f.type = 0 then I (-(A i).toInt) else F (fneg (A i)))) ∧
    (f.op = 0x18 → f.type ≤ 1 → VecDoes (.vecShl n) s n r k (TileOnly f x fun i =>
      I ((A i).toInt * 2 ^ ((B i).toNat % 256)))) ∧
    (f.op = 0x19 → f.type ≤ 1 → VecDoes (.vecShr n) s n r k (TileOnly f x fun i =>
      BitVec.ofInt 32 ((A i).toInt / 2 ^ ((B i).toNat % 256)))) ∧
    (f.op = 0x1E → f.type ≤ 1 → VecDoes (.vecCvt n) s n r k (TileOnly f x fun i =>
      if f.type = 0 then BitVec.ofInt 32 (fToInt (-2147483648) 2147483647 (A i)) else intToF (A i).toInt)) ∧
    (f.op = 0x1F → bitOf f.imm 0 = false → 2 ≤ f.type → VecDoes (.vecConj n) s n r k (TileOnly f x fun i =>
      if f.type = 2 then (if i % 2 = 0 then A i else I (-(A i).toInt))
      else F (if i % 2 = 0 then (if (fv (A i)).isNan then fnan else A i) else fneg (A i)))) ∧
    (f.op = 0x1F → bitOf f.imm 0 = true → 2 ≤ f.type → VecDoes (.vecMag2 n) s n r k (TileOnly f x fun i =>
      if f.type = 2 then I ((A (re i)).toInt * (A (re i)).toInt + (A (im i)).toInt * (A (im i)).toInt)
      else F (fdot false (A (re i)) (A (re i)) (A (im i)) (A (im i))))) ∧
    (∀ p ∈ [(0x13, Instr.vecFma n), (0x14, .vecMin n), (0x15, .vecMax n), (0x16, .vecAbs n), (0x17, .vecNeg n),
      (0x18, .vecShl n), (0x19, .vecShr n), (0x1E, .vecCvt n)], f.op = p.1 → 2 ≤ f.type → VecStops p.2 s n r k oBadInstr) ∧
    (f.op = 0x1F → f.type ≤ 1 → VecStops (if bitOf f.imm 0 then .vecMag2 n else .vecConj n) s n r k oBadInstr)

/-- VEC_AND, VEC_OR, VEC_XOR, VEC_SEL, VEC_CMP, VEC_MOP, VEC_MSET, VEC_MLEN, VEC_SHUF, VEC_PERM, VEC_TRANS, VEC_PACK, VEC_UNPACK
and VEC_MOV complete (R109, R114, R115, R116, R103): the bitwise operations, the masks and the moves of the vector engine. -/
def Obligations.VectorBitsMasksAndMoves : Prop :=
  ∀ (s : State) (n : StallId) (r : Running) (x : VecRegs) (k : Nat) (f : VecInstr), VecAt s n r x k f → f.type < 4 →
    let A := fun i => tget (x.tile f.va) i
    let B := fun i => tget (x.tile f.vb) i
    let fmt := bitsOf f.imm 3 0
    let pos := bitsOf f.imm 9 4
    (f.op = 0x1A → VecDoes (.vecAnd n) s n r k (TileOnly f x fun i => A i &&& B i)) ∧
    (f.op = 0x1B → VecDoes (.vecOr n) s n r k (TileOnly f x fun i => A i ||| B i)) ∧
    (f.op = 0x1C → VecDoes (.vecXor n) s n r k (TileOnly f x fun i => A i ^^^ B i)) ∧
    (f.op = 0x1D → VecDoes (.vecSel n) s n r k fun y => y = { x with v := vset x.v (tileIx f.vd) (y.tile f.vd) } ∧
      ∀ i, i < 256 → tget (y.tile f.vd) i = if (x.mask f.msel).getLsbD i then A i else B i) ∧
    (f.op = 0x28 → f.type ≤ 1 → bitsOf f.imm 2 0 ≤ 5 → VecDoes (.vecCmp n) s n r k (MaskOnly f x fun i => x.active f i &&
      (if f.type = 1 then fcmp (bitsOf f.imm 2 0) (A i) (B i) else
        match bitsOf f.imm 2 0 with
        | 0 => decide ((A i).toInt < (B i).toInt) | 1 => decide ((A i).toInt ≤ (B i).toInt)
        | 2 => decide (A i = B i) | 3 => decide (A i ≠ B i)
        | 4 => decide ((B i).toInt < (A i).toInt) | _ => decide ((B i).toInt ≤ (A i).toInt)))) ∧
    (f.op = 0x28 → (2 ≤ f.type ∨ 5 < bitsOf f.imm 2 0) → VecStops (.vecCmp n) s n r k oBadInstr) ∧
    (f.op = 0x29 → VecDoes (.vecMop n) s n r k (MaskOnly f x fun i =>
      let a := (x.mask f.va).getLsbD i
      let b := (x.mask f.vb).getLsbD i
      match bitsOf f.imm 1 0 with | 0 => a && b | 1 => a || b | 2 => a ^^ b | _ => a && !b)) ∧
    (f.op = 0x2A → VecDoes (.vecMset n) s n r k (MaskOnly f x fun i => bitOf (bitsOf f.imm 15 0) (i % 16))) ∧
    (f.op = 0x2B → VecDoes (.vecMlen n) s n r k (MaskOnly f x fun i => decide (i % 16 < min (bitsOf f.imm 4 0) 16))) ∧
    (f.op = 0x30 → bitsOf f.imm 1 0 ≠ 3 → VecDoes (.vecShuf n) s n r k (TileOnly f x fun i =>
      let g := fun j => match bitsOf f.imm 1 0 with
        | 0 => Nat.xor j (bitsOf f.imm 7 4) | 1 => (j + bitsOf f.imm 7 4) % 16 | _ => bitsOf f.imm 7 4
      if bitOf f.imm 2 then A (16 * g (i / 16) + i % 16) else A (16 * (i / 16) + g (i % 16)))) ∧
    (f.op = 0x31 → VecDoes (.vecPerm n) s n r k (TileOnly f x fun i => if (B i).toNat < 256 then A (B i).toNat else 0)) ∧
    (f.op = 0x32 → VecDoes (.vecTrans n) s n r k (TileOnly f x fun i => A (16 * (i % 16) + i / 16))) ∧
    (f.op = 0x35 → VecDoes (.vecMov n) s n r k (TileOnly f x A)) ∧
    (∀ w, f.op = 0x34 → f.type ≤ 1 → laneBits fmt = some w → pos < 32 / w →
      VecDoes (.vecUnpack n) s n r k (TileOnly f x fun i =>
        unpackLane fmt w (rowBits (x.tile f.va) (i / 16) / 2 ^ (w * (16 * pos + i % 16)) % 2 ^ w))) ∧
    (∀ w, f.op = 0x33 → f.type ≤ 1 → laneBits fmt = some w → pos < 32 / w →
      VecDoes (.vecPack n) s n r k fun y => y = { x with v := vset x.v (tileIx f.vd) (y.tile f.vd) } ∧
        ((∀ i, i < 256 → x.active f i = true) → ∀ j l, j < 16 → l < 16 →
          rowBits (y.tile f.vd) j / 2 ^ (w * (16 * pos + l)) % 2 ^ w =
            packLane fmt w (f.type == 1) f.wrap (A (16 * j + l)))) ∧
    (∀ p ∈ [(0x33, Instr.vecPack n), (0x34, .vecUnpack n)], f.op = p.1 →
      (2 ≤ f.type ∨ laneBits fmt = none ∨ ∃ w, laneBits fmt = some w ∧ 32 / w ≤ pos) → VecStops p.2 s n r k oBadInstr)

/-- VEC_RED, VEC_FUNC, VEC_FBAS, VEC_NORM, VEC_SOFTMAX, VEC_QBS, VEC_QRANGE, VEC_QPARAM and VEC_QAPPLY complete (R117, R118, R119,
R120, R121, R123, R125, R129, R130): reductions, functions, normalisation and quantisation of the vector engine. An empty
reduction or row sets its bit of the mask and is counted in VEC_EMPTY_COUNT; the bad-scale rule of R90 is counted in
QUANT_BAD_SCALE. -/
def Obligations.VectorRowsFunctionsAndQuantisation : Prop :=
  ∀ (s : State) (n : StallId) (r : Running) (x : VecRegs) (k : Nat) (f : VecInstr), VecAt s n r x k f → f.type ≤ 1 →
    let A := fun i => tget (x.tile f.va) i
    let B := fun i => tget (x.tile f.vb) i
    let C := fun i => tget (x.tile f.vc) i
    let F := fun (w : Word) => flush x.flush w
    let fmt := bitsOf f.imm 3 0
    let fn := (s.stall n).fnTable x.bank
    (f.op = 0x38 → bitsOf f.imm 3 0 ≤ 7 → bitsOf f.imm 5 4 ≤ 2 → VecDoes (.vecRed n) s n r k fun y =>
      y.a = x.a ∧ y.pc = x.pc ∧ y.loops = x.loops ∧
      (∀ i, i < 32 → i ≠ f.vd % 32 → y.tile i = x.tile i) ∧ (∀ i, i < 8 → i ≠ f.vc % 8 → y.mask i = x.mask i) ∧
      (∀ i, i < 256 → (match bitsOf f.imm 5 4 with | 0 => i % 16 ≠ 0 | 1 => 16 ≤ i | _ => i ≠ 0) →
        tget (y.tile f.vd) i = 0 ∧ (y.mask f.vc).getLsbD i = false) ∧
      (bitsOf f.imm 5 4 = 0 → bitsOf f.imm 3 0 = 7 → ∀ j, j < 16 →
        tget (y.tile f.vd) (16 * j) = BitVec.ofNat 32 ((List.range 16).countP fun l => x.active f (16 * j + l)) ∧
        ((y.mask f.vc).getLsbD (16 * j) = true ↔ ∀ l, l < 16 → x.active f (16 * j + l) = false)) ∧
      (bitsOf f.imm 5 4 = 0 → bitsOf f.imm 3 0 = 0 → f.type = 0 → ∀ j, j < 16 →
        tget (y.tile f.vd) (16 * j) = treeRed (fun a b => fit32 f.wrap (a.toInt + b.toInt)) 4
          ((List.range 16).map fun l => if x.active f (16 * j + l) then A (16 * j + l) else 0))) ∧
    (f.op = 0x40 → VecDoes (.vecFunc n) s n r k (TileOnly f x fun i => F (fnEval fn (bitsOf f.imm 3 0) (A i)))) ∧
    (f.op = 0x41 → bitsOf f.imm 4 0 ≤ 17 → VecDoes (.vecFbas n) s n r k (TileOnly f x fun i =>
      let j := if bitOf f.imm 5 then i % 16 else i
      let v := fadd (if f.type = 0 then intToF (A i).toInt else A i) (B j)
      F (fmul (if bitsOf f.imm 4 0 = 16 then v
        else if bitsOf f.imm 4 0 = 17 then (if (fv v).isNan then fnan else if flt true 0 v then v else 0)
        else fnEval fn (bitsOf f.imm 4 0) v) (C j)))) ∧
    (f.op = 0x48 → f.va + 2 ^ bitsOf f.imm 17 16 ≤ 32 → f.vd + 2 ^ bitsOf f.imm 17 16 ≤ 32 →
      ∃ t y, exec (.vecNorm n) s = .next t ∧ VecGoes t n r k y ∧ y.a = x.a ∧ y.pc = x.pc ∧ t.mem = s.mem ∧
        (∀ i, i < 32 → i ≠ f.vc % 32 → ¬(f.vd ≤ i ∧ i < f.vd + 2 ^ bitsOf f.imm 17 16) → y.tile i = x.tile i) ∧
        (∀ j, j < 16 → tget (y.tile f.vc) (16 * j) = (normRow ⟨stallView s.mem n, progOf r.desc, fn, fun _ => 0⟩ f x j).2.1 ∧
          tget (y.tile f.vc) (16 * j + 1) = (normRow ⟨stallView s.mem n, progOf r.desc, fn, fun _ => 0⟩ f x j).2.2.1 ∧
          tget (y.tile f.vc) (16 * j + 2) = (normRow ⟨stallView s.mem n, progOf r.desc, fn, fun _ => 0⟩ f x j).2.2.2.1 ∧
          ((y.mask f.vc).getLsbD (16 * j) = true ↔ ∀ l, l < 16 → x.active f (16 * j + l) = false)) ∧
        OnlyChanges [.stalls] s t ∧ OtherStalls n s t) ∧
    (f.op = 0x49 → f.va + 2 ^ bitsOf f.imm 17 16 ≤ 32 → f.vd + 2 ^ bitsOf f.imm 17 16 ≤ 32 →
      ∃ t y, exec (.vecSoftmax n) s = .next t ∧ VecGoes t n r k y ∧ y.a = x.a ∧ y.pc = x.pc ∧ t.mem = s.mem ∧
        (∀ i, i < 32 → ¬(f.vd ≤ i ∧ i < f.vd + 2 ^ bitsOf f.imm 17 16) → y.tile i = x.tile i) ∧
        (∀ j l, j < 16 → l < 16 * 2 ^ bitsOf f.imm 17 16 → (∀ i, i < 16 → x.active f (16 * j + i) = false) →
          tget (y.tile (f.vd + l / 16)) (16 * j + l % 16) = 0 ∧ (y.mask f.vc).getLsbD (16 * j) = true) ∧
        OnlyChanges [.stalls] s t ∧ OtherStalls n s t) ∧
    (f.op = 0x50 → (fmt = fmtBs8 ∨ fmt = fmtBs4) → VecDoes (.vecQbs n) s n r k fun y =>
      y.a = x.a ∧ y.k = x.k ∧ y.pc = x.pc ∧ (∀ i, i < 32 → i ≠ f.vd % 32 → i ≠ f.vc % 32 → y.tile i = x.tile i) ∧
      ∀ b j, b < 8 → j < 32 →
        let q := qbsBlock (if fmt = fmtBs8 then 127 else 7) (B 0) ((List.range 32).map fun i => A (32 * b + i))
        (f.vd % 32 ≠ f.vc % 32 → tget (y.tile f.vd) (32 * b + j) = BitVec.ofInt 32 (q.2.1.getD j 0)) ∧
        tget (y.tile f.vc) b = BitVec.ofNat 32 q.1) ∧
    (f.op = 0x50 → (fmt = fmtBs8 ∨ fmt = fmtBs4) → ∃ t, exec (.vecQbs n) s = .next t ∧
      vget (t.stall n).ctr StallCtr.quantBadScale.idx = (vget (s.stall n).ctr StallCtr.quantBadScale.idx).add
        ((List.range 8).countP fun b =>
          (qbsBlock (if fmt = fmtBs8 then 127 else 7) (B 0) ((List.range 32).map fun i => A (32 * b + i))).2.2)) ∧
    (f.op = 0x38 → bitsOf f.imm 3 0 ≤ 7 → bitsOf f.imm 5 4 = 0 → ∃ t, exec (.vecRed n) s = .next t ∧
      vget (t.stall n).ctr StallCtr.vecEmptyCount.idx = (vget (s.stall n).ctr StallCtr.vecEmptyCount.idx).add
        ((List.range 16).countP fun j => (List.range 16).all fun l => !x.active f (16 * j + l))) ∧
    (f.op = 0x51 → VecDoes (.vecQrange n) s n r k fun y =>
      y = { x with v := vset x.v (tileIx f.vd) (y.tile f.vd) } ∧
      ∀ l, l < 16 → (∀ j, j < 16 → x.active f (16 * j + l) = false) → ∀ i, i < 3 → (i = 2 ∨ C (32 + l) ≠ 0) →
        tget (y.tile f.vd) (16 * i + l) = C (16 * i + l)) ∧
    (f.op = 0x52 → fmt ≤ 1 → VecDoes (.vecQparam n) s n r k fun y =>
      y = { x with v := vset x.v (tileIx f.vd) (y.tile f.vd) } ∧
      ∀ l, l < 16 →
        let q := if A (32 + l) = 0 then qparamOf (fmt == 1) 0 0 else qparamOf (fmt == 1) (A l) (A (16 + l))
        tget (y.tile f.vd) l = q.1 ∧ tget (y.tile f.vd) (16 + l) = q.2) ∧
    (f.op = 0x53 → fmt ≤ 1 → VecDoes (.vecQapply n) s n r k fun y =>
      y = { x with v := vset x.v (tileIx f.vd) (y.tile f.vd) } ∧
      ∀ i q, i < 256 → qapplyOf (fmt == 1) (B (i % 16)) (B (16 + i % 16)) (A i) = some q →
        tget (y.tile f.vd) i = BitVec.ofInt 32 q)

/-- SEQ_NOP, SEQ_HALT, SEQ_JMP, SEQ_JZ, SEQ_JNZ, SEQ_LOOP, SEQ_LOOPX, SEQ_RETI, SEQ_EI and SEQ_DI complete (R141, R142, R143,
R149): the control instructions of the sequencer. A taken branch reaches its target after two delay slots; LOOP enters a loop of
the next b instructions, or skips them when the count is 0; a branch or loop in a delay slot or at the end of a loop body stops
the command with BAD_INSTR. HALT 0 ends the item as DONE, HALT 1 the command as YIELDED.
SEQ_IRQ_RAISE and SEQ_IRQ_TAKEN complete (R147, R149, R150): a write to SEQ_IRQ through a window leaves one request pending at
each stall of the window that runs a sequencer command and clears TAKEN where its bit 2 is 1; a request is taken at an instruction
boundary outside the shadow with IRQ_EN and IE set: IPC, ISTAT, IE and the loop depth are as R149 says, and the run goes on at
IRQ_VEC. -/
def Obligations.SequencerControlAndInterrupt : Prop :=
  (∀ (s : State) (n : StallId) (r : Running) (x : SeqRegs) (k c : Nat) (w : Word), SeqAt s n r x k c w →
    (c = 0 → SeqDoes (.seqNop n) s n r x [] [] false) ∧
    (c = 8 → SeqDoes (.seqEi n) s n r { x with sqst := x.sqst ||| 0x10, shadow := 3 } [] [] false) ∧
    (c = 9 → SeqDoes (.seqDi n) s n r { x with sqst := x.sqst &&& 0x2F, shadow := 3 } [] [] false) ∧
    (∀ t, x.branch = none → x.atLoopEnd = false →
      c = 2 → SeqDoes (.seqJmp n t) s n r { x with branch := some (3, t.toNat) } [] [] false) ∧
    (∀ i t, x.branch = none → x.atLoopEnd = false → vget x.ix i = 0 →
      (c = 3 → SeqDoes (.seqJz n i t) s n r { x with branch := some (3, t.toNat) } [] [] false) ∧
      (c = 4 → SeqDoes (.seqJnz n i t) s n r x [] [] false)) ∧
    (∀ i t, x.branch = none → x.atLoopEnd = false → vget x.ix i ≠ 0 →
      (c = 3 → SeqDoes (.seqJz n i t) s n r x [] [] false) ∧
      (c = 4 → SeqDoes (.seqJnz n i t) s n r { x with branch := some (3, t.toNat) } [] [] false)) ∧
    (x.branch = none → x.atLoopEnd = false → c = 7 →
      SeqDoes (.seqReti n) s n r { x with branch := some (3, x.ipc.toNat) }
        [lateReg 23 (x.istat &&& 0x3F).toInt 3, lateReg 22 ((x.istat >>> 6) &&& 3).toInt 3] [] false) ∧
    (∀ b m (i : Fin 8), x.branch = none → x.atLoopEnd = false → x.depth < 2 → 1 ≤ b → b ≤ 256 →
      let into := fun (q : Nat) => if q = 0 then { x with pc := x.pc + b } else
        { x with ls := vset x.ls (ix2 x.depth) (BitVec.ofNat 16 (x.pc + 1)), le := vset x.le (ix2 x.depth) (BitVec.ofNat 16 (x.pc + b)),
                 lc := vset x.lc (ix2 x.depth) (BitVec.ofNat 16 q), lstat := BitVec.ofNat 16 (x.depth + 1), shadow := 3,
                 cache := x.openCache (x.pc + 1) (x.pc + b) }
      (c = 5 → SeqDoes (.seqLoop n b m) s n r (into m) [] [] false) ∧
      (c = 6 → SeqDoes (.seqLoopx n b i) s n r (into (vget x.ix i).toNat) [] [] false)) ∧
    (∀ t i b m, (x.branch ≠ none ∨ x.atLoopEnd = true) →
      ∀ j ∈ [(2, Instr.seqJmp n t), (3, .seqJz n i t), (4, .seqJnz n i t), (7, .seqReti n), (5, .seqLoop n b m), (6, .seqLoopx n b i)],
      c = j.1 → SeqStops j.2 s n r k oBadInstr) ∧
    (c = 1 → ∃ t r' y, exec (.seqHalt n true) s = .next t ∧ (t.stall n).seq = .running r' y ∧ r'.outcome = some oYielded ∧
      r'.item = r.item ∧ r'.results = r.results ∧ t.mem = s.mem ∧ OnlyChanges [.stalls] s t ∧ OtherStalls n s t) ∧
    (c = 1 → ∃ t r' y, exec (.seqHalt n false) s = .next t ∧ (t.stall n).seq = .running r' y ∧ r'.outcome = none ∧
      r'.results = r.results.set k (some (oDone, (((r.items.bind (·[k]?)).map (·.count)).getD 0))) ∧ t.mem = s.mem ∧
      OnlyChanges [.stalls] s t ∧ OtherStalls n s t)) ∧
  ((∀ (w : Window) (v : Word) (s : State), ∃ t, exec (.seqIrqRaise w v) s = .next t ∧ OnlyChanges [.stalls] s t ∧
    ∀ n, t.stall n = if n ∈ Window.stalls w ∧ s.domainOn n.val = true then
      { s.stall n with
        irqPending := (s.stall n).irqPending || (wbit v 0 && ((s.stall n).running .sequencer).isSome)
        irqTaken := (s.stall n).irqTaken && !wbit v 2 } else s.stall n) ∧
  (∀ (n : StallId) (r : Running) (x : SeqRegs) (s : State), (s.stall n).seq = .running r x → r.outcome = none →
    r.item ≠ none → (s.stall n).irqPending = true → (progOf r.desc).irqEn = true → x.sqst.getLsbD 4 = true →
    x.branch = none → x.shadow = 0 →
    ∃ t y, exec (.seqIrqTaken n) s = .next t ∧ (t.stall n).seq = .running r y ∧ (t.stall n).irqPending = false ∧
      (t.stall n).irqTaken = true ∧ y.pc = (progOf r.desc).irqVec ∧ y.ipc = BitVec.ofNat 16 x.drain.pc ∧
      y.istat = istatOf x.drain ∧ y.sqst.getLsbD 4 = false ∧ y.lstat = 0 ∧ y.acc = x.drain.acc ∧ y.shadow = 1 ∧
      OnlyChanges [.stalls] s t ∧ OtherStalls n s t))

/-- SEQ_MV, SEQ_MVI, SEQ_ADDI, SEQ_LDS, SEQ_STS, SEQ_LDW, SEQ_STW, SEQ_LDT, SEQ_STT and SEQ_LDC complete (R137, R139, R140, R143,
R147): the moves, loads and stores of the sequencer. An address is [IXn + off8], or [IXn] with a post-modify that moves IXn,
circular where it is bound; a load must lie in the read extent or the save area, a store in the write extent, and outside them the
command stops with OUT_OF_EXTENT. -/
def Obligations.SequencerMovesLoadsAndStores : Prop :=
  ∀ (s : State) (n : StallId) (r : Running) (x : SeqRegs) (k c : Nat) (w : Word), SeqAt s n r x k c w →
    let p := progOf r.desc
    let m := stallView s.mem n
    (c = 17 → ∀ (d : Fin 31) (v : BitVec 16),
      SeqDoes (.seqMvi n (.reg d) v) s n r (if 8 ≤ d.val ∧ d.val < 24 then { x with shadow := 3 } else x)
        [lateReg d v.toInt (seqDistance d false)] [] false) ∧
    (c = 17 → ∀ (a : Fin 4) (v : BitVec 16), SeqDoes (.seqMvi n (.acc a) v) s n r x [lateAcc a v.toInt] [] false) ∧
    (c = 16 → ∀ (d g : Fin 31), SeqDoes (.seqMv n (.reg d) (.reg g)) s n r
      (if 8 ≤ d.val ∧ d.val < 24 then { x with shadow := 3 } else x) [lateReg d (x.reg g) (seqDistance d false)] [] false) ∧
    (c = 16 → ∀ (a : Fin 4) (g : Fin 31), SeqDoes (.seqMv n (.acc a) (.reg g)) s n r x [lateAcc a (x.reg g)] [] false) ∧
    (c = 16 → ∀ (d : Fin 31) (a : Fin 4), SeqDoes (.seqMv n (.reg d) (.acc a)) s n r
      (if 8 ≤ d.val ∧ d.val < 24 then { x with shadow := 3 } else x)
      [lateReg d (clampInt (-8388608) 8388607 (x.accv a)) (seqDistance d false)] []
      (decide (x.accv a < -8388608 ∨ 8388607 < x.accv a))) ∧
    (c = 16 → ∀ d a : Fin 4, SeqDoes (.seqMv n (.acc d) (.acc a)) s n r x
      [lateAcc d (clampInt (-8388608) 8388607 (x.accv a))] [] (decide (x.accv a < -8388608 ∨ 8388607 < x.accv a))) ∧
    (∀ f ad, c = 32 → f = .int24 ∨ f = .ci16 → seqMayLoad p (x.addr ad).1 (fmtWords f) = true → SeqDoes (.seqLds n f ad) s n r x
      ((x.addr ad).2 ++ [lateReg 26 (seqPair m f (x.addr ad).1).1.toInt 2, lateReg 27 (seqPair m f (x.addr ad).1).2.toInt 2]) [] false) ∧
    (∀ f ad, c = 48 → f = .int24 ∨ f = .ci16 → seqMayLoad p (x.addr ad).1 (fmtWords f) = true → SeqDoes (.seqLdt n f ad) s n r x
      ((x.addr ad).2 ++ [lateReg 28 (seqPair m f (x.addr ad).1).1.toInt 2, lateReg 29 (seqPair m f (x.addr ad).1).2.toInt 2]) [] false) ∧
    (∀ f ad, c = 33 → f = .int24 ∨ f = .ci16 → seqMayStore p (x.addr ad).1 (fmtWords f) = true → SeqDoes (.seqSts n f ad) s n r x (x.addr ad).2
      [(seqByte (x.addr ad).1, (seqPairBytes f (vget x.s 0) (vget x.s 1)).1)] (seqPairBytes f (vget x.s 0) (vget x.s 1)).2) ∧
    (∀ f ad, c = 49 → f = .int24 ∨ f = .ci16 → seqMayStore p (x.addr ad).1 (fmtWords f) = true → SeqDoes (.seqStt n f ad) s n r x (x.addr ad).2
      [(seqByte (x.addr ad).1, (seqPairBytes f (vget x.t 0) (vget x.t 1)).1)] (seqPairBytes f (vget x.t 0) (vget x.t 1)).2) ∧
    (∀ d ad, c = 34 → seqMayLoad p (x.addr ad).1 1 = true → SeqDoes (.seqLdw n d ad) s n r
      (if 8 ≤ d.val ∧ d.val < 24 then { x with shadow := 3 } else x)
      ((x.addr ad).2 ++ [lateReg d (seqWord m (x.addr ad).1).toInt (seqDistance d true)]) [] false) ∧
    (∀ (d : Fin 31) ad, c = 35 → seqMayStore p (x.addr ad).1 1 = true → SeqDoes (.seqStw n d ad) s n r x (x.addr ad).2
      [(seqByte (x.addr ad).1, natLE 4 (if 26 ≤ d.val then BitVec.ofInt 32 (x.reg d)
        else (BitVec.ofInt 16 (x.reg d)).setWidth 32 : Word).toNat)] false) ∧
    (∀ inc, c = 50 → seqMayLoad p (vget x.ix 3).toNat 1 = true → SeqDoes (.seqLdc n inc) s n r x
      [lateReg (regIx 3) (x.moved 3 inc.toInt) 1, ⟨.coef, (wordInt24 (seqWord m (vget x.ix 3).toNat)).toInt, 1⟩] [] false) ∧
    (∀ i v, c = 128 → SeqDoes (.seqAddi n i v) s n r x [lateReg (regIx i) (x.moved i v.toInt) 1] [] false) ∧
    (∀ f d ad, (c = 34 → seqMayLoad p (x.addr ad).1 1 = false → SeqStops (.seqLdw n d ad) s n r k oOutOfExtent) ∧
      (c = 50 → ∀ inc, seqMayLoad p (vget x.ix 3).toNat 1 = false → SeqStops (.seqLdc n inc) s n r k oOutOfExtent) ∧
      (f = .int24 ∨ f = .ci16 → seqMayLoad p (x.addr ad).1 (fmtWords f) = false →
        (c = 32 → SeqStops (.seqLds n f ad) s n r k oOutOfExtent) ∧ (c = 48 → SeqStops (.seqLdt n f ad) s n r k oOutOfExtent))) ∧
    (∀ f d ad, (c = 35 → seqMayStore p (x.addr ad).1 1 = false → SeqStops (.seqStw n d ad) s n r k oOutOfExtent) ∧
      (f = .int24 ∨ f = .ci16 → seqMayStore p (x.addr ad).1 (fmtWords f) = false →
        (c = 33 → SeqStops (.seqSts n f ad) s n r k oOutOfExtent) ∧ (c = 49 → SeqStops (.seqStt n f ad) s n r k oOutOfExtent))) ∧
    (∀ b ad, ∀ j ∈ [(32, Instr.seqLds n (.reserved b) ad), (33, .seqSts n (.reserved b) ad), (48, .seqLdt n (.reserved b) ad),
      (49, .seqStt n (.reserved b) ad)], c = j.1 → SeqStops j.2 s n r k oBadInstr)

/-- SEQ_ADD, SEQ_SUB, SEQ_NEG, SEQ_ABS, SEQ_ASH, SEQ_MIN, SEQ_MAX, SEQ_CLS, SEQ_DIV, SEQ_STA, SEQ_STA2, SEQ_STA4, SEQ_SAVA and
SEQ_LDAR complete (R138, R139, R143): the accumulator instructions and the rounded stores of the sequencer. Additions saturate to
56 bits; DIV gives the rounded quotient saturated to int24, and for a divisor of 0 an extreme by the sign of ACCa; a rounded store
writes floor(v / 2^s + 1/2) saturated; an instruction that saturates is counted once. -/
def Obligations.SequencerAccumulatorsAndRoundedStores : Prop :=
  ∀ (s : State) (n : StallId) (r : Running) (x : SeqRegs) (k c : Nat) (w : Word), SeqAt s n r x k c w →
    let p := progOf r.desc
    let m := stallView s.mem n
    let lim := fun (lo hi v : Int) => if v < lo then lo else if hi < v then hi else v
    let big := fun (v : Int) => lim (-36028797018963968) 36028797018963967 v
    let acc := fun (i : Instr) (a : Fin 4) (v : Int) => SeqDoes i s n r x [lateAcc a (big v)] [] (decide (big v ≠ v))
    let rnd := fun (v : Int) (h : Nat) => if h = 0 then v else (v + 2 ^ (h - 1)) / 2 ^ h
    (∀ a b : Fin 4, (c = 96 → acc (.seqAdd n a b) a (x.accv a + x.accv b)) ∧
      (c = 97 → acc (.seqSub n a b) a (x.accv a - x.accv b)) ∧ (c = 98 → acc (.seqNeg n a) a (-(x.accv a))) ∧
      (c = 99 → acc (.seqAbs n a) a (if x.accv a < 0 then -(x.accv a) else x.accv a)) ∧
      (c = 100 → ∀ h : Nat, acc (.seqAsh n a h) a (x.accv a * 2 ^ h) ∧ acc (.seqAsh n a (-h)) a (x.accv a / 2 ^ h)) ∧
      (c = 101 → SeqDoes (.seqMin n a b) s n r x [lateAcc a (min (x.accv a) (x.accv b)), lateReg 7 (if x.accv b < x.accv a then 1 else 0) 2] [] false) ∧
      (c = 102 → SeqDoes (.seqMax n a b) s n r x [lateAcc a (max (x.accv a) (x.accv b)), lateReg 7 (if x.accv a < x.accv b then 1 else 0) 2] [] false)) ∧
    (c = 103 → ∀ a : Fin 4, ∃ q : Nat, SeqDoes (.seqCls n a) s n r x [lateReg 7 q 2] [] false ∧ q ≤ 55 ∧
      (∀ i, i < q → (vget x.acc a).getLsbD (54 - i) = (vget x.acc a).getLsbD 55) ∧
      (q < 55 → (vget x.acc a).getLsbD (54 - q) ≠ (vget x.acc a).getLsbD 55)) ∧
    (c = 104 → ∀ a : Fin 4, vget x.s 0 = 0 → SeqDoes (.seqDiv n a) s n r x
      [lateAcc a (if 0 < x.accv a then 8388607 else if x.accv a < 0 then -8388608 else 0)] [] false) ∧
    (c = 104 → ∀ (a : Fin 4) (q : Int), 0 < (vget x.s 0).toInt →
      q = (2 * (x.accv a * 8388608) + (vget x.s 0).toInt) / (2 * (vget x.s 0).toInt) →
      SeqDoes (.seqDiv n a) s n r x [lateAcc a (lim (-8388608) 8388607 q)] [] (decide (lim (-8388608) 8388607 q ≠ q))) ∧
    (c = 104 → ∀ (a : Fin 4) (q : Int), (vget x.s 0).toInt < 0 →
      q = (-(2 * (x.accv a * 8388608)) - (vget x.s 0).toInt) / (-2 * (vget x.s 0).toInt) →
      SeqDoes (.seqDiv n a) s n r x [lateAcc a (lim (-8388608) 8388607 q)] [] (decide (lim (-8388608) 8388607 q ≠ q))) ∧
    (c = 112 → ∀ (a : Fin 4) (h : Nat) (ad : SeqAddr), seqMayStore p (x.addr ad).1 1 = true →
      let v := rnd (x.accv a) h
      SeqDoes (.seqSta n a h ad) s n r x (x.addr ad).2
        [(seqByte (x.addr ad).1, intLE 4 (lim (-8388608) 8388607 v))] (decide (lim (-8388608) 8388607 v ≠ v))) ∧
    (c = 113 → ∀ (h : Nat) (ad : SeqAddr) (q : Fin 2), seqMayStore p (x.addr ad).1 1 = true →
      let u := rnd (x.accv (if q = 0 then 0 else 2)) h
      let v := rnd (x.accv (if q = 0 then 1 else 3)) h
      SeqDoes (.seqSta2 n q h ad) s n r x (x.addr ad).2
        [(seqByte (x.addr ad).1, intLE 2 (lim (-32768) 32767 u) ++ intLE 2 (lim (-32768) 32767 v))]
        (decide (lim (-32768) 32767 u ≠ u ∨ lim (-32768) 32767 v ≠ v))) ∧
    (c = 114 → ∀ (h : Nat) (ad : SeqAddr), seqMayStore p (x.addr ad).1 1 = true →
      let v := fun (i : Fin 4) => rnd (x.accv i) h
      SeqDoes (.seqSta4 n h ad) s n r x (x.addr ad).2
        [(seqByte (x.addr ad).1, intLE 1 (lim (-127) 127 (v 0)) ++ intLE 1 (lim (-127) 127 (v 1)) ++
          intLE 1 (lim (-127) 127 (v 2)) ++ intLE 1 (lim (-127) 127 (v 3)))] (decide (∃ i, lim (-127) 127 (v i) ≠ v i))) ∧
    (c = 115 → ∀ (a : Fin 4) (ad : SeqAddr), seqMayStore p (x.addr ad).1 2 = true →
      SeqDoes (.seqSava n a ad) s n r x (x.addr ad).2 [(seqByte (x.addr ad).1, intLE 8 (x.accv a))] false) ∧
    (c = 116 → ∀ (a : Fin 4) (ad : SeqAddr), seqMayLoad p (x.addr ad).1 2 = true →
      SeqDoes (.seqLdar n a ad) s n r x ((x.addr ad).2 ++
        [lateAcc a (BitVec.ofNat 56 (memNat m (seqByte (x.addr ad).1) 8)).toInt]) [] false) ∧
    (∀ (q : Fin 2) (a : Fin 4) (h : Nat) (ad : SeqAddr), (seqMayStore p (x.addr ad).1 1 = false →
        (c = 112 → SeqStops (.seqSta n a h ad) s n r k oOutOfExtent) ∧ (c = 113 → SeqStops (.seqSta2 n q h ad) s n r k oOutOfExtent) ∧
        (c = 114 → SeqStops (.seqSta4 n h ad) s n r k oOutOfExtent)) ∧
      (c = 115 → seqMayStore p (x.addr ad).1 2 = false → SeqStops (.seqSava n a ad) s n r k oOutOfExtent) ∧
      (c = 116 → seqMayLoad p (x.addr ad).1 2 = false → SeqStops (.seqLdar n a ad) s n r k oOutOfExtent))

/-- SEQ_MAC2, SEQ_MSU2, SEQ_MPY2, SEQ_CMAC, SEQ_CMSU and SEQ_CMPY complete (R138, R144): a multiply word of Table 05-4 without
parallel loads adds, subtracts or replaces two exact products (class 4h) or the parts of a complex product (class 5h), each sum
saturated once to 56 bits; with parallel loads it also moves the pointers and loads S, T or C, seen at distance 2. The next
multiply-add into the same accumulator sees the sum at once, any other reader at distance 2. -/
def Obligations.SequencerMultiplies : Prop :=
  ∀ (s : State) (n : StallId) (r : Running) (x : SeqRegs) (k : Nat) (w : Word) (u : SeqMul), u = seqMulOf w →
    SeqAt s n r x k (16 * u.cls + u.op) w → u.low = 0 → u.op < 3 →
    u.sld < 3 → u.tld < 3 → (u.cls = 4 → u.conj = false) → (u.cls = 5 → u.useC = false) →
    let c := if u.cls = 4 then (if u.op = 0 then Instr.seqMac2 n w else if u.op = 1 then .seqMsu2 n w else .seqMpy2 n w)
      else (if u.op = 0 then Instr.seqCmac n w else if u.op = 1 then .seqCmsu n w else .seqCmpy n w)
    let m := stallView s.mem n
    let p := progOf r.desc
    let f := if u.ci16 then SeqFmt.ci16 else SeqFmt.int24
    let s0 := (vget x.s 0).toInt
    let s1 := (vget x.s 1).toInt
    let t0 := (vget x.t 0).toInt
    let t1 := (vget x.t 1).toInt
    let big := fun (v : Int) => if v < -36028797018963968 then -36028797018963968 else if 36028797018963967 < v then 36028797018963967 else v
    let op := fun (a v : Int) => if u.op = 0 then a + v else if u.op = 1 then a - v else v
    let ia : Fin 4 := if u.pair = 0 then 0 else 2
    let ib : Fin 4 := if u.pair = 0 then 1 else 3
    let pa := if u.cls = 4 then s0 * (if u.useC then x.c.toInt else t0) else if u.conj then s0 * t0 + s1 * t1 else s0 * t0 - s1 * t1
    let pb := if u.cls = 4 then s1 * (if u.useC then x.c.toInt else t1) else if u.conj then s1 * t0 - s0 * t1 else s0 * t1 + s1 * t0
    let va := op (vget x.accNew ia).toInt pa
    let vb := op (vget x.accNew ib).toInt pb
    let si : Fin 8 := if u.sld = 1 then 0 else 1
    let ti : Fin 8 := if u.tld = 1 then 2 else 3
    let sw := (vget x.ix si).toNat
    let tw := (vget x.ix ti).toNat
    (u.cls = 4 ∨ u.cls = 5) →
    (((u.sld ≠ 0 → seqMayLoad p sw (fmtWords f) = true) ∧ (u.tld = 1 → seqMayLoad p tw (fmtWords f) = true) ∧
        (u.tld = 2 → seqMayLoad p tw 1 = true)) →
      SeqDoes c s n r { x with
          accNew := vset (vset x.accNew ia (BitVec.ofInt 56 (big va))) ib (BitVec.ofInt 56 (big vb))
          late := x.late.map fun l => match l.dest with
            | .accAll q => if q = ia ∨ q = ib then { l with dest := .acc q } else l
            | _ => l }
        ((if u.sld = 0 then [] else [lateReg (regIx si) (x.moved si u.sinc) 1, lateReg 26 (seqPair m f sw).1.toInt 2,
            lateReg 27 (seqPair m f sw).2.toInt 2]) ++
         (if u.tld = 0 then [] else if u.tld = 1 then [lateReg (regIx ti) (x.moved ti u.tinc) 1,
            lateReg 28 (seqPair m f tw).1.toInt 2, lateReg 29 (seqPair m f tw).2.toInt 2]
          else [lateReg (regIx ti) (x.moved ti u.tinc) 1, ⟨.coef, (wordInt24 (seqWord m tw)).toInt, 1⟩]) ++
         [⟨.acc ia, big va, 1⟩, ⟨.acc ib, big vb, 1⟩]) [] (decide (big va ≠ va ∨ big vb ≠ vb))) ∧
    (((u.sld ≠ 0 ∧ seqMayLoad p sw (fmtWords f) = false) ∨ (u.tld = 1 ∧ seqMayLoad p tw (fmtWords f) = false) ∨
        (u.tld = 2 ∧ seqMayLoad p tw 1 = false)) → SeqStops c s n r k oOutOfExtent)

/-- R203, R204, R205, R206: the seven request rows complete as posts: Hall's post of a request joins its class's ring, or is dropped and counted at a full ring, or dropped
without a count while the unit is off; a request served that fails its CHECK completes with BAD_CHECK, a request of a track
that is not attached with NO_TRACK, and nothing in the store changes. -/
def Obligations.HistoryRequestsQueueAndRefuse : Prop :=
  ∀ (s : State) (c : HcPost → Instr) (op : Nat),
    (c, op) ∈ [(Instr.fetch, 1), (Instr.append, 2), (Instr.attach, 3), (Instr.detach, 4), (Instr.clone, 5), (Instr.prefixWrite, 6),
      (Instr.migrate, 7)] →
    (∀ (k : Fin 3) (b : List Byte), b.length = 32 → bytesNat b 0 1 = op → s.hist.en = true → (vget s.hist.rings k).length < 128 →
      ∃ t, exec (c (.posted k b)) s = .next t ∧ vget t.hist.rings k = vget s.hist.rings k ++ [⟨b, true, s.now⟩] ∧
        (∀ j, j ≠ k → vget t.hist.rings j = vget s.hist.rings j) ∧ t.hist.active = s.hist.active ∧
        t.hist.refcnt = s.hist.refcnt ∧ OnlyChanges [.hist] s t) ∧
    (∀ (k : Fin 3) (b : List Byte), b.length = 32 → bytesNat b 0 1 = op → s.hist.en = true → 128 ≤ (vget s.hist.rings k).length →
      ∃ t, exec (c (.posted k b)) s = .next t ∧ t.hist = s.hist ∧
        (t.devCtr .hcPostDrop).live = satAdd (s.devCtr .hcPostDrop).live 1 ∧
        OnlyChanges [.dev, .host] s t) ∧
    (∀ (k : Fin 3) (b : List Byte), s.hist.en = false → exec (c (.posted k b)) s = .next s) ∧
    (∀ k r rest f, HistServes s k r rest f op → bytesNat r.bytes 30 2 ≠ (crc16 (r.bytes.take 30)).toNat → DoneInStall s f → MemOk s →
      ∃ t, exec (c .served) s = .next t ∧ t.hist = { s.hist with rings := vset s.hist.rings k rest } ∧
        memRead t.mem f.done 8 = doneBytes f 2 0 ∧ MemOnly f.done 8 s t ∧ OnlyChanges [.hist, .mem] s t) ∧
    (∀ k r rest f off, HistServes s k r rest f op → op ≠ 3 → op ≠ 5 → op ≠ 6 → histCheck r.bytes r.hall = none →
      placeOf (s.hist.trackAddr f.track) 2048 = .plain off → s.fwRefused (histSource 0) false off 2048 = none →
      (trackIn s f.track).attached = false → DoneInStall s f → MemOk s →
      ∃ t, exec (c .served) s = .next t ∧ t.hist = { s.hist with rings := vset s.hist.rings k rest } ∧
        memRead t.mem f.done 8 = doneBytes f 3 0 ∧ MemOnly f.done 8 s t ∧ OnlyChanges [.hist, .mem] s t)

/-- R196, R205, R217, R222: ATTACH, DETACH, CLONE and TRACK_IDLE_DETACH complete: ATTACH takes a free track for a cell and an RNTI with no entry; DETACH frees an attached track;
CLONE copies a track's record under the cell and RNTI of the request; a track without an append for HIST_IDLE slots is
detached. The look-aside buffer keeps no entry of a track that is detached. -/
def Obligations.HistoryTracksComeAndGo : Prop :=
  (∀ (s : State) (k : Fin 3) (r : HistReq) (rest : List HistReq) (f : HistFields), HistServes s k r rest f 3 →
    histCheck r.bytes r.hall = none → f.cell < 16 → (s.trackRec f.track).1.attached = false → WalkerMayWrite s f.track →
    DoneInStall s f → MemOk s →
    ∃ t x, exec (.attach .served) s = .next t ∧ memRead t.mem (s.hist.trackAddr f.track) 2048 = TrackRec.bytes x ∧
      x.attached = true ∧ x.cell.val = f.cell ∧ x.rnti = f.rnti ∧ x.head = 0 ∧ x.stamps = List.replicate 64 noStamp ∧
      (∀ i, i < 64 → x.pte i = Pte.empty) ∧ memRead t.mem f.done 8 = doneBytes f 0 0 ∧ vget t.hist.rings k = rest ∧
      vget t.hist.last f.track = s.now ∧ t.hist.active = s.hist.active ∧ OnlyChanges [.mem, .hist, .dev, .fab, .host] s t) ∧
  (∀ (s : State) (k : Fin 3) (r : HistReq) (rest : List HistReq) (f : HistFields), HistServes s k r rest f 4 →
    histCheck r.bytes r.hall = none → (s.trackRec f.track).1.attached = true → s.hist.active = [] → WalkerMayWrite s f.track →
    DoneInStall s f → MemOk s →
    ∃ t x, exec (.detach .served) s = .next t ∧ memRead t.mem (s.hist.trackAddr f.track) 2048 = TrackRec.bytes x ∧
      x.attached = false ∧ (∀ i, i < 128 → x.pte i = Pte.empty) ∧ memRead t.mem f.done 8 = doneBytes f 0 0 ∧
      vget t.hist.rings k = rest ∧ (∀ j, ∀ e ∈ vget t.hist.lab j, e.track ≠ f.track) ∧ t.hist.pin = s.hist.pin ∧
      OnlyChanges [.mem, .hist, .dev, .fab, .host] s t) ∧
  (∀ (s : State) (k : Fin 3) (r : HistReq) (rest : List HistReq) (f : HistFields) (d : TrackId), HistServes s k r rest f 5 →
    histCheck r.bytes r.hall = none → f.cell < 16 → d.val = f.dest → (s.trackRec f.track).1.attached = true →
    (s.trackRec d).1.attached = false → WalkerMayWrite s f.track → WalkerMayWrite s d → DoneInStall s f → MemOk s →
    ∃ t x, exec (.clone .served) s = .next t ∧ memRead t.mem (s.hist.trackAddr d) 2048 = TrackRec.bytes x ∧
      x = { (s.trackRec f.track).1 with cell := x.cell, rnti := f.rnti, ptes := x.ptes } ∧ x.cell.val = f.cell ∧
      (∀ i, i < 128 → (x.pte i).v = ((s.trackRec f.track).1.pte i).v ∧ (x.pte i).frame = ((s.trackRec f.track).1.pte i).frame) ∧
      memRead t.mem f.done 8 = doneBytes f 0 0 ∧ vget t.hist.rings k = rest ∧
      vget t.hist.last d = vget s.hist.last f.track ∧ OnlyChanges [.mem, .hist, .dev, .fab, .host] s t) ∧
  (∀ (s : State) (x : TrackId), (s.trackRec x).1.attached = true → s.hist.en = true → s.hist.active = [] →
    ns ((s.cell (s.trackRec x).1.cell).get .histIdle * s.slotLen (s.trackRec x).1.cell : Nat) ≤
      s.now - vget s.hist.last x → WalkerMayWrite s x → MemOk s →
    ∃ t y, exec (.trackIdleDetach x (s.trackRec x).1.cell) s = .next t ∧ memRead t.mem (s.hist.trackAddr x) 2048 = TrackRec.bytes y ∧
      y.attached = false ∧ (∀ j, ∀ e ∈ vget t.hist.lab j, e.track ≠ x) ∧ t.hist.rings = s.hist.rings ∧
      OnlyChanges [.mem, .hist, .dev, .fab, .host] s t)

/-- R206, R208, R209, R210, R211, R216, R218, R224: FETCH, APPEND, PREFIX_WRITE and MIGRATE complete as served requests: FETCH pins the frames of its context, where an entry that is retired or whose age is
outside MIN_AGE to MAX_AGE is not valid; APPEND writes ring position HEAD mod W, waits for the pins of a private page, and
stamps it; PREFIX_WRITE writes into a new generation; MIGRATE copies an unpinned page of one reference to a free frame and switches the
track's entry to it, in one step. -/
def Obligations.HistoryRequestsStartMoving : Prop :=
  (∀ (s : State) (k : Fin 3) (r : HistReq) (rest : List HistReq) (f : HistFields) (x : TrackRec) (g : HistGeo),
    HistServes s k r rest f 1 → histCheck r.bytes r.hall = none → (s.trackRec f.track).1 = x → x.attached = true →
    s.histGeo x.cell = g → f.minAge ≠ 0 → f.count ≠ 0 → f.first + f.count ≤ g.tok → f.ref < g.period →
    (∀ q, sget 0 s.hist.pin q < 255) →
    ∃ t u, exec (.fetch .served) s = .next t ∧ t.hist.active = s.hist.active ++ [u] ∧ u.bytes = r.bytes ∧ u.cls = k ∧
      u.waits = [] ∧ u.writes = [] ∧ u.copies = [] ∧ u.result = f.count * (u.ctx.filter (·.isSome)).length ∧
      (∀ i, i < min x.head g.w →
        let st := x.stamps.getD ((x.head - min x.head g.w + i) % max 1 g.w) noStamp
        (st = noStamp ∨ g.age f.ref st < f.minAge ∨ g.maxAge < g.age f.ref st) → u.ctx[g.p + i]? = some none) ∧
      (∀ i, g.p + min x.head g.w ≤ i → i < g.ctx → u.ctx[i]? = some none) ∧
      vget t.hist.rings k = rest ∧ OnlyChanges [.mem, .hist, .dev, .fab, .host] s t) ∧
  (∀ (s : State) (k : Fin 3) (r : HistReq) (rest : List HistReq) (f : HistFields) (x : TrackRec) (g : HistGeo) (same : Bool)
    (pos : Nat), HistServes s k r rest f 2 → histCheck r.bytes r.hall = none → (s.trackRec f.track).1 = x → x.attached = true →
    s.histGeo x.cell = g → f.ref < g.period → 1 ≤ g.w → g.w ≤ 64 → (s.prefixRec x.cell).1.gen = x.gen → s.hist.active = [] →
    (∀ j, vget s.hist.lab j = []) →
    (let newest := if x.head = 0 then noStamp else x.stamps.getD ((x.head - 1) % g.w) noStamp
     same = (decide (newest ≠ noStamp) && decide (newest = f.ref)) ∧ (newest = noStamp ∨ g.reached f.ref newest = true)) →
    pos = (if same then (x.head - 1) % g.w else x.head % g.w) →
    (x.pte (pos / g.rgpp false)).v = true → (x.pte (pos / g.rgpp false)).sh = false → pos / g.rgpp false < 32 →
    (x.pte (32 + pos / g.rgpp true)).v = true → (x.pte (32 + pos / g.rgpp true)).sh = false → pos / g.rgpp true < 32 →
    let kf := (x.pte (pos / g.rgpp false)).frame
    let vf := (x.pte (32 + pos / g.rgpp true)).frame
    ∃ t u, exec (.append .served) s = .next t ∧ t.hist.active = [u] ∧ u.bytes = r.bytes ∧ u.result = pos ∧
      u.writes = [⟨f.addr0, kf, pos % g.rgpp false * g.rowGroup false, g.rowGroup false, false⟩,
        ⟨f.addr1, vf, pos % g.rgpp true * g.rowGroup true, g.rowGroup true, true⟩] ∧
      u.waits = (if sget 0 s.hist.pin kf ≠ 0 then [kf] else []) ++ (if sget 0 s.hist.pin vf ≠ 0 then [vf] else []) ∧
      vget t.hist.last f.track = s.now ∧ vget t.hist.rings k = rest ∧ t.hist.refcnt = s.hist.refcnt ∧ t.hist.pin = s.hist.pin) ∧
  (∀ (s : State) (k : Fin 3) (r : HistReq) (rest : List HistReq) (f : HistFields) (x : TrackRec) (p : Pte), HistServes s k r rest f 7 →
    histCheck r.bytes r.hall = none → (s.trackRec f.track).1 = x → x.attached = true → f.loc ≠ 3 → f.page < 128 →
    x.pte f.page = p → p.v = true → sget 0 s.hist.refcnt p.frame ≤ 1 → sget 0 s.hist.pin p.frame = 0 → s.hist.active = [] →
    WalkerMayWrite s f.track → MemOk s →
    s.hist.gives (if f.page < 32 then 1 else if f.page < 64 then 2 else 0) f.loc ≠ [] →
    ∃ t u q, exec (.migrate .served) s = .next t ∧ t.hist.active = [u] ∧ u.copies = [(p.frame, q)] ∧ u.writes = [] ∧
      u.waits = [] ∧ memRead t.mem (s.hist.trackAddr f.track) 2048 = TrackRec.bytes (x.setPte f.page { p with frame := q, sh := false }) ∧ sget 0 s.hist.refcnt q = 0 ∧ sget 0 s.hist.pin q = 0 ∧
      frameLoc q = f.loc ∧ vget t.hist.rings k = rest ∧ t.hist.pin = s.hist.pin ∧
      OnlyChanges [.mem, .hist, .dev, .fab, .host, .free] s t) ∧
  (∀ (s : State) (k : Fin 3) (r : HistReq) (rest : List HistReq) (f : HistFields) (c : CellId) (g : HistGeo) (x : PrefixRec),
    HistServes s k r rest f 6 → histCheck r.bytes r.hall = none → c.val = f.cell → s.histGeo c = g → f.count ≠ 0 →
    f.first + f.count ≤ g.p → g.p ≤ 64 → f.ref < g.period → (s.prefixRec c).1 = x →
    (∀ y, (s.trackRec y).1.attached = true → (s.trackRec y).1.cell = c → (s.trackRec y).1.gen = x.gen) → s.hist.active = [] →
    (∀ i, i < f.count → ∀ v, let q := x.ptes.getD ((if v then 32 else 0) + (f.first + i) / g.rgpp v) Pte.empty
      q.v = true ∧ sget 0 s.hist.refcnt q.frame = 1 ∧ sget 0 s.hist.pin q.frame = 0) →
    (∃ off, placeOf (s.hist.prefixAddr c) 1024 = .plain off ∧ s.fwRefused (histSource 0) true off 1024 = none) → MemOk s →
    ∃ t u y, exec (.prefixWrite .served) s = .next t ∧ memRead t.mem (s.hist.prefixAddr c) 1024 = PrefixRec.bytes y ∧
      y.gen = (x.gen + 1) % 2 ^ 32 ∧ y.effective = f.ref ∧
      (∀ i, i < 64 → (y.valid.getLsbD i = true ↔ x.valid.getLsbD i = true ∨ f.first ≤ i ∧ i < f.first + f.count)) ∧ t.hist.active = [u] ∧ u.bytes = r.bytes ∧ u.waits = [] ∧ u.copies = [] ∧
      u.writes.length = 2 * f.count ∧
      (∀ w ∈ u.writes, ∃ i v, i < f.count ∧ w = ⟨(if v then f.addr1 else f.addr0) + i * g.rowGroup v,
        (x.ptes.getD ((if v then 32 else 0) + (f.first + i) / g.rgpp v) Pte.empty).frame,
        (f.first + i) % g.rgpp v * g.rowGroup v, g.rowGroup v, false⟩) ∧
      vget t.hist.oldValid c = x.valid ∧ vget t.hist.rings k = rest)

/-- R205, R206, R210, R222, R224: HC_REQUEST_COMPLETE, PINNED_WRITE_RESUME, HC_LAB_SHOOT and LAB_SHOOT_DONE complete: the data movement of a
request ends with its completion record: a fetch's pins drop, a row group is in its frame with no −0 among its values, a page has moved; a write that waited goes on once the pins of its frame are 0; a
shoot-down drops the entries of its scope, and BUSY clears once no fetch holds them. -/
def Obligations.HistoryRequestsComplete : Prop :=
  (∀ (s : State) (i : Nat) (c : Ecc) (r : HistRun) (f : HistFields), s.hist.active[i]? = some r → histOf r.bytes = f → f.op = 1 →
    r.waits = [] → 0x10000000 ≤ f.addr0 → 0x10000000 ≤ f.addr1 → DoneInStall s f → s.hist.leaving = [] → MemOk s →
    ∃ t, exec (.hcRequestComplete ⟨i, c⟩) s = .next t ∧ memRead t.mem f.done 8 = doneBytes f 0 r.result ∧
      t.hist = { s.hist with active := s.hist.active.eraseIdx i, pin := (r.pins.foldl Hist.pinDown s.hist).pin } ∧
      OnlyChanges [.mem, .hist, .dev, .fab, .host, .free] s t) ∧
  (∀ (s : State) (i : Nat) (c : Ecc) (r : HistRun) (f : HistFields) (w : HistWrite), s.hist.active[i]? = some r → histOf r.bytes = f →
    f.op ≠ 1 → r.waits = [] → r.copies = [] → DoneInStall s f → s.hist.leaving = [] → r.writes.getLast? = some w → (∀ v ∈ r.writes, v.frame < 448) →
    Mem.wf s.hist.sram = true → (∃ n off, placeOf w.src w.len = .stallMem n off ∧ s.domainOn n.val = true) →
    ∃ t, exec (.hcRequestComplete ⟨i, c⟩) s = .next t ∧ t.hist.active = s.hist.active.eraseIdx i ∧
      memRead t.hist.sram (w.frame * 4096 + w.off) (memRead s.mem w.src w.len).length =
        (if w.clean then cleanZeros (memRead s.mem w.src w.len) else memRead s.mem w.src w.len) ∧
      t.hist.refcnt = s.hist.refcnt ∧ t.hist.pin = s.hist.pin ∧ OnlyChanges [.mem, .hist, .dev, .fab, .host] s t) ∧
  (∀ (s : State) (i : Nat) (c : Ecc) (r : HistRun) (f : HistFields), s.hist.active[i]? = some r → histOf r.bytes = f → f.op ≠ 1 →
    r.waits = [] → r.writes = [] → c ≠ .uncorrectable → DoneInStall s f → s.hist.leaving = [] → MemOk s →
    ∃ t, exec (.hcRequestComplete ⟨i, c⟩) s = .next t ∧ t.hist = { s.hist with active := s.hist.active.eraseIdx i } ∧
      memRead t.mem f.done 8 = doneBytes f 0 r.result ∧ MemOnly f.done 8 s t ∧ OnlyChanges [.mem, .hist, .dev] s t) ∧
  (∀ (s : State) (q : Fin 65536) (i : Nat) (r : HistRun), sget 0 s.hist.pin q.val = 0 →
    (s.hist.active.findIdx? fun r => r.waits.contains q.val) = some i → s.hist.active[i]? = some r →
    ∃ t, exec (.pinnedWriteResume q) s = .next t ∧ t.hist.active[i]? = some { r with waits := r.waits.erase q.val } ∧
      (∀ j, j ≠ i → t.hist.active[j]? = s.hist.active[j]?) ∧ t.hist.sram = s.hist.sram ∧ OnlyChanges [.hist] s t) ∧
  (∀ (s : State) (v : Word), wbit v 0 = true → s.hist.busy = false →
    ∃ t, exec (.hcLabShoot v) s = .next t ∧ t.hist.busy = true ∧ t.hist.shoot = v &&& 0x03FF0F30 ∧
      (∀ j, vget t.hist.lab j = (vget s.hist.lab j).filter fun e => !inScope v e.track.val e.cell.val) ∧
      t.hist.active.length = s.hist.active.length ∧ t.hist.refcnt = s.hist.refcnt ∧ OnlyChanges [.hist] s t) ∧
  (∀ (s : State) (v : Word), wbit v 0 = true → s.hist.busy = true →
    ∃ t, exec (.hcLabShoot v) s = .next t ∧ t.hist = { s.hist with shoot := v &&& 0x03FF0F30 } ∧ OnlyChanges [.hist] s t) ∧
  (∀ (s : State), (∀ r ∈ s.hist.active, r.shot = false) →
    ∃ t, exec .labShootDone s = .next t ∧ t.hist = { s.hist with busy := false } ∧ OnlyChanges [.hist] s t)

/-- R238, R241, R244, R245, R251, R253: DMA_COPY, DMA_FILL, DMA_SIGNAL, DMA_WAIT, DMA_POST and DMA_PASS complete: the six operations of a
DMA descriptor that a ready chain takes. COPY and FILL begin to move, or
move nothing; SIGNAL writes its value; WAIT goes on once the word is no less than the comparison value and waits until then;
POST puts 32 bytes into a history post window; PASS arrives and waits, or ends the chain on a disabled Pass. A descriptor with
bad fields ends the chain with BAD_DESC. -/
def Obligations.DmaDescriptorsStart : Prop :=
  ∀ (s : State) (n : StallId) (u : StreamId) (c c' : Chain) (d : DmaDesc) (r : Running), DmaNext s n u c c' d →
    c'.origin = .command r → c'.expired = false →
    let after : Chain := { c' with phase := if d.last then .ended oDone else .ready }
    (∀ p ∈ [(0, Instr.dmaCopy n u), (1, .dmaFill n u)], d.op = p.1 → d.rows ≠ 0 → d.len ≠ 0 →
      ∃ t, exec p.2 s = .next t ∧ chainOn t n u = some { c' with phase := .moving 0 0 } ∧ OnlyChanges [.stalls] s t ∧ OtherStalls n s t) ∧
    (∀ p ∈ [(0, Instr.dmaCopy n u), (1, .dmaFill n u)], d.op = p.1 → (d.rows = 0 ∨ d.len = 0) →
      ∃ t, exec p.2 s = .next t ∧ chainOn t n u = some after ∧ OnlyChanges [.stalls] s t ∧ OtherStalls n s t) ∧
    (d.op = 2 → ChainWord s n c' d.dst → MemOk s →
      ∃ t, exec (.dmaSignal n u) s = .next t ∧ memRead t.mem d.dst 8 = natLE 8 d.src ∧ MemOnly d.dst 8 s t ∧
        chainOn t n u = some after ∧ OnlyChanges [.mem, .stalls] s t ∧ OtherStalls n s t) ∧
    (∀ e : Ecc, e ≠ .uncorrectable → d.op = 3 → ChainWord s n c' d.src → d.dst ≤ memNat s.mem d.src 8 →
      ∃ t, exec (.dmaWait n ⟨u, e⟩) s = .next t ∧ chainOn t n u = some after ∧ OnlyChanges [.stalls, .dev] s t ∧ OtherStalls n s t) ∧
    (∀ e : Ecc, e ≠ .uncorrectable → d.op = 3 → ChainWord s n c' d.src → memNat s.mem d.src 8 < d.dst →
      ∃ t, exec (.dmaWait n ⟨u, e⟩) s = .next t ∧ chainOn t n u = some { c' with phase := .waiting s.now } ∧
        OnlyChanges [.stalls, .dev] s t ∧ OtherStalls n s t) ∧
    (∀ (e : Ecc) k off, e ≠ .uncorrectable → d.op = 4 → placeOf d.src 32 = .dram off → postWindow d.dst = some k → s.hist.en = true →
      (vget s.hist.rings k).length < 128 →
      ∃ t, exec (.dmaPost n ⟨u, e⟩) s = .next t ∧
        vget t.hist.rings k = vget s.hist.rings k ++ [⟨memRead s.mem d.src 32, false, s.now⟩] ∧ chainOn t n u = some after ∧
        OnlyChanges [.stalls, .hist, .dev] s t ∧ OtherStalls n s t) ∧
    (d.op = 5 → (s.pass (passOf d.passId)).en = true →
      ∃ t, exec (.dmaPass n u) s = .next t ∧
        chainOn t n u = some { c' with phase := .pass (passOf d.passId) (s.pass (passOf d.passId)).arrivalGen } ∧
        (((s.pass (passOf d.passId)).waves.filter PassWave.fresh).length < 2 →
          (s.pass (passOf d.passId)).arrived.toNat + 1 < (s.pass (passOf d.passId)).target.toNat →
          t.pass (passOf d.passId) = { s.pass (passOf d.passId) with arrived := (s.pass (passOf d.passId)).arrived + 1 }) ∧
        t.mem = s.mem ∧ OtherStalls n s t) ∧
    (d.op = 5 → (s.pass (passOf d.passId)).en = false →
      ∃ t, exec (.dmaPass n u) s = .next t ∧ chainOn t n u = some { c' with phase := .ended oPassCancelled } ∧
        (t.devCtr .passStray).live = satAdd (s.devCtr .passStray).live 1 ∧ t.pass (passOf d.passId) = s.pass (passOf d.passId) ∧
        t.mem = s.mem ∧ OtherStalls n s t)

/-- R238, R242, R244, R248: DMA_SEGMENT_COMPLETE, DMA_WAIT_SATISFIED, WAIT_TIMEOUT and CHAIN_BUDGET_EXPIRY complete: the segment in progress of a COPY or FILL is written whole, of a COPY where its stream can hold the slots it takes; then the next segment, row or descriptor
follows; an uncorrectable read writes nothing, ends the chain with MEM_ERROR and is counted. A waiting WAIT reads again, or ends
with WAIT_TIMEOUT. A budget that expires lets the segment in progress complete and stops a waiting descriptor at once. -/
def Obligations.DmaSegmentsWaitsAndBudgets : Prop :=
  (∀ (s : State) (n : StallId) (u : StreamId) (c : Chain) (r : Running) (d : DmaDesc) (row off so dstOff : Nat) (e : Ecc),
    chainOn s n u = some c → c.origin = .command r → c.expired = false → c.phase = .moving row off → dmaOf c.cur = d → d.op = 0 →
    placeOf (segment d row off).1 (segment d row off).2.2 = .dram so → e ≠ .uncorrectable →
    placeOf (segment d row off).2.1 (segment d row off).2.2 = .stallMem n dstOff → s.domainOn n.val = true →
    c.localBase ≤ dstOff → dstOff + (segment d row off).2.2 ≤ c.localEnd →
    ceilDiv (segment d row off).2.2 256 ≤ (s.stall n).stageLimit u → MemOk s →
    let len := (segment d row off).2.2
    ∃ t, exec (.dmaSegmentComplete n u e) s = .next t ∧
      memRead t.mem (segment d row off).2.1 len = memRead s.mem (segment d row off).1 len ∧
      MemOnly (segment d row off).2.1 len s t ∧
      chainOn t n u = some { c with phase := if off + len < d.len then .moving row (off + len)
        else if row + 1 < d.rows then .moving (row + 1) 0 else if d.last then .ended oDone else .ready } ∧
      (t.devCtr .dramCe).live = (if e = .corrected then satAdd (s.devCtr .dramCe).live 1 else (s.devCtr .dramCe).live) ∧
      OnlyChanges [.mem, .stalls, .dev] s t ∧ OtherStalls n s t) ∧
  (∀ (s : State) (n : StallId) (u : StreamId) (c : Chain) (r : Running) (d : DmaDesc) (row off so : Nat),
    chainOn s n u = some c → c.origin = .command r → c.phase = .moving row off → dmaOf c.cur = d → d.op = 0 →
    placeOf (segment d row off).1 (segment d row off).2.2 = .dram so →
    ceilDiv (segment d row off).2.2 256 ≤ (s.stall n).stageLimit u →
    ∃ t, exec (.dmaSegmentComplete n u .uncorrectable) s = .next t ∧ chainOn t n u = some { c with phase := .ended oMemError } ∧
      (t.devCtr .dramUe).live = satAdd (s.devCtr .dramUe).live 1 ∧
      t.fab.ueAddr = BitVec.ofNat 32 (((segment d row off).1 - dramBase) / 8) ∧ t.mem = s.mem ∧ OtherStalls n s t) ∧
  (∀ (s : State) (n : StallId) (u : StreamId) (c : Chain) (r : Running) (d : DmaDesc) (row off dstOff : Nat) (e : Ecc),
    chainOn s n u = some c → c.origin = .command r → c.expired = true → c.phase = .moving row off → dmaOf c.cur = d → d.op = 1 →
    8 * ((segment d row off).2.2 / 8) = (segment d row off).2.2 →
    placeOf (segment d row off).2.1 (segment d row off).2.2 = .dram dstOff → MemOk s →
    let len := (segment d row off).2.2
    ∃ t, exec (.dmaSegmentComplete n u e) s = .next t ∧
      memRead t.mem (segment d row off).2.1 len = (List.range (len / 8)).flatMap (fun _ => natLE 8 d.src) ∧
      MemOnly (segment d row off).2.1 len s t ∧ chainOn t n u = some { c with phase := .ended oPartial } ∧
      (t.devCtr .tdcBudget).live = satAdd (s.devCtr .tdcBudget).live 1 ∧ OtherStalls n s t) ∧
  (∀ (s : State) (n : StallId) (u : StreamId) (c : Chain) (r : Running) (d : DmaDesc) (since : Int) (e : Ecc), e ≠ .uncorrectable →
    chainOn s n u = some c → c.origin = .command r → c.expired = false → c.phase = .waiting since → dmaOf c.cur = d →
    ChainWord s n c d.src → d.dst ≤ memNat s.mem d.src 8 →
    ∃ t, exec (.dmaWaitSatisfied n ⟨u, e⟩) s = .next t ∧
      chainOn t n u = some { c with phase := if d.last then .ended oDone else .ready } ∧ OnlyChanges [.stalls, .dev] s t ∧ OtherStalls n s t) ∧
  (∀ (s : State) (n : StallId) (u : StreamId) (c : Chain) (r : Running) (since : Int), chainOn s n u = some c →
    c.origin = .command r → c.phase = .waiting since → (dmaOf c.cur).len % 65536 ≠ 0 →
    ns ((dmaOf c.cur).len % 65536 * 1000 : Nat) ≤ s.now - since →
    ∃ t, exec (.waitTimeout n u) s = .next t ∧ chainOn t n u = some { c with phase := .ended oWaitTimeout } ∧
      OnlyChanges [.stalls] s t ∧ OtherStalls n s t) ∧
  (∀ (s : State) (n : StallId) (u : StreamId) (c : Chain) (r : Running), chainOn s n u = some c → c.origin = .command r →
    (descOf r.desc).budget ≠ 0 → ns ((descOf r.desc).budget * 1000 : Nat) ≤ s.now - c.started →
    (∀ row off, c.phase = .moving row off → ∃ t, exec (.chainBudgetExpiry n u) s = .next t ∧
      chainOn t n u = some { c with expired := true } ∧ OnlyChanges [.stalls] s t ∧ OtherStalls n s t) ∧
    (∀ since, c.phase = .waiting since → ∃ t, exec (.chainBudgetExpiry n u) s = .next t ∧
      chainOn t n u = some { c with phase := .ended oPartial } ∧
      (t.devCtr .tdcBudget).live = satAdd (s.devCtr .tdcBudget).live 1 ∧ OnlyChanges [.stalls, .dev, .cells] s t ∧ OtherStalls n s t))

/-- R237, R247, R249, R250: DMA_ARM, SHADOW_CHAIN_START, CYCLIC_WAIT, DMA_RESV_WRITE and DRAM_RESV_WRITE complete: a write to DMA_ARM starts the image of an idle stream at class ARM_CRIT, and latches it into the shadow
of a busy one, over an older shadow with a count; the shadow starts once the stream is free; in test mode a cyclic wait aborts
the chain that started latest (that a stream waits where its reserve is used up is log entry 17's choice); a reserve is stored as at least 8 outside test mode, and a write that would take the sum above 128 is ignored, as is
a write to DRAM_RESV whose shares exceed 64. -/
def Obligations.ArmedChainsAndReserves : Prop :=
  (∀ (s : State) (w : Window) (v : Word), ∃ t, exec (.dmaArm w v) s = .next t ∧ OnlyChanges [.stalls] s t ∧
    (∀ n, (n ∉ Window.stalls w ∨ s.domainOn n.val = false) → t.stall n = s.stall n) ∧
    ∀ n u, n ∈ Window.stalls w → s.domainOn n.val = true →
      (wbit v u.val = false → vget (t.stall n).streams u = vget (s.stall n).streams u) ∧
      (wbit v u.val = true → chainOn s n u = none → (vget (s.stall n).streams u).shadow = none →
        ∃ c, chainOn t n u = some c ∧ c.origin = .armed ∧ c.cls = (s.stall n).armCrit.toNat ∧ c.phase = .ready ∧ c.expired = false ∧
          c.started = s.now ∧ c.fetched = [(0, (s.stall n).armImage u)]) ∧
      (wbit v u.val = true → chainOn s n u ≠ none →
        chainOn t n u = chainOn s n u ∧ (vget (t.stall n).streams u).shadow = some ((s.stall n).armImage u))) ∧
  (∀ (s : State) (n : StallId) (u : StreamId) (b : List Byte), chainOn s n u = none → (vget (s.stall n).streams u).shadow = some b →
    ∃ t c, exec (.shadowChainStart n u) s = .next t ∧ chainOn t n u = some c ∧ c.origin = .armed ∧ c.fetched = [(0, b)] ∧
      c.phase = .ready ∧ (vget (t.stall n).streams u).shadow = none ∧ OnlyChanges [.stalls] s t ∧ OtherStalls n s t) ∧
  (∀ (s : State) (n : StallId) (held : List Nat) (u : StreamId) (c : Chain) (r : Running), (s.stall n).dmaMode = 2 →
    held.length ≤ 8 → (s.stall n).poolFull held = true → 0 < held.getD u.val 0 →
    (∀ v : StreamId, 0 < held.getD v.val 0 → (s.stall n).stuck v (held.getD v.val 0) = true) →
    (∀ (v : StreamId) (d : Chain), v ≠ u → 0 < held.getD v.val 0 → chainOn s n v = some d → d.started < c.started) →
    chainOn s n u = some c → c.origin = .command r →
    ∃ t, exec (.cyclicWait n held) s = .next t ∧ chainOn t n u = some { c with phase := .ended oCyclicWait } ∧
      vget (t.stall n).ctr StallCtr.dmaCyclicAbort.idx = (vget (s.stall n).ctr StallCtr.dmaCyclicAbort.idx).add 1 ∧
      OnlyChanges [.stalls, .host, .dev] s t ∧ OtherStalls n s t) ∧
  (∀ (s : State) (w : Window) (u : StreamId) (v : Word), ∃ t, exec (.dmaResvWrite w u v) s = .next t ∧ OnlyChanges [.stalls] s t ∧
    ∀ n, let k := if (s.stall n).dmaMode = 2 then fld v 7 0 else max 8 (fld v 7 0)
      let r := vset (s.stall n).dmaResv u (BitVec.ofNat 8 k)
      t.stall n = if n ∈ Window.stalls w ∧ s.domainOn n.val = true ∧ ((vlist r).map (·.toNat)).sum ≤ 128
        then { s.stall n with dmaResv := r } else s.stall n) ∧
  (∀ (s : State) (v : Word), ∃ t, exec (.dramResvWrite v) s = .next t ∧ OnlyChanges [.fab] s t ∧
    (fld v 6 0 + fld v 14 8 + fld v 22 16 ≤ 64 → t.fab = { s.fab with dramResv := v &&& 0x007F7F7F }) ∧
    (64 < fld v 6 0 + fld v 14 8 + fld v 22 16 → t.fab = { s.fab with resvErr := true }))

/-- R252, R254, R255, R256: PASS_RELEASE, PASS_STAMP, PASS_TIMEOUT and PASS_CFG_WRITE complete: at its instant a group of stalls is released: its waiters complete with DONE, and GEN increments at
group 0; a joined Pass releases no earlier than the latest stamp plus PASS_MARGIN, on a multiple of PASS_QUANTUM; a wait that
exceeds its limit ends with PASS_TIMEOUT; while a Pass is enabled TARGET and JOINED keep their values, and EN = 0 cancels what
waits, clears ARRIVED and keeps GEN. -/
def Obligations.PassesReleaseTimeOutAndCancel : Prop :=
  (∀ (s : State) (p : PassId) (g : Fin 8) (w : PassWave) (i : Int), (s.pass p).waves.find? (fun w => !w.done.contains g) = some w →
    w.release = some i → (s.pass p).en = true → (∀ h, h < g → h ∈ w.done) → s.reached (i + ns (8 * g.val : Nat)) = true →
    ∃ t, exec (.passRelease p g) s = .next t ∧
      (t.pass p).gen = (if g = 0 then (s.pass p).gen + 1 else (s.pass p).gen) ∧ (t.pass p).arrived = (s.pass p).arrived ∧
      (∀ n r l, groupOf n = g → (s.stall n).matrix = .passWait r p w.gen l → r.outcome = none →
        (t.stall n).matrix = .passWait { r with outcome := some oDone } p w.gen l) ∧
      (∀ n u c, groupOf n = g → chainOn s n u = some c → c.phase = .pass p w.gen → c.expired = false → (dmaOf c.cur).last = false →
        chainOn t n u = some { c with phase := .ready }) ∧
      (∀ n, groupOf n ≠ g → t.stall n = s.stall n) ∧ t.mem = s.mem ∧ t.qm = s.qm) ∧
  (∀ (s : State) (p : PassId) (d : DeviceId) (i : Int), (s.pass p).joined = true → (s.pass p).en = true → s.join.member d = true →
    (s.pass p).waves = [] →
    ∃ t, exec (.passStamp p d i) s = .next t ∧ t.pass p = { s.pass p with members := (s.pass p).members ++ [(d, i)] } ∧
      OnlyChanges [.fab] s t) ∧
  (∀ (s : State) (p : PassId) (d : DeviceId) (i own : Int) (w : PassWave) (ts : List Int), (s.pass p).joined = true →
    (s.pass p).en = true → s.join.member d = true → (s.pass p).waves = [w] → w.release = none → w.stamp = some own →
    firstStamps ((s.pass p).members ++ [(d, i)]) s.join.others = some ts →
    ∃ t v, exec (.passStamp p d i) s = .next t ∧ (t.pass p).waves = [v] ∧ v.gen = w.gen ∧ v.done = w.done ∧
      v.release = some (if joinedRelease s.fab.passTiming (latest own ts) < s.now then s.now
        else joinedRelease s.fab.passTiming (latest own ts)) ∧
      (joinedRelease s.fab.passTiming (latest own ts) < s.now →
        (t.devCtr .passLate).live = satAdd (s.devCtr .passLate).live 1) ∧ OnlyChanges [.fab, .pwr, .dev] s t) ∧
  (∀ (timing : Word) (last : Int), 1 ≤ fld timing 15 0 → 0 ≤ last →
    let sec := last / ns 1000000000 * ns 1000000000
    last + ns (fld timing 31 16 : Nat) ≤ joinedRelease timing last ∧
    joinedRelease timing last < last + ns (fld timing 31 16 : Nat) + ns (fld timing 15 0 : Nat) ∧
    ns (fld timing 15 0 : Nat) ∣ joinedRelease timing last - sec) ∧
  (∀ (s : State) (n : StallId) (r : Running) (p : PassId) (g : Nat) (l : Int), (s.stall n).matrix = .passWait r p g (some l) →
    r.outcome = none → s.reached l = true →
    ∃ t, exec (.passTimeout n) s = .next t ∧ (t.stall n).matrix = .passWait { r with outcome := some oPassTimeout } p g (some l) ∧
      (t.devCtr .tdcSched).live = satAdd (s.devCtr .tdcSched).live 1 ∧ t.fab = s.fab ∧ OtherStalls n s t ∧
      OnlyChanges [.stalls, .dev, .cells] s t) ∧
  (∀ (s : State) (p : PassId) (v : Word), (s.pass p).en = false →
    ∃ t, exec (.passCfgWrite p v) s = .next t ∧ t.pass p = { s.pass p with
      en := wbit v 31, joined := wbit v 30, target := BitVec.ofNat 12 (fld v 11 0) } ∧ OnlyChanges [.fab] s t) ∧
  (∀ (s : State) (p : PassId) (v : Word), (s.pass p).en = true → wbit v 31 = true → exec (.passCfgWrite p v) s = .next s) ∧
  (∀ (s : State) (p : PassId) (v : Word), (s.pass p).en = true → wbit v 31 = false →
    ∃ t, exec (.passCfgWrite p v) s = .next t ∧ t.pass p = { s.pass p with en := false, waves := [], arrived := 0, members := [] } ∧
      (∀ n r g l, (s.stall n).matrix = .passWait r p g l → r.outcome = none →
        (t.stall n).matrix = .passWait { r with outcome := some oPassCancelled } p g l) ∧ t.mem = s.mem)

/-- ETH_LINK_UP, ETH_LINK_DOWN, PFC_PAUSE_RECEIVE, ETH_RX_DISCARD and PORT_DOMAIN_OFF complete (R283, R284, R306, R311, R394). A port that is on gains and loses its link and FEC lock, honours a pause frame of every priority but
the eCPRI one, counts a frame that it discards, and goes off 1 ms after EN was cleared. A frame of another kind starts neither while
its priority is paused nor where it would not finish before the next launch of staged frames. -/
def Obligations.PortsFollowTheirLinks : Prop :=
  (∀ (s : State) (p : PortId), s.portOn p = true →
    ∃ t, exec (.ethLinkUp p) s = .next t ∧ t.port p = { s.port p with fecLock := true, linkUp := true } ∧ OnlyChanges [.eth] s t ∧
      ∀ q, q ≠ p → t.port q = s.port q) ∧
  (∀ (s : State) (p : PortId) (b : Bool), ∃ t, exec (.ethLinkDown p b) s = .next t ∧
    t.port p = { s.port p with linkUp := false, fecLock := (s.port p).fecLock && !b } ∧ OnlyChanges [.eth] s t ∧
    ∀ q, q ≠ p → t.port q = s.port q) ∧
  (∀ (s : State) (p : PortId) (i : Fin 8) (q : Nat), s.portOn p = true → (s.port p).pcp ≠ i.val →
    ∃ t, exec (.pfcPauseReceive p i q) s = .next t ∧
      t.port p = { s.port p with paused := vset (s.port p).paused i (s.now + (q * 512 * 65536 / 100 : Nat)) } ∧ OnlyChanges [.eth] s t) ∧
  (∀ (s : State) (p : PortId) (i : Fin 8) (q : Nat), (s.port p).pcp = i.val → exec (.pfcPauseReceive p i q) s = .next s) ∧
  (∀ (s : State) (p : PortId), s.portOn p = true →
    (∃ t, exec (.ethRxDiscard p .badFcs) s = .next t ∧ t.devCtr (.ethRxFcs p) = (s.devCtr (.ethRxFcs p)).add 1 ∧ OnlyChanges [.dev] s t) ∧
    ∃ t, exec (.ethRxDiscard p .malformed) s = .next t ∧ t.devCtr (.ethRxMalformed p) = (s.devCtr (.ethRxMalformed p)).add 1 ∧
      OnlyChanges [.dev] s t) ∧
  (∀ (s : State) (p : PortId) (i : Int), (s.port p).offAt = some i → (s.port p).en = false → s.reached (i + ns 1000000) = true →
    ∃ t, exec (.portDomainOff p) s = .next t ∧ t.domainOn (75 + p.val) = false ∧ (t.port p).linkUp = false ∧
      (t.port p).fecLock = false ∧ (∀ d, d < 86 → d ≠ 75 + p.val → t.domainOn d = s.domainOn d) ∧ OnlyChanges [.eth, .pwr] s t) ∧
  (∀ (s : State) (p : PortId) (prio : Option (Fin 8)) (len : Nat) (d : Int), s.departs p prio len = d →
    s.now ≤ d ∧ (∀ k, prio = some k → vget (s.port p).paused k ≤ d) ∧ ∀ l ∈ (s.port p).launches, d + wireTime len ≤ l.1 ∨ l.1 ≤ d)

/-- UPLANE_RECEIVE completes (R287, R288, R289, R296): a received U-plane packet. A bad FCS, a failed header check and an eAxC ID of no running cell are counted
at the port; a packet outside the reception window of its slot is discarded and counted as early or late; in the window a
requested PRB that has not come yet is placed with the exact product of mantissa and 2^exponent, a PRB that came before counts
ING_DUP, one that was not requested ING_UNREQUESTED, and one whose exponent is too large is noted as BAD_EXPONENT. -/
def Obligations.UplanePacketsAreChecked : Prop :=
  (∀ (s : State) (p : PortId) (f : UplaneFrame), s.portOn p = true → s.domainOn 73 = true → f.fcsOk = false →
    ∃ t, exec (.uplaneReceive p f) s = .next t ∧ t.devCtr (.ethRxFcs p) = (s.devCtr (.ethRxFcs p)).add 1 ∧ OnlyChanges [.dev] s t) ∧
  (∀ (s : State) (p : PortId) (f : UplaneFrame), s.portOn p = true → s.domainOn 73 = true → f.fcsOk = true →
    ((s.port p).mode ≠ 1 ∨ (s.port p).mtu < f.bytes ∨ f.headerOk = false ∨ f.vid ≠ (s.port p).vid ∨ s.eaxcOk p f.eaxc = false) →
    ∃ t, exec (.uplaneReceive p f) s = .next t ∧ t.devCtr (.ethRxMalformed p) = (s.devCtr (.ethRxMalformed p)).add 1 ∧
      OnlyChanges [.dev] s t) ∧
  (∀ (s : State) (p : PortId) (f : UplaneFrame) (c : CellId), RxGood s p f → eaxcCell f.eaxc = c →
    nsOf (s.stamp p) < nsOf ((s.frameTiming c).start (s.rxSlot c f)) →
    ∃ t, exec (.uplaneReceive p f) s = .next t ∧ CellCounts s t c .ingEarly 1 ∧ (t.cell c).ing = (s.cell c).ing ∧
      OnlyChanges [.cells, .free] s t ∧ OtherCells c s t) ∧
  (∀ (s : State) (p : PortId) (f : UplaneFrame) (c : CellId), RxGood s p f → eaxcCell f.eaxc = c →
    nsOf ((s.frameTiming c).start (s.rxSlot c f)) ≤ nsOf (s.stamp p) →
    nsOf ((s.frameTiming c).start (s.rxSlot c f + 1) + pctOf (slotNs (s.frameTiming c).mu) 80) ≤ nsOf (s.stamp p) →
    ∃ t, exec (.uplaneReceive p f) s = .next t ∧ CellCounts s t c .ingLate 1 ∧
      (t.cell c).ing.map (·.rx) = (s.cell c).ing.map (·.rx) ∧ OnlyChanges [.cells, .free] s t ∧ OtherCells c s t) ∧
  (∀ (s : State) (p : PortId) (f : UplaneFrame) (c : CellId) (a : AirSlot) (x : IngSlot) (g : USection) (u : UPrb) (j : Nat),
    RxGood s p f → eaxcCell f.eaxc = c → (s.frameTiming c).air (s.rxSlot c f) = a → bitsOf f.eaxc.toNat 11 8 = 0 →
    bitsOf f.eaxc.toNat 7 0 = j → nsOf ((s.frameTiming c).start (s.rxSlot c f)) ≤ nsOf (s.stamp p) →
    nsOf (s.stamp p) < nsOf ((s.frameTiming c).start (s.rxSlot c f + 1) + pctOf (slotNs (s.frameTiming c).mu) 80) →
    f.dataDirection = false → f.payloadVersion = 1 → f.sections = [g] → g.bfpWidth = (s.cellBuilt c a).get .bfpWidth → g.methodOk = true →
    g.bfpWidth < 16 → g.prbs = [u] → g.prbCount = 1 → s.ingSlot c a = some x →
    (u.exponent ≤ 16 - g.bfpWidth → x.requested f.symbol g.prbStart = true → IngSlot.unit x.rx f.symbol g.prbStart j = none →
      ∃ t y, exec (.uplaneReceive p f) s = .next t ∧ t.ingSlot c a = some y ∧
        y.rx = x.rx ++ [⟨f.symbol, g.prbStart, j, u.comps.map fun m => m * 2 ^ u.exponent⟩] ∧ OtherCells c s t) ∧
    (u.exponent ≤ 16 - g.bfpWidth → x.requested f.symbol g.prbStart = true → IngSlot.unit x.rx f.symbol g.prbStart j ≠ none →
      ∃ t y, exec (.uplaneReceive p f) s = .next t ∧ CellCounts s t c .ingDup 1 ∧ t.ingSlot c a = some y ∧ y.rx = x.rx ∧ OtherCells c s t) ∧
    (u.exponent ≤ 16 - g.bfpWidth → x.requested f.symbol g.prbStart = false →
      ∃ t y, exec (.uplaneReceive p f) s = .next t ∧ CellCounts s t c .ingUnrequested 1 ∧ t.ingSlot c a = some y ∧ y.rx = x.rx ∧
        OtherCells c s t) ∧
    (16 - g.bfpWidth < u.exponent → x.noted f.symbol g.prbStart f.eaxc = none →
      ∃ t y, exec (.uplaneReceive p f) s = .next t ∧ t.ingSlot c a = some y ∧ y.rx = x.rx ∧
        y.noted f.symbol g.prbStart f.eaxc = some 5 ∧ OtherCells c s t))

/-- RECEPTION_WINDOW_OPEN and CRATE_FORCE complete (R294, R295): at T_n the crates of an air slot with no PRB are written complete; at T_(n+1) + 10 % of S every open crate is
forced, and a slot with a forced crate counts ING_LOW_WATER. -/
def Obligations.CratesOpenAndAreForced : Prop :=
  (∀ (s : State) (c : CellId) (a : AirSlot) (x : IngSlot), (s.cell c).running = true → s.reached (s.airStart c a) = true →
    s.ingSlot c a = some x → x.opened = false →
    ∃ t y, exec (.receptionWindowOpen c a) s = .next t ∧ t.ingSlot c a = some y ∧ y.opened = true ∧ y.closed = x.closed ∧
      y.rx = x.rx ∧ (∀ k, k ∈ y.done ↔ k ∈ x.done ∨ x.required ≤ k ∧ k < cMax ((s.cell c).get .nPrb)) ∧ OtherCells c s t ∧
      t.stalls = s.stalls ∧ t.qm = s.qm) ∧
  (∀ (s : State) (c : CellId) (a : AirSlot), (s.cell c).running = true → s.reached (s.airStart c a) = true → s.ingSlot c a = none →
    ∃ t y, exec (.receptionWindowOpen c a) s = .next t ∧ t.ingSlot c a = some y ∧ y.opened = true ∧ y.grants = [] ∧
      (∀ k, k < cMax ((s.cell c).get .nPrb) → k ∈ y.done) ∧ OtherCells c s t) ∧
  (∀ (s : State) (c : CellId) (a : AirSlot) (x : IngSlot), s.ingSlot c a = some x → x.opened = true → x.closed = false →
    s.reached (s.airStartPlus c a 1 + pctOf (s.slotLen c) 100) = true →
    ∃ t y, exec (.crateForce c a) s = .next t ∧ t.ingSlot c a = some y ∧ y.closed = true ∧ (∀ k, k < x.required → k ∈ y.done) ∧
      (y.forced = true ↔ ∃ k, k < x.required ∧ k ∉ x.done) ∧
      CellCounts s t c .ingLowWater (if ∃ k, k < x.required ∧ k ∉ x.done then 1 else 0) ∧ OtherCells c s t)

/-- R293, R303: the shift of a crate PRB is the least at which every component fits in CI8, the exponent of a compressed PRB the
least at which every component fits in the mantissa. -/
def Obligations.ScalesAreTheLeastThatFit : Prop :=
  (∀ (l : List Int) (k : Nat), crateShift l = some k ↔
    k ≤ 8 ∧ (∀ v ∈ l, (rnaShift v k).natAbs ≤ 127) ∧ ∀ j, j < k → ∃ v ∈ l, 127 < (rnaShift v j).natAbs) ∧
  (∀ (b : Nat) (l : List Int) (k : Nat), k ≤ 15 → (∀ v ∈ l, -(2 ^ (b - 1)) ≤ rnaShift v k ∧ rnaShift v k < 2 ^ (b - 1)) →
    (∀ j, j < k → ∃ v ∈ l, ¬(-(2 ^ (b - 1)) ≤ rnaShift v j ∧ rnaShift v j < 2 ^ (b - 1))) →
    bfpExponent b l = k ∧ (b < 16 → (compress b l).head? = some (BitVec.ofNat 8 k)))

/-- HANDOVER_CLOSE, CPLANE_LAUNCH, FRAME_STAGE and FRAME_LAUNCH complete (R301, R302, R304, R305, R361). At the hand-over close the entries whose ACCEPT word is 0 are omitted and counted; the C-plane leaves
once and tells ingest what it requested; the frames of a symbol are staged while the part has space and leave at the launch
instant, and a frame not staged by then is late, once. In safe state nothing leaves. -/
def Obligations.EgressStagesAndLaunches : Prop :=
  (∀ (s : State) (c : CellId) (a : AirSlot) (w : Word) (n : Nat) (d : DlSlot) (l : List (LaunchEntry × Bool)), s.dlSlot c a = some d →
    d.handedOver = false → s.reached (s.handover c a) = true → d.noPlan = false → (s.readLaunch c a w.toNat n).1 = l →
    ∃ t y, exec (.handoverClose c a w n) s = .next t ∧ t.dlSlot c a = some y ∧ y.handedOver = true ∧
      (∀ e ∈ y.entries, (e, true) ∈ l) ∧ (∀ e, (e, false) ∈ l → e ∉ y.entries) ∧
      ((∀ e ∈ l, e.2 = true) → (∀ x ∈ d.allocs, x.reason = 0) → y.entries = l.map (·.1)) ∧
      CellCounts s t c .egrOmitted (l.length - y.entries.length) ∧ OtherCells c s t ∧ t.mem = s.mem) ∧
  (∀ (s : State) (c : CellId) (a : AirSlot) (gs : List Grant) (ps : List Nat) (next : Fin 4) (d : DlSlot),
    s.dlSlot c a = some d → d.cplaneSent = false → s.wh.safe = false → s.time.stepped = true →
    s.reached (s.dlStart c a - pctOf (s.slotLen c) 20) = true →
    ∃ t y, exec (.cplaneLaunch c a gs ps next) s = .next t ∧ t.dlSlot c a = some y ∧ y = { d with cplaneSent := true } ∧
      t.ingSlot c a = some (IngSlot.fresh a (((s.cell c).bookSlot a).roi.getD gs) ps) ∧
      t.out.length = s.out.length + (if s.portOn ⟨(s.cell c).get .port % 4, by omega⟩ = true ∧ s.domainOn 74 = true ∧ s.shadows c = false
        then (d.entries.filter fun e => e.kind != 1).length else 0) ∧
      OnlyChanges [.cells, .out, .dev, .fab, .host] s t ∧ OtherCells c s t) ∧
  (∀ (s : State) (p : PortId) (c : CellId) (a : AirSlot) (sym : Fin 14) (next : Fin 4) (d : DlSlot) (f : LaunchEntry × Nat × Nat)
      (gain : Option Nat), s.dlSlot c a = some d → d.handedOver = true → s.portOn p = true → s.domainOn 74 = true → (s.cell c).get .port = p.val → sym.val ∉ d.launched →
    gain = (if (s.port p).shapes c a sym.val [f] = true then (s.cellBuilt c a).gain (d.edge next sym.val) else none) →
    s.frames p c d sym.val = [f] → (s.port p).isStaged c a sym.val (eaxcOf c 0 f.1.stream.toNat) f.2.1 = false →
    (s.reached (s.launchAt c a sym.val) = false →
      (s.port p).stagedBytes + (s.frameBytes c a sym.val f gain).1.length + frameOverhead ≤ 262144 →
      ∃ t, exec (.frameStage p c a sym (next.val.testBit 0) (next.val.testBit 1)) s = .next t ∧ (t.port p).staged = (s.port p).staged ++
        [⟨c, a, sym.val, eaxcOf c 0 f.1.stream.toNat, f.2.1, s.launchAt c a sym.val, f.1.alloc, (s.frameBytes c a sym.val f gain).1,
          if gain.isSome then 48 * f.2.2 else 0⟩] ∧ t.out = s.out ∧
        (∀ g, (s.cellBuilt c a).gain (d.edge next sym.val) = some g →
          CellCounts s t c .egrRampSkip (if (s.port p).shapes c a sym.val [f] = true then 0 else 1)) ∧ OtherCells c s t) ∧
    (s.reached (s.launchAt c a sym.val) = false →
      262144 < (s.port p).stagedBytes + (s.frameBytes c a sym.val f gain).1.length + frameOverhead →
      ((s.cellBuilt c a).gain (d.edge next sym.val) = none ∨ (s.port p).shapes c a sym.val [f] = true) →
      exec (.frameStage p c a sym (next.val.testBit 0) (next.val.testBit 1)) s = .next s) ∧
    (s.reached (s.launchAt c a sym.val) = true → (sym.val, eaxcOf c 0 f.1.stream.toNat, f.2.1) ∉ d.late →
      ∃ t y, exec (.frameStage p c a sym (next.val.testBit 0) (next.val.testBit 1)) s = .next t ∧ CellCounts s t c .egrLate 1 ∧ t.dlSlot c a = some y ∧
        y.late = (sym.val, eaxcOf c 0 f.1.stream.toNat, f.2.1) :: d.late ∧ t.eth = s.eth ∧ OtherCells c s t)) ∧
  (∀ (s : State) (p : PortId) (c : CellId) (a : AirSlot) (sym : Fin 14) (d : DlSlot), s.dlSlot c a = some d → sym.val ∉ d.launched →
    s.time.stepped = true → s.reached (s.launchAt c a sym.val) = true → (s.cell c).get .port = p.val →
    ∃ t y, exec (.frameLaunch p c a sym) s = .next t ∧ t.dlSlot c a = some y ∧ y.launched = d.launched ++ [sym.val] ∧
      (∀ f ∈ (t.port p).staged, f.of c a sym.val = false) ∧
      (s.wh.safe = true → t.out = s.out) ∧
      (s.wh.safe = false → s.portOn p = true → s.shadows c = false →
        ∀ f ∈ (s.port p).staged, f.of c a sym.val = true → .fronthaul p false f.eaxc (s.launchAt c a sym.val) f.bytes ∈ t.out) ∧
      OtherCells c s t ∧ t.mem = s.mem)

/-- MB_DOORBELL, MAILBOX_TRANSFER and BACKGROUND_COMMAND_DONE complete (R427, R428, R429, R431): a doorbell of a free mailbox starts its command: BUSY 1, DONE 0, last in doorbell order. While Hall is
absent the answer is NOT_READY; while the mailbox is BUSY the doorbell is ignored, and another SEQ sets OVERRUN; the SEQ of
the response that stands is not run again; a mailbox bound to RoCEv2 ignores it. A transfer on endpoint 1 puts the request
into the page that it names and rings its doorbell; a background command that ends is answered.
R430, R432, R433, R434: a command with an item that it does not take, that is repeated or that is out of its range is answered
BAD_ARG with the offset of the first, and before READY all but a few are answered NOT_READY; nothing else changes. -/
def Obligations.MailboxRequestsAreTakenOrRefused : Prop :=
  ((∀ (g : Agent) (m : MboxId) (v : Word) (s : State), (s.mb m).transport = true → exec (.mbDoorbell g m v) s = .next s) ∧
  (∀ (g : Agent) (m : MboxId) (v : Word) (s : State), (s.mb m).transport = false → s.hallAbsent = false → (s.mb m).busy = false →
    ((s.mb m).done = false ∨ v.setWidth 16 ≠ (s.mb m).lastSeq) →
    Mailbox.headerFault { s.mb m with seq := v.setWidth 16 } m = none → (∀ k ∈ s.host.order, (s.mb k).headerFault k = none) →
    ∃ t, exec (.mbDoorbell g m v) s = .next t ∧
      t.mb m = { s.mb m with busy := true, done := false, seq := v.setWidth 16, path := .registers, phase := .rung } ∧
      t.host.order = s.host.order ++ [m] ∧ (∀ k, k ≠ m → t.mb k = s.mb k) ∧ OnlyChanges [.host] s t) ∧
  (∀ (g : Agent) (m : MboxId) (v : Word) (s : State) (st d : Nat), (s.mb m).transport = false → s.hallAbsent = false →
    (s.mb m).busy = false → ((s.mb m).done = false ∨ v.setWidth 16 ≠ (s.mb m).lastSeq) → s.host.order = [] → s.mbHeld = false →
    (s.mb m).phase = .idle → Mailbox.headerFault { s.mb m with seq := v.setWidth 16 } m = some (st, d) →
    ∃ t, exec (.mbDoorbell g m v) s = .next t ∧ (t.mb m).resp = memWrite (s.mb m).resp 0
        (mbResponse m (s.mb m).command (memNat (s.mb m).req 4 2) st d []) ∧
      (t.mb m).busy = false ∧ (t.mb m).done = true ∧ (t.mb m).lastSeq = v.setWidth 16 ∧ OnlyChanges [.host, .dev] s t) ∧
  (∀ (m : MboxId) (x : Mailbox), (memNat x.req 4 2 ≠ x.seq.toNat → x.headerFault m = some (2, 4)) ∧
    (memNat x.req 4 2 = x.seq.toNat → memNat x.req 6 1 ≠ m.val → x.headerFault m = some (2, 6)) ∧
    (memNat x.req 4 2 = x.seq.toNat → memNat x.req 6 1 = m.val → memNat x.req 0 2 ≠ 3 → x.headerFault m = some (9, 0))) ∧
  (∀ (g : Agent) (m : MboxId) (v : Word) (s : State), (s.mb m).transport = false → s.hallAbsent = true →
    ∃ t, exec (.mbDoorbell g m v) s = .next t ∧ (t.mb m).resp = memWrite (s.mb m).resp 0
        (mbResponse m (memNat (s.mb m).req 2 2) (v.setWidth 16).toNat 8 0 []) ∧
      (t.mb m).busy = false ∧ (t.mb m).done = (s.mb m).done ∧ (t.mb m).lastSeq = (s.mb m).lastSeq ∧ OnlyChanges [.host] s t) ∧
  (∀ (g : Agent) (m : MboxId) (v : Word) (s : State), (s.mb m).transport = false → s.hallAbsent = false → (s.mb m).busy = true →
    (v.setWidth 16 = (s.mb m).seq → exec (.mbDoorbell g m v) s = .next s) ∧
    (v.setWidth 16 ≠ (s.mb m).seq → ∃ t, exec (.mbDoorbell g m v) s = .next t ∧ t.mb m = { s.mb m with overrun := true } ∧
      t.host.order = s.host.order ∧ (∀ k, k ≠ m → t.mb k = s.mb k) ∧ OnlyChanges [.host] s t)) ∧
  (∀ (g : Agent) (m : MboxId) (v : Word) (s : State), (s.mb m).transport = false → s.hallAbsent = false → (s.mb m).busy = false →
    (s.mb m).done = true → v.setWidth 16 = (s.mb m).lastSeq →
    ∃ t, exec (.mbDoorbell g m v) s = .next t ∧ t.host.mbox = s.host.mbox ∧ t.host.order = s.host.order ∧ OnlyChanges [.host, .dev] s t) ∧
  (∀ (bs : List Byte) (s : State) (m : MboxId), s.host.usbConfigured = true → s.sec.phase ≠ .rom → 16 ≤ bs.length → bs.length ≤ 4096 →
    bytesNat bs 6 1 = m.val → (s.mb m).transport = false → s.hallAbsent = false → (s.mb m).busy = false →
    ((s.mb m).done = false ∨ BitVec.ofNat 16 (bytesNat bs 4 2) ≠ (s.mb m).lastSeq) →
    Mailbox.headerFault { s.mb m with req := memWrite (s.mb m).req 0 bs, seq := BitVec.ofNat 16 (bytesNat bs 4 2) } m = none →
    (∀ k ∈ s.host.order, (s.mb k).headerFault k = none) → m ∉ s.host.order →
    ∃ t, exec (.mailboxTransfer bs) s = .next t ∧ t.mb m = { s.mb m with
        req := memWrite (s.mb m).req 0 bs, busy := true, done := false, seq := BitVec.ofNat 16 (bytesNat bs 4 2), path := .endpoint1,
        phase := .rung } ∧ t.host.order = s.host.order ++ [m] ∧ OnlyChanges [.host] s t) ∧
  (∀ (m : MboxId) (s : State) (code st d : Nat) (x : Option CellId) (items : List Byte), s.hallAbsent = false →
    (s.mb m).phase = .taken true code x st d items →
    MbDoes (.backgroundCommandDone m) s m code st d items [] fun _ => True)) ∧
  (∀ (s : State) (m : MboxId) (w : Word) (b : Bool) (n : Nat) (pc : List (Nat × Nat × Nat)) (k : Fin 16) (pd : List (CellId × BitVec 256)),
    ∀ r ∈ ([(.deviceInfo m, 0x01, fun _ _ => none), (.eventConfigure m, 0x02, eventItems), (.eventRead m, 0x03, eventReadItems),
        (.captureConfigure m, 0x04, captureItems), (.captureRead m, 0x05, fun _ _ => none), (.portConfigure m, 0x30, portItems),
        (.roceQpConfigure m, 0x31, qpItems), (.cellConfigure m, 0x20, configureItems), (.cellStart m, 0x21, cellItem),
        (.histConfigure m, 0x24, orItems cellItem (paramOk histParams)), (.harqConfigure m, 0x25, harqItems),
        (.auditConfigure m, 0x2A, orItems cellItem auditItems), (.adaptExport m, 0x2C, orItems cellItem adaptItems),
        (.adaptImport m, 0x2D, orItems cellItem adaptItems), (.joinConfigure m w, 0x50, joinItems),
        (.pairConfigure m pc n b, 0x51, pairItems), (.lockstepConfigure m k pd b b, 0x52, lockstepItems)] :
        List (Instr × Nat × (Nat → List Byte → Option Bool))),
      s.mbTakes m r.2.1 = true →
      (∀ o, (s.sec.ready = true ∨ s.bootTakes r.2.1 = true) → firstFault r.2.2 [] (s.mb m).items.1 = some o →
        MbDoes r.1 s m r.2.1 2 (16 + o) [] [] fun t => t.host.capture.source = s.host.capture.source ∧ t.host.ringSize = s.host.ringSize) ∧
      (s.sec.ready = false → s.bootTakes r.2.1 = false → firstFault r.2.2 [] (s.mb m).items.1 = none → (s.mb m).items.2 = none →
        MbDoes r.1 s m r.2.1 8 0 [] [] fun t => t.host.capture.source = s.host.capture.source ∧ t.host.ringSize = s.host.ringSize))

/-- DEVICE_INFO, EVENT_CONFIGURE, EVENT_READ, CAPTURE_CONFIGURE, CAPTURE_READ, PORT_CONFIGURE, ROCE_QP_CONFIGURE and REINIT complete:
what each answers and sets (R283, R284, R308, R437, R447, R484 and Table 15-8). -/
def Obligations.HostCommandsConfigureTheDevice : Prop :=
  (∀ (s : State) (m : MboxId) (l : List MItem), MbRuns s m 0x01 (fun _ _ => none) l →
    MbDoes (.deviceInfo m) s m 0x01 0 0 (itemBytes 12 s.deviceInfo) [] fun _ => True) ∧
  (∀ (s : State) (m : MboxId) (l : List MItem), MbRuns s m 0x02 eventItems l →
    MbDoes (.eventConfigure m) s m 0x02 0 0 [] [] fun t => t.host.ringSize = (itemNum l 11).getD s.host.ringSize ∧
      t.host.evtMask = ((itemNum l 6).map (BitVec.ofNat 16)).getD s.host.evtMask ∧ t.host.capture.source = s.host.capture.source) ∧
  (∀ (s : State) (m : MboxId) (l : List MItem), MbRuns s m 0x03 eventReadItems l →
    MbDoes (.eventRead m) s m 0x03 0 0
      (itemBytes 12 (((s.host.recordsFrom (itemNum l 4)).take ((itemNum l 5).getD 127)).flatMap eventBytes)) [] fun _ => True) ∧
  (∀ (s : State) (m : MboxId) (l : List MItem), MbRuns s m 0x04 captureItems l →
    ((itemNum l 10).getD s.host.capture.source = 2 → s.sec.debug = 0 →
      MbDoes (.captureConfigure m) s m 0x04 3 10 [] [] fun t => t.host.capture.source = s.host.capture.source) ∧
    (((itemNum l 10).getD s.host.capture.source ≠ 2 ∨ s.sec.debug ≠ 0) →
      MbDoes (.captureConfigure m) s m 0x04 0 0 [] [] fun t =>
        t.host.capture.source = (itemNum l 10).getD s.host.capture.source ∧ t.host.capture.size = (itemNum l 11).getD s.host.capture.size ∧
        t.host.capture.enabled = ((itemNum l 6).map (· == 1)).getD s.host.capture.enabled ∧
        t.host.capture.target = ((itemNum l 1).map (BitVec.ofNat 16)).getD s.host.capture.target)) ∧
  (∀ (s : State) (m : MboxId) (l : List MItem), MbRuns s m 0x05 (fun _ _ => none) l →
    (s.endpoint2 = true →
      ∃ t, exec (.captureRead m) s = .next t ∧ (t.mb m).phase = .taken true 0x05 none 0 0 [] ∧ m ∉ t.host.order ∧
        (∀ i, i * 65536 < s.host.capture.data.length → OutMsg.usbMessage 3 0 (s.mb m).seq (BitVec.ofNat 32 (i * 65536)) 0
          ((s.host.capture.data.drop (i * 65536)).take 65536) ∈ t.out) ∧ OnlyChanges [.host, .dev, .qps, .out] s t) ∧
    (s.endpoint2 = false → MbDoes (.captureRead m) s m 0x05 8 0 [] [] fun _ => True)) ∧
  (∀ (s : State) (m : MboxId) (l : List MItem) (p : PortId) (k : Nat), MbRuns s m 0x30 portItems l → itemNum l 1 = some k → k % 4 = p.val →
    (s.portBusy p = true → MbDoes (.portConfigure m) s m 0x30 3 1 [] [] fun _ => True) ∧
    (s.portBusy p = false → MbDoes (.portConfigure m) s m 0x30 0 0 [] [.eth, .pwr] fun t =>
      (t.port p).mode = (itemNum l 0x0A09).getD (s.port p).mode ∧ ((t.port p).en = true ↔ (t.port p).mode ≠ 0) ∧
      fld (t.port p).ctrl 13 0 = (itemNum l 0x0A0C).getD (fld (s.port p).ctrl 13 0) ∧
      (t.port p).vid.toNat = (itemNum l 0x0A0A).getD (s.port p).vid.toNat ∧ (t.port p).pcp = (itemNum l 0x0A0B).getD (s.port p).pcp ∧
      (t.port p).staged = (s.port p).staged ∧ (∀ q, q ≠ p → t.port q = s.port q) ∧
      ∀ d, d < 86 → d ≠ 75 + p.val → t.domainOn d = s.domainOn d)) ∧
  (∀ (s : State) (m : MboxId) (l : List MItem) (q : QpId), MbRuns s m 0x31 qpItems l → itemNum l 0x0A10 = some q.val →
    (s.mb m).path = .registers → s.host.order = [m] →
    MbDoes (.roceQpConfigure m) s m 0x31 0 0 [] [] fun t => (t.qp q).configured = (true : Bool) ∧
      (t.qp q).mtu = (itemNum l 0x0A12).getD (s.qp q).mtu ∧ (t.qp q).retryT = (itemNum l 0x0A16).getD (s.qp q).retryT ∧
      (t.qp q).gid = ((itemNum l 0x0A13).map (BitVec.ofNat 128)).getD (s.qp q).gid ∧
      (t.qp q).qpn = ((itemNum l 0x0A14).map (BitVec.ofNat 32)).getD (s.qp q).qpn ∧
      (t.qp q).mac = ((itemNum l 0x0A15).map (BitVec.ofNat 48)).getD (s.qp q).mac ∧ (itemVal l 0x0A17 = none → (t.qp q).regions = (s.qp q).regions) ∧
      ((∃ id ∈ [0x0A11, 0x0A12, 0x0A13, 0x0A14, 0x0A15], (itemVal l id).isSome = true) →
        (t.qp q).error = false ∧ (t.qp q).psn = 0 ∧ (t.qp q).expect = 0 ∧ (t.qp q).sent = []) ∧
      (∀ r, r ≠ q → t.qp r = s.qp r) ∧ t.out = s.out) ∧
  (∀ (s : State) (m : MboxId) (l : List MItem) (k : Nat), MbRuns s m 0x06 (fun id v => if id = 1 then some (sized 2 v) else none) l →
    itemNum l 1 = some k →
    (∀ c : CellId, k = c.val → (s.cell c).configured = false → MbDoes (.reinit m) s m 0x06 8 0 [] [] fun _ => True) ∧
    (∀ c : CellId, k = c.val → (s.cell c).configured = true → ∃ t, exec (.reinit m) s = .next t ∧ MbAnswers s t m 0x06 0 0 [] ∧
      vget t.time.plans c = [] ∧ (t.cell c).wdSlots = [] ∧ CellCounts s t c .cellReinit 1 ∧ OtherCells c s t) ∧
    (∀ p : PortId, k = 0x100 + p.val → MbDoes (.reinit m) s m 0x06 0 0 [] [.eth] fun t =>
      t.port p = { s.port p with linkUp := false, fecLock := false, staged := [], paused := Vector.replicate 8 0 } ∧
      ∀ q, q ≠ p → t.port q = s.port q) ∧
    (∀ u : LinkId, k = 0x200 + u.val → MbDoes (.reinit m) s m 0x06 0 0 [] [.join] fun t =>
      (vget t.join.links u).up = false ∧ (vget t.join.links u).lanes = 0 ∧ ∀ q, q ≠ u → vget t.join.links q = vget s.join.links q) ∧
    (∀ q : QpId, k = 0x300 + q.val → (s.qp q).configured = true → (s.mb m).path = .registers → s.host.order = [m] →
      MbDoes (.reinit m) s m 0x06 0 0 [] [] fun t => (t.qp q).error = false ∧ (t.qp q).psn = 0 ∧ (t.qp q).expect = 0 ∧ (t.qp q).sent = [] ∧
        (t.qp q).regions = (s.qp q).regions ∧ ∀ r, r ≠ q → t.qp r = s.qp r))

/-- CELL_CONFIGURE, CELL_START and CELL_STOP complete (R36, R37, R196, R320, R326, R359, R433). CELL_CONFIGURE sets the items given, and at the first configuration the defaults of the
others; what may not change on a running cell is DENIED, and a cell that does not fit is NO_RESOURCE. CELL_START serves a configured
cell from the first slot whose release lies at least 300 µs ahead while the clock is locked; CELL_STOP ends the cell once its
registered plans have run and frees its HARQ pages. -/
def Obligations.CellsAreConfiguredStartedAndStopped : Prop :=
  (∀ (s : State) (m : MboxId) (l : List MItem) (c : CellId) (y : Cell), MbRuns s m 0x20 configureItems l →
    itemNum l 0x0101 = some c.val → (s.cell c).configuredBy c l = y →
    ((s.cell c).running = true → (∃ p ∈ fixedParams, (s.cell c).get p.2 ≠ y.get p.2) →
      ∃ d, MbDoes (.cellConfigure m) s m 0x20 3 d [] [] fun _ => True) ∧
    (((s.cell c).running = false ∨ ∀ p ∈ fixedParams, (s.cell c).get p.2 = y.get p.2) → y.get .nPrb ≤ maxPrb (y.get .mu) →
      (itemVal l 0x0112 = none ∨ y.get .adaptMode ≠ 1) →
      ((s.modCell c fun _ => y).loadFits = false → MbDoes (.cellConfigure m) s m 0x20 6 0x0101 [] [] fun _ => True) ∧
      ((s.modCell c fun _ => y).loadFits = true → (s.modCell c fun _ => y).portsFit = false →
        MbDoes (.cellConfigure m) s m 0x20 6 0x0107 [] [] fun _ => True) ∧
      ((s.modCell c fun _ => y).loadFits = true → (s.modCell c fun _ => y).portsFit = true → (s.modCell c fun _ => y).queuesFit = false →
        MbDoes (.cellConfigure m) s m 0x20 6 0x0103 [] [] fun _ => True) ∧
      ((s.modCell c fun _ => y).loadFits = true → (s.modCell c fun _ => y).portsFit = true → (s.modCell c fun _ => y).queuesFit = true →
        (s.modCell c fun _ => y).usbFits = true →
        MbDoes (.cellConfigure m) s m 0x20 0 0 [] [.cells, .time, .pwr, .sec, .free, .valley] fun t =>
          (t.cell c).configured = true ∧ (t.cell c).running = (s.cell c).running ∧
          (∀ p ∈ cellParams ++ frontParams ++ frameParams, (t.cell c).get p.param = (itemNum l p.id).getD
            (if (s.cell c).configured then (s.cell c).get p.param else p.param.default c)) ∧
          vget t.time.timing c = some ⟨y.get .mu, y.get .planLead, y.get .frameOffsetNs, y.get .sfnOffset⟩ ∧
          ∀ d, d ≠ c → (t.cell d).param = (s.cell d).param ∧ (t.cell d).running = (s.cell d).running))) ∧
  (∀ (s : State) (m : MboxId) (l : List MItem) (c : CellId), MbRuns s m 0x21 cellItem l → itemsCell l = some c →
    (((s.cell c).configured = false ∨ s.time.servo.locked = false) → MbDoes (.cellStart m) s m 0x21 8 0 [] [] fun _ => True) ∧
    ((s.cell c).configured = true → s.time.servo.locked = true → (s.cell c).running = false →
      (s.frameTiming c).mu = 0 ∨ (s.frameTiming c).mu = 1 ∨ (s.frameTiming c).mu = 3 →
      MbDoes (.cellStart m) s m 0x21 0 0 [] [.cells] fun t => (t.cell c).running = true ∧ (t.cell c).stopping = false ∧
        (∃ k, (t.cell c).lastSlot = some (k - 1) ∧
          s.now + ns 300000 ≤ (s.frameTiming c).start k - ns ((s.frameTiming c).planLead * 1000 : Nat) ∧
          (s.frameTiming c).start (k - 1) - ns ((s.frameTiming c).planLead * 1000 : Nat) < s.now + ns 300000) ∧
        (t.cell c).param = (s.cell c).param ∧ OtherCells c s t)) ∧
  (∀ (s : State) (m : MboxId) (l : List MItem) (c : CellId), (s.mb m).phase = .rung → MbRuns s m 0x22 cellItem l → itemsCell l = some c →
    ((s.cell c).running = false → MbDoes (.cellStop m) s m 0x22 0 0 [] [] fun _ => True) ∧
    ((s.cell c).running = true → s.plansRun c = true →
      MbDoes (.cellStop m) s m 0x22 0 0 [] [.cells, .harq, .hist, .mem, .fab, .valley] fun t => (t.cell c).running = false ∧
        (∀ p, p ∈ t.harq.pages ↔ p ∈ s.harq.pages ∧ p.cell ≠ c) ∧ (t.cell c).param = (s.cell c).param ∧ OtherCells c s t) ∧
    ((s.cell c).running = true → s.plansRun c = false →
      ∃ t, exec (.cellStop m) s = .next t ∧ (t.cell c).stopping = true ∧ (t.cell c).running = true ∧
        (t.mb m).phase = .taken false 0x22 (some c) 0 0 [] ∧ m ∉ t.host.order ∧ OtherCells c s t ∧ OnlyChanges [.host, .cells] s t)) ∧
  (∀ (s : State) (m : MboxId) (c : CellId), (s.mb m).phase = .taken false 0x22 (some c) 0 0 [] → s.hallAbsent = false → s.plansRun c = true →
    MbDoes (.cellStop m) s m 0x22 0 0 [] [.cells, .harq, .hist, .mem, .fab, .valley] fun t => (t.cell c).running = false ∧
      (∀ p, p ∈ t.harq.pages ↔ p ∈ s.harq.pages ∧ p.cell ≠ c) ∧ OtherCells c s t)

/-- CELL_STATUS, HIST_CONFIGURE, HARQ_CONFIGURE, HARQ_FLUSH, AUDIT_CONFIGURE and AUDIT_READ complete (R177, R181, R195, R373, R377,
R379, R436). CELL_STATUS returns the settings digest and the 44 cell counters and clears them on
request; HIST_CONFIGURE, HARQ_CONFIGURE and AUDIT_CONFIGURE set what their items give, where it fits; HARQ_FLUSH frees the pages of a
cell or of one of its UEs; AUDIT_READ returns audit records. -/
def Obligations.CellServicesAreConfigured : Prop :=
  (∀ (s : State) (m : MboxId) (l : List MItem) (c : CellId),
    MbRuns s m 0x23 (orItems cellItem fun id v => if id = 3 then some (inRange 0 1 v) else none) l → itemsCell l = some c →
    MbDoes (.cellStatus m) s m 0x23 0 0
      (itemBytes 1 (natLE 2 c.val) ++ itemBytes 0x1000 (digestBytes (Config.shake256 (s.settingsBytes c))) ++
        (List.finRange 44).flatMap fun i => itemBytes (0x1001 + i.val) (natLE 4 (vget (s.cell c).ctr i).toNat)) [.cells] fun t =>
      (itemNum l 3 = some 1 → ∀ i, vget (t.cell c).ctr i = 0) ∧ (itemNum l 3 ≠ some 1 → t.cells = s.cells) ∧
      (t.cell c).param = (s.cell c).param ∧ OtherCells c s t) ∧
  (∀ (s : State) (m : MboxId) (l : List MItem) (c : CellId) (y : Cell), MbRuns s m 0x24 (orItems cellItem (paramOk histParams)) l →
    itemsCell l = some c → (s.cell c).setItems l histParams = y →
    ((s.cell c).running = true → (∃ p ∈ [CellParam.window, .tok, .keyFmt, .prefixLen], (s.cell c).get p ≠ y.get p) →
      ∃ d, MbDoes (.histConfigure m) s m 0x24 3 d [] [] fun _ => True) ∧
    (((s.cell c).running = false ∨ ∀ p ∈ [CellParam.window, .tok, .keyFmt, .prefixLen], (s.cell c).get p = y.get p) →
      y.get .prefixLen + y.get .window ≤ 128 →
      ((s.modCell c fun _ => y).histFits = false →
        MbDoes (.histConfigure m) s m 0x24 6 0x0706 [] [] fun _ => True) ∧
      ((s.modCell c fun _ => y).histFits = true →
        MbDoes (.histConfigure m) s m 0x24 0 0 [] [.cells, .valley] fun t =>
          (∀ p ∈ histParams, (t.cell c).get p.param = (itemNum l p.id).getD ((s.cell c).get p.param)) ∧
          (t.cell c).running = (s.cell c).running ∧ OtherCells c s t))) ∧
  (∀ (s : State) (m : MboxId) (l : List MItem), MbRuns s m 0x25 harqItems l →
    ((∃ c, (s.cell c).running = true) → MbDoes (.harqConfigure m) s m 0x25 3 0x0601 [] [] fun _ => True) ∧
    ((∀ c, (s.cell c).running = false) → MbDoes (.harqConfigure m) s m 0x25 0 0 [] [.harq, .free, .valley] fun t =>
      t.harq.pool = (itemNum l 0x0601).getD s.harq.pool ∧ t.harq.maxAge = (itemNum l 0x0602).getD s.harq.maxAge ∧
      t.harq.pages = s.harq.pages)) ∧
  (∀ (s : State) (m : MboxId) (l : List MItem) (c : CellId),
    MbRuns s m 0x26 (orItems cellItem fun id v => if id = 8 then some (sized 2 v) else none) l → itemsCell l = some c →
    MbDoes (.harqFlush m) s m 0x26 0 0 [] [.harq, .valley] fun t =>
      ∀ p, p ∈ t.harq.pages ↔ p ∈ s.harq.pages ∧ ¬(p.cell = c ∧ ∀ k, itemNum l 8 = some k → p.rnti = BitVec.ofNat 16 k)) ∧
  (∀ (s : State) (m : MboxId) (l : List MItem) (c : CellId) (a n off : Nat), MbRuns s m 0x2A (orItems cellItem auditItems) l →
    itemsCell l = some c → itemNum l 7 = some a → itemNum l 11 = some n → placeOf a n = .plain off → a % 64 = 0 →
    (itemNum l 0x0D09 = some 0 ∨ (s.modCell c fun x => { x with audit := true }).loadFits = true) →
    MbDoes (.auditConfigure m) s m 0x2A 0 0 [] [.cells, .free] fun t => (t.cell c).digestRing = a ∧ (t.cell c).digestSize = n ∧
      (t.cell c).audit = ((itemNum l 0x0D09).map (· == 1)).getD (s.cell c).audit ∧
      (t.cell c).digestPos = (if a = (s.cell c).digestRing ∧ n = (s.cell c).digestSize then (s.cell c).digestPos else 0) ∧
      (t.cell c).param = (s.cell c).param ∧ OtherCells c s t) ∧
  (∀ (s : State) (m : MboxId) (l : List MItem) (c : CellId),
    MbRuns s m 0x2B (orItems cellItem fun id v => if id = 4 then some (sized 4 v) else if id = 5 then some (inRange 1 42 v) else none) l →
    itemsCell l = some c →
    MbDoes (.auditRead m) s m 0x2B 0 0
      (itemBytes 12 ((((s.cell c).audits.drop ((itemNum l 4).getD ((s.cell c).auditCount - (s.cell c).audits.length) -
        ((s.cell c).auditCount - (s.cell c).audits.length))).take ((itemNum l 5).getD 42)).flatMap (auditBytes c))) [] fun _ => True)

/-- JOIN_CONFIGURE, PAIR_CONFIGURE and LOCKSTEP_CONFIGURE complete (R365, R384, R388, R390, R394). JOIN_CONFIGURE takes a system whose device numbers, link map and queue pairs are consistent, powers
exactly the links that the map names, and ends pairs with former members; PAIR_CONFIGURE pairs with a directly linked member while
GPIO6 is free, no comparison runs and both devices carry all the cells; LOCKSTEP_CONFIGURE pairs for comparison with such a member of
the same class and settings, and ends the comparison with CELLS 0. -/
def Obligations.JoinedDevicesAreConfigured : Prop :=
  (∀ (s : State) (m : MboxId) (l : List MItem) (w : Word) (j : Join), MbRuns s m 0x50 joinItems l → s.join.configuredBy l = j →
    (j.members ≠ 0 → j.members.getLsbD j.device.val = false → ∃ d, MbDoes (.joinConfigure m w) s m 0x50 2 d [] [] fun _ => True) ∧
    ((j.members = 0 ∨ j.members.getLsbD j.device.val = true) → linkMapOk j w = true → j.reaches = true →
      MbDoes (.joinConfigure m w) s m 0x50 0 0 [] [.join, .pwr, .stalls, .cells, .valley] fun t =>
        t.join.system = ((itemNum l 0x0D01).map (BitVec.ofNat 32)).getD s.join.system ∧
        t.join.members = ((itemNum l 0x0D03).map (BitVec.ofNat 16)).getD s.join.members ∧
        (∀ d, itemNum l 0x0D02 = some d → t.join.device.val = d % 16) ∧ t.join.linkMap = j.linkMap ∧ t.join.qpMap = j.qpMap ∧
        (∀ u : LinkId, t.domainOn (79 + u.val) = true ↔ vget j.linkMap u ≠ 0xFF) ∧
        (∀ d, d < 79 ∨ 82 ≤ d → d < 86 → t.domainOn d = s.domainOn d) ∧
        (∀ p, t.join.pair = some p ↔ s.join.pair = some p ∧ j.members.getLsbD p.partner.val = true) ∧
        ∀ p, t.join.lockstep = some p ↔ s.join.lockstep = some p ∧ j.members.getLsbD p.partner.val = true)) ∧
  (∀ (s : State) (m : MboxId) (l : List MItem) (pc : List (Nat × Nat × Nat)) (n k : Nat) (b : Bool) (d : DeviceId) (load : Rat),
    MbRuns s m 0x51 pairItems l → itemNum l 0x0D07 = some d.val → itemNum l 0x0D08 = some k →
    (((s.configuredCells.filter fun c => !k.testBit c.val).map fun c => cellLoad (s.cell c) 80).sum +
      (pc.map fun x => shapeLoad x.1 x.2.1 x.2.2 80).sum = load) →
    ((s.join.member d = false ∨ (vlist s.join.linkMap).contains (BitVec.ofNat 8 d.val) = false) →
      MbDoes (.pairConfigure m pc n b) s m 0x51 8 0 [] [] fun _ => True) ∧
    (s.join.member d = true → (vlist s.join.linkMap).contains (BitVec.ofNat 8 d.val) = true →
      ((wbit s.time.ioSel 8 = true ∨ b = true ∨ s.join.lockstep.isSome = true) →
        MbDoes (.pairConfigure m pc n b) s m 0x51 4 0x0D07 [] [] fun _ => True) ∧
      (wbit s.time.ioSel 8 = false → b = false → s.join.lockstep = none →
        ((pairFits load s.effMhz = false ∨ pairFits load n = false) →
          MbDoes (.pairConfigure m pc n b) s m 0x51 6 0x0D08 [] [] fun _ => True) ∧
        (pairFits load s.effMhz = true → pairFits load n = true →
          MbDoes (.pairConfigure m pc n b) s m 0x51 0 0 [] [.join] fun t =>
            t.join = { s.join with pair := some ⟨d, BitVec.ofNat 16 k, false, false⟩ })))) ∧
  (∀ (s : State) (m : MboxId) (l : List MItem) (pcl : Fin 16) (pd : List (CellId × BitVec 256)) (pp fits : Bool) (d : DeviceId) (k : Nat),
    MbRuns s m 0x52 lockstepItems l → itemNum l 0x0D08 = some k →
    (k = 0 → MbDoes (.lockstepConfigure m pcl pd pp fits) s m 0x52 0 0 [] [.join] fun t => t.join = { s.join with lockstep := none }) ∧
    (0 < k → k < 65536 → itemNum l 0x0D07 = some d.val → s.join.member d = true →
      (vlist s.join.linkMap).contains (BitVec.ofNat 8 d.val) = true →
      ((pcl.val ≠ deviceClass ∨ s.join.pair.isSome = true ∨ pp = true) →
        MbDoes (.lockstepConfigure m pcl pd pp fits) s m 0x52 4 0x0D07 [] [] fun _ => True) ∧
      (pcl.val = deviceClass → s.join.pair = none → pp = false →
        ((∃ c : CellId, k.testBit c.val = true ∧ (c, s.settingsDigest c) ∉ pd) →
          MbDoes (.lockstepConfigure m pcl pd pp fits) s m 0x52 4 0x0D08 [] [] fun _ => True) ∧
        ((∀ c : CellId, k.testBit c.val = true → (c, s.settingsDigest c) ∈ pd) →
          (if (itemNum l 0x0D06).getD 0 = 1 then s.loadFits else fits) = true →
          MbDoes (.lockstepConfigure m pcl pd pp fits) s m 0x52 0 0 [] [.join] fun t => t.join = { s.join with
            lockstep := some ⟨d, (itemNum l 0x0D06).getD 0 == 1, BitVec.ofNat 16 k, (itemNum l 0x0C11).getD 0 == 1, [], []⟩ }))))

/-- TB_RATE_WRITE and RATE_APPLY complete (R314): a write to TB_RATE takes effect at the next tick, of several the last: the tick first sets the anchor to the time under the old
rate, then applies the new one, so that time does not jump. A tick without step requests advances time by at least 130 816
units. -/
def Obligations.RateChangesAtTheNextTick : Prop :=
  (∀ (s : State) (v : Word), ∃ t, exec (.tbRateWrite v) s = .next t ∧ t = { s with time := { s.time with ratePend := some v } }) ∧
  (∀ (s : State) (v w : Word), ∃ t u, exec (.tbRateWrite v) s = .next t ∧ exec (.tbRateWrite w) t = .next u ∧
    u.time.ratePend = some w ∧ u.time.rate = s.time.rate ∧ u.time.ptp = s.time.ptp) ∧
  (∀ (s : State), ∃ t, exec .rateApply s = .next t ∧ t.time.rate = s.time.ratePend.getD s.time.rate ∧ t.time.ratePend = none ∧
    t.time.cnt = s.time.cnt ∧ t.time.ptp = s.time.ptp ∧ OnlyChanges [.time] s t) ∧
  (∀ (s : State), s.pending = [] → s.time.stepPend = [] → (s.time.cnt - s.time.anchorC).toNat + 1 < 2 ^ 64 →
    ∃ t, step s = .next t ∧ t.time.cnt = s.time.cnt + 1 ∧ t.time.rate = s.time.ratePend.getD s.time.rate ∧ t.time.ratePend = none ∧
      t.time.ptp = TimeBase.ptp { s.time with cnt := s.time.cnt + 1 } ∧ s.time.ptp + 130816 ≤ t.time.ptp ∧
      (s.time.ratePend ≠ none → t.time.anchorC = t.time.cnt ∧ t.time.anchorT = t.time.ptp) ∧ OnlyChanges [.time, .valley, .out] s t)

/-- TB_STEP_GO, STEP_JUDGE, TIME_STEP, TB_NOW_LATCH, PLAN_REGISTER, TIME_IO_SEL_WRITE, PPS_OUTPUT, TIME_IO_CAPTURE and TIME_IO_CONFIGURE
complete (R316, R317, R318, R329, R330, R331, R332). A GO is judged at the tick after its rate change; the first is accepted and moves PTP
time by the signed amount, every later one is denied and counted, and TIME_STEP is answered so. A read of TB_NOW_FRAC latches one
tick. A plan of a slot that is still to be released takes one of the cell's 4 entries, replaces one for its slot, or is refused. The
pins follow the function selected. -/
def Obligations.OneStepThenPlansAndPins : Prop :=
  (∀ (s : State) (g : Agent) (a : Word) (c : CellId) (f : FrameTiming) (air : AirSlot) (k : Int), s.time.planCell = c →
    vget s.time.timing c = some f → s.time.stepped = true → fld s.time.planSlot 6 0 < slotsPerFrame f.mu → f.mu ≤ 3 →
    air.sfn.val = fld s.time.planSlot 17 8 → air.slot.val = fld s.time.planSlot 6 0 → f.absOf s.now air = k →
    s.reached (f.start k - ns (s.planLeadOf c k * 1000 : Nat)) = false →
    (∀ q ∈ vget s.time.plans c, q.slot ≠ air) → (vget s.time.plans c).length < 4 →
    ∃ t, exec (.planRegister g a) s = .next t ∧ vget t.time.plans c = vget s.time.plans c ++
        [⟨air, a, nsOf (f.start k), nsOf (f.start k - ns (s.planLeadOf c k * 1000 : Nat))⟩] ∧
      (∀ d, d ≠ c → vget t.time.plans d = vget s.time.plans d) ∧ OnlyChanges [.time] s t) ∧
  (∀ (s : State) (v : Word), ∃ t, exec (.tbStepGo v) s = .next t ∧ t = { s with time := { s.time with
    stepFrac := (v >>> 16).setWidth 16, stepPend := if v.getLsbD 0 then s.time.stepPend ++ [none] else s.time.stepPend } }) ∧
  (∀ (s : State) (a : Int), a = (s.time.stepSHi ++ s.time.stepSLo).toInt * 65536000000000 + (s.time.stepNs.toNat : Int) * 65536 +
      s.time.stepFrac.toNat → s.time.stepped = false →
    (s.time.stepPend = [none] → ∃ t, exec .stepJudge s = .next t ∧ t.time.stepped = true ∧ t.time.denied = false ∧
      t.time.ptp = s.time.ptp + a ∧ t.time.stepPend = [] ∧ OnlyChanges [.time, .host, .dev] s t) ∧
    (s.time.stepPend = [none, none] → ∃ t, exec .stepJudge s = .next t ∧ t.time.stepped = true ∧ t.time.denied = true ∧
      t.time.ptp = s.time.ptp + a ∧ t.devCtr .tbStepDenied = (s.devCtr .tbStepDenied).add 1) ∧
    (∀ m st d items, s.time.stepPend = [some m] → (s.mb m).phase = .taken false 0x33 none st d items →
      ∃ t, exec .stepJudge s = .next t ∧ MbAnswers s t m 0x33 st d items ∧ t.time.ptp = s.time.ptp + a ∧ t.time.stepped = true)) ∧
  (∀ (s : State), s.time.stepped = true →
    (s.time.stepPend = [none] → ∃ t, exec .stepJudge s = .next t ∧ t.time.denied = true ∧ t.time.ptp = s.time.ptp ∧
      t.devCtr .tbStepDenied = (s.devCtr .tbStepDenied).add 1 ∧ OnlyChanges [.time, .dev] s t) ∧
    (∀ m st d items, s.time.stepPend = [some m] → (s.mb m).phase = .taken false 0x33 none st d items →
      ∃ t, exec .stepJudge s = .next t ∧ MbAnswers s t m 0x33 3 0 [] ∧ t.time.ptp = s.time.ptp ∧ t.time.denied = true)) ∧
  (∀ (s : State) (m : MboxId), MbRuns s m 0x33 (fun _ _ => none) [] →
    ∃ t, exec (.timeStep m) s = .next t ∧ (t.mb m).phase = .taken false 0x33 none 0 0 [] ∧ t.time = { s.time with
      stepPend := s.time.stepPend ++ [some m] } ∧ m ∉ t.host.order ∧ OnlyChanges [.host, .time] s t) ∧
  (∀ (s : State) (g : Agent), ∃ t, exec (.tbNowLatch g) s = .next t ∧ (t.time.nowNs.toNat : Int) = nsOf s.time.ptp % 1000000000 ∧
    ((t.time.nowSHi ++ t.time.nowSLo).toNat : Int) = (nsOf s.time.ptp / 1000000000) % 2 ^ 48 ∧
    t.time.nowCntHi ++ t.time.nowCntLo = s.time.cnt ∧ t.time.ptp = s.time.ptp ∧ OnlyChanges [.time] s t) ∧
  (∀ (s : State) (g : Agent) (a : Word) (c : CellId), s.time.planCell = c →
    ((s.time.stepped = false ∨ vget s.time.timing c = none ∨
        (∃ f, vget s.time.timing c = some f ∧ slotsPerFrame f.mu ≤ fld s.time.planSlot 6 0) ∨ s.planReg a = none) →
      ∃ t, exec (.planRegister g a) s = .next t ∧ t.devCtr .tbPlanRefused = (s.devCtr .tbPlanRefused).add 1 ∧ OnlyChanges [.dev] s t) ∧
    (∀ p, s.planReg a = some p → p.addr = a ∧ nsOf s.time.ptp < p.release ∧
      ((∃ q ∈ vget s.time.plans c, q.slot = p.slot) → ∃ t, exec (.planRegister g a) s = .next t ∧
        t.devCtr .tbPlanReplaced = (s.devCtr .tbPlanReplaced).add 1 ∧ p ∈ vget t.time.plans c ∧
        (vget t.time.plans c).length = (vget s.time.plans c).length ∧
        (∀ q, q.slot ≠ p.slot → (q ∈ vget t.time.plans c ↔ q ∈ vget s.time.plans c)) ∧ OnlyChanges [.dev, .time] s t) ∧
      ((∀ q ∈ vget s.time.plans c, q.slot ≠ p.slot) → 4 ≤ (vget s.time.plans c).length → ∃ t, exec (.planRegister g a) s = .next t ∧
        t.devCtr .tbPlanRefused = (s.devCtr .tbPlanRefused).add 1 ∧ OnlyChanges [.dev] s t) ∧
      ((∀ q ∈ vget s.time.plans c, q.slot ≠ p.slot) → (vget s.time.plans c).length < 4 → ∃ t, exec (.planRegister g a) s = .next t ∧
        vget t.time.plans c = vget s.time.plans c ++ [p] ∧ (∀ d, d ≠ c → vget t.time.plans d = vget s.time.plans d) ∧
        OnlyChanges [.time] s t))) ∧
  (∀ (s : State) (v : Word), ∃ t, exec (.timeIoSelWrite v) s = .next t ∧ t.time.ioSel = v &&& 0x3737 ∧ t.time.ptp = s.time.ptp ∧
    t.devCtr .pinConflict = (if ioConflict (v &&& 0x3737) then (s.devCtr .pinConflict).add 1 else s.devCtr .pinConflict) ∧
    OnlyChanges [.dev, .time] s t) ∧
  (∀ (s : State), (s.time.stepped = false → exec .ppsOutput s = .next s) ∧
    (s.time.stepped = true → ioActive s.time.ioSel 1 = true → s.time.ppsLast < nsOf s.time.ptp / 1000000000 →
      ∃ t, exec .ppsOutput s = .next t ∧ t = { s with time := { s.time with
        ppsLast := nsOf s.time.ptp / 1000000000
        ppsHigh := some (ns (nsOf s.time.ptp / 1000000000 * 1000000000 + (max 1 (min 500000 (fld s.time.pps 18 0)) * 1000 : Nat))) } })) ∧
  (∀ (s : State) (b : Bool) (i : Fin 2), (i = if b then 1 else 0) → (if b then g7Active s.time.ioSel 0 else ioActive s.time.ioSel 2) = true →
    (∀ e, vget s.time.capLast i = some e → nsOf (s.up - e) < 1000 → ∃ t, exec (.timeIoCapture b) s = .next t ∧
      t.devCtr .tbCapOverrun = (s.devCtr .tbCapOverrun).add 1 ∧ OnlyChanges [.dev] s t) ∧
    ((∀ e, vget s.time.capLast i = some e → 1000 ≤ nsOf (s.up - e)) → ∃ t, exec (.timeIoCapture b) s = .next t ∧
      vget t.time.capCount i = vget s.time.capCount i + 1 ∧ vget t.time.capLast i = some s.up ∧ t.time.ptp = s.time.ptp ∧
      OnlyChanges [.time, .host, .dev, .free] s t)) ∧
  (∀ (s : State) (m : MboxId) (l : List MItem) (f g mon : Nat), MbRuns s m 0x34 timeIoItems l → itemNum l 0x0B05 = some f →
    itemNum l 0x0B06 = some g → itemNum l 0x0B07 = some mon →
    (f ≠ 0 → ioHolder s.time.ioSel ≠ 0 → f ≠ ioHolder s.time.ioSel →
      MbDoes (.timeIoConfigure m) s m 0x34 4 (ioHolder s.time.ioSel) [] [] fun _ => True) ∧
    ((f = 0 ∨ ioHolder s.time.ioSel = 0 ∨ f = ioHolder s.time.ioSel) → (g = 0 ∨ g7Holder s.time.ioSel = 0 ∨ g = g7Holder s.time.ioSel) →
      MbDoes (.timeIoConfigure m) s m 0x34 0 0 [] [.time] fun t => ioHolder t.time.ioSel = f ∧ g7Holder t.time.ioSel = g ∧
        fld t.time.ioSel 13 12 = mon ∧ ioConflict t.time.ioSel = false ∧ t.time.ptp = s.time.ptp))

/-- SYNC_RECEIVE, FOLLOW_UP_RECEIVE, DELAY_REQ_RECEIVE, DELAY_REQ_TRANSMIT, DELAY_RESP_RECEIVE, VALLEY_TIME_MESSAGE,
NO_EXCHANGE_TIMEOUT, ANNOUNCE_RECEIVE, SYNC_TRANSMIT, ANNOUNCE_TRANSMIT, TIME_CONFIGURE and TIME_STATUS complete (R320, R321, R322,
R323, R324, R325). PTP stamps lie within 4 ns of local time and the port's correction; an exchange steers by rate
after the step, alarms beyond 1 000 ns and locks after 16 within 50 ns; before the step the fourth asks for it. Master ports send only
while the time is LOCKED; an unsupported frame is counted as malformed. -/
def Obligations.ServoFollowsItsSource : Prop :=
  (∀ (s : State) (p : PortId) (m : PtpMsg), s.ptpOn p = true →
    (m.supported = false → ∃ t, exec (.syncReceive p m) s = .next t ∧
      t.devCtr (.ethRxMalformed p) = (s.devCtr (.ethRxMalformed p)).add 1 ∧ OnlyChanges [.dev] s t) ∧
    (m.supported = true → s.hallAbsent = false → s.isSlave p = true →
      (∃ t a, exec (.syncReceive p m) s = .next t ∧ s.now + (vget s.time.asym p).toInt - 262144 ≤ a ∧
        a ≤ s.now + (vget s.time.asym p).toInt + 262144 ∧
        t.time.servo.sync = some ⟨m.seqId, if m.twoStep then none else some m.origin, a - m.correction⟩ ∧ t.time.ptp = s.time.ptp ∧
        OnlyChanges [.time, .free] s t) ∧
      (∀ a, s.time.servo.sync = some ⟨m.seqId, none, a⟩ → ∃ t, exec (.followUpReceive p m) s = .next t ∧
        t.time.servo.sync = some ⟨m.seqId, some (m.origin + m.correction), a⟩ ∧ OnlyChanges [.time] s t)) ∧
    (m.supported = true → s.mayMaster p = true → ∃ t a, exec (.delayReqReceive p m) s = .next t ∧
      s.now + (vget s.time.asym p).toInt - 262144 ≤ a ∧ a ≤ s.now + (vget s.time.asym p).toInt + 262144 ∧
      t.out = s.out ++ [.ptp p 9 m.seqId a m.correction] ∧ OnlyChanges [.out, .free] s t)) ∧
  (∀ (s : State) (p : PortId) (q : BitVec 16), s.ptpOn p = true → s.isSlave p = true → s.hallAbsent = false →
    ∃ t a, exec (.delayReqTransmit p q) s = .next t ∧ s.departs p none Config.ptpFrame + (vget s.time.asym p).toInt - 262144 ≤ a ∧
      a ≤ s.departs p none Config.ptpFrame + (vget s.time.asym p).toInt + 262144 ∧ t.time.servo.delayReq = some (q, a) ∧ t.out = s.out ++ [.ptp p 1 q a 0] ∧
      OnlyChanges [.time, .out, .free] s t) ∧
  (∀ (s : State) (p : PortId) (m : PtpMsg) (r : Word) (k : BitVec 16) (t1 t2 t3 o : Int), s.ptpOn p = true → m.supported = true →
    s.hallAbsent = false → s.isSlave p = true → s.time.servo.delayReq = some (m.seqId, t3) → s.time.servo.sync = some ⟨k, some t1, t2⟩ →
    ((t2 - t1) - (m.origin - m.correction - t3)) / 2 = o →
    (s.time.stepped = true → -65536000 ≤ o → o ≤ 65536000 → ∃ t, exec (.delayRespReceive p m r) s = .next t ∧
      t.time.ratePend = some r ∧ t.time.servo.lastOffset = o ∧ t.time.servo.lastExchange = s.now ∧
      t.time.servo.run = (if -3276800 ≤ o ∧ o ≤ 3276800 then s.time.servo.run + 1 else 0) ∧
      (t.time.servo.locked = true ↔ s.time.servo.locked = true ∨ (15 ≤ s.time.servo.run ∧ -3276800 ≤ o ∧ o ≤ 3276800)) ∧
      t.time.ptp = s.time.ptp ∧ OnlyChanges [.time, .host, .dev] s t) ∧
    (s.time.stepped = true → (o < -65536000 ∨ 65536000 < o) → s.time.servo.alarm = false →
      ∃ t, exec (.delayRespReceive p m r) s = .next t ∧ t.time.servo.locked = false ∧ t.time.servo.alarm = true ∧
        t.time.servo.run = 0 ∧ t.time.ratePend = s.time.ratePend ∧ (∀ q, (vget t.time.servo.ports q).master = false) ∧
        OnlyChanges [.time, .host, .dev] s t) ∧
    (s.time.stepped = false → s.time.stepPend = [] → s.time.servo.offsets.length = 3 →
      (∀ x ∈ o :: s.time.servo.offsets, -2 ^ 90 < x ∧ x < 2 ^ 90) →
      ∃ t, exec (.delayRespReceive p m r) s = .next t ∧ t.time.stepPend = [none] ∧
        (∃ x ∈ o :: s.time.servo.offsets, x ≤ -t.time.stepAmount) ∧ (∃ x ∈ o :: s.time.servo.offsets, -t.time.stepAmount ≤ x) ∧
        t.time.ratePend = s.time.ratePend ∧ OnlyChanges [.time, .free] s t) ∧
    (s.time.stepped = false → s.time.servo.offsets.length < 3 → ∃ t, exec (.delayRespReceive p m r) s = .next t ∧
      t.time.servo.offsets = s.time.servo.offsets ++ [o] ∧ t.time.stepPend = s.time.stepPend ∧ OnlyChanges [.time] s t)) ∧
  (∀ (s : State) (u : LinkId) (o : Int) (r : Word), s.time.servo.source = 16 + u.val → (vget s.join.links u).up = true →
    s.hallAbsent = false → s.time.stepped = true → -65536000 ≤ o → o ≤ 65536000 →
    ∃ t, exec (.valleyTimeMessage u o r) s = .next t ∧ t.time.ratePend = some r ∧ t.time.servo.lastOffset = o ∧
      t.time.ptp = s.time.ptp ∧ OnlyChanges [.time, .host, .dev] s t) ∧
  (∀ (s : State), s.hallAbsent = false → s.time.servo.alarm = false → s.reached (s.time.servo.lastExchange + ns 2000000000) = true →
    ∃ t, exec .noExchangeTimeout s = .next t ∧ t.time.servo.locked = false ∧ t.time.servo.alarm = true ∧
      t.time.ratePend = s.time.ratePend ∧ OnlyChanges [.time, .host, .dev] s t) ∧
  (∀ (s : State) (p : PortId) (m : AnnounceMsg), s.ptpOn p = true → m.supported = true → s.hallAbsent = false →
    ∃ t, exec (.announceReceive p m) s = .next t ∧ (vget t.time.servo.ports p).best = some m.rank ∧
      (vget t.time.servo.ports p).heard = s.up ∧ (∀ q, q ≠ p → vget t.time.servo.ports q = vget s.time.servo.ports q) ∧
      OnlyChanges [.time] s t) ∧
  (∀ (s : State) (p : PortId) (q : BitVec 16), s.mayMaster p = true →
    (∃ t a w, exec (.syncTransmit p q false) s = .next t ∧ s.departs p none Config.ptpFrame + (vget s.time.asym p).toInt - 262144 ≤ a ∧
      a ≤ s.departs p none Config.ptpFrame + (vget s.time.asym p).toInt + 262144 ∧ w % 65536 = 0 ∧ w ≤ a ∧ a < w + 65536 ∧
      t.out = s.out ++ [.ptp p 0 q w (a - w)] ∧ OnlyChanges [.time, .out, .free] s t) ∧
    (∃ t a w, exec (.syncTransmit p q true) s = .next t ∧ w % 65536 = 0 ∧ w ≤ a ∧ a < w + 65536 ∧
      t.out = s.out ++ [.ptp p 0x80 q a 0, .ptp p 8 q w (a - w)] ∧ OnlyChanges [.time, .out, .free] s t) ∧
    ∃ t, exec (.announceTransmit p) s = .next t ∧ t.out = s.out ++ [.ptp p 0x0B 0 (s.departs p none Config.ptpFrame) 0] ∧ OnlyChanges [.time, .out] s t) ∧
  (∀ (s : State) (p : PortId) (q : BitVec 16) (b : Bool), s.time.servo.locked = false →
    exec (.syncTransmit p q b) s = .next s ∧ exec (.announceTransmit p) s = .next s) ∧
  (∀ (s : State) (m : MboxId) (l : List MItem), MbRuns s m 0x32 timeConfigureItems l →
    (∀ a p, itemNum l 0x0B09 = some a → itemNum l 1 = some (0x100 + p) → ∀ h : p < 4,
      MbDoes (.timeConfigure m) s m 0x32 0 0 [] [.time] fun t =>
        t.time.servo.source = (itemNum l 0x0B03).getD s.time.servo.source ∧ t.time.servo.domain = (itemNum l 0x0B04).getD s.time.servo.domain ∧
        vget t.time.asym ⟨p, h⟩ = BitVec.ofNat 32 a ∧ t.time.ptp = s.time.ptp ∧ t.time.stepped = s.time.stepped) ∧
    (itemNum l 0x0B09 = none → MbDoes (.timeConfigure m) s m 0x32 0 0 [] [.time] fun t =>
      t.time.servo.source = (itemNum l 0x0B03).getD s.time.servo.source ∧ t.time.servo.domain = (itemNum l 0x0B04).getD s.time.servo.domain ∧
      t.time.asym = s.time.asym ∧ t.time.ptp = s.time.ptp ∧ t.time.stepped = s.time.stepped)) ∧
  (∀ (s : State) (m : MboxId), MbRuns s m 0x35 (fun _ _ => none) [] → ∃ items, MbDoes (.timeStatus m) s m 0x35 0 0
    (itemBytes 0x0B03 [BitVec.ofNat 8 s.time.servo.source] ++ itemBytes 12 ([BitVec.ofNat 8 (bitNat s.time.servo.locked),
      BitVec.ofNat 8 (bitNat s.time.servo.alarm), BitVec.ofNat 8 (bitNat s.time.stepped)] ++ items)) [] fun _ => True)

/-- STALL_DOMAIN_OFF, STALL_DOMAIN_ON, ACLK_TARGET_REACHED, DROOP_TRIP, DROOP_STRETCH_END, DROOP_RECOVER and THERMAL_RELEASE_STEP
complete (R394, R395, R396, R398, R400, R401, R403, R410). A stall domain goes on with a clock within its target, or off with its memory and
engines lost; a clock reaches its target no sooner than it can slew there at 25 MHz per µs, and rises only once VDD_CORE is acknowledged at V_req; a droop stretches the clock, and too many lower the
stall's limit; a limit rises again by 25 MHz. After each of them the targets follow the limits. -/
def Obligations.StallClocksFollowTheirLimits : Prop :=
  (∀ (s : State) (n : StallId), s.domainOn n.val = true → (s.stall n).inService = false →
    ∃ t, exec (.stallDomainOff n) s = .next t ∧ t.domainOn n.val = false ∧ (t.stall n).aclk = 0 ∧ (t.stall n).vec = .idle ∧
      (t.stall n).seq = .idle ∧ (t.stall n).sfTable = [] ∧ (t.stall n).rqTable = [] ∧ (∀ u, chainOn t n u = none) ∧
      (∀ a, stallBase n ≤ a → a < stallBase n + 0x200000 → memByte t.mem a = 0) ∧
      (∀ d, d < 86 → d ≠ n.val → t.domainOn d = s.domainOn d) ∧ TargetsFollow t) ∧
  (∀ (s : State) (n : StallId), s.domainOn n.val = true → (s.stall n).inService = true → exec (.stallDomainOff n) s = .next s) ∧
  (∀ (s : State) (n : StallId), s.domainOn n.val = false → s.pwr.tripHold = false → s.sec.phase ≠ .held →
    ∃ t, exec (.stallDomainOn n) s = .next t ∧ t.domainOn n.val = true ∧ 1000 ≤ (t.stall n).aclk ∧
      (t.stall n).aclk ≤ (t.stall n).aclkTarget ∧ (t.stall n).aclk % 25 = 0 ∧ (t.stall n).inService = (s.stall n).inService ∧
      (∀ d, d < 86 → d ≠ n.val → t.domainOn d = s.domainOn d) ∧ TargetsFollow t ∧
      OnlyChanges (.mem :: .free :: Retargets) s t ∧
      ∀ a, memByte t.mem a ≠ memByte s.mem a → stallBase n + 0x150000 ≤ a ∧ a < stallBase n + 0x180000) ∧
  (∀ (s : State) (n : StallId), s.domainOn n.val = true → s.pwr.refLost = false → (s.stall n).aclk ≠ (s.stall n).aclkTarget →
    ((s.stall n).slewTime ≤ s.up - (s.stall n).slewAt →
      ((s.stall n).aclkTarget ≤ (s.stall n).aclk ∨ vreqMv n (s.stall n).aclkTarget ≤ s.pwr.ackMv) →
      ∃ t, exec (.aclkTargetReached n) s = .next t ∧ (t.stall n).aclk = (s.stall n).aclkTarget ∧ TargetsFollow t ∧
        OnlyChanges (.qm :: Retargets) s t) ∧
    (s.up - (s.stall n).slewAt < (s.stall n).slewTime → exec (.aclkTargetReached n) s = .next s) ∧
    ((s.stall n).aclk < (s.stall n).aclkTarget → s.pwr.ackMv < vreqMv n (s.stall n).aclkTarget →
      exec (.aclkTargetReached n) s = .next s)) ∧
  (∀ (s : State) (n : StallId), s.domainOn n.val = true → (s.stall n).stretched = false →
    ∃ t, exec (.droopTrip n) s = .next t ∧ (t.stall n).stretched = true ∧ t.devCtr .pwrDroop = (s.devCtr .pwrDroop).add 1 ∧
      ((recent s.up (ns 1000000) (s.stall n).droopTrips).length < 100 → (t.stall n).fDroop = (s.stall n).fDroop) ∧
      (100 ≤ (recent s.up (ns 1000000) (s.stall n).droopTrips).length → (t.stall n).fDroop =
        max 1000 (min (s.stall n).fDroop (fmaxMhz n) - 25)) ∧
      TargetsFollow t ∧ OnlyChanges Retargets s t) ∧
  (∀ (s : State) (n : StallId), (s.stall n).stretched = true → s.acTime n 64 ≤ s.up - (s.stall n).droopAt →
    ∃ t, exec (.droopStretchEnd n) s = .next t ∧ t.stall n = { s.stall n with stretched := false } ∧ OnlyChanges [.stalls] s t ∧
      OtherStalls n s t) ∧
  (∀ (s : State) (n : StallId), (s.stall n).stretched = false → ns 1000000000 ≤ s.up - (s.stall n).droopAt →
    ∃ t, exec (.droopRecover n) s = .next t ∧
      ((s.stall n).fDroop < fmaxMhz n → (t.stall n).fDroop = min (fmaxMhz n) ((s.stall n).fDroop + 25) ∧ TargetsFollow t) ∧
      (fmaxMhz n ≤ (s.stall n).fDroop → t = s) ∧ OnlyChanges Retargets s t) ∧
  (∀ (s : State) (n : StallId), tempAtLeast (s.stall n).temp (-8) = false → ns 1000000 ≤ s.up - (s.stall n).thermAt →
    ∃ t, exec (.thermalReleaseStep n) s = .next t ∧
      ((s.stall n).fTherm < fmaxMhz n → (t.stall n).fTherm = min (fmaxMhz n) ((s.stall n).fTherm + 25) ∧ TargetsFollow t) ∧
      (fmaxMhz n ≤ (s.stall n).fTherm → t = s) ∧ OnlyChanges Retargets s t)

/-- POWER_ESTIMATE and THERMAL_SAMPLE complete (R406, R409, R410, R411): one estimate above the budget lowers F_pwr by 25 MHz for every started 2 % above it, never below PWR_FMIN;
at that floor background dispatch stops; 100 µs below 95 % raise it. A temperature sample lowers the limit of every stall at the
throttle start, and the second at the trip switches every stall off in safe state until all are cool, when a warm reset of cause 8
follows.
AVS_READ_CURRENT, AVS_READ_VOLTAGE, AVS_WRITE_VOLTAGE, AVS_READ_STATUS, POWER_SHARE_EVAL, POWER_SHARE_APPLY, POWER_SHARE_RECEIVE and
POWER_CONFIGURE complete (R405, R407, R412, R413, R414, R415, R416). Current, voltage and status of the core rail are read over AVSBus, and the voltage is
moved in acknowledged steps of at most 25 mV; three failures in succession are an AVS fault. The shares of a group move 2 W from the
earliest member to the latest, 100 µs after the millisecond, and return to the configured ones when a member differs. -/
def Obligations.PowerTemperatureAndRailAreKept : Prop :=
  ((∀ (s : State) (e : Nat) (b : Rat), (b = if s.pwr.est10Sum = 0 then (e : Rat) else
      max (e : Rat) (s.pwr.meas * e * s.pwr.est10Count / s.pwr.est10Sum)) →
    ∃ t, exec (.powerEstimate e) s = .next t ∧ t.pwr.est = e ∧ t.pwr.basis = b ∧ t.pwr.estSum = s.pwr.estSum + e ∧
      t.pwr.estCount = s.pwr.estCount + 1 ∧ OnlyChanges (.qm :: Retargets) s t ∧
      ((s.pwr.budget : Rat) < b → s.pwr.lowering = false → s.pwr.fmin.toNat < s.pwr.fpwr → 0 < s.pwr.budget →
        t.pwr.fpwr = max s.pwr.fmin.toNat (min s.pwr.fpwr s.fHi - 25 * ((b - s.pwr.budget) / (2 / 100 * s.pwr.budget)).ceil.toNat) ∧
        t.pwr.lowering = true ∧ TargetsFollow t) ∧
      ((s.pwr.budget : Rat) < b → s.pwr.lowering = false → s.pwr.fpwr ≤ s.pwr.fmin.toNat →
        t.qm.bgHalted = true ∧ t.pwr.fpwr = s.pwr.fpwr ∧ (s.qm.bgHalted = false → t.pwr.floor = true)) ∧
      (b < s.pwr.budget → t.qm.bgHalted = false) ∧
      (b < (s.pwr.budget : Rat) * 95 / 100 → s.pwr.calm = 99 → s.pwr.fpwr < 2250 →
        t.pwr.fpwr = min 2250 (s.pwr.fpwr + 25) ∧ t.pwr.calm = 0 ∧ TargetsFollow t)) ∧
  (∀ (s : State) (l o : List (BitVec 12)), s.pwr.tripHold = false →
    (∀ n : StallId, (s.stall n).tripRun = 0 ∨ tempAtLeast (l.getD n.val 0) 10 = false ∨ s.domainOn n.val = false) →
    (∀ i : Fin 16, vget s.pwr.tripX i = 0 ∨ tempAtLeast (o.getD i.val 0) 10 = false) →
    ∃ t, exec (.thermalSample l o) s = .next t ∧ (∀ i : Fin 16, vget t.pwr.tempX i = o.getD i.val 0) ∧
      (∀ n : StallId, s.domainOn n.val = true → (t.stall n).temp = l.getD n.val 0 ∧
        (t.stall n).fTherm = (if tempAtLeast (l.getD n.val 0) (-5) then min (s.stall n).fTherm (fmaxMhz n) - 25 else (s.stall n).fTherm)) ∧
      t.pwr.fpwr = (if ∃ i : Fin 16, tempAtLeast (o.getD i.val 0) (-5) = true then max s.pwr.fmin.toNat (s.pwr.fpwr - 25) else s.pwr.fpwr) ∧
      TargetsFollow t ∧ OnlyChanges Retargets s t) ∧
  (∀ (s : State) (l o : List (BitVec 12)) (n : StallId), s.pwr.tripHold = false → s.domainOn n.val = true →
    1 ≤ (s.stall n).tripRun → tempAtLeast (l.getD n.val 0) 10 = true →
    ∃ t, exec (.thermalSample l o) s = .next t ∧ t.wh.safe = true ∧ t.wh.faultLow = true ∧ t.pwr.tripHold = true ∧
      ∀ m : StallId, t.domainOn m.val = false) ∧
  (∀ (s : State) (l o : List (BitVec 12)), s.pwr.tripHold = true → s.join.pair = none →
    (∀ n : StallId, tempAtLeast (l.getD n.val 0) (-10) = false) → (∀ i : Fin 16, tempAtLeast (o.getD i.val 0) (-10) = false) →
    ∃ t, exec (.thermalSample l o) s = .next t ∧ t.wh.cause = 8)) ∧
  ((∀ (s : State) (v : Nat), s.avsUp = true →
    ∃ t, exec (.avsReadCurrent (.ok v)) s = .next t ∧ t.pwr.meas = (v : Rat) * s.pwr.ackMv / 10000 ∧ t.pwr.est10Sum = s.pwr.estSum ∧
      t.pwr.est10Count = s.pwr.estCount ∧ t.pwr.estSum = 0 ∧ t.pwr.failRun = 0 ∧ .avs false 2 ∈ t.out ∧
      (0 < s.pwr.estCount →
        5 * (max (t.pwr.meas * s.pwr.estCount) s.pwr.estSum - min (t.pwr.meas * s.pwr.estCount) s.pwr.estSum) ≤
          max (t.pwr.meas * s.pwr.estCount) s.pwr.estSum → t.pwr.mismatchRun = 0) ∧
      (0 < s.pwr.estCount → s.pwr.mismatchRun = 4 → s.pwr.mismatchSent = false →
        max (t.pwr.meas * s.pwr.estCount) s.pwr.estSum <
          5 * (max (t.pwr.meas * s.pwr.estCount) s.pwr.estSum - min (t.pwr.meas * s.pwr.estCount) s.pwr.estSum) →
        t.pwr.mismatch = true ∧ t.devCtr .pwrMismatch = (s.devCtr .pwrMismatch).add 1) ∧ OnlyChanges (.out :: Retargets) s t) ∧
  (∀ (s : State) (v w : Nat) (i : Int), s.avsUp = true → s.pwr.written = some (w, i) →
    ((v ≤ w + 5 ∧ w ≤ v + 5) → ∃ t, exec (.avsReadVoltage (.ok v)) s = .next t ∧ t.pwr.ackMv = w ∧ t.pwr.written = none ∧
      TargetsFollow t ∧ OnlyChanges (.out :: Retargets) s t) ∧
    ((w + 5 < v ∨ v + 5 < w) → ns 20000 ≤ s.up - i → ∃ t, exec (.avsReadVoltage (.ok v)) s = .next t ∧ t.pwr.written = none ∧
      t.pwr.ackMv = s.pwr.ackMv ∧ t.devCtr .pwrAvsErr = (s.devCtr .pwrAvsErr).add 1) ∧
    ((w + 5 < v ∨ v + 5 < w) → s.up - i < ns 20000 → ∃ t, exec (.avsReadVoltage (.ok v)) s = .next t ∧ t.pwr.written = s.pwr.written ∧
      t.pwr.ackMv = s.pwr.ackMv ∧ t.devCtr .pwrAvsErr = s.devCtr .pwrAvsErr)) ∧
  (∀ (s : State) (v : Nat), s.avsUp = true → s.pwr.avsFault = false → s.pwr.written = none → s.pwr.ackMv ≠ 0 →
    s.pwr.ackMv ≠ s.pwr.targetMv →
    ∃ t mv, exec (.avsWriteVoltage (.ok v)) s = .next t ∧ t.pwr.written = some (mv, s.up) ∧ .avs true mv ∈ t.out ∧
      mv ≤ s.pwr.ackMv + 25 ∧ s.pwr.ackMv ≤ mv + 25 ∧ (mv = s.pwr.targetMv ∨ mv % 5 = 0) ∧
      ((s.pwr.ackMv < mv ∧ mv ≤ s.pwr.targetMv) ∨ (mv < s.pwr.ackMv ∧ s.pwr.targetMv ≤ mv)) ∧ OnlyChanges (.out :: Retargets) s t) ∧
  (∀ (s : State) (v : Nat), s.avsUp = true → ∃ t, exec (.avsReadStatus (.ok v)) s = .next t ∧ t.pwr.status = BitVec.ofNat 16 v ∧
    t.pwr.failRun = 0 ∧ .avs false 3 ∈ t.out ∧ OnlyChanges (.out :: Retargets) s t) ∧
  (∀ (s : State), s.avsUp = true → s.pwr.avsFault = false → 2 ≤ s.pwr.failRun →
    ∃ t, exec (.avsReadStatus .badCrc) s = .next t ∧ t.pwr.avsFault = true ∧ t.pwr.targetMv = s.pwr.ackMv ∧
      t.devCtr .pwrAvsErr = (s.devCtr .pwrAvsErr).add 1) ∧
  (∀ (s : State), s.pwr.share ≠ [] → s.time.stepped = true → s.pwr.lastMs < s.nowNs / 1000000 → s.pwr.transfer = none →
    ∃ t, exec .powerShareEval s = .next t ∧ t.pwr.lastMs = s.nowNs / 1000000 ∧ t.pwr.share = s.pwr.share ∧
      (∀ g r, t.pwr.transfer = some (some (g, r), ns (s.nowNs / 1000000 * 1000000 + 100000)) → ∃ a b, (r, a) ∈ s.pwr.late ∧
        (g, b) ∈ s.pwr.late ∧ (∀ x ∈ s.pwr.late, b ≤ x.2 ∧ x.2 ≤ a) ∧ ns 500 * s.pwr.gens < a - b) ∧
      (s.pwr.gens = 0 → t.pwr.transfer = some (none, ns (s.nowNs / 1000000 * 1000000 + 100000))) ∧ OnlyChanges [.pwr, .out, .qps, .valley] s t) ∧
  (∀ (s : State) (g r : DeviceId) (i : Int), s.pwr.transfer = some (some (g, r), i) → s.reached i = true → g ≠ r →
    ∃ t, exec .powerShareApply s = .next t ∧ t.pwr.transfer = none ∧ t.pwr.gens = 0 ∧ (∀ x ∈ t.pwr.late, x.2 = 0) ∧
      t.pwr.share = s.pwr.share.map (fun x => if x.1 = g then (x.1, x.2 - 2) else if x.1 = r then (x.1, x.2 + 2) else x) ∧
      OnlyChanges [.pwr] s t) ∧
  (∀ (s : State) (d m : DeviceId) (sh lt : List Nat) (p q : Nat), (∃ x ∈ s.pwr.share, x.1 = d) →
    (shareDiff s.pwr.share s.pwr.late sh lt = none → exec (.powerShareReceive d sh lt) s = .next s) ∧
    (shareDiff s.pwr.share s.pwr.late sh lt = some (m, p, q) →
      ∃ t, exec (.powerShareReceive d sh lt) s = .next t ∧ t.pwr.share = s.pwr.shareCfg ∧ OnlyChanges [.pwr, .host, .dev] s t)) ∧
  (∀ (s : State) (m : MboxId) (l : List MItem), MbRuns s m 0x40 powerItems l → itemNum l 0x0E06 = none →
    (itemNum l 0x0E07 = none → fld s.pwr.group 11 0 = 0 → MbDoes (.powerConfigure m) s m 0x40 0 0 [] [.pwr] fun t =>
      fld t.pwr.cap 8 0 = (itemNum l 0x0E02).getD (fld s.pwr.cap 8 0) ∧ fld t.pwr.cap 24 16 = (itemNum l 0x0E01).getD (fld s.pwr.cap 24 16) ∧
      t.pwr.fmin.toNat = (itemNum l 0x0E03).getD s.pwr.fmin.toNat ∧ t.pwr.filler.toNat = (itemNum l 0x0E04).getD s.pwr.filler.toNat ∧
      t.pwr.thresh.toNat = (itemNum l 0x0E05).getD s.pwr.thresh.toNat ∧ t.pwr.share = s.pwr.share) ∧
    (∀ g, itemNum l 0x0E07 = some g → 0 < g → fld s.pwr.group 20 12 ≤ g / max 1 s.sharers.length → g / max 1 s.sharers.length ≤ 260 →
      MbDoes (.powerConfigure m) s m 0x40 0 0 [] [.pwr] fun t => fld t.pwr.group 11 0 = g ∧
        t.pwr.share = s.sharers.map (fun d => (d, g / max 1 s.sharers.length)) ∧ t.pwr.transfer = none)))

/-- PWR_GOOD_FALL, RESET_N_ASSERT, COLD_BOOT, HALL_CHUNK, WEIGHHOUSE_CHUNK, GO, DEVICE_READY, DEVICE_SERVING and POWER_CYCLE_REQUEST
complete (R153, R239, R333, R359, R361, R362, R364, R395, R449, R453, R457, R458, R460, R461). A cold reset keeps only flash and fuses, a warm reset time base and DRAM; the ROM
runs only an image that verifies; the ROM's USB chunks append, and GO verifies what they built; READY needs Weighhouse, training and a
stall; serving ends safe state and starts the cells of a fault; 100 ms without serving ask for a power cycle. -/
def Obligations.ResetsAndBootRunVerifiedImages : Prop :=
  (∀ s : State, ∃ t, exec .pwrGoodFall s = .next t ∧ t.mem = [] ∧ t.pins.pwrGood = false ∧ t.sec.flash = s.sec.flash ∧
    t.sec.blown = s.sec.blown ∧ t.sec.sfdp = s.sec.sfdp ∧ t.sec.phase = .held ∧ t.pending = s.pending ∧
    ∀ p ∈ [Part.dev, .stalls, .qm, .fab, .host, .time, .pwr, .cells, .eth, .wh, .harq, .hist, .join, .qps, .valley], p.same State.reset t) ∧
  (∀ s : State, s.pins.pwrGood = false → exec .resetNAssert s = .next s) ∧
  (∀ s : State, s.pins.pwrGood = true → s.sec.phase ≠ .served → s.wh.restart = none →
    ∃ t, exec .resetNAssert s = .next t ∧ t.mem = [] ∧ t.pins.pwrGood = true ∧ t.sec.flash = s.sec.flash ∧
      ∀ p ∈ [Part.dev, .stalls, .qm, .fab, .host, .time, .pwr, .cells, .eth, .wh, .harq, .hist, .join, .qps], p.same State.reset t) ∧
  (∀ s : State, s.pins.pwrGood = true → s.sec.phase = .served →
    ∃ t, exec .resetNAssert s = .next t ∧ t.time.ptp = s.time.ptp ∧ t.time.cnt = s.time.cnt ∧ t.time.stepped = s.time.stepped ∧
      t.wh.cause = 6 ∧ t.wh.faultResets = s.wh.faultResets ∧ t.sec.ready = false ∧ t.qm = QueueManager.reset ∧
      t.fab.selfRefresh = true ∧
      MemOnly 0x10000000 0x8000000 s t ∧ (∀ a, 0x10000000 ≤ a → a < 0x18000000 → memByte t.mem a = 0) ∧
      (∀ c, (t.cell c).running = false ∧ (t.cell c).configured = false) ∧ (∀ n, (t.stall n).inService = false) ∧
      ∀ n : StallId, t.domainOn n.val = false) ∧
  (∀ (s : State) (ty : Nat) (b : List Byte), s.verifyImage ty b = none ↔
    imgHeaderOk ty b = true ∧ 512 + imgSize b ≤ b.length ∧ s.revokedKeys.getLsbD (imgKey b).val = false ∧
    Config.shake256 ((b.drop 32).take 57) = Config.keyHash (imgKey b) ∧
    Config.ed448Verify ((b.drop 32).take 57) (b.take 256) ((b.drop 256).take 114) = true ∧
    digestBytes (Config.shake512 ((b.drop 512).take (imgSize b))) = (b.drop 96).take 64 ∧
    (imgClass b = deviceClass ∨ (ty = 3 ∧ imgClass b = 0)) ∧ s.svnCounter (imgCounter ty) ≤ imgSvn b) ∧
  (∀ (s : State) (sel : BitVec 2) (slot : Bool) (img : List Byte), s.sec.phase = .held → s.activeSlot false = slot →
    s.readSfdp.flashImage 1 (s.slotOffset false slot) = img → ∃ t, exec (.coldBoot sel) s = .next t ∧
    (bootSource sel = 1 → t.sec.phase = .rom ∧ t.sec.hallRun = false ∧ t.host.usbProtocol = 0 ∧ t.pins.pwrGood = true) ∧
    (bootSource sel ≠ 1 → t.sec.romQuad = sfdpQuad s.sec.sfdp ∧ t.sec.romWide = decide (134217728 < sfdpBits s.sec.sfdp)) ∧
    (bootSource sel ≠ 1 → s.verifyImage 1 img = none → t.sec.phase = .booting ∧ t.sec.hallRun = true ∧ t.sec.hallImage = img ∧
      t.sec.hallSlot = slot ∧ t.host.usbProtocol = 3 ∧
      vget t.sec.meas 1 = Config.shake512 (digestBytes (vget s.sec.meas 1) ++ imgMeasure img)) ∧
    (bootSource sel ≠ 1 → s.verifyImage 1 img ≠ none → s.verifyImage 1 (s.readSfdp.flashImage 1 (s.slotOffset false (!slot))) ≠ none →
      (s.sec.hallRun = false → t.sec.hallRun = false) ∧ t.sec.phase ≠ .booting ∧
      (bootSource sel = 2 → t.sec.phase = .halted ∧ t.wh.faultLow = true) ∧ (bootSource sel = 0 → t.sec.phase = .rom))) ∧
  (∀ (s : State) (o : Word) (bs : List Byte), s.sec.phase = .rom → s.host.usbConfigured = true → bs.length ≤ 65536 →
    (o.toNat = vget s.sec.romPos 0 → ∃ t, exec (.hallChunk o bs) s = .next t ∧ vget t.sec.romPos 0 = o.toNat + bs.length ∧
      (s.sec.romHall.length = o.toNat → t.sec.romHall = s.sec.romHall ++ bs) ∧ t.sec.romWh = s.sec.romWh ∧ OnlyChanges [.sec, .out] s t) ∧
    (o.toNat = vget s.sec.romPos 1 → ∃ t, exec (.weighhouseChunk o bs) s = .next t ∧ vget t.sec.romPos 1 = o.toNat + bs.length ∧
      (s.sec.romWh.length = o.toNat → t.sec.romWh = s.sec.romWh ++ bs) ∧ t.sec.romHall = s.sec.romHall ∧ OnlyChanges [.sec, .out] s t) ∧
    (o.toNat ≠ vget s.sec.romPos 0 → ∃ t, exec (.hallChunk o bs) s = .next t ∧ OnlyChanges [.out] s t) ∧
    (o.toNat ≠ vget s.sec.romPos 1 → ∃ t, exec (.weighhouseChunk o bs) s = .next t ∧ OnlyChanges [.out] s t)) ∧
  (∀ s : State, s.sec.phase = .rom → s.host.usbConfigured = true → ∃ t, exec .go s = .next t ∧
    (s.verifyImage 1 s.sec.romHall = none → t.sec.hallRun = true ∧ t.sec.hallImage = s.sec.romHall ∧
      t.sec.usbBoot = true ∧ (s.verifyImage 2 s.sec.romWh = none → t.sec.whRun = true ∧ t.sec.whImage = s.sec.romWh) ∧
      (s.verifyImage 2 s.sec.romWh ≠ none → t.sec.failed = some 1 ∧ t.sec.whRun = s.sec.whRun)) ∧
    (s.verifyImage 1 s.sec.romHall ≠ none → t.sec = { s.sec with romPos := Vector.replicate 2 0 } ∧
      t.devCtr .secVerifyFail = (s.devCtr .secVerifyFail).add 1 ∧ OnlyChanges [.sec, .out, .host, .dev] s t)) ∧
  (∀ (s : State) (fs : List (StallId × Fin 3)) (tr : Bool) (ms : Nat), s.sec.phase = .booting → s.sec.hallRun = true → s.sec.failed = none →
    (tr = false → ∃ t, exec (.deviceReady fs tr ms) s = .next t ∧ t.sec = { s.sec with failed := some 2 } ∧ OnlyChanges [.sec] s t) ∧
    (tr = true → (∀ n, ∃ f ∈ fs, f.1 = n) → ∃ t, exec (.deviceReady fs tr ms) s = .next t ∧ t.sec.failed = some 3 ∧ t.sec.ready = s.sec.ready) ∧
    (tr = true → (∃ n, ∀ f ∈ fs, f.1 ≠ n) → ∃ t, exec (.deviceReady fs tr ms) s = .next t ∧ t.sec.ready = true ∧ t.sec.phase = .served ∧
      t.wh.ready = true ∧ t.wh.safe = false ∧ t.fab.trained = true ∧
      (∀ n, (∀ f ∈ fs, f.1 ≠ n) → (t.stall n).inService = true ∧ t.domainOn n.val = true ∧ 1000 ≤ (t.stall n).aclk ∧
        (t.stall n).aclk ≤ (t.stall n).aclkTarget) ∧
      (∀ f ∈ fs, (t.stall f.1).bootFail = true ∧ (t.stall f.1).out = true) ∧
      (∀ a, 0x10000000 ≤ a → a < plainBase + plainSize →
        (∀ n : StallId, (∀ f ∈ fs, f.1 ≠ n) → a < stallBase n + 0x150000 ∨ stallBase n + 0x180000 ≤ a) → memByte t.mem a = 0) ∧
      (MemOk s → ∀ n : StallId, (∀ f ∈ fs, f.1 ≠ n) → memRead t.mem (stallBase n + 0x150000) (Config.kernels s.sec.hallImage).length =
        Config.kernels s.sec.hallImage))) ∧
  (∀ (s : State) (r : Restart), s.wh.restart = some r → s.sec.hallRun = true → s.sec.whRun = true → s.sec.failed = none →
    s.wh.pwrReqLow = false →
    ∃ t, exec .deviceServing s = .next t ∧ t.wh.restart = none ∧ t.wh.safe = false ∧ t.wh.faultLow = false ∧ t.sec.ready = true ∧
      (r.fault = true → ∀ c : CellId, r.cells.getLsbD c.val = true → (t.cell c).running = true) ∧
      ∀ n, (s.stall n).out = false → (s.stall n).bootFail = false → (t.stall n).inService = true ∧ t.domainOn n.val = true) ∧
  (∀ (s : State) (r : Restart), s.wh.restart = some r → r.fault = true → ns 100000000 ≤ s.up - r.start →
    ∃ t, exec .powerCycleRequest s = .next t ∧ t.wh = { s.wh with pwrReqLow := true, safe := true, faultLow := true } ∧ OnlyChanges [.wh] s t)

/-- FIRMWARE_UPDATE, BUNDLE_LOAD, STAGING_TIMEOUT, ATTEST, DEBUG_UNLOCK and DEBUG_CHALLENGE_EXPIRY complete (R171, R455, R456, R462, R464,
R465). FIRMWARE_UPDATE and BUNDLE_LOAD stage chunks and act only on an image that verifies; 10 s without a chunk
free the area. ATTEST signs a report of the nonce unless the keys are dead; DEBUG_UNLOCK gives a challenge and unlocks on its signed
response within 60 s. -/
def Obligations.SecurityCommandsVerify : Prop :=
  (∀ (s : State) (m : MboxId) (l : List MItem) (bs : List Byte) (off ty : Nat),
    MbRuns s m 0x10 (fun id v => if id = 0x0901 then some (inRange 1 2 v) else chunkItems id v) l → s.sec.ready = true →
    itemNum l 0x0901 = some ty → (itemVal l 12 = some bs → itemNum l 0x0902 = some off → itemNum l 0x0903 = none →
      (∀ o i, s.sec.owner = some (o, i) → o = 0x10) → off + bs.length ≤ stagingSize →
      MbStarts (.firmwareUpdate m) s m 0x10 (itemsCell l) [] [.mem, .sec] fun t =>
        t.mem = memWrite s.mem (s.stagingAddr + off) bs ∧ MemOnly (s.stagingAddr + off) bs.length s t ∧ t.sec.flash = s.sec.flash) ∧
    (∀ i, s.sec.owner = some (0x11, i) → ∃ d, MbDoes (.firmwareUpdate m) s m 0x10 4 d [] [] fun _ => True) ∧
    (∀ n, itemVal l 12 = none → itemNum l 0x0902 = none → itemNum l 0x0903 = some n → n ≤ stagingSize →
      (∀ o i, s.sec.owner = some (o, i) → o = 0x10) →
      Mem.wf s.sec.flash = true →
      if s.verifyImage ty (memRead s.mem s.stagingAddr n) = none then
        MbStarts (.firmwareUpdate m) s m 0x10 (itemsCell l) [] [.sec, .free] fun t =>
          t.activeSlot (ty == 2) = !s.activeSlot (ty == 2) ∧ t.sec.owner = none ∧ t.sec.hallImage = s.sec.hallImage
      else MbDoes (.firmwareUpdate m) s m 0x10 7 0 [] [.sec] fun t => t.sec = { s.sec with owner := none })) ∧
  (∀ (s : State) (m : MboxId) (l : List MItem) (c : CellId) (n : Nat) (img : List Byte),
    MbRuns s m 0x11 (fun id v => if id = 0x0101 then some (inRange 0 15 v) else chunkItems id v) l → s.sec.ready = true →
    itemNum l 0x0101 = some c.val → itemVal l 12 = none → itemNum l 0x0902 = none → itemNum l 0x0903 = some n → n ≤ stagingSize →
    (∀ o i, s.sec.owner = some (o, i) → o = 0x11) → memRead s.mem s.stagingAddr n = img →
    if s.verifyImage 3 img = none then MbStarts (.bundleLoad m) s m 0x11 (itemsCell l) [] [.cells, .sec, .mem, .fab, .free, .valley] fun t =>
      (∃ b : BookSet, t.cell c = { s.cell c with
          bundle := some (Config.shake256 (img.take 512)), books := (if (s.cell c).running then (s.cell c).books else []) ++ [b] } ∧
        b.slot = (if (s.cell c).running then s.procNow c + 3 else 0) ∧ plainBase ≤ b.bg1 ∧ b.bg1 + 94208 ≤ plainBase + plainSize ∧
        plainBase ≤ b.bg2 ∧ b.bg2 + 86016 ≤ plainBase + plainSize ∧ b.bg1 % 64 = 0 ∧ b.bg2 % 64 = 0 ∧
        (∀ a, memByte t.mem a ≠ memByte s.mem a → (b.bg1 ≤ a ∧ a < b.bg1 + 94208) ∨ b.bg2 ≤ a ∧ a < b.bg2 + 86016) ∧
        (∀ bs, (Config.bundleBook img false).take 86016 = bs → MemOk s →
          s.fwRefused Source.hall true (b.bg2 - plainBase) bs.length = none → memRead t.mem b.bg2 bs.length = bs)) ∧ t.sec.bundles = s.sec.bundles ++ [(c, img.take 512)] ∧
      vget t.sec.meas 3 = Config.shake512 (digestBytes (vget s.sec.meas 3) ++ imgMeasure img) ∧ OtherCells c s t
    else MbDoes (.bundleLoad m) s m 0x11 7 0 [] [.sec] fun t => t.sec = { s.sec with owner := none }) ∧
  (∀ (s : State) (o : Nat) (i : Int), s.sec.owner = some (o, i) → ns 10000000000 ≤ s.up - i →
    ∃ t, exec .stagingTimeout s = .next t ∧ t = { s with sec := { s.sec with owner := none } }) ∧
  (∀ (s : State) (m : MboxId) (l : List MItem) (x : List Byte),
    MbRuns s m 0x12 (fun id v => if id = 0x0904 then some (decide (1 ≤ v.length) && decide (v.length ≤ 64)) else none) l →
    itemVal l 0x0904 = some x →
    (s.sec.keysDead = true → MbDoes (.attest m) s m 0x12 3 0x0904 [] [] fun _ => True) ∧
    (s.sec.keysDead = false → (s.attestBody x).length = 688 ∧ MbDoes (.attest m) s m 0x12 0 0
      (itemBytes 0x0905 (s.attestBody x ++ digestBytes (Config.attestSign (s.attestBody x)) ++ List.replicate 14 0) ++
        itemBytes 0x0906 s.certificates.1 ++ itemBytes 0x0907 s.certificates.2) [] fun _ => True)) ∧
  (∀ (s : State) (m : MboxId) (l : List MItem),
    MbRuns s m 0x13 (fun id v => if id = 0x090A then some (inRange 1 2 v) else if id = 0x0909 then some (sized 114 v) else none) l →
    (Config.debugDisable = false ∨ MbDoes (.debugUnlock m) s m 0x13 3 0x090A [] [] fun _ => True) ∧
    (∀ k, itemVal l 0x0909 = none → itemNum l 0x090A = some k → if Config.debugDisable = true then MbDoes (.debugUnlock m) s m 0x13 3 0x090A [] [] (fun _ => True)
      else MbDoes (.debugUnlock m) s m 0x13 0 0 (itemBytes 0x0908 (s.challenge k)) [.sec] fun t =>
        t.sec = { s.sec with challenge := some (s.challenge k, s.up + ns 60000000000), randoms := s.sec.randoms + 1 }) ∧
    (∀ r c i, itemVal l 0x0909 = some r → s.sec.challenge = some (c, i) →
      (i ≤ s.up → if Config.debugDisable = true then MbDoes (.debugUnlock m) s m 0x13 3 0x090A [] [] (fun _ => True)
        else MbDoes (.debugUnlock m) s m 0x13 3 0x0909 [] [] fun _ => True) ∧
      (s.up < i → if Config.debugDisable = true then MbDoes (.debugUnlock m) s m 0x13 3 0x090A [] [] (fun _ => True)
        else if Config.shake256 Config.debugKey = Config.debugKeyHash ∧ Config.ed448Verify Config.debugKey c r = true then
          MbDoes (.debugUnlock m) s m 0x13 0 0 [] [.sec] fun t => t.sec.debug = BitVec.ofNat 2 (challengeLevel c) ∧
            t.sec.challenge = none ∧ (t.sec.keysDead = true ↔ s.sec.keysDead = true ∨ challengeLevel c = 2) ∧
            vget t.sec.meas 4 = Config.shake512 (digestBytes (vget s.sec.meas 4) ++ c)
        else MbDoes (.debugUnlock m) s m 0x13 7 0 [] [.sec] fun t => t.sec = { s.sec with challenge := none }))) ∧
  (∀ (s : State) (c : List Byte) (i : Int), s.sec.challenge = some (c, i) → i ≤ s.up →
    ∃ t, exec .debugChallengeExpiry s = .next t ∧ t = { s with sec := { s.sec with challenge := none } })

/-- PLAUSIBILITY_VERDICT, VERDICT_TIMEOUT and SHADOW_WITHDRAW complete (R30, R190, R337, R338, R339, R341, R343, R344, R346). The first failing
test of Table 12-2 rejects an output; an accepted one gets the verdict word 0000_0000_8000_0000h and a rejected one REJECTED with test
and cause, once; a block not judged in 4 µs is rejected with NO_VERDICT. A learned output after the demotion of its path and one of a
suspect stall are not used. The verdict on a user's learned estimate follows those on its LLR blocks. A rejected scheduler run is
replaced by the classical one in a firm queue. A sample whose shadow is not there at the close of the detection window is
withdrawn. -/
def Obligations.VerdictsAreWrittenOnce : Prop :=
  (∀ (s : State) (b : JudgedBlock) (v : VerdictInput) (cs : List (BitVec 16)), s.wh.ready = true → s.judged b.verdictAddr = false →
    VerdictOpen s b → b.fault = false → b.learned = false → v = .precoded cs → b.dlAlloc = none → b.path ≠ .scheduler →
    (s.judgedCell b).judge (s.powers b) v = none →
    ∃ t, exec (.plausibilityVerdict b v) s = .next t ∧ VerdictWritten s t b 0x80000000 ∧ OnlyChanges [.mem, .qm] s t ∧
      ((∀ q e, (s.queue q).eligible = some e → e.eligibleAt ≠ none) → t.qm = s.qm)) ∧
  (∀ (x : Cell) (pw : Option (Nat × Nat)) (ls : List Byte) (er : List Bool) (q : Nat) (snr : Int) (o : Option ShadowObs),
    ((0x80 : Byte) ∈ ls → x.judge pw (.llr ls er q snr o) = some 1) ∧
    ((0x80 : Byte) ∉ ls → (∃ p ∈ ls.zip er, p.2 = true ∧ p.1 ≠ 0) → x.judge pw (.llr ls er q snr o) = some 2) ∧
    ((0x80 : Byte) ∉ ls → (∀ p ∈ ls.zip er, p.2 = true → p.1 = 0) → pw = none → o = none →
      (x.judge pw (.llr ls er q snr o) = some 3 ↔
        x.get .thr3 * ls.length < 1000 * (ls.filter fun b => b.toInt.natAbs == 127).length) ∧
      (x.judge pw (.llr ls er q snr o) = none ↔
        1000 * (ls.filter fun b => b.toInt.natAbs == 127).length ≤ x.get .thr3 * ls.length))) ∧
  (∀ (x : Cell) (pw : Option (Nat × Nat)) (ps rc ea : Bool) (sy it mcs la : Nat),
    (pw = none → x.judge pw (.decoded ps sy it rc mcs la) = (if (ps = true ∧ sy ≠ 0) ∨ x.get .iterCap < it then some 6 else
      if ps = true ∧ rc = false then some 7 else none)) ∧
    (x.judge pw (.uci ps rc) = if ps = true ∧ rc = false then some 7 else none) ∧
    (x.judge pw (.encoded ea sy) = if ea = false ∨ sy ≠ 0 then some 11 else none)) ∧
  (∀ (x : Cell) (pw : Option (Nat × Nat)) (cs : List (BitVec 16)), (x.judge pw (.precoded cs) = some 10 ↔
    cs.length < 1000 * (cs.filter fun c => c == 0x8000 || c == 0x7FFF).length)) ∧
  (∀ (s : State) (b : JudgedBlock) (v : VerdictInput), (s.wh.ready = false ∨ s.judged b.verdictAddr = true) →
    exec (.plausibilityVerdict b v) s = .next s) ∧
  (∀ (s : State) (b : JudgedBlock) (ls l : List Byte) (er e : List Bool) (q : Nat) (snr : Int),
    s.wh.ready = true → s.judged b.verdictAddr = false → VerdictOpen s b → b.fault = false → (s.stall b.stall).suspect = false →
    s.afterDemotion b = false → s.shadowCounts b = false → b.dlAlloc = none → b.path = .receiver →
    ((s.ulBlock b.ref).bind (·.llr)).getD (ls, er) = (l, e) → (s.judgedCell b).judge (s.powers b) (.llr l e q snr none) = none →
    (b.learned = false →
      ∃ t, exec (.plausibilityVerdict b (.llr ls er q snr none)) s = .next t ∧ VerdictWritten s t b 0x80000000 ∧
        (∀ x, s.ulBlock b.ref = some x → t.ulBlock b.ref = some { x with classical := some true }) ∧
        OnlyChanges [.mem, .cells, .qm] s t ∧ OtherCells b.ref.cell s t) ∧
    (∀ u x, b.learned = true → s.ulSlot b.ref.cell b.ref.air = some u → s.ulUnit b.ref = some x → b.estimateAddr ≠ 0 →
      VerdictOpen s { b with verdictAddr := b.estimateAddr } →
      ∃ t u' l', exec (.plausibilityVerdict b (.llr ls er q snr none)) s = .next t ∧ t.ulSlot b.ref.cell b.ref.air = some u' ∧
        (u'.units.filter fun y => y.rnti == x.rnti).flatMap (·.blocks) = l' ∧
        (∀ y, s.ulBlock b.ref = some y → t.ulBlock b.ref = some { y with
          classical := some false, estimate := some (y.estimate.getD true) }) ∧
        t.mem = (if (l'.all fun y => y.estimate.isSome) = true then
            memWrite (memWrite s.mem b.verdictAddr.toNat (natLE 8 0x80000000)) b.estimateAddr.toNat
              (natLE 8 (if (l'.any fun y => y.estimate == some false) = true then 0xC0000000 else 0x80000000))
          else memWrite s.mem b.verdictAddr.toNat (natLE 8 0x80000000)) ∧
        OnlyChanges [.mem, .cells, .qm] s t ∧ OtherCells b.ref.cell s t)) ∧
  (∀ (s : State) (b : JudgedBlock) (v : VerdictInput) (k : Nat) (i : Int), s.wh.ready = true → s.judged b.verdictAddr = false →
    VerdictOpen s b → b.path = .scheduler → isLlr v = false → s.firmQueue = none →
    (b.fault = true → ∃ t, exec (.plausibilityVerdict b v) s = .next t ∧ VerdictWritten s t b (0xC0000000 + 36) ∧
      CellCounts s t b.ref.cell .schedFallback 1 ∧ OtherCells b.ref.cell s t) ∧
    (b.fault = false → b.learned = true → s.afterDemotion b = true → ∃ t, exec (.plausibilityVerdict b v) s = .next t ∧
      VerdictWritten s t b (0xC0000000 + 37) ∧ CellCounts s t b.ref.cell .schedFallback 1) ∧
    (b.fault = false → b.learned = true → s.afterDemotion b = false → (s.stall b.stall).suspect = true →
      ∃ t, exec (.plausibilityVerdict b v) s = .next t ∧ VerdictWritten s t b (0xC0000000 + 36)) ∧
    (b.fault = false → b.learned = false → (s.judgedCell b).judge (s.powers b) (s.shadowed b v) = some k →
      ∃ t, exec (.plausibilityVerdict b v) s = .next t ∧ VerdictWritten s t b (0xC0000000 + 256 * k + 32) ∧
        CellCounts s t b.ref.cell .verdictRejectBlocks 1 ∧ CellCounts s t b.ref.cell .schedFallback 1 ∧ OtherCells b.ref.cell s t) ∧
    (s.verdictFrom b = some i → i + 4000 ≤ s.nowNs → ∃ t, exec (.verdictTimeout b) s = .next t ∧
      VerdictWritten s t b (0xC0000000 + 256 * 15 + 35) ∧ t.devCtr .tdcBudget = (s.devCtr .tdcBudget).add 1)) ∧
  (∀ (s : State) (b : JudgedBlock) (i : Int), (s.verdictFrom b = none ∨ (s.verdictFrom b = some i ∧ s.nowNs < i + 4000)) →
    exec (.verdictTimeout b) s = .next s) ∧
  (∀ (s : State) (b : JudgedBlock) (v : VerdictInput) (q : QueueId), s.wh.ready = true → s.judged b.verdictAddr = false → b.fault = true →
    b.path = .scheduler → isLlr v = false → s.firmQueue = some q → (entryOf (setExcl b.template)).link = false →
    (∀ e ∈ (s.queue q).entries, e.idx.val ≠ (s.queue q).tail.toNat) →
    ∃ t, exec (.plausibilityVerdict b v) s = .next t ∧ CellCounts s t b.ref.cell .schedFallback 1 ∧
      ∃ e ∈ (t.queue q).entries, e.idx.val = (s.queue q).tail.toNat ∧ e.bytes = setExcl b.template ∧ e.isWaiting = true) ∧
  (∀ (s : State) (b : JudgedBlock) (v : VerdictInput) (x : UlBlock) (u : UlUnit), s.wh.ready = true → s.judged b.verdictAddr = false →
    VerdictOpen s b → b.fault = true → b.path = .receiver → b.dlAlloc = none → isLlr v = false → s.ulBlock b.ref = some x →
    x.final = none → s.ulUnit b.ref = some u → s.fallbackQueue b.ref.cell (descOf b.template).crit = none →
    ∃ t y, exec (.plausibilityVerdict b v) s = .next t ∧
      (MemOk s → memRead t.mem b.verdictAddr.toNat 8 = natLE 8 (0xC0000000 + 36)) ∧ t.ulBlock b.ref = some y ∧
      y.final = some 4 ∧ CellCounts s t b.ref.cell (causeCtr 36) 1 ∧ OtherCells b.ref.cell s t) ∧
  (∀ (s : State) (b : JudgedBlock), s.shadowCounts b = true → s.judged b.verdictAddr = false → s.reached (s.detectionClose b) = true →
    s.recordEnd b.shadowRecord = none →
    ∃ t, exec (.shadowWithdraw b) s = .next t ∧ CellCounts s t b.ref.cell .shadowLate 1 ∧
      t.devCtr .tdcSched = (s.devCtr .tdcSched).add 1 ∧
      (∀ x, s.ulBlock b.ref = some x → t.ulBlock b.ref = some { x with withdrawn := true }) ∧ OnlyChanges [.cells, .dev] s t ∧
      OtherCells b.ref.cell s t)

/-- AUTO_REPROMOTE, GOLDEN_SET_RESULT, LEARNED_PROMOTE, LEARNED_DEMOTE and CHECK_CONFIGURE complete (R339, R345, R346, R347, R348). A learned
output rejected by a test notes its processing slot; the fourth of 64 demotes the path, the third of one stall makes the stall
suspect instead; a demoted path is promoted by the host, or automatically after 1 024 clean slots and a golden set that passes.
CHECK_CONFIGURE sets thresholds and returns them. -/
def Obligations.LearnedPathsAreDemotedAndPromoted : Prop :=
  (∀ (s : State) (c : CellId) (p : PathKind) (cl : Bool), s.autoPath c p = true →
    ∃ t, exec (.autoRepromote c p true cl) s = .next t ∧ (t.path c p).clean = (if cl then (s.path c p).clean + 1 else 0) ∧
      (t.path c p).demoted = true ∧ OnlyChanges [.cells] s t ∧ OtherCells c s t) ∧
  (∀ (s : State) (c : CellId) (p : PathKind) (cl : Bool), exec (.autoRepromote c p false cl) s = .next s) ∧
  (∀ (s : State) (c : CellId) (p : PathKind), s.autoPath c p = true → 1024 ≤ (s.path c p).clean →
    (∃ t, exec (.goldenSetResult c p false true) s = .next t ∧ t.path c p = PathState.reset ∧ CellCounts s t c .promotions 1 ∧
      OnlyChanges [.cells, .host, .dev, .out, .qps, .valley] s t ∧ OtherCells c s t) ∧
    ∃ t, exec (.goldenSetResult c p false false) s = .next t ∧ (t.path c p).demoted = true ∧ (t.path c p).clean = 0 ∧ OnlyChanges [.cells] s t) ∧
  (∀ (s : State) (c : CellId) (p : PathKind), (s.cell c).adapt.candidate ≠ [] →
    ∃ t, exec (.goldenSetResult c p true true) s = .next t ∧ (t.cell c).adapt.promoted = some (s.cell c).adapt.candidate ∧
      (t.cell c).param = (s.cell c).param ∧ OnlyChanges [.cells, .out, .qps, .valley] s t ∧ OtherCells c s t) ∧
  (∀ (s : State) (m : MboxId) (l : List MItem) (c : CellId) (p : PathKind), MbRuns s m 0x28 pathItems l → pathOf l = some (c, p) →
    MbDoes (.learnedPromote m) s m 0x28 0 0 [] [.cells, .valley] fun t => (t.path c p).held = false ∧
      ((s.path c p).demoted = true → (t.path c p).demoted = false ∧ CellCounts s t c .promotions 1) ∧ OtherCells c s t) ∧
  (∀ (s : State) (m : MboxId) (l : List MItem) (c : CellId) (p : PathKind), MbRuns s m 0x29 pathItems l → pathOf l = some (c, p) →
    MbDoes (.learnedDemote m) s m 0x29 0 0 [] [.cells, .valley] fun t => (t.path c p).held = true ∧ (t.path c p).demoted = true ∧
      CellCounts s t c .demotions (if (s.path c p).demoted then 0 else 1) ∧ OtherCells c s t) ∧
  (∀ (s : State) (m : MboxId) (l : List MItem) (c : CellId), MbRuns s m 0x27 checkItems l → itemsCell l = some c →
    ∃ items, MbDoes (.checkConfigure m) s m 0x27 0 0 (itemBytes 1 (natLE 2 c.val) ++ items) [.cells, .valley] fun t =>
      (∀ p ∈ checkParams, (t.cell c).get p.param = (itemNum l p.id).getD ((s.cell c).get p.param)) ∧
      items = checkParams.flatMap (fun p => itemBytes p.id (natLE 2 ((t.cell c).get p.param))) ∧ OtherCells c s t) ∧
  (∀ (s : State) (b : JudgedBlock) (v : VerdictInput) (k : Nat) (l : List (Int × List StallId)) (c : CellId), b.ref.cell = c →
    s.wh.ready = true → s.judged b.verdictAddr = false → b.fault = false → b.learned = true → b.path = .scheduler →
    s.afterDemotion b = false → (s.stall b.stall).suspect = false → isLlr v = false →
    (s.judgedCell b).judge (s.powers b) (s.shadowed b v) = some k →
    noteDisagree (s.procSlot b) b.stall (s.path c .scheduler).disagree = l →
    (3 ≤ (l.filter fun e => e.2.contains b.stall).length → ∃ t, exec (.plausibilityVerdict b v) s = .next t ∧
      (t.stall b.stall).suspect = true ∧ (t.path c .scheduler).demoted = (s.path c .scheduler).demoted ∧
      ∀ e ∈ (t.path c .scheduler).disagree, b.stall ∉ e.2) ∧
    ((l.filter fun e => e.2.contains b.stall).length < 3 → l.length < 4 → ∃ t, exec (.plausibilityVerdict b v) s = .next t ∧
      (t.path c .scheduler).demoted = (s.path c .scheduler).demoted ∧ (t.path c .scheduler).disagree = l ∧
      CellCounts s t c .disagreeSlots (if ∃ e ∈ (s.path c .scheduler).disagree, e.1 = s.procSlot b then 0 else 1)) ∧
    ((l.filter fun e => e.2.contains b.stall).length < 3 → 4 ≤ l.length → (s.path c .scheduler).demoted = false →
      ∃ t, exec (.plausibilityVerdict b v) s = .next t ∧ (t.path c .scheduler).demoted = true ∧
        (t.path c .scheduler).demotedAt = some (s.procSlot b) ∧ CellCounts s t c .demotions 1)) ∧
  (∀ (k : Int) (n : StallId) (l : List (Int × List StallId)),
    (∀ e ∈ noteDisagree k n l, k - 64 < e.1 ∨ e.1 = k) ∧ (∃ e ∈ noteDisagree k n l, e.1 = k ∧ n ∈ e.2) ∧
    (∀ e ∈ l, k - 64 < e.1 → e.1 ≠ k → e ∈ noteDisagree k n l))

/-- WD_TRIP, WD_STOP_TIMEOUT, HALL_KICK, HALL_WATCHDOG_TRIP, HALL_UP, HALL_RETURN_TIMEOUT, WH_WATCHDOG_KICK, WH_WATCHDOG_EXPIRY,
WH_LOCKSTEP_MISMATCH, REFCLK_LOST and REFCLK_RESTORED complete (R349, R350, R351, R352, R358, R359, R363, R399). A command past its limit is stopped, counted and recorded, and a stall that does not end
it within 10 µs leaves service; a kick of Hall out of sequence or time resets the Hall domain alone, and Hall is back when it says
so; a Weighhouse kick out of its window, a lock-step mismatch and a return that takes 12 ms start a fault-caused warm reset; a lost
reference clock is safe state, and its return a warm reset. -/
def Obligations.WatchdogsStopAndReset : Prop :=
  (∀ (s : State) (c : CellId) (st : Fin 9) (n : StallId) (e : Engine) (b : Bool) (w : StopPoint) (r : Running) (k : Int),
    (s.stall n).running e = some r → s.wh.ready = true → (s.cell c).running = true → (descOf r.desc).cell = c →
    (descOf r.desc).stage = st.val → s.wh.stops = [] → s.commandSlot c (descOf r.desc) = k →
    (if b then s.stuck c st.val r else s.directionOver c st.val k) = true →
    ((s.cell c).wdSlots = [] → ∃ t, exec (.wdTrip c st n e b w.item ⟨w.passes, w.fed⟩) s = .next t ∧ CellCounts s t c .wdTrips 1 ∧
      (t.cell c).wdSlots = [k] ∧ t.wh.stops = [⟨c, st.val, n, e, r.q, r.idx, s.up⟩] ∧ CellCounts s t c .cellReinit 0) ∧
    (∀ p q, (s.cell c).wdSlots = [p, q] → k - 16 < p → k - 16 < q → p ≠ k → q ≠ k → s.hallAbsent = false →
      ∃ t, exec (.wdTrip c st n e b w.item ⟨w.passes, w.fed⟩) s = .next t ∧ CellCounts s t c .cellReinit 1 ∧ vget t.time.plans c = [])) ∧
  (∀ (s : State) (c : CellId) (st : Fin 9) (n : StallId) (e : Engine) (b : Bool) (w : StopPoint), (s.stall n).running e = none →
    exec (.wdTrip c st n e b w.item ⟨w.passes, w.fed⟩) s = .next s) ∧
  (∀ (s : State) (c : CellId) (st : Fin 9) (n : StallId) (b : Bool) (w : StopPoint) (r : Running) (x : VecRegs),
    (s.stall n).vec = .running r x → r.outcome = none → r.ended = none → s.wh.ready = true → (s.cell c).running = true →
    (descOf r.desc).cell = c → (descOf r.desc).stage = st.val → s.wh.stops = [] → (s.cell c).wdSlots = [] →
    (if b then s.stuck c st.val r else s.directionOver c st.val (s.commandSlot c (descOf r.desc))) = true →
    ∃ t y, exec (.wdTrip c st n .vector b w.item ⟨w.passes, w.fed⟩) s = .next t ∧ (t.stall n).vec = .running { r.stopped with tdc := true } y) ∧
  (∀ (s : State) (c : CellId) (st : Fin 9) (n : StallId) (e : Engine) (x : StopWatch), x ∈ s.wh.stops → x.cell = c → x.stage = st.val →
    x.stall = n → x.engine = e → s.stopLive x = true → ns 10000 ≤ s.up - x.since →
    ∃ t, exec (.wdStopTimeout c st n e) s = .next t ∧ t.domainOn n.val = false ∧ (t.stall n).inService = false ∧ (t.stall n).out = true ∧
      (t.stall n).vec = .idle ∧ (t.stall n).seq = .idle) ∧
  (∀ (s : State) (v : BitVec 16), s.sec.hallRun = true →
    (s.wh.hallKick = none → ∃ t, exec (.hallKick v) s = .next t ∧ t.wh = { s.wh with hallKick := some (v, s.up) } ∧ OnlyChanges [.wh] s t) ∧
    (∀ u i, s.wh.hallKick = some (u, i) → ns 100000 ≤ s.up - i → s.up - i ≤ ns 2000000 → v = u + 1 →
      ∃ t, exec (.hallKick v) s = .next t ∧ t.wh = { s.wh with hallKick := some (v, s.up) } ∧ OnlyChanges [.wh] s t) ∧
    (∀ u i, s.wh.hallKick = some (u, i) → (s.up - i < ns 100000 ∨ ns 2000000 < s.up - i ∨ v ≠ u + 1) → s.hallWatched = true →
      ((recent s.up (ns 10000000000) s.wh.hallResets).length < 2 → ∃ t, exec (.hallKick v) s = .next t ∧ HallReset s t) ∧
      (2 ≤ (recent s.up (ns 10000000000) s.wh.hallResets).length → ∃ t, exec (.hallKick v) s = .next t ∧ FaultReset s t 2))) ∧
  (∀ (s : State), s.hallWatched = true → (recent s.up (ns 10000000000) s.wh.hallResets).length < 2 →
    (∀ u i, s.wh.hallKick = some (u, i) → ns 2000000 < s.up - i → ∃ t, exec (.hallWatchdogTrip 0) s = .next t ∧ HallReset s t) ∧
    (∀ c : CellId, (s.cell c).running = true → 2 ≤ (s.cell c).depthMiss → ∃ t, exec (.hallWatchdogTrip 2) s = .next t ∧ HallReset s t) ∧
    ∃ t, exec (.hallWatchdogTrip 3) s = .next t ∧ HallReset s t) ∧
  (∀ (s : State), s.wh.hallDown.isSome = true → s.sec.hallRun = true → s.wh.hallKick.isSome = true →
    ∃ t, exec .hallUp s = .next t ∧ t.wh = { s.wh with hallUp := true, hallDown := none } ∧ (∀ c, (t.cell c).depthMiss = 0) ∧
      OnlyChanges [.wh, .cells] s t) ∧
  (∀ (s : State) (i : Int), s.wh.hallDown = some i → ns 12000000 ≤ s.up - i →
    ∃ t, exec .hallReturnTimeout s = .next t ∧ FaultReset s t 1) ∧
  (∀ (s : State), s.sec.whRun = true →
    (s.wh.whKick = none → ∃ t, exec .whWatchdogKick s = .next t ∧ t.wh = { s.wh with whKick := some s.up } ∧ OnlyChanges [.wh] s t) ∧
    (∀ i, s.wh.whKick = some i → ns 50000 ≤ s.up - i → s.up - i < ns 500000 →
      ∃ t, exec .whWatchdogKick s = .next t ∧ t.wh = { s.wh with whKick := some s.up } ∧ OnlyChanges [.wh] s t) ∧
    (∀ i, s.wh.whKick = some i → (s.up - i < ns 50000 ∨ ns 500000 ≤ s.up - i) →
      ∃ t, exec .whWatchdogKick s = .next t ∧ FaultReset s t 4) ∧
    (∀ i, s.wh.whKick = some i → ns 500000 ≤ s.up - i → ∃ t, exec .whWatchdogExpiry s = .next t ∧ FaultReset s t 4) ∧
    ∃ t, exec .whLockstepMismatch s = .next t ∧ FaultReset s t 3) ∧
  (∀ (s : State), s.pins.pwrGood = true → s.pwr.refLost = false → ∃ t, exec .refclkLost s = .next t ∧ t.pwr.refLost = true ∧
    t.wh.safe = true ∧ t.wh.faultLow = true ∧ t.stalls = s.stalls ∧ t.time.ptp = s.time.ptp ∧ t.host.order = []) ∧
  (∀ (s : State), s.pwr.refLost = true → ∃ t, exec .refclkRestored s = .next t ∧ FaultReset s t 9 ∧ t.pwr.refLost = false)

/-- GOLDEN_TICK, GOLDEN_FRAME_RESULT, STALL_RETURN, STALL_SERVICE and CHECKER_SELF_TEST complete (R353, R354, R355, R356, R357). A golden
frame falls due on stall n at every tick with j mod 256 = 4 n; it is placed, or deferred up to 4
times, and the fifth is placed at once. A second wrong frame in succession takes the stall out of service; a passed test returns it,
after 1 s or for STALL_SERVICE; a checker that fails its own test resets the device. -/
def Obligations.GoldenFramesTestStalls : Prop :=
  (∀ (s : State) (n : StallId), s.wh.ready = true → s.wh.tick ≠ s.nowNs / 500000 → s.nowNs / 500000 % 256 = 4 * (n.val : Int) →
    (s.stall n).inService = true → s.domainOn n.val = true → (s.stall n).golden.running = false →
    (∀ m, m ≠ n → (s.stall m).golden.due = false) →
    (s.goldenCollides n = true → (s.stall n).golden.collisions < 4 → ∃ t, exec .goldenTick s = .next t ∧ t.wh.tick = s.nowNs / 500000 ∧
      (t.stall n).golden = { (s.stall n).golden with due := true, collisions := (s.stall n).golden.collisions + 1 } ∧
      OtherStalls n s t ∧ OnlyChanges [.wh, .stalls] s t) ∧
    (s.goldenCollides n = true → 4 ≤ (s.stall n).golden.collisions → ∃ t, exec .goldenTick s = .next t ∧
      (s.planFits (Config.goldenFrame n) = true → (t.stall n).golden.running = true) ∧ 5 ≤ (t.stall n).golden.collisions ∧
      (t.stall n).golden.charge = s.aheadOf n) ∧
    (s.goldenCollides n = false → ∃ t, exec .goldenTick s = .next t ∧
      (s.planFits (Config.goldenFrame n) = true → (t.stall n).golden.running = true ∧ (t.stall n).golden.due = false) ∧
      (s.planFits (Config.goldenFrame n) = false → (t.stall n).golden.due = true ∧ (t.stall n).golden.running = false))) ∧
  (∀ (s : State), s.wh.tick = s.nowNs / 500000 → exec .goldenTick s = .next s) ∧
  (∀ (s : State) (n : StallId) (ac : Nat), (s.stall n).golden.running = true →
    (∃ t, exec (.goldenFrameResult n true ac) s = .next t ∧ (t.stall n).golden = Golden.reset ∧ (t.stall n).suspect = false ∧
      (t.stall n).inService = (s.stall n).inService ∧ OtherStalls n s t ∧ OnlyChanges [.stalls, .qm] s t) ∧
    ((s.stall n).golden.failures = 0 → ∃ t, exec (.goldenFrameResult n false ac) s = .next t ∧ (t.stall n).golden.failures = 1 ∧
      (t.stall n).inService = (s.stall n).inService ∧ t.devCtr .whGoldenFail = (s.devCtr .whGoldenFail).add 1) ∧
    ((s.stall n).golden.failures ≠ 0 → ∃ t, exec (.goldenFrameResult n false ac) s = .next t ∧ (t.stall n).inService = false ∧
      (t.stall n).out = true ∧ t.domainOn n.val = false ∧ (t.stall n).outTimes =
        recent s.up (ns 3600000000000) (s.stall n).outTimes ++ [s.up])) ∧
  (∀ (s : State) (n : StallId) (i : Int) (l : List Int), (s.stall n).out = true → (s.stall n).bootFail = false → s.hallAbsent = false →
    s.pwr.tripHold = false → s.serviceOf n = none → (s.stall n).outTimes = l ++ [i] →
    (ns 1000000000 ≤ s.up - i → l.length < 2 → ∃ t, exec (.stallReturn n true) s = .next t ∧ (t.stall n).inService = true ∧
      (t.stall n).out = false ∧ t.domainOn n.val = true ∧ TargetsFollow t) ∧
    (s.up - i < ns 1000000000 ∨ 2 ≤ l.length → exec (.stallReturn n true) s = .next s) ∧ exec (.stallReturn n false) s = .next s) ∧
  (∀ (s : State) (n : StallId) (m : MboxId) (b : Bool) (x : Option CellId) (items : List Byte), (s.stall n).out = true →
    (s.stall n).bootFail = false → s.hallAbsent = false → s.pwr.tripHold = false → s.serviceOf n = some m →
    (s.mb m).phase = .taken b 0x41 x 0 n.val items →
    (∃ t, exec (.stallReturn n true) s = .next t ∧ MbAnswers s t m 0x41 0 0 [] ∧ (t.stall n).inService = true) ∧
    ∃ t, exec (.stallReturn n false) s = .next t ∧ MbAnswers s t m 0x41 7 0 [] ∧ t.stalls = s.stalls) ∧
  (∀ (s : State) (m : MboxId) (l : List MItem) (n : StallId), MbRuns s m 0x41 stallServiceItems l → itemNum l 1 = some (0x400 + n.val) →
    ((s.stall n).inService = true → MbDoes (.stallService m) s m 0x41 0 0 [] [] fun _ => True) ∧
    ((s.stall n).inService = false → (s.stall n).bootFail = true → MbDoes (.stallService m) s m 0x41 3 1 [] [] fun _ => True) ∧
    ((s.stall n).inService = false → (s.stall n).bootFail = false → s.pwr.tripHold = false → ∃ t, exec (.stallService m) s = .next t ∧
      (t.mb m).phase = .taken false 0x41 none 0 n.val [] ∧ (t.stall n).out = true ∧ OtherStalls n s t ∧ OnlyChanges [.host, .stalls] s t)) ∧
  (∀ (s : State), s.wh.ready = true → s.nowNs / 500000 % 1024 = 2 →
    exec (.checkerSelfTest true) s = .next s ∧ ∃ t, exec (.checkerSelfTest false) s = .next t ∧ FaultReset s t 5)

/-- HEARTBEAT_SEND, HEARTBEAT_RECEIVE, HEARTBEAT_SILENCE, HANDOVER_RECEIVE and MIRROR_RECEIVE complete (R365, R366, R367, R386, R387, R390,
R413). Heartbeats go out every 50 µs over the links that are up; a standby takes its partner's cells over on
HANDOVER, or on 150 µs of silence with GPIO6 low, and only notes the lost link while GPIO6 is high; a silent member that is no
partner leaves the joined set; mirrored items of the partner's cells are taken in. A link that is up serves what waits at it by the
priority of Table 13-6, one message a tick (the model's pace, log entry 18). -/
def Obligations.StandbyTakesOver : Prop :=
  (∀ (s : State), s.wh.ready = true → s.sec.whRun = true →
    ((s.join.sent = none ∨ ∃ i, s.join.sent = some i ∧ ns 50000 ≤ s.up - i) → ∃ t, exec .heartbeatSend s = .next t ∧
      t.join = { s.join with sent := some s.up } ∧
      (∀ l, vget t.valley l = if (vget s.join.links l).up then enqueueValley ⟨1, 1, []⟩ (vget s.valley l) else vget s.valley l) ∧
      OnlyChanges [.join, .valley] s t) ∧
    (∀ i, s.join.sent = some i → s.up - i < ns 50000 → exec .heartbeatSend s = .next s)) ∧
  (∀ (x : ValleyMsg) (l : List ValleyMsg), (l.Pairwise fun a b => a.priority ≤ b.priority) →
    ((enqueueValley x l).Pairwise fun a b => a.priority ≤ b.priority) ∧ (∀ y, y ∈ enqueueValley x l ↔ y = x ∨ y ∈ l) ∧
    ((enqueueValley x l).filter fun y => y.priority == x.priority) = (l.filter fun y => y.priority == x.priority) ++ [x]) ∧
  (∀ (s : State) (l : LinkId) (x : ValleyMsg) (r : List ValleyMsg), s.pending = [] → vget s.valley l = x :: r →
    ((vget s.join.links l).up = true → ∃ t, step s = .next t ∧ .valley l x.kind x.bytes ∈ t.out ∧ vget t.valley l = r) ∧
    ((vget s.join.links l).up = false → ∃ t, step s = .next t ∧ vget t.valley l = x :: r)) ∧
  (∀ (s : State) (d : DeviceId), (s.linksTo d ≠ [] → ∃ t, exec (.heartbeatReceive d) s = .next t ∧
      t.join = { s.join with beats := vset s.join.beats d s.up } ∧ OnlyChanges [.join] s t) ∧
    (s.linksTo d = [] → exec (.heartbeatReceive d) s = .next s)) ∧
  (∀ (s : State) (d : DeviceId) (bg : List (CellId × AirSlot × List UnitDesc)) (p : Pair), s.join.pair = some p → p.partner = d →
    p.taken = false → ∃ t, exec (.handoverReceive d bg) s = .next t ∧
      t.join.pair = some { p with standby := 0, taken := true } ∧
      (∀ c : CellId, p.standby.getLsbD c.val = true → (t.cell c).running = true ∧ (t.cell c).configured = true) ∧
      (∀ c : CellId, p.standby.getLsbD c.val = false → t.cell c = s.cell c) ∧
      (∀ x ∈ bg, p.standby.getLsbD x.1.val = true → ∃ u ∈ (t.cell x.1).ul, u.air = x.2.1 ∧
        ∀ y ∈ u.units, ∀ z ∈ y.blocks, z.final = some 3) ∧
      OnlyChanges [.cells, .join, .host, .dev, .harq, .mem, .valley, .qps, .out] s t) ∧
  (∀ (s : State) (d : DeviceId) (bg : List (CellId × AirSlot × List UnitDesc)) (l : Lockstep), s.join.pair = none →
    s.shadowRule d = some l → ∃ t, exec (.handoverReceive d bg) s = .next t ∧ t.join.lockstep = none ∧
      ∀ x ∈ bg, l.cells.getLsbD x.1.val = true → ∃ u ∈ (t.cell x.1).ul, u.air = x.2.1 ∧
        ∀ y ∈ u.units, ∀ z ∈ y.blocks, z.final = some 3) ∧
  (∀ (s : State) (d : DeviceId) (bg : List (CellId × AirSlot × List UnitDesc)) (p : Pair) (g : Bool), s.wh.ready = true →
    ns 150000 ≤ s.up - vget s.join.beats d → s.join.pair = some p → p.partner = d → p.taken = false →
    (g = true → ∃ t, exec (.heartbeatSilence d g bg) s = .next t ∧ t.join.pair = some { p with standby := 0, taken := true } ∧
      ∀ c : CellId, p.standby.getLsbD c.val = true → (t.cell c).running = true) ∧
    (g = false → p.linkLost = false → ∃ t, exec (.heartbeatSilence d g bg) s = .next t ∧ t.join.pair = some { p with linkLost := true } ∧
      t.cells = s.cells ∧ OnlyChanges [.join, .host, .dev] s t)) ∧
  (∀ (s : State) (d : DeviceId) (bg : List (CellId × AirSlot × List UnitDesc)) (g : Bool), s.wh.ready = true →
    ns 150000 ≤ s.up - vget s.join.beats d → s.join.pair = none → s.join.lockstep = none → s.join.member d = true →
    ∃ t, exec (.heartbeatSilence d g bg) s = .next t ∧ t.join.members.getLsbD d.val = false ∧
      (∀ e : DeviceId, e ≠ d → t.join.members.getLsbD e.val = s.join.members.getLsbD e.val) ∧
      (∀ x ∈ t.pwr.share, x.1 ≠ d ∧ x ∈ s.pwr.shareCfg) ∧ t.mem = s.mem) ∧
  (∀ (s : State) (d : DeviceId) (bg : List (CellId × AirSlot × List UnitDesc)) (g : Bool), s.up - vget s.join.beats d < ns 150000 →
    exec (.heartbeatSilence d g bg) s = .next s) ∧
  (∀ (s : State) (p : Pair), s.join.pair = some p → s.linksTo p.partner ≠ [] → s.hallAbsent = false →
    (∀ c d, p.standby.getLsbD c.val = true → ∃ t, exec (.mirrorReceive (.bundle c d)) s = .next t ∧
      t.cell c = { s.cell c with bundle := some d } ∧ OnlyChanges [.cells] s t ∧ OtherCells c s t) ∧
    (∀ c w, p.standby.getLsbD c.val = true → ∃ t, exec (.mirrorReceive (.weights c w)) s = .next t ∧
      (t.cell c).adapt.promoted = some w ∧ OnlyChanges [.cells] s t ∧ OtherCells c s t) ∧
    (∀ c q d, p.standby.getLsbD c.val = true → ∃ t, exec (.mirrorReceive (.demotion c q d)) s = .next t ∧ (t.path c q).demoted = d ∧
      OnlyChanges [.cells] s t ∧ OtherCells c s t) ∧
    (∀ c r h, p.standby.getLsbD c.val = true → ∃ t, exec (.mirrorReceive (.harqFree c r h)) s = .next t ∧
      (∀ x, x ∈ t.harq.pages ↔ x ∈ s.harq.pages ∧ ¬(x.cell = c ∧ x.rnti = r ∧ x.harqId = h)) ∧ OnlyChanges [.harq] s t) ∧
    (∀ c r h b k f x, p.standby.getLsbD c.val = true → ∃ t y, exec (.mirrorReceive (.harqPage c r h b k f x)) s = .next t ∧
      y ∈ t.harq.pages ∧ y.cell = c ∧ y.rnti = r ∧ y.harqId = h ∧ y.cb = b ∧ y.tbs = x.tbs ∧ OnlyChanges [.harq, .mem] s t) ∧
    (∀ a bs, (∃ off, placeOf a.toNat bs.length = .dram off) → ∃ t, exec (.mirrorReceive (.grantBook a bs)) s = .next t ∧
      t.mem = memWrite s.mem a.toNat bs ∧ MemOnly a.toNat bs.length s t ∧ OnlyChanges [.mem] s t) ∧
    ∀ c d, p.standby.getLsbD c.val = false → exec (.mirrorReceive (.bundle c d)) s = .next s)

/-- AUDIT_RECORD, LOCKSTEP_COMPARE, FORWARDED_INPUTS_RECEIVE, VALLEY_REMOTE_REQUEST, VL_UP, VL_REPLAY, VL_DOWN and VL_RETRAIN complete
(R375, R379, R383, R385, R389, R390). One audit record for each processing slot of an audited cell; the partner's record is compared,
different inputs are counted apart, and a difference in results names the first command that differs and raises the mismatch count,
the third of 64 slots being a divergence; a member's access is made and answered; a link follows its training and its losses. -/
def Obligations.ComparedDevicesAgree : Prop :=
  (∀ (s : State) (c : CellId) (a : AirSlot) (k : Int), s.audited c = true → s.hallAbsent = false → (s.frameTiming c).absOf s.now a = k →
    s.reached ((s.frameTiming c).start (k + 1)) = true → (∀ r, (s.cell c).audits.getLast? = some r → r.slot ≠ a) →
    (s.cell c).audits.length < 4096 →
    ∃ t r, exec (.auditRecord c a) s = .next t ∧ (t.cell c).audits = (s.cell c).audits ++ [r] ∧ r.slot = a ∧
      r.commands = (s.slotDigests c k).length ∧ r.tdc = min 65535 (s.cell c).tdc ∧
      r.result = Config.shake256 ((s.slotDigests c k).flatMap fun d => digestBytes d.digest) ∧ (t.cell c).tdc = 0 ∧
      (t.cell c).auditCount = (s.cell c).auditCount + 1 ∧ OtherCells c s t ∧ OnlyChanges [.cells, .out, .qps, .valley] s t) ∧
  (∀ (s : State) (c : CellId) (a : AirSlot), s.audited c = false → exec (.auditRecord c a) s = .next s) ∧
  (∀ (l : List DigestEntry), (sortDigests l).length = l.length ∧ (∀ x, x ∈ sortDigests l ↔ x ∈ l) ∧
    (sortDigests l).Pairwise fun x y => x.tag.toNat ≤ y.tag.toNat) ∧
  (∀ (s : State) (l : Lockstep) (c : CellId) (a : AirSlot) (i r : BitVec 256) (ds : List DigestRecord) (own : AuditRec),
    s.join.lockstep = some l → ((s.cell c).audits.find? fun x => x.slot == a) = some own → l.cells.getLsbD c.val = true →
    s.hallAbsent = false →
    (own.input ≠ i → ∃ t, exec (.lockstepCompare c a i r ds) s = .next t ∧ t.devCtr .lsInputDiff = (s.devCtr .lsInputDiff).add 1 ∧
      OnlyChanges [.cells, .dev] s t) ∧
    (own.input = i → own.result = r → ∃ t, exec (.lockstepCompare c a i r ds) s = .next t ∧ t.dev = s.dev ∧
      t.join.lockstep = some l ∧ OnlyChanges [.cells] s t) ∧
    (own.input = i → own.result ≠ r → comparedDiff (s.slotDigests c ((s.frameTiming c).absOf s.now a)) ds = none →
      ∃ t, exec (.lockstepCompare c a i r ds) s = .next t ∧ t.devCtr .lsTdcOnly = (s.devCtr .lsTdcOnly).add 1 ∧
        OnlyChanges [.cells, .dev] s t) ∧
    (∀ x, own.input = i → own.result ≠ r → comparedDiff (s.slotDigests c ((s.frameTiming c).absOf s.now a)) ds = some x →
      64 ≤ x.2.1.toNat → ∃ t, exec (.lockstepCompare c a i r ds) s = .next t ∧ t.devCtr .lsMismatch = (s.devCtr .lsMismatch).add 1 ∧
        t.join.lockstep = some { l with mismatches := (l.mismatches.filter fun i =>
            decide ((s.frameTiming c).start ((s.frameTiming c).absOf s.now a - 64) < i)) ++
          [(s.frameTiming c).start ((s.frameTiming c).absOf s.now a)] } ∧ OnlyChanges [.cells, .dev, .host, .join] s t)) ∧
  (∀ (s : State) (c : CellId) (a : AirSlot) (ps : List (BitVec 16 × Byte)) (l : Lockstep), s.join.lockstep = some l → l.shadow = true →
    l.cells.getLsbD c.val = true → ∃ t y, exec (.forwardedInputsReceive c a [] ps) s = .next t ∧ t.join.lockstep = some y ∧
      (c, a, ps) ∈ y.forwarded ∧ y.partner = l.partner ∧ y.cells = l.cells ∧ OnlyChanges [.join] s t) ∧
  (∀ (s : State) (u : LinkId) (r : RemoteRequest) (n : StallId) (off : Nat), (vget s.join.links u).up = true →
    s.join.member r.device = true → vget s.join.linkMap u = BitVec.ofNat 8 r.device.val →
    placeOf r.offset.toNat (if r.write then r.bytes.length else r.length) = .stallMem n off → s.domainOn n.val = true →
    (r.write = true → (s.stall n).inbound off r.bytes.length = true → ∃ t, exec (.valleyRemoteRequest u r) s = .next t ∧
      t.mem = memWrite s.mem r.offset.toNat r.bytes ∧ MemOnly r.offset.toNat r.bytes.length s t ∧
      vget t.valley u = enqueueValley ⟨4 + r.cls.val, 8, [BitVec.ofNat 8 r.cls.val, 2, 0]⟩ (vget s.valley u) ∧
      OnlyChanges [.mem, .valley] s t) ∧
    (r.write = true → (s.stall n).inbound off r.bytes.length = false → ∃ t, exec (.valleyRemoteRequest u r) s = .next t ∧
      vget t.valley u = enqueueValley ⟨4 + r.cls.val, 8, [BitVec.ofNat 8 r.cls.val, 2, oBadAddr]⟩ (vget s.valley u) ∧
      OnlyChanges [.valley] s t) ∧
    (r.write = false → ∃ t, exec (.valleyRemoteRequest u r) s = .next t ∧ vget t.valley u =
      enqueueValley ⟨4 + r.cls.val, 8, [BitVec.ofNat 8 r.cls.val, 2, 0] ++ memRead s.mem r.offset.toNat r.length⟩ (vget s.valley u) ∧
      OnlyChanges [.valley] s t)) ∧
  (∀ (s : State) (u : LinkId) (la pe : BitVec 4), (vget s.join.links u).downAt = none → s.domainOn (79 + u.val) = true →
    ∃ t, exec (.vlUp u la pe) s = .next t ∧ (vget t.join.links u).up = true ∧ (vget t.join.links u).lanes = la ∧
      (vget t.join.links u).peer = pe ∧ (∀ x, x ≠ u → vget t.join.links x = vget s.join.links x) ∧ OnlyChanges [.join] s t) ∧
  (∀ (s : State) (u : LinkId), (vget s.join.links u).up = true → ∃ t, exec (.vlReplay u) s = .next t ∧
    t.devCtr (.vlReplay u) = (s.devCtr (.vlReplay u)).add 1 ∧ (vget t.join.links u).up = true ∧ OnlyChanges [.dev, .join] s t) ∧
  (∀ (s : State) (u : LinkId) (b : Bool) (la : BitVec 4), (vget s.join.links u).up = true →
    ((b = true ∨ 1000 < (recent s.up (ns 1000000) (vget s.join.links u).replays).length) → ∃ t, exec (.vlDown u b la) s = .next t ∧
      (vget t.join.links u).up = false ∧ (vget t.join.links u).lanes = la ∧ (vget t.join.links u).downAt = some s.up ∧
      OnlyChanges [.join, .host, .dev] s t) ∧
    (b = false → (recent s.up (ns 1000000) (vget s.join.links u).replays).length ≤ 1000 → exec (.vlDown u b la) s = .next s)) ∧
  (∀ (s : State) (u : LinkId) (i : Int), (vget s.join.links u).downAt = some i → ns 10000000 ≤ s.up - i → s.hallAbsent = false →
    ∃ t, exec (.vlRetrain u) s = .next t ∧ (vget t.join.links u).downAt = none ∧ OnlyChanges [.join] s t)

/-- ROCE_SEND_RECEIVE, ROCE_RDMA_WRITE_RECEIVE, ROCE_RDMA_READ_RECEIVE, ROCE_ACK_RECEIVE, ROCE_RETRANSMIT_TIMEOUT, CNP_RECEIVE and
ROCE_RATE_RESTORE complete (R238, R308, R309, R391, R427). A request with the expected packet number on a live queue pair is taken and acknowledged, an earlier one
acknowledged again and a later one answered with a NAK of the expected; a WRITE or READ outside an opened region, and a READ of DRAM data that cannot be corrected, are answered with a NAK;
requests not acknowledged go again, and the eighth timeout ends the queue pair; a CNP halves the rate. -/
def Obligations.QueuePairsRecoverLosses : Prop :=
  (∀ (s : State) (q : QpId) (psn : BitVec 24) (bs : List Byte) (i : Int), (s.qp q).live = true → s.portOn (s.qp q).port = true →
    (s.port (s.qp q).port).mode = 2 → s.departs (s.qp q).port (some Config.rocePriority) Config.roceHeader = i →
    (psn = (s.qp q).expect → (s.memberOf q).isSome = true → ∃ t, exec (.roceSendReceive q psn bs) s = .next t ∧
      (t.qp q).expect = psn + BitVec.ofNat 24 ((s.qp q).packets bs.length - 1) + 1 ∧
      t.out = s.out ++ [.roce q 5 0 ((psn + BitVec.ofNat 24 ((s.qp q).packets bs.length - 1)).setWidth 32) [] i] ∧
      (∀ p, p ≠ q → t.qp p = s.qp p) ∧ OnlyChanges [.qps, .out] s t) ∧
    (psn ≠ (s.qp q).expect → (psn - (s.qp q).expect).getLsbD 23 = true → ∃ t, exec (.roceSendReceive q psn bs) s = .next t ∧
      t.out = s.out ++ [.roce q 5 0 (((s.qp q).expect - 1).setWidth 32) [] i] ∧ OnlyChanges [.out] s t) ∧
    (psn ≠ (s.qp q).expect → (psn - (s.qp q).expect).getLsbD 23 = false → ∃ t, exec (.roceSendReceive q psn bs) s = .next t ∧
      t.out = s.out ++ [.roce q 6 0 ((s.qp q).expect.setWidth 32) [] i] ∧ OnlyChanges [.out] s t) ∧
    (∀ m : MboxId, psn = (s.qp q).expect → s.memberOf q = none → 16 ≤ bs.length → bs.length ≤ 4096 → bytesNat bs 6 1 = m.val →
      (s.mb m).transport = true → (s.mb m).qp.toNat = q.val → s.hallAbsent = false → (s.mb m).busy = false →
      ((s.mb m).done = false ∨ BitVec.ofNat 16 (bytesNat bs 4 2) ≠ (s.mb m).lastSeq) →
      Mailbox.headerFault { s.mb m with req := memWrite (s.mb m).req 0 bs, seq := BitVec.ofNat 16 (bytesNat bs 4 2) } m = none →
      s.host.order = [] → ∃ t, exec (.roceSendReceive q psn bs) s = .next t ∧ (t.mb m).busy = true ∧ (t.mb m).path = .roce q ∧
        (t.mb m).req = memWrite (s.mb m).req 0 bs ∧ t.host.order = [m] ∧ OnlyChanges [.qps, .out, .host] s t)) ∧
  (∀ (s : State) (q : QpId) (psn : BitVec 24) (a : BitVec 64) (k : Word) (bs : List Byte) (cl : Fin 3) (off : Nat) (at_ : Nat → Int),
    (s.qp q).live = true → s.portOn (s.qp q).port = true → (s.port (s.qp q).port).mode = 2 →
    (∀ n, at_ n = s.departs (s.qp q).port (some Config.rocePriority) (Config.roceHeader + n)) → psn = (s.qp q).expect → s.memberOf q = none →
    ((s.qp q).opens a k bs.length = true → placeOf a.toNat bs.length = .dram off →
      ∃ t, exec (.roceRdmaWriteReceive q psn a k bs cl none) s = .next t ∧ t.mem = memWrite s.mem a.toNat bs ∧
        MemOnly a.toNat bs.length s t ∧ (t.qp q).expect = psn + BitVec.ofNat 24 ((s.qp q).packets bs.length - 1) + 1 ∧
        OnlyChanges [.mem, .qps, .out] s t) ∧
    ((s.qp q).opens a k bs.length = false → ∃ t, exec (.roceRdmaWriteReceive q psn a k bs cl none) s = .next t ∧
      t.out = s.out ++ [.roce q 6 0 (psn.setWidth 32) [] (at_ 0)] ∧ OnlyChanges [.out] s t) ∧
    (∀ n, (s.qp q).opens a k n = true → placeOf a.toNat n = .dram off →
      (∀ e : Ecc, e ≠ .uncorrectable → ∃ t, exec (.roceRdmaReadReceive q psn a k n ⟨cl, e⟩) s = .next t ∧
        .roce q 4 a (psn.setWidth 32) (memRead s.mem a.toNat n) (at_ n) ∈ t.out ∧
        (t.qp q).expect = psn + BitVec.ofNat 24 ((s.qp q).packets n - 1) + 1 ∧
        t.devCtr .dramCe = (if e = .corrected then (s.devCtr .dramCe).add 1 else s.devCtr .dramCe) ∧ OnlyChanges [.qps, .out, .dev] s t) ∧
      ∃ t, exec (.roceRdmaReadReceive q psn a k n ⟨cl, .uncorrectable⟩) s = .next t ∧
        t.out = s.out ++ [.roce q 6 0 (psn.setWidth 32) [] (at_ 0)] ∧ t.qp q = s.qp q ∧
        t.devCtr .dramUe = (s.devCtr .dramUe).add 1) ∧
    (∀ n e, (s.qp q).opens a k n = false → ∃ t, exec (.roceRdmaReadReceive q psn a k n ⟨cl, e⟩) s = .next t ∧
      t.out = s.out ++ [.roce q 6 0 (psn.setWidth 32) [] (at_ 0)] ∧ OnlyChanges [.out] s t)) ∧
  (∀ (s : State) (q : QpId) (psn : BitVec 24) (r : RoceReq) (i : Int), (s.qp q).live = true → s.portOn (s.qp q).port = true →
    (s.port (s.qp q).port).mode = 2 → (s.qp q).sent = [r] →
    s.departs (s.qp q).port (some Config.rocePriority) (Config.roceHeader + r.bytes.length) = i →
    ((psn - r.last).getLsbD 23 = false → ∃ t, exec (.roceAckReceive q psn false) s = .next t ∧ (t.qp q).sent = [] ∧
      (t.qp q).retries = 0 ∧ t.out = s.out ∧ OnlyChanges [.qps] s t) ∧
    ((psn - 1 - r.last).getLsbD 23 = true → ∃ t, exec (.roceAckReceive q psn true) s = .next t ∧ (t.qp q).sent = [r] ∧
      t.out = s.out ++ [.roce q r.op r.addr r.imm r.bytes i] ∧ OnlyChanges [.qps, .out] s t)) ∧
  (∀ (s : State) (q : QpId), (s.qp q).live = true → (s.qp q).sent ≠ [] → ns (4000 * 2 ^ (s.qp q).retryT : Nat) ≤ s.up - (s.qp q).sentAt →
    ((s.qp q).retries < 7 → ∃ t, exec (.roceRetransmitTimeout q) s = .next t ∧ (t.qp q).retries = (s.qp q).retries + 1 ∧
      (t.qp q).sent = (s.qp q).sent ∧ t.out = s.out ++ (s.qp q).sent.map (fun r => .roce q r.op r.addr r.imm r.bytes
        (s.departs (s.qp q).port (some Config.rocePriority) (Config.roceHeader + r.bytes.length))) ∧
      OnlyChanges [.qps, .out] s t) ∧
    (7 ≤ (s.qp q).retries → s.memberOf q = none → ∃ t, exec (.roceRetransmitTimeout q) s = .next t ∧ (t.qp q).error = true ∧
      (t.qp q).sent = [] ∧ OnlyChanges [.qps, .host, .dev] s t) ∧
    (∀ d, 7 ≤ (s.qp q).retries → s.memberOf q = some d → ∃ t, exec (.roceRetransmitTimeout q) s = .next t ∧ (t.qp q).error = true ∧
      t.join.members.getLsbD d.val = false)) ∧
  (∀ (s : State) (q : QpId), (s.qp q).live = true → s.portOn (s.qp q).port = true → (s.port (s.qp q).port).mode = 2 →
    ∃ t, exec (.cnpReceive q) s = .next t ∧ t.qp q = { s.qp q with rate := (s.qp q).rate / 2, rateAt := s.up } ∧ OnlyChanges [.qps] s t) ∧
  (∀ (s : State) (q : QpId), (s.qp q).live = true → (s.qp q).rate < 1 → ns 55000 ≤ s.up - (s.qp q).rateAt →
    ∃ t, exec (.roceRateRestore q) s = .next t ∧ (t.qp q).rate = min 1 ((s.qp q).rate + 5 / 100) ∧ (t.qp q).rateAt = s.up ∧
      OnlyChanges [.qps] s t)

/-- IND_DATA_READ, IND_DATA_WRITE, COUNTER_SNAPSHOT, COUNTER_RELEASE, COUNTER_READ_CLEAR and REGISTER_WRITE complete (R8, R371,
R441-R445): an access through IND_DATA moves IND_ADDR on by 4, whatever its result, and a failed or refused one leaves
its reason in IND_STATUS; a snapshot copies every counter of the selected blocks to the holding registers of its agent, reduces the
live ones with CLEAR, and sets HELD; a read of a counter returns the holding value while its block is held, and otherwise clears the
live one; a write reaches every stall of its window that is on, and one outside every window is counted. -/
def Obligations.RegistersAndCountersFollowTheirAccesses : Prop :=
  (∀ (s : State) (g : Agent) (b : Bool), ∃ t, exec (.indDataRead g b) s = .next t ∧ OnlyChanges [.host] s t ∧
    (∀ i, vget t.host.indAddr i = if i = agentIx g then vget s.host.indAddr i + 4 else vget s.host.indAddr i) ∧
    (∀ i, i ≠ agentIx g → vget t.host.indStatus i = vget s.host.indStatus i) ∧
    (s.indAt (vget s.host.indAddr (agentIx g)).toNat = .unmapped → (s.indRead g b).1 = 0 ∧
      vget t.host.indStatus (agentIx g) = vget s.host.indStatus (agentIx g) ||| 1) ∧
    (s.indAt (vget s.host.indAddr (agentIx g)).toNat = .off → (s.indRead g b).1 = 0 ∧
      vget t.host.indStatus (agentIx g) = vget s.host.indStatus (agentIx g) ||| 2) ∧
    (s.indAt (vget s.host.indAddr (agentIx g)).toNat ≠ .unmapped → s.indAt (vget s.host.indAddr (agentIx g)).toNat ≠ .off →
      (b = false → (s.indRead g b).1 = 0 ∧ vget t.host.indStatus (agentIx g) = vget s.host.indStatus (agentIx g) ||| 4) ∧
      (b = true → vget t.host.indStatus (agentIx g) = vget s.host.indStatus (agentIx g) ∧
        (s.indAt (vget s.host.indAddr (agentIx g)).toNat = .zero → (s.indRead g b).1 = 0) ∧
        (∀ f, s.indAt (vget s.host.indAddr (agentIx g)).toNat = .fuse f → (s.indRead g b).1 = s.fuseWord f)))) ∧
  (∀ (s : State) (g : Agent) (v : Word), ∃ t, exec (.indDataWrite g v) s = .next t ∧ OnlyChanges [.host] s t ∧
    (∀ i, vget t.host.indAddr i = if i = agentIx g then vget s.host.indAddr i + 4 else vget s.host.indAddr i) ∧
    (∀ i, vget t.host.indStatus i = if i = agentIx g then vget s.host.indStatus i ||| 8 else vget s.host.indStatus i)) ∧
  (∀ (s : State) (v : Word), ∃ t, exec (.counterSnapshot .host v) s = .next t ∧ OnlyChanges [.dev, .stalls, .qm, .host] s t ∧
    t.host = { s.host with held := s.host.held ||| v.setWidth 11 } ∧
    (∀ c : DevCtr, if wbit v (devBlock c.idx)
      then t.devCtr c = ⟨if wbit v 31 = true ∧ devBlock c.idx ≠ 8 then 0 else (s.devCtr c).live, (s.devCtr c).live, (s.devCtr c).hall⟩
      else t.devCtr c = s.devCtr c) ∧
    (∀ (n : StallId) (c : StallCtr), if wbit v 1
      then vget (t.stall n).ctr c.idx = ⟨if wbit v 31 then 0 else (vget (s.stall n).ctr c.idx).live, (vget (s.stall n).ctr c.idx).live,
        (vget (s.stall n).ctr c.idx).hall⟩
      else t.stall n = s.stall n) ∧
    (∀ q : QueueId, if wbit v 0
      then t.queue q = { s.queue q with acctHold := (s.queue q).acct, acct := if wbit v 31 then 0 else (s.queue q).acct }
      else t.queue q = s.queue q)) ∧
  (∀ (s : State) (v : Word), ∃ t, exec (.counterSnapshot .hall v) s = .next t ∧ OnlyChanges [.dev, .stalls, .qm, .host] s t ∧
    t.host = { s.host with hallHeld := s.host.hallHeld ||| v.setWidth 11 } ∧
    (∀ c : DevCtr, (t.devCtr c).live = (s.devCtr c).live ∧ (t.devCtr c).hold = (s.devCtr c).hold) ∧
    (∀ (n : StallId) (c : StallCtr), (vget (t.stall n).ctr c.idx).live = (vget (s.stall n).ctr c.idx).live) ∧
    (∀ q : QueueId, (t.queue q).acct = (s.queue q).acct)) ∧
  (∀ (s : State) (v : Word), ∃ t u, exec (.counterRelease .host v) s = .next t ∧ exec (.counterRelease .hall v) s = .next u ∧
    t.host = { s.host with held := s.host.held &&& ~~~(v.setWidth 11) } ∧ OnlyChanges [.host] s t ∧
    u.host = { s.host with hallHeld := s.host.hallHeld &&& ~~~(v.setWidth 11) } ∧ OnlyChanges [.host] s u) ∧
  (∀ (s : State) (a : Word) (x : RegSite) (c : CtrSite), regSite (a.toNat / 4 * 4) = some x → ctrAt x = some c →
    (∀ b, (s.regRead .host a.toNat b).1 = if s.host.held.getLsbD c.block then (s.ctr c).hold else (s.ctr c).live) ∧
    (s.host.held.getLsbD c.block = false → c.block ≠ 8 → ∃ t, exec (.counterReadClear .host a) s = .next t ∧ (t.ctr c).live = 0 ∧
      (t.ctr c).hold = (s.ctr c).hold ∧ (∀ d, d ≠ c → t.ctr d = s.ctr d) ∧ OnlyChanges [.dev, .stalls] s t ∧
      ∀ b, (s.regRead .host a.toNat b).2 = t) ∧
    (s.host.held.getLsbD c.block = true ∨ c.block = 8 → exec (.counterReadClear .host a) s = .next s) ∧
    exec (.counterReadClear .hall a) s = .next s) ∧
  (∀ (s : State) (g : Agent) (a v : Word),
    (regSite (a.toNat / 4 * 4) = none → ∃ t, exec (.registerWrite g a v) s = .next t ∧
      t.devCtr .regUnmapped = (s.devCtr .regUnmapped).add 1 ∧ OnlyChanges [.dev] s t) ∧
    (regSite (a.toNat / 4 * 4) = some (.global 0x4004) → ∃ t, exec (.registerWrite g a v) s = .next t ∧
      t.qm = { s.qm with timing := v } ∧ OnlyChanges [.qm] s t) ∧
    (regSite (a.toNat / 4 * 4) = some (.usb 8) → ∃ t, exec (.registerWrite g a v) s = .next t ∧
      t.host = { s.host with evtMask := v.setWidth 16 } ∧ OnlyChanges [.host] s t) ∧
    (∀ w, regSite (a.toNat / 4 * 4) = some (.stalls w 0x608) → ∃ t, exec (.registerWrite g a v) s = .next t ∧ OnlyChanges [.stalls] s t ∧
      ∀ n : StallId, t.stall n = if n ∈ Window.stalls w ∧ s.domainOn n.val = true
        then { s.stall n with inboundBase := (v >>> 16).setWidth 16, inboundEnd := v.setWidth 16 } else s.stall n) ∧
    (∀ o, regSite (a.toNat / 4 * 4) = some (.weigh o) → exec (.registerWrite g a v) s = .next s) ∧
    (∀ o c, regSite (a.toNat / 4 * 4) = some o → ctrAt o = some c → exec (.registerWrite g a v) s = .next s))

/-- READ, READ_SAME, WRITE, WRITE_SAME, USB_STANDARD_REQUEST, USB_RESET_COMMAND, USB_FALLBACK, EVENT_ENDPOINT_POLL and EVENTS_DROPPED
complete (R419-R421, R423, R424, R426, R438, R439): a register request makes its accesses in order and has one response, and a malformed one
accesses nothing; endpoint 0 answers the standard requests, and starts a warm reset with cause 7 on the reset command alone; a poll
of endpoint 3 takes up to 32 records in order; refused records are reported once a µs without a refusal has passed. -/
def Obligations.UsbServesRegistersRequestsAndEvents : Prop :=
  (∀ (s : State) (tag : BitVec 16) (addr : Word) (k : BitVec 16) (late : List Nat), s.endpoint2 = true → addr.toNat % 4 = 0 →
    1 ≤ k.toNat → k.toNat ≤ 1016 → ∃ t u v w bs cs,
      exec (.read tag addr k [] late) s = .next t ∧ t = State.send u (.usbMessage 1 0 tag addr k bs) ∧ bs.length = 4 * k.toNat ∧
      bs.take 4 = natLE 4 (s.regRead .host addr.toNat (!late.contains 0)).1.toNat ∧ OnlyChanges [.host, .dev, .time, .stalls, .out] s t ∧
      t.out.length = s.out.length + 1 ∧
      exec (.readSame tag addr k [] late) s = .next v ∧ v = State.send w (.usbMessage 1 0 tag addr k cs) ∧ cs.length = 4 * k.toNat ∧
      OnlyChanges [.host, .dev, .time, .stalls, .out] s v ∧ v.out.length = s.out.length + 1 ∧
      (addr = 0x14 → vget v.host.indAddr 0 = vget s.host.indAddr 0 + BitVec.ofNat 32 (4 * k.toNat)) ∧
      (k = 1 → u = (s.regRead .host addr.toNat (!late.contains 0)).2 ∧ w = u ∧ cs = bs)) ∧
  (∀ (s : State) (tag : BitVec 16) (addr x y : Word), s.endpoint2 = true → addr.toNat % 4 = 0 → ∃ t u,
    exec (.write tag addr 2 (natLE 4 x.toNat ++ natLE 4 y.toNat)) s = .next t ∧
    t = ((s.regWrite .host addr.toNat x).regWrite .host (addr + 4).toNat y).send (.usbMessage 1 0 tag addr 0 []) ∧
    exec (.writeSame tag addr 2 (natLE 4 x.toNat ++ natLE 4 y.toNat)) s = .next u ∧
    u = ((s.regWrite .host addr.toNat x).regWrite .host addr.toNat y).send (.usbMessage 1 0 tag addr 0 [])) ∧
  (∀ (s : State) (tag : BitVec 16) (addr : Word) (k : BitVec 16) (bs : List Byte), s.endpoint2 = true → addr.toNat % 4 = 0 →
    1 ≤ k.toNat → k.toNat ≤ 1016 → bs.length = 4 * k.toNat → ∃ t u v w, exec (.write tag addr k bs) s = .next t ∧
      t = State.send u (.usbMessage 1 0 tag addr 0 []) ∧ exec (.writeSame tag addr k bs) s = .next v ∧
      v = State.send w (.usbMessage 1 0 tag addr 0 [])) ∧
  (∀ (s : State) (tag : BitVec 16) (addr : Word) (k : BitVec 16) (bs : List Byte) (late : List Nat) (c : Instr), s.endpoint2 = true →
    ((c = .read tag addr k bs late ∨ c = .readSame tag addr k bs late) ∧
        (addr.toNat % 4 ≠ 0 ∨ k = 0 ∨ 1016 < k.toNat ∨ bs ≠ []) ∨
      (c = .write tag addr k bs ∨ c = .writeSame tag addr k bs) ∧
        (addr.toNat % 4 ≠ 0 ∨ k = 0 ∨ 1016 < k.toNat ∨ bs.length ≠ 4 * k.toNat)) →
    exec c s = .next (s.send (.usbMessage 1 2 tag addr 0 []))) ∧
  (∀ (s : State) (i n : BitVec 16), s.host.usbAttached = true →
    (∀ v : BitVec 16, ∃ t, exec (.usbStandardRequest 0x00 0x05 v i n) s = .next t ∧ t.host = { s.host with usbAddress := v.setWidth 7 } ∧
      t.out = s.out ++ [.usbControl true []] ∧ OnlyChanges [.host, .out] s t) ∧
    (∀ b : Bool, ∃ t, exec (.usbStandardRequest 0x00 0x09 (if b then 1 else 0) i n) s = .next t ∧
      t.host = { s.host with usbConfigured := b } ∧ t.out = s.out ++ [.usbControl true []] ∧ OnlyChanges [.host, .out] s t) ∧
    (∃ t, ∃ bs : List Byte, exec (.usbStandardRequest 0x80 0x06 0x0100 i n) s = .next t ∧ t.out = s.out ++ [.usbControl true (bs.take n.toNat)] ∧
      bs.length = 18 ∧ (bs.drop 8).take 4 = natLE 2 Config.idVendor.toNat ++ [0x40, 0x06] ∧ bs[12]? = some (BitVec.ofNat 8 steppingCode) ∧
      OnlyChanges [.out] s t) ∧
    (∃ t, ∃ bs : List Byte, exec (.usbStandardRequest 0x80 0x06 0x0200 i n) s = .next t ∧ t.out = s.out ++ [.usbControl true (bs.take n.toNat)] ∧
      (bs.drop 14).take 3 = [0xFF, 0x00, s.host.usbProtocol] ∧ bs[8]? = some 0 ∧ OnlyChanges [.out] s t) ∧
    (∃ t, exec (.usbStandardRequest 0x80 0x08 0 i 1) s = .next t ∧
      t.out = s.out ++ [.usbControl true [if s.host.usbConfigured then 1 else 0]] ∧ OnlyChanges [.out] s t) ∧
    (∃ t, exec (.usbResetCommand 0x40 0x01 0x0640 0 0) s = .next t ∧ t.wh.cause = 7 ∧ t.sec.ready = false ∧
      t.wh.faultResets = s.wh.faultResets ∧ t.qm = QueueManager.reset ∧ .usbControl true [] ∈ t.out) ∧
    (∀ (a b : Byte) (v : BitVec 16), (a ≠ 0x40 ∨ b ≠ 0x01 ∨ v ≠ 0x0640 ∨ i ≠ 0 ∨ n ≠ 0) →
      exec (.usbResetCommand a b v i n) s = .next (s.send (.usbControl false [])))) ∧
  (∀ s : State, (s.host.usbSpeed = 2 → ∃ t, exec .usbFallback s = .next t ∧ t.host = { s.host with usbSpeed := 1 } ∧
      OnlyChanges [.host] s t) ∧
    (s.host.usbSpeed ≠ 2 → exec .usbFallback s = .next s)) ∧
  (∀ s : State, s.endpoint2 = true → s.host.endpoint3 ≠ [] → ∃ t l, exec .eventEndpointPoll s = .next t ∧
    l ++ t.host.endpoint3 = s.host.endpoint3 ∧ l.length = min 32 s.host.endpoint3.length ∧ t.out = s.out ++ [.usbEvents l] ∧
    t.host = { s.host with endpoint3 := t.host.endpoint3 } ∧ OnlyChanges [.host, .out] s t) ∧
  (∀ s : State, s.host.evtRefused ≠ 0 → s.host.evtUp = true →
    (s.host.evtRefusedUs + 2 ≤ usOf s.now → (s.host.evtUs = usOf s.now → s.host.evtCount < 8) →
      (s.fab.trained = true ∨ s.host.ring.length < 64) → 1 ≤ s.host.ringSize → ∃ t e, exec .eventsDropped s = .next t ∧
        e ∈ t.host.ring ∧ e.type = 0x0F01 ∧ e.seq = s.host.evtSeq ∧ e.payload.take 4 = natLE 4 s.host.evtRefused ∧
        t.host.evtRefused = 0 ∧ t.host.evtSeq = s.host.evtSeq + 1 ∧ OnlyChanges [.host, .dev] s t) ∧
    (usOf s.now < s.host.evtRefusedUs + 2 → exec .eventsDropped s = .next s))

/-- BYPASS, IDCODE, SAMPLE_PRELOAD, EXTEST, EXTEST_PULSE, EXTEST_TRAIN, CLAMP and HIGHZ complete (R483): BYPASS, IDCODE and SAMPLE/PRELOAD work in every state; the instructions that drive pins take effect only while PWR_GOOD is
low, and act as BYPASS while it is high; functional operation is unchanged by all of them. The numbers of the instructions are the
model's (log entry 18). -/
def Obligations.TapInstructionsDriveOnlyWithoutPower : Prop :=
  (∀ s : State, ∃ t, exec .bypass s = .next t ∧ t.pins = { s.pins with tap := 0 } ∧ t.out = s.out ++ [.jtag 0 [false]] ∧
    OnlyChanges [.pins, .out] s t) ∧
  (∀ s : State, ∃ t, ∃ bs : List Bool, exec .idcode s = .next t ∧ t.pins = { s.pins with tap := 1 } ∧ t.out = s.out ++ [.jtag 1 bs] ∧ bs.length = 32 ∧
    bs[0]? = some true ∧ (∀ i, i < 11 → bs[1 + i]? = some (Config.jtagManufacturer.getLsbD i)) ∧
    (∀ i, i < 16 → bs[12 + i]? = some ((0x0640#16).getLsbD i)) ∧
    (∀ i, i < 4 → bs[28 + i]? = some ((if Config.steppingB0 then 2#4 else 1#4).getLsbD i)) ∧ OnlyChanges [.pins, .out] s t) ∧
  (∀ (s : State) (l b : List Bool), ∃ t, exec (.samplePreload l b) s = .next t ∧ t.pins = { s.pins with tap := 2, boundary := b } ∧
    t.out = s.out ++ [.jtag 2 l] ∧ OnlyChanges [.pins, .out] s t) ∧
  ∀ (s : State) (c : Instr) (k : Byte), (c, k) ∈ [(Instr.extest, 3#8), (.extestPulse, 4#8), (.extestTrain, 5#8), (.clamp, 6#8),
      (.highz, 7#8)] →
    (s.pins.pwrGood = true → ∃ t, exec c s = .next t ∧ exec .bypass s = .next t) ∧
    (s.pins.pwrGood = false → ∃ t, exec c s = .next t ∧ t.pins = { s.pins with tap := k } ∧
      t.out = s.out ++ [.jtag k (if c = .highz then [] else s.pins.boundary)] ∧ OnlyChanges [.pins, .out] s t)
end

