-- ==== Sys2Proof/Laws/Memory.lean ====
section
/-! SUPPORT. Vectors and byte memory: what a read gives after a write, and that every operation keeps the canonical form. -/
namespace Sys2Proof.Machine

/-! ### Vectors -/

@[simp] theorem vget_vset_same {α : Type} {n : Nat} (v : Vector α n) (i : Fin n) (x : α) : vget (vset v i x) i = x := by
  simp [vget, vset]

theorem vget_vset {α : Type} {n : Nat} (v : Vector α n) (i j : Fin n) (x : α) :
    vget (vset v i x) j = if i = j then x else vget v j := by
  simp [vget, vset, Vector.getElem_set, Fin.ext_iff]

@[simp] theorem vget_vset_ne {α : Type} {n : Nat} (v : Vector α n) {i j : Fin n} (x : α) (h : i ≠ j) :
    vget (vset v i x) j = vget v j := by simp [vget_vset, h]

@[simp] theorem vget_vmod_same {α : Type} {n : Nat} (v : Vector α n) (i : Fin n) (f : α → α) :
    vget (vmod v i f) i = f (vget v i) := by simp [vmod]

theorem vget_vmod {α : Type} {n : Nat} (v : Vector α n) (i j : Fin n) (f : α → α) :
    vget (vmod v i f) j = if i = j then f (vget v i) else vget v j := by simp [vmod, vget_vset]

@[simp] theorem vget_vmod_ne {α : Type} {n : Nat} (v : Vector α n) {i j : Fin n} (f : α → α) (h : i ≠ j) :
    vget (vmod v i f) j = vget v j := by simp [vget_vmod, h]

@[simp] theorem vget_replicate {α : Type} {n : Nat} (x : α) (i : Fin n) : vget (Vector.replicate n x) i = x := by
  simp [vget]

@[simp] theorem vget_vmap {α β : Type} {n : Nat} (f : α → β) (v : Vector α n) (i : Fin n) :
    vget (vmap f v) i = f (vget v i) := by simp [vget, vmap]

@[simp] theorem vget_vgen {α : Type} (n : Nat) (f : Fin n → α) (i : Fin n) : vget (vgen n f) i = f i := by
  simp [vget, vgen]

/-! ### Sparse stores -/

/-- Keys strictly rising from lo on, and no entry at the default: the canonical form. -/
def Sparse.ok {α : Type} (d : α) : Nat → Sparse α → Prop
  | _, [] => True
  | lo, (k, v) :: m => lo ≤ k ∧ v ≠ d ∧ Sparse.ok d (k + 1) m

theorem Sparse.ok_mono {α : Type} {d : α} {m : Sparse α} {lo lo' : Nat} (h : Sparse.ok d lo m) (hl : lo' ≤ lo) :
    Sparse.ok d lo' m := by
  cases m with
  | nil => trivial
  | cons c m => exact ⟨Nat.le_trans hl h.1, h.2⟩

theorem sget_of_lt {α : Type} {d : α} {m : Sparse α} {lo a : Nat} (h : Sparse.ok d lo m) (ha : a < lo) : sget d m a = d := by
  induction m generalizing lo with
  | nil => rfl
  | cons c m ih =>
    obtain ⟨k, v⟩ := c
    have hk : k ≠ a := by have := h.1; omega
    simp only [sget, hk, if_false]
    exact ih h.2.2 (by have := h.1; omega)

theorem sput_ok {α : Type} [DecidableEq α] {d : α} {m : Sparse α} {lo a : Nat} (v : α) (h : Sparse.ok d lo m) (ha : lo ≤ a) :
    Sparse.ok d lo (sput d m a v) := by
  induction m generalizing lo with
  | nil =>
    unfold sput
    split
    · trivial
    · exact ⟨ha, ‹_›, trivial⟩
  | cons c m ih =>
    obtain ⟨k, w⟩ := c
    unfold sput
    split
    · split
      · exact h
      · exact ⟨ha, ‹_›, by omega, h.2⟩
    · split
      · split
        · exact Sparse.ok_mono h.2.2 (by have := h.1; omega)
        · subst ‹a = k›; exact ⟨ha, ‹_›, h.2.2⟩
      · exact ⟨h.1, h.2.1, ih h.2.2 (by omega)⟩

theorem sget_sput {α : Type} [DecidableEq α] {d : α} {m : Sparse α} {lo : Nat} (h : Sparse.ok d lo m) (a b : Nat) (v : α) :
    sget d (sput d m a v) b = if a = b then v else sget d m b := by
  induction m generalizing lo with
  | nil =>
    unfold sput
    split
    · subst ‹v = d›; simp [sget]
    · simp only [sget]
  | cons c m ih =>
    obtain ⟨k, w⟩ := c
    have hm := h.2.2
    unfold sput
    split
    · have hak : a < k := ‹_›
      split
      · subst ‹v = d›
        by_cases hb : a = b
        · subst hb
          rw [if_pos rfl]
          exact sget_of_lt (lo := k) ⟨Nat.le_refl _, h.2⟩ hak
        · simp [hb]
      · simp only [sget]
    · split
      · subst ‹a = k›
        split
        · subst ‹v = d›
          by_cases hb : a = b
          · subst hb; simp [sget_of_lt hm (Nat.lt_succ_self a)]
          · simp [sget, hb]
        · by_cases hb : a = b <;> simp [sget, hb]
      · simp only [sget]
        rw [ih hm]
        by_cases hb : k = b
        · have : a ≠ b := by omega
          simp [hb, this]
        · simp [hb]

theorem wf_iff_ok (m : Mem) : Mem.wf m = true ↔ Sparse.ok 0 0 m := by
  suffices H : ∀ (m : Mem) (lo : Nat), Sparse.ok 0 lo m ↔
      (∀ c ∈ m, lo ≤ c.1) ∧ m.Pairwise (fun a b => a.1 < b.1) ∧ ∀ c ∈ m, c.2 ≠ 0 by
    rw [H m 0]; simp [Mem.wf]
  intro m
  induction m with
  | nil => intro lo; simp [Sparse.ok]
  | cons c m ih =>
    intro lo
    obtain ⟨k, v⟩ := c
    simp only [Sparse.ok, ih (k + 1), List.pairwise_cons, List.mem_cons]
    constructor
    · rintro ⟨h1, h2, h3, h4, h5⟩
      refine ⟨?_, ⟨fun a ha => h3 a ha, h4⟩, ?_⟩
      · rintro c (rfl | hc)
        · exact h1
        · have := h3 c hc; omega
      · rintro c (rfl | hc)
        · exact h2
        · exact h5 c hc
    · rintro ⟨h1, ⟨h2, h3⟩, h4⟩
      exact ⟨h1 _ (Or.inl rfl), h4 _ (Or.inl rfl), fun c hc => h2 c hc, h3, fun c hc => h4 c (Or.inr hc)⟩

/-! ### Byte memory -/

theorem memPut_wf {m : Mem} (a : Nat) (b : Byte) (h : Mem.wf m = true) : Mem.wf (memPut m a b) = true := by
  rw [wf_iff_ok] at *; exact sput_ok b h (Nat.zero_le _)

theorem memByte_memPut {m : Mem} (a c : Nat) (b : Byte) (h : Mem.wf m = true) :
    memByte (memPut m a b) c = if a = c then b else memByte m c := sget_sput ((wf_iff_ok m).1 h) a c b

theorem memWrite_wf {m : Mem} (a : Nat) (bs : List Byte) (h : Mem.wf m = true) : Mem.wf (memWrite m a bs) = true := by
  induction bs generalizing m a with
  | nil => exact h
  | cons b bs ih => exact ih _ (memPut_wf a b h)

/-- A byte after a write: the written one inside it, the old one outside it. -/
theorem memByte_memWrite {m : Mem} (a c : Nat) (bs : List Byte) (h : Mem.wf m = true) :
    memByte (memWrite m a bs) c = if a ≤ c ∧ c < a + bs.length then bs.getD (c - a) 0 else memByte m c := by
  induction bs generalizing m a with
  | nil => simp [memWrite]
  | cons b bs ih =>
    simp only [memWrite, ih (a + 1) (memPut_wf a b h), memByte_memPut a c b h, List.length_cons]
    by_cases h1 : a = c
    · subst h1; simp
    · by_cases h2 : a ≤ c ∧ c < a + (bs.length + 1)
      · have h3 : a + 1 ≤ c ∧ c < a + 1 + bs.length := by omega
        have h4 : c - a = (c - (a + 1)) + 1 := by omega
        rw [if_pos h3, if_pos h2, h4]; simp
      · have h3 : ¬ (a + 1 ≤ c ∧ c < a + 1 + bs.length) := by omega
        rw [if_neg h3, if_neg h1, if_neg h2]

/-- A store under one key leaves what every other key reads, whatever the list. -/
theorem sget_sput_ne {α : Type} [DecidableEq α] (d : α) (m : Sparse α) {a b : Nat} (v : α) (h : a ≠ b) :
    sget d (sput d m a v) b = sget d m b := by
  induction m with
  | nil => unfold sput; split <;> simp [sget, h]
  | cons c m ih =>
    obtain ⟨k, w⟩ := c
    unfold sput
    split
    · split <;> simp [sget, h]
    · split
      · subst ‹a = k›; split <;> simp [sget, h]
      · simp only [sget, ih]

theorem memByte_outside {m : Mem} {a c : Nat} {bs : List Byte} (hc : c < a ∨ a + bs.length ≤ c) :
    memByte (memWrite m a bs) c = memByte m c := by
  induction bs generalizing m a with
  | nil => rfl
  | cons b bs ih =>
    simp only [List.length_cons] at hc
    simp only [memWrite]
    rw [ih (by omega)]
    exact sget_sput_ne 0 m b (by omega)

/-- Bytes outside every one of a list of writes read as before. -/
theorem memByte_foldl_outside (b : Nat) (l : List (Nat × List Byte)) (m : Mem) {a : Nat}
    (h : ∀ p ∈ l, a < b + p.1 ∨ b + p.1 + p.2.length ≤ a) :
    memByte (l.foldl (fun m p => memWrite m (b + p.1) p.2) m) a = memByte m a := by
  induction l generalizing m with
  | nil => rfl
  | cons p l ih =>
    simp only [List.foldl_cons]
    rw [ih _ (fun q hq => h q (List.mem_cons_of_mem _ hq))]
    exact memByte_outside (h p List.mem_cons_self)

/-- Reading back what was written. -/
theorem memRead_memWrite {m : Mem} (a : Nat) (bs : List Byte) (h : Mem.wf m = true) :
    memRead (memWrite m a bs) a bs.length = bs := by
  apply List.ext_getElem
  · simp [memRead]
  · intro i h1 h2
    simp only [memRead, List.getElem_map, List.getElem_range, memByte_memWrite _ _ _ h]
    have : i < bs.length := h2
    rw [if_pos (by omega)]
    simp [this]

theorem memClear_wf {m : Mem} (lo hi : Nat) (h : Mem.wf m = true) : Mem.wf (memClear m lo hi) = true := by
  unfold Mem.wf at *
  rw [Bool.and_eq_true, decide_eq_true_eq, List.all_eq_true] at *
  exact ⟨h.1.filter _, fun c hc => h.2 c (List.mem_of_mem_filter hc)⟩

theorem memByte_memClear {m : Mem} (lo hi a : Nat) :
    memByte (memClear m lo hi) a = if lo ≤ a ∧ a < hi then 0 else memByte m a := by
  induction m with
  | nil => simp [memClear, memByte, sget]
  | cons c m ih =>
    obtain ⟨k, v⟩ := c
    simp only [memByte, memClear] at ih
    by_cases hk : lo ≤ k ∧ k < hi
    · simp only [memByte, memClear, List.filter_cons]
      simp only [hk.1, hk.2, decide_true, Bool.and_self, Bool.not_true, Bool.false_eq_true, if_false, sget]
      rw [ih]
      by_cases ha : lo ≤ a ∧ a < hi
      · simp [ha]
      · have : k ≠ a := by rintro rfl; exact ha hk
        simp [ha, this]
    · simp only [memByte, memClear, List.filter_cons]
      have : (!(decide (lo ≤ k) && decide (k < hi))) = true := by
        simp; omega
      rw [if_pos this]
      simp only [sget]
      rw [ih]
      by_cases ha : k = a
      · subst ha; simp [hk]
      · simp [ha]

end Sys2Proof.Machine
end

