-- ==== Sys2Proof/Laws/Engines.lean ====
section
/-! SUPPORT. The program engines: what one instruction of the vector engine or the sequencer does, given what its operation
gives. -/
namespace Sys2Proof.Laws
open Sys2Proof.Machine Sys2Proof.Safety

/-! ### Tiles and masks -/

theorem tget_tgen (f : Nat → Word) {i : Nat} (h : i < 256) : tget (tgen f) i = f i := by
  simp [tget, tgen, h]

theorem foldr_lt (g : Nat → Bool) (l : List Nat) : l.foldr (fun i n => bitNat (g i) + 2 * n) 0 < 2 ^ l.length := by
  induction l with
  | nil => simp
  | cons a l ih =>
    have hb : bitNat (g a) ≤ 1 := by unfold bitNat; split <;> omega
    simp only [List.foldr_cons, List.length_cons]
    have : 2 ^ (l.length + 1) = 2 * 2 ^ l.length := by rw [Nat.pow_succ]; omega
    omega

theorem foldr_testBit (g : Nat → Bool) (l : List Nat) (i : Nat) :
    (l.foldr (fun i n => bitNat (g i) + 2 * n) 0).testBit i = (match l[i]? with | some j => g j | none => false) := by
  induction l generalizing i with
  | nil => simp
  | cons a l ih =>
    have e : ∀ n, bitNat (g a) + 2 * n = 2 * n + (g a).toNat := by
      intro n; cases g a <;> simp [bitNat]; omega
    simp only [List.foldr_cons]
    rw [e]
    cases i with
    | zero => simp [Nat.testBit_zero]; cases g a <;> simp
    | succ i =>
      rw [Nat.testBit_succ]
      have : (2 * (l.foldr (fun i n => bitNat (g i) + 2 * n) 0) + (g a).toNat) / 2 =
          l.foldr (fun i n => bitNat (g i) + 2 * n) 0 := by cases g a <;> simp <;> omega
      rw [this, ih]; simp

theorem getLsbD_maskGen (g : Nat → Bool) {i : Nat} (h : i < 256) : (maskGen g).getLsbD i = g i := by
  unfold maskGen
  rw [BitVec.getLsbD_ofNat, foldr_testBit]
  simp [h]

@[simp] theorem tile_setTile_same (x : VecRegs) (n : Nat) (t : Tile) : (x.setTile n t).tile n = t := by
  simp [VecRegs.setTile, VecRegs.tile]

@[simp] theorem mask_setMask_same (x : VecRegs) (n : Nat) (m : BitVec 256) : (x.setMask n m).mask n = m := by
  simp [VecRegs.setMask, VecRegs.mask]

/-- Writing the active elements of VD changes that tile and no other register. -/
theorem put_tileOnly (f : VecInstr) (x : VecRegs) (g h : Nat → Word) (e : ∀ i, i < 256 → g i = h i) :
    TileOnly f x g (x.put f h) := by
  refine ⟨by simp [VecRegs.put, VecRegs.setTile, VecRegs.tile], fun i hi => ?_⟩
  simp only [VecRegs.put, tile_setTile_same, tget_tgen _ hi, e i hi]

theorem setMask_maskOnly (f : VecInstr) (x : VecRegs) (g : Nat → Bool) (m : BitVec 256)
    (e : ∀ i, i < 256 → m.getLsbD i = g i) : MaskOnly f x g (x.setMask f.vd m) := by
  refine ⟨by simp [VecRegs.setMask, VecRegs.mask], fun i hi => ?_⟩
  simp [e i hi]

/-! ### Frames of the updates that an instruction makes -/

@[simp] theorem stall_setVec (s : State) (n : StallId) (v : VecEngine) : (s.setVec n v).stall n = { s.stall n with vec := v } := by
  simp [State.setVec, State.modStall, State.stall]

theorem onlyChanges_of {ps : List Part} {s t : State} (hp : t.pending = s.pending) (h : ∀ p, p ∉ ps → p.same s t) :
    OnlyChanges ps s t := ⟨hp, h⟩

theorem ctr_add_zero (c : Ctr) : c.add 0 = c := by
  obtain ⟨l, h, k⟩ := c
  simp only [Ctr.add, satAdd]
  congr 1
  have := l.isLt
  simp [this]

/-- What the vector engine's instruction at the program index does, from what vecStep gives: it runs. -/
theorem vecRun_goes {s : State} {n : StallId} {r : Running} {x : VecRegs} {k : Nat} {f : VecInstr} {row : Nat} {z : VecResult}
    (h : VecAt s n r x k f) (hr : vecRow f = row)
    (hz : vecStep ⟨stallView s.mem n, progOf r.desc, (s.stall n).fnTable x.bank, fun i => (s.freeBits i).setWidth 32⟩ f x = z)
    (hs : z.stop = none) (hn : z.stores = []) :
    VecGoes (vecRun n row s) n r k z.regs ∧ (vecRun n row s).mem = s.mem ∧ OnlyChanges [.stalls, .free] s (vecRun n row s) ∧
      (¬(0x51 ≤ f.op ∧ f.op ≤ 0x53) → (vecRun n row s).free = s.free) ∧
      OtherStalls n s (vecRun n row s) ∧
      ((vecRun n row s).stall n).ctr = (((s.stall n).add .vecEmptyCount z.empties).add .quantBadScale z.bads).ctr := by
  have e : vecRun n row s =
      ((((if 0x51 ≤ f.op ∧ f.op ≤ 0x53 then s.drew 256 else s).applyStores n z.stores).stallAdd n .vecEmptyCount z.empties).stallAdd n
        .quantBadScale z.bads).setVec n (vecAfter { r with itemLog := r.itemLog ++ storeDigest (progOf r.desc).wrBase z.stores } k z.regs s.now) := by
    unfold vecRun
    simp only [h.engine, h.going, h.item, h.word, hr, hz, hs]
    simp
  rw [e, hn]
  have hr' : ({ r with itemLog := r.itemLog ++ storeDigest (progOf r.desc).wrBase [] } : Running) = r := by simp [storeDigest]
  rw [hr']
  refine ⟨?_, ?_, ?_, ?_, ?_, ?_⟩
  · by_cases hq : 0x51 ≤ f.op ∧ f.op ≤ 0x53
    all_goals
      simp only [hq, if_true, if_false, and_self, VecGoes, stall_setVec, vecAfter]
      split <;> split <;> first | rfl | omega
  · split <;> simp [State.setVec, State.modStall, State.stallAdd, State.applyStores, State.drew]
  · refine ⟨?_, fun p hp => ?_⟩
    · split <;> rfl
    · cases p <;> first | (exact absurd (by decide) hp) | (simp only [Part.same]; split <;> rfl)
  · intro h; rw [if_neg h]; rfl
  · intro m hm
    split <;> simp [State.setVec, State.modStall, State.stallAdd, State.applyStores, State.drew, State.stall, hm.symm]
  · split <;> simp [State.setVec, State.modStall, State.stallAdd, State.applyStores, State.drew, State.stall]

/-- The same where the instruction stops the command. -/
theorem vecRun_stops {s : State} {n : StallId} {r : Running} {x : VecRegs} {k : Nat} {f : VecInstr} {row : Nat} {z : VecResult} {o : Byte}
    (h : VecAt s n r x k f) (hr : vecRow f = row)
    (hz : vecStep ⟨stallView s.mem n, progOf r.desc, (s.stall n).fnTable x.bank, fun i => (s.freeBits i).setWidth 32⟩ f x = z)
    (hs : z.stop = some o) (ho : o ≠ oDone) :
    ∃ t r' y, vecRun n row s = t ∧ (t.stall n).vec = .running r' y ∧ r'.outcome = some o ∧
      r'.results = r.results.set k (some (o, 0)) ∧ t.mem = s.mem ∧ OtherStalls n s t := by
  have e : vecRun n row s =
      (if 0x51 ≤ f.op ∧ f.op ≤ 0x53 then s.drew 256 else s).setVec n (.running (r.fail k o) z.regs) := by
    unfold vecRun
    simp only [h.engine, h.going, h.item, h.word, hr, hz, hs]
    simp
  refine ⟨_, r.fail k o, z.regs, e, by simp, rfl, ?_, ?_, ?_⟩
  · simp [Running.fail, Running.endItem, ho]
  · split <;> rfl
  · intro m hm
    split <;> simp [State.setVec, State.modStall, State.drew, State.stall, hm.symm]

theorem vecRow_eq {f : VecInstr} {o : Nat} (h : f.op = o) (hn : o ≠ 0x1F) : vecRow f = o := by
  unfold vecRow; rw [if_neg (by omega)]; exact h

theorem vecDoes_of {c : Instr} {s : State} {n : StallId} {r : Running} {x : VecRegs} {k : Nat} {f : VecInstr} {row : Nat}
    {P : VecRegs → Prop} (z : VecResult)
    (h : VecAt s n r x k f) (hc : exec c s = .next (vecRun n row s)) (hr : vecRow f = row)
    (hz : vecStep ⟨stallView s.mem n, progOf r.desc, (s.stall n).fnTable x.bank, fun i => (s.freeBits i).setWidth 32⟩ f x = z)
    (hs : z.stop = none) (hn : z.stores = []) (hp : P z.regs) : VecDoes c s n r k P := by
  obtain ⟨a, b, d, -, e, -⟩ := vecRun_goes h hr hz hs hn
  exact ⟨_, z.regs, hc, hp, a, b, d, e⟩

theorem vecStops_of {c : Instr} {s : State} {n : StallId} {r : Running} {x : VecRegs} {k : Nat} {f : VecInstr} {row : Nat} {o : Byte}
    (z : VecResult)
    (h : VecAt s n r x k f) (hc : exec c s = .next (vecRun n row s)) (hr : vecRow f = row)
    (hz : vecStep ⟨stallView s.mem n, progOf r.desc, (s.stall n).fnTable x.bank, fun i => (s.freeBits i).setWidth 32⟩ f x = z)
    (hs : z.stop = some o) (ho : o ≠ oDone) : VecStops c s n r k o := by
  obtain ⟨t, r', y, ht, h2⟩ := vecRun_stops h hr hz hs ho
  subst ht
  exact ⟨_, r', y, hc, h2⟩

theorem word_ofInt_toInt (a : Word) : BitVec.ofInt 32 a.toInt = a := by simp
theorem fit32_of_range {w : Bool} {v : Int} (h1 : -2147483648 ≤ v) (h2 : v ≤ 2147483647) : fit32 w v = BitVec.ofInt 32 v := by
  unfold fit32 sat32 clampInt
  split
  · rfl
  · congr 1; omega

theorem toInt_lo (a : Word) : -2147483648 ≤ a.toInt := by have := BitVec.le_toInt a; simpa using this
theorem toInt_hi (a : Word) : a.toInt ≤ 2147483647 := by have := BitVec.toInt_lt (x := a); simp at this; omega
@[simp] theorem fit32_toInt (w : Bool) (a : Word) : fit32 w a.toInt = a := by
  rw [fit32_of_range (toInt_lo a) (toInt_hi a)]; simp

theorem ctr_add_bit (c : Ctr) (b : Bool) : c.add (bitNat b) = if b then c.add 1 else c := by
  cases b
  · exact ctr_add_zero c
  · rfl

@[simp] theorem stall_setSeq (s : State) (n : StallId) (v : SeqEngine) : (s.setSeq n v).stall n = { s.stall n with seq := v } := by
  simp [State.setSeq, State.modStall, State.stall]

/-- What the sequencer's instruction at the program index does, from what its operation gives: it runs. -/
theorem seqDoes_of {i : Instr} {s : State} {n : StallId} {r : Running} {x : SeqRegs} {k c : Nat} {u : Word} {w : Option Word}
    {op : Mem → ProgDesc → SeqRegs → SeqResult} (z : SeqResult) (h : SeqAt s n r x k c u)
    (hi : exec i s = .next (seqRun n c w op s)) (hw : w.any (fun t => t != u) = false)
    (hz : op (stallView s.mem n) (progOf r.desc) x = z) (hs : z.stop = none) :
    SeqDoes i s n r z.regs z.late z.stores z.sat := by
  obtain ⟨x0, held, he, hd, hx⟩ := h.engine
  have e : seqRun n c w op s =
      ((s.applyStores n z.stores).stallAdd n .seqSatCount (bitNat z.sat)).setSeq n
        (.running { r with itemLog := r.itemLog ++ storeDigest (progOf r.desc).wrBase z.stores } z.after) := by
    unfold seqRun
    simp only [he, h.going, h.item, hd, hw, ← hx, hz, hs]
    simp
  refine ⟨_, { r with itemLog := r.itemLog ++ storeDigest (progOf r.desc).wrBase z.stores }, hi, ?_, rfl, ?_, ⟨?_, ?_⟩, ?_, ?_⟩
  · rw [e]; simp [SeqResult.after]
  · rw [e]
    have : ((((s.applyStores n z.stores).stallAdd n .seqSatCount (bitNat z.sat)).setSeq n
        (.running { r with itemLog := r.itemLog ++ storeDigest (progOf r.desc).wrBase z.stores } z.after)).stall n).ctr =
        vmod (s.stall n).ctr StallCtr.seqSatCount.idx (·.add (bitNat z.sat)) := by
      simp [State.stallAdd, State.modStall, State.stall, Stall.add, State.applyStores, State.setSeq]
    rw [this, vget_vmod_same, ctr_add_bit]
  · rw [e]; rfl
  · intro a ha; rw [e]; exact memByte_foldl_outside _ _ _ ha
  · rw [e]; refine ⟨rfl, fun p hp => ?_⟩
    cases p <;> first | (exact absurd (by decide) hp) | rfl
  · intro m hm; rw [e]
    simp [State.setSeq, State.modStall, State.stallAdd, State.applyStores, State.stall, hm.symm]

/-- The same where the instruction stops the command. -/
theorem seqStops_of {i : Instr} {s : State} {n : StallId} {r : Running} {x : SeqRegs} {k c : Nat} {u : Word} {w : Option Word} {o : Byte}
    {op : Mem → ProgDesc → SeqRegs → SeqResult} (z : SeqResult) (h : SeqAt s n r x k c u)
    (hi : exec i s = .next (seqRun n c w op s)) (hw : w.any (fun t => t != u) = false)
    (hz : op (stallView s.mem n) (progOf r.desc) x = z) (hs : z.stop = some o) (ho : o ≠ oDone) : SeqStops i s n r k o := by
  obtain ⟨x0, held, he, hd, hx⟩ := h.engine
  have e : seqRun n c w op s = s.setSeq n (.running (r.fail k o) x.drain) := by
    unfold seqRun
    simp only [he, h.going, h.item, hd, hw, ← hx, hz, hs]
    simp
  refine ⟨_, r.fail k o, x.drain, hi, ?_, rfl, ?_, ?_, ?_⟩
  · rw [e]; simp
  · simp [Running.fail, Running.endItem, ho]
  · rw [e]; rfl
  · intro m hm; rw [e]; simp [State.setSeq, State.modStall, State.stall, hm.symm]

end Sys2Proof.Laws
end

