-- ==== Sys2Proof/Laws/Queue.lean ====
section
/-! SUPPORT. The queue manager's operations: what the settling of eligibility leaves alone, and what retiring an entry does. -/
namespace Sys2Proof.Machine

/-! ### Reading back a queue -/

@[simp] theorem queue_modQueue_same (s : State) (q : QueueId) (f : Queue → Queue) : (s.modQueue q f).queue q = f (s.queue q) := by
  simp [State.queue, State.modQueue]

theorem queue_modQueue (s : State) (q p : QueueId) (f : Queue → Queue) :
    (s.modQueue q f).queue p = if q = p then f (s.queue q) else s.queue p := by
  simp [State.queue, State.modQueue, vget_vmod]

@[simp] theorem queue_modQueue_ne (s : State) {q p : QueueId} (f : Queue → Queue) (h : q ≠ p) :
    (s.modQueue q f).queue p = s.queue p := by simp [queue_modQueue, h]

/-- An entry without the instant at which it became eligible. -/
def entryCore (e : QEntry) : QEntry := { e with eligibleAt := none }

/-- A queue without its virtual time and those instants. -/
def queueCore (x : Queue) : Queue := { x with vt := 0, entries := x.entries.map entryCore }

theorem find_core (l : List QEntry) (i : Fin 4096) :
    (l.find? fun e => e.idx == i).map entryCore = (l.map entryCore).find? fun e => e.idx == i := by
  induction l with
  | nil => rfl
  | cons e l ih =>
    simp only [List.find?_cons, List.map_cons]
    have : (entryCore e).idx = e.idx := rfl
    rw [this]
    cases e.idx == i <;> simp [ih]

theorem entry_core {x y : Queue} (h : queueCore x = queueCore y) (i : Fin 4096) :
    (x.entry i).map entryCore = (y.entry i).map entryCore := by
  have : x.entries.map entryCore = y.entries.map entryCore := congrArg Queue.entries h
  simp only [Queue.entry, find_core, this]

theorem modEntry_core (s : State) (q p : QueueId) (i : Fin 4096) (v : Option Int) :
    queueCore ((s.modEntry q i fun e => { e with eligibleAt := v }).queue p) = queueCore (s.queue p) := by
  simp only [State.modEntry, queue_modQueue]
  split
  · subst ‹q = p›
    simp only [queueCore, List.map_map]
    congr 1
    apply List.map_congr_left
    intro e _
    simp only [Function.comp, entryCore]
    split <;> rfl
  · rfl

theorem settleQueue_core (s0 s : State) (q p : QueueId) :
    queueCore ((State.settleQueue s0 s q).queue p) = queueCore (s.queue p) := by
  unfold State.settleQueue
  split
  · rfl
  · rename_i e he
    have h1 : queueCore ((if e.eligibleAt = none then s.modEntry q e.idx fun e => { e with eligibleAt := some s.now } else s).queue p) =
        queueCore (s.queue p) := by
      split
      · exact modEntry_core ..
      · rfl
    simp only
    split
    · exact h1
    · split
      · rw [queue_modQueue]
        split
        · subst ‹q = p›; exact h1
        · exact h1
      · exact h1

/-- Settling eligibility changes nothing of a queue but virtual times and instants of becoming eligible. -/
theorem settle_core (s0 s : State) (p : QueueId) : queueCore ((State.settle s0 s).queue p) = queueCore (s.queue p) := by
  unfold State.settle
  generalize List.finRange 32 = l
  induction l generalizing s with
  | nil => rfl
  | cons q l ih => simp only [List.foldl_cons, ih, settleQueue_core]

theorem settle_entry (s0 s : State) (q : QueueId) (i : Fin 4096) :
    ((State.settle s0 s).entry q i).map entryCore = (s.entry q i).map entryCore := entry_core (settle_core s0 s q) i

/-- The entry after settling, where there is one: the same but for its instant of becoming eligible. -/
theorem settle_entry_some {s0 s : State} {q : QueueId} {i : Fin 4096} {e : QEntry} (h : s.entry q i = some e) :
    ∃ v, (State.settle s0 s).entry q i = some { e with eligibleAt := v } := by
  have h1 := settle_entry s0 s q i
  rw [h] at h1
  cases h2 : (State.settle s0 s).entry q i with
  | none => rw [h2] at h1; cases h1
  | some e' =>
    rw [h2] at h1
    simp only [Option.map_some, Option.some.injEq] at h1
    refine ⟨e'.eligibleAt, ?_⟩
    have h3 : { entryCore e' with eligibleAt := e'.eligibleAt } = { entryCore e with eligibleAt := e'.eligibleAt } := by rw [h1]
    exact congrArg some h3

/-- The state with other command queues. -/
def State.withQueues (s : State) (v : Vector Queue 32) : State := { s with qm := { s.qm with queues := v } }

theorem modQueue_withQueues (s : State) (q : QueueId) (f : Queue → Queue) :
    ∃ v, s.modQueue q f = s.withQueues v := ⟨_, rfl⟩

theorem settleQueue_only (s0 s : State) (q : QueueId) : ∃ v, State.settleQueue s0 s q = s.withQueues v := by
  unfold State.settleQueue
  split
  · exact ⟨s.qm.queues, rfl⟩
  · rename_i e he
    have h1 : ∃ v, (if e.eligibleAt = none then s.modEntry q e.idx fun e => { e with eligibleAt := some s.now } else s) =
        s.withQueues v := by
      split
      · exact ⟨_, rfl⟩
      · exact ⟨s.qm.queues, rfl⟩
    obtain ⟨v, hv⟩ := h1
    rw [hv]
    simp only
    split
    · exact ⟨_, rfl⟩
    · split
      · exact ⟨_, rfl⟩
      · exact ⟨_, rfl⟩

/-- Settling changes nothing but the command queues. -/
theorem settle_only (s0 s : State) : ∃ v, State.settle s0 s = s.withQueues v := by
  unfold State.settle
  generalize List.finRange 32 = l
  induction l generalizing s with
  | nil => exact ⟨s.qm.queues, rfl⟩
  | cons q l ih =>
    simp only [List.foldl_cons]
    obtain ⟨v, hv⟩ := settleQueue_only s0 s q
    obtain ⟨w, hw⟩ := ih (State.settleQueue s0 s q)
    refine ⟨w, ?_⟩
    rw [hw, hv]
    rfl

/-- The entry at an index after a change of it. -/
theorem entry_modEntry {s : State} {q : QueueId} {i : Fin 4096} {e : QEntry} (f : QEntry → QEntry) (hf : ∀ e, (f e).idx = e.idx)
    (h : s.entry q i = some e) : (s.modEntry q i f).entry q i = some (f e) := by
  simp only [State.entry, State.modEntry, queue_modQueue_same, Queue.entry] at *
  generalize (s.queue q).entries = l at h ⊢
  induction l with
  | nil => simp at h
  | cons a l ih =>
    simp only [List.find?_cons, List.map_cons] at *
    by_cases ha : a.idx = i
    · simp [ha, hf] at *; exact congrArg f h
    · simp only [if_neg ha]
      have hb : (a.idx == i) = false := by simpa using ha
      simp only [hb] at *
      exact ih h

end Sys2Proof.Machine
end

