-- ==== Sys2Proof/Laws/State.lean ====
section
/-! SUPPORT. What each field of the state is after each update: its own field changed, every other as before. -/
namespace Sys2Proof.Machine

/-! ### devAdd -/

@[simp] theorem devAdd_mem (s : State) (c : DevCtr) (k : Nat) : (s.devAdd c k).mem = s.mem := rfl
@[simp] theorem devAdd_dev (s : State) (c : DevCtr) (k : Nat) : (s.devAdd c k).dev = vmod s.dev c.idx (·.add k) := rfl
@[simp] theorem devAdd_stalls (s : State) (c : DevCtr) (k : Nat) : (s.devAdd c k).stalls = s.stalls := rfl
@[simp] theorem devAdd_qm (s : State) (c : DevCtr) (k : Nat) : (s.devAdd c k).qm = s.qm := rfl
@[simp] theorem devAdd_fab (s : State) (c : DevCtr) (k : Nat) : (s.devAdd c k).fab = s.fab := rfl
@[simp] theorem devAdd_host (s : State) (c : DevCtr) (k : Nat) : (s.devAdd c k).host = s.host := rfl
@[simp] theorem devAdd_time (s : State) (c : DevCtr) (k : Nat) : (s.devAdd c k).time = s.time := rfl
@[simp] theorem devAdd_pwr (s : State) (c : DevCtr) (k : Nat) : (s.devAdd c k).pwr = s.pwr := rfl
@[simp] theorem devAdd_cells (s : State) (c : DevCtr) (k : Nat) : (s.devAdd c k).cells = s.cells := rfl
@[simp] theorem devAdd_eth (s : State) (c : DevCtr) (k : Nat) : (s.devAdd c k).eth = s.eth := rfl
@[simp] theorem devAdd_wh (s : State) (c : DevCtr) (k : Nat) : (s.devAdd c k).wh = s.wh := rfl
@[simp] theorem devAdd_sec (s : State) (c : DevCtr) (k : Nat) : (s.devAdd c k).sec = s.sec := rfl
@[simp] theorem devAdd_pins (s : State) (c : DevCtr) (k : Nat) : (s.devAdd c k).pins = s.pins := rfl
@[simp] theorem devAdd_harq (s : State) (c : DevCtr) (k : Nat) : (s.devAdd c k).harq = s.harq := rfl
@[simp] theorem devAdd_hist (s : State) (c : DevCtr) (k : Nat) : (s.devAdd c k).hist = s.hist := rfl
@[simp] theorem devAdd_join (s : State) (c : DevCtr) (k : Nat) : (s.devAdd c k).join = s.join := rfl
@[simp] theorem devAdd_qps (s : State) (c : DevCtr) (k : Nat) : (s.devAdd c k).qps = s.qps := rfl
@[simp] theorem devAdd_out (s : State) (c : DevCtr) (k : Nat) : (s.devAdd c k).out = s.out := rfl
@[simp] theorem devAdd_free (s : State) (c : DevCtr) (k : Nat) : (s.devAdd c k).free = s.free := rfl
@[simp] theorem devAdd_pending (s : State) (c : DevCtr) (k : Nat) : (s.devAdd c k).pending = s.pending := rfl

/-! ### devInc -/

@[simp] theorem devInc_mem (s : State) (c : DevCtr) : (s.devInc c).mem = s.mem := rfl
@[simp] theorem devInc_dev (s : State) (c : DevCtr) : (s.devInc c).dev = vmod s.dev c.idx (·.add 1) := rfl
@[simp] theorem devInc_stalls (s : State) (c : DevCtr) : (s.devInc c).stalls = s.stalls := rfl
@[simp] theorem devInc_qm (s : State) (c : DevCtr) : (s.devInc c).qm = s.qm := rfl
@[simp] theorem devInc_fab (s : State) (c : DevCtr) : (s.devInc c).fab = s.fab := rfl
@[simp] theorem devInc_host (s : State) (c : DevCtr) : (s.devInc c).host = s.host := rfl
@[simp] theorem devInc_time (s : State) (c : DevCtr) : (s.devInc c).time = s.time := rfl
@[simp] theorem devInc_pwr (s : State) (c : DevCtr) : (s.devInc c).pwr = s.pwr := rfl
@[simp] theorem devInc_cells (s : State) (c : DevCtr) : (s.devInc c).cells = s.cells := rfl
@[simp] theorem devInc_eth (s : State) (c : DevCtr) : (s.devInc c).eth = s.eth := rfl
@[simp] theorem devInc_wh (s : State) (c : DevCtr) : (s.devInc c).wh = s.wh := rfl
@[simp] theorem devInc_sec (s : State) (c : DevCtr) : (s.devInc c).sec = s.sec := rfl
@[simp] theorem devInc_pins (s : State) (c : DevCtr) : (s.devInc c).pins = s.pins := rfl
@[simp] theorem devInc_harq (s : State) (c : DevCtr) : (s.devInc c).harq = s.harq := rfl
@[simp] theorem devInc_hist (s : State) (c : DevCtr) : (s.devInc c).hist = s.hist := rfl
@[simp] theorem devInc_join (s : State) (c : DevCtr) : (s.devInc c).join = s.join := rfl
@[simp] theorem devInc_qps (s : State) (c : DevCtr) : (s.devInc c).qps = s.qps := rfl
@[simp] theorem devInc_out (s : State) (c : DevCtr) : (s.devInc c).out = s.out := rfl
@[simp] theorem devInc_free (s : State) (c : DevCtr) : (s.devInc c).free = s.free := rfl
@[simp] theorem devInc_pending (s : State) (c : DevCtr) : (s.devInc c).pending = s.pending := rfl

/-! ### modStall -/

@[simp] theorem modStall_mem (s : State) (n : StallId) (f : Stall → Stall) : (s.modStall n f).mem = s.mem := rfl
@[simp] theorem modStall_dev (s : State) (n : StallId) (f : Stall → Stall) : (s.modStall n f).dev = s.dev := rfl
@[simp] theorem modStall_stalls (s : State) (n : StallId) (f : Stall → Stall) : (s.modStall n f).stalls = vmod s.stalls n f := rfl
@[simp] theorem modStall_qm (s : State) (n : StallId) (f : Stall → Stall) : (s.modStall n f).qm = s.qm := rfl
@[simp] theorem modStall_fab (s : State) (n : StallId) (f : Stall → Stall) : (s.modStall n f).fab = s.fab := rfl
@[simp] theorem modStall_host (s : State) (n : StallId) (f : Stall → Stall) : (s.modStall n f).host = s.host := rfl
@[simp] theorem modStall_time (s : State) (n : StallId) (f : Stall → Stall) : (s.modStall n f).time = s.time := rfl
@[simp] theorem modStall_pwr (s : State) (n : StallId) (f : Stall → Stall) : (s.modStall n f).pwr = s.pwr := rfl
@[simp] theorem modStall_cells (s : State) (n : StallId) (f : Stall → Stall) : (s.modStall n f).cells = s.cells := rfl
@[simp] theorem modStall_eth (s : State) (n : StallId) (f : Stall → Stall) : (s.modStall n f).eth = s.eth := rfl
@[simp] theorem modStall_wh (s : State) (n : StallId) (f : Stall → Stall) : (s.modStall n f).wh = s.wh := rfl
@[simp] theorem modStall_sec (s : State) (n : StallId) (f : Stall → Stall) : (s.modStall n f).sec = s.sec := rfl
@[simp] theorem modStall_pins (s : State) (n : StallId) (f : Stall → Stall) : (s.modStall n f).pins = s.pins := rfl
@[simp] theorem modStall_harq (s : State) (n : StallId) (f : Stall → Stall) : (s.modStall n f).harq = s.harq := rfl
@[simp] theorem modStall_hist (s : State) (n : StallId) (f : Stall → Stall) : (s.modStall n f).hist = s.hist := rfl
@[simp] theorem modStall_join (s : State) (n : StallId) (f : Stall → Stall) : (s.modStall n f).join = s.join := rfl
@[simp] theorem modStall_qps (s : State) (n : StallId) (f : Stall → Stall) : (s.modStall n f).qps = s.qps := rfl
@[simp] theorem modStall_out (s : State) (n : StallId) (f : Stall → Stall) : (s.modStall n f).out = s.out := rfl
@[simp] theorem modStall_free (s : State) (n : StallId) (f : Stall → Stall) : (s.modStall n f).free = s.free := rfl
@[simp] theorem modStall_pending (s : State) (n : StallId) (f : Stall → Stall) : (s.modStall n f).pending = s.pending := rfl

/-! ### stallAdd -/

@[simp] theorem stallAdd_mem (s : State) (n : StallId) (c : StallCtr) (k : Nat) : (s.stallAdd n c k).mem = s.mem := rfl
@[simp] theorem stallAdd_dev (s : State) (n : StallId) (c : StallCtr) (k : Nat) : (s.stallAdd n c k).dev = s.dev := rfl
@[simp] theorem stallAdd_stalls (s : State) (n : StallId) (c : StallCtr) (k : Nat) : (s.stallAdd n c k).stalls = vmod s.stalls n (·.add c k) := rfl
@[simp] theorem stallAdd_qm (s : State) (n : StallId) (c : StallCtr) (k : Nat) : (s.stallAdd n c k).qm = s.qm := rfl
@[simp] theorem stallAdd_fab (s : State) (n : StallId) (c : StallCtr) (k : Nat) : (s.stallAdd n c k).fab = s.fab := rfl
@[simp] theorem stallAdd_host (s : State) (n : StallId) (c : StallCtr) (k : Nat) : (s.stallAdd n c k).host = s.host := rfl
@[simp] theorem stallAdd_time (s : State) (n : StallId) (c : StallCtr) (k : Nat) : (s.stallAdd n c k).time = s.time := rfl
@[simp] theorem stallAdd_pwr (s : State) (n : StallId) (c : StallCtr) (k : Nat) : (s.stallAdd n c k).pwr = s.pwr := rfl
@[simp] theorem stallAdd_cells (s : State) (n : StallId) (c : StallCtr) (k : Nat) : (s.stallAdd n c k).cells = s.cells := rfl
@[simp] theorem stallAdd_eth (s : State) (n : StallId) (c : StallCtr) (k : Nat) : (s.stallAdd n c k).eth = s.eth := rfl
@[simp] theorem stallAdd_wh (s : State) (n : StallId) (c : StallCtr) (k : Nat) : (s.stallAdd n c k).wh = s.wh := rfl
@[simp] theorem stallAdd_sec (s : State) (n : StallId) (c : StallCtr) (k : Nat) : (s.stallAdd n c k).sec = s.sec := rfl
@[simp] theorem stallAdd_pins (s : State) (n : StallId) (c : StallCtr) (k : Nat) : (s.stallAdd n c k).pins = s.pins := rfl
@[simp] theorem stallAdd_harq (s : State) (n : StallId) (c : StallCtr) (k : Nat) : (s.stallAdd n c k).harq = s.harq := rfl
@[simp] theorem stallAdd_hist (s : State) (n : StallId) (c : StallCtr) (k : Nat) : (s.stallAdd n c k).hist = s.hist := rfl
@[simp] theorem stallAdd_join (s : State) (n : StallId) (c : StallCtr) (k : Nat) : (s.stallAdd n c k).join = s.join := rfl
@[simp] theorem stallAdd_qps (s : State) (n : StallId) (c : StallCtr) (k : Nat) : (s.stallAdd n c k).qps = s.qps := rfl
@[simp] theorem stallAdd_out (s : State) (n : StallId) (c : StallCtr) (k : Nat) : (s.stallAdd n c k).out = s.out := rfl
@[simp] theorem stallAdd_free (s : State) (n : StallId) (c : StallCtr) (k : Nat) : (s.stallAdd n c k).free = s.free := rfl
@[simp] theorem stallAdd_pending (s : State) (n : StallId) (c : StallCtr) (k : Nat) : (s.stallAdd n c k).pending = s.pending := rfl

/-! ### setMatrix -/

@[simp] theorem setMatrix_mem (s : State) (n : StallId) (m : Matrix) : (s.setMatrix n m).mem = s.mem := rfl
@[simp] theorem setMatrix_dev (s : State) (n : StallId) (m : Matrix) : (s.setMatrix n m).dev = s.dev := rfl
@[simp] theorem setMatrix_qm (s : State) (n : StallId) (m : Matrix) : (s.setMatrix n m).qm = s.qm := rfl
@[simp] theorem setMatrix_fab (s : State) (n : StallId) (m : Matrix) : (s.setMatrix n m).fab = s.fab := rfl
@[simp] theorem setMatrix_host (s : State) (n : StallId) (m : Matrix) : (s.setMatrix n m).host = s.host := rfl
@[simp] theorem setMatrix_time (s : State) (n : StallId) (m : Matrix) : (s.setMatrix n m).time = s.time := rfl
@[simp] theorem setMatrix_pwr (s : State) (n : StallId) (m : Matrix) : (s.setMatrix n m).pwr = s.pwr := rfl
@[simp] theorem setMatrix_cells (s : State) (n : StallId) (m : Matrix) : (s.setMatrix n m).cells = s.cells := rfl
@[simp] theorem setMatrix_eth (s : State) (n : StallId) (m : Matrix) : (s.setMatrix n m).eth = s.eth := rfl
@[simp] theorem setMatrix_wh (s : State) (n : StallId) (m : Matrix) : (s.setMatrix n m).wh = s.wh := rfl
@[simp] theorem setMatrix_sec (s : State) (n : StallId) (m : Matrix) : (s.setMatrix n m).sec = s.sec := rfl
@[simp] theorem setMatrix_pins (s : State) (n : StallId) (m : Matrix) : (s.setMatrix n m).pins = s.pins := rfl
@[simp] theorem setMatrix_harq (s : State) (n : StallId) (m : Matrix) : (s.setMatrix n m).harq = s.harq := rfl
@[simp] theorem setMatrix_hist (s : State) (n : StallId) (m : Matrix) : (s.setMatrix n m).hist = s.hist := rfl
@[simp] theorem setMatrix_join (s : State) (n : StallId) (m : Matrix) : (s.setMatrix n m).join = s.join := rfl
@[simp] theorem setMatrix_qps (s : State) (n : StallId) (m : Matrix) : (s.setMatrix n m).qps = s.qps := rfl
@[simp] theorem setMatrix_out (s : State) (n : StallId) (m : Matrix) : (s.setMatrix n m).out = s.out := rfl
@[simp] theorem setMatrix_free (s : State) (n : StallId) (m : Matrix) : (s.setMatrix n m).free = s.free := rfl
@[simp] theorem setMatrix_pending (s : State) (n : StallId) (m : Matrix) : (s.setMatrix n m).pending = s.pending := rfl

/-! ### setVec -/

@[simp] theorem setVec_mem (s : State) (n : StallId) (v : VecEngine) : (s.setVec n v).mem = s.mem := rfl
@[simp] theorem setVec_dev (s : State) (n : StallId) (v : VecEngine) : (s.setVec n v).dev = s.dev := rfl
@[simp] theorem setVec_qm (s : State) (n : StallId) (v : VecEngine) : (s.setVec n v).qm = s.qm := rfl
@[simp] theorem setVec_fab (s : State) (n : StallId) (v : VecEngine) : (s.setVec n v).fab = s.fab := rfl
@[simp] theorem setVec_host (s : State) (n : StallId) (v : VecEngine) : (s.setVec n v).host = s.host := rfl
@[simp] theorem setVec_time (s : State) (n : StallId) (v : VecEngine) : (s.setVec n v).time = s.time := rfl
@[simp] theorem setVec_pwr (s : State) (n : StallId) (v : VecEngine) : (s.setVec n v).pwr = s.pwr := rfl
@[simp] theorem setVec_cells (s : State) (n : StallId) (v : VecEngine) : (s.setVec n v).cells = s.cells := rfl
@[simp] theorem setVec_eth (s : State) (n : StallId) (v : VecEngine) : (s.setVec n v).eth = s.eth := rfl
@[simp] theorem setVec_wh (s : State) (n : StallId) (v : VecEngine) : (s.setVec n v).wh = s.wh := rfl
@[simp] theorem setVec_sec (s : State) (n : StallId) (v : VecEngine) : (s.setVec n v).sec = s.sec := rfl
@[simp] theorem setVec_pins (s : State) (n : StallId) (v : VecEngine) : (s.setVec n v).pins = s.pins := rfl
@[simp] theorem setVec_harq (s : State) (n : StallId) (v : VecEngine) : (s.setVec n v).harq = s.harq := rfl
@[simp] theorem setVec_hist (s : State) (n : StallId) (v : VecEngine) : (s.setVec n v).hist = s.hist := rfl
@[simp] theorem setVec_join (s : State) (n : StallId) (v : VecEngine) : (s.setVec n v).join = s.join := rfl
@[simp] theorem setVec_qps (s : State) (n : StallId) (v : VecEngine) : (s.setVec n v).qps = s.qps := rfl
@[simp] theorem setVec_out (s : State) (n : StallId) (v : VecEngine) : (s.setVec n v).out = s.out := rfl
@[simp] theorem setVec_free (s : State) (n : StallId) (v : VecEngine) : (s.setVec n v).free = s.free := rfl
@[simp] theorem setVec_pending (s : State) (n : StallId) (v : VecEngine) : (s.setVec n v).pending = s.pending := rfl

/-! ### setSeq -/

@[simp] theorem setSeq_mem (s : State) (n : StallId) (v : SeqEngine) : (s.setSeq n v).mem = s.mem := rfl
@[simp] theorem setSeq_dev (s : State) (n : StallId) (v : SeqEngine) : (s.setSeq n v).dev = s.dev := rfl
@[simp] theorem setSeq_qm (s : State) (n : StallId) (v : SeqEngine) : (s.setSeq n v).qm = s.qm := rfl
@[simp] theorem setSeq_fab (s : State) (n : StallId) (v : SeqEngine) : (s.setSeq n v).fab = s.fab := rfl
@[simp] theorem setSeq_host (s : State) (n : StallId) (v : SeqEngine) : (s.setSeq n v).host = s.host := rfl
@[simp] theorem setSeq_time (s : State) (n : StallId) (v : SeqEngine) : (s.setSeq n v).time = s.time := rfl
@[simp] theorem setSeq_pwr (s : State) (n : StallId) (v : SeqEngine) : (s.setSeq n v).pwr = s.pwr := rfl
@[simp] theorem setSeq_cells (s : State) (n : StallId) (v : SeqEngine) : (s.setSeq n v).cells = s.cells := rfl
@[simp] theorem setSeq_eth (s : State) (n : StallId) (v : SeqEngine) : (s.setSeq n v).eth = s.eth := rfl
@[simp] theorem setSeq_wh (s : State) (n : StallId) (v : SeqEngine) : (s.setSeq n v).wh = s.wh := rfl
@[simp] theorem setSeq_sec (s : State) (n : StallId) (v : SeqEngine) : (s.setSeq n v).sec = s.sec := rfl
@[simp] theorem setSeq_pins (s : State) (n : StallId) (v : SeqEngine) : (s.setSeq n v).pins = s.pins := rfl
@[simp] theorem setSeq_harq (s : State) (n : StallId) (v : SeqEngine) : (s.setSeq n v).harq = s.harq := rfl
@[simp] theorem setSeq_hist (s : State) (n : StallId) (v : SeqEngine) : (s.setSeq n v).hist = s.hist := rfl
@[simp] theorem setSeq_join (s : State) (n : StallId) (v : SeqEngine) : (s.setSeq n v).join = s.join := rfl
@[simp] theorem setSeq_qps (s : State) (n : StallId) (v : SeqEngine) : (s.setSeq n v).qps = s.qps := rfl
@[simp] theorem setSeq_out (s : State) (n : StallId) (v : SeqEngine) : (s.setSeq n v).out = s.out := rfl
@[simp] theorem setSeq_free (s : State) (n : StallId) (v : SeqEngine) : (s.setSeq n v).free = s.free := rfl
@[simp] theorem setSeq_pending (s : State) (n : StallId) (v : SeqEngine) : (s.setSeq n v).pending = s.pending := rfl

/-! ### modStream -/

@[simp] theorem modStream_mem (s : State) (n : StallId) (t : StreamId) (f : Stream → Stream) : (s.modStream n t f).mem = s.mem := rfl
@[simp] theorem modStream_dev (s : State) (n : StallId) (t : StreamId) (f : Stream → Stream) : (s.modStream n t f).dev = s.dev := rfl
@[simp] theorem modStream_qm (s : State) (n : StallId) (t : StreamId) (f : Stream → Stream) : (s.modStream n t f).qm = s.qm := rfl
@[simp] theorem modStream_fab (s : State) (n : StallId) (t : StreamId) (f : Stream → Stream) : (s.modStream n t f).fab = s.fab := rfl
@[simp] theorem modStream_host (s : State) (n : StallId) (t : StreamId) (f : Stream → Stream) : (s.modStream n t f).host = s.host := rfl
@[simp] theorem modStream_time (s : State) (n : StallId) (t : StreamId) (f : Stream → Stream) : (s.modStream n t f).time = s.time := rfl
@[simp] theorem modStream_pwr (s : State) (n : StallId) (t : StreamId) (f : Stream → Stream) : (s.modStream n t f).pwr = s.pwr := rfl
@[simp] theorem modStream_cells (s : State) (n : StallId) (t : StreamId) (f : Stream → Stream) : (s.modStream n t f).cells = s.cells := rfl
@[simp] theorem modStream_eth (s : State) (n : StallId) (t : StreamId) (f : Stream → Stream) : (s.modStream n t f).eth = s.eth := rfl
@[simp] theorem modStream_wh (s : State) (n : StallId) (t : StreamId) (f : Stream → Stream) : (s.modStream n t f).wh = s.wh := rfl
@[simp] theorem modStream_sec (s : State) (n : StallId) (t : StreamId) (f : Stream → Stream) : (s.modStream n t f).sec = s.sec := rfl
@[simp] theorem modStream_pins (s : State) (n : StallId) (t : StreamId) (f : Stream → Stream) : (s.modStream n t f).pins = s.pins := rfl
@[simp] theorem modStream_harq (s : State) (n : StallId) (t : StreamId) (f : Stream → Stream) : (s.modStream n t f).harq = s.harq := rfl
@[simp] theorem modStream_hist (s : State) (n : StallId) (t : StreamId) (f : Stream → Stream) : (s.modStream n t f).hist = s.hist := rfl
@[simp] theorem modStream_join (s : State) (n : StallId) (t : StreamId) (f : Stream → Stream) : (s.modStream n t f).join = s.join := rfl
@[simp] theorem modStream_qps (s : State) (n : StallId) (t : StreamId) (f : Stream → Stream) : (s.modStream n t f).qps = s.qps := rfl
@[simp] theorem modStream_out (s : State) (n : StallId) (t : StreamId) (f : Stream → Stream) : (s.modStream n t f).out = s.out := rfl
@[simp] theorem modStream_free (s : State) (n : StallId) (t : StreamId) (f : Stream → Stream) : (s.modStream n t f).free = s.free := rfl
@[simp] theorem modStream_pending (s : State) (n : StallId) (t : StreamId) (f : Stream → Stream) : (s.modStream n t f).pending = s.pending := rfl

/-! ### modCell -/

@[simp] theorem modCell_mem (s : State) (c : CellId) (f : Cell → Cell) : (s.modCell c f).mem = s.mem := rfl
@[simp] theorem modCell_dev (s : State) (c : CellId) (f : Cell → Cell) : (s.modCell c f).dev = s.dev := rfl
@[simp] theorem modCell_stalls (s : State) (c : CellId) (f : Cell → Cell) : (s.modCell c f).stalls = s.stalls := rfl
@[simp] theorem modCell_qm (s : State) (c : CellId) (f : Cell → Cell) : (s.modCell c f).qm = s.qm := rfl
@[simp] theorem modCell_fab (s : State) (c : CellId) (f : Cell → Cell) : (s.modCell c f).fab = s.fab := rfl
@[simp] theorem modCell_host (s : State) (c : CellId) (f : Cell → Cell) : (s.modCell c f).host = s.host := rfl
@[simp] theorem modCell_time (s : State) (c : CellId) (f : Cell → Cell) : (s.modCell c f).time = s.time := rfl
@[simp] theorem modCell_pwr (s : State) (c : CellId) (f : Cell → Cell) : (s.modCell c f).pwr = s.pwr := rfl
@[simp] theorem modCell_cells (s : State) (c : CellId) (f : Cell → Cell) : (s.modCell c f).cells = vmod s.cells c f := rfl
@[simp] theorem modCell_eth (s : State) (c : CellId) (f : Cell → Cell) : (s.modCell c f).eth = s.eth := rfl
@[simp] theorem modCell_wh (s : State) (c : CellId) (f : Cell → Cell) : (s.modCell c f).wh = s.wh := rfl
@[simp] theorem modCell_sec (s : State) (c : CellId) (f : Cell → Cell) : (s.modCell c f).sec = s.sec := rfl
@[simp] theorem modCell_pins (s : State) (c : CellId) (f : Cell → Cell) : (s.modCell c f).pins = s.pins := rfl
@[simp] theorem modCell_harq (s : State) (c : CellId) (f : Cell → Cell) : (s.modCell c f).harq = s.harq := rfl
@[simp] theorem modCell_hist (s : State) (c : CellId) (f : Cell → Cell) : (s.modCell c f).hist = s.hist := rfl
@[simp] theorem modCell_join (s : State) (c : CellId) (f : Cell → Cell) : (s.modCell c f).join = s.join := rfl
@[simp] theorem modCell_qps (s : State) (c : CellId) (f : Cell → Cell) : (s.modCell c f).qps = s.qps := rfl
@[simp] theorem modCell_out (s : State) (c : CellId) (f : Cell → Cell) : (s.modCell c f).out = s.out := rfl
@[simp] theorem modCell_free (s : State) (c : CellId) (f : Cell → Cell) : (s.modCell c f).free = s.free := rfl
@[simp] theorem modCell_pending (s : State) (c : CellId) (f : Cell → Cell) : (s.modCell c f).pending = s.pending := rfl

/-! ### cellAdd -/

@[simp] theorem cellAdd_mem (s : State) (c : CellId) (k : CellCtr) (v : Nat) : (s.cellAdd c k v).mem = s.mem := rfl
@[simp] theorem cellAdd_dev (s : State) (c : CellId) (k : CellCtr) (v : Nat) : (s.cellAdd c k v).dev = s.dev := rfl
@[simp] theorem cellAdd_stalls (s : State) (c : CellId) (k : CellCtr) (v : Nat) : (s.cellAdd c k v).stalls = s.stalls := rfl
@[simp] theorem cellAdd_qm (s : State) (c : CellId) (k : CellCtr) (v : Nat) : (s.cellAdd c k v).qm = s.qm := rfl
@[simp] theorem cellAdd_fab (s : State) (c : CellId) (k : CellCtr) (v : Nat) : (s.cellAdd c k v).fab = s.fab := rfl
@[simp] theorem cellAdd_host (s : State) (c : CellId) (k : CellCtr) (v : Nat) : (s.cellAdd c k v).host = s.host := rfl
@[simp] theorem cellAdd_time (s : State) (c : CellId) (k : CellCtr) (v : Nat) : (s.cellAdd c k v).time = s.time := rfl
@[simp] theorem cellAdd_pwr (s : State) (c : CellId) (k : CellCtr) (v : Nat) : (s.cellAdd c k v).pwr = s.pwr := rfl
@[simp] theorem cellAdd_cells (s : State) (c : CellId) (k : CellCtr) (v : Nat) : (s.cellAdd c k v).cells = vmod s.cells c (·.add k v) := rfl
@[simp] theorem cellAdd_eth (s : State) (c : CellId) (k : CellCtr) (v : Nat) : (s.cellAdd c k v).eth = s.eth := rfl
@[simp] theorem cellAdd_wh (s : State) (c : CellId) (k : CellCtr) (v : Nat) : (s.cellAdd c k v).wh = s.wh := rfl
@[simp] theorem cellAdd_sec (s : State) (c : CellId) (k : CellCtr) (v : Nat) : (s.cellAdd c k v).sec = s.sec := rfl
@[simp] theorem cellAdd_pins (s : State) (c : CellId) (k : CellCtr) (v : Nat) : (s.cellAdd c k v).pins = s.pins := rfl
@[simp] theorem cellAdd_harq (s : State) (c : CellId) (k : CellCtr) (v : Nat) : (s.cellAdd c k v).harq = s.harq := rfl
@[simp] theorem cellAdd_hist (s : State) (c : CellId) (k : CellCtr) (v : Nat) : (s.cellAdd c k v).hist = s.hist := rfl
@[simp] theorem cellAdd_join (s : State) (c : CellId) (k : CellCtr) (v : Nat) : (s.cellAdd c k v).join = s.join := rfl
@[simp] theorem cellAdd_qps (s : State) (c : CellId) (k : CellCtr) (v : Nat) : (s.cellAdd c k v).qps = s.qps := rfl
@[simp] theorem cellAdd_out (s : State) (c : CellId) (k : CellCtr) (v : Nat) : (s.cellAdd c k v).out = s.out := rfl
@[simp] theorem cellAdd_free (s : State) (c : CellId) (k : CellCtr) (v : Nat) : (s.cellAdd c k v).free = s.free := rfl
@[simp] theorem cellAdd_pending (s : State) (c : CellId) (k : CellCtr) (v : Nat) : (s.cellAdd c k v).pending = s.pending := rfl

/-! ### modQueue -/

@[simp] theorem modQueue_mem (s : State) (q : QueueId) (f : Queue → Queue) : (s.modQueue q f).mem = s.mem := rfl
@[simp] theorem modQueue_dev (s : State) (q : QueueId) (f : Queue → Queue) : (s.modQueue q f).dev = s.dev := rfl
@[simp] theorem modQueue_stalls (s : State) (q : QueueId) (f : Queue → Queue) : (s.modQueue q f).stalls = s.stalls := rfl
@[simp] theorem modQueue_fab (s : State) (q : QueueId) (f : Queue → Queue) : (s.modQueue q f).fab = s.fab := rfl
@[simp] theorem modQueue_host (s : State) (q : QueueId) (f : Queue → Queue) : (s.modQueue q f).host = s.host := rfl
@[simp] theorem modQueue_time (s : State) (q : QueueId) (f : Queue → Queue) : (s.modQueue q f).time = s.time := rfl
@[simp] theorem modQueue_pwr (s : State) (q : QueueId) (f : Queue → Queue) : (s.modQueue q f).pwr = s.pwr := rfl
@[simp] theorem modQueue_cells (s : State) (q : QueueId) (f : Queue → Queue) : (s.modQueue q f).cells = s.cells := rfl
@[simp] theorem modQueue_eth (s : State) (q : QueueId) (f : Queue → Queue) : (s.modQueue q f).eth = s.eth := rfl
@[simp] theorem modQueue_wh (s : State) (q : QueueId) (f : Queue → Queue) : (s.modQueue q f).wh = s.wh := rfl
@[simp] theorem modQueue_sec (s : State) (q : QueueId) (f : Queue → Queue) : (s.modQueue q f).sec = s.sec := rfl
@[simp] theorem modQueue_pins (s : State) (q : QueueId) (f : Queue → Queue) : (s.modQueue q f).pins = s.pins := rfl
@[simp] theorem modQueue_harq (s : State) (q : QueueId) (f : Queue → Queue) : (s.modQueue q f).harq = s.harq := rfl
@[simp] theorem modQueue_hist (s : State) (q : QueueId) (f : Queue → Queue) : (s.modQueue q f).hist = s.hist := rfl
@[simp] theorem modQueue_join (s : State) (q : QueueId) (f : Queue → Queue) : (s.modQueue q f).join = s.join := rfl
@[simp] theorem modQueue_qps (s : State) (q : QueueId) (f : Queue → Queue) : (s.modQueue q f).qps = s.qps := rfl
@[simp] theorem modQueue_out (s : State) (q : QueueId) (f : Queue → Queue) : (s.modQueue q f).out = s.out := rfl
@[simp] theorem modQueue_free (s : State) (q : QueueId) (f : Queue → Queue) : (s.modQueue q f).free = s.free := rfl
@[simp] theorem modQueue_pending (s : State) (q : QueueId) (f : Queue → Queue) : (s.modQueue q f).pending = s.pending := rfl

/-! ### modEntry -/

@[simp] theorem modEntry_mem (s : State) (q : QueueId) (i : Fin 4096) (f : QEntry → QEntry) : (s.modEntry q i f).mem = s.mem := rfl
@[simp] theorem modEntry_dev (s : State) (q : QueueId) (i : Fin 4096) (f : QEntry → QEntry) : (s.modEntry q i f).dev = s.dev := rfl
@[simp] theorem modEntry_stalls (s : State) (q : QueueId) (i : Fin 4096) (f : QEntry → QEntry) : (s.modEntry q i f).stalls = s.stalls := rfl
@[simp] theorem modEntry_fab (s : State) (q : QueueId) (i : Fin 4096) (f : QEntry → QEntry) : (s.modEntry q i f).fab = s.fab := rfl
@[simp] theorem modEntry_host (s : State) (q : QueueId) (i : Fin 4096) (f : QEntry → QEntry) : (s.modEntry q i f).host = s.host := rfl
@[simp] theorem modEntry_time (s : State) (q : QueueId) (i : Fin 4096) (f : QEntry → QEntry) : (s.modEntry q i f).time = s.time := rfl
@[simp] theorem modEntry_pwr (s : State) (q : QueueId) (i : Fin 4096) (f : QEntry → QEntry) : (s.modEntry q i f).pwr = s.pwr := rfl
@[simp] theorem modEntry_cells (s : State) (q : QueueId) (i : Fin 4096) (f : QEntry → QEntry) : (s.modEntry q i f).cells = s.cells := rfl
@[simp] theorem modEntry_eth (s : State) (q : QueueId) (i : Fin 4096) (f : QEntry → QEntry) : (s.modEntry q i f).eth = s.eth := rfl
@[simp] theorem modEntry_wh (s : State) (q : QueueId) (i : Fin 4096) (f : QEntry → QEntry) : (s.modEntry q i f).wh = s.wh := rfl
@[simp] theorem modEntry_sec (s : State) (q : QueueId) (i : Fin 4096) (f : QEntry → QEntry) : (s.modEntry q i f).sec = s.sec := rfl
@[simp] theorem modEntry_pins (s : State) (q : QueueId) (i : Fin 4096) (f : QEntry → QEntry) : (s.modEntry q i f).pins = s.pins := rfl
@[simp] theorem modEntry_harq (s : State) (q : QueueId) (i : Fin 4096) (f : QEntry → QEntry) : (s.modEntry q i f).harq = s.harq := rfl
@[simp] theorem modEntry_hist (s : State) (q : QueueId) (i : Fin 4096) (f : QEntry → QEntry) : (s.modEntry q i f).hist = s.hist := rfl
@[simp] theorem modEntry_join (s : State) (q : QueueId) (i : Fin 4096) (f : QEntry → QEntry) : (s.modEntry q i f).join = s.join := rfl
@[simp] theorem modEntry_qps (s : State) (q : QueueId) (i : Fin 4096) (f : QEntry → QEntry) : (s.modEntry q i f).qps = s.qps := rfl
@[simp] theorem modEntry_out (s : State) (q : QueueId) (i : Fin 4096) (f : QEntry → QEntry) : (s.modEntry q i f).out = s.out := rfl
@[simp] theorem modEntry_free (s : State) (q : QueueId) (i : Fin 4096) (f : QEntry → QEntry) : (s.modEntry q i f).free = s.free := rfl
@[simp] theorem modEntry_pending (s : State) (q : QueueId) (i : Fin 4096) (f : QEntry → QEntry) : (s.modEntry q i f).pending = s.pending := rfl

/-! ### modPass -/

@[simp] theorem modPass_mem (s : State) (p : PassId) (f : Pass → Pass) : (s.modPass p f).mem = s.mem := rfl
@[simp] theorem modPass_dev (s : State) (p : PassId) (f : Pass → Pass) : (s.modPass p f).dev = s.dev := rfl
@[simp] theorem modPass_stalls (s : State) (p : PassId) (f : Pass → Pass) : (s.modPass p f).stalls = s.stalls := rfl
@[simp] theorem modPass_qm (s : State) (p : PassId) (f : Pass → Pass) : (s.modPass p f).qm = s.qm := rfl
@[simp] theorem modPass_host (s : State) (p : PassId) (f : Pass → Pass) : (s.modPass p f).host = s.host := rfl
@[simp] theorem modPass_time (s : State) (p : PassId) (f : Pass → Pass) : (s.modPass p f).time = s.time := rfl
@[simp] theorem modPass_pwr (s : State) (p : PassId) (f : Pass → Pass) : (s.modPass p f).pwr = s.pwr := rfl
@[simp] theorem modPass_cells (s : State) (p : PassId) (f : Pass → Pass) : (s.modPass p f).cells = s.cells := rfl
@[simp] theorem modPass_eth (s : State) (p : PassId) (f : Pass → Pass) : (s.modPass p f).eth = s.eth := rfl
@[simp] theorem modPass_wh (s : State) (p : PassId) (f : Pass → Pass) : (s.modPass p f).wh = s.wh := rfl
@[simp] theorem modPass_sec (s : State) (p : PassId) (f : Pass → Pass) : (s.modPass p f).sec = s.sec := rfl
@[simp] theorem modPass_pins (s : State) (p : PassId) (f : Pass → Pass) : (s.modPass p f).pins = s.pins := rfl
@[simp] theorem modPass_harq (s : State) (p : PassId) (f : Pass → Pass) : (s.modPass p f).harq = s.harq := rfl
@[simp] theorem modPass_hist (s : State) (p : PassId) (f : Pass → Pass) : (s.modPass p f).hist = s.hist := rfl
@[simp] theorem modPass_join (s : State) (p : PassId) (f : Pass → Pass) : (s.modPass p f).join = s.join := rfl
@[simp] theorem modPass_qps (s : State) (p : PassId) (f : Pass → Pass) : (s.modPass p f).qps = s.qps := rfl
@[simp] theorem modPass_out (s : State) (p : PassId) (f : Pass → Pass) : (s.modPass p f).out = s.out := rfl
@[simp] theorem modPass_free (s : State) (p : PassId) (f : Pass → Pass) : (s.modPass p f).free = s.free := rfl
@[simp] theorem modPass_pending (s : State) (p : PassId) (f : Pass → Pass) : (s.modPass p f).pending = s.pending := rfl

/-! ### modMb -/

@[simp] theorem modMb_mem (s : State) (m : MboxId) (f : Mailbox → Mailbox) : (s.modMb m f).mem = s.mem := rfl
@[simp] theorem modMb_dev (s : State) (m : MboxId) (f : Mailbox → Mailbox) : (s.modMb m f).dev = s.dev := rfl
@[simp] theorem modMb_stalls (s : State) (m : MboxId) (f : Mailbox → Mailbox) : (s.modMb m f).stalls = s.stalls := rfl
@[simp] theorem modMb_qm (s : State) (m : MboxId) (f : Mailbox → Mailbox) : (s.modMb m f).qm = s.qm := rfl
@[simp] theorem modMb_fab (s : State) (m : MboxId) (f : Mailbox → Mailbox) : (s.modMb m f).fab = s.fab := rfl
@[simp] theorem modMb_time (s : State) (m : MboxId) (f : Mailbox → Mailbox) : (s.modMb m f).time = s.time := rfl
@[simp] theorem modMb_pwr (s : State) (m : MboxId) (f : Mailbox → Mailbox) : (s.modMb m f).pwr = s.pwr := rfl
@[simp] theorem modMb_cells (s : State) (m : MboxId) (f : Mailbox → Mailbox) : (s.modMb m f).cells = s.cells := rfl
@[simp] theorem modMb_eth (s : State) (m : MboxId) (f : Mailbox → Mailbox) : (s.modMb m f).eth = s.eth := rfl
@[simp] theorem modMb_wh (s : State) (m : MboxId) (f : Mailbox → Mailbox) : (s.modMb m f).wh = s.wh := rfl
@[simp] theorem modMb_sec (s : State) (m : MboxId) (f : Mailbox → Mailbox) : (s.modMb m f).sec = s.sec := rfl
@[simp] theorem modMb_pins (s : State) (m : MboxId) (f : Mailbox → Mailbox) : (s.modMb m f).pins = s.pins := rfl
@[simp] theorem modMb_harq (s : State) (m : MboxId) (f : Mailbox → Mailbox) : (s.modMb m f).harq = s.harq := rfl
@[simp] theorem modMb_hist (s : State) (m : MboxId) (f : Mailbox → Mailbox) : (s.modMb m f).hist = s.hist := rfl
@[simp] theorem modMb_join (s : State) (m : MboxId) (f : Mailbox → Mailbox) : (s.modMb m f).join = s.join := rfl
@[simp] theorem modMb_qps (s : State) (m : MboxId) (f : Mailbox → Mailbox) : (s.modMb m f).qps = s.qps := rfl
@[simp] theorem modMb_out (s : State) (m : MboxId) (f : Mailbox → Mailbox) : (s.modMb m f).out = s.out := rfl
@[simp] theorem modMb_free (s : State) (m : MboxId) (f : Mailbox → Mailbox) : (s.modMb m f).free = s.free := rfl
@[simp] theorem modMb_pending (s : State) (m : MboxId) (f : Mailbox → Mailbox) : (s.modMb m f).pending = s.pending := rfl

/-! ### modTime -/

@[simp] theorem modTime_mem (s : State) (f : TimeBase → TimeBase) : (s.modTime f).mem = s.mem := rfl
@[simp] theorem modTime_dev (s : State) (f : TimeBase → TimeBase) : (s.modTime f).dev = s.dev := rfl
@[simp] theorem modTime_stalls (s : State) (f : TimeBase → TimeBase) : (s.modTime f).stalls = s.stalls := rfl
@[simp] theorem modTime_qm (s : State) (f : TimeBase → TimeBase) : (s.modTime f).qm = s.qm := rfl
@[simp] theorem modTime_fab (s : State) (f : TimeBase → TimeBase) : (s.modTime f).fab = s.fab := rfl
@[simp] theorem modTime_host (s : State) (f : TimeBase → TimeBase) : (s.modTime f).host = s.host := rfl
@[simp] theorem modTime_time (s : State) (f : TimeBase → TimeBase) : (s.modTime f).time = f s.time := rfl
@[simp] theorem modTime_pwr (s : State) (f : TimeBase → TimeBase) : (s.modTime f).pwr = s.pwr := rfl
@[simp] theorem modTime_cells (s : State) (f : TimeBase → TimeBase) : (s.modTime f).cells = s.cells := rfl
@[simp] theorem modTime_eth (s : State) (f : TimeBase → TimeBase) : (s.modTime f).eth = s.eth := rfl
@[simp] theorem modTime_wh (s : State) (f : TimeBase → TimeBase) : (s.modTime f).wh = s.wh := rfl
@[simp] theorem modTime_sec (s : State) (f : TimeBase → TimeBase) : (s.modTime f).sec = s.sec := rfl
@[simp] theorem modTime_pins (s : State) (f : TimeBase → TimeBase) : (s.modTime f).pins = s.pins := rfl
@[simp] theorem modTime_harq (s : State) (f : TimeBase → TimeBase) : (s.modTime f).harq = s.harq := rfl
@[simp] theorem modTime_hist (s : State) (f : TimeBase → TimeBase) : (s.modTime f).hist = s.hist := rfl
@[simp] theorem modTime_join (s : State) (f : TimeBase → TimeBase) : (s.modTime f).join = s.join := rfl
@[simp] theorem modTime_qps (s : State) (f : TimeBase → TimeBase) : (s.modTime f).qps = s.qps := rfl
@[simp] theorem modTime_out (s : State) (f : TimeBase → TimeBase) : (s.modTime f).out = s.out := rfl
@[simp] theorem modTime_free (s : State) (f : TimeBase → TimeBase) : (s.modTime f).free = s.free := rfl
@[simp] theorem modTime_pending (s : State) (f : TimeBase → TimeBase) : (s.modTime f).pending = s.pending := rfl

/-! ### modPwr -/

@[simp] theorem modPwr_mem (s : State) (f : Power → Power) : (s.modPwr f).mem = s.mem := rfl
@[simp] theorem modPwr_dev (s : State) (f : Power → Power) : (s.modPwr f).dev = s.dev := rfl
@[simp] theorem modPwr_stalls (s : State) (f : Power → Power) : (s.modPwr f).stalls = s.stalls := rfl
@[simp] theorem modPwr_qm (s : State) (f : Power → Power) : (s.modPwr f).qm = s.qm := rfl
@[simp] theorem modPwr_fab (s : State) (f : Power → Power) : (s.modPwr f).fab = s.fab := rfl
@[simp] theorem modPwr_host (s : State) (f : Power → Power) : (s.modPwr f).host = s.host := rfl
@[simp] theorem modPwr_time (s : State) (f : Power → Power) : (s.modPwr f).time = s.time := rfl
@[simp] theorem modPwr_pwr (s : State) (f : Power → Power) : (s.modPwr f).pwr = f s.pwr := rfl
@[simp] theorem modPwr_cells (s : State) (f : Power → Power) : (s.modPwr f).cells = s.cells := rfl
@[simp] theorem modPwr_eth (s : State) (f : Power → Power) : (s.modPwr f).eth = s.eth := rfl
@[simp] theorem modPwr_wh (s : State) (f : Power → Power) : (s.modPwr f).wh = s.wh := rfl
@[simp] theorem modPwr_sec (s : State) (f : Power → Power) : (s.modPwr f).sec = s.sec := rfl
@[simp] theorem modPwr_pins (s : State) (f : Power → Power) : (s.modPwr f).pins = s.pins := rfl
@[simp] theorem modPwr_harq (s : State) (f : Power → Power) : (s.modPwr f).harq = s.harq := rfl
@[simp] theorem modPwr_hist (s : State) (f : Power → Power) : (s.modPwr f).hist = s.hist := rfl
@[simp] theorem modPwr_join (s : State) (f : Power → Power) : (s.modPwr f).join = s.join := rfl
@[simp] theorem modPwr_qps (s : State) (f : Power → Power) : (s.modPwr f).qps = s.qps := rfl
@[simp] theorem modPwr_out (s : State) (f : Power → Power) : (s.modPwr f).out = s.out := rfl
@[simp] theorem modPwr_free (s : State) (f : Power → Power) : (s.modPwr f).free = s.free := rfl
@[simp] theorem modPwr_pending (s : State) (f : Power → Power) : (s.modPwr f).pending = s.pending := rfl

/-! ### modSec -/

@[simp] theorem modSec_mem (s : State) (f : Security → Security) : (s.modSec f).mem = s.mem := rfl
@[simp] theorem modSec_dev (s : State) (f : Security → Security) : (s.modSec f).dev = s.dev := rfl
@[simp] theorem modSec_stalls (s : State) (f : Security → Security) : (s.modSec f).stalls = s.stalls := rfl
@[simp] theorem modSec_qm (s : State) (f : Security → Security) : (s.modSec f).qm = s.qm := rfl
@[simp] theorem modSec_fab (s : State) (f : Security → Security) : (s.modSec f).fab = s.fab := rfl
@[simp] theorem modSec_host (s : State) (f : Security → Security) : (s.modSec f).host = s.host := rfl
@[simp] theorem modSec_time (s : State) (f : Security → Security) : (s.modSec f).time = s.time := rfl
@[simp] theorem modSec_pwr (s : State) (f : Security → Security) : (s.modSec f).pwr = s.pwr := rfl
@[simp] theorem modSec_cells (s : State) (f : Security → Security) : (s.modSec f).cells = s.cells := rfl
@[simp] theorem modSec_eth (s : State) (f : Security → Security) : (s.modSec f).eth = s.eth := rfl
@[simp] theorem modSec_wh (s : State) (f : Security → Security) : (s.modSec f).wh = s.wh := rfl
@[simp] theorem modSec_sec (s : State) (f : Security → Security) : (s.modSec f).sec = f s.sec := rfl
@[simp] theorem modSec_pins (s : State) (f : Security → Security) : (s.modSec f).pins = s.pins := rfl
@[simp] theorem modSec_harq (s : State) (f : Security → Security) : (s.modSec f).harq = s.harq := rfl
@[simp] theorem modSec_hist (s : State) (f : Security → Security) : (s.modSec f).hist = s.hist := rfl
@[simp] theorem modSec_join (s : State) (f : Security → Security) : (s.modSec f).join = s.join := rfl
@[simp] theorem modSec_qps (s : State) (f : Security → Security) : (s.modSec f).qps = s.qps := rfl
@[simp] theorem modSec_out (s : State) (f : Security → Security) : (s.modSec f).out = s.out := rfl
@[simp] theorem modSec_free (s : State) (f : Security → Security) : (s.modSec f).free = s.free := rfl
@[simp] theorem modSec_pending (s : State) (f : Security → Security) : (s.modSec f).pending = s.pending := rfl

/-! ### modWh -/

@[simp] theorem modWh_mem (s : State) (f : Weigh → Weigh) : (s.modWh f).mem = s.mem := rfl
@[simp] theorem modWh_dev (s : State) (f : Weigh → Weigh) : (s.modWh f).dev = s.dev := rfl
@[simp] theorem modWh_stalls (s : State) (f : Weigh → Weigh) : (s.modWh f).stalls = s.stalls := rfl
@[simp] theorem modWh_qm (s : State) (f : Weigh → Weigh) : (s.modWh f).qm = s.qm := rfl
@[simp] theorem modWh_fab (s : State) (f : Weigh → Weigh) : (s.modWh f).fab = s.fab := rfl
@[simp] theorem modWh_host (s : State) (f : Weigh → Weigh) : (s.modWh f).host = s.host := rfl
@[simp] theorem modWh_time (s : State) (f : Weigh → Weigh) : (s.modWh f).time = s.time := rfl
@[simp] theorem modWh_pwr (s : State) (f : Weigh → Weigh) : (s.modWh f).pwr = s.pwr := rfl
@[simp] theorem modWh_cells (s : State) (f : Weigh → Weigh) : (s.modWh f).cells = s.cells := rfl
@[simp] theorem modWh_eth (s : State) (f : Weigh → Weigh) : (s.modWh f).eth = s.eth := rfl
@[simp] theorem modWh_wh (s : State) (f : Weigh → Weigh) : (s.modWh f).wh = f s.wh := rfl
@[simp] theorem modWh_sec (s : State) (f : Weigh → Weigh) : (s.modWh f).sec = s.sec := rfl
@[simp] theorem modWh_pins (s : State) (f : Weigh → Weigh) : (s.modWh f).pins = s.pins := rfl
@[simp] theorem modWh_harq (s : State) (f : Weigh → Weigh) : (s.modWh f).harq = s.harq := rfl
@[simp] theorem modWh_hist (s : State) (f : Weigh → Weigh) : (s.modWh f).hist = s.hist := rfl
@[simp] theorem modWh_join (s : State) (f : Weigh → Weigh) : (s.modWh f).join = s.join := rfl
@[simp] theorem modWh_qps (s : State) (f : Weigh → Weigh) : (s.modWh f).qps = s.qps := rfl
@[simp] theorem modWh_out (s : State) (f : Weigh → Weigh) : (s.modWh f).out = s.out := rfl
@[simp] theorem modWh_free (s : State) (f : Weigh → Weigh) : (s.modWh f).free = s.free := rfl
@[simp] theorem modWh_pending (s : State) (f : Weigh → Weigh) : (s.modWh f).pending = s.pending := rfl

/-! ### modHist -/

@[simp] theorem modHist_mem (s : State) (f : Hist → Hist) : (s.modHist f).mem = s.mem := rfl
@[simp] theorem modHist_dev (s : State) (f : Hist → Hist) : (s.modHist f).dev = s.dev := rfl
@[simp] theorem modHist_stalls (s : State) (f : Hist → Hist) : (s.modHist f).stalls = s.stalls := rfl
@[simp] theorem modHist_qm (s : State) (f : Hist → Hist) : (s.modHist f).qm = s.qm := rfl
@[simp] theorem modHist_fab (s : State) (f : Hist → Hist) : (s.modHist f).fab = s.fab := rfl
@[simp] theorem modHist_host (s : State) (f : Hist → Hist) : (s.modHist f).host = s.host := rfl
@[simp] theorem modHist_time (s : State) (f : Hist → Hist) : (s.modHist f).time = s.time := rfl
@[simp] theorem modHist_pwr (s : State) (f : Hist → Hist) : (s.modHist f).pwr = s.pwr := rfl
@[simp] theorem modHist_cells (s : State) (f : Hist → Hist) : (s.modHist f).cells = s.cells := rfl
@[simp] theorem modHist_eth (s : State) (f : Hist → Hist) : (s.modHist f).eth = s.eth := rfl
@[simp] theorem modHist_wh (s : State) (f : Hist → Hist) : (s.modHist f).wh = s.wh := rfl
@[simp] theorem modHist_sec (s : State) (f : Hist → Hist) : (s.modHist f).sec = s.sec := rfl
@[simp] theorem modHist_pins (s : State) (f : Hist → Hist) : (s.modHist f).pins = s.pins := rfl
@[simp] theorem modHist_harq (s : State) (f : Hist → Hist) : (s.modHist f).harq = s.harq := rfl
@[simp] theorem modHist_hist (s : State) (f : Hist → Hist) : (s.modHist f).hist = f s.hist := rfl
@[simp] theorem modHist_join (s : State) (f : Hist → Hist) : (s.modHist f).join = s.join := rfl
@[simp] theorem modHist_qps (s : State) (f : Hist → Hist) : (s.modHist f).qps = s.qps := rfl
@[simp] theorem modHist_out (s : State) (f : Hist → Hist) : (s.modHist f).out = s.out := rfl
@[simp] theorem modHist_free (s : State) (f : Hist → Hist) : (s.modHist f).free = s.free := rfl
@[simp] theorem modHist_pending (s : State) (f : Hist → Hist) : (s.modHist f).pending = s.pending := rfl

/-! ### modJoin -/

@[simp] theorem modJoin_mem (s : State) (f : Join → Join) : (s.modJoin f).mem = s.mem := rfl
@[simp] theorem modJoin_dev (s : State) (f : Join → Join) : (s.modJoin f).dev = s.dev := rfl
@[simp] theorem modJoin_stalls (s : State) (f : Join → Join) : (s.modJoin f).stalls = s.stalls := rfl
@[simp] theorem modJoin_qm (s : State) (f : Join → Join) : (s.modJoin f).qm = s.qm := rfl
@[simp] theorem modJoin_fab (s : State) (f : Join → Join) : (s.modJoin f).fab = s.fab := rfl
@[simp] theorem modJoin_host (s : State) (f : Join → Join) : (s.modJoin f).host = s.host := rfl
@[simp] theorem modJoin_time (s : State) (f : Join → Join) : (s.modJoin f).time = s.time := rfl
@[simp] theorem modJoin_pwr (s : State) (f : Join → Join) : (s.modJoin f).pwr = s.pwr := rfl
@[simp] theorem modJoin_cells (s : State) (f : Join → Join) : (s.modJoin f).cells = s.cells := rfl
@[simp] theorem modJoin_eth (s : State) (f : Join → Join) : (s.modJoin f).eth = s.eth := rfl
@[simp] theorem modJoin_wh (s : State) (f : Join → Join) : (s.modJoin f).wh = s.wh := rfl
@[simp] theorem modJoin_sec (s : State) (f : Join → Join) : (s.modJoin f).sec = s.sec := rfl
@[simp] theorem modJoin_pins (s : State) (f : Join → Join) : (s.modJoin f).pins = s.pins := rfl
@[simp] theorem modJoin_harq (s : State) (f : Join → Join) : (s.modJoin f).harq = s.harq := rfl
@[simp] theorem modJoin_hist (s : State) (f : Join → Join) : (s.modJoin f).hist = s.hist := rfl
@[simp] theorem modJoin_join (s : State) (f : Join → Join) : (s.modJoin f).join = f s.join := rfl
@[simp] theorem modJoin_qps (s : State) (f : Join → Join) : (s.modJoin f).qps = s.qps := rfl
@[simp] theorem modJoin_out (s : State) (f : Join → Join) : (s.modJoin f).out = s.out := rfl
@[simp] theorem modJoin_free (s : State) (f : Join → Join) : (s.modJoin f).free = s.free := rfl
@[simp] theorem modJoin_pending (s : State) (f : Join → Join) : (s.modJoin f).pending = s.pending := rfl

/-! ### modQp -/

@[simp] theorem modQp_mem (s : State) (q : QpId) (f : QueuePair → QueuePair) : (s.modQp q f).mem = s.mem := rfl
@[simp] theorem modQp_dev (s : State) (q : QpId) (f : QueuePair → QueuePair) : (s.modQp q f).dev = s.dev := rfl
@[simp] theorem modQp_stalls (s : State) (q : QpId) (f : QueuePair → QueuePair) : (s.modQp q f).stalls = s.stalls := rfl
@[simp] theorem modQp_qm (s : State) (q : QpId) (f : QueuePair → QueuePair) : (s.modQp q f).qm = s.qm := rfl
@[simp] theorem modQp_fab (s : State) (q : QpId) (f : QueuePair → QueuePair) : (s.modQp q f).fab = s.fab := rfl
@[simp] theorem modQp_host (s : State) (q : QpId) (f : QueuePair → QueuePair) : (s.modQp q f).host = s.host := rfl
@[simp] theorem modQp_time (s : State) (q : QpId) (f : QueuePair → QueuePair) : (s.modQp q f).time = s.time := rfl
@[simp] theorem modQp_pwr (s : State) (q : QpId) (f : QueuePair → QueuePair) : (s.modQp q f).pwr = s.pwr := rfl
@[simp] theorem modQp_cells (s : State) (q : QpId) (f : QueuePair → QueuePair) : (s.modQp q f).cells = s.cells := rfl
@[simp] theorem modQp_eth (s : State) (q : QpId) (f : QueuePair → QueuePair) : (s.modQp q f).eth = s.eth := rfl
@[simp] theorem modQp_wh (s : State) (q : QpId) (f : QueuePair → QueuePair) : (s.modQp q f).wh = s.wh := rfl
@[simp] theorem modQp_sec (s : State) (q : QpId) (f : QueuePair → QueuePair) : (s.modQp q f).sec = s.sec := rfl
@[simp] theorem modQp_pins (s : State) (q : QpId) (f : QueuePair → QueuePair) : (s.modQp q f).pins = s.pins := rfl
@[simp] theorem modQp_harq (s : State) (q : QpId) (f : QueuePair → QueuePair) : (s.modQp q f).harq = s.harq := rfl
@[simp] theorem modQp_hist (s : State) (q : QpId) (f : QueuePair → QueuePair) : (s.modQp q f).hist = s.hist := rfl
@[simp] theorem modQp_join (s : State) (q : QpId) (f : QueuePair → QueuePair) : (s.modQp q f).join = s.join := rfl
@[simp] theorem modQp_qps (s : State) (q : QpId) (f : QueuePair → QueuePair) : (s.modQp q f).qps = vmod s.qps q f := rfl
@[simp] theorem modQp_out (s : State) (q : QpId) (f : QueuePair → QueuePair) : (s.modQp q f).out = s.out := rfl
@[simp] theorem modQp_free (s : State) (q : QpId) (f : QueuePair → QueuePair) : (s.modQp q f).free = s.free := rfl
@[simp] theorem modQp_pending (s : State) (q : QpId) (f : QueuePair → QueuePair) : (s.modQp q f).pending = s.pending := rfl

/-! ### send -/

@[simp] theorem send_mem (s : State) (m : OutMsg) : (s.send m).mem = s.mem := rfl
@[simp] theorem send_dev (s : State) (m : OutMsg) : (s.send m).dev = s.dev := rfl
@[simp] theorem send_stalls (s : State) (m : OutMsg) : (s.send m).stalls = s.stalls := rfl
@[simp] theorem send_qm (s : State) (m : OutMsg) : (s.send m).qm = s.qm := rfl
@[simp] theorem send_fab (s : State) (m : OutMsg) : (s.send m).fab = s.fab := rfl
@[simp] theorem send_host (s : State) (m : OutMsg) : (s.send m).host = s.host := rfl
@[simp] theorem send_time (s : State) (m : OutMsg) : (s.send m).time = s.time := rfl
@[simp] theorem send_pwr (s : State) (m : OutMsg) : (s.send m).pwr = s.pwr := rfl
@[simp] theorem send_cells (s : State) (m : OutMsg) : (s.send m).cells = s.cells := rfl
@[simp] theorem send_eth (s : State) (m : OutMsg) : (s.send m).eth = s.eth := rfl
@[simp] theorem send_wh (s : State) (m : OutMsg) : (s.send m).wh = s.wh := rfl
@[simp] theorem send_sec (s : State) (m : OutMsg) : (s.send m).sec = s.sec := rfl
@[simp] theorem send_pins (s : State) (m : OutMsg) : (s.send m).pins = s.pins := rfl
@[simp] theorem send_harq (s : State) (m : OutMsg) : (s.send m).harq = s.harq := rfl
@[simp] theorem send_hist (s : State) (m : OutMsg) : (s.send m).hist = s.hist := rfl
@[simp] theorem send_join (s : State) (m : OutMsg) : (s.send m).join = s.join := rfl
@[simp] theorem send_qps (s : State) (m : OutMsg) : (s.send m).qps = s.qps := rfl
@[simp] theorem send_out (s : State) (m : OutMsg) : (s.send m).out = s.out ++ [m] := rfl
@[simp] theorem send_free (s : State) (m : OutMsg) : (s.send m).free = s.free := rfl
@[simp] theorem send_pending (s : State) (m : OutMsg) : (s.send m).pending = s.pending := rfl

/-! ### drew -/

@[simp] theorem drew_mem (s : State) (k : Nat) : (s.drew k).mem = s.mem := rfl
@[simp] theorem drew_dev (s : State) (k : Nat) : (s.drew k).dev = s.dev := rfl
@[simp] theorem drew_stalls (s : State) (k : Nat) : (s.drew k).stalls = s.stalls := rfl
@[simp] theorem drew_qm (s : State) (k : Nat) : (s.drew k).qm = s.qm := rfl
@[simp] theorem drew_fab (s : State) (k : Nat) : (s.drew k).fab = s.fab := rfl
@[simp] theorem drew_host (s : State) (k : Nat) : (s.drew k).host = s.host := rfl
@[simp] theorem drew_time (s : State) (k : Nat) : (s.drew k).time = s.time := rfl
@[simp] theorem drew_pwr (s : State) (k : Nat) : (s.drew k).pwr = s.pwr := rfl
@[simp] theorem drew_cells (s : State) (k : Nat) : (s.drew k).cells = s.cells := rfl
@[simp] theorem drew_eth (s : State) (k : Nat) : (s.drew k).eth = s.eth := rfl
@[simp] theorem drew_wh (s : State) (k : Nat) : (s.drew k).wh = s.wh := rfl
@[simp] theorem drew_sec (s : State) (k : Nat) : (s.drew k).sec = s.sec := rfl
@[simp] theorem drew_pins (s : State) (k : Nat) : (s.drew k).pins = s.pins := rfl
@[simp] theorem drew_harq (s : State) (k : Nat) : (s.drew k).harq = s.harq := rfl
@[simp] theorem drew_hist (s : State) (k : Nat) : (s.drew k).hist = s.hist := rfl
@[simp] theorem drew_join (s : State) (k : Nat) : (s.drew k).join = s.join := rfl
@[simp] theorem drew_qps (s : State) (k : Nat) : (s.drew k).qps = s.qps := rfl
@[simp] theorem drew_out (s : State) (k : Nat) : (s.drew k).out = s.out := rfl
@[simp] theorem drew_free (s : State) (k : Nat) : (s.drew k).free = s.free + k := rfl
@[simp] theorem drew_pending (s : State) (k : Nat) : (s.drew k).pending = s.pending := rfl

/-! ### Reading back -/

@[simp] theorem stall_modStall_same (s : State) (n : StallId) (f : Stall → Stall) : (s.modStall n f).stall n = f (s.stall n) := by
  simp [State.stall, State.modStall]

@[simp] theorem stall_modStall_ne (s : State) {n m : StallId} (f : Stall → Stall) (h : n ≠ m) : (s.modStall n f).stall m = s.stall m := by
  simp [State.stall, State.modStall, h]

@[simp] theorem cell_modCell_same (s : State) (c : CellId) (f : Cell → Cell) : (s.modCell c f).cell c = f (s.cell c) := by
  simp [State.cell, State.modCell]

@[simp] theorem cell_modCell_ne (s : State) {c d : CellId} (f : Cell → Cell) (h : c ≠ d) : (s.modCell c f).cell d = s.cell d := by
  simp [State.cell, State.modCell, h]

@[simp] theorem qp_modQp_same (s : State) (q : QpId) (f : QueuePair → QueuePair) : (s.modQp q f).qp q = f (s.qp q) := by
  simp [State.qp, State.modQp]

@[simp] theorem qp_modQp_ne (s : State) {q p : QpId} (f : QueuePair → QueuePair) (h : q ≠ p) : (s.modQp q f).qp p = s.qp p := by
  simp [State.qp, State.modQp, h]

@[simp] theorem mb_modMb_same (s : State) (m : MboxId) (f : Mailbox → Mailbox) : (s.modMb m f).mb m = f (s.mb m) := by
  simp [State.mb, State.modMb]

@[simp] theorem mb_modMb_ne (s : State) {m k : MboxId} (f : Mailbox → Mailbox) (h : m ≠ k) : (s.modMb m f).mb k = s.mb k := by
  simp [State.mb, State.modMb, h]

@[simp] theorem devCtr_devInc_same (s : State) (c : DevCtr) : (s.devInc c).devCtr c = (s.devCtr c).add 1 := by
  simp [State.devCtr]

end Sys2Proof.Machine
end

