-- ==== Sys2Proof/Laws/Frames.lean ====
section
/-! SUPPORT. What each shared operation may change: the parts of the state named, and the form of the memory that it keeps. -/
namespace Sys2Proof.Safety
open Sys2Proof.Machine

/-! ### Frames compose -/

theorem Part.same_refl (s : State) (p : Part) : p.same s s := by cases p <;> rfl

theorem Part.same_trans {s t u : State} {p : Part} (h : p.same s t) (k : p.same t u) : p.same s u := by
  cases p <;> exact Eq.trans k h

theorem onlyChanges_refl (ps : List Part) (s : State) : OnlyChanges ps s s := ⟨rfl, fun p _ => Part.same_refl s p⟩

theorem onlyChanges_trans {ps : List Part} {s t u : State} (h : OnlyChanges ps s t) (k : OnlyChanges ps t u) : OnlyChanges ps s u :=
  ⟨k.1.trans h.1, fun p hp => Part.same_trans (h.2 p hp) (k.2 p hp)⟩

theorem onlyChanges_mono {ps qs : List Part} {s t : State} (h : OnlyChanges ps s t) (hs : ∀ p ∈ ps, p ∈ qs) : OnlyChanges qs s t :=
  ⟨h.1, fun p hp => h.2 p fun hq => hp (hs p hq)⟩

theorem onlyChanges_foldl {α : Type} {ps : List Part} (f : State → α → State) (hf : ∀ s a, OnlyChanges ps s (f s a)) (l : List α)
    (s : State) : OnlyChanges ps s (l.foldl f s) := by
  induction l generalizing s with
  | nil => exact onlyChanges_refl ps s
  | cons a l ih => exact onlyChanges_trans (hf s a) (ih (f s a))

/-! ### The updates of one part -/

theorem devAdd_only (s : State) (c : DevCtr) (k : Nat) : OnlyChanges [.dev] s (s.devAdd c k) :=
  ⟨rfl, fun p hp => by cases p <;> first | rfl | simp at hp⟩

theorem modStall_only (s : State) (n : StallId) (f : Stall → Stall) : OnlyChanges [.stalls] s (s.modStall n f) :=
  ⟨rfl, fun p hp => by cases p <;> first | rfl | simp at hp⟩

theorem modCell_only (s : State) (c : CellId) (f : Cell → Cell) : OnlyChanges [.cells] s (s.modCell c f) :=
  ⟨rfl, fun p hp => by cases p <;> first | rfl | simp at hp⟩

theorem modQueue_only (s : State) (q : QueueId) (f : Queue → Queue) : OnlyChanges [.qm] s (s.modQueue q f) :=
  ⟨rfl, fun p hp => by cases p <;> first | rfl | simp at hp⟩

theorem modEntry_only (s : State) (q : QueueId) (i : Fin 4096) (f : QEntry → QEntry) : OnlyChanges [.qm] s (s.modEntry q i f) :=
  ⟨rfl, fun p hp => by cases p <;> first | rfl | simp at hp⟩

theorem modMb_only (s : State) (m : MboxId) (f : Mailbox → Mailbox) : OnlyChanges [.host] s (s.modMb m f) :=
  ⟨rfl, fun p hp => by cases p <;> first | rfl | simp at hp⟩

theorem modQp_only (s : State) (q : QpId) (f : QueuePair → QueuePair) : OnlyChanges [.qps] s (s.modQp q f) :=
  ⟨rfl, fun p hp => by cases p <;> first | rfl | simp at hp⟩

theorem send_only (s : State) (m : OutMsg) : OnlyChanges [.out] s (s.send m) :=
  ⟨rfl, fun p hp => by cases p <;> first | rfl | simp at hp⟩

theorem drew_only (s : State) (k : Nat) : OnlyChanges [.free] s (s.drew k) :=
  ⟨rfl, fun p hp => by cases p <;> first | rfl | simp at hp⟩

/-! ### Event records, messages and memory accesses -/

theorem capture_only (s : State) (c : Nat) (bs : List Byte) : OnlyChanges [.host] s (s.capture c bs) := by
  unfold State.capture
  split
  · exact ⟨rfl, fun p hp => by cases p <;> first | rfl | simp at hp⟩
  · exact onlyChanges_refl _ s

theorem accept_only (u : State) (e : Event) (us : Int) (n : Nat) : OnlyChanges [.dev, .host] u
    { (if (u.host.accept e).2 = true then u.devInc .evtUsbDrop else u) with
      host := { (u.host.accept e).1 with evtUs := us, evtCount := n } } := by
  split <;> exact ⟨rfl, fun p hp => by cases p <;> first | rfl | simp at hp⟩

/-- Raising a record changes the event unit and its counters. -/
theorem raiseAt_only (s : State) (t : Int) (y c : Nat) (bs : List Byte) : OnlyChanges [.dev, .host] s (s.raiseAt t y c bs) := by
  unfold State.raiseAt
  split
  · have h := fun (b : List Byte) => onlyChanges_mono (capture_only s 2 b) (qs := [.dev, .host]) (by simp)
    dsimp only
    generalize (if s.host.evtUs = usOf s.now then s.host.evtCount else 0) = n
    split
    · exact onlyChanges_trans (h _) ⟨rfl, fun p hp => by cases p <;> first | rfl | simp at hp⟩
    · exact onlyChanges_trans (h _) (accept_only _ _ _ _)
  · exact onlyChanges_refl _ s

theorem raise_only (s : State) (y c : Nat) (bs : List Byte) : OnlyChanges [.dev, .host] s (s.raise y c bs) := raiseAt_only s _ y c bs

theorem roceSend_only (s : State) (q : QpId) (op : Byte) (a : BitVec 64) (i : Word) (bs : List Byte) (n : Nat) :
    OnlyChanges [.qps, .out] s (s.roceSend q op a i bs n) := by
  unfold State.roceSend
  dsimp only
  split
  · exact onlyChanges_trans (onlyChanges_mono (modQp_only s q _) (by simp)) (onlyChanges_mono (send_only _ _) (by simp))
  · exact onlyChanges_refl _ s

theorem toLink_only (s : State) (l : LinkId) (k : Byte) (bs : List Byte) : OnlyChanges [.valley] s (s.toLink l k bs) :=
  ⟨rfl, fun p hp => by cases p <;> first | rfl | simp at hp⟩

/-- A message of the system waits at a link, or leaves on a queue pair, or does not go at all. -/
theorem tell_only (s : State) (d : DeviceId) (k : Byte) (bs : List Byte) : OnlyChanges [.qps, .valley, .out] s (s.tell d k bs) := by
  unfold State.tell
  split
  · exact onlyChanges_mono (toLink_only s _ _ _) (by simp)
  · split
    · exact onlyChanges_mono (roceSend_only s _ _ _ _ _ _) (by simp)
    · exact onlyChanges_refl _ s

/-- The links serve what waits at them: messages leave the queues. -/
theorem serveLinks_only (s : State) : OnlyChanges [.valley, .out] s s.serveLinks := by
  refine onlyChanges_foldl _ (fun s l => ?_) _ s
  split
  · exact onlyChanges_refl _ s
  · split
    · exact ⟨rfl, fun p hp => by cases p <;> first | rfl | simp at hp⟩
    · exact onlyChanges_refl _ s

theorem fwViolation_only (s : State) (c : Source) (w : Bool) (a b : Nat) :
    OnlyChanges [.dev, .fab, .host] s (s.fwViolation c w a b) := by
  unfold State.fwViolation
  refine onlyChanges_trans (t := { s.devInc .plainFwViol with
    fab := { (s.devInc .plainFwViol).fab with fwLast := BitVec.ofNat 32 (plainBase + a) } }) ?_ ?_
  · exact ⟨rfl, fun p hp => by cases p <;> first | rfl | simp at hp⟩
  · exact onlyChanges_mono (raise_only _ _ _ _) (by simp)

theorem plainRead_only (s : State) (c : Source) (a n : Nat) : OnlyChanges [.dev, .fab, .host] s (s.plainRead c a n).2.2 := by
  unfold State.plainRead
  split
  · exact onlyChanges_refl _ s
  · exact fwViolation_only s _ _ _ _

theorem plainWrite_only (s : State) (c : Source) (a : Nat) (bs : List Byte) :
    OnlyChanges [.mem, .dev, .fab, .host] s (s.plainWrite c a bs).2 := by
  unfold State.plainWrite
  split
  · exact ⟨rfl, fun p hp => by cases p <;> first | rfl | simp at hp⟩
  · exact onlyChanges_mono (fwViolation_only s _ _ _ _) (by simp)

theorem agentRead_only (s : State) (c : Source) (a n : Nat) : OnlyChanges [.dev, .fab, .host] s (s.agentRead c a n).2 := by
  unfold State.agentRead
  split
  · exact onlyChanges_refl _ s
  · exact plainRead_only s _ _ _
  · exact onlyChanges_refl _ s
  · exact onlyChanges_refl _ s

theorem agentWrite_only (s : State) (c : Source) (a : Nat) (bs : List Byte) :
    OnlyChanges [.mem, .dev, .fab, .host] s (s.agentWrite c a bs) := by
  unfold State.agentWrite
  split
  · unfold State.localWrite
    split
    · exact ⟨rfl, fun p hp => by cases p <;> first | rfl | simp at hp⟩
    · exact onlyChanges_refl _ s
  · exact plainWrite_only s _ _ _
  · exact ⟨rfl, fun p hp => by cases p <;> first | rfl | simp at hp⟩
  · exact onlyChanges_refl _ s

/-- The settling of eligibility changes the queue manager alone. -/
theorem settle_only (s0 s : State) : OnlyChanges [.qm] s (State.settle s0 s) := by
  refine onlyChanges_foldl _ (fun s q => ?_) _ s
  unfold State.settleQueue
  split
  · exact onlyChanges_refl _ s
  · rename_i e _
    have h1 : OnlyChanges [.qm] s (if e.eligibleAt = none then s.modEntry q e.idx fun e => { e with eligibleAt := some s.now } else s) := by
      split
      · exact modEntry_only s _ _ _
      · exact onlyChanges_refl _ s
    dsimp only
    split
    · exact h1
    · split
      · exact onlyChanges_trans h1 (modQueue_only _ _ _)
      · exact h1

/-! ### The form of the memory -/

/-- What leaves the memory as it was keeps its form. -/
theorem memOk_of_only {ps : List Part} {s t : State} (h : OnlyChanges ps s t) (hp : Part.mem ∉ ps) (hs : MemOk s) : MemOk t := by
  have e : t.mem = s.mem := h.2 .mem hp
  unfold MemOk; rw [e]; exact hs

theorem memOk_write {s : State} (a : Nat) (bs : List Byte) (h : MemOk s) : MemOk { s with mem := memWrite s.mem a bs } := memWrite_wf a bs h

theorem memOk_clear {s : State} (lo hi : Nat) (h : MemOk s) : MemOk { s with mem := memClear s.mem lo hi } := memClear_wf lo hi h

theorem memOk_foldl {α : Type} (f : State → α → State) (hf : ∀ s a, MemOk s → MemOk (f s a)) (l : List α) (s : State) (h : MemOk s) :
    MemOk (l.foldl f s) := by
  induction l generalizing s with
  | nil => exact h
  | cons a l ih => exact ih _ (hf s a h)

theorem memOk_plainWrite {s : State} (c : Source) (a : Nat) (bs : List Byte) (h : MemOk s) : MemOk (s.plainWrite c a bs).2 := by
  unfold State.plainWrite
  split
  · exact memOk_write _ _ h
  · exact memOk_of_only (fwViolation_only s _ _ _ _) (by simp) h

theorem memOk_agentRead {s : State} (c : Source) (a n : Nat) (h : MemOk s) : MemOk (s.agentRead c a n).2 :=
  memOk_of_only (agentRead_only s c a n) (by simp) h

theorem memOk_agentWrite {s : State} (c : Source) (a : Nat) (bs : List Byte) (h : MemOk s) : MemOk (s.agentWrite c a bs) := by
  unfold State.agentWrite
  split
  · unfold State.localWrite
    split
    · exact memOk_write _ _ h
    · exact h
  · exact memOk_plainWrite _ _ _ h
  · exact memOk_write _ _ h
  · exact h

end Sys2Proof.Safety
end

