-- ==== Sys2Proof/Tests/Slice0.lean ====
section
/-! SUPPORT. Tests and witnesses: small states that meet the hypotheses of the statements, ill-formed terms that WellFormed refuses,
and results that the spec gives. -/
set_option Elab.async false

namespace Sys2Proof.Tests
open Sys2Proof.Machine Sys2Proof.Safety

/-! ### States -/

/-- A device that serves: every domain on, every stall in service, the clock stepped to 2 s after the start of the frame count, both
images run, USB configured, and all of Plain open. -/
def lit : State :=
  { State.reset with
    time := { TimeBase.reset with stepped := true, anchorT := ns (315964821 * 1000000000) }
    pwr := { Power.reset with domains := BitVec.allOnes 86 }
    stalls := Vector.replicate 64 { Stall.reset with inService := true, aclk := 2000, inboundEnd := 0xFFFF }
    fab := { Fabric.reset with fwLimit := Vector.replicate 32 0x2000, fwAttr := Vector.replicate 32 0x80000002, trained := true }
    wh := { Weigh.reset with ready := true, hallUp := true }
    sec := { Security.reset with ready := true, hallRun := true, whRun := true, phase := .served }
    host := { HostIf.reset with usbConfigured := true, usbAttached := true, usbSpeed := 2, usbProtocol := 3 }
    pins := { Pins.reset with pwrGood := true } }

/-- The clock moved on by t ns of PTP time, and CNT at u. -/
def later (t u : Nat) (s : State) : State :=
  s.modTime fun x => { x with anchorT := x.anchorT + ns t, cnt := BitVec.ofNat 64 u, anchorC := BitVec.ofNat 64 u }

/-- n bytes with little-endian fields (offset, width, value). -/
def fields (n : Nat) (l : List (Nat × Nat × Nat)) : List Byte :=
  l.foldl (fun b p => b.take p.1 ++ natLE p.2.1 p.2.2 ++ b.drop (p.1 + p.2.1)) (List.replicate n 0)

/-- A waiting entry at index 0 with these bytes. -/
def waiting (b : List Byte) : QEntry := ⟨0, b, .waiting, true, true, none, none, false, false, 0, 0, none, 0, 0, false⟩

/-- Queue 0 enabled with 16 entries, class cls, and these entries, for every stall. -/
def queued (cls : Nat) (l : List QEntry) (s : State) : State :=
  s.modQueue 0 fun x => { x with
    cfg := BitVec.ofNat 32 (0x80040001 + cls * 0x4000000), base := 0x20000000, maskLo := 0xFFFFFFFF, maskHi := 0xFFFFFFFF
    entries := l, tail := BitVec.ofNat 12 (l.length % 16) }

/-- A command of queue 0, entry 0, with the descriptor d, at its item 0 of one. -/
def run0 (d : List Byte) : Running := ⟨0, 0, d, 0, none, some 0, 0, [], [none], false, none, [], []⟩

/-- A claim about what an option holds, decided through the option. -/
theorem all1 {α : Type} {o : Option α} {P : α → Prop} (h : ∀ x ∈ o, P x) : ∀ x, o = some x → P x := h

/-- The same for a family of options. -/
theorem all2 {ι α : Type} {o : ι → Option α} {P : ι → α → Prop} (h : ∀ i, ∀ x ∈ o i, P i x) : ∀ i x, o i = some x → P i x :=
  h

/-- A sealed command descriptor, or queue entry, of n bytes. -/
def cmd (n : Nat) (l : List (Nat × Nat × Nat)) : List Byte := reseal (fields n l)

/-- These bytes at an address. -/
def withMem (a : Nat) (bs : List Byte) (s : State) : State := { s with mem := memWrite s.mem a bs }

/-- Mailbox m holds the request `code` with these items, and it is Hall's next. -/
def asked (m : MboxId) (code : Nat) (items : List Byte) (s : State) : State :=
  let t := s.modMb m fun x => { x with
    req := memWrite [] 0 (natLE 2 3 ++ natLE 2 code ++ natLE 2 7 ++ [BitVec.ofNat 8 m.val, 0] ++ natLE 4 items.length ++ natLE 4 0
      ++ items)
    busy := true, seq := 7, phase := .rung }
  { t with host := { t.host with order := [m] } }

/-- Hall's next command is that of mailbox m, with good items. -/
theorem mbRuns {s : State} {m : MboxId} {code : Nat} {allow : Nat → List Byte → Option Bool}
    (h : s.mbTakes m code = true ∧ (s.mb m).items.2 = none ∧ firstFault allow [] (s.mb m).items.1 = none ∧
      (s.sec.ready = true ∨ s.bootTakes code = true)) : MbRuns s m code allow (s.mb m).items.1 :=
  ⟨h.1, Prod.ext rfl h.2.1, h.2.2.1, h.2.2.2⟩

/-- An entry of no work, for the matrix array. -/
def w0 : List Byte := fields 96 []

/-- A stall's vector engine runs r, its registers as at the start. -/
def onVec (r : Running) (s : State) : State := s.modStall 0 fun x => { x with vec := .running r (VecRegs.clear false 0) }

/-- A stall's sequencer runs r, its registers as at the start. -/
def onSeq (r : Running) (s : State) : State := s.modStall 0 fun x => { x with seq := .running r SeqRegs.clear }

/-- The entry stands at that engine of stall 0. -/
def placedOn (g : Engine) (e : QEntry) : QEntry := { e with phase := .placed 0 g, stall := some 0 }

/-- A command with UNORD and one item, whose gate word is met. -/
def unordRun : Running := { run0 (cmd 64 [(4, 1, 2)]) with item := none, items := some [⟨0, 1, 0x20000100⟩] }

def unordVec : State := withMem 0x20000103 [0x80] (onVec unordRun (queued 0 [placedOn .vector (waiting (cmd 96 [(4, 1, 2)]))] lit))

def unordSeq : State := withMem 0x20000103 [0x80] (onSeq unordRun (queued 0 [placedOn .sequencer (waiting (cmd 96 [(4, 1, 2)]))] lit))

/-- A vector command in queue 0. -/
def vecEntry : QEntry := waiting (cmd 96 [(0, 1, 1)])

/-- An entry whose MODEL no stall holds. -/
def modelEntry : QEntry := waiting (cmd 96 [(80, 2, 5)])

/-- A plan at 20 00_0000h, of the air slot of cell 0 with the absolute number k. -/
def planOf (k : Int) : PlanReg := ⟨(lit.frameTiming 0).air k, 0x20000000, 0, 0⟩

/-- Cell 0 runs, and the plan of its next slot, of no entries, is registered. -/
def planned : State :=
  withMem 0x20000000 (cmd 64 [])
    ((lit.modCell 0 fun x => { x with running := true, lastSlot := some 0 }).modTime fun x =>
      { x with plans := vset x.plans 0 [planOf 1] })

/-- A block on its way; final for a reason where one is given. -/
def block (final : Option Byte) : UlBlock := ⟨final, some true, some ([], []), none, .none, none, false, none⟩

/-- A transmission of 24 bits. -/
def tx0 : SchTx := ⟨24, 60, 410, 2, 1, 0, false, 0, 0⟩

/-- An uplink slot with one PUSCH transport block of one block. -/
def ulSlotOf (final : Option Byte) : UlSlot := ⟨⟨0, 0⟩, [⟨1, 1, 0, some tx0, [block final], false, none⟩], false, false, false, [], none⟩

/-- Cell 0 runs, with that slot on its way. -/
def uplink (final : Option Byte) (s : State) : State :=
  s.modCell 0 fun x => { x with configured := true, running := true, ul := [ulSlotOf final] }

/-- Cell 0 delivers on queue pair 3, which is up. -/
def overQp (s : State) : State :=
  (s.modCell 0 fun x => x.set .delivery 3).modQp 3 fun x => { x with configured := true }

/-- Every port's link is up and it serves. -/
def linked (s : State) : State :=
  (List.finRange 4).foldl (fun s p => s.modPort p fun x => { x with ctrl := 0x80012580, fecLock := true, linkUp := true }) s

/-- A downlink slot of one allocation. -/
def dlSlotOf : DlSlot := ⟨⟨0, 0⟩, [⟨1, 0, 1, 0, false, none, [], []⟩], false, true, (false, false), [], true, List.range 14, [], false, []⟩

def downlink (s : State) : State := s.modCell 0 fun x => { x with configured := true, running := true, dl := [dlSlotOf] }

/-- The item TARGET or CELL of a request: cell 0. -/
def forCell : List Byte := itemBytes 0x101 [0]

/-- Cell 0 learns from its site, with a label and background work done since its last step. -/
def trained : State :=
  lit.modCell 0 fun x => { (x.set .adaptMode 1).set .adaptKeep 1 with
    adapt := { x.adapt with work := 1 }, labels := [⟨0, ⟨0, 0⟩, 0, 0⟩] }

/-- Engine g of stall 0 is reserved for the entry with these bytes. -/
def reservedOn (g : Engine) (b : List Byte) : State :=
  (queued 0 [{ waiting b with phase := .placed 0 g, stall := some 0 }] lit).reserveEngine 0 g 0 0

def onEngine (g : Engine) (b : List Byte) : QEntry := { waiting b with phase := .placed 0 g, stall := some 0 }

/-- A good matrix command: one row, one column, one product, of INT8 with INT32 results. -/
def goodMx : List Byte :=
  cmd 96 [(3, 1, 10), (24, 4, 16), (28, 4, 32), (44, 2, 1), (46, 2, 1), (48, 2, 1), (50, 2, 1), (52, 2, 1), (54, 2, 1)]

/-- A good vector command of one instruction. -/
def goodVec : List Byte := cmd 96 [(0, 1, 1), (20, 4, 0x1000), (24, 2, 1)]

/-- A good sequencer command of one instruction. -/
def goodSeq : List Byte :=
  cmd 96 [(0, 1, 2), (20, 4, 0x150000), (24, 2, 1), (32, 4, 0x150000), (36, 4, 0x150000), (40, 4, 0x150000), (44, 4, 0x150000)]

/-- A good chain start. -/
def goodChain : List Byte := cmd 96 [(0, 1, 3), (20, 4, 0x20000000), (32, 4, 0x100)]

/-- A good Pass wait. -/
def goodWait : List Byte := cmd 96 [(0, 1, 4)]

/-- Pass 0 enabled. -/
def withPass (s : State) : State :=
  { s with fab := { s.fab with passes := vmod s.fab.passes 0 fun p => { p with en := true, target := 2 } } }

/-- A command of queue 0 with that outcome. -/
def endedRun (d : List Byte) (o : Byte) : Running := { run0 d with outcome := some o }

def onVec' (r : Running) (s : State) : State := s.modStall 0 fun x => { x with vec := .running r (VecRegs.clear false 0) }
def onSeq' (r : Running) (s : State) : State := s.modStall 0 fun x => { x with seq := .running r SeqRegs.clear }
def onMx (r : Running) (s : State) : State := s.modStall 0 fun x => { x with matrix := .running r false }

/-- A command of one item with an ITEM_BUDGET. -/
def budgetRun : Running := run0 (cmd 64 [(58, 1, 1)])

/-- The window of cell 0's reserve, on stall 0, is open. -/
def inWindow (s : State) : State :=
  { s with qm := { s.qm with reserves := [⟨0, 1, 0, 0, 0, ns 1000000000000000000, true, []⟩] } }

/-- A sequencer command of queue 1 that takes interrupts. -/
def victimRun : Running := { run0 (cmd 64 [(0, 1, 2), (52, 1, 1)]) with q := 1 }

def firmEntry : QEntry := { waiting (cmd 96 [(0, 1, 2)]) with eligibleAt := some 0 }

/-- The one stall that the entry's queue admits runs a bulk command that takes interrupts. -/
def firmState : State :=
  ((onSeq' victimRun (queued 0 [firmEntry] lit)).modQueue 0 fun x => { x with maskLo := 1, maskHi := 0 }).modQueue 1 fun x =>
    { x with cfg := 0x84040001 }

/-- A good matrix command with an ITEM_BUDGET. -/
def budgetMx : List Byte :=
  cmd 96 [(3, 1, 10), (24, 4, 16), (28, 4, 32), (44, 2, 1), (46, 2, 1), (48, 2, 1), (50, 2, 1), (52, 2, 1), (54, 2, 1), (58, 1, 1)]

/-- A chain of queue 0 that waits on a remote transfer. -/
def remoteChain : Chain :=
  { origin := .command (run0 goodChain), cls := 2, localBase := 0, localEnd := 256, cur := fields 32 [(4, 4, 16), (8, 8, 0x1000000000)]
    next := 0, fetched := [], phase := .moving 0 0, expired := false, started := 0 }

def remoteState : State :=
  (queued 2 [onEngine (.dma 0) goodChain] lit).modStream 0 0 fun y => { y with chain := some remoteChain, preempt := some 0 }

/-- A vector command with its program at 1000h, which may read 2000h-2FFFh and write 3000h-3FFFh. -/
def vecRun : Running :=
  run0 (cmd 64 [(0, 1, 1), (20, 4, 0x1000), (24, 2, 4), (32, 4, 0x2000), (36, 4, 0x3000), (40, 4, 0x3000), (44, 4, 0x4000)])

/-- The word of a vector instruction: operation, type, and the bits below. -/
def vw (op ty low : Nat) : Nat := op * 2 ^ 56 + ty * 2 ^ 53 + low

def vecRegs : VecRegs := VecRegs.clear false 0

/-- Stall 0 is at that instruction with the registers x. -/
def vecSt (w : Nat) (x : VecRegs) : State :=
  withMem (stallBase 0 + 0x1000) (natLE 8 w) (lit.modStall 0 fun y => { y with vec := .running vecRun x })

theorem vecAt {w : Nat} {x : VecRegs}
    (h : memNat (stallView (vecSt w x).mem 0) ((progOf vecRun.desc).prog + 8 * x.pc) 8 = w) :
    VecAt (vecSt w x) 0 vecRun x 0 (vecInstrOf w) := ⟨rfl, rfl, rfl, congrArg vecInstrOf h⟩

theorem both {P : Nat → Nat → Prop} (h : ∀ j, j < 16 → ∀ i, i < 64 → P j i) : ∀ j i, j < 16 → i < 64 → P j i :=
  fun j i hj hi => h j hj i hi

/-- A sequencer command with its program at 152000h, which may load words 0-15 and store words 16-31. -/
def seqRun : Running :=
  run0 (cmd 64 [(0, 1, 2), (20, 4, 0x152000), (24, 2, 4), (32, 4, 0x150000), (36, 4, 0x150040), (40, 4, 0x150040), (44, 4, 0x150080),
    (52, 1, 1)])

/-- Stall 0 is at that sequencer instruction with the registers x. -/
def seqSt (w : Nat) (x : SeqRegs) : State :=
  withMem (stallBase 0 + 0x152000) (natLE 4 w) (lit.modStall 0 fun y => { y with seq := .running seqRun x })

theorem seqAt {w : Nat} {x : SeqRegs} {c : Nat}
    (h : (seqSt w x).seqCode (progOf seqRun.desc) (stallView (seqSt w x).mem 0) x = some (c, BitVec.ofNat 32 w, false)) :
    SeqAt (seqSt w x) 0 seqRun (x.fetched c (BitVec.ofNat 32 w) false) 0 c (BitVec.ofNat 32 w) :=
  ⟨⟨x, false, rfl, h, rfl⟩, rfl, rfl⟩

/-- Every index register is 100h, beyond the extents. -/
def seqFar : SeqRegs := { SeqRegs.clear with ix := Vector.replicate 8 0x100 }

theorem memOk {s : State} (h : Mem.wf s.mem = true) : MemOk s := h

/-- A history request, sealed. -/
def hreq (l : List (Nat × Nat × Nat)) : List Byte :=
  setBytes (fields 32 l) 30 (natLE 2 (crc16 ((fields 32 l).take 30)).toNat)

/-- The history cache is on, its records at the start of Plain, and Hall's request r waits in ring 0. -/
def histSt (r : List Byte) (s : State) : State :=
  s.modHist fun h => { h with en := true, init := true, trackBase := 0x20000000, rings := vset h.rings 0 [⟨r, true, 0⟩] }

/-- Track 0 is attached, and its first key and value pages map frame 0. -/
def tracked (s : State) : State :=
  withMem 0x20000307 [0x80] (withMem 0x20000207 [0x80] (withMem 0x20000000 [1] s))

/-- A request in progress. -/
def running (b : List Byte) : HistRun :=
  { cls := 0, bytes := b, waits := [], pins := [], ctx := [], tok := 8, lk := 64, writes := [], copies := [], result := 0, shot := false }

def inProgress (r : HistRun) (s : State) : State := s.modHist fun h => { h with en := true, active := [r] }

/-- A chain of a command of queue 0, which may touch the first 256 bytes of its stall. -/
def chainOf' (budget : Nat) (cur : List Byte) (phase : ChainPhase) : Chain :=
  { origin := .command (run0 (cmd 64 [(0, 1, 3), (58, 1, budget)])), cls := 0, localBase := 0, localEnd := 0x100, cur := cur
    next := 0x20000000, fetched := [], phase := phase, expired := false, started := 0 }

def withChain (c : Chain) (s : State) : State := s.modStream 0 0 fun y => { y with chain := some c }

/-- The chain is ready, and its next descriptor d stands in Plain. -/
def dmaSt (d : List Byte) : State := withMem 0x20000000 d (withChain (chainOf' 0 [] .ready) lit)

theorem dmaNext {s : State} {n : StallId} {u : StreamId} {c : Chain}
    (h : chainOn s n u = some c ∧ c.phase = .ready ∧ (s.takeDesc n c).2 = (s.takeDesc n c).1.cur ∧
      2 ≤ (s.takeDesc n c).1.cur.length ∧ dmaOk (dmaOf (s.takeDesc n c).1.cur) = true) :
    DmaNext s n u c (s.takeDesc n c).1 (dmaOf (s.takeDesc n c).1.cur) :=
  ⟨h.1, h.2.1, Prod.ext rfl h.2.2.1, h.2.2.2.1, rfl, h.2.2.2.2⟩

/-- COPY of 16 bytes from the DRAM into the stall. -/
def copyDesc : List Byte := fields 32 [(2, 2, 1), (4, 4, 16), (8, 8, 0x400000000), (16, 8, 0x10000000)]

/-- FILL of 16 bytes of the DRAM. -/
def fillDesc : List Byte := fields 32 [(0, 1, 1), (2, 2, 1), (4, 4, 16), (16, 8, 0x400000000)]

/-- Pass 0 of a joined set of devices 0 and 1, with these generations. -/
def joinedPass (w : List PassWave) (s : State) : State :=
  let t := { s with join := { s.join with members := 3 } }
  { t with fab := { t.fab with passes := vmod t.fab.passes 0 fun p => { p with en := true, joined := true, target := 2, waves := w } } }

/-- Test mode: two streams hold all the slots of stall 0 between them, and stream 0's chain started later. -/
def cyclic : State :=
  ((withChain { chainOf' 0 copyDesc (.moving 0 0) with started := 1 } lit).modStream 0 1 fun y => { y with
    chain := some (chainOf' 0 copyDesc (.moving 0 0)) }).modStall 0 fun x => { x with dmaMode := 2, dmaResv := Vector.replicate 8 0 }

theorem stamp_near (s : State) (p : PortId) : s.now + (vget s.time.asym p).toInt - 262144 ≤ s.stamp p ∧
    s.stamp p ≤ s.now + (vget s.time.asym p).toInt + 262144 := by
  have := Nat.mod_lt (s.freeBits 0).toNat (show 0 < 524289 by decide)
  unfold State.stamp State.stampAt
  constructor <;> omega

theorem stamp_before {s : State} {p : PortId} {i : Int} (h : nsOf (s.now + (vget s.time.asym p).toInt + 262144) < nsOf i) :
    nsOf (s.stamp p) < nsOf i := by
  have := (stamp_near s p).2
  unfold nsOf at *
  omega

theorem stamp_after {s : State} {p : PortId} {i : Int} (h : nsOf i ≤ nsOf (s.now + (vget s.time.asym p).toInt - 262144)) :
    nsOf i ≤ nsOf (s.stamp p) := by
  have := (stamp_near s p).1
  unfold nsOf at *
  omega

/-- 100 µs into frame 200. -/
def inFrame : State := linked (later 100000 0 lit)

/-- A U-plane packet of cell 0, stream 0, for slot 0 and symbol 0 of a frame. -/
def packet (frame : Byte) (l : List USection) : UplaneFrame :=
  { fcsOk := true, headerOk := true, vid := 0, bytes := 100, eaxc := 0, seqId := 0, dataDirection := false, payloadVersion := 1
    frameId := frame, subframeId := 0, slotId := 0, symbol := 0, sections := l }

/-- A section of one PRB with that exponent. -/
def oneSection (e : Nat) : USection := ⟨0, 1, 9, true, [⟨e, List.replicate 24 1⟩]⟩

/-- Slot 0 of frame 200 at ingest, with one PRB requested, or none. -/
def ingest (asked : Bool) : IngSlot := IngSlot.fresh ⟨200, 0⟩ (if asked then [⟨false, 0, 0, 1, 0, 14⟩] else []) []

def rxSt (x : IngSlot) : State := inFrame.modCell 0 fun y => { y with configured := true, running := true, ing := [x] }

theorem rxGood {s : State} {p : PortId} {f : UplaneFrame}
    (h : s.portOn p = true ∧ s.domainOn 73 = true ∧ f.fcsOk = true ∧ (s.port p).mode = 1 ∧ f.bytes ≤ (s.port p).mtu ∧
      f.headerOk = true ∧ f.vid = (s.port p).vid ∧ s.eaxcOk p f.eaxc = true) : RxGood s p f :=
  ⟨h.1, h.2.1, h.2.2.1, h.2.2.2.1, h.2.2.2.2.1, h.2.2.2.2.2.1, h.2.2.2.2.2.2.1, h.2.2.2.2.2.2.2⟩

/-- A U-plane section of one PRB and all symbols. -/
def launchEntry : LaunchEntry := ⟨1, 0, 0, 14, 0, 1, 0x20000000, 0, 1⟩

/-- A downlink slot, handed over or not, with that section. -/
def dlOf (a : AirSlot) (closed : Bool) : DlSlot := ⟨a, [⟨1, 0, 1, 0, false, none, [], []⟩], false, closed, (false, false), [launchEntry], false, [], [], false, []⟩

def dlSt (d : DlSlot) : State := inFrame.modCell 0 fun y => { y with configured := true, running := true, dl := [d] }

/-- Launch staging of port 0 is full. -/
def fullStaging : StagedFrame := ⟨1, ⟨0, 0⟩, 0, 1, 0, 0, 0, List.replicate 262144 0, 0⟩

theorem full_bytes (x : EthPort) (f : StagedFrame) (h : x.staged = [f]) (hf : 262144 ≤ f.bytes.length) : 262144 < x.stagedBytes := by
  simp only [EthPort.stagedBytes, h, frameOverhead, List.map_cons, List.map_nil, List.sum_cons, List.sum_nil]
  omega

/-- Mailbox m's page holds the request of SEQ 7, not rung. -/
def paged (m : MboxId) (code : Nat) (s : State) : State :=
  s.modMb m fun x => { x with
    req := memWrite [] 0 (natLE 2 3 ++ natLE 2 code ++ natLE 2 7 ++ [BitVec.ofNat 8 m.val, 0] ++ natLE 8 0) }

/-- TARGET of a request. -/
def target (k : Nat) : List Byte := itemBytes 1 (natLE 2 k)

/-- Queue pair 3 is configured. -/
def withQp (s : State) : State := s.modQp 3 fun x => { x with configured := true }

/-- An item of n bytes. -/
def item (id n v : Nat) : List Byte := itemBytes id (natLE n v)

/-- Cell 0 is configured. -/
def cell0 (s : State) : State := s.modCell 0 fun x => { x with configured := true }

/-- All cells are configured with the widest carrier and nine streams. -/
def wide (s : State) : State :=
  (List.finRange 13).foldl (fun s k =>
    s.modCell ⟨k.val + 1, Nat.lt_trans (Nat.succ_lt_succ k.isLt) (by decide)⟩ fun x =>
      ((((({ x with configured := true }).set .mu 1).set .nPrb 273).set .nUl 9).set .nDl 1).set .port (k.val % 4)) s

theorem overPlan {s : State} (h : plainSize < ((s.configuredCells.map s.cell).map Cell.queueBytes).sum) : s.queuesFit = false := by
  simp only [State.queuesFit, decide_eq_false_iff_not]
  omega

theorem inPlan {s : State} (h : ((s.configuredCells.map s.cell).map Cell.queueBytes).sum = 0) : s.queuesFit = true := by
  simp only [State.queuesFit, h, Nat.zero_le, decide_true]

/-- A linear system of devices 0 and 1 over link 0. -/
def joined (s : State) : State :=
  s.modJoin fun j => { j with members := 3, linkMap := ⟨#[1, 0xFF, 0xFF], rfl⟩ }

/-- Partner 1, cells 1 (cell 0). -/
def forPartner (cells : Nat) : List Byte := item 0xD07 1 1 ++ item 0xD08 2 cells

theorem deviceClass_lt : deviceClass < 16 := by unfold deviceClass; split <;> decide

/-- Cell 0 has a frame timing, the host writes the plan of a slot 10 ms ahead, and plans of l are registered. -/
def planning (l : List PlanReg) (s : State) : State :=
  s.modTime fun x => { x with
    timing := vset x.timing 0 (some ⟨1, 20, 0, 0⟩), planSlot := 0xC900, plans := vset x.plans 0 l }

/-- That plan. -/
def plan201 : PlanReg := ⟨⟨201, 0⟩, 0x1000, 315964821010000000, 315964821009980000⟩

/-- TIME_IO_SEL holds v. -/
def selecting (v : Word) (s : State) : State := s.modTime fun x => { x with ioSel := v }

/-- The step requests l wait, and whether the clock has been stepped. -/
def steps (l : List (Option MboxId)) (b : Bool) : State := State.reset.modTime fun x => { x with stepPend := l, stepped := b }

def stepAsked : State → State := fun s => s.modMb 0 fun x => { x with phase := .taken false 51 none 0 0 [] }

/-- Port 0's link is up and it is the source; a Sync and a Delay_Req have been exchanged. -/
def exchanged (stepped : Bool) (offsets : List Int) : State :=
  (linked lit).modTime fun x => { x with stepped := stepped, servo := { x.servo with
    sync := some ⟨0, some 0, 0⟩, delayReq := some (1, 0), offsets := offsets } }

def delayResp (origin : Int) : PtpMsg := ⟨true, 1, false, origin, 0⟩

def lockedServo (s : State) : State := s.modTime fun x => { x with servo := { x.servo with locked := true } }

/-- A sample of 0 °C is below every threshold. -/
theorem cold {d : Int} (h : 0 < 95 + d) : tempAtLeast 0 d = false := by
  have h1 : (0 : BitVec 12).toInt = 0 := by decide
  unfold tempAtLeast tjmax; rw [h1]; split <;> simp <;> omega

/-- A sample of 255 °C is above every threshold. -/
theorem boiling : tempAtLeast 0x7FF 10 = true := by unfold tempAtLeast tjmax; split <;> decide

def stallWith (f : Stall → Stall) : State := lit.modStall 0 f

def powerWith (f : Power → Power) : State := lit.modPwr f

/-- The security block and Weighhouse as f makes them. -/
def secWith (f : Security → Security) : State := lit.modSec f
def whWith (f : Weigh → Weigh) : State := { lit with wh := f lit.wh }

def inRom (s : State) : State := s.modSec fun x => { x with phase := .rom }
def inBoot : State := secWith fun x => { x with phase := .booting, ready := false }
def restarting : State := { lit with wh := { lit.wh with restart := some ⟨-ns 100000000, true, 1⟩, ready := false } }

/-- Length of staged data: none. -/
def staged0 : List Byte := item 0x903 4 0
def challenged (i : Int) (s : State) : State := s.modSec fun x => { x with challenge := some ([], i) }

/-- A classical block of the scheduler's path, judged at the start of Plain. -/
def blk : JudgedBlock := ⟨⟨0, ⟨0, 0⟩, 0, 0⟩, false, false, .scheduler, 0x20000000, 0, 0, .other 0, [], none, 0, 0, 0, []⟩

theorem blk_open (b : JudgedBlock) (h : b.verdictAddr = 0x20000000) : VerdictOpen lit b := ⟨0, by rw [h]; decide +kernel⟩

def suspected : State := lit.modStall 0 fun x => { x with suspect := true }

def demotedPath (f : PathState → PathState) (s : State) : State := s.modPath 0 .scheduler fun x => f { x with demoted := true }

/-- The uplink slot after that: its blocks are no shadow samples. -/
def slot1 : UlSlot := { ulSlotOf none with air := ⟨0, 1⟩ }
def onSlot1 : State := lit.modCell 0 fun x => { x with configured := true, running := true, ul := [slot1] }

/-- A learned LLR block of it, whose user's channel estimate has a verdict word. -/
def estimated : JudgedBlock :=
  { blk with ref := ⟨0, ⟨0, 1⟩, 0, 0⟩, learned := true, path := .receiver, estimateAddr := 0x20000040 }

/-- The completion record of the command that produced the block has been written. -/
def recorded : State := withMem 0x20000100 (fields 32 [(3, 1, 0x80)]) lit

/-- The disagreement slots noted of the scheduler's path. -/
def noted (l : List (Int × List StallId)) : State := lit.modPath 0 .scheduler fun x => { x with disagree := l }

def slotNow : Int := lit.procSlot blk

/-- A command of the running cell 0 on stall 0's vector engine, for long, with slots of earlier watchdog trips. -/
def watched (l : List Int) : State := (onVec (run0 (cmd 96 [])) (uplink none lit)).modCell 0 fun x => { x with wdSlots := l }

def wdSlot : Int := (watched []).commandSlot 0 (descOf (cmd 96 []))

/-- Hall has kicked last at i, and was reset at the instants l. -/
def kicked (i : Int) (l : List Int) : State := whWith fun x => { x with hallKick := some (5, i), hallResets := l }

def whKicked (i : Int) : State := whWith fun x => { x with whKick := some i }

/-- Golden tick 0 of 256 begins, with k collisions of stall 0's frame. -/
def golden (k : Nat) (s : State) : State := (later 120000000 0 s).modStall 0 fun x => { x with golden := { x.golden with collisions := k } }

def goldenRun (f : Nat) : State := stallWith fun x => { x with golden := { x.golden with running := true, failures := f } }

/-- Stall 0 is out of service since the last of l. -/
def outSince (l : List Int) : State := stallWith fun x => { x with out := true, inService := false, outTimes := l }

/-- Link 0 to device 1 is up. -/
def linkUp : State := (joined lit).modJoin fun j => { j with links := vmod j.links 0 fun x => { x with up := true } }

/-- Device 1 is the partner, for cell 0. -/
def paired (s : State) : State := s.modJoin fun j => { j with pair := some ⟨1, 1, false, false⟩ }

def silent (s : State) : State := s.modJoin fun j => { j with beats := Vector.replicate 16 (-ns 150000) }

/-- This device and device 1 compare cell 0, which has one audit record. -/
def compared (shadow : Bool) : State :=
  (lit.modJoin fun j => { j with lockstep := some ⟨1, shadow, 1, false, [], []⟩ }).modCell 0 fun x => { x with
    audits := [⟨⟨0, 0⟩, 0, 0, 0, 0⟩] }

def audited : State := lit.modCell 0 fun x => { x with audit := true }

/-- Link 0 as f makes it. -/
def linkWith (f : VlLink → VlLink) : State := linkUp.modJoin fun j => { j with links := vmod j.links 0 f }

/-- Queue pair 3 is up on port 0 in RoCE mode, as f makes it. -/
def onQp (f : QueuePair → QueuePair) : State :=
  ((linked lit).modPort 0 fun x => { x with ctrl := 0x80022580 }).modQp 3 fun x => f { x with configured := true }

/-- It reaches device 1. -/
def memberQp (s : State) : State := s.modJoin fun j => { j with members := 3, qpMap := vset j.qpMap 1 3 }

def opened (x : QueuePair) : QueuePair := { x with regions := [⟨0x400000000, 4096, 7⟩] }

def request : RoceReq := ⟨0, 0, 0, 0, 0, []⟩

/-- It awaits an acknowledgement, after r repetitions. -/
def unacked (r : Nat) (x : QueuePair) : QueuePair := { x with sent := [request], retries := r, sentAt := -ns 1024000 }

/-! ### Witnesses: states and operands that meet the hypotheses of each clause of a statement, clause by clause in its order -/

theorem wit_EntriesBecomeReadyAndAreDispatched :
    (∃ (q : QueueId) (i : Fin 4096) (e : QEntry) (s : State), s.entry q i = some e ∧ e.phase = EntryPhase.waiting ∧ e.launched = false ∧
    s.launchReached e.desc = true) ∧
    (∃ (q : QueueId) (i : Fin 4096) (e : QEntry) (s : State), s.entry q i = some e ∧ e.phase = EntryPhase.waiting ∧ e.gateMet = false ∧ ∀ (p :
    ℤ), e.lastPoll = some p → ns 100 ≤ s.now - p) ∧
    (∃ (q : QueueId) (i : Fin 4096) (e : QEntry) (n : StallId) (r : Running) (x : VecRegs) (k : ℕ) (s : State) (s' : State), s.entry q i = some
    e ∧ e.phase = EntryPhase.placed n Engine.vector ∧ (s.stall n).vec = VecEngine.running r x ∧ r.item = none ∧ r.outcome = none ∧
    e.desc.unord = true ∧ (∀ (p : ℤ), e.lastPoll = some p → ns 100 ≤ s.now - p) ∧ s.unordItem r.unrun = (some k, s')) ∧
    (∃ (q : QueueId) (i : Fin 4096) (e : QEntry) (n : StallId) (r : Running) (x : SeqRegs) (k : ℕ) (s : State) (s' : State), s.entry q i = some
    e ∧ e.phase = EntryPhase.placed n Engine.sequencer ∧ (s.stall n).seq = SeqEngine.running r x ∧ r.item = none ∧ r.outcome = none ∧
    e.desc.unord = true ∧ (∀ (p : ℤ), e.lastPoll = some p → ns 100 ≤ s.now - p) ∧ s.unordItem r.unrun = (some k, s')) ∧
    (∃ (q : QueueId) (i : Fin 4096) (e : QEntry) (t0 : ℤ) (s : State), s.entry q i = some e ∧ e.phase = EntryPhase.waiting ∧ e.eligibleAt =
    some t0 ∧ t0 + ns ↑(fld s.qm.timing 31 16) ≤ s.now) ∧
    (∃ (n : StallId) (g : Engine) (q : QueueId) (e : QEntry) (s : State), (∀ (p : QueueId) (x : QEntry), (s.queue p).eligible = some x →
    x.fields.model = 0 ∨ x.missed = true) ∧ (s.stall n).engineFree g = true ∧ s.choose n g = some (q, e)) ∧
    (∃ (n : StallId) (g : Engine) (q : QueueId) (e : QEntry) (s : State) (p : QueueId) (x : QEntry), s.choose n g = some (q, e) ∧ (s.queue
    p).eligible = some x ∧ s.mayRun n g p x = true) ∧
    (∃ (g : Engine) (q : QueueId) (e : QEntry) (s : State), (s.queue q).eligible = some e ∧ engineOf e.bytes = g ∧ e.missed = false ∧
    e.fields.model ≠ 0 ∧ (∀ (m : StallId), s.qualifies q e m = false) ∧ ∀ (p : QueueId) (x : QEntry), p ≠ q → (s.queue p).eligible = some
    x → x.fields.model = 0 ∨ x.missed = true) :=
  ⟨⟨0, 0, { waiting w0 with launched := false }, queued 0 [{ waiting w0 with launched := false }] lit, by decide +kernel⟩,
   ⟨0, 0, { waiting w0 with gateMet := false }, queued 0 [{ waiting w0 with gateMet := false }] lit, by decide +kernel, by decide +kernel, by decide +kernel, all1 (by decide +kernel)⟩,
   ⟨0, 0, placedOn .vector (waiting (cmd 96 [(4, 1, 2)])), 0, unordRun, VecRegs.clear false 0, 0, unordVec,
    (unordVec.unordItem unordRun.unrun).2, by decide +kernel, by decide +kernel, by decide +kernel, by decide +kernel, by decide +kernel, by decide +kernel, all1 (by decide +kernel), Prod.ext (by decide +kernel) rfl⟩,
   ⟨0, 0, placedOn .sequencer (waiting (cmd 96 [(4, 1, 2)])), 0, unordRun, SeqRegs.clear, 0, unordSeq,
    (unordSeq.unordItem unordRun.unrun).2, by decide +kernel, by decide +kernel, by decide +kernel, by decide +kernel, by decide +kernel, by decide +kernel, all1 (by decide +kernel), Prod.ext (by decide +kernel) rfl⟩,
   ⟨0, 0, { waiting w0 with eligibleAt := some 0 }, 0, queued 0 [{ waiting w0 with eligibleAt := some 0 }] lit, by decide +kernel⟩,
   ⟨0, .vector, 0, vecEntry, queued 0 [vecEntry] lit, all2 (by decide +kernel), by decide +kernel⟩,
   ⟨0, .vector, 0, vecEntry, queued 0 [vecEntry] lit, 0, vecEntry, by decide +kernel⟩,
   ⟨.matrix, 0, modelEntry, queued 0 [modelEntry] lit, by decide +kernel, by decide +kernel, by decide +kernel, by decide +kernel, by decide +kernel, fun p x hp => all1 (P := fun x : QEntry => x.fields.model = 0 ∨ x.missed = true) ((show ∀ p : QueueId, p ≠ 0 → ∀ x ∈ (State.queue (queued 0 [modelEntry] lit) p).eligible, x.fields.model = 0 ∨ x.missed = true from by decide +kernel) p hp) x⟩⟩

theorem wit_UnstartedEntriesAreDiscarded :
    (∃ (q : QueueId) (i : Fin 4096) (e : QEntry) (s : State), s.entry q i = some e ∧ e.phase = EntryPhase.waiting ∧ s.time.stepped = true ∧
    e.desc.discardNs ≠ 0 ∧ s.reached (launchTime s.now e.desc + ns ↑e.desc.discardNs) = true ∧ e.desc.stage ≠ 0) ∧
    (∃ (q : QueueId) (i : Fin 4096) (e : QEntry) (s : State), s.entry q i = some e ∧ e.phase = EntryPhase.waiting ∧ s.time.stepped = true ∧
    e.desc.discardNs ≠ 0 ∧ s.reached (launchTime s.now e.desc + ns ↑e.desc.discardNs) = true ∧ e.desc.stage = 0) ∧
    (∃ (q : QueueId) (s : State), (s.queue q).en = true) ∧
    (∃ (q : QueueId) (s : State), (s.queue q).en = false) :=
  ⟨⟨0, 0, waiting (fields 96 [(16, 4, 1), (60, 2, 256)]), queued 0 [waiting (fields 96 [(16, 4, 1), (60, 2, 256)])] lit, by decide +kernel⟩,
   ⟨0, 0, waiting (fields 96 [(16, 4, 1)]), queued 0 [waiting (fields 96 [(16, 4, 1)])] lit, by decide +kernel⟩,
   ⟨0, queued 0 [] lit, by decide +kernel⟩,
   ⟨0, State.modQueue lit 0 fun x => { x with cfg := 0 }, by decide +kernel⟩⟩

theorem wit_QueuesAreEnabledAndFilled :
    (∃ (q : QueueId) (v : Word) (s : State), (s.queue q).en = true ∧ (s.queue q).fallback = false ∧ (fld v 23 12 + (s.queue q).size - (s.queue
    q).tail.toNat) % (s.queue q).size ≤ (s.queue q).room ∧ (s.queue q).tail.toNat < (s.queue q).size ∧ (∀ (m : StallId), (s.queue
    q).lastStall = some m → (s.stall m).inService = true) ∧ ∀ e ∈ (s.queue q).entries, ∀ (m : StallId), e.stall = some m → (s.stall
    m).inService = true) ∧
    (∃ (q : QueueId) (v : Word) (s : State), (s.queue q).en = true ∧ (s.queue q).room < (fld v 23 12 + (s.queue q).size - (s.queue
    q).tail.toNat) % (s.queue q).size) ∧
    (∃ (q : QueueId) (v : Word) (s : State), (s.queue q).en = true ∧ (s.queue q).fallback = true ∧ s.reserveOf (s.queue q).cell = none ∧ (fld v
    23 12 + (s.queue q).size - (s.queue q).tail.toNat) % (s.queue q).size = 1 ∧ 1 ≤ (s.queue q).room ∧ (s.queue q).tail.toNat < (s.queue
    q).size) :=
  ⟨⟨0, 0x1000, queued 0 [] lit, by decide +kernel⟩,
   ⟨0, 0, queued 0 [waiting w0, waiting w0] lit, by decide +kernel⟩,
   ⟨0, 0x1000, (queued 0 [] lit).modQueue 0 fun x => { x with cfg := x.cfg ||| 0x20000000 }, by decide +kernel⟩⟩

theorem wit_PlansReleaseAndReservesOpen :
    (∃ (c : CellId) (k : ℤ) (p : PlanReg) (es : List (List Byte)) (s : State), s.time.stepped = true ∧ (s.cell c).running = true ∧ (s.cell
    c).lastSlot = some k ∧ s.standby c = false ∧ s.reached (s.releaseAt c (k + 1)) = true ∧ List.find? (fun (p : PlanReg) => p.slot ==
    (s.frameTiming c).air (k + 1)) (vget s.time.plans c) = some p ∧ checkOk (s.agentRead Source.qm (BitVec.toNat p.addr) 64).1 = true ∧
    (planHeader (s.agentRead Source.qm (BitVec.toNat p.addr) 64).1).count ≤ 8192 ∧ (s.readEntries (BitVec.toNat p.addr + 64) (planHeader
    (s.agentRead Source.qm (BitVec.toNat p.addr) 64).1).count).1 = es ∧ s.planFits es = true) ∧
    (∃ (c : CellId) (k : ℤ) (s : State), s.time.stepped = true ∧ (s.cell c).running = true ∧ (s.cell c).stopping = false ∧ (s.cell c).lastSlot
    = some k ∧ s.standby c = false ∧ s.reached (s.releaseAt c (k + 1)) = true ∧ ∀ p ∈ vget s.time.plans c, p.slot ≠ (s.frameTiming c).air
    (k + 1)) ∧
    (∃ (c : CellId) (p : PlanReg) (s : State), s.time.stepped = true ∧ (s.cell c).running = false ∧ s.standby c = false ∧ List.find? (fun (p :
    PlanReg) => s.reached (ns p.release)) (vget s.time.plans c) = some p ∧ checkOk (s.agentRead Source.qm (BitVec.toNat p.addr) 64).1 =
    false) ∧
    (∃ (c : CellId) (r : Reserve) (s : State), List.find? (fun (r : Reserve) => r.cell == c && !r.isOpen && s.reached r.openAt && !s.reached
    r.closeAt) s.qm.reserves = some r) :=
  ⟨⟨0, 0, planOf 1, [], planned, by decide +kernel⟩,
   ⟨0, 0, lit.modCell 0 fun x => { x with running := true, lastSlot := some 0 }, by decide +kernel⟩,
   ⟨0, ⟨⟨0, 0⟩, 0x20000000, 0, 0⟩, lit.modTime fun x => { x with plans := vset x.plans 0 [⟨⟨0, 0⟩, 0x20000000, 0, 0⟩] }, by decide +kernel⟩,
   ⟨0, ⟨0, 1, 0, 0, 0, ns 1000000000000000000, false, []⟩,
    { lit with qm := { lit.qm with reserves := [⟨0, 1, 0, 0, 0, ns 1000000000000000000, false, []⟩] } }, by decide +kernel⟩⟩

theorem wit_UplinkBlocksEndAndArePosted :
    (∃ (c : CellId) (a : AirSlot) (s : State), s.reached (s.airStartPlus c a 2) = true) ∧
    (∃ (r : BlockRef) (n : StallId) (e : Engine) (stop : StopPoint) (start : ℤ) (begun : ℤ) (own : Option (List Byte × List Bool)) (b :
    UlBlock) (u : UlUnit) (x : Running) (s : State) (s' : State), s.ulBlock r = some b ∧ s.ulUnit r = some u ∧ u.tx.isSome = true ∧
    s.stopItem n e stop = some (x, begun, s') ∧ (b.decodes own).isSome = true ∧ b.final = none ∧ b.waiting = none ∧ begun ≤ start ∧
    x.start ≤ start ∧ start + ns ↑(1000 * (s.cellDecoded r.cell r.air).get CellParam.decBudget) ≤ s.now) ∧
    (∃ (r : BlockRef) (b : UlBlock) (s : State), s.ulBlock r = some b ∧ b.final ≠ none) ∧
    (∃ (c : CellId) (a : AirSlot) (u : UlSlot) (s : State), s.ulSlot c a = some u ∧ u.isFinal = true ∧ s.shadows c = false ∧ (s.cell c).held =
    [] ∧ s.pathAccepts c a = true ∧ (s.cellDecoded c a).deliveryQp = none) ∧
    (∃ (c : CellId) (a : AirSlot) (u : UlSlot) (q : QpId) (s : State), s.ulSlot c a = some u ∧ u.isFinal = true ∧ s.shadows c = false ∧ (s.cell
    c).held = [] ∧ s.pathAccepts c a = true ∧ (s.cellDecoded c a).deliveryQp = some q) ∧
    (∃ (c : CellId) (a : AirSlot) (u : UlSlot) (s : State), s.ulSlot c a = some u ∧ u.isFinal = true ∧ s.shadows c = false ∧ s.pathAccepts c a
    = false ∧ (s.cell c).held.length < 32) ∧
    (∃ (c : CellId) (a : AirSlot) (b : List Byte) (rest : List (AirSlot × List Byte)) (s : State), (s.cell c).held = (a, b) :: rest ∧
    s.pathAccepts c a = true ∧ (s.cellDecoded c a).deliveryQp = none) :=
  ⟨⟨0, ⟨0, 0⟩, lit, by decide +kernel⟩,
   ⟨⟨0, ⟨0, 0⟩, 0, 0⟩, 0, .vector, ⟨0, 0, 0⟩, 0, 0, none, block none, ⟨1, 1, 0, some tx0, [block none], false, none⟩, run0 w0,
    uplink none (onVec (run0 w0) lit), (((uplink none (onVec (run0 w0) lit)).stopItem 0 .vector ⟨0, 0, 0⟩).get (by decide +kernel)).2.2, by decide +kernel, by decide +kernel, by decide +kernel, rfl, by decide +kernel⟩,
   ⟨⟨0, ⟨0, 0⟩, 0, 0⟩, block (some 1), uplink (some 1) lit, by decide +kernel⟩,
   ⟨0, ⟨0, 0⟩, ulSlotOf (some 0), uplink (some 0) lit, by decide +kernel⟩,
   ⟨0, ⟨0, 0⟩, ulSlotOf (some 0), 3, linked (overQp (uplink (some 0) lit)), by decide +kernel⟩,
   ⟨0, ⟨0, 0⟩, ulSlotOf (some 0), { uplink (some 0) lit with host := HostIf.reset }, by decide +kernel⟩,
   ⟨0, ⟨0, 0⟩, [1], [], lit.modCell 0 fun x => { x with held := [(⟨0, 0⟩, [1])] }, by decide +kernel⟩⟩

theorem wit_DownlinkReportsAndHarqPages :
    (∃ (c : CellId) (a : AirSlot) (d : DlSlot) (s : State), s.shadows c = false ∧ s.reached (s.airStartPlus c a (-1)) = true ∧ s.dlSlot c a =
    some d) ∧
    (∃ (c : CellId) (a : AirSlot) (d : DlSlot) (s : State), s.dlSlot c a = some d ∧ d.sent = true ∧ s.shadows c = false ∧ (s.cell c).held = []
    ∧ s.pathAccepts c a = true ∧ (s.cellDecoded c a).deliveryQp = none) :=
  ⟨⟨0, ⟨0, 0⟩, dlSlotOf, downlink lit, by decide +kernel⟩,
   ⟨0, ⟨0, 0⟩, dlSlotOf, downlink lit, by decide +kernel⟩⟩

theorem wit_AdaptationsStepExportAndImport :
    (∃ (c : CellId) (labels : List BlockRef) (s : State), ((s.cell c).inPlan (s.procNow c)).get CellParam.adaptMode = 1 ∧ 1 ≤ (s.cell c).get
    CellParam.adaptKeep ∧ 0 < (s.cell c).adapt.work ∧ labels ≠ [] ∧ ∀ l ∈ labels, l ∈ (s.cell c).labels) ∧
    (∃ (c : CellId) (s : State), ((s.cell c).inPlan (s.procNow c)).get CellParam.adaptMode = 0) ∧
    (∃ (x : Adapt), x.candidate.length < 2 ^ 32 ∧ (∀ w ∈ x.candidate, w.2.length < 2 ^ 32) ∧ x.journal.length < 2 ^ 32 ∧ x.batches.length < 2 ^
    32 ∧ ∀ b ∈ x.batches, b.2.length < 2 ^ 32) ∧
    (∃ (s : State) (m : MboxId) (l : List MItem) (c : CellId) (a : ℕ) (off : ℕ), MbRuns s m 44 (orItems cellItem adaptItems) l ∧ itemsCell l =
    some c ∧ itemNum l 7 = some a ∧ placeOf a (s.cell c).adapt.export_.length = Place.dram off) ∧
    (∃ (s : State) (m : MboxId) (l : List MItem) (c : CellId), MbRuns s m 44 (orItems cellItem adaptItems) l ∧ itemsCell l = some c ∧ itemNum l
    7 = none) ∧
    (∃ (s : State) (m : MboxId) (l : List MItem) (c : CellId) (bs : List Byte), MbRuns s m 45 (orItems cellItem adaptItems) l ∧ itemsCell l =
    some c ∧ itemVal l 12 = some bs ∧ importAdapt bs = none) ∧
    (∃ (s : State) (m : MboxId) (l : List MItem) (c : CellId) (bs : List Byte) (x : Adapt), MbRuns s m 45 (orItems cellItem adaptItems) l ∧
    itemsCell l = some c ∧ itemVal l 12 = some bs ∧ importAdapt bs = some x ∧ x.journal.length ≤ (s.cell c).get CellParam.adaptKeep ∧
    x.batches.length ≤ (s.cell c).get CellParam.adaptKeep) ∧
    (∃ (s : State) (m : MboxId) (l : List MItem) (c : CellId) (bs : List Byte) (us : List (List (BitVec 16 × List Word))) (x : Adapt) (k :
    BitVec 64) (b : List Byte), MbRuns s m 46 (orItems cellItem adaptItems) l ∧ itemsCell l = some c ∧ itemVal l 12 = some bs ∧
    importAdapt bs = some x ∧ x.batches = [(k, b)] ∧ us.length = 1 ∧ itemNum l 4 = none) :=
  ⟨⟨0, [⟨0, ⟨0, 0⟩, 0, 0⟩], trained, by decide +kernel⟩,
   ⟨0, lit.modCell 0 (·.set .adaptMode 0), by decide +kernel⟩,
   ⟨⟨0, 0, none, [], [], [], 0⟩, by decide +kernel⟩,
   ⟨_, 0, _, 0, 0x400000000, 0, mbRuns (s := asked 0 44 (forCell ++ itemBytes 7 (natLE 8 0x400000000)) lit) (by decide +kernel), by decide +kernel⟩,
   ⟨_, 0, _, 0, mbRuns (s := asked 0 44 forCell lit) (by decide +kernel), by decide +kernel⟩,
   ⟨_, 0, _, 0, [0], mbRuns (s := asked 0 45 (forCell ++ itemBytes 12 [0]) lit) (by decide +kernel), by decide +kernel⟩,
   ⟨_, 0, _, 0, natLE 28 0, ⟨0, 0, none, [], [], [], 0⟩, mbRuns (s := asked 0 45 (forCell ++ itemBytes 12 (natLE 28 0)) lit) (by decide +kernel), by decide +kernel⟩,
   ⟨_, 0, _, 0, natLE 40 (2 ^ 192), [[]], ⟨0, 0, none, [], [], [(0, [])], 0⟩, 0, [],
    mbRuns (s := asked 0 46 (forCell ++ itemBytes 12 (natLE 40 (2 ^ 192))) lit) (by decide +kernel), by decide +kernel⟩⟩

theorem wit_CommandsAreCheckedAndStart :
    (∃ (n : StallId) (q : QueueId) (e : QEntry) (w : MxRow) (s : State), s.reservedEntry n Engine.matrix = some (q, e) ∧ e.desc.opclass ≠ 4 ∧
    mxRefusal e.bytes (s.queue q).cls = none ∧ mxRow (mxOf e.bytes).mode (mxOf e.bytes).fa (mxOf e.bytes).fb = some w ∧ (s.stall
    n).holds50 Engine.matrix (mxExtents (mxOf e.bytes) w) = false) ∧
    (∃ (n : StallId) (q : QueueId) (e : QEntry) (s : State), s.reservedEntry n Engine.vector = some (q, e) ∧ vecRefusal e.bytes (s.queue q).cls
    = none ∧ (s.stall n).holds50 Engine.vector (progExtents (progOf e.bytes) 8) = false) ∧
    (∃ (n : StallId) (q : QueueId) (e : QEntry) (s : State), s.reservedEntry n Engine.sequencer = some (q, e) ∧ seqRefusal e.bytes (s.queue
    q).cls = none ∧ (s.stall n).holds50 Engine.sequencer (progExtents (progOf e.bytes) 4) = false) ∧
    (∃ (n : StallId) (d : StreamId) (q : QueueId) (i : Fin 4096) (e : QEntry) (s : State), (vget (s.stall n).streams d).reserved = some (q, i)
    ∧ s.entry q i = some e ∧ chainRefusal e.bytes (s.queue q).cls = none ∧ (vget (s.stall n).streams d).chain = none ∧ (vget (s.stall
    n).streams d).shadow = none ∧ (s.stall n).holds50 (Engine.dma d) (runningExtents (Engine.dma d) (newRunning s.now q e none [] none)) =
    false) ∧
    (∃ (n : StallId) (q : QueueId) (e : QEntry) (s : State), s.reservedEntry n Engine.matrix = some (q, e) ∧ e.desc.opclass = 4 ∧ waitRefusal
    e.bytes (s.queue q).cls (s.pass (passOf e.desc.passId)).en = none) ∧
    (∃ (n : StallId) (q : QueueId) (e : QEntry) (s : State), s.reservedEntry n Engine.matrix = some (q, e) ∧ e.desc.opclass = 0 ∧ checkOk
    e.bytes = false) ∧
    (∃ (n : StallId) (q : QueueId) (e : QEntry) (s : State), s.reservedEntry n Engine.vector = some (q, e) ∧ checkOk e.bytes = false) ∧
    (∃ (n : StallId) (q : QueueId) (e : QEntry) (s : State), s.reservedEntry n Engine.sequencer = some (q, e) ∧ checkOk e.bytes = false) ∧
    (∃ (n : StallId) (d : StreamId) (q : QueueId) (i : Fin 4096) (e : QEntry) (s : State), (vget (s.stall n).streams d).reserved = some (q, i)
    ∧ s.entry q i = some e ∧ checkOk e.bytes = false) ∧
    (∃ (n : StallId) (q : QueueId) (e : QEntry) (s : State), s.reservedEntry n Engine.matrix = some (q, e) ∧ e.desc.opclass = 4 ∧ checkOk
    e.bytes = false) :=
  ⟨⟨0, 0, onEngine .matrix goodMx, ⟨.int, 32, 32, 1, [10, 2, 0, 1]⟩, reservedOn .matrix goodMx, by decide +kernel⟩,
   ⟨0, 0, onEngine .vector goodVec, reservedOn .vector goodVec, by decide +kernel⟩,
   ⟨0, 0, onEngine .sequencer goodSeq, reservedOn .sequencer goodSeq, by decide +kernel⟩,
   ⟨0, 0, 0, 0, onEngine (.dma 0) goodChain, reservedOn (.dma 0) goodChain, by decide +kernel⟩,
   ⟨0, 0, onEngine .matrix goodWait, withPass (reservedOn .matrix goodWait), by decide +kernel⟩,
   ⟨0, 0, onEngine .matrix (fields 96 []), reservedOn .matrix (fields 96 []), by decide +kernel⟩,
   ⟨0, 0, onEngine .vector (fields 96 [(0, 1, 1)]), reservedOn .vector (fields 96 [(0, 1, 1)]), by decide +kernel⟩,
   ⟨0, 0, onEngine .sequencer (fields 96 [(0, 1, 2)]), reservedOn .sequencer (fields 96 [(0, 1, 2)]), by decide +kernel⟩,
   ⟨0, 0, 0, 0, onEngine (.dma 0) (fields 96 [(0, 1, 3)]), reservedOn (.dma 0) (fields 96 [(0, 1, 3)]), by decide +kernel⟩,
   ⟨0, 0, onEngine .matrix (fields 96 [(0, 1, 4)]), reservedOn .matrix (fields 96 [(0, 1, 4)]), by decide +kernel⟩⟩

theorem wit_CompletionRetiresOrRequeues :
    (∃ (n : StallId) (r : Running) (x : VecRegs) (o : Byte) (s : State), (s.stall n).vec = VecEngine.running r x ∧ r.ended = some o ∧ o ≠
    oYielded) ∧
    (∃ (n : StallId) (r : Running) (x : SeqRegs) (e : QEntry) (ac : ℕ) (dry : ℕ) (s : State), (s.stall n).seq = SeqEngine.running r x ∧ r.ended
    = some oYielded ∧ s.entry r.q r.idx = some e ∧ ac = x.issue + dry) ∧
    (∃ (n : StallId) (r : Running) (b : Bool) (o : Byte) (s : State), (s.stall n).matrix = Matrix.running r b ∧ r.outcome = some o ∧ o ≠
    oYielded) ∧
    (∃ (n : StallId) (r : Running) (b : Bool) (ac : ℕ) (dry : ℕ) (bk : ℕ) (s : State), (s.stall n).matrix = Matrix.running r b ∧ r.outcome =
    none ∧ r.timeOk ac dry bk = true) :=
  ⟨⟨0, endedRun goodVec oDone, VecRegs.clear false 0, oDone, onVec' (endedRun goodVec oDone) lit, by decide +kernel⟩,
   ⟨0, endedRun goodSeq oYielded, SeqRegs.clear, onEngine .sequencer goodSeq, 0, 0,
    onSeq' (endedRun goodSeq oYielded) (queued 0 [onEngine .sequencer goodSeq] lit), by decide +kernel⟩,
   ⟨0, endedRun goodMx oDone, false, oDone, onMx (endedRun goodMx oDone) lit, by decide +kernel⟩,
   ⟨0, run0 goodMx, false, 1000000, 1000000, 0, onMx (run0 goodMx) lit, by decide +kernel⟩⟩

theorem wit_BudgetsAndPreemptionStopCommands :
    (∃ (n : StallId) (r : Running) (x : VecRegs) (stop : StopPoint) (bs : List JudgedBlock) (s : State), (s.stall n).vec = VecEngine.running r
    x ∧ r.outcome = none ∧ r.item = some stop.item ∧ stop.item < r.results.length ∧ (descOf r.desc).budget ≠ 0 ∧ r.itemStart + ns ↑(1000 *
    (descOf r.desc).budget) ≤ s.now ∧ ∀ b ∈ bs, b.path ≠ PathKind.scheduler) ∧
    (∃ (n : StallId) (r : Running) (x : SeqRegs) (stop : StopPoint) (bs : List JudgedBlock) (s : State), (s.stall n).seq = SeqEngine.running r
    x ∧ r.outcome = none ∧ r.item = some stop.item ∧ stop.item < r.results.length ∧ x.mayInterrupt = true ∧ (descOf r.desc).budget ≠ 0 ∧
    r.itemStart + ns ↑(1000 * (descOf r.desc).budget) ≤ s.now ∧ ∀ b ∈ bs, b.path ≠ PathKind.scheduler) ∧
    (∃ (n : StallId) (r : Running) (b : Bool) (w : MxRow) (it : Item) (stop : StopPoint) (bs : List JudgedBlock) (s : State), (s.stall
    n).matrix = Matrix.running r b ∧ r.outcome = none ∧ stop.item < r.results.length ∧ r.results.getD stop.item none = none ∧ mxRow (mxOf
    r.desc).mode (mxOf r.desc).fa (mxOf r.desc).fb = some w ∧ (mxItems (mxOf r.desc) r.items)[stop.item]? = some it ∧ (descOf
    r.desc).budget ≠ 0 ∧ s.mxItemStart n r (mxOf r.desc) w stop.item + ns ↑(1000 * (descOf r.desc).budget) ≤ s.now ∧ ∀ x ∈ bs, x.path ≠
    PathKind.scheduler) ∧
    (∃ (n : StallId) (r : Running) (x : VecRegs) (w : Reserve) (s : State), (s.stall n).vec = VecEngine.running r x ∧ r.ended = none ∧ s.window
    n = some w ∧ (s.queue r.q).cls = 2 ∧ nsOf w.openAt ≤ nsOf r.start ∧ r.start + ns 5000 ≤ s.now) ∧
    (∃ (q : QueueId) (i : Fin 4096) (e : QEntry) (t0 : ℤ) (n : StallId) (r : Running) (s : State), s.entry q i = some e ∧ e.eligibleAt = some
    t0 ∧ e.phase = EntryPhase.waiting ∧ (s.queue q).cls = 0 ∧ t0 + ns ↑(fld s.qm.timing 15 0) ≤ s.now ∧ engineOf e.bytes =
    Engine.sequencer ∧ e.asked = false ∧ s.engineFor q e Engine.sequencer = false ∧ s.chooseVictim q e Engine.sequencer = some (n, r)) ∧
    (∃ (n : StallId) (d : StreamId) (t0 : ℤ) (c : Chain) (r : Running) (e : QEntry) (s : State), (vget (s.stall n).streams d).preempt = some t0
    ∧ (vget (s.stall n).streams d).chain = some c ∧ c.origin = ChainOrigin.command r ∧ c.remote = true ∧ t0 + ns ↑(remoteWaitUs s.qm.ctrl
    * 1000) ≤ s.now ∧ s.entry r.q r.idx = some e) :=
  ⟨⟨0, budgetRun, VecRegs.clear false 0, ⟨0, 0, 0⟩, [], onVec' budgetRun lit, by decide +kernel⟩,
   ⟨0, budgetRun, SeqRegs.clear, ⟨0, 0, 0⟩, [], onSeq' budgetRun lit, by decide +kernel⟩,
   ⟨0, run0 budgetMx, false, ⟨.int, 32, 32, 1, [10, 2, 0, 1]⟩, ((mxItems (mxOf budgetMx) none)[0]?).get (by decide +kernel), ⟨0, 0, 0⟩, [],
    onMx (run0 budgetMx) lit, by decide +kernel⟩,
   ⟨0, run0 [], VecRegs.clear false 0, ⟨0, 1, 0, 0, 0, ns 1000000000000000000, true, []⟩, inWindow (onVec' (run0 []) (queued 2 [] lit)), by decide +kernel⟩,
   ⟨0, 0, firmEntry, 0, 0, victimRun, firmState, by decide +kernel⟩,
   ⟨0, 0, 0, remoteChain, run0 goodChain, onEngine (.dma 0) goodChain, remoteState, by decide +kernel⟩⟩

theorem wit_TableWritesAndSwaps :
    (∃ (n : StallId) (off : BitVec 16) (s : State), s.domainOn ↑n = true ∧ 32768 ≤ off.toNat ∧ off.toNat % 4 = 0 ∧ decide (49152 ≤ off.toNat) ≠
    (s.stall n).rqActive ∧ (s.stall n).rqTable.wf = true) ∧
    (∃ (n : StallId) (off : BitVec 16) (s : State), s.domainOn ↑n = true ∧ 32768 ≤ off.toNat ∧ decide (49152 ≤ off.toNat / 4 * 4) = (s.stall
    n).rqActive) ∧
    (∃ (n : StallId) (s : State), s.domainOn ↑n = true ∧ (s.stall n).sfWin.getLsbD 4 = (s.stall n).sfActive) ∧
    (∃ (n : StallId) (off : BitVec 12) (s : State), s.domainOn ↑n = true ∧ off.toNat % 4 = 0 ∧ (s.stall n).sfWin.getLsbD 4 ≠ (s.stall
    n).sfActive ∧ SfOk (s.stall n)) :=
  ⟨⟨0, 0xC000, lit, by decide +kernel⟩,
   ⟨0, 0x8000, lit, by decide +kernel⟩,
   ⟨0, lit, by decide +kernel⟩,
   ⟨0, 0, lit.modStall 0 fun x => { x with sfWin := 0x10 }, by decide +kernel, by decide +kernel, by decide +kernel, List.Pairwise.nil⟩⟩

theorem wit_VectorLoadsStoresAndControl :
    (∃ (s : State) (n : StallId) (r : Running) (x : VecRegs) (k : ℕ) (f : VecInstr), VecAt s n r x k f ∧ f.type < 4 ∧ f.op = 0 ∧ ∀ (j i : ℕ), j
    < 16 → i < 64 → vecReadable (progOf r.desc) ((fun (j : ℕ) => BitVec.toNat (x.areg f.ab) + bitsOf f.imm 11 0 * 16 + j * (bitsOf f.imm
    23 12 * 16)) j + i) = true) ∧
    (∃ (s : State) (n : StallId) (r : Running) (x : VecRegs) (k : ℕ) (f : VecInstr), VecAt s n r x k f ∧ f.type < 4 ∧ f.op = 0 ∧ ∃ (j : ℕ) (i :
    ℕ), j < 16 ∧ i < 64 ∧ vecReadable (progOf r.desc) ((fun (j : ℕ) => BitVec.toNat (x.areg f.ab) + bitsOf f.imm 11 0 * 16 + j * (bitsOf
    f.imm 23 12 * 16)) j + i) = false) ∧
    (∃ (s : State) (n : StallId) (r : Running) (x : VecRegs) (k : ℕ) (f : VecInstr), VecAt s n r x k f ∧ f.type < 4 ∧ f.op = 1 ∧ ∀ j < 16,
    (progOf r.desc).wrBase ≤ (fun (j : ℕ) => BitVec.toNat (x.areg f.ab) + bitsOf f.imm 11 0 * 16 + j * (bitsOf f.imm 23 12 * 16)) j ∧ (fun
    (j : ℕ) => BitVec.toNat (x.areg f.ab) + bitsOf f.imm 11 0 * 16 + j * (bitsOf f.imm 23 12 * 16)) j + 64 ≤ (progOf r.desc).wrEnd) ∧
    (∃ (s : State) (n : StallId) (r : Running) (x : VecRegs) (k : ℕ) (f : VecInstr), VecAt s n r x k f ∧ f.type < 4 ∧ f.op = 1 ∧ ∃ j < 16,
    ¬((progOf r.desc).wrBase ≤ (fun (j : ℕ) => BitVec.toNat (x.areg f.ab) + bitsOf f.imm 11 0 * 16 + j * (bitsOf f.imm 23 12 * 16)) j ∧
    (fun (j : ℕ) => BitVec.toNat (x.areg f.ab) + bitsOf f.imm 11 0 * 16 + j * (bitsOf f.imm 23 12 * 16)) j + 64 ≤ (progOf r.desc).wrEnd)) ∧
    (∃ (s : State) (n : StallId) (r : Running) (x : VecRegs) (k : ℕ) (f : VecInstr), VecAt s n r x k f ∧ f.type < 4 ∧ f.op = 2 ∧ ∀ i < 64,
    vecReadable (progOf r.desc) (BitVec.toNat (x.areg f.ab) + bitsOf f.imm 11 0 * 16 + i) = true) ∧
    (∃ (s : State) (n : StallId) (r : Running) (x : VecRegs) (k : ℕ) (f : VecInstr), VecAt s n r x k f ∧ f.type < 4 ∧ f.op = 2 ∧ ∃ i < 64,
    vecReadable (progOf r.desc) (BitVec.toNat (x.areg f.ab) + bitsOf f.imm 11 0 * 16 + i) = false) ∧
    (∃ (s : State) (n : StallId) (r : Running) (x : VecRegs) (k : ℕ) (f : VecInstr), VecAt s n r x k f ∧ f.type < 4 ∧ f.op = 8 ∧ x.pc + bitsOf
    f.imm 21 16 + 1 < (progOf r.desc).len ∧ x.loops.length < 2 ∧ ∀ l ∈ x.loops, x.pc + bitsOf f.imm 21 16 + 1 ≤ l.last) ∧
    (∃ (s : State) (n : StallId) (r : Running) (x : VecRegs) (k : ℕ) (f : VecInstr), VecAt s n r x k f ∧ f.type < 4 ∧ f.op = 8 ∧ (2 ≤
    x.loops.length ∨ (progOf r.desc).len ≤ x.pc + bitsOf f.imm 21 16 + 1)) ∧
    (∃ (s : State) (n : StallId) (r : Running) (x : VecRegs) (k : ℕ) (f : VecInstr), VecAt s n r x k f ∧ f.type < 4 ∧ f.op = 9) ∧
    (∃ (s : State) (n : StallId) (r : Running) (x : VecRegs) (k : ℕ) (f : VecInstr), VecAt s n r x k f ∧ f.type < 4 ∧ f.op = 10) :=
  ⟨⟨vecSt (vw 0 0 0x4200) vecRegs, 0, vecRun, vecRegs, 0, _, vecAt (w := vw 0 0 0x4200) (x := vecRegs) (by decide +kernel), by decide +kernel, by decide +kernel, both (by decide +kernel)⟩,
   ⟨vecSt (vw 0 0 0) vecRegs, 0, vecRun, vecRegs, 0, _, vecAt (w := vw 0 0 0) (x := vecRegs) (by decide +kernel), by decide +kernel, by decide +kernel, 0, 0, by decide +kernel⟩,
   ⟨vecSt (vw 1 0 0x4300) vecRegs, 0, vecRun, vecRegs, 0, _, vecAt (w := vw 1 0 0x4300) (x := vecRegs) (by decide +kernel), by decide +kernel⟩,
   ⟨vecSt (vw 1 0 0) vecRegs, 0, vecRun, vecRegs, 0, _, vecAt (w := vw 1 0 0) (x := vecRegs) (by decide +kernel), by decide +kernel, by decide +kernel, 0, by decide +kernel⟩,
   ⟨vecSt (vw 2 0 0x200) vecRegs, 0, vecRun, vecRegs, 0, _, vecAt (w := vw 2 0 0x200) (x := vecRegs) (by decide +kernel), by decide +kernel⟩,
   ⟨vecSt (vw 2 0 0) vecRegs, 0, vecRun, vecRegs, 0, _, vecAt (w := vw 2 0 0) (x := vecRegs) (by decide +kernel), by decide +kernel, by decide +kernel, 0, by decide +kernel⟩,
   ⟨vecSt (vw 8 0 0x10000) vecRegs, 0, vecRun, vecRegs, 0, _, vecAt (w := vw 8 0 0x10000) (x := vecRegs) (by decide +kernel), by decide +kernel⟩,
   ⟨vecSt (vw 8 0 0x30000) vecRegs, 0, vecRun, vecRegs, 0, _, vecAt (w := vw 8 0 0x30000) (x := vecRegs) (by decide +kernel), by decide +kernel⟩,
   ⟨vecSt (vw 9 0 0) vecRegs, 0, vecRun, vecRegs, 0, _, vecAt (w := vw 9 0 0) (x := vecRegs) (by decide +kernel), by decide +kernel⟩,
   ⟨vecSt (vw 10 0 0) vecRegs, 0, vecRun, vecRegs, 0, _, vecAt (w := vw 10 0 0) (x := vecRegs) (by decide +kernel), by decide +kernel⟩⟩

theorem wit_VectorArithmetic :
    (∃ (s : State) (n : StallId) (r : Running) (x : VecRegs) (k : ℕ) (f : VecInstr), VecAt s n r x k f ∧ f.type < 4 ∧ f.op = 16) ∧
    (∃ (s : State) (n : StallId) (r : Running) (x : VecRegs) (k : ℕ) (f : VecInstr), VecAt s n r x k f ∧ f.type < 4 ∧ f.op = 17) ∧
    (∃ (s : State) (n : StallId) (r : Running) (x : VecRegs) (k : ℕ) (f : VecInstr), VecAt s n r x k f ∧ f.type < 4 ∧ f.op = 18) ∧
    (∃ (s : State) (n : StallId) (r : Running) (x : VecRegs) (k : ℕ) (f : VecInstr), VecAt s n r x k f ∧ f.type < 4 ∧ f.op = 19 ∧ f.type ≤ 1) ∧
    (∃ (s : State) (n : StallId) (r : Running) (x : VecRegs) (k : ℕ) (f : VecInstr), VecAt s n r x k f ∧ f.type < 4 ∧ f.op = 20 ∧ f.type ≤ 1) ∧
    (∃ (s : State) (n : StallId) (r : Running) (x : VecRegs) (k : ℕ) (f : VecInstr), VecAt s n r x k f ∧ f.type < 4 ∧ f.op = 21 ∧ f.type ≤ 1) ∧
    (∃ (s : State) (n : StallId) (r : Running) (x : VecRegs) (k : ℕ) (f : VecInstr), VecAt s n r x k f ∧ f.type < 4 ∧ f.op = 22 ∧ f.type ≤ 1) ∧
    (∃ (s : State) (n : StallId) (r : Running) (x : VecRegs) (k : ℕ) (f : VecInstr), VecAt s n r x k f ∧ f.type < 4 ∧ f.op = 23 ∧ f.type ≤ 1) ∧
    (∃ (s : State) (n : StallId) (r : Running) (x : VecRegs) (k : ℕ) (f : VecInstr), VecAt s n r x k f ∧ f.type < 4 ∧ f.op = 24 ∧ f.type ≤ 1) ∧
    (∃ (s : State) (n : StallId) (r : Running) (x : VecRegs) (k : ℕ) (f : VecInstr), VecAt s n r x k f ∧ f.type < 4 ∧ f.op = 25 ∧ f.type ≤ 1) ∧
    (∃ (s : State) (n : StallId) (r : Running) (x : VecRegs) (k : ℕ) (f : VecInstr), VecAt s n r x k f ∧ f.type < 4 ∧ f.op = 30 ∧ f.type ≤ 1) ∧
    (∃ (s : State) (n : StallId) (r : Running) (x : VecRegs) (k : ℕ) (f : VecInstr), VecAt s n r x k f ∧ f.type < 4 ∧ f.op = 31 ∧ bitOf f.imm 0
    = false ∧ 2 ≤ f.type) ∧
    (∃ (s : State) (n : StallId) (r : Running) (x : VecRegs) (k : ℕ) (f : VecInstr), VecAt s n r x k f ∧ f.type < 4 ∧ f.op = 31 ∧ bitOf f.imm 0
    = true ∧ 2 ≤ f.type) ∧
    (∃ (s : State) (n : StallId) (r : Running) (x : VecRegs) (k : ℕ) (f : VecInstr) (p : ℕ × Instr), VecAt s n r x k f ∧ f.type < 4 ∧ p ∈ [(19,
    Instr.vecFma n), (20, Instr.vecMin n), (21, Instr.vecMax n), (22, Instr.vecAbs n), (23, Instr.vecNeg n), (24, Instr.vecShl n), (25,
    Instr.vecShr n), (30, Instr.vecCvt n)] ∧ f.op = p.1 ∧ 2 ≤ f.type) ∧
    (∃ (s : State) (n : StallId) (r : Running) (x : VecRegs) (k : ℕ) (f : VecInstr), VecAt s n r x k f ∧ f.type < 4 ∧ f.op = 31 ∧ f.type ≤ 1) :=
  ⟨⟨vecSt (vw 16 1 0) vecRegs, 0, vecRun, vecRegs, 0, _, vecAt (w := vw 16 1 0) (x := vecRegs) (by decide +kernel), by decide +kernel⟩,
   ⟨vecSt (vw 17 1 0) vecRegs, 0, vecRun, vecRegs, 0, _, vecAt (w := vw 17 1 0) (x := vecRegs) (by decide +kernel), by decide +kernel⟩,
   ⟨vecSt (vw 18 1 0) vecRegs, 0, vecRun, vecRegs, 0, _, vecAt (w := vw 18 1 0) (x := vecRegs) (by decide +kernel), by decide +kernel⟩,
   ⟨vecSt (vw 19 1 0) vecRegs, 0, vecRun, vecRegs, 0, _, vecAt (w := vw 19 1 0) (x := vecRegs) (by decide +kernel), by decide +kernel⟩,
   ⟨vecSt (vw 20 1 0) vecRegs, 0, vecRun, vecRegs, 0, _, vecAt (w := vw 20 1 0) (x := vecRegs) (by decide +kernel), by decide +kernel⟩,
   ⟨vecSt (vw 21 1 0) vecRegs, 0, vecRun, vecRegs, 0, _, vecAt (w := vw 21 1 0) (x := vecRegs) (by decide +kernel), by decide +kernel⟩,
   ⟨vecSt (vw 22 1 0) vecRegs, 0, vecRun, vecRegs, 0, _, vecAt (w := vw 22 1 0) (x := vecRegs) (by decide +kernel), by decide +kernel⟩,
   ⟨vecSt (vw 23 1 0) vecRegs, 0, vecRun, vecRegs, 0, _, vecAt (w := vw 23 1 0) (x := vecRegs) (by decide +kernel), by decide +kernel⟩,
   ⟨vecSt (vw 24 1 0) vecRegs, 0, vecRun, vecRegs, 0, _, vecAt (w := vw 24 1 0) (x := vecRegs) (by decide +kernel), by decide +kernel⟩,
   ⟨vecSt (vw 25 1 0) vecRegs, 0, vecRun, vecRegs, 0, _, vecAt (w := vw 25 1 0) (x := vecRegs) (by decide +kernel), by decide +kernel⟩,
   ⟨vecSt (vw 30 1 0) vecRegs, 0, vecRun, vecRegs, 0, _, vecAt (w := vw 30 1 0) (x := vecRegs) (by decide +kernel), by decide +kernel⟩,
   ⟨vecSt (vw 31 2 0) vecRegs, 0, vecRun, vecRegs, 0, _, vecAt (w := vw 31 2 0) (x := vecRegs) (by decide +kernel), by decide +kernel⟩,
   ⟨vecSt (vw 31 2 1) vecRegs, 0, vecRun, vecRegs, 0, _, vecAt (w := vw 31 2 1) (x := vecRegs) (by decide +kernel), by decide +kernel⟩,
   ⟨vecSt (vw 19 2 0) vecRegs, 0, vecRun, vecRegs, 0, _, (19, .vecFma 0), vecAt (w := vw 19 2 0) (x := vecRegs) (by decide +kernel), by decide +kernel, by decide +kernel, by decide +kernel, by decide +kernel⟩,
   ⟨vecSt (vw 31 0 0) vecRegs, 0, vecRun, vecRegs, 0, _, vecAt (w := vw 31 0 0) (x := vecRegs) (by decide +kernel), by decide +kernel⟩⟩

theorem wit_VectorBitsMasksAndMoves :
    (∃ (s : State) (n : StallId) (r : Running) (x : VecRegs) (k : ℕ) (f : VecInstr), VecAt s n r x k f ∧ f.type < 4 ∧ f.op = 26) ∧
    (∃ (s : State) (n : StallId) (r : Running) (x : VecRegs) (k : ℕ) (f : VecInstr), VecAt s n r x k f ∧ f.type < 4 ∧ f.op = 27) ∧
    (∃ (s : State) (n : StallId) (r : Running) (x : VecRegs) (k : ℕ) (f : VecInstr), VecAt s n r x k f ∧ f.type < 4 ∧ f.op = 28) ∧
    (∃ (s : State) (n : StallId) (r : Running) (x : VecRegs) (k : ℕ) (f : VecInstr), VecAt s n r x k f ∧ f.type < 4 ∧ f.op = 29) ∧
    (∃ (s : State) (n : StallId) (r : Running) (x : VecRegs) (k : ℕ) (f : VecInstr), VecAt s n r x k f ∧ f.type < 4 ∧ f.op = 40 ∧ f.type ≤ 1 ∧
    bitsOf f.imm 2 0 ≤ 5) ∧
    (∃ (s : State) (n : StallId) (r : Running) (x : VecRegs) (k : ℕ) (f : VecInstr), VecAt s n r x k f ∧ f.type < 4 ∧ f.op = 40 ∧ (2 ≤ f.type ∨
    5 < bitsOf f.imm 2 0)) ∧
    (∃ (s : State) (n : StallId) (r : Running) (x : VecRegs) (k : ℕ) (f : VecInstr), VecAt s n r x k f ∧ f.type < 4 ∧ f.op = 41) ∧
    (∃ (s : State) (n : StallId) (r : Running) (x : VecRegs) (k : ℕ) (f : VecInstr), VecAt s n r x k f ∧ f.type < 4 ∧ f.op = 42) ∧
    (∃ (s : State) (n : StallId) (r : Running) (x : VecRegs) (k : ℕ) (f : VecInstr), VecAt s n r x k f ∧ f.type < 4 ∧ f.op = 43) ∧
    (∃ (s : State) (n : StallId) (r : Running) (x : VecRegs) (k : ℕ) (f : VecInstr), VecAt s n r x k f ∧ f.type < 4 ∧ f.op = 48 ∧ bitsOf f.imm
    1 0 ≠ 3) ∧
    (∃ (s : State) (n : StallId) (r : Running) (x : VecRegs) (k : ℕ) (f : VecInstr), VecAt s n r x k f ∧ f.type < 4 ∧ f.op = 49) ∧
    (∃ (s : State) (n : StallId) (r : Running) (x : VecRegs) (k : ℕ) (f : VecInstr), VecAt s n r x k f ∧ f.type < 4 ∧ f.op = 50) ∧
    (∃ (s : State) (n : StallId) (r : Running) (x : VecRegs) (k : ℕ) (f : VecInstr), VecAt s n r x k f ∧ f.type < 4 ∧ f.op = 53) ∧
    (∃ (s : State) (n : StallId) (r : Running) (x : VecRegs) (k : ℕ) (f : VecInstr) (w : ℕ), VecAt s n r x k f ∧ f.type < 4 ∧ f.op = 52 ∧
    f.type ≤ 1 ∧ laneBits (bitsOf f.imm 3 0) = some w ∧ bitsOf f.imm 9 4 < 32 / w) ∧
    (∃ (s : State) (n : StallId) (r : Running) (x : VecRegs) (k : ℕ) (f : VecInstr) (w : ℕ), VecAt s n r x k f ∧ f.type < 4 ∧ f.op = 51 ∧
    f.type ≤ 1 ∧ laneBits (bitsOf f.imm 3 0) = some w ∧ bitsOf f.imm 9 4 < 32 / w) ∧
    (∃ (s : State) (n : StallId) (r : Running) (x : VecRegs) (k : ℕ) (f : VecInstr) (p : ℕ × Instr), VecAt s n r x k f ∧ f.type < 4 ∧ p ∈ [(51,
    Instr.vecPack n), (52, Instr.vecUnpack n)] ∧ f.op = p.1 ∧ (2 ≤ f.type ∨ laneBits (bitsOf f.imm 3 0) = none ∨ ∃ (w : ℕ), laneBits
    (bitsOf f.imm 3 0) = some w ∧ 32 / w ≤ bitsOf f.imm 9 4)) :=
  ⟨⟨vecSt (vw 26 3 0) vecRegs, 0, vecRun, vecRegs, 0, _, vecAt (w := vw 26 3 0) (x := vecRegs) (by decide +kernel), by decide +kernel⟩,
   ⟨vecSt (vw 27 3 0) vecRegs, 0, vecRun, vecRegs, 0, _, vecAt (w := vw 27 3 0) (x := vecRegs) (by decide +kernel), by decide +kernel⟩,
   ⟨vecSt (vw 28 3 0) vecRegs, 0, vecRun, vecRegs, 0, _, vecAt (w := vw 28 3 0) (x := vecRegs) (by decide +kernel), by decide +kernel⟩,
   ⟨vecSt (vw 29 3 0) vecRegs, 0, vecRun, vecRegs, 0, _, vecAt (w := vw 29 3 0) (x := vecRegs) (by decide +kernel), by decide +kernel⟩,
   ⟨vecSt (vw 40 1 5) vecRegs, 0, vecRun, vecRegs, 0, _, vecAt (w := vw 40 1 5) (x := vecRegs) (by decide +kernel), by decide +kernel⟩,
   ⟨vecSt (vw 40 1 6) vecRegs, 0, vecRun, vecRegs, 0, _, vecAt (w := vw 40 1 6) (x := vecRegs) (by decide +kernel), by decide +kernel⟩,
   ⟨vecSt (vw 41 0 2) vecRegs, 0, vecRun, vecRegs, 0, _, vecAt (w := vw 41 0 2) (x := vecRegs) (by decide +kernel), by decide +kernel⟩,
   ⟨vecSt (vw 42 0 2) vecRegs, 0, vecRun, vecRegs, 0, _, vecAt (w := vw 42 0 2) (x := vecRegs) (by decide +kernel), by decide +kernel⟩,
   ⟨vecSt (vw 43 0 2) vecRegs, 0, vecRun, vecRegs, 0, _, vecAt (w := vw 43 0 2) (x := vecRegs) (by decide +kernel), by decide +kernel⟩,
   ⟨vecSt (vw 48 0 2) vecRegs, 0, vecRun, vecRegs, 0, _, vecAt (w := vw 48 0 2) (x := vecRegs) (by decide +kernel), by decide +kernel⟩,
   ⟨vecSt (vw 49 0 2) vecRegs, 0, vecRun, vecRegs, 0, _, vecAt (w := vw 49 0 2) (x := vecRegs) (by decide +kernel), by decide +kernel⟩,
   ⟨vecSt (vw 50 0 2) vecRegs, 0, vecRun, vecRegs, 0, _, vecAt (w := vw 50 0 2) (x := vecRegs) (by decide +kernel), by decide +kernel⟩,
   ⟨vecSt (vw 53 0 2) vecRegs, 0, vecRun, vecRegs, 0, _, vecAt (w := vw 53 0 2) (x := vecRegs) (by decide +kernel), by decide +kernel⟩,
   ⟨vecSt (vw 52 0 0x30) vecRegs, 0, vecRun, vecRegs, 0, _, 8, vecAt (w := vw 52 0 0x30) (x := vecRegs) (by decide +kernel), by decide +kernel⟩,
   ⟨vecSt (vw 51 0 0x30) vecRegs, 0, vecRun, vecRegs, 0, _, 8, vecAt (w := vw 51 0 0x30) (x := vecRegs) (by decide +kernel), by decide +kernel⟩,
   ⟨vecSt (vw 51 0 0x40) vecRegs, 0, vecRun, vecRegs, 0, _, (51, .vecPack 0), vecAt (w := vw 51 0 0x40) (x := vecRegs) (by decide +kernel), by decide +kernel, by decide +kernel, by decide +kernel, .inr (.inr ⟨8, by decide +kernel⟩)⟩⟩

theorem wit_VectorRowsFunctionsAndQuantisation :
    (∃ (s : State) (n : StallId) (r : Running) (x : VecRegs) (k : ℕ) (f : VecInstr), VecAt s n r x k f ∧ f.type ≤ 1 ∧ f.op = 56 ∧ bitsOf f.imm
    3 0 ≤ 7 ∧ bitsOf f.imm 5 4 ≤ 2) ∧
    (∃ (s : State) (n : StallId) (r : Running) (x : VecRegs) (k : ℕ) (f : VecInstr), VecAt s n r x k f ∧ f.type ≤ 1 ∧ f.op = 64) ∧
    (∃ (s : State) (n : StallId) (r : Running) (x : VecRegs) (k : ℕ) (f : VecInstr), VecAt s n r x k f ∧ f.type ≤ 1 ∧ f.op = 65 ∧ bitsOf f.imm
    4 0 ≤ 17) ∧
    (∃ (s : State) (n : StallId) (r : Running) (x : VecRegs) (k : ℕ) (f : VecInstr), VecAt s n r x k f ∧ f.type ≤ 1 ∧ f.op = 72 ∧ f.va + 2 ^
    bitsOf f.imm 17 16 ≤ 32 ∧ f.vd + 2 ^ bitsOf f.imm 17 16 ≤ 32) ∧
    (∃ (s : State) (n : StallId) (r : Running) (x : VecRegs) (k : ℕ) (f : VecInstr), VecAt s n r x k f ∧ f.type ≤ 1 ∧ f.op = 73 ∧ f.va + 2 ^
    bitsOf f.imm 17 16 ≤ 32 ∧ f.vd + 2 ^ bitsOf f.imm 17 16 ≤ 32) ∧
    (∃ (s : State) (n : StallId) (r : Running) (x : VecRegs) (k : ℕ) (f : VecInstr), VecAt s n r x k f ∧ f.type ≤ 1 ∧ f.op = 80 ∧ (bitsOf f.imm
    3 0 = fmtBs8 ∨ bitsOf f.imm 3 0 = fmtBs4)) ∧
    (∃ (s : State) (n : StallId) (r : Running) (x : VecRegs) (k : ℕ) (f : VecInstr), VecAt s n r x k f ∧ f.type ≤ 1 ∧ f.op = 56 ∧ bitsOf f.imm
    3 0 ≤ 7 ∧ bitsOf f.imm 5 4 = 0) ∧
    (∃ (s : State) (n : StallId) (r : Running) (x : VecRegs) (k : ℕ) (f : VecInstr), VecAt s n r x k f ∧ f.type ≤ 1 ∧ f.op = 81) ∧
    (∃ (s : State) (n : StallId) (r : Running) (x : VecRegs) (k : ℕ) (f : VecInstr), VecAt s n r x k f ∧ f.type ≤ 1 ∧ f.op = 82 ∧ bitsOf f.imm
    3 0 ≤ 1) ∧
    (∃ (s : State) (n : StallId) (r : Running) (x : VecRegs) (k : ℕ) (f : VecInstr), VecAt s n r x k f ∧ f.type ≤ 1 ∧ f.op = 83 ∧ bitsOf f.imm
    3 0 ≤ 1) :=
  ⟨⟨vecSt (vw 56 1 0x27) vecRegs, 0, vecRun, vecRegs, 0, _, vecAt (w := vw 56 1 0x27) (x := vecRegs) (by decide +kernel), by decide +kernel⟩,
   ⟨vecSt (vw 64 0 0) vecRegs, 0, vecRun, vecRegs, 0, _, vecAt (w := vw 64 0 0) (x := vecRegs) (by decide +kernel), by decide +kernel⟩,
   ⟨vecSt (vw 65 0 17) vecRegs, 0, vecRun, vecRegs, 0, _, vecAt (w := vw 65 0 17) (x := vecRegs) (by decide +kernel), by decide +kernel⟩,
   ⟨vecSt (vw 72 0 0x10000) vecRegs, 0, vecRun, vecRegs, 0, _, vecAt (w := vw 72 0 0x10000) (x := vecRegs) (by decide +kernel), by decide +kernel⟩,
   ⟨vecSt (vw 73 0 0x10000) vecRegs, 0, vecRun, vecRegs, 0, _, vecAt (w := vw 73 0 0x10000) (x := vecRegs) (by decide +kernel), by decide +kernel⟩,
   ⟨vecSt (vw 80 0 7) vecRegs, 0, vecRun, vecRegs, 0, _, vecAt (w := vw 80 0 7) (x := vecRegs) (by decide +kernel), by decide +kernel⟩,
   ⟨vecSt (vw 56 0 7) vecRegs, 0, vecRun, vecRegs, 0, _, vecAt (w := vw 56 0 7) (x := vecRegs) (by decide +kernel), by decide +kernel⟩,
   ⟨vecSt (vw 81 0 0) vecRegs, 0, vecRun, vecRegs, 0, _, vecAt (w := vw 81 0 0) (x := vecRegs) (by decide +kernel), by decide +kernel⟩,
   ⟨vecSt (vw 82 0 1) vecRegs, 0, vecRun, vecRegs, 0, _, vecAt (w := vw 82 0 1) (x := vecRegs) (by decide +kernel), by decide +kernel⟩,
   ⟨vecSt (vw 83 0 1) vecRegs, 0, vecRun, vecRegs, 0, _, vecAt (w := vw 83 0 1) (x := vecRegs) (by decide +kernel), by decide +kernel⟩⟩

theorem wit_SequencerControlAndInterrupt :
    (∃ (s : State) (n : StallId) (r : Running) (x : SeqRegs) (k : ℕ) (c : ℕ) (w : Word), SeqAt s n r x k c w ∧ c = 0) ∧
    (∃ (s : State) (n : StallId) (r : Running) (x : SeqRegs) (k : ℕ) (c : ℕ) (w : Word), SeqAt s n r x k c w ∧ c = 8) ∧
    (∃ (s : State) (n : StallId) (r : Running) (x : SeqRegs) (k : ℕ) (c : ℕ) (w : Word), SeqAt s n r x k c w ∧ c = 9) ∧
    (∃ (s : State) (n : StallId) (r : Running) (x : SeqRegs) (k : ℕ) (c : ℕ) (w : Word), SeqAt s n r x k c w ∧ x.branch = none ∧ x.atLoopEnd =
    false ∧ c = 2) ∧
    (∃ (s : State) (n : StallId) (r : Running) (x : SeqRegs) (k : ℕ) (c : ℕ) (w : Word) (i : Fin 8), SeqAt s n r x k c w ∧ x.branch = none ∧
    x.atLoopEnd = false ∧ vget x.ix i = 0 ∧ c = 3) ∧
    (∃ (s : State) (n : StallId) (r : Running) (x : SeqRegs) (k : ℕ) (c : ℕ) (w : Word) (i : Fin 8), SeqAt s n r x k c w ∧ x.branch = none ∧
    x.atLoopEnd = false ∧ vget x.ix i = 0 ∧ c = 4) ∧
    (∃ (s : State) (n : StallId) (r : Running) (x : SeqRegs) (k : ℕ) (c : ℕ) (w : Word) (i : Fin 8), SeqAt s n r x k c w ∧ x.branch = none ∧
    x.atLoopEnd = false ∧ vget x.ix i ≠ 0 ∧ c = 3) ∧
    (∃ (s : State) (n : StallId) (r : Running) (x : SeqRegs) (k : ℕ) (c : ℕ) (w : Word) (i : Fin 8), SeqAt s n r x k c w ∧ x.branch = none ∧
    x.atLoopEnd = false ∧ vget x.ix i ≠ 0 ∧ c = 4) ∧
    (∃ (s : State) (n : StallId) (r : Running) (x : SeqRegs) (k : ℕ) (c : ℕ) (w : Word), SeqAt s n r x k c w ∧ x.branch = none ∧ x.atLoopEnd =
    false ∧ c = 7) ∧
    (∃ (s : State) (n : StallId) (r : Running) (x : SeqRegs) (k : ℕ) (c : ℕ) (w : Word) (b : ℕ), SeqAt s n r x k c w ∧ x.branch = none ∧
    x.atLoopEnd = false ∧ x.depth < 2 ∧ 1 ≤ b ∧ b ≤ 256 ∧ c = 5) ∧
    (∃ (s : State) (n : StallId) (r : Running) (x : SeqRegs) (k : ℕ) (c : ℕ) (w : Word) (b : ℕ), SeqAt s n r x k c w ∧ x.branch = none ∧
    x.atLoopEnd = false ∧ x.depth < 2 ∧ 1 ≤ b ∧ b ≤ 256 ∧ c = 6) ∧
    (∃ (s : State) (n : StallId) (r : Running) (x : SeqRegs) (k : ℕ) (c : ℕ) (w : Word) (t : BitVec 16) (i : Fin 8) (b : ℕ) (m : ℕ) (j : ℕ ×
    Instr), SeqAt s n r x k c w ∧ (x.branch ≠ none ∨ x.atLoopEnd = true) ∧ j ∈ [(2, Instr.seqJmp n t), (3, Instr.seqJz n i t), (4,
    Instr.seqJnz n i t), (7, Instr.seqReti n), (5, Instr.seqLoop n b m), (6, Instr.seqLoopx n b i)] ∧ c = j.1) ∧
    (∃ (s : State) (n : StallId) (r : Running) (x : SeqRegs) (k : ℕ) (c : ℕ) (w : Word), SeqAt s n r x k c w ∧ c = 1) ∧
    (∃ (n : StallId) (r : Running) (x : SeqRegs) (s : State), (s.stall n).seq = SeqEngine.running r x ∧ r.outcome = none ∧ r.item ≠ none ∧
    (s.stall n).irqPending = true ∧ (progOf r.desc).irqEn = true ∧ x.sqst.getLsbD 4 = true ∧ x.branch = none ∧ x.shadow = 0) :=
  ⟨⟨seqSt 0x00000000 SeqRegs.clear, 0, seqRun, _, 0, 0, 0x00000000, seqAt (w := 0x00000000) (x := SeqRegs.clear) (by decide +kernel), by decide +kernel⟩,
   ⟨seqSt 0x08000000 SeqRegs.clear, 0, seqRun, _, 0, 8, 0x08000000, seqAt (w := 0x08000000) (x := SeqRegs.clear) (by decide +kernel), by decide +kernel⟩,
   ⟨seqSt 0x09000000 SeqRegs.clear, 0, seqRun, _, 0, 9, 0x09000000, seqAt (w := 0x09000000) (x := SeqRegs.clear) (by decide +kernel), by decide +kernel⟩,
   ⟨seqSt 0x02000000 SeqRegs.clear, 0, seqRun, _, 0, 2, 0x02000000, seqAt (w := 0x02000000) (x := SeqRegs.clear) (by decide +kernel), by decide +kernel⟩,
   ⟨seqSt 0x03000000 SeqRegs.clear, 0, seqRun, _, 0, 3, 0x03000000, 0, seqAt (w := 0x03000000) (x := SeqRegs.clear) (by decide +kernel), by decide +kernel⟩,
   ⟨seqSt 0x04000000 SeqRegs.clear, 0, seqRun, _, 0, 4, 0x04000000, 0, seqAt (w := 0x04000000) (x := SeqRegs.clear) (by decide +kernel), by decide +kernel⟩,
   ⟨seqSt 0x03000000 seqFar, 0, seqRun, _, 0, 3, 0x03000000, 0, seqAt (w := 0x03000000) (x := seqFar) (by decide +kernel), by decide +kernel⟩,
   ⟨seqSt 0x04000000 seqFar, 0, seqRun, _, 0, 4, 0x04000000, 0, seqAt (w := 0x04000000) (x := seqFar) (by decide +kernel), by decide +kernel⟩,
   ⟨seqSt 0x07000000 SeqRegs.clear, 0, seqRun, _, 0, 7, 0x07000000, seqAt (w := 0x07000000) (x := SeqRegs.clear) (by decide +kernel), by decide +kernel⟩,
   ⟨seqSt 0x05000000 SeqRegs.clear, 0, seqRun, _, 0, 5, 0x05000000, 1, seqAt (w := 0x05000000) (x := SeqRegs.clear) (by decide +kernel), by decide +kernel⟩,
   ⟨seqSt 0x06000000 SeqRegs.clear, 0, seqRun, _, 0, 6, 0x06000000, 1, seqAt (w := 0x06000000) (x := SeqRegs.clear) (by decide +kernel), by decide +kernel⟩,
   ⟨seqSt 0x02000000 ({ SeqRegs.clear with branch := some (2, 0) }), 0, seqRun, _, 0, 2, 0x02000000, 0, 0, 1, 1, (2, .seqJmp 0 0), seqAt (w := 0x02000000) (x := { SeqRegs.clear with branch := some (2, 0) }) (by decide +kernel), by decide +kernel, by simp, rfl⟩,
   ⟨seqSt 0x01000000 SeqRegs.clear, 0, seqRun, _, 0, 1, 0x01000000, seqAt (w := 0x01000000) (x := SeqRegs.clear) (by decide +kernel), by decide +kernel⟩,
   ⟨0, seqRun, { SeqRegs.clear with sqst := 0x10 }, (lit.modStall 0 fun y => { y with seq := .running seqRun { SeqRegs.clear with sqst := 0x10 }, irqPending := true }), by decide +kernel⟩⟩

theorem wit_SequencerMovesLoadsAndStores :
    (∃ (s : State) (n : StallId) (r : Running) (x : SeqRegs) (k : ℕ) (c : ℕ) (w : Word), SeqAt s n r x k c w ∧ c = 17) ∧
    (∃ (s : State) (n : StallId) (r : Running) (x : SeqRegs) (k : ℕ) (c : ℕ) (w : Word), SeqAt s n r x k c w ∧ c = 16) ∧
    (∃ (s : State) (n : StallId) (r : Running) (x : SeqRegs) (k : ℕ) (c : ℕ) (w : Word) (f : SeqFmt) (ad : SeqAddr), SeqAt s n r x k c w ∧ c =
    32 ∧ (f = SeqFmt.int24 ∨ f = SeqFmt.ci16) ∧ seqMayLoad (progOf r.desc) (x.addr ad).1 (fmtWords f) = true) ∧
    (∃ (s : State) (n : StallId) (r : Running) (x : SeqRegs) (k : ℕ) (c : ℕ) (w : Word) (f : SeqFmt) (ad : SeqAddr), SeqAt s n r x k c w ∧ c =
    48 ∧ (f = SeqFmt.int24 ∨ f = SeqFmt.ci16) ∧ seqMayLoad (progOf r.desc) (x.addr ad).1 (fmtWords f) = true) ∧
    (∃ (s : State) (n : StallId) (r : Running) (x : SeqRegs) (k : ℕ) (c : ℕ) (w : Word) (f : SeqFmt) (ad : SeqAddr), SeqAt s n r x k c w ∧ c =
    33 ∧ (f = SeqFmt.int24 ∨ f = SeqFmt.ci16) ∧ seqMayStore (progOf r.desc) (x.addr ad).1 (fmtWords f) = true) ∧
    (∃ (s : State) (n : StallId) (r : Running) (x : SeqRegs) (k : ℕ) (c : ℕ) (w : Word) (f : SeqFmt) (ad : SeqAddr), SeqAt s n r x k c w ∧ c =
    49 ∧ (f = SeqFmt.int24 ∨ f = SeqFmt.ci16) ∧ seqMayStore (progOf r.desc) (x.addr ad).1 (fmtWords f) = true) ∧
    (∃ (s : State) (n : StallId) (r : Running) (x : SeqRegs) (k : ℕ) (c : ℕ) (w : Word) (ad : SeqAddr), SeqAt s n r x k c w ∧ c = 34 ∧
    seqMayLoad (progOf r.desc) (x.addr ad).1 1 = true) ∧
    (∃ (s : State) (n : StallId) (r : Running) (x : SeqRegs) (k : ℕ) (c : ℕ) (w : Word) (ad : SeqAddr), SeqAt s n r x k c w ∧ c = 35 ∧
    seqMayStore (progOf r.desc) (x.addr ad).1 1 = true) ∧
    (∃ (s : State) (n : StallId) (r : Running) (x : SeqRegs) (k : ℕ) (c : ℕ) (w : Word), SeqAt s n r x k c w ∧ c = 50 ∧ seqMayLoad (progOf
    r.desc) (vget x.ix 3).toNat 1 = true) ∧
    (∃ (s : State) (n : StallId) (r : Running) (x : SeqRegs) (k : ℕ) (c : ℕ) (w : Word), SeqAt s n r x k c w ∧ c = 128) ∧
    (∃ (s : State) (n : StallId) (r : Running) (x : SeqRegs) (k : ℕ) (c : ℕ) (w : Word) (ad : SeqAddr), SeqAt s n r x k c w ∧ c = 34 ∧
    seqMayLoad (progOf r.desc) (x.addr ad).1 1 = false) ∧
    (∃ (s : State) (n : StallId) (r : Running) (x : SeqRegs) (k : ℕ) (c : ℕ) (w : Word), SeqAt s n r x k c w ∧ c = 50 ∧ seqMayLoad (progOf
    r.desc) (vget x.ix 3).toNat 1 = false) ∧
    (∃ (s : State) (n : StallId) (r : Running) (x : SeqRegs) (k : ℕ) (c : ℕ) (w : Word) (f : SeqFmt) (ad : SeqAddr), SeqAt s n r x k c w ∧ (f =
    SeqFmt.int24 ∨ f = SeqFmt.ci16) ∧ seqMayLoad (progOf r.desc) (x.addr ad).1 (fmtWords f) = false ∧ c = 32) ∧
    (∃ (s : State) (n : StallId) (r : Running) (x : SeqRegs) (k : ℕ) (c : ℕ) (w : Word) (f : SeqFmt) (ad : SeqAddr), SeqAt s n r x k c w ∧ (f =
    SeqFmt.int24 ∨ f = SeqFmt.ci16) ∧ seqMayLoad (progOf r.desc) (x.addr ad).1 (fmtWords f) = false ∧ c = 48) ∧
    (∃ (s : State) (n : StallId) (r : Running) (x : SeqRegs) (k : ℕ) (c : ℕ) (w : Word) (ad : SeqAddr), SeqAt s n r x k c w ∧ c = 35 ∧
    seqMayStore (progOf r.desc) (x.addr ad).1 1 = false) ∧
    (∃ (s : State) (n : StallId) (r : Running) (x : SeqRegs) (k : ℕ) (c : ℕ) (w : Word) (f : SeqFmt) (ad : SeqAddr), SeqAt s n r x k c w ∧ (f =
    SeqFmt.int24 ∨ f = SeqFmt.ci16) ∧ seqMayStore (progOf r.desc) (x.addr ad).1 (fmtWords f) = false ∧ c = 33) ∧
    (∃ (s : State) (n : StallId) (r : Running) (x : SeqRegs) (k : ℕ) (c : ℕ) (w : Word) (f : SeqFmt) (ad : SeqAddr), SeqAt s n r x k c w ∧ (f =
    SeqFmt.int24 ∨ f = SeqFmt.ci16) ∧ seqMayStore (progOf r.desc) (x.addr ad).1 (fmtWords f) = false ∧ c = 49) ∧
    (∃ (s : State) (n : StallId) (r : Running) (x : SeqRegs) (k : ℕ) (c : ℕ) (w : Word) (b : Fin 8) (ad : SeqAddr) (j : ℕ × Instr), SeqAt s n r
    x k c w ∧ j ∈ [(32, Instr.seqLds n (SeqFmt.reserved b) ad), (33, Instr.seqSts n (SeqFmt.reserved b) ad), (48, Instr.seqLdt n
    (SeqFmt.reserved b) ad), (49, Instr.seqStt n (SeqFmt.reserved b) ad)] ∧ c = j.1) :=
  ⟨⟨seqSt 0x11000000 SeqRegs.clear, 0, seqRun, _, 0, 17, 0x11000000, seqAt (w := 0x11000000) (x := SeqRegs.clear) (by decide +kernel), by decide +kernel⟩,
   ⟨seqSt 0x10000000 SeqRegs.clear, 0, seqRun, _, 0, 16, 0x10000000, seqAt (w := 0x10000000) (x := SeqRegs.clear) (by decide +kernel), by decide +kernel⟩,
   ⟨seqSt 0x20000000 SeqRegs.clear, 0, seqRun, _, 0, 32, 0x20000000, .ci16, .offset 0 3, seqAt (w := 0x20000000) (x := SeqRegs.clear) (by decide +kernel), by decide +kernel⟩,
   ⟨seqSt 0x30000000 SeqRegs.clear, 0, seqRun, _, 0, 48, 0x30000000, .int24, .post 0 1, seqAt (w := 0x30000000) (x := SeqRegs.clear) (by decide +kernel), by decide +kernel⟩,
   ⟨seqSt 0x21000000 SeqRegs.clear, 0, seqRun, _, 0, 33, 0x21000000, .ci16, .offset 0 16, seqAt (w := 0x21000000) (x := SeqRegs.clear) (by decide +kernel), by decide +kernel⟩,
   ⟨seqSt 0x31000000 SeqRegs.clear, 0, seqRun, _, 0, 49, 0x31000000, .int24, .offset 0 16, seqAt (w := 0x31000000) (x := SeqRegs.clear) (by decide +kernel), by decide +kernel⟩,
   ⟨seqSt 0x22000000 SeqRegs.clear, 0, seqRun, _, 0, 34, 0x22000000, .offset 0 15, seqAt (w := 0x22000000) (x := SeqRegs.clear) (by decide +kernel), by decide +kernel⟩,
   ⟨seqSt 0x23000000 SeqRegs.clear, 0, seqRun, _, 0, 35, 0x23000000, .offset 0 31, seqAt (w := 0x23000000) (x := SeqRegs.clear) (by decide +kernel), by decide +kernel⟩,
   ⟨seqSt 0x32000000 SeqRegs.clear, 0, seqRun, _, 0, 50, 0x32000000, seqAt (w := 0x32000000) (x := SeqRegs.clear) (by decide +kernel), by decide +kernel⟩,
   ⟨seqSt 0x80000000 SeqRegs.clear, 0, seqRun, _, 0, 128, 0x80000000, seqAt (w := 0x80000000) (x := SeqRegs.clear) (by decide +kernel), by decide +kernel⟩,
   ⟨seqSt 0x22000000 SeqRegs.clear, 0, seqRun, _, 0, 34, 0x22000000, .offset 0 16, seqAt (w := 0x22000000) (x := SeqRegs.clear) (by decide +kernel), by decide +kernel⟩,
   ⟨seqSt 0x32000000 seqFar, 0, seqRun, _, 0, 50, 0x32000000, seqAt (w := 0x32000000) (x := seqFar) (by decide +kernel), by decide +kernel⟩,
   ⟨seqSt 0x20000000 SeqRegs.clear, 0, seqRun, _, 0, 32, 0x20000000, .int24, .offset 0 15, seqAt (w := 0x20000000) (x := SeqRegs.clear) (by decide +kernel), by decide +kernel⟩,
   ⟨seqSt 0x30000000 SeqRegs.clear, 0, seqRun, _, 0, 48, 0x30000000, .ci16, .offset 0 16, seqAt (w := 0x30000000) (x := SeqRegs.clear) (by decide +kernel), by decide +kernel⟩,
   ⟨seqSt 0x23000000 SeqRegs.clear, 0, seqRun, _, 0, 35, 0x23000000, .offset 0 15, seqAt (w := 0x23000000) (x := SeqRegs.clear) (by decide +kernel), by decide +kernel⟩,
   ⟨seqSt 0x21000000 SeqRegs.clear, 0, seqRun, _, 0, 33, 0x21000000, .int24, .offset 0 31, seqAt (w := 0x21000000) (x := SeqRegs.clear) (by decide +kernel), by decide +kernel⟩,
   ⟨seqSt 0x31000000 SeqRegs.clear, 0, seqRun, _, 0, 49, 0x31000000, .ci16, .offset 0 15, seqAt (w := 0x31000000) (x := SeqRegs.clear) (by decide +kernel), by decide +kernel⟩,
   ⟨seqSt 0x20000000 SeqRegs.clear, 0, seqRun, _, 0, 32, 0x20000000, 0, .offset 0 0, (32, .seqLds 0 (.reserved 0) (.offset 0 0)), seqAt (w := 0x20000000) (x := SeqRegs.clear) (by decide +kernel), by simp, rfl⟩⟩

theorem wit_SequencerAccumulatorsAndRoundedStores :
    (∃ (s : State) (n : StallId) (r : Running) (x : SeqRegs) (k : ℕ) (c : ℕ) (w : Word), SeqAt s n r x k c w ∧ c = 96) ∧
    (∃ (s : State) (n : StallId) (r : Running) (x : SeqRegs) (k : ℕ) (c : ℕ) (w : Word), SeqAt s n r x k c w ∧ c = 97) ∧
    (∃ (s : State) (n : StallId) (r : Running) (x : SeqRegs) (k : ℕ) (c : ℕ) (w : Word), SeqAt s n r x k c w ∧ c = 98) ∧
    (∃ (s : State) (n : StallId) (r : Running) (x : SeqRegs) (k : ℕ) (c : ℕ) (w : Word), SeqAt s n r x k c w ∧ c = 99) ∧
    (∃ (s : State) (n : StallId) (r : Running) (x : SeqRegs) (k : ℕ) (c : ℕ) (w : Word), SeqAt s n r x k c w ∧ c = 100) ∧
    (∃ (s : State) (n : StallId) (r : Running) (x : SeqRegs) (k : ℕ) (c : ℕ) (w : Word), SeqAt s n r x k c w ∧ c = 101) ∧
    (∃ (s : State) (n : StallId) (r : Running) (x : SeqRegs) (k : ℕ) (c : ℕ) (w : Word), SeqAt s n r x k c w ∧ c = 102) ∧
    (∃ (s : State) (n : StallId) (r : Running) (x : SeqRegs) (k : ℕ) (c : ℕ) (w : Word), SeqAt s n r x k c w ∧ c = 103) ∧
    (∃ (s : State) (n : StallId) (r : Running) (x : SeqRegs) (k : ℕ) (c : ℕ) (w : Word), SeqAt s n r x k c w ∧ c = 104 ∧ vget x.s 0 = 0) ∧
    (∃ (s : State) (n : StallId) (r : Running) (x : SeqRegs) (k : ℕ) (c : ℕ) (w : Word) (a : Fin 4) (q : ℤ), SeqAt s n r x k c w ∧ c = 104 ∧ 0
    < (vget x.s 0).toInt ∧ q = (2 * (x.accv a * 8388608) + (vget x.s 0).toInt) / (2 * (vget x.s 0).toInt)) ∧
    (∃ (s : State) (n : StallId) (r : Running) (x : SeqRegs) (k : ℕ) (c : ℕ) (w : Word) (a : Fin 4) (q : ℤ), SeqAt s n r x k c w ∧ c = 104 ∧
    (vget x.s 0).toInt < 0 ∧ q = (-(2 * (x.accv a * 8388608)) - (vget x.s 0).toInt) / (-2 * (vget x.s 0).toInt)) ∧
    (∃ (s : State) (n : StallId) (r : Running) (x : SeqRegs) (k : ℕ) (c : ℕ) (w : Word) (ad : SeqAddr), SeqAt s n r x k c w ∧ c = 112 ∧
    seqMayStore (progOf r.desc) (x.addr ad).1 1 = true) ∧
    (∃ (s : State) (n : StallId) (r : Running) (x : SeqRegs) (k : ℕ) (c : ℕ) (w : Word) (ad : SeqAddr), SeqAt s n r x k c w ∧ c = 113 ∧
    seqMayStore (progOf r.desc) (x.addr ad).1 1 = true) ∧
    (∃ (s : State) (n : StallId) (r : Running) (x : SeqRegs) (k : ℕ) (c : ℕ) (w : Word) (ad : SeqAddr), SeqAt s n r x k c w ∧ c = 114 ∧
    seqMayStore (progOf r.desc) (x.addr ad).1 1 = true) ∧
    (∃ (s : State) (n : StallId) (r : Running) (x : SeqRegs) (k : ℕ) (c : ℕ) (w : Word) (ad : SeqAddr), SeqAt s n r x k c w ∧ c = 115 ∧
    seqMayStore (progOf r.desc) (x.addr ad).1 2 = true) ∧
    (∃ (s : State) (n : StallId) (r : Running) (x : SeqRegs) (k : ℕ) (c : ℕ) (w : Word) (ad : SeqAddr), SeqAt s n r x k c w ∧ c = 116 ∧
    seqMayLoad (progOf r.desc) (x.addr ad).1 2 = true) ∧
    (∃ (s : State) (n : StallId) (r : Running) (x : SeqRegs) (k : ℕ) (c : ℕ) (w : Word) (ad : SeqAddr), SeqAt s n r x k c w ∧ seqMayStore
    (progOf r.desc) (x.addr ad).1 1 = false ∧ c = 112) ∧
    (∃ (s : State) (n : StallId) (r : Running) (x : SeqRegs) (k : ℕ) (c : ℕ) (w : Word) (ad : SeqAddr), SeqAt s n r x k c w ∧ seqMayStore
    (progOf r.desc) (x.addr ad).1 1 = false ∧ c = 113) ∧
    (∃ (s : State) (n : StallId) (r : Running) (x : SeqRegs) (k : ℕ) (c : ℕ) (w : Word) (ad : SeqAddr), SeqAt s n r x k c w ∧ seqMayStore
    (progOf r.desc) (x.addr ad).1 1 = false ∧ c = 114) ∧
    (∃ (s : State) (n : StallId) (r : Running) (x : SeqRegs) (k : ℕ) (c : ℕ) (w : Word) (ad : SeqAddr), SeqAt s n r x k c w ∧ c = 115 ∧
    seqMayStore (progOf r.desc) (x.addr ad).1 2 = false) ∧
    (∃ (s : State) (n : StallId) (r : Running) (x : SeqRegs) (k : ℕ) (c : ℕ) (w : Word) (ad : SeqAddr), SeqAt s n r x k c w ∧ c = 116 ∧
    seqMayLoad (progOf r.desc) (x.addr ad).1 2 = false) :=
  ⟨⟨seqSt 0x60000000 SeqRegs.clear, 0, seqRun, _, 0, 96, 0x60000000, seqAt (w := 0x60000000) (x := SeqRegs.clear) (by decide +kernel), by decide +kernel⟩,
   ⟨seqSt 0x61000000 SeqRegs.clear, 0, seqRun, _, 0, 97, 0x61000000, seqAt (w := 0x61000000) (x := SeqRegs.clear) (by decide +kernel), by decide +kernel⟩,
   ⟨seqSt 0x62000000 SeqRegs.clear, 0, seqRun, _, 0, 98, 0x62000000, seqAt (w := 0x62000000) (x := SeqRegs.clear) (by decide +kernel), by decide +kernel⟩,
   ⟨seqSt 0x63000000 SeqRegs.clear, 0, seqRun, _, 0, 99, 0x63000000, seqAt (w := 0x63000000) (x := SeqRegs.clear) (by decide +kernel), by decide +kernel⟩,
   ⟨seqSt 0x64000000 SeqRegs.clear, 0, seqRun, _, 0, 100, 0x64000000, seqAt (w := 0x64000000) (x := SeqRegs.clear) (by decide +kernel), by decide +kernel⟩,
   ⟨seqSt 0x65000000 SeqRegs.clear, 0, seqRun, _, 0, 101, 0x65000000, seqAt (w := 0x65000000) (x := SeqRegs.clear) (by decide +kernel), by decide +kernel⟩,
   ⟨seqSt 0x66000000 SeqRegs.clear, 0, seqRun, _, 0, 102, 0x66000000, seqAt (w := 0x66000000) (x := SeqRegs.clear) (by decide +kernel), by decide +kernel⟩,
   ⟨seqSt 0x67000000 SeqRegs.clear, 0, seqRun, _, 0, 103, 0x67000000, seqAt (w := 0x67000000) (x := SeqRegs.clear) (by decide +kernel), by decide +kernel⟩,
   ⟨seqSt 0x68000000 SeqRegs.clear, 0, seqRun, _, 0, 104, 0x68000000, seqAt (w := 0x68000000) (x := SeqRegs.clear) (by decide +kernel), by decide +kernel⟩,
   ⟨seqSt 0x68000000 ({ SeqRegs.clear with s := Vector.replicate 2 1 }), 0, seqRun, _, 0, 104, 0x68000000, 0, 0, seqAt (w := 0x68000000) (x := { SeqRegs.clear with s := Vector.replicate 2 1 }) (by decide +kernel), by decide +kernel⟩,
   ⟨seqSt 0x68000000 ({ SeqRegs.clear with s := Vector.replicate 2 (-1) }), 0, seqRun, _, 0, 104, 0x68000000, 0, 0, seqAt (w := 0x68000000) (x := { SeqRegs.clear with s := Vector.replicate 2 (-1) }) (by decide +kernel), by decide +kernel⟩,
   ⟨seqSt 0x70000000 SeqRegs.clear, 0, seqRun, _, 0, 112, 0x70000000, .offset 0 16, seqAt (w := 0x70000000) (x := SeqRegs.clear) (by decide +kernel), by decide +kernel⟩,
   ⟨seqSt 0x71000000 SeqRegs.clear, 0, seqRun, _, 0, 113, 0x71000000, .offset 0 31, seqAt (w := 0x71000000) (x := SeqRegs.clear) (by decide +kernel), by decide +kernel⟩,
   ⟨seqSt 0x72000000 ({ SeqRegs.clear with ix := Vector.replicate 8 16 }), 0, seqRun, _, 0, 114, 0x72000000, .post 1 0, seqAt (w := 0x72000000) (x := { SeqRegs.clear with ix := Vector.replicate 8 16 }) (by decide +kernel), by decide +kernel⟩,
   ⟨seqSt 0x73000000 SeqRegs.clear, 0, seqRun, _, 0, 115, 0x73000000, .offset 0 30, seqAt (w := 0x73000000) (x := SeqRegs.clear) (by decide +kernel), by decide +kernel⟩,
   ⟨seqSt 0x74000000 SeqRegs.clear, 0, seqRun, _, 0, 116, 0x74000000, .offset 0 14, seqAt (w := 0x74000000) (x := SeqRegs.clear) (by decide +kernel), by decide +kernel⟩,
   ⟨seqSt 0x70000000 SeqRegs.clear, 0, seqRun, _, 0, 112, 0x70000000, .offset 0 15, seqAt (w := 0x70000000) (x := SeqRegs.clear) (by decide +kernel), by decide +kernel⟩,
   ⟨seqSt 0x71000000 SeqRegs.clear, 0, seqRun, _, 0, 113, 0x71000000, .offset 0 32, seqAt (w := 0x71000000) (x := SeqRegs.clear) (by decide +kernel), by decide +kernel⟩,
   ⟨seqSt 0x72000000 SeqRegs.clear, 0, seqRun, _, 0, 114, 0x72000000, .offset 0 0, seqAt (w := 0x72000000) (x := SeqRegs.clear) (by decide +kernel), by decide +kernel⟩,
   ⟨seqSt 0x73000000 SeqRegs.clear, 0, seqRun, _, 0, 115, 0x73000000, .offset 0 31, seqAt (w := 0x73000000) (x := SeqRegs.clear) (by decide +kernel), by decide +kernel⟩,
   ⟨seqSt 0x74000000 SeqRegs.clear, 0, seqRun, _, 0, 116, 0x74000000, .offset 0 15, seqAt (w := 0x74000000) (x := SeqRegs.clear) (by decide +kernel), by decide +kernel⟩⟩

theorem wit_SequencerMultiplies :
    (∃ (s : State) (n : StallId) (r : Running) (x : SeqRegs) (k : ℕ) (w : Word) (u : SeqMul), u = seqMulOf w ∧ SeqAt s n r x k (16 * u.cls +
    u.op) w ∧ u.low = 0 ∧ u.op < 3 ∧ u.sld < 3 ∧ u.tld < 3 ∧ (u.cls = 4 → u.conj = false) ∧ (u.cls = 5 → u.useC = false) ∧ (u.cls = 4 ∨
    u.cls = 5) ∧ (u.sld ≠ 0 → seqMayLoad (progOf r.desc) (vget x.ix (if u.sld = 1 then 0 else 1)).toNat (fmtWords (if u.ci16 = true then
    SeqFmt.ci16 else SeqFmt.int24)) = true) ∧ (u.tld = 1 → seqMayLoad (progOf r.desc) (vget x.ix (if u.tld = 1 then 2 else 3)).toNat
    (fmtWords (if u.ci16 = true then SeqFmt.ci16 else SeqFmt.int24)) = true) ∧ (u.tld = 2 → seqMayLoad (progOf r.desc) (vget x.ix (if
    u.tld = 1 then 2 else 3)).toNat 1 = true)) ∧
    (∃ (s : State) (n : StallId) (r : Running) (x : SeqRegs) (k : ℕ) (w : Word) (u : SeqMul), u = seqMulOf w ∧ SeqAt s n r x k (16 * u.cls +
    u.op) w ∧ u.low = 0 ∧ u.op < 3 ∧ u.sld < 3 ∧ u.tld < 3 ∧ (u.cls = 4 → u.conj = false) ∧ (u.cls = 5 → u.useC = false) ∧ (u.cls = 4 ∨
    u.cls = 5) ∧ (u.sld ≠ 0 ∧ seqMayLoad (progOf r.desc) (vget x.ix (if u.sld = 1 then 0 else 1)).toNat (fmtWords (if u.ci16 = true then
    SeqFmt.ci16 else SeqFmt.int24)) = false ∨ u.tld = 1 ∧ seqMayLoad (progOf r.desc) (vget x.ix (if u.tld = 1 then 2 else 3)).toNat
    (fmtWords (if u.ci16 = true then SeqFmt.ci16 else SeqFmt.int24)) = false ∨ u.tld = 2 ∧ seqMayLoad (progOf r.desc) (vget x.ix (if u.tld
    = 1 then 2 else 3)).toNat 1 = false)) :=
  ⟨⟨seqSt 0x40420000 SeqRegs.clear, 0, seqRun, _, 0, 0x40420000, seqMulOf 0x40420000, rfl, seqAt (w := 0x40420000) (x := SeqRegs.clear) (by decide +kernel), by decide +kernel⟩,
   ⟨seqSt 0x50400000 seqFar, 0, seqRun, _, 0, 0x50400000, seqMulOf 0x50400000, rfl, seqAt (w := 0x50400000) (x := seqFar) (by decide +kernel), by decide +kernel⟩⟩

theorem wit_HistoryRequestsQueueAndRefuse :
    (∃ (s : State) (c : HcPost → Instr) (op : ℕ) (k : Fin 3) (b : List Byte), (c, op) ∈ [(Instr.fetch, 1), (Instr.append, 2), (Instr.attach,
    3), (Instr.detach, 4), (Instr.clone, 5), (Instr.prefixWrite, 6), (Instr.migrate, 7)] ∧ b.length = 32 ∧ bytesNat b 0 1 = op ∧ s.hist.en
    = true ∧ (vget s.hist.rings k).length < 128) ∧
    (∃ (s : State) (c : HcPost → Instr) (op : ℕ) (k : Fin 3) (b : List Byte), (c, op) ∈ [(Instr.fetch, 1), (Instr.append, 2), (Instr.attach,
    3), (Instr.detach, 4), (Instr.clone, 5), (Instr.prefixWrite, 6), (Instr.migrate, 7)] ∧ b.length = 32 ∧ bytesNat b 0 1 = op ∧ s.hist.en
    = true ∧ 128 ≤ (vget s.hist.rings k).length) ∧
    (∃ (s : State) (c : HcPost → Instr) (op : ℕ), (c, op) ∈ [(Instr.fetch, 1), (Instr.append, 2), (Instr.attach, 3), (Instr.detach, 4),
    (Instr.clone, 5), (Instr.prefixWrite, 6), (Instr.migrate, 7)] ∧ s.hist.en = false) ∧
    (∃ (s : State) (c : HcPost → Instr) (op : ℕ) (k : Fin 3) (r : HistReq) (rest : List HistReq) (f : HistFields), (c, op) ∈ [(Instr.fetch, 1),
    (Instr.append, 2), (Instr.attach, 3), (Instr.detach, 4), (Instr.clone, 5), (Instr.prefixWrite, 6), (Instr.migrate, 7)] ∧ HistServes s
    k r rest f op ∧ bytesNat r.bytes 30 2 ≠ (crc16 (List.take 30 r.bytes)).toNat ∧ DoneInStall s f ∧ MemOk s) ∧
    (∃ (s : State) (c : HcPost → Instr) (op : ℕ) (k : Fin 3) (r : HistReq) (rest : List HistReq) (f : HistFields) (off : ℕ), (c, op) ∈
    [(Instr.fetch, 1), (Instr.append, 2), (Instr.attach, 3), (Instr.detach, 4), (Instr.clone, 5), (Instr.prefixWrite, 6), (Instr.migrate,
    7)] ∧ HistServes s k r rest f op ∧ op ≠ 3 ∧ op ≠ 5 ∧ op ≠ 6 ∧ histCheck r.bytes r.hall = none ∧ placeOf (s.hist.trackAddr f.track)
    2048 = Place.plain off ∧ s.fwRefused (histSource 0) false off 2048 = none ∧ (trackIn s f.track).attached = false ∧ DoneInStall s f ∧
    MemOk s) :=
  ⟨⟨histSt [] lit, .fetch, 1, 0, fields 32 [(0, 1, 1)], by simp, by decide +kernel⟩,
   ⟨lit.modHist (fun h => { h with en := true, rings := vset h.rings 0 (List.replicate 128 ⟨[], true, 0⟩) }), .fetch, 1, 0,
    fields 32 [(0, 1, 1)], by simp, by decide +kernel⟩,
   ⟨lit, .fetch, 1, by simp, by decide +kernel⟩,
   ⟨histSt (fields 32 [(0, 1, 1), (16, 4, 0x10000000)]) lit, .fetch, 1, 0, _, _, _, by simp, ⟨by decide +kernel, rfl, rfl, by decide +kernel⟩, by decide +kernel, ⟨0, 0, by decide +kernel, by decide +kernel⟩, memOk (by decide +kernel)⟩,
   ⟨histSt (hreq [(0, 1, 1), (16, 4, 0x10000000)]) lit, .fetch, 1, 0, _, _, _, 0, by simp, ⟨by decide +kernel, rfl, rfl, by decide +kernel⟩, by decide +kernel, by decide +kernel, by decide +kernel, by decide +kernel, by decide +kernel, by decide +kernel, by decide +kernel,
    ⟨0, 0, by decide +kernel, by decide +kernel⟩, memOk (by decide +kernel)⟩⟩

theorem wit_HistoryTracksComeAndGo :
    (∃ (s : State) (k : Fin 3) (r : HistReq) (rest : List HistReq) (f : HistFields), HistServes s k r rest f 3 ∧ histCheck r.bytes r.hall =
    none ∧ f.cell < 16 ∧ (s.trackRec f.track).1.attached = false ∧ WalkerMayWrite s f.track ∧ DoneInStall s f ∧ MemOk s) ∧
    (∃ (s : State) (k : Fin 3) (r : HistReq) (rest : List HistReq) (f : HistFields), HistServes s k r rest f 4 ∧ histCheck r.bytes r.hall =
    none ∧ (s.trackRec f.track).1.attached = true ∧ s.hist.active = [] ∧ WalkerMayWrite s f.track ∧ DoneInStall s f ∧ MemOk s) ∧
    (∃ (s : State) (k : Fin 3) (r : HistReq) (rest : List HistReq) (f : HistFields) (d : TrackId), HistServes s k r rest f 5 ∧ histCheck
    r.bytes r.hall = none ∧ f.cell < 16 ∧ ↑d = f.dest ∧ (s.trackRec f.track).1.attached = true ∧ (s.trackRec d).1.attached = false ∧
    WalkerMayWrite s f.track ∧ WalkerMayWrite s d ∧ DoneInStall s f ∧ MemOk s) ∧
    (∃ (s : State) (x : TrackId), (s.trackRec x).1.attached = true ∧ s.hist.en = true ∧ s.hist.active = [] ∧ ns ↑((s.cell (s.trackRec
    x).1.cell).get CellParam.histIdle * s.slotLen (s.trackRec x).1.cell) ≤ s.now - vget s.hist.last x ∧ WalkerMayWrite s x ∧ MemOk s) :=
  ⟨⟨histSt (hreq [(0, 1, 3), (16, 4, 0x10000000)]) lit, 0, _, _, _, ⟨by decide +kernel, rfl, rfl, by decide +kernel⟩, by decide +kernel, by decide +kernel, by decide +kernel, ⟨0, by decide +kernel, by decide +kernel⟩, ⟨0, 0, by decide +kernel, by decide +kernel⟩, memOk (by decide +kernel)⟩,
   ⟨histSt (hreq [(0, 1, 4), (16, 4, 0x10000000)]) (tracked lit), 0, _, _, _, ⟨by decide +kernel, rfl, rfl, by decide +kernel⟩, by decide +kernel, by decide +kernel, by decide +kernel, ⟨0, by decide +kernel, by decide +kernel⟩, ⟨0, 0, by decide +kernel, by decide +kernel⟩, memOk (by decide +kernel)⟩,
   ⟨histSt (hreq [(0, 1, 5), (16, 4, 0x10000000), (26, 2, 1)]) (tracked lit), 0, _, _, _, 1, ⟨by decide +kernel, rfl, rfl, by decide +kernel⟩, by decide +kernel, by decide +kernel, by decide +kernel, by decide +kernel, by decide +kernel, ⟨0, by decide +kernel, by decide +kernel⟩,
    ⟨2048, by decide +kernel, by decide +kernel⟩, ⟨0, 0, by decide +kernel, by decide +kernel⟩, memOk (by decide +kernel)⟩,
   ⟨histSt [] (tracked lit), 0, by decide +kernel, by decide +kernel, by decide +kernel, by decide +kernel, ⟨0, by decide +kernel, by decide +kernel⟩, memOk (by decide +kernel)⟩⟩

theorem wit_HistoryRequestsStartMoving :
    (∃ (s : State) (k : Fin 3) (r : HistReq) (rest : List HistReq) (f : HistFields) (x : TrackRec) (g : HistGeo), HistServes s k r rest f 1 ∧
    histCheck r.bytes r.hall = none ∧ (s.trackRec f.track).1 = x ∧ x.attached = true ∧ s.histGeo x.cell = g ∧ f.minAge ≠ 0 ∧ f.count ≠ 0 ∧
    f.first + f.count ≤ g.tok ∧ f.ref < g.period ∧ ∀ (q : ℕ), sget 0 s.hist.pin q < 255) ∧
    (∃ (s : State) (k : Fin 3) (r : HistReq) (rest : List HistReq) (f : HistFields) (x : TrackRec) (g : HistGeo) (same : Bool) (pos : ℕ),
    HistServes s k r rest f 2 ∧ histCheck r.bytes r.hall = none ∧ (s.trackRec f.track).1 = x ∧ x.attached = true ∧ s.histGeo x.cell = g ∧
    f.ref < g.period ∧ 1 ≤ g.w ∧ g.w ≤ 64 ∧ (s.prefixRec x.cell).1.gen = x.gen ∧ s.hist.active = [] ∧ (∀ (j : Fin 64), vget s.hist.lab j =
    []) ∧ (
    have newest := if x.head = 0 then noStamp else x.stamps.getD ((x.head - 1) % g.w) noStamp; same = (decide (newest ≠ noStamp) && decide
        (newest = f.ref)) ∧ (newest = noStamp ∨ g.reached f.ref newest = true)) ∧ (pos = if same = true then (x.head - 1) % g.w else
        x.head % g.w) ∧ (x.pte (pos / g.rgpp false)).v = true ∧ (x.pte (pos / g.rgpp false)).sh = false ∧ pos / g.rgpp false < 32 ∧ (x.pte
        (32 + pos / g.rgpp true)).v = true ∧ (x.pte (32 + pos / g.rgpp true)).sh = false ∧ pos / g.rgpp true < 32) ∧
    (∃ (s : State) (k : Fin 3) (r : HistReq) (rest : List HistReq) (f : HistFields) (x : TrackRec) (p : Pte), HistServes s k r rest f 7 ∧
    histCheck r.bytes r.hall = none ∧ (s.trackRec f.track).1 = x ∧ x.attached = true ∧ f.loc ≠ 3 ∧ f.page < 128 ∧ x.pte f.page = p ∧ p.v =
    true ∧ sget 0 s.hist.refcnt p.frame ≤ 1 ∧ sget 0 s.hist.pin p.frame = 0 ∧ s.hist.active = [] ∧ WalkerMayWrite s f.track ∧ MemOk s ∧
    s.hist.gives (if f.page < 32 then 1 else if f.page < 64 then 2 else 0) f.loc ≠ []) ∧
    (∃ (s : State) (k : Fin 3) (r : HistReq) (rest : List HistReq) (f : HistFields) (c : CellId) (g : HistGeo) (x : PrefixRec), HistServes s k
    r rest f 6 ∧ histCheck r.bytes r.hall = none ∧ ↑c = f.cell ∧ s.histGeo c = g ∧ f.count ≠ 0 ∧ f.first + f.count ≤ g.p ∧ g.p ≤ 64 ∧
    f.ref < g.period ∧ (s.prefixRec c).1 = x ∧ (∀ (y : TrackId), (s.trackRec y).1.attached = true → (s.trackRec y).1.cell = c →
    (s.trackRec y).1.gen = x.gen) ∧ s.hist.active = [] ∧ (∀ i < f.count, ∀ (v : Bool),
    have q := x.ptes.getD ((if v = true then 32 else 0) + (f.first + i) / g.rgpp v) Pte.empty; q.v = true ∧ sget 0 s.hist.refcnt q.frame = 1 ∧
        sget 0 s.hist.pin q.frame = 0) ∧ (∃ (off : ℕ), placeOf (s.hist.prefixAddr c) 1024 = Place.plain off ∧ s.fwRefused (histSource 0)
        true off 1024 = none) ∧ MemOk s) :=
  ⟨⟨histSt (hreq [(0, 1, 1), (1, 1, 1), (21, 1, 1)]) (tracked lit), 0, _, _, _, _, _, ⟨by decide +kernel, rfl, rfl, by decide +kernel⟩, by decide +kernel, rfl, by decide +kernel, rfl, by decide +kernel, by decide +kernel, by decide +kernel, by decide +kernel,
    fun _ => show 0 < 255 from by decide +kernel⟩,
   ⟨histSt (hreq [(0, 1, 2)]) (tracked lit), 0, _, _, _, _, _, false, 0, ⟨by decide +kernel, rfl, rfl, by decide +kernel⟩, by decide +kernel, rfl, by decide +kernel, rfl, by decide +kernel⟩,
   ⟨histSt (hreq [(0, 1, 7)]) (tracked lit), 0, _, _, _, _, _, ⟨by decide +kernel, rfl, rfl, by decide +kernel⟩, by decide +kernel, rfl, by decide +kernel, by decide +kernel, by decide +kernel, rfl, by decide +kernel, by decide +kernel, by decide +kernel, by decide +kernel, ⟨0, by decide +kernel, by decide +kernel⟩, memOk (by decide +kernel), by decide +kernel⟩,
   ⟨(histSt (hreq [(0, 1, 6), (21, 1, 1)]) (withMem 0x20200147 [0x80] (withMem 0x20200047 [0x80] lit))).modHist
    (fun h => { h with refcnt := [(0, 1)] }), 0, _, _, _, 0, _, _, ⟨by decide +kernel, rfl, rfl, by decide +kernel⟩, by decide +kernel, by decide +kernel, rfl, by decide +kernel, by decide +kernel, by decide +kernel, by decide +kernel, rfl, by decide +kernel, by decide +kernel, by decide +kernel, ⟨0x200000, by decide +kernel, by decide +kernel⟩, memOk (by decide +kernel)⟩⟩

theorem wit_HistoryRequestsComplete :
    (∃ (s : State) (i : ℕ) (r : HistRun) (f : HistFields), s.hist.active[i]? = some r ∧ histOf r.bytes = f ∧ f.op = 1 ∧ r.waits = [] ∧
    268435456 ≤ f.addr0 ∧ 268435456 ≤ f.addr1 ∧ DoneInStall s f ∧ s.hist.leaving = [] ∧ MemOk s) ∧
    (∃ (s : State) (i : ℕ) (r : HistRun) (f : HistFields) (w : HistWrite), s.hist.active[i]? = some r ∧ histOf r.bytes = f ∧ f.op ≠ 1 ∧ r.waits
    = [] ∧ r.copies = [] ∧ DoneInStall s f ∧ s.hist.leaving = [] ∧ r.writes.getLast? = some w ∧ (∀ v ∈ r.writes, v.frame < 448) ∧
    s.hist.sram.wf = true ∧ ∃ (n : StallId) (off : ℕ), placeOf w.src w.len = Place.stallMem n off ∧ s.domainOn ↑n = true) ∧
    (∃ (s : State) (i : ℕ) (c : Ecc) (r : HistRun) (f : HistFields), s.hist.active[i]? = some r ∧ histOf r.bytes = f ∧ f.op ≠ 1 ∧ r.waits = []
    ∧ r.writes = [] ∧ c ≠ Ecc.uncorrectable ∧ DoneInStall s f ∧ s.hist.leaving = [] ∧ MemOk s) ∧
    (∃ (s : State) (q : Fin 65536) (i : ℕ) (r : HistRun), sget 0 s.hist.pin ↑q = 0 ∧ List.findIdx? (fun (r : HistRun) => r.waits.contains ↑q)
    s.hist.active = some i ∧ s.hist.active[i]? = some r) ∧
    (∃ (s : State) (v : Word), wbit v 0 = true ∧ s.hist.busy = false) ∧
    (∃ (s : State) (v : Word), wbit v 0 = true ∧ s.hist.busy = true) ∧
    (∃ (s : State), ∀ r ∈ s.hist.active, r.shot = false) :=
  ⟨⟨inProgress (running (hreq [(0, 1, 1), (8, 4, 0x10000000), (12, 4, 0x10000000), (16, 4, 0x10000000)])) lit, 0, _, _, rfl, rfl, by decide +kernel, by decide +kernel, by decide +kernel, by decide +kernel, ⟨0, 0, by decide +kernel, by decide +kernel⟩, by decide +kernel, memOk (by decide +kernel)⟩,
   ⟨inProgress { running (hreq [(0, 1, 2), (16, 4, 0x10000000)]) with writes := [⟨0x10000000, 0, 0, 16, false⟩] } lit, 0, _, _,
    ⟨0x10000000, 0, 0, 16, false⟩, rfl, rfl, by decide +kernel, by decide +kernel, by decide +kernel, ⟨0, 0, by decide +kernel, by decide +kernel⟩, by decide +kernel, by decide +kernel, by decide +kernel, by decide +kernel, 0, 0, by decide +kernel⟩,
   ⟨inProgress (running (hreq [(0, 1, 2), (16, 4, 0x10000000)])) lit, 0, .clean, _, _, rfl, rfl, by decide +kernel, by decide +kernel, by decide +kernel, by decide +kernel, ⟨0, 0, by decide +kernel, by decide +kernel⟩, by decide +kernel, memOk (by decide +kernel)⟩,
   ⟨inProgress { running [] with waits := [0] } lit, 0, 0, _, by decide +kernel, by decide +kernel, rfl⟩,
   ⟨lit, 1, by decide +kernel⟩,
   ⟨lit.modHist fun h => { h with busy := true }, 1, by decide +kernel⟩,
   ⟨lit, by decide +kernel⟩⟩

theorem wit_DmaDescriptorsStart :
    (∃ (s : State) (n : StallId) (u : StreamId) (c : Chain) (c' : Chain) (d : DmaDesc) (r : Running) (p : ℕ × Instr), DmaNext s n u c c' d ∧
    c'.origin = ChainOrigin.command r ∧ c'.expired = false ∧ p ∈ [(0, Instr.dmaCopy n u), (1, Instr.dmaFill n u)] ∧ d.op = p.1 ∧ d.rows ≠
    0 ∧ d.len ≠ 0) ∧
    (∃ (s : State) (n : StallId) (u : StreamId) (c : Chain) (c' : Chain) (d : DmaDesc) (r : Running) (p : ℕ × Instr), DmaNext s n u c c' d ∧
    c'.origin = ChainOrigin.command r ∧ c'.expired = false ∧ p ∈ [(0, Instr.dmaCopy n u), (1, Instr.dmaFill n u)] ∧ d.op = p.1 ∧ (d.rows =
    0 ∨ d.len = 0)) ∧
    (∃ (s : State) (n : StallId) (u : StreamId) (c : Chain) (c' : Chain) (d : DmaDesc) (r : Running), DmaNext s n u c c' d ∧ c'.origin =
    ChainOrigin.command r ∧ c'.expired = false ∧ d.op = 2 ∧ ChainWord s n c' d.dst ∧ MemOk s) ∧
    (∃ (s : State) (n : StallId) (u : StreamId) (c : Chain) (c' : Chain) (d : DmaDesc) (r : Running) (e : Ecc), DmaNext s n u c c' d ∧
    c'.origin = ChainOrigin.command r ∧ c'.expired = false ∧ e ≠ Ecc.uncorrectable ∧ d.op = 3 ∧ ChainWord s n c' d.src ∧ d.dst ≤ memNat
    s.mem d.src 8) ∧
    (∃ (s : State) (n : StallId) (u : StreamId) (c : Chain) (c' : Chain) (d : DmaDesc) (r : Running) (e : Ecc), DmaNext s n u c c' d ∧
    c'.origin = ChainOrigin.command r ∧ c'.expired = false ∧ e ≠ Ecc.uncorrectable ∧ d.op = 3 ∧ ChainWord s n c' d.src ∧ memNat s.mem
    d.src 8 < d.dst) ∧
    (∃ (s : State) (n : StallId) (u : StreamId) (c : Chain) (c' : Chain) (d : DmaDesc) (r : Running) (e : Ecc) (k : Fin 3) (off : ℕ), DmaNext s
    n u c c' d ∧ c'.origin = ChainOrigin.command r ∧ c'.expired = false ∧ e ≠ Ecc.uncorrectable ∧ d.op = 4 ∧ placeOf d.src 32 = Place.dram
    off ∧ postWindow d.dst = some k ∧ s.hist.en = true ∧ (vget s.hist.rings k).length < 128) ∧
    (∃ (s : State) (n : StallId) (u : StreamId) (c : Chain) (c' : Chain) (d : DmaDesc) (r : Running), DmaNext s n u c c' d ∧ c'.origin =
    ChainOrigin.command r ∧ c'.expired = false ∧ d.op = 5 ∧ (s.pass (passOf d.passId)).en = true) ∧
    (∃ (s : State) (n : StallId) (u : StreamId) (c : Chain) (c' : Chain) (d : DmaDesc) (r : Running), DmaNext s n u c c' d ∧ c'.origin =
    ChainOrigin.command r ∧ c'.expired = false ∧ d.op = 5 ∧ (s.pass (passOf d.passId)).en = false) :=
  ⟨⟨dmaSt copyDesc, 0, 0, chainOf' 0 [] .ready, _, _, _, (0, .dmaCopy 0 0), dmaNext (by decide +kernel), rfl, by decide +kernel⟩,
   ⟨dmaSt (fields 32 [(0, 1, 1)]), 0, 0, chainOf' 0 [] .ready, _, _, _, (1, .dmaFill 0 0), dmaNext (by decide +kernel), rfl, by decide +kernel⟩,
   ⟨dmaSt (fields 32 [(0, 1, 2), (16, 8, 0x10000000)]), 0, 0, chainOf' 0 [] .ready, _, _, _, dmaNext (by decide +kernel), rfl, by decide +kernel, by decide +kernel, .inl ⟨0, by decide +kernel, by decide +kernel, by decide +kernel, by decide +kernel⟩, memOk (by decide +kernel)⟩,
   ⟨dmaSt (fields 32 [(0, 1, 3), (8, 8, 0x10000000)]), 0, 0, chainOf' 0 [] .ready, _, _, _, .clean, dmaNext (by decide +kernel), rfl, by decide +kernel, by decide +kernel, by decide +kernel, .inl ⟨0, by decide +kernel, by decide +kernel, by decide +kernel, by decide +kernel⟩, by decide +kernel⟩,
   ⟨dmaSt (fields 32 [(0, 1, 3), (8, 8, 0x400000000), (16, 8, 1)]), 0, 0, chainOf' 0 [] .ready, _, _, _, .clean, dmaNext (by decide +kernel), rfl, by decide +kernel, by decide +kernel, by decide +kernel, .inr ⟨0, by decide +kernel⟩, by decide +kernel⟩,
   ⟨(dmaSt (fields 32 [(0, 1, 4), (8, 8, 0x400000000), (16, 8, 0x01E01000)])).modHist (fun h => { h with en := true }), 0, 0,
    chainOf' 0 [] .ready, _, _, _, .clean, 0, 0, dmaNext (by decide +kernel), rfl, by decide +kernel⟩,
   ⟨withPass (dmaSt (fields 32 [(0, 1, 5)])), 0, 0, chainOf' 0 [] .ready, _, _, _, dmaNext (by decide +kernel), rfl, by decide +kernel⟩,
   ⟨dmaSt (fields 32 [(0, 1, 5)]), 0, 0, chainOf' 0 [] .ready, _, _, _, dmaNext (by decide +kernel), rfl, by decide +kernel⟩⟩

theorem wit_DmaSegmentsWaitsAndBudgets :
    (∃ (s : State) (n : StallId) (u : StreamId) (c : Chain) (r : Running) (d : DmaDesc) (row : ℕ) (off : ℕ) (so : ℕ) (dstOff : ℕ) (e : Ecc),
    chainOn s n u = some c ∧ c.origin = ChainOrigin.command r ∧ c.expired = false ∧ c.phase = ChainPhase.moving row off ∧ dmaOf c.cur = d
    ∧ d.op = 0 ∧ placeOf (segment d row off).1 (segment d row off).2.2 = Place.dram so ∧ e ≠ Ecc.uncorrectable ∧ placeOf (segment d row
    off).2.1 (segment d row off).2.2 = Place.stallMem n dstOff ∧ s.domainOn ↑n = true ∧ c.localBase ≤ dstOff ∧ dstOff + (segment d row
    off).2.2 ≤ c.localEnd ∧ ceilDiv (segment d row off).2.2 256 ≤ (s.stall n).stageLimit u ∧ MemOk s) ∧
    (∃ (s : State) (n : StallId) (u : StreamId) (c : Chain) (r : Running) (d : DmaDesc) (row : ℕ) (off : ℕ) (so : ℕ), chainOn s n u = some c ∧
    c.origin = ChainOrigin.command r ∧ c.phase = ChainPhase.moving row off ∧ dmaOf c.cur = d ∧ d.op = 0 ∧ placeOf (segment d row off).1
    (segment d row off).2.2 = Place.dram so ∧ ceilDiv (segment d row off).2.2 256 ≤ (s.stall n).stageLimit u) ∧
    (∃ (s : State) (n : StallId) (u : StreamId) (c : Chain) (r : Running) (d : DmaDesc) (row : ℕ) (off : ℕ) (dstOff : ℕ), chainOn s n u = some
    c ∧ c.origin = ChainOrigin.command r ∧ c.expired = true ∧ c.phase = ChainPhase.moving row off ∧ dmaOf c.cur = d ∧ d.op = 1 ∧ 8 *
    ((segment d row off).2.2 / 8) = (segment d row off).2.2 ∧ placeOf (segment d row off).2.1 (segment d row off).2.2 = Place.dram dstOff
    ∧ MemOk s) ∧
    (∃ (s : State) (n : StallId) (u : StreamId) (c : Chain) (r : Running) (d : DmaDesc) (since : ℤ) (e : Ecc), e ≠ Ecc.uncorrectable ∧ chainOn
    s n u = some c ∧ c.origin = ChainOrigin.command r ∧ c.expired = false ∧ c.phase = ChainPhase.waiting since ∧ dmaOf c.cur = d ∧
    ChainWord s n c d.src ∧ d.dst ≤ memNat s.mem d.src 8) ∧
    (∃ (s : State) (n : StallId) (u : StreamId) (c : Chain) (r : Running) (since : ℤ), chainOn s n u = some c ∧ c.origin = ChainOrigin.command
    r ∧ c.phase = ChainPhase.waiting since ∧ (dmaOf c.cur).len % 65536 ≠ 0 ∧ ns ↑((dmaOf c.cur).len % 65536 * 1000) ≤ s.now - since) ∧
    (∃ (s : State) (n : StallId) (u : StreamId) (c : Chain) (r : Running) (row : ℕ) (off : ℕ), chainOn s n u = some c ∧ c.origin =
    ChainOrigin.command r ∧ (descOf r.desc).budget ≠ 0 ∧ ns ↑((descOf r.desc).budget * 1000) ≤ s.now - c.started ∧ c.phase =
    ChainPhase.moving row off) ∧
    (∃ (s : State) (n : StallId) (u : StreamId) (c : Chain) (r : Running) (since : ℤ), chainOn s n u = some c ∧ c.origin = ChainOrigin.command
    r ∧ (descOf r.desc).budget ≠ 0 ∧ ns ↑((descOf r.desc).budget * 1000) ≤ s.now - c.started ∧ c.phase = ChainPhase.waiting since) :=
  ⟨⟨withChain (chainOf' 0 copyDesc (.moving 0 0)) lit, 0, 0, _, _, _, 0, 0, 0, 0, .clean, rfl, rfl, by decide +kernel, rfl, rfl, by decide +kernel, by decide +kernel, by decide +kernel, by decide +kernel, by decide +kernel, by decide +kernel, by decide +kernel, by decide +kernel, memOk (by decide +kernel)⟩,
   ⟨withChain (chainOf' 0 copyDesc (.moving 0 0)) lit, 0, 0, _, _, _, 0, 0, 0, rfl, rfl, rfl, rfl, by decide +kernel⟩,
   ⟨withChain { chainOf' 0 fillDesc (.moving 0 0) with expired := true } lit, 0, 0, _, _, _, 0, 0, 0, rfl, rfl, by decide +kernel, rfl, rfl, by decide +kernel, by decide +kernel, by decide +kernel, memOk (by decide +kernel)⟩,
   ⟨withChain (chainOf' 0 (fields 32 [(0, 1, 3), (8, 8, 0x10000000)]) (.waiting 0)) lit, 0, 0, _, _, _, 0, .clean, by decide +kernel, rfl, rfl, by decide +kernel, rfl, rfl, .inl ⟨0, by decide +kernel, by decide +kernel, by decide +kernel, by decide +kernel⟩, by decide +kernel⟩,
   ⟨withChain (chainOf' 0 (fields 32 [(0, 1, 3), (4, 4, 1)]) (.waiting 0)) lit, 0, 0, _, _, 0, rfl, rfl, rfl, by decide +kernel⟩,
   ⟨withChain (chainOf' 1 copyDesc (.moving 0 0)) lit, 0, 0, _, _, 0, 0, rfl, rfl, by decide +kernel, by decide +kernel, rfl⟩,
   ⟨withChain (chainOf' 1 [] (.waiting 0)) lit, 0, 0, _, _, 0, rfl, rfl, by decide +kernel, by decide +kernel, rfl⟩⟩

theorem wit_ArmedChainsAndReserves :
    (∃ (s : State) (n : StallId) (u : StreamId) (b : List Byte), chainOn s n u = none ∧ (vget (s.stall n).streams u).shadow = some b) ∧
    (∃ (s : State) (n : StallId) (held : List ℕ) (u : StreamId) (c : Chain) (r : Running), (s.stall n).dmaMode = 2 ∧ held.length ≤ 8 ∧ (s.stall
    n).poolFull held = true ∧ 0 < held.getD (↑u) 0 ∧ (∀ (v : StreamId), 0 < held.getD (↑v) 0 → (s.stall n).stuck v (held.getD (↑v) 0) =
    true) ∧ (∀ (v : StreamId) (d : Chain), v ≠ u → 0 < held.getD (↑v) 0 → chainOn s n v = some d → d.started < c.started) ∧ chainOn s n u
    = some c ∧ c.origin = ChainOrigin.command r) :=
  ⟨⟨lit.modStream 0 0 fun y => { y with shadow := some [] }, 0, 0, [], by decide +kernel⟩,
   ⟨cyclic, 0, [64, 64], 0, _, _, by decide +kernel, by decide +kernel, by decide +kernel, by decide +kernel, by decide +kernel,
    fun v d hv hh => all1 (P := fun d : Chain => d.started < 1)
    ((show ∀ v : StreamId, v ≠ 0 → 0 < [64, 64].getD v.val 0 → ∀ d ∈ chainOn cyclic 0 v, d.started < 1 from by decide +kernel) v hv hh) d, rfl, rfl⟩⟩

theorem wit_PassesReleaseTimeOutAndCancel :
    (∃ (s : State) (p : PassId) (g : Fin 8) (w : PassWave) (i : ℤ), List.find? (fun (w : PassWave) => !w.done.contains g) (s.pass p).waves =
    some w ∧ w.release = some i ∧ (s.pass p).en = true ∧ (∀ h < g, h ∈ w.done) ∧ s.reached (i + ns ((8 * g.val : Nat) : Int)) = true) ∧
    (∃ (s : State) (p : PassId) (d : DeviceId), (s.pass p).joined = true ∧ (s.pass p).en = true ∧ s.join.member d = true ∧ (s.pass p).waves =
    []) ∧
    (∃ (s : State) (p : PassId) (d : DeviceId) (i : ℤ) (own : ℤ) (w : PassWave) (ts : List ℤ), (s.pass p).joined = true ∧ (s.pass p).en = true
    ∧ s.join.member d = true ∧ (s.pass p).waves = [w] ∧ w.release = none ∧ w.stamp = some own ∧ firstStamps ((s.pass p).members ++ [(d,
    i)]) s.join.others = some ts) ∧
    (∃ (timing : Word) (last : ℤ), 1 ≤ fld timing 15 0 ∧ 0 ≤ last) ∧
    (∃ (s : State) (n : StallId) (r : Running) (p : PassId) (g : ℕ) (l : ℤ), (s.stall n).matrix = Matrix.passWait r p g (some l) ∧ r.outcome =
    none ∧ s.reached l = true) ∧
    (∃ (s : State) (p : PassId), (s.pass p).en = false) ∧
    (∃ (s : State) (p : PassId) (v : Word), (s.pass p).en = true ∧ wbit v 31 = true) ∧
    (∃ (s : State) (p : PassId) (v : Word), (s.pass p).en = true ∧ wbit v 31 = false) :=
  ⟨⟨joinedPass [⟨1, none, some 0, []⟩] lit, 0, 0, _, 0, rfl, rfl, by decide +kernel⟩,
   ⟨joinedPass [] lit, 0, 1, by decide +kernel⟩,
   ⟨joinedPass [⟨1, some 0, none, []⟩] lit, 0, 1, 0, 0, _, [0], by decide +kernel, by decide +kernel, by decide +kernel, rfl, by decide +kernel⟩,
   ⟨0x07D001F4, 0, by decide +kernel⟩,
   ⟨lit.modStall 0 fun x => { x with matrix := .passWait (run0 []) 0 0 (some 0) }, 0, run0 [], 0, 0, 0, by decide +kernel⟩,
   ⟨lit, 0, by decide +kernel⟩,
   ⟨withPass lit, 0, 0x80000000, by decide +kernel⟩,
   ⟨withPass lit, 0, 0, by decide +kernel⟩⟩

theorem wit_PortsFollowTheirLinks :
    (∃ (s : State) (p : PortId), s.portOn p = true) ∧
    (∃ (s : State) (p : PortId) (i : Fin 8), s.portOn p = true ∧ (s.port p).pcp ≠ ↑i) ∧
    (∃ (s : State) (p : PortId) (i : Fin 8), (s.port p).pcp = ↑i) ∧
    (∃ (s : State) (p : PortId), s.portOn p = true) ∧
    (∃ (s : State) (p : PortId) (i : ℤ), (s.port p).offAt = some i ∧ (s.port p).en = false ∧ s.reached (i + ns 1000000) = true) ∧
    (∃ (s : State) (p : PortId) (prio : Option (Fin 8)) (len : ℕ) (d : ℤ) (k : Fin 8), s.departs p prio len = d ∧ prio = some k) ∧
    (∃ (s : State) (p : PortId) (prio : Option (Fin 8)) (len : ℕ) (d : ℤ) (l : ℤ × ℕ), s.departs p prio len = d ∧ l ∈ (s.port p).launches) :=
  ⟨⟨linked lit, 0, by decide +kernel⟩,
   ⟨linked lit, 0, 0, by decide +kernel⟩,
   ⟨lit, 0, 7, by decide +kernel⟩,
   ⟨linked lit, 0, by decide +kernel⟩,
   ⟨lit.modPort 0 fun x => { x with offAt := some 0 }, 0, 0, by decide +kernel⟩,
   ⟨linked lit, 0, some 0, 0, _, 0, rfl, rfl⟩,
   ⟨(linked lit).modPort 0 fun x => { x with staged := [⟨1, ⟨0, 0⟩, 0, 1, 0, 0, 0, [], 0⟩] }, 0, none, 0, _, (0, 0), rfl, by decide +kernel⟩⟩

theorem wit_UplanePacketsAreChecked :
    (∃ (s : State) (p : PortId) (f : UplaneFrame), s.portOn p = true ∧ s.domainOn 73 = true ∧ f.fcsOk = false) ∧
    (∃ (s : State) (p : PortId) (f : UplaneFrame), s.portOn p = true ∧ s.domainOn 73 = true ∧ f.fcsOk = true ∧ ((s.port p).mode ≠ 1 ∨ (s.port
    p).mtu < f.bytes ∨ f.headerOk = false ∨ f.vid ≠ (s.port p).vid ∨ s.eaxcOk p f.eaxc = false)) ∧
    (∃ (s : State) (p : PortId) (f : UplaneFrame) (c : CellId), RxGood s p f ∧ eaxcCell f.eaxc = c ∧ nsOf (s.stamp p) < nsOf ((s.frameTiming
    c).start (s.rxSlot c f))) ∧
    (∃ (s : State) (p : PortId) (f : UplaneFrame) (c : CellId), RxGood s p f ∧ eaxcCell f.eaxc = c ∧ nsOf ((s.frameTiming c).start (s.rxSlot c
    f)) ≤ nsOf (s.stamp p) ∧ nsOf ((s.frameTiming c).start (s.rxSlot c f + 1) + pctOf (slotNs (s.frameTiming c).mu) 80) ≤ nsOf (s.stamp p)) ∧
    (∃ (s : State) (p : PortId) (f : UplaneFrame) (c : CellId) (a : AirSlot) (x : IngSlot) (g : USection) (u : UPrb) (j : ℕ), RxGood s p f ∧
    eaxcCell f.eaxc = c ∧ (s.frameTiming c).air (s.rxSlot c f) = a ∧ bitsOf f.eaxc.toNat 11 8 = 0 ∧ bitsOf f.eaxc.toNat 7 0 = j ∧ nsOf
    ((s.frameTiming c).start (s.rxSlot c f)) ≤ nsOf (s.stamp p) ∧ nsOf (s.stamp p) < nsOf ((s.frameTiming c).start (s.rxSlot c f + 1) +
    pctOf (slotNs (s.frameTiming c).mu) 80) ∧ f.dataDirection = false ∧ f.payloadVersion = 1 ∧ f.sections = [g] ∧ g.bfpWidth =
    (s.cellBuilt c a).get CellParam.bfpWidth ∧ g.methodOk = true ∧ g.bfpWidth < 16 ∧ g.prbs = [u] ∧ g.prbCount = 1 ∧ s.ingSlot c a = some
    x ∧ u.exponent ≤ 16 - g.bfpWidth ∧ x.requested f.symbol g.prbStart = true ∧ IngSlot.unit x.rx f.symbol g.prbStart j = none) ∧
    (∃ (s : State) (p : PortId) (f : UplaneFrame) (c : CellId) (a : AirSlot) (x : IngSlot) (g : USection) (u : UPrb) (j : ℕ), RxGood s p f ∧
    eaxcCell f.eaxc = c ∧ (s.frameTiming c).air (s.rxSlot c f) = a ∧ bitsOf f.eaxc.toNat 11 8 = 0 ∧ bitsOf f.eaxc.toNat 7 0 = j ∧ nsOf
    ((s.frameTiming c).start (s.rxSlot c f)) ≤ nsOf (s.stamp p) ∧ nsOf (s.stamp p) < nsOf ((s.frameTiming c).start (s.rxSlot c f + 1) +
    pctOf (slotNs (s.frameTiming c).mu) 80) ∧ f.dataDirection = false ∧ f.payloadVersion = 1 ∧ f.sections = [g] ∧ g.bfpWidth =
    (s.cellBuilt c a).get CellParam.bfpWidth ∧ g.methodOk = true ∧ g.bfpWidth < 16 ∧ g.prbs = [u] ∧ g.prbCount = 1 ∧ s.ingSlot c a = some
    x ∧ u.exponent ≤ 16 - g.bfpWidth ∧ x.requested f.symbol g.prbStart = true ∧ IngSlot.unit x.rx f.symbol g.prbStart j ≠ none) ∧
    (∃ (s : State) (p : PortId) (f : UplaneFrame) (c : CellId) (a : AirSlot) (x : IngSlot) (g : USection) (u : UPrb) (j : ℕ), RxGood s p f ∧
    eaxcCell f.eaxc = c ∧ (s.frameTiming c).air (s.rxSlot c f) = a ∧ bitsOf f.eaxc.toNat 11 8 = 0 ∧ bitsOf f.eaxc.toNat 7 0 = j ∧ nsOf
    ((s.frameTiming c).start (s.rxSlot c f)) ≤ nsOf (s.stamp p) ∧ nsOf (s.stamp p) < nsOf ((s.frameTiming c).start (s.rxSlot c f + 1) +
    pctOf (slotNs (s.frameTiming c).mu) 80) ∧ f.dataDirection = false ∧ f.payloadVersion = 1 ∧ f.sections = [g] ∧ g.bfpWidth =
    (s.cellBuilt c a).get CellParam.bfpWidth ∧ g.methodOk = true ∧ g.bfpWidth < 16 ∧ g.prbs = [u] ∧ g.prbCount = 1 ∧ s.ingSlot c a = some
    x ∧ u.exponent ≤ 16 - g.bfpWidth ∧ x.requested f.symbol g.prbStart = false) ∧
    (∃ (s : State) (p : PortId) (f : UplaneFrame) (c : CellId) (a : AirSlot) (x : IngSlot) (g : USection) (u : UPrb) (j : ℕ), RxGood s p f ∧
    eaxcCell f.eaxc = c ∧ (s.frameTiming c).air (s.rxSlot c f) = a ∧ bitsOf f.eaxc.toNat 11 8 = 0 ∧ bitsOf f.eaxc.toNat 7 0 = j ∧ nsOf
    ((s.frameTiming c).start (s.rxSlot c f)) ≤ nsOf (s.stamp p) ∧ nsOf (s.stamp p) < nsOf ((s.frameTiming c).start (s.rxSlot c f + 1) +
    pctOf (slotNs (s.frameTiming c).mu) 80) ∧ f.dataDirection = false ∧ f.payloadVersion = 1 ∧ f.sections = [g] ∧ g.bfpWidth =
    (s.cellBuilt c a).get CellParam.bfpWidth ∧ g.methodOk = true ∧ g.bfpWidth < 16 ∧ g.prbs = [u] ∧ g.prbCount = 1 ∧ s.ingSlot c a = some
    x ∧ 16 - g.bfpWidth < u.exponent ∧ x.noted f.symbol g.prbStart f.eaxc = none) :=
  ⟨⟨linked lit, 0, { packet 200 [] with fcsOk := false }, by decide +kernel⟩,
   ⟨linked lit, 0, packet 200 [], by decide +kernel⟩,
   ⟨rxSt (ingest true), 0, packet 201 [], 0, rxGood (by decide +kernel), by decide +kernel, stamp_before (by decide +kernel)⟩,
   ⟨rxSt (ingest true), 0, packet 199 [], 0, rxGood (by decide +kernel), by decide +kernel, stamp_after (by decide +kernel), stamp_after (by decide +kernel)⟩,
   ⟨rxSt (ingest true), 0, packet 200 [oneSection 7], 0, ⟨200, 0⟩, ingest true, oneSection 7, ⟨7, List.replicate 24 1⟩, 0, rxGood (by decide +kernel), by decide +kernel, by decide +kernel, by decide +kernel, by decide +kernel,
    stamp_after (by decide +kernel), stamp_before (by decide +kernel), by decide +kernel⟩,
   ⟨rxSt { ingest true with rx := [⟨0, 0, 0, []⟩] }, 0, packet 200 [oneSection 7], 0, ⟨200, 0⟩, { ingest true with rx := [⟨0, 0, 0, []⟩] }, oneSection 7,
    ⟨7, List.replicate 24 1⟩, 0, rxGood (by decide +kernel), by decide +kernel, by decide +kernel, by decide +kernel, by decide +kernel, stamp_after (by decide +kernel), stamp_before (by decide +kernel), by decide +kernel⟩,
   ⟨rxSt (ingest false), 0, packet 200 [oneSection 7], 0, ⟨200, 0⟩, ingest false, oneSection 7, ⟨7, List.replicate 24 1⟩, 0, rxGood (by decide +kernel), by decide +kernel, by decide +kernel, by decide +kernel, by decide +kernel,
    stamp_after (by decide +kernel), stamp_before (by decide +kernel), by decide +kernel⟩,
   ⟨rxSt (ingest true), 0, packet 200 [oneSection 8], 0, ⟨200, 0⟩, ingest true, oneSection 8, ⟨8, List.replicate 24 1⟩, 0, rxGood (by decide +kernel), by decide +kernel, by decide +kernel, by decide +kernel, by decide +kernel,
    stamp_after (by decide +kernel), stamp_before (by decide +kernel), by decide +kernel⟩⟩

theorem wit_CratesOpenAndAreForced :
    (∃ (s : State) (c : CellId) (a : AirSlot) (x : IngSlot), (s.cell c).running = true ∧ s.reached (s.airStart c a) = true ∧ s.ingSlot c a =
    some x ∧ x.opened = false) ∧
    (∃ (s : State) (c : CellId) (a : AirSlot), (s.cell c).running = true ∧ s.reached (s.airStart c a) = true ∧ s.ingSlot c a = none) ∧
    (∃ (s : State) (c : CellId) (a : AirSlot) (x : IngSlot), s.ingSlot c a = some x ∧ x.opened = true ∧ x.closed = false ∧ s.reached
    (s.airStartPlus c a 1 + pctOf (s.slotLen c) 100) = true) :=
  ⟨⟨rxSt (ingest true), 0, ⟨200, 0⟩, ingest true, by decide +kernel⟩,
   ⟨rxSt (ingest true), 0, ⟨199, 0⟩, by decide +kernel⟩,
   ⟨rxSt { ingest true with air := ⟨199, 0⟩, opened := true }, 0, ⟨199, 0⟩, { ingest true with air := ⟨199, 0⟩, opened := true }, by decide +kernel⟩⟩

theorem wit_ScalesAreTheLeastThatFit :
    ∃ (b : ℕ) (l : List ℤ), ∃ k ≤ 15, (∀ v ∈ l, -2 ^ (b - 1) ≤ rnaShift v k ∧ rnaShift v k < 2 ^ (b - 1)) ∧ (∀ j < k, ∃ v ∈ l, ¬(-2 ^ (b - 1)
    ≤ rnaShift v j ∧ rnaShift v j < 2 ^ (b - 1))) ∧ b < 16 :=
  ⟨9, [300], 1, by decide +kernel⟩

theorem wit_EgressStagesAndLaunches :
    (∃ (s : State) (c : CellId) (a : AirSlot) (w : Word) (n : ℕ) (d : DlSlot) (l : List (LaunchEntry × Bool)), s.dlSlot c a = some d ∧
    d.handedOver = false ∧ s.reached (s.handover c a) = true ∧ d.noPlan = false ∧ (s.readLaunch c a (BitVec.toNat w) n).1 = l) ∧
    (∃ (s : State) (c : CellId) (a : AirSlot) (d : DlSlot), s.dlSlot c a = some d ∧ d.cplaneSent = false ∧ s.wh.safe = false ∧ s.time.stepped =
    true ∧ s.reached (s.dlStart c a - pctOf (s.slotLen c) 20) = true) ∧
    (∃ (s : State) (p : PortId) (c : CellId) (a : AirSlot) (sym : Fin 14) (next : Fin 4) (d : DlSlot) (f : LaunchEntry × ℕ × ℕ) (gain : Option
    ℕ), s.dlSlot c a = some d ∧ d.handedOver = true ∧ s.portOn p = true ∧ s.domainOn 74 = true ∧ (s.cell c).get CellParam.port = ↑p ∧ ↑sym
    ∉ d.launched ∧ (gain = if (s.port p).shapes c a ↑sym [f] = true then (s.cellBuilt c a).gain (d.edge next ↑sym) else none) ∧ s.frames p
    c d ↑sym = [f] ∧ (s.port p).isStaged c a (↑sym) (eaxcOf c 0 (BitVec.toNat f.1.stream)) f.2.1 = false ∧ s.reached (s.launchAt c a ↑sym)
    = false ∧ (s.port p).stagedBytes + (s.frameBytes c a (↑sym) f gain).1.length + frameOverhead ≤ 262144) ∧
    (∃ (s : State) (p : PortId) (c : CellId) (a : AirSlot) (sym : Fin 14) (next : Fin 4) (d : DlSlot) (f : LaunchEntry × ℕ × ℕ) (gain : Option
    ℕ), s.dlSlot c a = some d ∧ d.handedOver = true ∧ s.portOn p = true ∧ s.domainOn 74 = true ∧ (s.cell c).get CellParam.port = ↑p ∧ ↑sym
    ∉ d.launched ∧ (gain = if (s.port p).shapes c a ↑sym [f] = true then (s.cellBuilt c a).gain (d.edge next ↑sym) else none) ∧ s.frames p
    c d ↑sym = [f] ∧ (s.port p).isStaged c a (↑sym) (eaxcOf c 0 (BitVec.toNat f.1.stream)) f.2.1 = false ∧ s.reached (s.launchAt c a ↑sym)
    = false ∧ 262144 < (s.port p).stagedBytes + (s.frameBytes c a (↑sym) f gain).1.length + frameOverhead ∧ ((s.cellBuilt c a).gain
    (d.edge next ↑sym) = none ∨ (s.port p).shapes c a ↑sym [f] = true)) ∧
    (∃ (s : State) (p : PortId) (c : CellId) (a : AirSlot) (sym : Fin 14) (next : Fin 4) (d : DlSlot) (f : LaunchEntry × ℕ × ℕ) (gain : Option
    ℕ), s.dlSlot c a = some d ∧ d.handedOver = true ∧ s.portOn p = true ∧ s.domainOn 74 = true ∧ (s.cell c).get CellParam.port = ↑p ∧ ↑sym
    ∉ d.launched ∧ (gain = if (s.port p).shapes c a ↑sym [f] = true then (s.cellBuilt c a).gain (d.edge next ↑sym) else none) ∧ s.frames p
    c d ↑sym = [f] ∧ (s.port p).isStaged c a (↑sym) (eaxcOf c 0 (BitVec.toNat f.1.stream)) f.2.1 = false ∧ s.reached (s.launchAt c a ↑sym)
    = true ∧ (↑sym, eaxcOf c 0 (BitVec.toNat f.1.stream), f.2.1) ∉ d.late) ∧
    (∃ (s : State) (p : PortId) (c : CellId) (a : AirSlot) (sym : Fin 14) (d : DlSlot), s.dlSlot c a = some d ∧ ↑sym ∉ d.launched ∧
    s.time.stepped = true ∧ s.reached (s.launchAt c a ↑sym) = true ∧ (s.cell c).get CellParam.port = ↑p) :=
  ⟨⟨dlSt (dlOf ⟨199, 0⟩ false), 0, ⟨199, 0⟩, 0, 0, dlOf ⟨199, 0⟩ false, [], by decide +kernel⟩,
   ⟨dlSt (dlOf ⟨199, 0⟩ false), 0, ⟨199, 0⟩, dlOf ⟨199, 0⟩ false, by decide +kernel⟩,
   ⟨dlSt (dlOf ⟨200, 5⟩ true), 0, 0, ⟨200, 5⟩, 0, 0, dlOf ⟨200, 5⟩ true, (launchEntry, 0, 1), _, by decide +kernel, by decide +kernel, by decide +kernel, by decide +kernel, by decide +kernel, by decide +kernel, rfl, by decide +kernel⟩,
   ⟨(dlSt (dlOf ⟨200, 5⟩ true)).modPort 0 fun x => { x with staged := [fullStaging] }, 0, 0, ⟨200, 5⟩, 0, 0, dlOf ⟨200, 5⟩ true, (launchEntry, 0, 1), _,
    by decide +kernel, by decide +kernel, by decide +kernel, by decide +kernel, by decide +kernel, by decide +kernel, rfl, by decide +kernel, by decide +kernel, by decide +kernel, Nat.lt_of_lt_of_le (full_bytes _ fullStaging rfl (Nat.le_of_eq List.length_replicate.symm)) (Nat.le_trans (Nat.le_add_right _ _) (Nat.le_add_right _ _)), .inr (by decide +kernel)⟩,
   ⟨dlSt (dlOf ⟨199, 0⟩ true), 0, 0, ⟨199, 0⟩, 0, 0, dlOf ⟨199, 0⟩ true, (launchEntry, 0, 1), _, by decide +kernel, by decide +kernel, by decide +kernel, by decide +kernel, by decide +kernel, by decide +kernel, rfl, by decide +kernel⟩,
   ⟨dlSt (dlOf ⟨199, 0⟩ true), 0, 0, ⟨199, 0⟩, 0, dlOf ⟨199, 0⟩ true, by decide +kernel⟩⟩

theorem wit_MailboxRequestsAreTakenOrRefused :
    (∃ (m : MboxId) (s : State), (s.mb m).transport = true) ∧
    (∃ (m : MboxId) (v : Word) (s : State), (s.mb m).transport = false ∧ s.hallAbsent = false ∧ (s.mb m).busy = false ∧ ((s.mb m).done = false
    ∨ BitVec.setWidth 16 v ≠ (s.mb m).lastSeq) ∧ ({ s.mb m with seq := BitVec.setWidth 16 v } : Mailbox).headerFault m = none ∧ ∀ k ∈
    s.host.order, (s.mb k).headerFault k = none) ∧
    (∃ (m : MboxId) (v : Word) (s : State) (st : ℕ) (d : ℕ), (s.mb m).transport = false ∧ s.hallAbsent = false ∧ (s.mb m).busy = false ∧ ((s.mb
    m).done = false ∨ BitVec.setWidth 16 v ≠ (s.mb m).lastSeq) ∧ s.host.order = [] ∧ s.mbHeld = false ∧ (s.mb m).phase = MbPhase.idle ∧
    ({ s.mb m with seq := BitVec.setWidth 16 v } : Mailbox).headerFault m = some (st, d)) ∧
    (∃ (x : Mailbox), memNat x.req 4 2 ≠ x.seq.toNat) ∧
    (∃ (m : MboxId) (x : Mailbox), memNat x.req 4 2 = x.seq.toNat ∧ memNat x.req 6 1 ≠ ↑m) ∧
    (∃ (m : MboxId) (x : Mailbox), memNat x.req 4 2 = x.seq.toNat ∧ memNat x.req 6 1 = ↑m ∧ memNat x.req 0 2 ≠ 3) ∧
    (∃ (m : MboxId) (s : State), (s.mb m).transport = false ∧ s.hallAbsent = true) ∧
    (∃ (m : MboxId) (v : Word) (s : State), (s.mb m).transport = false ∧ s.hallAbsent = false ∧ (s.mb m).busy = true ∧ BitVec.setWidth 16 v =
    (s.mb m).seq) ∧
    (∃ (m : MboxId) (v : Word) (s : State), (s.mb m).transport = false ∧ s.hallAbsent = false ∧ (s.mb m).busy = true ∧ BitVec.setWidth 16 v ≠
    (s.mb m).seq) ∧
    (∃ (m : MboxId) (v : Word) (s : State), (s.mb m).transport = false ∧ s.hallAbsent = false ∧ (s.mb m).busy = false ∧ (s.mb m).done = true ∧
    BitVec.setWidth 16 v = (s.mb m).lastSeq) ∧
    (∃ (bs : List Byte) (s : State) (m : MboxId), s.host.usbConfigured = true ∧ s.sec.phase ≠ BootPhase.rom ∧ 16 ≤ bs.length ∧ bs.length ≤ 4096
    ∧ bytesNat bs 6 1 = ↑m ∧ (s.mb m).transport = false ∧ s.hallAbsent = false ∧ (s.mb m).busy = false ∧ ((s.mb m).done = false ∨
    BitVec.ofNat 16 (bytesNat bs 4 2) ≠ (s.mb m).lastSeq) ∧
    ({ s.mb m with req := memWrite (s.mb m).req 0 bs, seq := BitVec.ofNat 16 (bytesNat bs 4 2) } : Mailbox).headerFault m = none ∧ (∀ k ∈
    s.host.order, (s.mb k).headerFault k = none) ∧ m ∉ s.host.order) ∧
    (∃ (m : MboxId) (s : State) (code : ℕ) (st : ℕ) (d : ℕ) (x : Option CellId) (items : List Byte), s.hallAbsent = false ∧ (s.mb m).phase =
    MbPhase.taken true code x st d items) ∧
    (∃ (s : State) (m : MboxId) (w : Word) (b : Bool) (n : ℕ) (pc : List (ℕ × ℕ × ℕ)) (k : Fin 16) (pd : List (CellId × BitVec 256)) (r : Instr
    × ℕ × (ℕ → List Byte → Option Bool)) (o : ℕ), r ∈ [(Instr.deviceInfo m, 1, fun _ _ => none), (Instr.eventConfigure m, 2, eventItems),
    (Instr.eventRead m, 3, eventReadItems), (Instr.captureConfigure m, 4, captureItems), (Instr.captureRead m, 5, fun _ _ => none),
    (Instr.portConfigure m, 48, portItems), (Instr.roceQpConfigure m, 49, qpItems), (Instr.cellConfigure m, 32, configureItems),
    (Instr.cellStart m, 33, cellItem), (Instr.histConfigure m, 36, orItems cellItem (paramOk histParams)), (Instr.harqConfigure m, 37,
    harqItems), (Instr.auditConfigure m, 42, orItems cellItem auditItems), (Instr.adaptExport m, 44, orItems cellItem adaptItems),
    (Instr.adaptImport m, 45, orItems cellItem adaptItems), (Instr.joinConfigure m w, 80, joinItems), (Instr.pairConfigure m pc n b, 81,
    pairItems), (Instr.lockstepConfigure m k pd b b, 82, lockstepItems)] ∧ s.mbTakes m r.2.1 = true ∧ (s.sec.ready = true ∨ s.bootTakes
    r.2.1 = true) ∧ firstFault r.2.2 [] (s.mb m).items.1 = some o) ∧
    (∃ (s : State) (m : MboxId) (w : Word) (b : Bool) (n : ℕ) (pc : List (ℕ × ℕ × ℕ)) (k : Fin 16) (pd : List (CellId × BitVec 256)), ∃ r ∈
    [(Instr.deviceInfo m, 1, fun _ _ => none), (Instr.eventConfigure m, 2, eventItems), (Instr.eventRead m, 3, eventReadItems),
    (Instr.captureConfigure m, 4, captureItems), (Instr.captureRead m, 5, fun _ _ => none), (Instr.portConfigure m, 48, portItems),
    (Instr.roceQpConfigure m, 49, qpItems), (Instr.cellConfigure m, 32, configureItems), (Instr.cellStart m, 33, cellItem),
    (Instr.histConfigure m, 36, orItems cellItem (paramOk histParams)), (Instr.harqConfigure m, 37, harqItems), (Instr.auditConfigure m,
    42, orItems cellItem auditItems), (Instr.adaptExport m, 44, orItems cellItem adaptItems), (Instr.adaptImport m, 45, orItems cellItem
    adaptItems), (Instr.joinConfigure m w, 80, joinItems), (Instr.pairConfigure m pc n b, 81, pairItems), (Instr.lockstepConfigure m k pd
    b b, 82, lockstepItems)], s.mbTakes m r.2.1 = true ∧ s.sec.ready = false ∧ s.bootTakes r.2.1 = false ∧ firstFault r.2.2 [] (s.mb
    m).items.1 = none ∧ (s.mb m).items.2 = none) :=
  ⟨⟨6, lit, by decide +kernel⟩,
   ⟨0, 7, paged 0 1 lit, by decide +kernel⟩,
   ⟨0, 7, lit, 2, 4, by decide +kernel⟩,
   ⟨{ Mailbox.reset false with seq := 1 }, by decide +kernel⟩,
   ⟨1, Mailbox.reset false, by decide +kernel⟩,
   ⟨0, Mailbox.reset false, by decide +kernel⟩,
   ⟨0, State.reset, by decide +kernel⟩,
   ⟨0, 7, asked 0 1 [] lit, by decide +kernel⟩,
   ⟨0, 8, asked 0 1 [] lit, by decide +kernel⟩,
   ⟨0, 0, lit.modMb 0 fun x => { x with done := true }, by decide +kernel⟩,
   ⟨natLE 2 3 ++ natLE 2 1 ++ natLE 2 7 ++ natLE 10 0, lit, 0, by decide +kernel⟩,
   ⟨0, lit.modMb 0 (fun x => { x with phase := .taken true 5 none 0 0 [] }), 5, 0, 0, none, [], by decide +kernel⟩,
   ⟨asked 0 1 (itemBytes 9 []) lit, 0, 0, false, 0, [], 0, [], _, 0, .head _, by decide +kernel⟩,
   ⟨asked 0 2 [] { lit with sec := { lit.sec with ready := false } }, 0, 0, false, 0, [], 0, [], _, .tail _ (.head _), by decide +kernel⟩⟩

theorem wit_HostCommandsConfigureTheDevice :
    (∃ (s : State) (m : MboxId) (l : List MItem), MbRuns s m 1 (fun _ _ => none) l) ∧
    (∃ (s : State) (m : MboxId) (l : List MItem), MbRuns s m 2 eventItems l) ∧
    (∃ (s : State) (m : MboxId) (l : List MItem), MbRuns s m 3 eventReadItems l) ∧
    (∃ (s : State) (m : MboxId) (l : List MItem), MbRuns s m 4 captureItems l ∧ (itemNum l 10).getD s.host.capture.source = 2 ∧ s.sec.debug = 0) ∧
    (∃ (s : State) (m : MboxId) (l : List MItem), MbRuns s m 4 captureItems l ∧ ((itemNum l 10).getD s.host.capture.source ≠ 2 ∨ s.sec.debug ≠
    0)) ∧
    (∃ (s : State) (m : MboxId) (l : List MItem), MbRuns s m 5 (fun _ _ => none) l ∧ s.endpoint2 = true) ∧
    (∃ (s : State) (m : MboxId) (l : List MItem), MbRuns s m 5 (fun _ _ => none) l ∧ s.endpoint2 = false) ∧
    (∃ (s : State) (m : MboxId) (l : List MItem) (p : PortId) (k : ℕ), MbRuns s m 48 portItems l ∧ itemNum l 1 = some k ∧ k % 4 = ↑p ∧
    s.portBusy p = true) ∧
    (∃ (s : State) (m : MboxId) (l : List MItem) (p : PortId) (k : ℕ), MbRuns s m 48 portItems l ∧ itemNum l 1 = some k ∧ k % 4 = ↑p ∧
    s.portBusy p = false) ∧
    (∃ (s : State) (m : MboxId) (l : List MItem) (q : QpId), MbRuns s m 49 qpItems l ∧ itemNum l 2576 = some ↑q ∧ (s.mb m).path =
    MbPath.registers ∧ s.host.order = [m]) ∧
    (∃ (s : State) (m : MboxId) (l : List MItem) (k : ℕ) (c : CellId), MbRuns s m 6 (fun (id : ℕ) (v : List Byte) => if id = 1 then some (sized
    2 v) else none) l ∧ itemNum l 1 = some k ∧ k = ↑c ∧ (s.cell c).configured = false) ∧
    (∃ (s : State) (m : MboxId) (l : List MItem) (k : ℕ) (c : CellId), MbRuns s m 6 (fun (id : ℕ) (v : List Byte) => if id = 1 then some (sized
    2 v) else none) l ∧ itemNum l 1 = some k ∧ k = ↑c ∧ (s.cell c).configured = true) ∧
    (∃ (s : State) (m : MboxId) (l : List MItem) (k : ℕ) (p : PortId), MbRuns s m 6 (fun (id : ℕ) (v : List Byte) => if id = 1 then some (sized
    2 v) else none) l ∧ itemNum l 1 = some k ∧ k = 256 + ↑p) ∧
    (∃ (s : State) (m : MboxId) (l : List MItem) (k : ℕ) (u : LinkId), MbRuns s m 6 (fun (id : ℕ) (v : List Byte) => if id = 1 then some (sized
    2 v) else none) l ∧ itemNum l 1 = some k ∧ k = 512 + ↑u) ∧
    (∃ (s : State) (m : MboxId) (l : List MItem) (k : ℕ) (q : QpId), MbRuns s m 6 (fun (id : ℕ) (v : List Byte) => if id = 1 then some (sized 2
    v) else none) l ∧ itemNum l 1 = some k ∧ k = 768 + ↑q ∧ (s.qp q).configured = true ∧ (s.mb m).path = MbPath.registers ∧ s.host.order =
    [m]) :=
  ⟨⟨_, 0, _, mbRuns (s := asked 0 1 [] lit) (by decide +kernel)⟩,
   ⟨_, 0, _, mbRuns (s := asked 0 2 (itemBytes 11 (natLE 4 4096)) lit) (by decide +kernel)⟩,
   ⟨_, 0, _, mbRuns (s := asked 0 3 (itemBytes 5 [127]) lit) (by decide +kernel)⟩,
   ⟨_, 0, _, mbRuns (s := asked 0 4 (itemBytes 10 [2]) lit) (by decide +kernel), by decide +kernel⟩,
   ⟨_, 0, _, mbRuns (s := asked 0 4 (itemBytes 10 [1]) lit) (by decide +kernel), by decide +kernel⟩,
   ⟨_, 0, _, mbRuns (s := asked 0 5 [] lit) (by decide +kernel), by decide +kernel⟩,
   ⟨_, 0, _, mbRuns (s := asked 0 5 [] { lit with host := HostIf.reset }) (by decide +kernel), by decide +kernel⟩,
   ⟨_, 0, _, 0, 0x100, mbRuns (s := asked 0 48 (target 0x100) (uplink none lit)) (by decide +kernel), by decide +kernel⟩,
   ⟨_, 0, _, 1, 0x101, mbRuns (s := asked 0 48 (target 0x101) (uplink none lit)) (by decide +kernel), by decide +kernel⟩,
   ⟨_, 0, _, 3, mbRuns (s := asked 0 49 (itemBytes 0x0A10 [3]) lit) (by decide +kernel), by decide +kernel⟩,
   ⟨_, 0, _, 0, 0, mbRuns (s := asked 0 6 (target 0) lit) (by decide +kernel), by decide +kernel⟩,
   ⟨_, 0, _, 0, 0, mbRuns (s := asked 0 6 (target 0) (uplink none lit)) (by decide +kernel), by decide +kernel⟩,
   ⟨_, 0, _, 0x103, 3, mbRuns (s := asked 0 6 (target 0x103) lit) (by decide +kernel), by decide +kernel⟩,
   ⟨_, 0, _, 0x202, 2, mbRuns (s := asked 0 6 (target 0x202) lit) (by decide +kernel), by decide +kernel⟩,
   ⟨_, 0, _, 0x303, 3, mbRuns (s := asked 0 6 (target 0x303) (withQp lit)) (by decide +kernel), by decide +kernel⟩⟩

theorem wit_StepRunsTheFrontCommand :
    ∃ (s : State), s.pending = [] :=
  ⟨State.reset, rfl⟩

theorem wit_MemoryStaysCanonical :
    ∃ (s : State) (t : State), MemOk s ∧ step s = Host.Outcome.next t :=
  ⟨State.reset, tickEffect State.reset, (show Mem.wf State.reset.mem = true from by decide +kernel), rfl⟩

theorem wit_BlownFusesStayBlown :
    (∃ (s : State) (t : State) (k : Fin 3) (i : ℕ), step s = Host.Outcome.next t ∧ (vget s.sec.blown k).getLsbD i = true) ∧
    (∃ (s : State) (t : State) (i : ℕ), step s = Host.Outcome.next t ∧ s.revokedKeys.getLsbD i = true) :=
  ⟨⟨State.reset.modSec fun x => { x with blown := Vector.replicate 3 1 }, _, 0, 0, rfl, by decide +kernel⟩,
   ⟨State.reset.modSec fun x => { x with revoked := 15 }, _, 0, rfl, by simp [State.revokedKeys, State.modSec]⟩⟩

theorem wit_ResetLeavesTheTableValues :
    ∃ (x : ℕ × Word), x ∈ [(16384, 20), (16388, 131073000), (16, 0), (24, 0), (36, 0), (25170176, 131072500), (26214400, 271376), (26214404,
    0), (28311552, 0), (28311600, 0), (28311684, 100000), (29360128, 64), (30408704, 16777472), (31457280, 0), (31457284, 0), (31457316,
    3744804), (31457320, 192), (32505856, 2949380), (32505868, 60), (32505872, 40), (32506880, 614400), (35651592, 65535), (35651596, 0)] :=
  ⟨(16384, 20), .head _⟩

theorem wit_LaunchSecondIsTheNearest :
    ∃ (d : Desc), d.launchS < 2 ^ 34 :=
  ⟨descOf [], by decide +kernel⟩

theorem wit_CellsAreConfiguredStartedAndStopped :
    (∃ (s : State) (m : MboxId) (l : List MItem) (c : CellId) (y : Cell), MbRuns s m 32 configureItems l ∧ itemNum l 257 = some ↑c ∧ (s.cell
    c).configuredBy c l = y ∧ (s.cell c).running = true ∧ ∃ p ∈ fixedParams, (s.cell c).get p.2 ≠ y.get p.2) ∧
    (∃ (s : State) (m : MboxId) (l : List MItem) (c : CellId) (y : Cell), MbRuns s m 32 configureItems l ∧ itemNum l 257 = some ↑c ∧ (s.cell
    c).configuredBy c l = y ∧ ((s.cell c).running = false ∨ ∀ p ∈ fixedParams, (s.cell c).get p.2 = y.get p.2) ∧ y.get CellParam.nPrb ≤
    maxPrb (y.get CellParam.mu) ∧ (itemVal l 274 = none ∨ y.get CellParam.adaptMode ≠ 1) ∧ (s.modCell c fun (x : Cell) => y).loadFits =
    false) ∧
    (∃ (s : State) (m : MboxId) (l : List MItem) (c : CellId) (y : Cell), MbRuns s m 32 configureItems l ∧ itemNum l 257 = some ↑c ∧ (s.cell
    c).configuredBy c l = y ∧ ((s.cell c).running = false ∨ ∀ p ∈ fixedParams, (s.cell c).get p.2 = y.get p.2) ∧ y.get CellParam.nPrb ≤
    maxPrb (y.get CellParam.mu) ∧ (itemVal l 274 = none ∨ y.get CellParam.adaptMode ≠ 1) ∧ (s.modCell c fun (x : Cell) => y).loadFits =
    true ∧ (s.modCell c fun (x : Cell) => y).portsFit = false) ∧
    (∃ (s : State) (m : MboxId) (l : List MItem) (c : CellId) (y : Cell), MbRuns s m 32 configureItems l ∧ itemNum l 257 = some ↑c ∧ (s.cell
    c).configuredBy c l = y ∧ ((s.cell c).running = false ∨ ∀ p ∈ fixedParams, (s.cell c).get p.2 = y.get p.2) ∧ y.get CellParam.nPrb ≤
    maxPrb (y.get CellParam.mu) ∧ (itemVal l 274 = none ∨ y.get CellParam.adaptMode ≠ 1) ∧ (s.modCell c fun (x : Cell) => y).loadFits =
    true ∧ (s.modCell c fun (x : Cell) => y).portsFit = true ∧ (s.modCell c fun (x : Cell) => y).queuesFit = false) ∧
    (∃ (s : State) (m : MboxId) (l : List MItem) (c : CellId) (y : Cell), MbRuns s m 32 configureItems l ∧ itemNum l 257 = some ↑c ∧ (s.cell
    c).configuredBy c l = y ∧ ((s.cell c).running = false ∨ ∀ p ∈ fixedParams, (s.cell c).get p.2 = y.get p.2) ∧ y.get CellParam.nPrb ≤
    maxPrb (y.get CellParam.mu) ∧ (itemVal l 274 = none ∨ y.get CellParam.adaptMode ≠ 1) ∧ (s.modCell c fun (x : Cell) => y).loadFits =
    true ∧ (s.modCell c fun (x : Cell) => y).portsFit = true ∧ (s.modCell c fun (x : Cell) => y).queuesFit = true ∧ (s.modCell c fun (x :
    Cell) => y).usbFits = true) ∧
    (∃ (s : State) (m : MboxId) (l : List MItem) (c : CellId), MbRuns s m 33 cellItem l ∧ itemsCell l = some c ∧ ((s.cell c).configured = false
    ∨ s.time.servo.locked = false)) ∧
    (∃ (s : State) (m : MboxId) (l : List MItem) (c : CellId), MbRuns s m 33 cellItem l ∧ itemsCell l = some c ∧ (s.cell c).configured = true ∧
    s.time.servo.locked = true ∧ (s.cell c).running = false ∧ ((s.frameTiming c).mu = 0 ∨ (s.frameTiming c).mu = 1 ∨ (s.frameTiming c).mu
    = 3)) ∧
    (∃ (s : State) (m : MboxId) (l : List MItem) (c : CellId), (s.mb m).phase = MbPhase.rung ∧ MbRuns s m 34 cellItem l ∧ itemsCell l = some c
    ∧ (s.cell c).running = false) ∧
    (∃ (s : State) (m : MboxId) (l : List MItem) (c : CellId), (s.mb m).phase = MbPhase.rung ∧ MbRuns s m 34 cellItem l ∧ itemsCell l = some c
    ∧ (s.cell c).running = true ∧ s.plansRun c = true) ∧
    (∃ (s : State) (m : MboxId) (l : List MItem) (c : CellId), (s.mb m).phase = MbPhase.rung ∧ MbRuns s m 34 cellItem l ∧ itemsCell l = some c
    ∧ (s.cell c).running = true ∧ s.plansRun c = false) ∧
    (∃ (s : State) (m : MboxId) (c : CellId), (s.mb m).phase = MbPhase.taken false 34 (some c) 0 0 [] ∧ s.hallAbsent = false ∧ s.plansRun c =
    true) :=
  ⟨⟨_, 0, _, 0, _, mbRuns (s := asked 0 32 (forCell ++ item 0x103 2 20) (uplink none lit)) (by decide +kernel), by decide +kernel, rfl, by decide +kernel, (0x103, .nPrb), .tail _ (.head _), by decide +kernel⟩,
   ⟨_, 0, _, 0, _, mbRuns (s := asked 0 32 forCell { lit with stalls := Vector.replicate 64 Stall.reset }) (by decide +kernel), by decide +kernel, rfl, .inl (by decide +kernel), by decide +kernel, by decide +kernel, by decide +kernel⟩,
   ⟨_, 0, _, 0, _, mbRuns (s := asked 0 32 (forCell ++ item 0x108 2 16) lit) (by decide +kernel), by decide +kernel, rfl, .inl (by decide +kernel), by decide +kernel, by decide +kernel, by decide +kernel, by decide +kernel⟩,
   ⟨_, 0, _, 0, _, mbRuns (s := asked 0 32 (forCell ++ item 0x104 2 4 ++ item 0x110 2 3) (wide lit)) (by decide +kernel), by decide +kernel, rfl, .inl (by decide +kernel), by decide +kernel, by decide +kernel, by decide +kernel, by decide +kernel, overPlan (by decide +kernel)⟩,
   ⟨_, 0, _, 0, _, mbRuns (s := asked 0 32 (forCell ++ item 0x110 2 3) ((cell0 lit).modCell 0 (·.set .nPrb 0))) (by decide +kernel), by decide +kernel, rfl, .inl (by decide +kernel), by decide +kernel, by decide +kernel, by decide +kernel, by decide +kernel, inPlan (by decide +kernel), by decide +kernel⟩,
   ⟨_, 0, _, 0, mbRuns (s := asked 0 33 forCell lit) (by decide +kernel), by decide +kernel, .inl (by decide +kernel)⟩,
   ⟨_, 0, _, 0, mbRuns (s := asked 0 33 forCell (cell0 (lit.modTime fun x => { x with servo := { x.servo with locked := true } }))) (by decide +kernel), by decide +kernel⟩,
   ⟨_, 0, _, 0, by decide +kernel, mbRuns (s := asked 0 34 forCell lit) (by decide +kernel), by decide +kernel⟩,
   ⟨_, 0, _, 0, by decide +kernel, mbRuns (s := asked 0 34 forCell (uplink none lit)) (by decide +kernel), by decide +kernel⟩,
   ⟨_, 0, _, 0, by decide +kernel, mbRuns (s := asked 0 34 forCell ((uplink none lit).modTime fun x => { x with plans := vset x.plans 0 [⟨⟨0, 0⟩, 0x20000000, 0, 0⟩] })) (by decide +kernel), by decide +kernel⟩,
   ⟨lit.modMb 0 (fun x => { x with phase := .taken false 34 (some 0) 0 0 [] }), 0, 0, by decide +kernel⟩⟩

theorem wit_CellServicesAreConfigured :
    (∃ (s : State) (m : MboxId) (l : List MItem) (c : CellId), MbRuns s m 35 (orItems cellItem fun (id : ℕ) (v : List Byte) => if id = 3 then
    some (inRange 0 1 v) else none) l ∧ itemsCell l = some c) ∧
    (∃ (s : State) (m : MboxId) (l : List MItem) (c : CellId) (y : Cell), MbRuns s m 36 (orItems cellItem (paramOk histParams)) l ∧ itemsCell l
    = some c ∧ Cell.setItems l histParams (s.cell c) = y ∧ (s.cell c).running = true ∧ ∃ p ∈ [CellParam.window, CellParam.tok,
    CellParam.keyFmt, CellParam.prefixLen], (s.cell c).get p ≠ y.get p) ∧
    (∃ (s : State) (m : MboxId) (l : List MItem) (c : CellId) (y : Cell), MbRuns s m 36 (orItems cellItem (paramOk histParams)) l ∧ itemsCell l
    = some c ∧ Cell.setItems l histParams (s.cell c) = y ∧ ((s.cell c).running = false ∨ ∀ p ∈ [CellParam.window, CellParam.tok,
    CellParam.keyFmt, CellParam.prefixLen], (s.cell c).get p = y.get p) ∧ y.get CellParam.prefixLen + y.get CellParam.window ≤ 128 ∧
    (s.modCell c fun (x : Cell) => y).histFits = false) ∧
    (∃ (s : State) (m : MboxId) (l : List MItem) (c : CellId) (y : Cell), MbRuns s m 36 (orItems cellItem (paramOk histParams)) l ∧ itemsCell l
    = some c ∧ Cell.setItems l histParams (s.cell c) = y ∧ ((s.cell c).running = false ∨ ∀ p ∈ [CellParam.window, CellParam.tok,
    CellParam.keyFmt, CellParam.prefixLen], (s.cell c).get p = y.get p) ∧ y.get CellParam.prefixLen + y.get CellParam.window ≤ 128 ∧
    (s.modCell c fun (x : Cell) => y).histFits = true) ∧
    (∃ (s : State) (m : MboxId) (l : List MItem), MbRuns s m 37 harqItems l ∧ ∃ (c : CellId), (s.cell c).running = true) ∧
    (∃ (s : State) (m : MboxId) (l : List MItem), MbRuns s m 37 harqItems l ∧ ∀ (c : CellId), (s.cell c).running = false) ∧
    (∃ (s : State) (m : MboxId) (l : List MItem) (c : CellId), MbRuns s m 38 (orItems cellItem fun (id : ℕ) (v : List Byte) => if id = 8 then
    some (sized 2 v) else none) l ∧ itemsCell l = some c) ∧
    (∃ (s : State) (m : MboxId) (l : List MItem) (c : CellId) (a : ℕ) (n : ℕ) (off : ℕ), MbRuns s m 42 (orItems cellItem auditItems) l ∧
    itemsCell l = some c ∧ itemNum l 7 = some a ∧ itemNum l 11 = some n ∧ placeOf a n = Place.plain off ∧ a % 64 = 0 ∧ (itemNum l 3337 =
    some 0 ∨ (s.modCell c fun (x : Cell) =>
    { configured := x.configured, running := x.running, stopping := x.stopping, param := x.param, reserveNow := x.reserveNow, prbCap := x.prbCap, ctr := x.ctr, paths := x.paths, ul := x.ul, dl := x.dl, ing := x.ing, seqIds := x.seqIds, held := x.held, payloads := x.payloads, crateBase := x.crateBase, prachBase := x.prachBase, bundle := x.bundle, books := x.books, adapt := x.adapt, changes := x.changes, book := x.book, labels := x.labels, audit := true, digestRing := x.digestRing, digestSize := x.digestSize, digestPos := x.digestPos, digests := x.digests, audits := x.audits, auditCount := x.auditCount, crates := x.crates, tdc := x.tdc, wdSlots := x.wdSlots, depthMiss := x.depthMiss, lastSlot := x.lastSlot }).loadFits
    = true)) ∧
    (∃ (s : State) (m : MboxId) (l : List MItem) (c : CellId), MbRuns s m 43 (orItems cellItem fun (id : ℕ) (v : List Byte) => if id = 4 then
    some (sized 4 v) else if id = 5 then some (inRange 1 42 v) else none) l ∧ itemsCell l = some c) :=
  ⟨⟨_, 0, _, 0, mbRuns (s := asked 0 35 forCell lit) (by decide +kernel), by decide +kernel⟩,
   ⟨_, 0, _, 0, _, mbRuns (s := asked 0 36 (forCell ++ item 0x701 2 16) (uplink none lit)) (by decide +kernel), by decide +kernel, rfl, by decide +kernel, .window, .head _, by decide +kernel⟩,
   ⟨_, 0, _, 0, _, mbRuns (s := asked 0 36 (forCell ++ item 0x701 2 32) lit) (by decide +kernel), by decide +kernel, rfl, .inl (by decide +kernel), by decide +kernel, by decide +kernel⟩,
   ⟨_, 0, _, 0, _, mbRuns (s := asked 0 36 (forCell ++ item 0x706 2 1) (lit.modHist fun h => { h with dramFrames := 0xFFFF })) (by decide +kernel), by decide +kernel, rfl, .inl (by decide +kernel), by decide +kernel, by decide +kernel⟩,
   ⟨_, 0, _, mbRuns (s := asked 0 37 [] (uplink none lit)) (by decide +kernel), 0, by decide +kernel⟩,
   ⟨_, 0, _, mbRuns (s := asked 0 37 [] lit) (by decide +kernel), by decide +kernel⟩,
   ⟨_, 0, _, 0, mbRuns (s := asked 0 38 forCell lit) (by decide +kernel), by decide +kernel⟩,
   ⟨_, 0, _, 0, 0x20000000, 64, 0, mbRuns (s := asked 0 42 (forCell ++ item 7 8 0x20000000 ++ item 11 4 64 ++ item 0xD09 1 0) lit) (by decide +kernel), by decide +kernel, by decide +kernel, by decide +kernel, by decide +kernel, by decide +kernel, .inl (by decide +kernel)⟩,
   ⟨_, 0, _, 0, mbRuns (s := asked 0 43 (forCell ++ item 4 4 0 ++ item 5 1 1) lit) (by decide +kernel), by decide +kernel⟩⟩

theorem wit_JoinedDevicesAreConfigured :
    (∃ (s : State) (m : MboxId) (l : List MItem) (j : Join), MbRuns s m 80 joinItems l ∧ s.join.configuredBy l = j ∧ j.members ≠ 0 ∧
    j.members.getLsbD ↑j.device = false) ∧
    (∃ (s : State) (m : MboxId) (l : List MItem) (w : Word) (j : Join), MbRuns s m 80 joinItems l ∧ s.join.configuredBy l = j ∧ (j.members = 0
    ∨ j.members.getLsbD ↑j.device = true) ∧ linkMapOk j w = true ∧ j.reaches = true) ∧
    (∃ (s : State) (m : MboxId) (l : List MItem) (pc : List (ℕ × ℕ × ℕ)) (k : ℕ) (d : DeviceId) (load : ℚ), MbRuns s m 81 pairItems l ∧ itemNum
    l 3335 = some ↑d ∧ itemNum l 3336 = some k ∧ (List.map (fun (c : CellId) => cellLoad (s.cell c) 80) (List.filter (fun (c : CellId) =>
    !k.testBit ↑c) s.configuredCells)).sum + (List.map (fun (x : ℕ × ℕ × ℕ) => shapeLoad x.1 x.2.1 x.2.2 80) pc).sum = load ∧
    (s.join.member d = false ∨ (vlist s.join.linkMap).contains (BitVec.ofNat 8 ↑d) = false)) ∧
    (∃ (s : State) (m : MboxId) (l : List MItem) (pc : List (ℕ × ℕ × ℕ)) (k : ℕ) (b : Bool) (d : DeviceId) (load : ℚ), MbRuns s m 81 pairItems
    l ∧ itemNum l 3335 = some ↑d ∧ itemNum l 3336 = some k ∧ (List.map (fun (c : CellId) => cellLoad (s.cell c) 80) (List.filter (fun (c :
    CellId) => !k.testBit ↑c) s.configuredCells)).sum + (List.map (fun (x : ℕ × ℕ × ℕ) => shapeLoad x.1 x.2.1 x.2.2 80) pc).sum = load ∧
    s.join.member d = true ∧ (vlist s.join.linkMap).contains (BitVec.ofNat 8 ↑d) = true ∧ (wbit s.time.ioSel 8 = true ∨ b = true ∨
    s.join.lockstep.isSome = true)) ∧
    (∃ (s : State) (m : MboxId) (l : List MItem) (pc : List (ℕ × ℕ × ℕ)) (n : ℕ) (k : ℕ) (b : Bool) (d : DeviceId) (load : ℚ), MbRuns s m 81
    pairItems l ∧ itemNum l 3335 = some ↑d ∧ itemNum l 3336 = some k ∧ (List.map (fun (c : CellId) => cellLoad (s.cell c) 80) (List.filter
    (fun (c : CellId) => !k.testBit ↑c) s.configuredCells)).sum + (List.map (fun (x : ℕ × ℕ × ℕ) => shapeLoad x.1 x.2.1 x.2.2 80) pc).sum
    = load ∧ s.join.member d = true ∧ (vlist s.join.linkMap).contains (BitVec.ofNat 8 ↑d) = true ∧ wbit s.time.ioSel 8 = false ∧ b = false
    ∧ s.join.lockstep = none ∧ (pairFits load s.effMhz = false ∨ pairFits load n = false)) ∧
    (∃ (s : State) (m : MboxId) (l : List MItem) (pc : List (ℕ × ℕ × ℕ)) (n : ℕ) (k : ℕ) (b : Bool) (d : DeviceId) (load : ℚ), MbRuns s m 81
    pairItems l ∧ itemNum l 3335 = some ↑d ∧ itemNum l 3336 = some k ∧ (List.map (fun (c : CellId) => cellLoad (s.cell c) 80) (List.filter
    (fun (c : CellId) => !k.testBit ↑c) s.configuredCells)).sum + (List.map (fun (x : ℕ × ℕ × ℕ) => shapeLoad x.1 x.2.1 x.2.2 80) pc).sum
    = load ∧ s.join.member d = true ∧ (vlist s.join.linkMap).contains (BitVec.ofNat 8 ↑d) = true ∧ wbit s.time.ioSel 8 = false ∧ b = false
    ∧ s.join.lockstep = none ∧ pairFits load s.effMhz = true ∧ pairFits load n = true) ∧
    (∃ (s : State) (m : MboxId) (l : List MItem) (k : ℕ), MbRuns s m 82 lockstepItems l ∧ itemNum l 3336 = some k ∧ k = 0) ∧
    (∃ (s : State) (m : MboxId) (l : List MItem) (pcl : Fin 16) (pp : Bool) (d : DeviceId) (k : ℕ), MbRuns s m 82 lockstepItems l ∧ itemNum l
    3336 = some k ∧ 0 < k ∧ k < 65536 ∧ itemNum l 3335 = some ↑d ∧ s.join.member d = true ∧ (vlist s.join.linkMap).contains (BitVec.ofNat
    8 ↑d) = true ∧ (↑pcl ≠ deviceClass ∨ s.join.pair.isSome = true ∨ pp = true)) ∧
    (∃ (s : State) (m : MboxId) (l : List MItem) (pcl : Fin 16) (pd : List (CellId × BitVec 256)) (pp : Bool) (d : DeviceId) (k : ℕ), MbRuns s
    m 82 lockstepItems l ∧ itemNum l 3336 = some k ∧ 0 < k ∧ k < 65536 ∧ itemNum l 3335 = some ↑d ∧ s.join.member d = true ∧ (vlist
    s.join.linkMap).contains (BitVec.ofNat 8 ↑d) = true ∧ ↑pcl = deviceClass ∧ s.join.pair = none ∧ pp = false ∧ ∃ (c : CellId), k.testBit
    ↑c = true ∧ (c, s.settingsDigest c) ∉ pd) ∧
    (∃ (s : State) (m : MboxId) (l : List MItem) (pcl : Fin 16) (pd : List (CellId × BitVec 256)) (pp : Bool) (fits : Bool) (d : DeviceId) (k :
    ℕ), MbRuns s m 82 lockstepItems l ∧ itemNum l 3336 = some k ∧ 0 < k ∧ k < 65536 ∧ itemNum l 3335 = some ↑d ∧ s.join.member d = true ∧
    (vlist s.join.linkMap).contains (BitVec.ofNat 8 ↑d) = true ∧ ↑pcl = deviceClass ∧ s.join.pair = none ∧ pp = false ∧ (∀ (c : CellId),
    k.testBit ↑c = true → (c, s.settingsDigest c) ∈ pd) ∧ (if (itemNum l 3334).getD 0 = 1 then s.loadFits else fits) = true) :=
  ⟨⟨_, 0, _, _, mbRuns (s := asked 0 80 (item 0xD02 1 0 ++ item 0xD03 2 2) lit) (by decide +kernel), rfl, by decide +kernel⟩,
   ⟨_, 0, _, 1, _, mbRuns (s := asked 0 80 (item 0xD02 1 0 ++ item 0xD03 2 3 ++ item 0xD04 4 0xFFFFFF01) lit) (by decide +kernel), rfl, .inr (by decide +kernel), by decide +kernel, by decide +kernel⟩,
   ⟨_, 0, _, [], 1, 1, _, mbRuns (s := asked 0 81 (forPartner 1) lit) (by decide +kernel), by decide +kernel, by decide +kernel, rfl, .inl (by decide +kernel)⟩,
   ⟨_, 0, _, [], 1, true, 1, _, mbRuns (s := asked 0 81 (forPartner 1) (joined lit)) (by decide +kernel), by decide +kernel, by decide +kernel, rfl, by decide +kernel, by decide +kernel, .inr (.inl rfl)⟩,
   ⟨_, 0, _, [(273, 32, 1)], 0, 1, false, 1, _, mbRuns (s := asked 0 81 (forPartner 1) (joined lit)) (by decide +kernel), by decide +kernel, by decide +kernel, rfl, by decide +kernel, by decide +kernel, by decide +kernel, by decide +kernel, by decide +kernel, .inr (by decide +kernel)⟩,
   ⟨_, 0, _, [], 2000, 1, false, 1, _, mbRuns (s := asked 0 81 (forPartner 1) (joined lit)) (by decide +kernel), by decide +kernel, by decide +kernel, rfl, by decide +kernel, by decide +kernel, by decide +kernel, by decide +kernel, by decide +kernel, by decide +kernel, by decide +kernel⟩,
   ⟨_, 0, _, 0, mbRuns (s := asked 0 82 (forPartner 0) (joined lit)) (by decide +kernel), by decide +kernel, by decide +kernel⟩,
   ⟨_, 0, _, 0, true, 1, 1, mbRuns (s := asked 0 82 (forPartner 1) (joined lit)) (by decide +kernel), by decide +kernel, by decide +kernel, by decide +kernel, by decide +kernel, by decide +kernel, by decide +kernel, .inr (.inr rfl)⟩,
   ⟨_, 0, _, ⟨deviceClass, deviceClass_lt⟩, [], false, 1, 1, mbRuns (s := asked 0 82 (forPartner 1) (joined lit)) (by decide +kernel), by decide +kernel, by decide +kernel, by decide +kernel, by decide +kernel, by decide +kernel, by decide +kernel, rfl, by decide +kernel, by decide +kernel, 0, by decide +kernel, List.not_mem_nil⟩,
   ⟨_, 0, _, ⟨deviceClass, deviceClass_lt⟩, [(0, (asked 0 82 (forPartner 1) (joined lit)).settingsDigest 0)], false, true, 1, 1,
    mbRuns (s := asked 0 82 (forPartner 1) (joined lit)) (by decide +kernel), by decide +kernel, by decide +kernel, by decide +kernel, by decide +kernel, by decide +kernel, by decide +kernel, rfl, by decide +kernel, by decide +kernel,
    fun c h => by
    have : c = 0 := (show ∀ c : CellId, Nat.testBit 1 c.val = true → c = 0 by decide) c h
    subst this; exact .head _, by decide +kernel⟩⟩

theorem wit_RateChangesAtTheNextTick :
    ∃ (s : State), s.pending = [] ∧ s.time.stepPend = [] ∧ (s.time.cnt - s.time.anchorC).toNat + 1 < 2 ^ 64 :=
  ⟨State.reset, by decide +kernel⟩

theorem wit_OneStepThenPlansAndPins :
    (∃ (s : State) (c : CellId) (f : FrameTiming) (air : AirSlot) (k : ℤ), s.time.planCell = c ∧ vget s.time.timing c = some f ∧ s.time.stepped
    = true ∧ fld s.time.planSlot 6 0 < slotsPerFrame f.mu ∧ f.mu ≤ 3 ∧ ↑air.sfn = fld s.time.planSlot 17 8 ∧ ↑air.slot = fld
    s.time.planSlot 6 0 ∧ f.absOf s.now air = k ∧ s.reached (f.start k - ns ↑(s.planLeadOf c k * 1000)) = false ∧ (∀ q ∈ vget s.time.plans
    c, q.slot ≠ air) ∧ (vget s.time.plans c).length < 4) ∧
    (∃ (s : State) (a : ℤ), a = (s.time.stepSHi ++ s.time.stepSLo).toInt * 65536000000000 + ↑s.time.stepNs.toNat * 65536 +
    ↑s.time.stepFrac.toNat ∧ s.time.stepped = false ∧ s.time.stepPend = [none]) ∧
    (∃ (s : State) (a : ℤ), a = (s.time.stepSHi ++ s.time.stepSLo).toInt * 65536000000000 + ↑s.time.stepNs.toNat * 65536 +
    ↑s.time.stepFrac.toNat ∧ s.time.stepped = false ∧ s.time.stepPend = [none, none]) ∧
    (∃ (s : State) (a : ℤ) (m : MboxId) (st : ℕ) (d : ℕ) (items : List Byte), a = (s.time.stepSHi ++ s.time.stepSLo).toInt * 65536000000000 +
    ↑s.time.stepNs.toNat * 65536 + ↑s.time.stepFrac.toNat ∧ s.time.stepped = false ∧ s.time.stepPend = [some m] ∧ (s.mb m).phase =
    MbPhase.taken false 51 none st d items) ∧
    (∃ (s : State), s.time.stepped = true ∧ s.time.stepPend = [none]) ∧
    (∃ (s : State) (m : MboxId) (st : ℕ) (d : ℕ) (items : List Byte), s.time.stepped = true ∧ s.time.stepPend = [some m] ∧ (s.mb m).phase =
    MbPhase.taken false 51 none st d items) ∧
    (∃ (s : State) (m : MboxId), MbRuns s m 51 (fun _ _ => none) []) ∧
    (∃ (s : State) (a : Word) (c : CellId), s.time.planCell = c ∧ (s.time.stepped = false ∨ vget s.time.timing c = none ∨ (∃ (f : FrameTiming),
    vget s.time.timing c = some f ∧ slotsPerFrame f.mu ≤ fld s.time.planSlot 6 0) ∨ s.planReg a = none)) ∧
    (∃ (s : State) (a : Word) (c : CellId) (p : PlanReg), s.time.planCell = c ∧ s.planReg a = some p ∧ ∃ q ∈ vget s.time.plans c, q.slot =
    p.slot) ∧
    (∃ (s : State) (a : Word) (c : CellId) (p : PlanReg), s.time.planCell = c ∧ s.planReg a = some p ∧ (∀ q ∈ vget s.time.plans c, q.slot ≠
    p.slot) ∧ 4 ≤ (vget s.time.plans c).length) ∧
    (∃ (s : State) (a : Word) (c : CellId) (p : PlanReg), s.time.planCell = c ∧ s.planReg a = some p ∧ (∀ q ∈ vget s.time.plans c, q.slot ≠
    p.slot) ∧ (vget s.time.plans c).length < 4) ∧
    (∃ (s : State), s.time.stepped = false) ∧
    (∃ (s : State), s.time.stepped = true ∧ ioActive s.time.ioSel 1 = true ∧ s.time.ppsLast < nsOf s.time.ptp / 1000000000) ∧
    (∃ (s : State) (b : Bool) (i : Fin 2) (e : ℤ), (i = if b = true then 1 else 0) ∧ (if b = true then g7Active s.time.ioSel 0 else ioActive
    s.time.ioSel 2) = true ∧ vget s.time.capLast i = some e ∧ nsOf (s.up - e) < 1000) ∧
    (∃ (s : State) (b : Bool) (i : Fin 2), (i = if b = true then 1 else 0) ∧ (if b = true then g7Active s.time.ioSel 0 else ioActive
    s.time.ioSel 2) = true ∧ ∀ (e : ℤ), vget s.time.capLast i = some e → 1000 ≤ nsOf (s.up - e)) ∧
    (∃ (s : State) (m : MboxId) (l : List MItem) (f : ℕ) (g : ℕ) (mon : ℕ), MbRuns s m 52 timeIoItems l ∧ itemNum l 2821 = some f ∧ itemNum l
    2822 = some g ∧ itemNum l 2823 = some mon ∧ f ≠ 0 ∧ ioHolder s.time.ioSel ≠ 0 ∧ f ≠ ioHolder s.time.ioSel) ∧
    (∃ (s : State) (m : MboxId) (l : List MItem) (f : ℕ) (g : ℕ) (mon : ℕ), MbRuns s m 52 timeIoItems l ∧ itemNum l 2821 = some f ∧ itemNum l
    2822 = some g ∧ itemNum l 2823 = some mon ∧ (f = 0 ∨ ioHolder s.time.ioSel = 0 ∨ f = ioHolder s.time.ioSel) ∧ (g = 0 ∨ g7Holder
    s.time.ioSel = 0 ∨ g = g7Holder s.time.ioSel)) :=
  ⟨⟨planning [] lit, _, ⟨1, 20, 0, 0⟩, ⟨201, 0⟩, _, rfl, rfl, by decide +kernel, by decide +kernel, by decide +kernel, by decide +kernel, by decide +kernel, rfl, by decide +kernel⟩,
   ⟨steps [none] false, _, rfl, by decide +kernel⟩,
   ⟨steps [none, none] false, _, rfl, by decide +kernel⟩,
   ⟨stepAsked (steps [some 0] false), _, 0, 0, 0, [], rfl, by decide +kernel⟩,
   ⟨steps [none] true, by decide +kernel⟩,
   ⟨stepAsked (steps [some 0] true), 0, 0, 0, [], by decide +kernel⟩,
   ⟨asked 0 51 [] lit, 0, by decide +kernel, by decide +kernel, by decide +kernel, .inl (by decide +kernel)⟩,
   ⟨State.reset, 0, _, rfl, .inl (by decide +kernel)⟩,
   ⟨planning [plan201] lit, 0x1000, _, plan201, rfl, by decide +kernel⟩,
   ⟨planning (List.replicate 4 { plan201 with slot := ⟨202, 0⟩ }) lit, 0x1000, _, plan201, rfl, by decide +kernel⟩,
   ⟨planning [] lit, 0x1000, _, plan201, rfl, by decide +kernel⟩,
   ⟨State.reset, by decide +kernel⟩,
   ⟨selecting 0x11 lit, by decide +kernel⟩,
   ⟨(selecting 0x22 lit).modTime fun x => { x with capLast := vset x.capLast 0 (some 0) }, false, 0, 0, by decide +kernel⟩,
   ⟨selecting 0x22 lit, false, 0, by decide +kernel, by decide +kernel, all1 (by decide +kernel)⟩,
   ⟨_, 0, _, 1, 0, 0, mbRuns (s := asked 0 52 (item 0xB05 1 1 ++ item 0xB06 1 0 ++ item 0xB07 1 0) (selecting 0x20 lit)) (by decide +kernel), by decide +kernel⟩,
   ⟨_, 0, _, 1, 0, 0, mbRuns (s := asked 0 52 (item 0xB05 1 1 ++ item 0xB06 1 0 ++ item 0xB07 1 0) lit) (by decide +kernel), by decide +kernel⟩⟩

theorem wit_ServoFollowsItsSource :
    (∃ (s : State) (p : PortId) (m : PtpMsg), s.ptpOn p = true ∧ m.supported = false) ∧
    (∃ (s : State) (p : PortId) (m : PtpMsg) (a : ℤ), s.ptpOn p = true ∧ m.supported = true ∧ s.hallAbsent = false ∧ s.isSlave p = true ∧
    s.time.servo.sync = some { seqId := m.seqId, origin := none, arrival := a }) ∧
    (∃ (s : State) (p : PortId) (m : PtpMsg), s.ptpOn p = true ∧ m.supported = true ∧ s.mayMaster p = true) ∧
    (∃ (s : State) (p : PortId), s.ptpOn p = true ∧ s.isSlave p = true ∧ s.hallAbsent = false) ∧
    (∃ (s : State) (p : PortId) (m : PtpMsg) (k : BitVec 16) (t1 : ℤ) (t2 : ℤ) (t3 : ℤ) (o : ℤ), s.ptpOn p = true ∧ m.supported = true ∧
    s.hallAbsent = false ∧ s.isSlave p = true ∧ s.time.servo.delayReq = some (m.seqId, t3) ∧ s.time.servo.sync = some
    { seqId := k, origin := some t1, arrival := t2 } ∧ (t2 - t1 - (m.origin - m.correction - t3)) / 2 = o ∧ s.time.stepped = true ∧
    -65536000 ≤ o ∧ o ≤ 65536000) ∧
    (∃ (s : State) (p : PortId) (m : PtpMsg) (k : BitVec 16) (t1 : ℤ) (t2 : ℤ) (t3 : ℤ) (o : ℤ), s.ptpOn p = true ∧ m.supported = true ∧
    s.hallAbsent = false ∧ s.isSlave p = true ∧ s.time.servo.delayReq = some (m.seqId, t3) ∧ s.time.servo.sync = some
    { seqId := k, origin := some t1, arrival := t2 } ∧ (t2 - t1 - (m.origin - m.correction - t3)) / 2 = o ∧ s.time.stepped = true ∧ (o <
    -65536000 ∨ 65536000 < o) ∧ s.time.servo.alarm = false) ∧
    (∃ (s : State) (p : PortId) (m : PtpMsg) (k : BitVec 16) (t1 : ℤ) (t2 : ℤ) (t3 : ℤ) (o : ℤ), s.ptpOn p = true ∧ m.supported = true ∧
    s.hallAbsent = false ∧ s.isSlave p = true ∧ s.time.servo.delayReq = some (m.seqId, t3) ∧ s.time.servo.sync = some
    { seqId := k, origin := some t1, arrival := t2 } ∧ (t2 - t1 - (m.origin - m.correction - t3)) / 2 = o ∧ s.time.stepped = false ∧
    s.time.stepPend = [] ∧ s.time.servo.offsets.length = 3 ∧ ∀ x ∈ o :: s.time.servo.offsets, -2 ^ 90 < x ∧ x < 2 ^ 90) ∧
    (∃ (s : State) (p : PortId) (m : PtpMsg) (k : BitVec 16) (t1 : ℤ) (t2 : ℤ) (t3 : ℤ) (o : ℤ), s.ptpOn p = true ∧ m.supported = true ∧
    s.hallAbsent = false ∧ s.isSlave p = true ∧ s.time.servo.delayReq = some (m.seqId, t3) ∧ s.time.servo.sync = some
    { seqId := k, origin := some t1, arrival := t2 } ∧ (t2 - t1 - (m.origin - m.correction - t3)) / 2 = o ∧ s.time.stepped = false ∧
    s.time.servo.offsets.length < 3) ∧
    (∃ (s : State) (u : LinkId) (o : ℤ), s.time.servo.source = 16 + ↑u ∧ (vget s.join.links u).up = true ∧ s.hallAbsent = false ∧
    s.time.stepped = true ∧ -65536000 ≤ o ∧ o ≤ 65536000) ∧
    (∃ (s : State), s.hallAbsent = false ∧ s.time.servo.alarm = false ∧ s.reached (s.time.servo.lastExchange + ns 2000000000) = true) ∧
    (∃ (s : State) (p : PortId) (m : AnnounceMsg), s.ptpOn p = true ∧ m.supported = true ∧ s.hallAbsent = false) ∧
    (∃ (s : State) (p : PortId), s.mayMaster p = true) ∧
    (∃ (s : State), s.time.servo.locked = false) ∧
    (∃ (s : State) (m : MboxId) (l : List MItem) (a : ℕ) (p : ℕ), MbRuns s m 50 timeConfigureItems l ∧ itemNum l 2825 = some a ∧ itemNum l 1 =
    some (256 + p) ∧ p < 4) ∧
    (∃ (s : State) (m : MboxId) (l : List MItem), MbRuns s m 50 timeConfigureItems l ∧ itemNum l 2825 = none) ∧
    (∃ (s : State) (m : MboxId), MbRuns s m 53 (fun _ _ => none) []) :=
  ⟨⟨linked lit, 0, ⟨false, 0, false, 0, 0⟩, by decide +kernel⟩,
   ⟨(linked lit).modTime fun x => { x with servo := { x.servo with sync := some ⟨1, none, 0⟩ } }, 0, delayResp 0, 0, by decide +kernel⟩,
   ⟨lockedServo (linked lit), 1, delayResp 0, by decide +kernel⟩,
   ⟨linked lit, 0, by decide +kernel⟩,
   ⟨exchanged true [], 0, delayResp 0, 0, 0, 0, 0, 0, by decide +kernel⟩,
   ⟨exchanged true [], 0, delayResp (-131072002), 0, 0, 0, 0, 65536001, by decide +kernel⟩,
   ⟨exchanged false [0, 0, 0], 0, delayResp 0, 0, 0, 0, 0, 0, by decide +kernel⟩,
   ⟨exchanged false [], 0, delayResp 0, 0, 0, 0, 0, 0, by decide +kernel⟩,
   ⟨(joined lit).modTime (fun x => { x with servo := { x.servo with source := 16 } }) |>.modJoin fun j => { j with links := vmod j.links 0 fun x => { x with up := true } }, 0, 0, by decide +kernel⟩,
   ⟨lit, by decide +kernel⟩,
   ⟨linked lit, 0, ⟨true, 0⟩, by decide +kernel⟩,
   ⟨lockedServo (linked lit), 1, by decide +kernel⟩,
   ⟨lit, by decide +kernel⟩,
   ⟨_, 0, _, 0, 0, mbRuns (s := asked 0 50 (item 0xB09 4 0 ++ item 1 2 0x100) lit) (by decide +kernel), by decide +kernel⟩,
   ⟨_, 0, _, mbRuns (s := asked 0 50 [] lit) (by decide +kernel), by decide +kernel⟩,
   ⟨asked 0 53 [] lit, 0, by decide +kernel, by decide +kernel, by decide +kernel, .inl (by decide +kernel)⟩⟩

theorem wit_StallClocksFollowTheirLimits :
    (∃ (s : State) (n : StallId), s.domainOn ↑n = true ∧ (s.stall n).inService = false) ∧
    (∃ (s : State) (n : StallId), s.domainOn ↑n = true ∧ (s.stall n).inService = true) ∧
    (∃ (s : State) (n : StallId), s.domainOn ↑n = false ∧ s.pwr.tripHold = false ∧ s.sec.phase ≠ BootPhase.held) ∧
    (∃ (s : State) (n : StallId), s.domainOn ↑n = true ∧ s.pwr.refLost = false ∧ (s.stall n).aclk ≠ (s.stall n).aclkTarget ∧ (s.stall
    n).slewTime ≤ s.up - (s.stall n).slewAt ∧ ((s.stall n).aclkTarget ≤ (s.stall n).aclk ∨ vreqMv n (s.stall n).aclkTarget ≤ s.pwr.ackMv)) ∧
    (∃ (s : State) (n : StallId), s.domainOn ↑n = true ∧ s.pwr.refLost = false ∧ (s.stall n).aclk ≠ (s.stall n).aclkTarget ∧ s.up - (s.stall
    n).slewAt < (s.stall n).slewTime) ∧
    (∃ (s : State) (n : StallId), s.domainOn ↑n = true ∧ s.pwr.refLost = false ∧ (s.stall n).aclk ≠ (s.stall n).aclkTarget ∧ (s.stall n).aclk <
    (s.stall n).aclkTarget ∧ s.pwr.ackMv < vreqMv n (s.stall n).aclkTarget) ∧
    (∃ (s : State) (n : StallId), s.domainOn ↑n = true ∧ (s.stall n).stretched = false) ∧
    (∃ (s : State) (n : StallId), (s.stall n).stretched = true ∧ s.acTime n 64 ≤ s.up - (s.stall n).droopAt) ∧
    (∃ (s : State) (n : StallId), (s.stall n).stretched = false ∧ ns 1000000000 ≤ s.up - (s.stall n).droopAt) ∧
    (∃ (s : State) (n : StallId), tempAtLeast (s.stall n).temp (-8) = false ∧ ns 1000000 ≤ s.up - (s.stall n).thermAt) :=
  ⟨⟨stallWith fun x => { x with inService := false }, 0, by decide +kernel⟩,
   ⟨lit, 0, by decide +kernel⟩,
   ⟨powerWith fun x => { x with domains := 0 }, 0, by decide +kernel⟩,
   ⟨stallWith fun x => { x with slewAt := -ns 80000 }, 0, by decide +kernel, by decide +kernel, by decide +kernel, by decide +kernel, .inl (by decide +kernel)⟩,
   ⟨lit, 0, by decide +kernel⟩,
   ⟨stallWith fun x => { x with aclkTarget := 2250 }, 0, by decide +kernel, by decide +kernel, by decide +kernel, by decide +kernel, Nat.lt_of_lt_of_le (show _ < 600 by decide +kernel) (Nat.le_max_left 600 _)⟩,
   ⟨lit, 0, by decide +kernel⟩,
   ⟨stallWith fun x => { x with stretched := true, droopAt := -ns 1000000000 }, 0, by decide +kernel⟩,
   ⟨stallWith fun x => { x with droopAt := -ns 1000000000 }, 0, by decide +kernel⟩,
   ⟨stallWith fun x => { x with temp := 0, thermAt := -ns 1000000 }, 0, cold (by decide), by decide +kernel⟩⟩

theorem wit_PowerTemperatureAndRailAreKept :
    (∃ (s : State) (e : ℕ) (b : ℚ), b = if s.pwr.est10Sum = 0 then ↑e else max (↑e) (s.pwr.meas * ↑e * ↑s.pwr.est10Count / ↑s.pwr.est10Sum)) ∧
    (∃ (s : State) (l : List (BitVec 12)) (o : List (BitVec 12)), s.pwr.tripHold = false ∧ (∀ (n : StallId), (s.stall n).tripRun = 0 ∨
    tempAtLeast (l.getD (↑n) 0) 10 = false ∨ s.domainOn ↑n = false) ∧ ∀ (i : Fin 16), vget s.pwr.tripX i = 0 ∨ tempAtLeast (o.getD (↑i) 0)
    10 = false) ∧
    (∃ (s : State) (l : List (BitVec 12)) (n : StallId), s.pwr.tripHold = false ∧ s.domainOn ↑n = true ∧ 1 ≤ (s.stall n).tripRun ∧ tempAtLeast
    (l.getD (↑n) 0) 10 = true) ∧
    (∃ (s : State) (l : List (BitVec 12)) (o : List (BitVec 12)), s.pwr.tripHold = true ∧ s.join.pair = none ∧ (∀ (n : StallId), tempAtLeast
    (l.getD (↑n) 0) (-10) = false) ∧ ∀ (i : Fin 16), tempAtLeast (o.getD (↑i) 0) (-10) = false) ∧
    (∃ (s : State), s.avsUp = true) ∧
    (∃ (s : State) (v : ℕ) (w : ℕ) (i : ℤ), s.avsUp = true ∧ s.pwr.written = some (w, i) ∧ v ≤ w + 5 ∧ w ≤ v + 5) ∧
    (∃ (s : State) (v : ℕ) (w : ℕ) (i : ℤ), s.avsUp = true ∧ s.pwr.written = some (w, i) ∧ (w + 5 < v ∨ v + 5 < w) ∧ ns 20000 ≤ s.up - i) ∧
    (∃ (s : State) (v : ℕ) (w : ℕ) (i : ℤ), s.avsUp = true ∧ s.pwr.written = some (w, i) ∧ (w + 5 < v ∨ v + 5 < w) ∧ s.up - i < ns 20000) ∧
    (∃ (s : State), s.avsUp = true ∧ s.pwr.avsFault = false ∧ s.pwr.written = none ∧ s.pwr.ackMv ≠ 0 ∧ s.pwr.ackMv ≠ s.pwr.targetMv) ∧
    (∃ (s : State), s.avsUp = true) ∧
    (∃ (s : State), s.avsUp = true ∧ s.pwr.avsFault = false ∧ 2 ≤ s.pwr.failRun) ∧
    (∃ (s : State), s.pwr.share ≠ [] ∧ s.time.stepped = true ∧ s.pwr.lastMs < s.nowNs / 1000000 ∧ s.pwr.transfer = none) ∧
    (∃ (s : State) (g : DeviceId) (r : DeviceId) (i : ℤ), s.pwr.transfer = some (some (g, r), i) ∧ s.reached i = true ∧ g ≠ r) ∧
    (∃ (s : State) (d : DeviceId) (sh : List ℕ) (lt : List ℕ), (∃ x ∈ s.pwr.share, x.1 = d) ∧ shareDiff s.pwr.share s.pwr.late sh lt = none) ∧
    (∃ (s : State) (d : DeviceId) (m : DeviceId) (sh : List ℕ) (lt : List ℕ) (p : ℕ) (q : ℕ), (∃ x ∈ s.pwr.share, x.1 = d) ∧ shareDiff
    s.pwr.share s.pwr.late sh lt = some (m, p, q)) ∧
    (∃ (s : State) (m : MboxId) (l : List MItem), MbRuns s m 64 powerItems l ∧ itemNum l 3590 = none ∧ itemNum l 3591 = none ∧ fld s.pwr.group
    11 0 = 0) ∧
    (∃ (s : State) (m : MboxId) (l : List MItem) (g : ℕ), MbRuns s m 64 powerItems l ∧ itemNum l 3590 = none ∧ itemNum l 3591 = some g ∧ 0 < g
    ∧ fld s.pwr.group 20 12 ≤ g / max 1 s.sharers.length ∧ g / max 1 s.sharers.length ≤ 260) :=
  ⟨⟨lit, 0, _, rfl⟩,
   ⟨lit, [], [], by decide +kernel, fun n => .inl ((show ∀ n : StallId, (lit.stall n).tripRun = 0 from by decide +kernel) n), fun i => .inl ((show ∀ i : Fin 16, vget lit.pwr.tripX i = 0 from by decide +kernel) i)⟩,
   ⟨stallWith fun x => { x with tripRun := 1 }, [0x7FF], 0, by decide +kernel, by decide +kernel, by decide +kernel, boiling⟩,
   ⟨powerWith fun x => { x with tripHold := true }, [], [], by decide +kernel, by decide +kernel, fun _ => cold (by decide), fun _ => cold (by decide)⟩,
   ⟨lit, by decide +kernel⟩,
   ⟨powerWith fun x => { x with written := some (750, 0) }, 750, 750, 0, by decide +kernel⟩,
   ⟨powerWith fun x => { x with written := some (750, -ns 20000) }, 700, 750, -ns 20000, by decide +kernel⟩,
   ⟨powerWith fun x => { x with written := some (750, 0) }, 700, 750, 0, by decide +kernel⟩,
   ⟨powerWith fun x => { x with ackMv := 700 }, by decide +kernel⟩,
   ⟨lit, by decide +kernel⟩,
   ⟨powerWith fun x => { x with failRun := 2 }, by decide +kernel⟩,
   ⟨powerWith fun x => { x with share := [(0, 10)] }, by decide +kernel⟩,
   ⟨powerWith fun x => { x with transfer := some (some (0, 1), 0) }, 0, 1, 0, by decide +kernel⟩,
   ⟨powerWith fun x => { x with share := [(0, 10)] }, 0, [], [], by decide +kernel⟩,
   ⟨powerWith fun x => { x with share := [(0, 10)], late := [(0, 0)] }, 0, 0, [11], [0], 10, 11, by decide +kernel⟩,
   ⟨_, 0, _, mbRuns (s := asked 0 64 [] lit) (by decide +kernel), by decide +kernel⟩,
   ⟨_, 0, _, 200, mbRuns (s := asked 0 64 (item 0xE07 2 200) lit) (by decide +kernel), by decide +kernel⟩⟩

theorem wit_ResetsAndBootRunVerifiedImages :
    (∃ (s : State), s.pins.pwrGood = false) ∧
    (∃ (s : State), s.pins.pwrGood = true ∧ s.sec.phase ≠ BootPhase.served ∧ s.wh.restart = none) ∧
    (∃ (s : State), s.pins.pwrGood = true ∧ s.sec.phase = BootPhase.served) ∧
    (∃ (s : State) (slot : Bool) (img : List Byte), s.sec.phase = BootPhase.held ∧ s.activeSlot false = slot ∧ s.readSfdp.flashImage 1
    (s.slotOffset false slot) = img) ∧
    (∃ (s : State) (o : Word) (bs : List Byte), s.sec.phase = BootPhase.rom ∧ s.host.usbConfigured = true ∧ bs.length ≤ 65536 ∧ BitVec.toNat o
    = vget s.sec.romPos 0) ∧
    (∃ (s : State) (o : Word) (bs : List Byte), s.sec.phase = BootPhase.rom ∧ s.host.usbConfigured = true ∧ bs.length ≤ 65536 ∧ BitVec.toNat o
    = vget s.sec.romPos 1) ∧
    (∃ (s : State) (o : Word) (bs : List Byte), s.sec.phase = BootPhase.rom ∧ s.host.usbConfigured = true ∧ bs.length ≤ 65536 ∧ BitVec.toNat o
    ≠ vget s.sec.romPos 0) ∧
    (∃ (s : State) (o : Word) (bs : List Byte), s.sec.phase = BootPhase.rom ∧ s.host.usbConfigured = true ∧ bs.length ≤ 65536 ∧ BitVec.toNat o
    ≠ vget s.sec.romPos 1) ∧
    (∃ (s : State), s.sec.phase = BootPhase.rom ∧ s.host.usbConfigured = true) ∧
    (∃ (s : State) (tr : Bool), s.sec.phase = BootPhase.booting ∧ s.sec.hallRun = true ∧ s.sec.failed = none ∧ tr = false) ∧
    (∃ (s : State) (fs : List (StallId × Fin 3)) (tr : Bool), s.sec.phase = BootPhase.booting ∧ s.sec.hallRun = true ∧ s.sec.failed = none ∧ tr
    = true ∧ ∀ (n : StallId), ∃ f ∈ fs, f.1 = n) ∧
    (∃ (s : State) (fs : List (StallId × Fin 3)) (tr : Bool), s.sec.phase = BootPhase.booting ∧ s.sec.hallRun = true ∧ s.sec.failed = none ∧ tr
    = true ∧ ∃ (n : StallId), ∀ f ∈ fs, f.1 ≠ n) ∧
    (∃ (s : State) (r : Restart), s.wh.restart = some r ∧ s.sec.hallRun = true ∧ s.sec.whRun = true ∧ s.sec.failed = none ∧ s.wh.pwrReqLow =
    false) ∧
    (∃ (s : State) (r : Restart), s.wh.restart = some r ∧ r.fault = true ∧ ns 100000000 ≤ s.up - r.start) :=
  ⟨⟨State.reset, by decide +kernel⟩,
   ⟨(secWith fun x => { x with phase := .booting }), by decide +kernel⟩,
   ⟨lit, by decide +kernel⟩,
   ⟨State.reset, _, _, by decide +kernel, rfl, rfl⟩,
   ⟨{ inRom lit with host := lit.host }, 0, [0], by decide +kernel⟩,
   ⟨{ inRom lit with host := lit.host }, 0, [0], by decide +kernel⟩,
   ⟨inRom lit, 4, [0], by decide +kernel⟩,
   ⟨inRom lit, 4, [0], by decide +kernel⟩,
   ⟨inRom lit, by decide +kernel⟩,
   ⟨inBoot, false, by decide +kernel⟩,
   ⟨inBoot, (List.finRange 64).map fun n => (n, 0), true, by decide +kernel⟩,
   ⟨inBoot, [], true, by decide +kernel, by decide +kernel, by decide +kernel, by decide +kernel, 0, nofun⟩,
   ⟨restarting, _, rfl, by decide +kernel⟩,
   ⟨restarting, _, rfl, by decide +kernel⟩⟩

theorem wit_SecurityCommandsVerify :
    (∃ (s : State) (m : MboxId) (l : List MItem) (bs : List Byte) (off : ℕ) (ty : ℕ), MbRuns s m 16 (fun (id : ℕ) (v : List Byte) => if id =
    2305 then some (inRange 1 2 v) else chunkItems id v) l ∧ s.sec.ready = true ∧ itemNum l 2305 = some ty ∧ itemVal l 12 = some bs ∧
    itemNum l 2306 = some off ∧ itemNum l 2307 = none ∧ (∀ (o : ℕ) (i : ℤ), s.sec.owner = some (o, i) → o = 16) ∧ off + bs.length ≤
    stagingSize) ∧
    (∃ (s : State) (m : MboxId) (l : List MItem) (ty : ℕ) (i : ℤ), MbRuns s m 16 (fun (id : ℕ) (v : List Byte) => if id = 2305 then some
    (inRange 1 2 v) else chunkItems id v) l ∧ s.sec.ready = true ∧ itemNum l 2305 = some ty ∧ s.sec.owner = some (17, i)) ∧
    (∃ (s : State) (m : MboxId) (l : List MItem) (ty : ℕ) (n : ℕ), MbRuns s m 16 (fun (id : ℕ) (v : List Byte) => if id = 2305 then some
    (inRange 1 2 v) else chunkItems id v) l ∧ s.sec.ready = true ∧ itemNum l 2305 = some ty ∧ itemVal l 12 = none ∧ itemNum l 2306 = none
    ∧ itemNum l 2307 = some n ∧ n ≤ stagingSize ∧ (∀ (o : ℕ) (i : ℤ), s.sec.owner = some (o, i) → o = 16) ∧ s.sec.flash.wf = true) ∧
    (∃ (s : State) (m : MboxId) (l : List MItem) (c : CellId) (n : ℕ) (img : List Byte), MbRuns s m 17 (fun (id : ℕ) (v : List Byte) => if id =
    257 then some (inRange 0 15 v) else chunkItems id v) l ∧ s.sec.ready = true ∧ itemNum l 257 = some ↑c ∧ itemVal l 12 = none ∧ itemNum
    l 2306 = none ∧ itemNum l 2307 = some n ∧ n ≤ stagingSize ∧ (∀ (o : ℕ) (i : ℤ), s.sec.owner = some (o, i) → o = 17) ∧ memRead s.mem
    s.stagingAddr n = img) ∧
    (∃ (s : State) (o : ℕ) (i : ℤ), s.sec.owner = some (o, i) ∧ ns 10000000000 ≤ s.up - i) ∧
    (∃ (s : State) (m : MboxId) (l : List MItem) (x : List Byte), MbRuns s m 18 (fun (id : ℕ) (v : List Byte) => if id = 2308 then some (decide
    (1 ≤ v.length) && decide (v.length ≤ 64)) else none) l ∧ itemVal l 2308 = some x ∧ s.sec.keysDead = true) ∧
    (∃ (s : State) (m : MboxId) (l : List MItem) (x : List Byte), MbRuns s m 18 (fun (id : ℕ) (v : List Byte) => if id = 2308 then some (decide
    (1 ≤ v.length) && decide (v.length ≤ 64)) else none) l ∧ itemVal l 2308 = some x ∧ s.sec.keysDead = false) ∧
    (∃ (s : State) (m : MboxId) (l : List MItem) (k : ℕ), MbRuns s m 19 (fun (id : ℕ) (v : List Byte) => if id = 2314 then some (inRange 1 2 v)
    else if id = 2313 then some (sized 114 v) else none) l ∧ itemVal l 2313 = none ∧ itemNum l 2314 = some k) ∧
    (∃ (s : State) (m : MboxId) (l : List MItem) (r : List Byte) (c : List Byte) (i : ℤ), MbRuns s m 19 (fun (id : ℕ) (v : List Byte) => if id
    = 2314 then some (inRange 1 2 v) else if id = 2313 then some (sized 114 v) else none) l ∧ itemVal l 2313 = some r ∧ s.sec.challenge =
    some (c, i) ∧ i ≤ s.up) ∧
    (∃ (s : State) (m : MboxId) (l : List MItem) (r : List Byte) (c : List Byte) (i : ℤ), MbRuns s m 19 (fun (id : ℕ) (v : List Byte) => if id
    = 2314 then some (inRange 1 2 v) else if id = 2313 then some (sized 114 v) else none) l ∧ itemVal l 2313 = some r ∧ s.sec.challenge =
    some (c, i) ∧ s.up < i) ∧
    (∃ (s : State) (c : List Byte) (i : ℤ), s.sec.challenge = some (c, i) ∧ i ≤ s.up) :=
  ⟨⟨_, 0, _, [0], 0, 1, mbRuns (s := asked 0 16 (item 0x901 1 1 ++ itemBytes 12 [0] ++ item 0x902 4 0) lit) (by decide +kernel), by decide +kernel, by decide +kernel, by decide +kernel, by decide +kernel, by decide +kernel, fun _ _ => nofun, by decide +kernel⟩,
   ⟨_, 0, _, 1, 0, mbRuns (s := asked 0 16 (item 0x901 1 1) (secWith fun x => { x with owner := some (17, 0) })) (by decide +kernel), by decide +kernel⟩,
   ⟨_, 0, _, 1, 0, mbRuns (s := asked 0 16 (item 0x901 1 1 ++ staged0) lit) (by decide +kernel), by decide +kernel, by decide +kernel, by decide +kernel, by decide +kernel, by decide +kernel, by decide +kernel, fun _ _ => nofun, by decide +kernel⟩,
   ⟨_, 0, _, 0, 0, _, mbRuns (s := asked 0 17 (forCell ++ staged0) lit) (by decide +kernel), by decide +kernel, by decide +kernel, by decide +kernel, by decide +kernel, by decide +kernel, by decide +kernel, fun _ _ => nofun, rfl⟩,
   ⟨secWith fun x => { x with owner := some (16, -ns 10000000000) }, 16, -ns 10000000000, by decide +kernel⟩,
   ⟨_, 0, _, [0], mbRuns (s := asked 0 18 (itemBytes 0x904 [0]) (secWith fun x => { x with keysDead := true })) (by decide +kernel), by decide +kernel⟩,
   ⟨_, 0, _, [0], mbRuns (s := asked 0 18 (itemBytes 0x904 [0]) lit) (by decide +kernel), by decide +kernel⟩,
   ⟨_, 0, _, 1, mbRuns (s := asked 0 19 (item 0x90A 1 1) lit) (by decide +kernel), by decide +kernel⟩,
   ⟨_, 0, _, List.replicate 114 0, [], 0, mbRuns (s := asked 0 19 (itemBytes 0x909 (List.replicate 114 0)) (challenged 0 lit)) (by decide +kernel), by decide +kernel⟩,
   ⟨_, 0, _, List.replicate 114 0, [], 1, mbRuns (s := asked 0 19 (itemBytes 0x909 (List.replicate 114 0)) (challenged 1 lit)) (by decide +kernel), by decide +kernel⟩,
   ⟨challenged 0 lit, [], 0, by decide +kernel⟩⟩

theorem wit_VerdictsAreWrittenOnce :
    (∃ (s : State) (b : JudgedBlock) (v : VerdictInput) (cs : List (BitVec 16)), s.wh.ready = true ∧ s.judged b.verdictAddr = false ∧
    VerdictOpen s b ∧ b.fault = false ∧ b.learned = false ∧ v = VerdictInput.precoded cs ∧ b.dlAlloc = none ∧ b.path ≠ PathKind.scheduler
    ∧ (s.judgedCell b).judge (s.powers b) v = none) ∧
    (∃ (ls : List Byte), 128 ∈ ls) ∧
    (∃ (ls : List Byte) (er : List Bool), 128 ∉ ls ∧ ∃ p ∈ ls.zip er, p.2 = true ∧ p.1 ≠ 0) ∧
    (∃ (pw : Option (ℕ × ℕ)) (ls : List Byte) (er : List Bool) (o : Option ShadowObs), 128 ∉ ls ∧ (∀ p ∈ ls.zip er, p.2 = true → p.1 = 0) ∧ pw
    = none ∧ o = none) ∧
    (∃ (pw : Option (ℕ × ℕ)), pw = none) ∧
    (∃ (s : State) (b : JudgedBlock), s.wh.ready = false ∨ s.judged b.verdictAddr = true) ∧
    (∃ (s : State) (b : JudgedBlock) (ls : List Byte) (l : List Byte) (er : List Bool) (e : List Bool) (q : ℕ) (snr : ℤ), s.wh.ready = true ∧
    s.judged b.verdictAddr = false ∧ VerdictOpen s b ∧ b.fault = false ∧ (s.stall b.stall).suspect = false ∧ s.afterDemotion b = false ∧
    s.shadowCounts b = false ∧ b.dlAlloc = none ∧ b.path = PathKind.receiver ∧ ((s.ulBlock b.ref).bind fun (x : UlBlock) => x.llr).getD
    (ls, er) = (l, e) ∧ (s.judgedCell b).judge (s.powers b) (VerdictInput.llr l e q snr none) = none ∧ b.learned = false) ∧
    (∃ (s : State) (b : JudgedBlock) (ls : List Byte) (l : List Byte) (er : List Bool) (e : List Bool) (q : ℕ) (snr : ℤ) (u : UlSlot) (x :
    UlUnit), s.wh.ready = true ∧ s.judged b.verdictAddr = false ∧ VerdictOpen s b ∧ b.fault = false ∧ (s.stall b.stall).suspect = false ∧
    s.afterDemotion b = false ∧ s.shadowCounts b = false ∧ b.dlAlloc = none ∧ b.path = PathKind.receiver ∧ ((s.ulBlock b.ref).bind fun (x
    : UlBlock) => x.llr).getD (ls, er) = (l, e) ∧ (s.judgedCell b).judge (s.powers b) (VerdictInput.llr l e q snr none) = none ∧ b.learned
    = true ∧ s.ulSlot b.ref.cell b.ref.air = some u ∧ s.ulUnit b.ref = some x ∧ b.estimateAddr ≠ 0 ∧ VerdictOpen s
    { ref := b.ref, learned := b.learned, fault := b.fault, path := b.path, verdictAddr := b.estimateAddr, acceptAddr := b.acceptAddr, stall := b.stall, shape := b.shape, template := b.template, dlAlloc := b.dlAlloc, record := b.record, shadowRecord := b.shadowRecord, estimateAddr := b.estimateAddr, res := b.res }) ∧
    (∃ (s : State) (b : JudgedBlock) (v : VerdictInput), s.wh.ready = true ∧ s.judged b.verdictAddr = false ∧ VerdictOpen s b ∧ b.path =
    PathKind.scheduler ∧ isLlr v = false ∧ s.firmQueue = none ∧ b.fault = true) ∧
    (∃ (s : State) (b : JudgedBlock) (v : VerdictInput), s.wh.ready = true ∧ s.judged b.verdictAddr = false ∧ VerdictOpen s b ∧ b.path =
    PathKind.scheduler ∧ isLlr v = false ∧ s.firmQueue = none ∧ b.fault = false ∧ b.learned = true ∧ s.afterDemotion b = true) ∧
    (∃ (s : State) (b : JudgedBlock) (v : VerdictInput), s.wh.ready = true ∧ s.judged b.verdictAddr = false ∧ VerdictOpen s b ∧ b.path =
    PathKind.scheduler ∧ isLlr v = false ∧ s.firmQueue = none ∧ b.fault = false ∧ b.learned = true ∧ s.afterDemotion b = false ∧ (s.stall
    b.stall).suspect = true) ∧
    (∃ (s : State) (b : JudgedBlock) (v : VerdictInput) (k : ℕ), s.wh.ready = true ∧ s.judged b.verdictAddr = false ∧ VerdictOpen s b ∧ b.path
    = PathKind.scheduler ∧ isLlr v = false ∧ s.firmQueue = none ∧ b.fault = false ∧ b.learned = false ∧ (s.judgedCell b).judge (s.powers
    b) (s.shadowed b v) = some k) ∧
    (∃ (s : State) (b : JudgedBlock) (v : VerdictInput) (i : ℤ), s.wh.ready = true ∧ s.judged b.verdictAddr = false ∧ VerdictOpen s b ∧ b.path
    = PathKind.scheduler ∧ isLlr v = false ∧ s.firmQueue = none ∧ s.verdictFrom b = some i ∧ i + 4000 ≤ s.nowNs) ∧
    (∃ (s : State) (b : JudgedBlock) (i : ℤ), s.verdictFrom b = none ∨ s.verdictFrom b = some i ∧ s.nowNs < i + 4000) ∧
    (∃ (s : State) (b : JudgedBlock) (v : VerdictInput) (q : QueueId), s.wh.ready = true ∧ s.judged b.verdictAddr = false ∧ b.fault = true ∧
    b.path = PathKind.scheduler ∧ isLlr v = false ∧ s.firmQueue = some q ∧ (entryOf (setExcl b.template)).link = false ∧ ∀ e ∈ (s.queue
    q).entries, ↑e.idx ≠ (s.queue q).tail.toNat) ∧
    (∃ (s : State) (b : JudgedBlock) (v : VerdictInput) (x : UlBlock) (u : UlUnit), s.wh.ready = true ∧ s.judged b.verdictAddr = false ∧
    VerdictOpen s b ∧ b.fault = true ∧ b.path = PathKind.receiver ∧ b.dlAlloc = none ∧ isLlr v = false ∧ s.ulBlock b.ref = some x ∧
    x.final = none ∧ s.ulUnit b.ref = some u ∧ s.fallbackQueue b.ref.cell (descOf b.template).crit = none) ∧
    (∃ (s : State) (b : JudgedBlock), s.shadowCounts b = true ∧ s.judged b.verdictAddr = false ∧ s.reached (s.detectionClose b) = true ∧
    s.recordEnd b.shadowRecord = none) :=
  ⟨⟨lit, { blk with path := .precoder }, .precoded [], [], by decide +kernel, by decide +kernel, ⟨0, by decide +kernel⟩, by decide +kernel, by decide +kernel, rfl, by decide +kernel⟩,
   ⟨[128], by decide +kernel⟩,
   ⟨[1], [true], by decide +kernel⟩,
   ⟨none, [1], [false], none, by decide +kernel⟩,
   ⟨none, rfl⟩,
   ⟨State.reset, blk, .inl (by decide +kernel)⟩,
   ⟨lit, { blk with path := .receiver }, [1], [1], [false], [false], 2, 0, by decide +kernel, by decide +kernel, ⟨0, by decide +kernel⟩, by decide +kernel⟩,
   ⟨onSlot1, estimated, [], [], [], [], 2, 0, slot1, ⟨1, 1, 0, some tx0, [block none], false, none⟩, by decide +kernel, by decide +kernel, ⟨0, by decide +kernel⟩, by decide +kernel, by decide +kernel, by decide +kernel, by decide +kernel, by decide +kernel, by decide +kernel, by decide +kernel, by decide +kernel, by decide +kernel, by decide +kernel, by decide +kernel, by decide +kernel, ⟨64, by decide +kernel⟩⟩,
   ⟨lit, { blk with fault := true }, .encoded false 0, by decide +kernel, by decide +kernel, ⟨0, by decide +kernel⟩, by decide +kernel⟩,
   ⟨demotedPath (fun x => { x with demotedAt := some (slotNow - 3) }) lit, { blk with learned := true }, .encoded false 0, by decide +kernel, by decide +kernel, ⟨0, by decide +kernel⟩, by decide +kernel⟩,
   ⟨suspected, { blk with learned := true }, .encoded false 0, by decide +kernel, by decide +kernel, ⟨0, by decide +kernel⟩, by decide +kernel⟩,
   ⟨lit, blk, .encoded false 0, 11, by decide +kernel, by decide +kernel, ⟨0, by decide +kernel⟩, by decide +kernel⟩,
   ⟨recorded, { blk with record := 0x20000100 }, .encoded false 0, 0, by decide +kernel, by decide +kernel, ⟨0, by decide +kernel⟩, by decide +kernel⟩,
   ⟨lit, blk, 0, .inl (by decide +kernel)⟩,
   ⟨queued 0 [] lit, { blk with fault := true }, .encoded false 0, 0, by decide +kernel⟩,
   ⟨uplink none lit, { blk with fault := true, path := .receiver }, .encoded false 0, block none, ⟨1, 1, 0, some tx0, [block none], false, none⟩, by decide +kernel, by decide +kernel, ⟨0, by decide +kernel⟩, by decide +kernel⟩,
   ⟨uplink none lit, { blk with learned := true, path := .receiver }, by decide +kernel⟩⟩

theorem wit_LearnedPathsAreDemotedAndPromoted :
    (∃ (s : State) (c : CellId) (p : PathKind), s.autoPath c p = true) ∧
    (∃ (s : State) (c : CellId) (p : PathKind), s.autoPath c p = true ∧ 1024 ≤ (s.path c p).clean) ∧
    (∃ (s : State) (c : CellId), (s.cell c).adapt.candidate ≠ []) ∧
    (∃ (s : State) (m : MboxId) (l : List MItem) (c : CellId) (p : PathKind), MbRuns s m 40 pathItems l ∧ pathOf l = some (c, p)) ∧
    (∃ (s : State) (m : MboxId) (l : List MItem) (c : CellId) (p : PathKind), MbRuns s m 41 pathItems l ∧ pathOf l = some (c, p)) ∧
    (∃ (s : State) (m : MboxId) (l : List MItem) (c : CellId), MbRuns s m 39 checkItems l ∧ itemsCell l = some c) ∧
    (∃ (s : State) (b : JudgedBlock) (v : VerdictInput) (k : ℕ) (l : List (ℤ × List StallId)) (c : CellId), b.ref.cell = c ∧ s.wh.ready = true
    ∧ s.judged b.verdictAddr = false ∧ b.fault = false ∧ b.learned = true ∧ b.path = PathKind.scheduler ∧ s.afterDemotion b = false ∧
    (s.stall b.stall).suspect = false ∧ isLlr v = false ∧ (s.judgedCell b).judge (s.powers b) (s.shadowed b v) = some k ∧ noteDisagree
    (s.procSlot b) b.stall (s.path c PathKind.scheduler).disagree = l ∧ 3 ≤ (List.filter (fun (e : ℤ × List StallId) => e.2.contains
    b.stall) l).length) ∧
    (∃ (s : State) (b : JudgedBlock) (v : VerdictInput) (k : ℕ) (l : List (ℤ × List StallId)) (c : CellId), b.ref.cell = c ∧ s.wh.ready = true
    ∧ s.judged b.verdictAddr = false ∧ b.fault = false ∧ b.learned = true ∧ b.path = PathKind.scheduler ∧ s.afterDemotion b = false ∧
    (s.stall b.stall).suspect = false ∧ isLlr v = false ∧ (s.judgedCell b).judge (s.powers b) (s.shadowed b v) = some k ∧ noteDisagree
    (s.procSlot b) b.stall (s.path c PathKind.scheduler).disagree = l ∧ (List.filter (fun (e : ℤ × List StallId) => e.2.contains b.stall)
    l).length < 3 ∧ l.length < 4) ∧
    (∃ (s : State) (b : JudgedBlock) (v : VerdictInput) (k : ℕ) (l : List (ℤ × List StallId)) (c : CellId), b.ref.cell = c ∧ s.wh.ready = true
    ∧ s.judged b.verdictAddr = false ∧ b.fault = false ∧ b.learned = true ∧ b.path = PathKind.scheduler ∧ s.afterDemotion b = false ∧
    (s.stall b.stall).suspect = false ∧ isLlr v = false ∧ (s.judgedCell b).judge (s.powers b) (s.shadowed b v) = some k ∧ noteDisagree
    (s.procSlot b) b.stall (s.path c PathKind.scheduler).disagree = l ∧ (List.filter (fun (e : ℤ × List StallId) => e.2.contains b.stall)
    l).length < 3 ∧ 4 ≤ l.length ∧ (s.path c PathKind.scheduler).demoted = false) ∧
    (∃ (k : ℤ) (n : StallId) (l : List (ℤ × List StallId)) (e : ℤ × List StallId), e ∈ noteDisagree k n l) ∧
    (∃ (k : ℤ) (l : List (ℤ × List StallId)), ∃ e ∈ l, k - 64 < e.1 ∧ e.1 ≠ k) :=
  ⟨⟨demotedPath id (lit.modCell 0 (·.set .autoRepromote 1)), 0, .scheduler, by decide +kernel⟩,
   ⟨demotedPath (fun x => { x with clean := 1024 }) (lit.modCell 0 (·.set .autoRepromote 1)), 0, .scheduler, by decide +kernel⟩,
   ⟨lit.modCell 0 fun x => { x with adapt := { x.adapt with candidate := [(0, [])] } }, 0, by decide +kernel⟩,
   ⟨_, 0, _, 0, .precoder, mbRuns (s := asked 0 40 (target 0 ++ item 2 1 1) lit) (by decide +kernel), by decide +kernel⟩,
   ⟨_, 0, _, 0, .precoder, mbRuns (s := asked 0 41 (target 0 ++ item 2 1 1) lit) (by decide +kernel), by decide +kernel⟩,
   ⟨_, 0, _, 0, mbRuns (s := asked 0 39 (target 0) lit) (by decide +kernel), by decide +kernel⟩,
   ⟨noted [(slotNow - 1, [0]), (slotNow - 2, [0])], { blk with learned := true }, .encoded false 0, 11, _, 0, rfl, by decide +kernel, by decide +kernel, by decide +kernel, by decide +kernel, by decide +kernel, by decide +kernel, by decide +kernel, by decide +kernel, by decide +kernel, rfl, by decide +kernel⟩,
   ⟨noted [], { blk with learned := true }, .encoded false 0, 11, _, 0, rfl, by decide +kernel, by decide +kernel, by decide +kernel, by decide +kernel, by decide +kernel, by decide +kernel, by decide +kernel, by decide +kernel, by decide +kernel, rfl, by decide +kernel⟩,
   ⟨noted [(slotNow - 1, [1]), (slotNow - 2, [1]), (slotNow - 3, [2])], { blk with learned := true }, .encoded false 0, 11, _, 0, rfl, by decide +kernel, by decide +kernel, by decide +kernel, by decide +kernel, by decide +kernel, by decide +kernel, by decide +kernel, by decide +kernel, by decide +kernel, rfl, by decide +kernel⟩,
   ⟨0, 0, [], (0, [0]), by decide +kernel⟩,
   ⟨1, [(0, [0])], by decide +kernel⟩⟩

theorem wit_WatchdogsStopAndReset :
    (∃ (s : State) (c : CellId) (st : Fin 9) (n : StallId) (e : Engine) (b : Bool) (r : Running) (k : ℤ), (s.stall n).running e = some r ∧
    s.wh.ready = true ∧ (s.cell c).running = true ∧ (descOf r.desc).cell = c ∧ (descOf r.desc).stage = ↑st ∧ s.wh.stops = [] ∧
    s.commandSlot c (descOf r.desc) = k ∧ (if b = true then s.stuck c (↑st) r else s.directionOver c (↑st) k) = true ∧ (s.cell c).wdSlots
    = []) ∧
    (∃ (s : State) (c : CellId) (st : Fin 9) (n : StallId) (e : Engine) (b : Bool) (r : Running) (k : ℤ) (p : ℤ) (q : ℤ), (s.stall n).running e
    = some r ∧ s.wh.ready = true ∧ (s.cell c).running = true ∧ (descOf r.desc).cell = c ∧ (descOf r.desc).stage = ↑st ∧ s.wh.stops = [] ∧
    s.commandSlot c (descOf r.desc) = k ∧ (if b = true then s.stuck c (↑st) r else s.directionOver c (↑st) k) = true ∧ (s.cell c).wdSlots
    = [p, q] ∧ k - 16 < p ∧ k - 16 < q ∧ p ≠ k ∧ q ≠ k ∧ s.hallAbsent = false) ∧
    (∃ (s : State) (n : StallId) (e : Engine), (s.stall n).running e = none) ∧
    (∃ (s : State) (c : CellId) (st : Fin 9) (n : StallId) (b : Bool) (r : Running) (x : VecRegs), (s.stall n).vec = VecEngine.running r x ∧
    r.outcome = none ∧ r.ended = none ∧ s.wh.ready = true ∧ (s.cell c).running = true ∧ (descOf r.desc).cell = c ∧ (descOf r.desc).stage =
    ↑st ∧ s.wh.stops = [] ∧ (s.cell c).wdSlots = [] ∧ (if b = true then s.stuck c (↑st) r else s.directionOver c (↑st) (s.commandSlot c
    (descOf r.desc))) = true) ∧
    (∃ (s : State) (c : CellId) (st : Fin 9) (n : StallId) (e : Engine), ∃ x ∈ s.wh.stops, x.cell = c ∧ x.stage = ↑st ∧ x.stall = n ∧ x.engine
    = e ∧ s.stopLive x = true ∧ ns 10000 ≤ s.up - x.since) ∧
    (∃ (s : State), s.sec.hallRun = true ∧ s.wh.hallKick = none) ∧
    (∃ (s : State) (v : BitVec 16) (u : BitVec 16) (i : ℤ), s.sec.hallRun = true ∧ s.wh.hallKick = some (u, i) ∧ ns 100000 ≤ s.up - i ∧ s.up -
    i ≤ ns 2000000 ∧ v = u + 1) ∧
    (∃ (s : State) (v : BitVec 16) (u : BitVec 16) (i : ℤ), s.sec.hallRun = true ∧ s.wh.hallKick = some (u, i) ∧ (s.up - i < ns 100000 ∨ ns
    2000000 < s.up - i ∨ v ≠ u + 1) ∧ s.hallWatched = true ∧ (recent s.up (ns 10000000000) s.wh.hallResets).length < 2) ∧
    (∃ (s : State) (v : BitVec 16) (u : BitVec 16) (i : ℤ), s.sec.hallRun = true ∧ s.wh.hallKick = some (u, i) ∧ (s.up - i < ns 100000 ∨ ns
    2000000 < s.up - i ∨ v ≠ u + 1) ∧ s.hallWatched = true ∧ 2 ≤ (recent s.up (ns 10000000000) s.wh.hallResets).length) ∧
    (∃ (s : State) (u : BitVec 16) (i : ℤ), s.hallWatched = true ∧ (recent s.up (ns 10000000000) s.wh.hallResets).length < 2 ∧ s.wh.hallKick =
    some (u, i) ∧ ns 2000000 < s.up - i) ∧
    (∃ (s : State) (c : CellId), s.hallWatched = true ∧ (recent s.up (ns 10000000000) s.wh.hallResets).length < 2 ∧ (s.cell c).running = true ∧
    2 ≤ (s.cell c).depthMiss) ∧
    (∃ (s : State), s.wh.hallDown.isSome = true ∧ s.sec.hallRun = true ∧ s.wh.hallKick.isSome = true) ∧
    (∃ (s : State) (i : ℤ), s.wh.hallDown = some i ∧ ns 12000000 ≤ s.up - i) ∧
    (∃ (s : State), s.sec.whRun = true ∧ s.wh.whKick = none) ∧
    (∃ (s : State) (i : ℤ), s.sec.whRun = true ∧ s.wh.whKick = some i ∧ ns 50000 ≤ s.up - i ∧ s.up - i < ns 500000) ∧
    (∃ (s : State) (i : ℤ), s.sec.whRun = true ∧ s.wh.whKick = some i ∧ (s.up - i < ns 50000 ∨ ns 500000 ≤ s.up - i)) ∧
    (∃ (s : State) (i : ℤ), s.sec.whRun = true ∧ s.wh.whKick = some i ∧ ns 500000 ≤ s.up - i) ∧
    (∃ (s : State), s.pins.pwrGood = true ∧ s.pwr.refLost = false) ∧
    (∃ (s : State), s.pwr.refLost = true) :=
  ⟨⟨watched [], 0, 0, 0, .vector, true, run0 (cmd 96 []), _, by decide +kernel, by decide +kernel, by decide +kernel, by decide +kernel, by decide +kernel, by decide +kernel, rfl, by decide +kernel, by decide +kernel⟩,
   ⟨watched [wdSlot - 1, wdSlot - 2], 0, 0, 0, .vector, true, run0 (cmd 96 []), _, wdSlot - 1, wdSlot - 2, by decide +kernel, by decide +kernel, by decide +kernel, by decide +kernel, by decide +kernel, by decide +kernel, rfl, by decide +kernel, by decide +kernel, by decide +kernel⟩,
   ⟨lit, 0, .vector, by decide +kernel⟩,
   ⟨watched [], 0, 0, 0, true, run0 (cmd 96 []), VecRegs.clear false 0, by decide +kernel⟩,
   ⟨{ watched [] with wh := { lit.wh with stops := [⟨0, 0, 0, .vector, 0, 0, -ns 10000⟩] } }, 0, 0, 0, .vector, by decide +kernel⟩,
   ⟨lit, by decide +kernel⟩,
   ⟨kicked (-ns 100000) [], 6, 5, -ns 100000, by decide +kernel⟩,
   ⟨kicked 0 [], 6, 5, 0, by decide +kernel⟩,
   ⟨kicked 0 [0, 0], 6, 5, 0, by decide +kernel⟩,
   ⟨kicked (-ns 3000000) [], 5, -ns 3000000, by decide +kernel⟩,
   ⟨(uplink none lit).modCell 0 fun x => { x with depthMiss := 2 }, 0, by decide +kernel⟩,
   ⟨whWith fun x => { x with hallDown := some 0, hallKick := some (5, 0) }, by decide +kernel⟩,
   ⟨whWith fun x => { x with hallDown := some (-ns 12000000) }, -ns 12000000, by decide +kernel⟩,
   ⟨lit, by decide +kernel⟩,
   ⟨whKicked (-ns 50000), -ns 50000, by decide +kernel⟩,
   ⟨whKicked 0, 0, by decide +kernel⟩,
   ⟨whKicked (-ns 500000), -ns 500000, by decide +kernel⟩,
   ⟨lit, by decide +kernel⟩,
   ⟨powerWith fun x => { x with refLost := true }, by decide +kernel⟩⟩

theorem wit_GoldenFramesTestStalls :
    (∃ (s : State) (n : StallId), s.wh.ready = true ∧ s.wh.tick ≠ s.nowNs / 500000 ∧ s.nowNs / 500000 % 256 = 4 * ↑↑n ∧ (s.stall n).inService =
    true ∧ s.domainOn ↑n = true ∧ (s.stall n).golden.running = false ∧ (∀ (m : StallId), m ≠ n → (s.stall m).golden.due = false) ∧
    s.goldenCollides n = true ∧ (s.stall n).golden.collisions < 4) ∧
    (∃ (s : State) (n : StallId), s.wh.ready = true ∧ s.wh.tick ≠ s.nowNs / 500000 ∧ s.nowNs / 500000 % 256 = 4 * ↑↑n ∧ (s.stall n).inService =
    true ∧ s.domainOn ↑n = true ∧ (s.stall n).golden.running = false ∧ (∀ (m : StallId), m ≠ n → (s.stall m).golden.due = false) ∧
    s.goldenCollides n = true ∧ 4 ≤ (s.stall n).golden.collisions) ∧
    (∃ (s : State) (n : StallId), s.wh.ready = true ∧ s.wh.tick ≠ s.nowNs / 500000 ∧ s.nowNs / 500000 % 256 = 4 * ↑↑n ∧ (s.stall n).inService =
    true ∧ s.domainOn ↑n = true ∧ (s.stall n).golden.running = false ∧ (∀ (m : StallId), m ≠ n → (s.stall m).golden.due = false) ∧
    s.goldenCollides n = false) ∧
    (∃ (s : State), s.wh.tick = s.nowNs / 500000) ∧
    (∃ (s : State) (n : StallId), (s.stall n).golden.running = true ∧ (s.stall n).golden.failures = 0) ∧
    (∃ (s : State) (n : StallId), (s.stall n).golden.running = true ∧ (s.stall n).golden.failures ≠ 0) ∧
    (∃ (s : State) (n : StallId) (i : ℤ) (l : List ℤ), (s.stall n).out = true ∧ (s.stall n).bootFail = false ∧ s.hallAbsent = false ∧
    s.pwr.tripHold = false ∧ s.serviceOf n = none ∧ (s.stall n).outTimes = l ++ [i] ∧ ns 1000000000 ≤ s.up - i ∧ l.length < 2) ∧
    (∃ (s : State) (n : StallId) (i : ℤ) (l : List ℤ), (s.stall n).out = true ∧ (s.stall n).bootFail = false ∧ s.hallAbsent = false ∧
    s.pwr.tripHold = false ∧ s.serviceOf n = none ∧ (s.stall n).outTimes = l ++ [i] ∧ (s.up - i < ns 1000000000 ∨ 2 ≤ l.length)) ∧
    (∃ (s : State) (n : StallId) (m : MboxId) (b : Bool) (x : Option CellId) (items : List Byte), (s.stall n).out = true ∧ (s.stall n).bootFail
    = false ∧ s.hallAbsent = false ∧ s.pwr.tripHold = false ∧ s.serviceOf n = some m ∧ (s.mb m).phase = MbPhase.taken b 65 x 0 (↑n) items) ∧
    (∃ (s : State) (m : MboxId) (l : List MItem) (n : StallId), MbRuns s m 65 stallServiceItems l ∧ itemNum l 1 = some (1024 + n.val) ∧
    (s.stall n).inService = true) ∧
    (∃ (s : State) (m : MboxId) (l : List MItem) (n : StallId), MbRuns s m 65 stallServiceItems l ∧ itemNum l 1 = some (1024 + n.val) ∧
    (s.stall n).inService = false ∧ (s.stall n).bootFail = true) ∧
    (∃ (s : State) (m : MboxId) (l : List MItem) (n : StallId), MbRuns s m 65 stallServiceItems l ∧ itemNum l 1 = some (1024 + n.val) ∧
    (s.stall n).inService = false ∧ (s.stall n).bootFail = false ∧ s.pwr.tripHold = false) ∧
    (∃ (s : State), s.wh.ready = true ∧ s.nowNs / 500000 % 1024 = 2) :=
  ⟨⟨golden 0 (onVec (run0 []) lit), 0, by decide +kernel⟩,
   ⟨golden 4 (onVec (run0 []) lit), 0, by decide +kernel⟩,
   ⟨golden 0 lit, 0, by decide +kernel⟩,
   ⟨whWith fun x => { x with tick := lit.nowNs / 500000 }, by decide +kernel⟩,
   ⟨goldenRun 0, 0, by decide +kernel⟩,
   ⟨goldenRun 1, 0, by decide +kernel⟩,
   ⟨outSince [-ns 1000000000], 0, -ns 1000000000, [], by decide +kernel⟩,
   ⟨outSince [0], 0, 0, [], by decide +kernel⟩,
   ⟨(outSince [0]).modMb 0 (fun x => { x with phase := .taken false 65 none 0 0 [] }), 0, 0, false, none, [], by decide +kernel⟩,
   ⟨_, 0, _, 0, mbRuns (s := asked 0 65 (item 1 2 0x400) lit) (by decide +kernel), by decide +kernel⟩,
   ⟨_, 0, _, 0, mbRuns (s := asked 0 65 (item 1 2 0x400) (stallWith fun x => { x with inService := false, bootFail := true })) (by decide +kernel), by decide +kernel⟩,
   ⟨_, 0, _, 0, mbRuns (s := asked 0 65 (item 1 2 0x400) (outSince [0])) (by decide +kernel), by decide +kernel⟩,
   ⟨later 505000000 0 lit, by decide +kernel⟩⟩

theorem wit_StandbyTakesOver :
    (∃ (s : State), s.wh.ready = true ∧ s.sec.whRun = true ∧ (s.join.sent = none ∨ ∃ (i : ℤ), s.join.sent = some i ∧ ns 50000 ≤ s.up - i)) ∧
    (∃ (s : State) (i : ℤ), s.wh.ready = true ∧ s.sec.whRun = true ∧ s.join.sent = some i ∧ s.up - i < ns 50000) ∧
    (∃ (l : List ValleyMsg), List.Pairwise (fun (a b : ValleyMsg) => a.priority ≤ b.priority) l) ∧
    (∃ (s : State) (l : LinkId) (x : ValleyMsg) (r : List ValleyMsg), s.pending = [] ∧ vget s.valley l = x :: r ∧ (vget s.join.links l).up =
    true) ∧
    (∃ (s : State) (l : LinkId) (x : ValleyMsg) (r : List ValleyMsg), s.pending = [] ∧ vget s.valley l = x :: r ∧ (vget s.join.links l).up =
    false) ∧
    (∃ (s : State) (d : DeviceId), s.linksTo d ≠ []) ∧
    (∃ (s : State) (d : DeviceId), s.linksTo d = []) ∧
    (∃ (s : State) (d : DeviceId) (p : Pair), s.join.pair = some p ∧ p.partner = d ∧ p.taken = false) ∧
    (∃ (s : State) (d : DeviceId) (l : Lockstep), s.join.pair = none ∧ s.shadowRule d = some l) ∧
    (∃ (s : State) (d : DeviceId) (p : Pair) (g : Bool), s.wh.ready = true ∧ ns 150000 ≤ s.up - vget s.join.beats d ∧ s.join.pair = some p ∧
    p.partner = d ∧ p.taken = false ∧ g = true) ∧
    (∃ (s : State) (d : DeviceId) (p : Pair) (g : Bool), s.wh.ready = true ∧ ns 150000 ≤ s.up - vget s.join.beats d ∧ s.join.pair = some p ∧
    p.partner = d ∧ p.taken = false ∧ g = false ∧ p.linkLost = false) ∧
    (∃ (s : State) (d : DeviceId), s.wh.ready = true ∧ ns 150000 ≤ s.up - vget s.join.beats d ∧ s.join.pair = none ∧ s.join.lockstep = none ∧
    s.join.member d = true) ∧
    (∃ (s : State) (d : DeviceId), s.up - vget s.join.beats d < ns 150000) ∧
    (∃ (s : State) (p : Pair) (c : CellId), s.join.pair = some p ∧ s.linksTo p.partner ≠ [] ∧ s.hallAbsent = false ∧ p.standby.getLsbD ↑c =
    true) ∧
    (∃ (s : State) (p : Pair) (c : CellId), s.join.pair = some p ∧ s.linksTo p.partner ≠ [] ∧ s.hallAbsent = false ∧ p.standby.getLsbD ↑c =
    true) ∧
    (∃ (s : State) (p : Pair) (c : CellId), s.join.pair = some p ∧ s.linksTo p.partner ≠ [] ∧ s.hallAbsent = false ∧ p.standby.getLsbD ↑c =
    true) ∧
    (∃ (s : State) (p : Pair) (c : CellId), s.join.pair = some p ∧ s.linksTo p.partner ≠ [] ∧ s.hallAbsent = false ∧ p.standby.getLsbD ↑c =
    true) ∧
    (∃ (s : State) (p : Pair) (c : CellId), s.join.pair = some p ∧ s.linksTo p.partner ≠ [] ∧ s.hallAbsent = false ∧ p.standby.getLsbD ↑c =
    true) ∧
    (∃ (s : State) (p : Pair) (a : BitVec 40) (bs : List Byte), s.join.pair = some p ∧ s.linksTo p.partner ≠ [] ∧ s.hallAbsent = false ∧ ∃ (off
    : ℕ), placeOf a.toNat bs.length = Place.dram off) ∧
    (∃ (s : State) (p : Pair) (c : CellId), s.join.pair = some p ∧ s.linksTo p.partner ≠ [] ∧ s.hallAbsent = false ∧ p.standby.getLsbD ↑c =
    false) :=
  ⟨⟨lit, by decide +kernel, by decide +kernel, .inl (by decide +kernel)⟩,
   ⟨lit.modJoin fun j => { j with sent := some 0 }, 0, by decide +kernel⟩,
   ⟨[], List.Pairwise.nil⟩,
   ⟨{ linkUp with valley := vset linkUp.valley 0 [⟨0, 0, []⟩] }, 0, ⟨0, 0, []⟩, [], by decide +kernel⟩,
   ⟨{ lit with valley := vset lit.valley 0 [⟨0, 0, []⟩] }, 0, ⟨0, 0, []⟩, [], by decide +kernel⟩,
   ⟨linkUp, 1, by decide +kernel⟩,
   ⟨lit, 1, by decide +kernel⟩,
   ⟨paired linkUp, 1, ⟨1, 1, false, false⟩, by decide +kernel⟩,
   ⟨lit.modJoin fun j => { j with lockstep := some ⟨1, true, 1, true, [], []⟩ }, 1, ⟨1, true, 1, true, [], []⟩, by decide +kernel⟩,
   ⟨silent (paired linkUp), 1, ⟨1, 1, false, false⟩, true, by decide +kernel⟩,
   ⟨silent (paired linkUp), 1, ⟨1, 1, false, false⟩, false, by decide +kernel⟩,
   ⟨silent linkUp, 1, by decide +kernel⟩,
   ⟨lit, 1, by decide +kernel⟩,
   ⟨paired linkUp, ⟨1, 1, false, false⟩, 0, by decide +kernel⟩,
   ⟨paired linkUp, ⟨1, 1, false, false⟩, 0, by decide +kernel⟩,
   ⟨paired linkUp, ⟨1, 1, false, false⟩, 0, by decide +kernel⟩,
   ⟨paired linkUp, ⟨1, 1, false, false⟩, 0, by decide +kernel⟩,
   ⟨paired linkUp, ⟨1, 1, false, false⟩, 0, by decide +kernel⟩,
   ⟨paired linkUp, ⟨1, 1, false, false⟩, 0x400000000, [0], by decide +kernel, by decide +kernel, by decide +kernel, 0, by decide +kernel⟩,
   ⟨paired linkUp, ⟨1, 1, false, false⟩, 1, by decide +kernel⟩⟩

theorem wit_ComparedDevicesAgree :
    (∃ (s : State) (c : CellId) (a : AirSlot) (k : ℤ), s.audited c = true ∧ s.hallAbsent = false ∧ (s.frameTiming c).absOf s.now a = k ∧
    s.reached ((s.frameTiming c).start (k + 1)) = true ∧ (∀ (r : AuditRec), (s.cell c).audits.getLast? = some r → r.slot ≠ a) ∧ (s.cell
    c).audits.length < 4096) ∧
    (∃ (s : State) (c : CellId), s.audited c = false) ∧
    (∃ (s : State) (l : Lockstep) (c : CellId) (a : AirSlot) (i : BitVec 256) (own : AuditRec), s.join.lockstep = some l ∧ List.find? (fun (x :
    AuditRec) => x.slot == a) (s.cell c).audits = some own ∧ l.cells.getLsbD ↑c = true ∧ s.hallAbsent = false ∧ own.input ≠ i) ∧
    (∃ (s : State) (l : Lockstep) (c : CellId) (a : AirSlot) (i : BitVec 256) (r : BitVec 256) (own : AuditRec), s.join.lockstep = some l ∧
    List.find? (fun (x : AuditRec) => x.slot == a) (s.cell c).audits = some own ∧ l.cells.getLsbD ↑c = true ∧ s.hallAbsent = false ∧
    own.input = i ∧ own.result = r) ∧
    (∃ (s : State) (l : Lockstep) (c : CellId) (a : AirSlot) (i : BitVec 256) (r : BitVec 256) (ds : List DigestRecord) (own : AuditRec),
    s.join.lockstep = some l ∧ List.find? (fun (x : AuditRec) => x.slot == a) (s.cell c).audits = some own ∧ l.cells.getLsbD ↑c = true ∧
    s.hallAbsent = false ∧ own.input = i ∧ own.result ≠ r ∧ comparedDiff (s.slotDigests c ((s.frameTiming c).absOf s.now a)) ds = none) ∧
    (∃ (s : State) (l : Lockstep) (c : CellId) (a : AirSlot) (i : BitVec 256) (r : BitVec 256) (ds : List DigestRecord) (own : AuditRec) (x :
    BitVec 16 × Byte × Byte), s.join.lockstep = some l ∧ List.find? (fun (x : AuditRec) => x.slot == a) (s.cell c).audits = some own ∧
    l.cells.getLsbD ↑c = true ∧ s.hallAbsent = false ∧ own.input = i ∧ own.result ≠ r ∧ comparedDiff (s.slotDigests c ((s.frameTiming
    c).absOf s.now a)) ds = some x ∧ 64 ≤ BitVec.toNat x.2.1) ∧
    (∃ (s : State) (c : CellId) (l : Lockstep), s.join.lockstep = some l ∧ l.shadow = true ∧ l.cells.getLsbD ↑c = true) ∧
    (∃ (s : State) (u : LinkId) (r : RemoteRequest) (n : StallId) (off : ℕ), (vget s.join.links u).up = true ∧ s.join.member r.device = true ∧
    vget s.join.linkMap u = BitVec.ofNat 8 ↑r.device ∧ placeOf r.offset.toNat (if r.write = true then r.bytes.length else r.length) =
    Place.stallMem n off ∧ s.domainOn ↑n = true ∧ r.write = true ∧ (s.stall n).inbound off r.bytes.length = true) ∧
    (∃ (s : State) (u : LinkId) (r : RemoteRequest) (n : StallId) (off : ℕ), (vget s.join.links u).up = true ∧ s.join.member r.device = true ∧
    vget s.join.linkMap u = BitVec.ofNat 8 ↑r.device ∧ placeOf r.offset.toNat (if r.write = true then r.bytes.length else r.length) =
    Place.stallMem n off ∧ s.domainOn ↑n = true ∧ r.write = true ∧ (s.stall n).inbound off r.bytes.length = false) ∧
    (∃ (s : State) (u : LinkId) (r : RemoteRequest) (n : StallId) (off : ℕ), (vget s.join.links u).up = true ∧ s.join.member r.device = true ∧
    vget s.join.linkMap u = BitVec.ofNat 8 ↑r.device ∧ placeOf r.offset.toNat (if r.write = true then r.bytes.length else r.length) =
    Place.stallMem n off ∧ s.domainOn ↑n = true ∧ r.write = false) ∧
    (∃ (s : State) (u : LinkId), (vget s.join.links u).downAt = none ∧ s.domainOn (79 + ↑u) = true) ∧
    (∃ (s : State) (u : LinkId), (vget s.join.links u).up = true) ∧
    (∃ (s : State) (u : LinkId) (b : Bool), (vget s.join.links u).up = true ∧ (b = true ∨ 1000 < (recent s.up (ns 1000000) (vget s.join.links
    u).replays).length)) ∧
    (∃ (s : State) (u : LinkId) (b : Bool), (vget s.join.links u).up = true ∧ b = false ∧ (recent s.up (ns 1000000) (vget s.join.links
    u).replays).length ≤ 1000) ∧
    (∃ (s : State) (u : LinkId) (i : ℤ), (vget s.join.links u).downAt = some i ∧ ns 10000000 ≤ s.up - i ∧ s.hallAbsent = false) :=
  ⟨⟨audited, 0, ⟨199, 0⟩, _, by decide +kernel, by decide +kernel, rfl, by decide +kernel, all1 (by decide +kernel), by decide +kernel⟩,
   ⟨lit, 0, by decide +kernel⟩,
   ⟨compared false, ⟨1, false, 1, false, [], []⟩, 0, ⟨0, 0⟩, 1, ⟨⟨0, 0⟩, 0, 0, 0, 0⟩, by decide +kernel⟩,
   ⟨compared false, ⟨1, false, 1, false, [], []⟩, 0, ⟨0, 0⟩, 0, 0, ⟨⟨0, 0⟩, 0, 0, 0, 0⟩, by decide +kernel⟩,
   ⟨compared false, ⟨1, false, 1, false, [], []⟩, 0, ⟨0, 0⟩, 0, 1, [], ⟨⟨0, 0⟩, 0, 0, 0, 0⟩, by decide +kernel⟩,
   ⟨compared false, ⟨1, false, 1, false, [], []⟩, 0, ⟨0, 0⟩, 0, 1, [⟨5, 0, false, 0, 0⟩], ⟨⟨0, 0⟩, 0, 0, 0, 0⟩, (5, 0xFF, 0), by decide +kernel⟩,
   ⟨compared true, 0, ⟨1, true, 1, false, [], []⟩, by decide +kernel⟩,
   ⟨linkUp, 0, ⟨1, 0, true, 0x10000000, [0], 0⟩, 0, 0, by decide +kernel⟩,
   ⟨linkUp.modStall 0 fun x => { x with inboundEnd := 0 }, 0, ⟨1, 0, true, 0x10000000, [0], 0⟩, 0, 0, by decide +kernel⟩,
   ⟨linkUp, 0, ⟨1, 0, false, 0x10000000, [], 1⟩, 0, 0, by decide +kernel⟩,
   ⟨lit, 0, by decide +kernel⟩,
   ⟨linkUp, 0, by decide +kernel⟩,
   ⟨linkUp, 0, true, by decide +kernel⟩,
   ⟨linkUp, 0, false, by decide +kernel⟩,
   ⟨linkWith fun x => { x with downAt := some (-ns 10000000) }, 0, -ns 10000000, by decide +kernel⟩⟩

theorem wit_QueuePairsRecoverLosses :
    (∃ (s : State) (q : QpId) (psn : BitVec 24) (i : ℤ), (s.qp q).live = true ∧ s.portOn (s.qp q).port = true ∧ (s.port (s.qp q).port).mode = 2
    ∧ s.departs (s.qp q).port (some Config.rocePriority) Config.roceHeader = i ∧ psn = (s.qp q).expect ∧ (s.memberOf q).isSome = true) ∧
    (∃ (s : State) (q : QpId) (psn : BitVec 24) (i : ℤ), (s.qp q).live = true ∧ s.portOn (s.qp q).port = true ∧ (s.port (s.qp q).port).mode = 2
    ∧ s.departs (s.qp q).port (some Config.rocePriority) Config.roceHeader = i ∧ psn ≠ (s.qp q).expect ∧ (psn - (s.qp q).expect).getLsbD
    23 = true) ∧
    (∃ (s : State) (q : QpId) (psn : BitVec 24) (i : ℤ), (s.qp q).live = true ∧ s.portOn (s.qp q).port = true ∧ (s.port (s.qp q).port).mode = 2
    ∧ s.departs (s.qp q).port (some Config.rocePriority) Config.roceHeader = i ∧ psn ≠ (s.qp q).expect ∧ (psn - (s.qp q).expect).getLsbD
    23 = false) ∧
    (∃ (s : State) (q : QpId) (psn : BitVec 24) (bs : List Byte) (i : ℤ) (m : MboxId), (s.qp q).live = true ∧ s.portOn (s.qp q).port = true ∧
    (s.port (s.qp q).port).mode = 2 ∧ s.departs (s.qp q).port (some Config.rocePriority) Config.roceHeader = i ∧ psn = (s.qp q).expect ∧
    s.memberOf q = none ∧ 16 ≤ bs.length ∧ bs.length ≤ 4096 ∧ bytesNat bs 6 1 = ↑m ∧ (s.mb m).transport = true ∧ BitVec.toNat (s.mb m).qp
    = ↑q ∧ s.hallAbsent = false ∧ (s.mb m).busy = false ∧ ((s.mb m).done = false ∨ BitVec.ofNat 16 (bytesNat bs 4 2) ≠ (s.mb m).lastSeq) ∧
    ({ s.mb m with req := memWrite (s.mb m).req 0 bs, seq := BitVec.ofNat 16 (bytesNat bs 4 2) } : Mailbox).headerFault m = none ∧
    s.host.order = []) ∧
    (∃ (s : State) (q : QpId) (psn : BitVec 24) (a : BitVec 64) (k : Word) (bs : List Byte) (off : ℕ) (at_ : ℕ → ℤ), (s.qp q).live = true ∧
    s.portOn (s.qp q).port = true ∧ (s.port (s.qp q).port).mode = 2 ∧ (∀ (n : ℕ), at_ n = s.departs (s.qp q).port (some
    Config.rocePriority) (Config.roceHeader + n)) ∧ psn = (s.qp q).expect ∧ s.memberOf q = none ∧ (s.qp q).opens a k bs.length = true ∧
    placeOf a.toNat bs.length = Place.dram off) ∧
    (∃ (s : State) (q : QpId) (psn : BitVec 24) (a : BitVec 64) (k : Word) (bs : List Byte) (at_ : ℕ → ℤ), (s.qp q).live = true ∧ s.portOn
    (s.qp q).port = true ∧ (s.port (s.qp q).port).mode = 2 ∧ (∀ (n : ℕ), at_ n = s.departs (s.qp q).port (some Config.rocePriority)
    (Config.roceHeader + n)) ∧ psn = (s.qp q).expect ∧ s.memberOf q = none ∧ (s.qp q).opens a k bs.length = false) ∧
    (∃ (s : State) (q : QpId) (psn : BitVec 24) (a : BitVec 64) (k : Word) (off : ℕ) (at_ : ℕ → ℤ) (n : ℕ) (e : Ecc), (s.qp q).live = true ∧
    s.portOn (s.qp q).port = true ∧ (s.port (s.qp q).port).mode = 2 ∧ (∀ (n : ℕ), at_ n = s.departs (s.qp q).port (some
    Config.rocePriority) (Config.roceHeader + n)) ∧ psn = (s.qp q).expect ∧ s.memberOf q = none ∧ (s.qp q).opens a k n = true ∧ placeOf
    a.toNat n = Place.dram off ∧ e ≠ Ecc.uncorrectable) ∧
    (∃ (s : State) (q : QpId) (psn : BitVec 24) (a : BitVec 64) (k : Word) (at_ : ℕ → ℤ) (n : ℕ), (s.qp q).live = true ∧ s.portOn (s.qp q).port
    = true ∧ (s.port (s.qp q).port).mode = 2 ∧ (∀ (n : ℕ), at_ n = s.departs (s.qp q).port (some Config.rocePriority) (Config.roceHeader +
    n)) ∧ psn = (s.qp q).expect ∧ s.memberOf q = none ∧ (s.qp q).opens a k n = false) ∧
    (∃ (s : State) (q : QpId) (psn : BitVec 24) (r : RoceReq) (i : ℤ), (s.qp q).live = true ∧ s.portOn (s.qp q).port = true ∧ (s.port (s.qp
    q).port).mode = 2 ∧ (s.qp q).sent = [r] ∧ s.departs (s.qp q).port (some Config.rocePriority) (Config.roceHeader + r.bytes.length) = i
    ∧ (psn - r.last).getLsbD 23 = false) ∧
    (∃ (s : State) (q : QpId) (psn : BitVec 24) (r : RoceReq) (i : ℤ), (s.qp q).live = true ∧ s.portOn (s.qp q).port = true ∧ (s.port (s.qp
    q).port).mode = 2 ∧ (s.qp q).sent = [r] ∧ s.departs (s.qp q).port (some Config.rocePriority) (Config.roceHeader + r.bytes.length) = i
    ∧ (psn - 1 - r.last).getLsbD 23 = true) ∧
    (∃ (s : State) (q : QpId), (s.qp q).live = true ∧ (s.qp q).sent ≠ [] ∧ ns ↑(4000 * 2 ^ (s.qp q).retryT) ≤ s.up - (s.qp q).sentAt ∧ (s.qp
    q).retries < 7) ∧
    (∃ (s : State) (q : QpId), (s.qp q).live = true ∧ (s.qp q).sent ≠ [] ∧ ns ↑(4000 * 2 ^ (s.qp q).retryT) ≤ s.up - (s.qp q).sentAt ∧ 7 ≤
    (s.qp q).retries ∧ s.memberOf q = none) ∧
    (∃ (s : State) (q : QpId) (d : DeviceId), (s.qp q).live = true ∧ (s.qp q).sent ≠ [] ∧ ns ↑(4000 * 2 ^ (s.qp q).retryT) ≤ s.up - (s.qp
    q).sentAt ∧ 7 ≤ (s.qp q).retries ∧ s.memberOf q = some d) ∧
    (∃ (s : State) (q : QpId), (s.qp q).live = true ∧ s.portOn (s.qp q).port = true ∧ (s.port (s.qp q).port).mode = 2) ∧
    (∃ (s : State) (q : QpId), (s.qp q).live = true ∧ (s.qp q).rate < 1 ∧ ns 55000 ≤ s.up - (s.qp q).rateAt) :=
  ⟨⟨memberQp (onQp id), 3, 0, _, by decide +kernel, by decide +kernel, by decide +kernel, rfl, by decide +kernel⟩,
   ⟨onQp id, 3, 0xFFFFFF, _, by decide +kernel, by decide +kernel, by decide +kernel, rfl, by decide +kernel⟩,
   ⟨onQp id, 3, 1, _, by decide +kernel, by decide +kernel, by decide +kernel, rfl, by decide +kernel⟩,
   ⟨(onQp id).modMb 0 (fun x => { x with transport := true, qp := 3 }), 3, 0, natLE 2 3 ++ natLE 2 1 ++ natLE 2 7 ++ [0, 0] ++ natLE 8 0, _, 0,
    by decide +kernel, by decide +kernel, by decide +kernel, rfl, by decide +kernel⟩,
   ⟨onQp opened, 3, 0, 0x400000000, 7, [0], 0, _, by decide +kernel, by decide +kernel, by decide +kernel, fun _ => rfl, by decide +kernel⟩,
   ⟨onQp id, 3, 0, 0x400000000, 7, [0], _, by decide +kernel, by decide +kernel, by decide +kernel, fun _ => rfl, by decide +kernel⟩,
   ⟨onQp opened, 3, 0, 0x400000000, 7, 0, _, 1, .clean, by decide +kernel, by decide +kernel, by decide +kernel, fun _ => rfl, by decide +kernel⟩,
   ⟨onQp id, 3, 0, 0x400000000, 7, _, 1, by decide +kernel, by decide +kernel, by decide +kernel, fun _ => rfl, by decide +kernel⟩,
   ⟨onQp (unacked 0), 3, 0, request, _, by decide +kernel, by decide +kernel, by decide +kernel, by decide +kernel, rfl, by decide +kernel⟩,
   ⟨onQp (unacked 0), 3, 0, request, _, by decide +kernel, by decide +kernel, by decide +kernel, by decide +kernel, rfl, by decide +kernel⟩,
   ⟨onQp (unacked 0), 3, by decide +kernel⟩,
   ⟨onQp (unacked 7), 3, by decide +kernel⟩,
   ⟨memberQp (onQp (unacked 7)), 3, 1, by decide +kernel⟩,
   ⟨onQp id, 3, by decide +kernel⟩,
   ⟨onQp fun x => { x with rate := 1 / 2, rateAt := -ns 55000 }, 3, by decide +kernel⟩⟩

theorem wit_RegistersAndCountersFollowTheirAccesses :
    (∃ (s : State) (a : Word) (x : RegSite) (c : CtrSite), regSite (BitVec.toNat a / 4 * 4) = some x ∧ ctrAt x = some c ∧ s.host.held.getLsbD
    c.block = false ∧ c.block ≠ 8) ∧
    (∃ (s : State) (a : Word) (x : RegSite) (c : CtrSite), regSite (BitVec.toNat a / 4 * 4) = some x ∧ ctrAt x = some c ∧ (s.host.held.getLsbD
    c.block = true ∨ c.block = 8)) ∧
    (∃ (a : Word), regSite (BitVec.toNat a / 4 * 4) = none) ∧
    (∃ (a : Word), regSite (BitVec.toNat a / 4 * 4) = some (RegSite.global 16388)) ∧
    (∃ (a : Word), regSite (BitVec.toNat a / 4 * 4) = some (RegSite.usb 8)) ∧
    (∃ (a : Word) (w : Window), regSite (BitVec.toNat a / 4 * 4) = some (RegSite.stalls w 1544)) ∧
    (∃ (a : Word) (o : ℕ), regSite (BitVec.toNat a / 4 * 4) = some (RegSite.weigh o)) ∧
    (∃ (a : Word) (o : RegSite) (c : CtrSite), regSite (BitVec.toNat a / 4 * 4) = some o ∧ ctrAt o = some c) :=
  ⟨⟨lit, 0x01000200, .stalls (.stall 0) 0x200, .stall 0 .mxCmdCount, by decide +kernel⟩,
   ⟨lit, 0x02000024, .weigh 0x24, .dev .whHallResets, by decide +kernel⟩,
   ⟨0x02500000, by decide +kernel⟩,
   ⟨0x4004, by decide +kernel⟩,
   ⟨0x02200008, by decide +kernel⟩,
   ⟨0x01000608, .stall 0, by decide +kernel⟩,
   ⟨0x02000000, 0, by decide +kernel⟩,
   ⟨0x02000024, .weigh 0x24, .dev .whHallResets, by decide +kernel⟩⟩

theorem wit_UsbServesRegistersRequestsAndEvents :
    (∃ (s : State) (addr : Word) (k : BitVec 16), s.endpoint2 = true ∧ BitVec.toNat addr % 4 = 0 ∧ 1 ≤ k.toNat ∧ k.toNat ≤ 1016) ∧
    (∃ (s : State) (addr : Word), s.endpoint2 = true ∧ BitVec.toNat addr % 4 = 0) ∧
    (∃ (s : State) (addr : Word) (k : BitVec 16) (bs : List Byte), s.endpoint2 = true ∧ BitVec.toNat addr % 4 = 0 ∧ 1 ≤ k.toNat ∧ k.toNat ≤
    1016 ∧ bs.length = 4 * k.toNat) ∧
    (∃ (s : State) (tag : BitVec 16) (addr : Word) (k : BitVec 16) (bs : List Byte) (late : List ℕ) (c : Instr), s.endpoint2 = true ∧ ((c =
    Instr.read tag addr k bs late ∨ c = Instr.readSame tag addr k bs late) ∧ (BitVec.toNat addr % 4 ≠ 0 ∨ k = 0 ∨ 1016 < k.toNat ∨ bs ≠
    []) ∨ (c = Instr.write tag addr k bs ∨ c = Instr.writeSame tag addr k bs) ∧ (BitVec.toNat addr % 4 ≠ 0 ∨ k = 0 ∨ 1016 < k.toNat ∨
    bs.length ≠ 4 * k.toNat))) ∧
    (∃ (s : State) (i : BitVec 16) (n : BitVec 16) (a : Byte) (b : Byte) (v : BitVec 16), s.host.usbAttached = true ∧ (a ≠ 64 ∨ b ≠ 1 ∨ v ≠
    1600 ∨ i ≠ 0 ∨ n ≠ 0)) ∧
    (∃ (s : State), s.host.usbSpeed = 2) ∧
    (∃ (s : State), s.host.usbSpeed ≠ 2) ∧
    (∃ (s : State), s.endpoint2 = true ∧ s.host.endpoint3 ≠ []) ∧
    (∃ (s : State), s.host.evtRefused ≠ 0 ∧ s.host.evtUp = true ∧ s.host.evtRefusedUs + 2 ≤ usOf s.now ∧ (s.host.evtUs = usOf s.now →
    s.host.evtCount < 8) ∧ (s.fab.trained = true ∨ s.host.ring.length < 64) ∧ 1 ≤ s.host.ringSize) ∧
    (∃ (s : State), s.host.evtRefused ≠ 0 ∧ s.host.evtUp = true ∧ usOf s.now < s.host.evtRefusedUs + 2) :=
  ⟨⟨lit, 0, 1, by decide +kernel⟩,
   ⟨lit, 0, by decide +kernel⟩,
   ⟨lit, 0, 1, [0, 0, 0, 0], by decide +kernel⟩,
   ⟨lit, 0, 1, 1, [], [], .read 0 1 1 [] [], by decide +kernel, .inl ⟨.inl rfl, .inl (by decide +kernel)⟩⟩,
   ⟨lit, 0, 0, 0, 0, 0, by decide +kernel⟩,
   ⟨lit, by decide +kernel⟩,
   ⟨State.reset, by decide +kernel⟩,
   ⟨{ lit with host := { lit.host with endpoint3 := [⟨0, 0, 0, 0, []⟩] } }, by decide +kernel⟩,
   ⟨{ lit with host := { lit.host with evtRefused := 1 } }, by decide +kernel⟩,
   ⟨{ lit with host := { lit.host with evtRefused := 1, evtRefusedUs := usOf lit.now } }, by decide +kernel⟩⟩

theorem wit_TapInstructionsDriveOnlyWithoutPower :
    (∃ (s : State) (c : Instr) (k : Byte), (c, k) ∈ [(Instr.extest, 3#8), (Instr.extestPulse, 4#8), (Instr.extestTrain, 5#8), (Instr.clamp,
    6#8), (Instr.highz, 7#8)] ∧ s.pins.pwrGood = true) ∧
    (∃ (s : State) (c : Instr) (k : Byte), (c, k) ∈ [(Instr.extest, 3#8), (Instr.extestPulse, 4#8), (Instr.extestTrain, 5#8), (Instr.clamp,
    6#8), (Instr.highz, 7#8)] ∧ s.pins.pwrGood = false) :=
  ⟨⟨lit, .extest, 3, .head _, by decide +kernel⟩,
   ⟨State.reset, .extest, 3, .head _, by decide +kernel⟩⟩

/-! ### Ill-formed commands, one for each check of WellFormed -/

def badTx : HarqTx := ⟨0, 1, false, 2, 4, 0, [(1, 0), (1, 0)]⟩

def okTx : SchTx := ⟨1000, 2400, 900, 2, 1, 0, false, 0, 0⟩

def okUci : UciWord := ⟨3, 4, 1, 0, 0, 2, none, 0, 0, 0, 0⟩

/-- The completion of a matrix command with one result. -/
def gives (x : BlockResult) : Instr := .commandCompletion 0 .matrix 0 0 0 [x]

def frameOf (u : List USection) (symbol : Nat) : UplaneFrame := ⟨true, true, 0, 64, 0, 0, false, 1, 0, 0, 0, symbol, u⟩

theorem test_soft_values_rise : wellFormed (.mirrorReceive (.harqPage 0 0 0 0 0 ⟨0, 0⟩ badTx)) = false ∧
    wellFormed (.mirrorReceive (.harqPage 0 0 0 0 0 ⟨0, 0⟩ { badTx with llrs := [(0, 0), (1, 0)] })) = true := by decide

theorem test_transport_blocks : (∀ t ∈ [{ okTx with tbs := 0 }, { okTx with tbs := 1001 }, { okTx with qBits := 3 }, { okTx with layers := 0 },
      { okTx with layers := 9 }, { okTx with rate := 2048 }],
    wellFormed (.planRelease 0 [⟨1, 0, 0, 0, some t⟩] []) = false ∧ wellFormed (.planRelease 0 [] [⟨0, 0, 0, some t⟩]) = false) ∧
    wellFormed (.planRelease 0 [⟨1, 0, 0, 0, some okTx⟩] [⟨0, 0, 0, some okTx⟩]) = true := by decide

theorem test_report_fields : (∀ w ∈ [{ okUci with ack := 1707 }, { okUci with csi1 := 1000, csi2 := 706 }, { okUci with format := 5 }],
    wellFormed (gives (.uci ⟨0, ⟨0, 0⟩, 0, 0⟩ none w)) = false) ∧ wellFormed (gives (.uci ⟨0, ⟨0, 0⟩, 0, 0⟩ none okUci)) = true ∧
    (∀ p ∈ [List.replicate 65 ⟨0, 0, 0, 0⟩, [(⟨0, 3847, 0, 0⟩ : PrachPeak)]],
      wellFormed (gives (.prach ⟨0, ⟨0, 0⟩, 0, 0⟩ ⟨0, 0, p⟩)) = false) ∧
    (∀ r ∈ [(⟨3, 2, 0, 4, 4, 0, 0, [0]⟩ : SrsReport), ⟨1, 3, 0, 4, 4, 0, 0, [0]⟩, ⟨1, 2, 0, 4, 3, 0, 0, [0]⟩, ⟨1, 2, 0, 5, 4, 0, 0, [0]⟩],
      wellFormed (gives (.srs ⟨0, ⟨0, 0⟩, 0, 0⟩ r)) = false) ∧
    wellFormed (gives (.srs ⟨0, ⟨0, 0⟩, 0, 0⟩ ⟨1, 2, 0, 4, 4, 0, 0, [0]⟩)) = true := by decide

theorem test_loop_bounds : wellFormed (.seqLoop 0 0 1) = false ∧ wellFormed (.seqLoop 0 257 1) = false ∧
    wellFormed (.seqLoop 0 1 65536) = false ∧ wellFormed (.seqLoopx 0 257 0) = false ∧ wellFormed (.seqLoop 0 256 65535) = true := by
  decide

theorem test_shift_bounds : wellFormed (.seqAsh 0 0 64) = false ∧ wellFormed (.seqAsh 0 0 (-64)) = false ∧
    wellFormed (.seqSta 0 0 48 (.post 0 0)) = false ∧ wellFormed (.seqSta2 0 0 48 (.post 0 0)) = false ∧
    wellFormed (.seqSta4 0 48 (.post 0 0)) = false ∧ wellFormed (.seqSta 0 0 47 (.post 0 0)) = true := by decide

theorem test_history_request_length : (∀ c ∈ [Instr.fetch, .append, .attach, .detach, .clone, .prefixWrite, .migrate],
    wellFormed (c (.posted 0 (List.replicate 31 0))) = false ∧ wellFormed (c (.posted 0 (List.replicate 32 0))) = true) := by decide

theorem test_uplane_fields : wellFormed (.uplaneReceive 0 (frameOf [] 64)) = false ∧
    wellFormed (.uplaneReceive 0 (frameOf [⟨0, 0, 9, true, [⟨0, List.replicate 24 0⟩]⟩] 0)) = false ∧
    wellFormed (.uplaneReceive 0 (frameOf [⟨0, 1, 17, true, []⟩] 0)) = false ∧
    wellFormed (.uplaneReceive 0 (frameOf [⟨0, 1, 9, true, [⟨16, List.replicate 24 0⟩]⟩] 0)) = false ∧
    wellFormed (.uplaneReceive 0 (frameOf [⟨0, 1, 9, true, [⟨0, List.replicate 23 0⟩]⟩] 0)) = false ∧
    wellFormed (.uplaneReceive 0 (frameOf [⟨0, 1, 9, true, [⟨0, List.replicate 24 0⟩]⟩] 0)) = true := by decide

theorem test_grant_bounds : wellFormed (.cplaneLaunch 0 ⟨0, 0⟩ [⟨false, 0, 273, 1, 0, 1⟩] [] 0) = false ∧
    wellFormed (.cplaneLaunch 0 ⟨0, 0⟩ [⟨false, 0, 0, 1, 13, 2⟩] [] 0) = false ∧
    wellFormed (.cplaneLaunch 0 ⟨0, 0⟩ [⟨false, 0, 0, 273, 0, 14⟩] [] 0) = true := by decide

theorem test_remote_data : wellFormed (.valleyRemoteRequest 0 ⟨1, 0, true, 0, [0], 2⟩) = false ∧
    wellFormed (.valleyRemoteRequest 0 ⟨1, 0, false, 0, [0], 1⟩) = false := by decide

theorem test_sample_counts : wellFormed (.thermalSample (List.replicate 63 0) (List.replicate 16 0)) = false ∧
    wellFormed (.thermalSample (List.replicate 64 0) (List.replicate 15 0)) = false ∧ wellFormed (.pfcPauseReceive 0 0 65536) = false := by
  decide

theorem test_whole_words : wellFormed (.write 0 0 1 [0, 0, 0]) = false ∧ wellFormed (.writeSame 0 0 1 [0]) = false := by decide

theorem test_cost_shapes : (∀ x ∈ [CostShape.uplink 0 0 1 1 1 1 (.ldpc true 2 0), .uplink 0 11 1 1 1 1 (.ldpc true 2 0),
      .uplink 0 1 0 1 1 1 (.ldpc true 2 0), .uplink 0 1 5 1 1 1 (.ldpc true 2 0), .uplink 0 1 1 1 1 1 (.ldpc true 1 0),
      .uplink 0 1 1 1 1 1 (.ldpc true 17 0), .uplink 0 1 1 1 1 1 (.ldpc true 385 0), .uplink 0 1 1 1 1 1 (.polar 0 0 0),
      .uplink 0 1 1 1 1 1 (.polar 1025 0 0), .downlink 1 0, .downlink 1 9],
    wellFormed (.verdictTimeout { blk with shape := x }) = false ∧ wellFormed (.plausibilityVerdict { blk with shape := x } (.precoded [])) = false ∧
      wellFormed (.itemBudgetExpiry 0 .vector 0 ⟨0, 0⟩ [{ blk with shape := x }]) = false) ∧
    wellFormed (.verdictTimeout { blk with shape := .downlink 1 8 }) = true ∧ liftingSizes.length = 51 := by decide +kernel

/-! ### Results that the spec works out -/

/-- Chapter 00: −2.5 is −3 under RNA and −2 under RHU; +2.5 is 3 under both. -/
theorem test_rounding : rnaShift (-5) 1 = -3 ∧ rhuShift (-5) 1 = -2 ∧ rnaShift 5 1 = 3 ∧ rhuShift 5 1 = 3 := by decide

/-- Chapter 02, example of R57: the accumulator saturates at the third product and ends at 40007FFFh, and drains as 4000h. -/
theorem test_mac_saturates :
    let d : MxDesc := { mxOf (List.replicate 64 0) with fa := fmtInt16, fb := fmtInt16, fc := fmtInt16, oshift := 16 }
    let acc := [(32767, 32767), (32767, 32767), (32767, 32767), (-32768, 32767)].foldl
      (fun (a : Acc) p => match a with | .int v s => intStep d v s p.1 p.2 | x => x) (.int 0 false)
    acc = .int 0x40007FFF true ∧ mxDrain [] d false 0 acc = (0x4000, true) := by decide +kernel

/-- Chapter 02, example of R73: 306 ac under WS and 352 ac under OS. -/
theorem test_formula_time :
    let t (stationary : Nat) := (mxRow 0 0 0).map fun w =>
      mxFormulaTime { mxOf (List.replicate 64 0) with m := 40, n := 48, k := 64, fc := 0, stationary := stationary } w [40]
    t 0 = some 306 ∧ t 2 = some 352 := by decide +kernel

/-- Chapter 03, examples of R95: 5 000 becomes 34h; −5 under MULT 1 and SHIFT 1 becomes −3. -/
theorem test_requant : requant (natLE 4 1518500250 ++ [37, 0xFD, 0, 0]) 5000 = 52 ∧ requant (natLE 4 1 ++ [1, 0, 0, 0]) (-5) = -3 := by
  decide

/-- Chapter 03, example of R90: block scales AFh and B8h, and their codes. -/
theorem test_bs4_blocks : qbsBlock 7 0x3E000000 [0x40480000, 0xBF800000] = (0xAF, [7, -2], false) ∧
    qbsBlock 7 0x3E000000 [0x40E00000, 0xC0C00000, 0x40A00000, 0] = (0xB8, [7, -6, 5, 0], false) := by decide +kernel

/-- Chapter 03, example of R91: a constant channel has scale 1 and its value as offset, and code 0. -/
theorem test_channel_scale : qparamOf false 0x40700000 0x40700000 = (0x3F800000, 0x40700000) ∧
    qapplyOf false 0x3F800000 0x40700000 0x40700000 = some 0 ∧
    (let p := qparamOf false 0xBF800000 0x3FC66666
     qapplyOf false p.1 p.2 0xBF800000 = some (-128) ∧ qapplyOf false p.1 p.2 0x3FC66666 = some 127) := by decide +kernel

/-- The functions of a stall with the standard tables. -/
def stdFn : FnTable := { Stall.reset with sfStd := Vector.replicate 2 true }.fnTable false

/-- Chapter 04, examples of R121 and R122: rsqrt(2⁻²⁰) = 2¹⁰, exp(+0) = 1 and rcp(1) = 1, exactly. -/
theorem test_exact_functions : fnEval stdFn 1 0x35800000 = 0x44800000 ∧ fnEval stdFn 2 0 = 0x3F800000 ∧
    fnEval stdFn 0 0x3F800000 = 0x3F800000 := by decide +kernel

/-- Chapter 05, example of R144: the products of CMPY with CONJ, and their rounded stores. -/
theorem test_ls_estimate :
    let x := { SeqRegs.clear with s := ⟨#[0x400000, 0xE00000], rfl⟩, t := ⟨#[0x5A827A, 0x5A827A], rfl⟩ }
    let p := x.products { seqMulOf 0 with cls := 5, op := 2, conj := true }
    p = (12439554883584, -37318664650752) ∧ (mulAcc 2 0 p.2).1 = 0xFFDE0F12400000 ∧
      int24Word (sat24 (rhuShift p.1 23)).1 = 0x0016A09F ∧ int24Word (sat24 (rhuShift p.2 23)).1 = 0xFFBC1E25 := by decide +kernel

/-- Chapter 06, Table 06-4 and the examples of R175 and R186: costs of iterations, of a polar block and of a recomputation. -/
theorem test_classical_costs :
    [(true, 384, 4), (true, 384, 10), (true, 384, 22), (true, 384, 46), (true, 192, 4), (false, 384, 4), (false, 384, 42), (false, 64, 12),
      (false, 16, 20)].map (fun (x : Bool × Nat × Nat) => iterAc x.1 x.2.1 x.2.2) = [660, 1020, 1740, 3180, 330, 360, 2184, 124, 94] ∧
    decodeTermAc (.polar 1024 1000 0) 12 = 9280 ∧ shapeAc (.uplink 9216 4 2 8 13 1 (.ldpc true 384 9215)) 32 16 12 = 187348 := by
  decide +kernel

/-- Chapter 06, example of R180: soft values combine with saturation; a byte 80h reads as −127 (R161). -/
theorem test_llr_sums : llrAdd 100 45 = 127 ∧ llrAdd 0xEC 31 = 11 ∧ llrAdd 0x80 10 = 0x8B := by decide

/-- Chapter 06, example of R171: the book entry and the messages of a check of degree 4. -/
theorem test_check_messages : bookEntry true 2 7 0 = 0x18C0 ∧ bookEntry true 2 7 3 + 2 = 0x18C8 ∧
    checkMessages [12, -5, 30, -9] [-2, -1, -3, -2] = [3, -8, 2, -3] := by decide +kernel

/-- Chapter 13, example of R380: stochastic rounding of 3F80_C000h under two draws. -/
theorem test_stochastic_rounding : ssrBf16 0x4000 0x3F80C000 = 0x3F81 ∧ ssrBf16 0xD000 0x3F80C000 = 0x3F80 := by decide

/-- Chapter 07, Table 07-8: which context positions of the example fetch are valid, and where entry 18 lies. -/
theorem test_fetch_context :
    let g : HistGeo := ⟨16, 8, 16, 24, 64, 20480⟩
    let stamps := [20478, 20479, 4, 20440, 20446, 20455, 20460, 20462, 20463, 20465, 20467, 20469, 20471, 20473, 20475, 20477]
    let plan := fetchPlan g ⟨true, 0, 0, 19, 0, stamps ++ List.replicate 48 noStamp, []⟩ 0xFFFF 1 4
    plan.map (·.1) = List.replicate 16 true ++ List.replicate 3 false ++ List.replicate 12 true ++ [false] ∧
      (plan.getD 31 (true, (9, 9), (9, 9))).2.1 = (0, 1024) ∧ g.ctx = 32 := by decide +kernel

/-- Chapter 09, Table 09-3: a command of 2 000 ac costs share 200 a virtual 2 550, and share 50 a virtual 10 200. -/
theorem test_virtual_time :
    (((lit.modQueue 4 fun x => { x with cfg := 200 }).charge 4 false 2000).queue 4).vt = 2550 ∧
    (((lit.modQueue 5 fun x => { x with cfg := 50 }).charge 5 false 2000).queue 5).vt = 10200 := by decide +kernel

/-- Chapter 10, example of R293: the shift is 5, and the stored components are 9Ch, 20h and 20h. -/
theorem test_crate_shift : crateShift [-3200, 1008, 1020] = some 5 ∧ [-3200, 1008, 1020].map (crateByte 5 0) = [0x9C, 0x20, 0x20] := by
  decide

/-- Chapter 10, example of R303: exponent 3, and the first packed bytes. -/
theorem test_compression :
    let b := compress 9 ([1022, -1022, 5] ++ List.replicate 21 0)
    b.length = 28 ∧ b.take 4 = [3, 0x40, 0x60, 0] ∧ (b.getD 4 0).toNat / 32 = 1 := by decide +kernel

/-- Chapter 11, example of R315: the time and its registers. -/
theorem test_time_now :
    let t := { TimeBase.reset with anchorC := 1000, anchorT := ns (1700000000 * 1000000000 + 999999990), rate := 2199, cnt := 5000001000 }
    t.ptp = ns (1700000011 * 1000000000 + 9) + 0xFFF2 := by decide

/-- Chapter 15, example of R443: offset 0830h of the power block reaches PWR_MISMATCH_COUNT. -/
theorem test_power_alias : regSite 0x01F00830 = regSite 0x01F00030 ∧ regSite 0x01F00030 = some (.power 0x30) := by decide

end Sys2Proof.Tests
end

/-! Register accesses, counters and snapshots (R5, R8, R441-R445), and what a cold reset leaves (R7). -/
section
namespace Sys2Proof.Safety
open Sys2Proof.Machine

/-! ### Vectors and lookup tables -/

@[simp] theorem vset_vget {α : Type} {n : Nat} (v : Vector α n) (i : Fin n) : vset v i (vget v i) = v := by
  simp [vset, vget]

theorem vget_vmod_ite {α : Type} {n : Nat} (v : Vector α n) (i j : Fin n) (f : α → α) :
    vget (vmod v i f) j = if j = i then f (vget v j) else vget v j := by
  rw [vget_vmod]
  by_cases h : i = j
  · subst h; simp
  · simp [h, Ne.symm h]

/-- What holds of every row of a lookup table holds of the row that a lookup finds. -/
theorem lookup_forall {α β : Type} [BEq α] [LawfulBEq α] {P : α → β → Prop} {l : List (α × β)} (hl : ∀ p ∈ l, P p.1 p.2) {a : α} {b : β}
    (h : l.lookup a = some b) : P a b := by
  obtain ⟨l₁, l₂, rfl, -⟩ := List.lookup_eq_some_iff.mp h
  exact hl (a, b) (by simp)

/-! ### Updates of one part -/

theorem setHost_only (s : State) (h : HostIf) : OnlyChanges [.host] s { s with host := h } :=
  ⟨rfl, fun p hp => by cases p <;> simp_all [Part.same]⟩

theorem setQm_only (s : State) (q : QueueManager) : OnlyChanges [.qm] s { s with qm := q } :=
  ⟨rfl, fun p hp => by cases p <;> simp_all [Part.same]⟩

/-! ### Windows -/

theorem modStall_eq_self {s : State} {n : StallId} {f : Stall → Stall} (h : f (s.stall n) = s.stall n) : s.modStall n f = s := by
  have : vmod s.stalls n f = s.stalls := by
    unfold vmod; rw [show f (vget s.stalls n) = vget s.stalls n from h, vset_vget]
  simp [State.modStall, this]

theorem window_stalls_nodup (w : Window) : (Window.stalls w).Nodup := by
  cases w with
  | stall n => exact List.nodup_singleton n
  | group g => exact List.Nodup.filter _ (List.nodup_finRange 64)
  | all => exact List.nodup_finRange 64

/-- One update at each stall of a list without repetitions. -/
theorem stall_foldl_modStall (f : Stall → Stall) {l : List StallId} (hl : l.Nodup) (s : State) (n : StallId) :
    (l.foldl (fun s n => s.modStall n f) s).stall n = if n ∈ l then f (s.stall n) else s.stall n := by
  induction l generalizing s with
  | nil => simp
  | cons m l ih =>
    obtain ⟨hm, hl⟩ := List.nodup_cons.mp hl
    rw [List.foldl_cons, ih hl]
    by_cases h : n = m
    · subst h; simp [hm]
    · simp [h, Ne.symm h]

theorem stall_overWindow_modStall (s : State) (w : Window) (f : Stall → Stall) (n : StallId) :
    (s.overWindow w fun s n => s.modStall n f).stall n =
      if n ∈ Window.stalls w ∧ s.domainOn n.val = true then f (s.stall n) else s.stall n := by
  simp [State.overWindow, stall_foldl_modStall f ((window_stalls_nodup w).filter _)]

theorem overWindow_only {ps : List Part} (s : State) (w : Window) (f : State → StallId → State)
    (hf : ∀ s n, OnlyChanges ps s (f s n)) : OnlyChanges ps s (s.overWindow w f) :=
  onlyChanges_foldl f hf _ s

theorem overWindow_eq_self (s : State) (w : Window) (f : State → StallId → State) (hf : ∀ n, f s n = s) : s.overWindow w f = s := by
  unfold State.overWindow
  induction (Window.stalls w).filter _ with
  | nil => rfl
  | cons m l ih => rw [List.foldl_cons, hf, ih]

/-! ### Counters -/

/-- The device counters in the order of their positions. -/
def devCtrs : List DevCtr :=
  [.qmPreempt, .qmRemoteAbort, .qmResMiss, .qmFaultRequeue, .qmRingFull, .qmResvConflict, .qmNotAdmitted, .tdcUnord, .tdcBudget, .tdcSched,
    .plainFwViol, .passStray, .passLate, .dramCe, .dramUe, .ethRxFcs 0, .ethRxFcs 1, .ethRxFcs 2, .ethRxFcs 3, .ethRxMalformed 0,
    .ethRxMalformed 1, .ethRxMalformed 2, .ethRxMalformed 3, .tbStepDenied, .pinConflict, .tbPlanRefused, .tbPlanReplaced, .tbCapOverrun,
    .hcLabHit, .hcLabMiss, .hcCow, .hcAppendWait, .hcAppendReplace, .hcStale, .hcNoSpace, .hcEmptyContext, .hcPostDrop, .pwrMismatch,
    .whHallResets, .whGoldenFail, .evtDropped, .evtUsbDrop, .regUnmapped, .vlReplay 0, .vlReplay 1, .vlReplay 2, .lsMismatch, .lsInputDiff,
    .lsTdcOnly, .secVerifyFail, .pwrDroop, .pwrAvsErr]

theorem devCtrs_idx (c : DevCtr) : devCtrs[c.idx.val]? = some c := by
  cases c with
  | ethRxFcs p => revert p; decide
  | ethRxMalformed p => revert p; decide
  | vlReplay l => revert l; decide
  | _ => rfl

/-- Two device counters never share a position. -/
theorem devCtr_idx_injective : Function.Injective DevCtr.idx := fun c d h => by
  have hc := devCtrs_idx c
  rw [h, devCtrs_idx d] at hc
  exact (Option.some.inj hc).symm

theorem stallCtr_ofNat_idx (c : StallCtr) : StallCtr.ofNat c.idx.val = c := by cases c <;> rfl

/-- Two counters of a stall never share a position. -/
theorem stallCtr_idx_injective : Function.Injective StallCtr.idx := fun c d h => by
  rw [← stallCtr_ofNat_idx c, h, stallCtr_ofNat_idx d]

/-- Every device counter lies in a block that SNAP_CMD can select (Table 15-17). -/
theorem devBlock_lt (i : Fin 52) : devBlock i < 11 := by revert i; decide

/-! #### Reading and clearing them (R8, R371, R445) -/

@[simp] theorem modStall_domainOn (s : State) (n : StallId) (f : Stall → Stall) (d : Nat) : (s.modStall n f).domainOn d = s.domainOn d := rfl

theorem ctr_modCtr_same (s : State) {f : Ctr → Ctr} (hf : f Ctr.zero = Ctr.zero) (c : CtrSite) : (s.modCtr f c).ctr c = f (s.ctr c) := by
  cases c with
  | dev c => simp [State.modCtr, State.ctr, State.devCtr]
  | stall n c => by_cases h : s.domainOn n.val = true <;> simp [State.modCtr, State.ctr, h, hf]

theorem ctr_modCtr_ne (s : State) (f : Ctr → Ctr) {c d : CtrSite} (h : d ≠ c) : (s.modCtr f c).ctr d = s.ctr d := by
  cases c with
  | dev c =>
    cases d with
    | dev d =>
      have : c.idx ≠ d.idx := fun e => h (congrArg _ (devCtr_idx_injective e).symm)
      simp [State.modCtr, State.ctr, State.devCtr, this]
    | stall m d => rfl
  | stall n c =>
    by_cases hon : s.domainOn n.val = true
    · cases d with
      | dev d => simp [State.modCtr, State.ctr, State.devCtr, hon]
      | stall m d =>
        by_cases hm : n = m
        · subst hm
          have : c.idx ≠ d.idx := fun e => h (congrArg _ (stallCtr_idx_injective e).symm)
          simp [State.modCtr, State.ctr, hon, this]
        · simp [State.modCtr, State.ctr, hon, hm]
    · simp [State.modCtr, hon]

theorem modCtr_only (s : State) (f : Ctr → Ctr) (c : CtrSite) : OnlyChanges [.dev, .stalls] s (s.modCtr f c) := by
  cases c with
  | dev c => exact ⟨rfl, fun p hp => by cases p <;> simp_all [Part.same, State.modCtr]⟩
  | stall n c =>
    by_cases h : s.domainOn n.val = true
    · simpa [State.modCtr, h] using onlyChanges_mono (modStall_only s n _) (by simp)
    · simpa [State.modCtr, h] using onlyChanges_refl _ s

/-- A read at a counter's address returns the counter as the reader has it, and clears it as such a read does. -/
theorem regRead_ctr {a : Nat} {x : RegSite} {c : CtrSite} (hx : regSite (a / 4 * 4) = some x) (hc : ctrAt x = some c) (s : State)
    (g : Agent) (b : Bool) : s.regRead g a b = (s.ctrRead g c, s.ctrReadClear g c) := by
  unfold State.regRead
  rw [hx]
  split
  case h_1 h => cases h
  case h_2 h => cases h; cases hc
  case h_3 h => cases h; cases hc
  case h_4 h => cases h; simp [hc]

theorem counterReadClearEffect_ctr {a : Word} {x : RegSite} {c : CtrSite} (hx : regSite (a.toNat / 4 * 4) = some x)
    (hc : ctrAt x = some c) (s : State) (g : Agent) : counterReadClearEffect g a s = s.ctrReadClear g c := by
  simp [counterReadClearEffect, hx, hc]

/-! #### A write at a counter's address changes nothing -/

theorem stall_writeReg_ctr {o : Nat} {c : StallCtr} (h : stallCtrAt o = some c) (x : Stall) (v : Word) (now : Int) :
    x.writeReg o v now = x := by
  refine lookup_forall (P := fun o _ => x.writeReg o v now = x) ?_ h
  simp only [List.forall_mem_cons, List.not_mem_nil, false_imp_iff, implies_true, and_true]
  and_intros <;> rfl

theorem regWriteAt_devCtr {y : RegSite} {c : DevCtr} (h : devCtrAt y = some c) (s : State) (g : Agent) (v : Word) :
    s.regWriteAt g v y = s := by
  cases y with
  | stalls | ingest | egress | mbox => cases h
  | weigh | sec | valley => rfl
  | eth p o =>
    by_cases h0 : o = 0x10
    · subst h0; rfl
    · by_cases h4 : o = 0x14
      · subst h4; rfl
      · simp [devCtrAt, h0, h4] at h
  | global o | plain o | dram o | time o | hist o | power o | usb o =>
    refine lookup_forall (P := fun o _ => s.regWriteAt g v ((_ : Nat → RegSite) o) = s) ?_ h
    simp only [List.forall_mem_cons, List.not_mem_nil, false_imp_iff, implies_true, and_true]
    and_intros <;> rfl

/-- Counters are read-only (R8): a write that reaches one changes nothing. -/
theorem regWriteAt_ctr {x : RegSite} {c : CtrSite} (h : ctrAt x = some c) (s : State) (g : Agent) (v : Word) : s.regWriteAt g v x = s := by
  have ofDev {y : RegSite} {c : CtrSite} (h : (devCtrAt y).map CtrSite.dev = some c) : s.regWriteAt g v y = s := by
    obtain ⟨d, hd, -⟩ := Option.map_eq_some_iff.mp h
    exact regWriteAt_devCtr hd s g v
  cases x with
  | stalls w o =>
    refine overWindow_eq_self s w _ fun n => modStall_eq_self ?_
    simp only [ctrAt] at h
    split at h
    · obtain ⟨d, hd, -⟩ := Option.map_eq_some_iff.mp h
      exact stall_writeReg_ctr hd _ _ _
    · cases h
  | _ => exact ofDev h

/-! ### Snapshots (R445; Hall's holding registers and the queue accounts: log entry 21) -/

/-- The host interface once the agent holds the blocks that v selects. -/
def holdBlocks (h : HostIf) (v : Word) : Agent → HostIf
  | .host => { h with held := h.held ||| v.setWidth 11 }
  | .hall => { h with hallHeld := h.hallHeld ||| v.setWidth 11 }

theorem snapshot_eq (s : State) (g : Agent) (v : Word) : s.snapshot g v = { s with
    dev := vgen 52 fun i =>
      if wbit v (devBlock i) then (vget s.dev i).snap g (wbit v 31 && devBlock i != 8) else vget s.dev i
    stalls := if wbit v 1 then vmap (fun x => { x with ctr := vmap (Ctr.snap g (wbit v 31)) x.ctr }) s.stalls else s.stalls
    qm := if wbit v 0 then { s.qm with queues := vmap (Queue.snap g (wbit v 31)) s.qm.queues } else s.qm
    host := holdBlocks s.host v g } := by
  cases g <;> by_cases h1 : wbit v 1 = true <;> by_cases h0 : wbit v 0 = true <;>
    simp [State.snapshot, holdBlocks, devBlock_lt, h1, h0]

theorem devCtr_snapshot (s : State) (g : Agent) (v : Word) (c : DevCtr) : (s.snapshot g v).devCtr c =
    if wbit v (devBlock c.idx) then (s.devCtr c).snap g (wbit v 31 && devBlock c.idx != 8) else s.devCtr c := by
  simp [snapshot_eq, State.devCtr]

theorem stall_snapshot (s : State) (g : Agent) (v : Word) (n : StallId) : (s.snapshot g v).stall n =
    if wbit v 1 then { s.stall n with ctr := vmap (Ctr.snap g (wbit v 31)) (s.stall n).ctr } else s.stall n := by
  rw [snapshot_eq]; unfold State.stall; split <;> simp

theorem queue_snapshot (s : State) (g : Agent) (v : Word) (q : QueueId) :
    (s.snapshot g v).queue q = if wbit v 0 then (s.queue q).snap g (wbit v 31) else s.queue q := by
  rw [snapshot_eq]; unfold State.queue; by_cases h : wbit v 0 = true <;> simp [h]

theorem snapshot_host (s : State) (g : Agent) (v : Word) : (s.snapshot g v).host = holdBlocks s.host v g := by rw [snapshot_eq]

theorem snapshot_only (s : State) (g : Agent) (v : Word) : OnlyChanges [.dev, .stalls, .qm, .host] s (s.snapshot g v) := by
  rw [snapshot_eq]; exact ⟨rfl, fun p hp => by cases p <;> simp_all [Part.same]⟩

/-- The mask of COUNTER_SNAPSHOT drops RELEASE (bit 30) alone. -/
theorem wbit_withoutRelease (v : Word) {i : Nat} (h : i ≠ 30) : wbit (v &&& 0xBFFFFFFF) i = wbit v i := by
  have mask : ∀ i < 32, i ≠ 30 → (0xBFFFFFFF#32).getLsbD i = true := by decide
  by_cases hi : i < 32
  · simp [wbit, mask i hi h]
  · simp [wbit, BitVec.getLsbD_of_ge _ i (Nat.le_of_not_lt hi)]

theorem blocks_withoutRelease (v : Word) : (v &&& 0xBFFFFFFF).setWidth 11 = v.setWidth 11 := by
  ext i hi
  have := wbit_withoutRelease v (i := i) (by omega)
  simpa only [wbit, BitVec.getElem_setWidth, BitVec.getLsbD_eq_getElem hi] using this

theorem exec_counterSnapshot (s : State) (g : Agent) (v : Word) : exec (.counterSnapshot g v) s = .next (s.snapshot g v) := by
  have h30 : wbit (v &&& 0xBFFFFFFF) 30 = false := by simp [wbit]
  have hsel (i : Fin 52) : wbit (v &&& 0xBFFFFFFF) (devBlock i) = wbit v (devBlock i) :=
    wbit_withoutRelease v (by have := devBlock_lt i; omega)
  have hblocks : holdBlocks s.host (v &&& 0xBFFFFFFF) g = holdBlocks s.host v g := by
    cases g <;> simp only [holdBlocks, blocks_withoutRelease]
  show Host.Outcome.next (s.snapCmd g (v &&& 0xBFFFFFFF)) = _
  simp only [State.snapCmd, h30, Bool.false_eq_true, if_false, snapshot_eq, hsel, hblocks,
    wbit_withoutRelease v (i := 0) (by decide), wbit_withoutRelease v (i := 1) (by decide), wbit_withoutRelease v (i := 31) (by decide)]

/-! ### The indirect pair (R444) -/

/-- The bit of IND_STATUS that a read of a word sets: none where the read returns it. -/
def indReason (answered : Bool) : IndWord → BitVec 4
  | .unmapped => 1
  | .off => 2
  | _ => if answered then 0 else 4

theorem indReason_mapped {b : Bool} {w : IndWord} (hu : w ≠ .unmapped) (ho : w ≠ .off) : indReason b w = if b then 0 else 4 := by
  cases w with
  | unmapped => exact absurd rfl hu
  | off => exact absurd rfl ho
  | _ => rfl

theorem indRead_only (s : State) (g : Agent) (b : Bool) : OnlyChanges [.host] s (s.indRead g b).2 := setHost_only s _

/-- The word at the indirect address of an agent. -/
abbrev indWord (s : State) (g : Agent) : IndWord := s.indAt (vget s.host.indAddr (agentIx g)).toNat

theorem indRead_addr (s : State) (g : Agent) (b : Bool) (i : Fin 2) : vget (s.indRead g b).2.host.indAddr i =
    if i = agentIx g then vget s.host.indAddr i + 4 else vget s.host.indAddr i := vget_vmod_ite _ _ i (· + 4)

/-- What a read of IND_DATA returns and what it leaves in IND_STATUS, by the word that the address reaches. -/
theorem indRead_spec (s : State) (g : Agent) (b : Bool) :
    (s.indRead g b).2.host.indStatus = vmod s.host.indStatus (agentIx g) (· ||| indReason b (indWord s g)) ∧
    (indReason b (indWord s g) ≠ 0 → (s.indRead g b).1 = 0) ∧
    (indWord s g = .zero → (s.indRead g b).1 = 0) ∧
    ∀ f, b = true → indWord s g = .fuse f → (s.indRead g b).1 = s.fuseWord f := by
  unfold State.indRead indWord
  dsimp only
  generalize s.indAt _ = w
  cases w with
  | unmapped | off => simp [indReason]
  | zero | fuse | board => cases b <;> simp [indReason, vmod]
  | lock known => cases b <;> cases known <;> simp [indReason, vmod]

theorem indRead_status (s : State) (g : Agent) (b : Bool) (i : Fin 2) : vget (s.indRead g b).2.host.indStatus i =
    if i = agentIx g then vget s.host.indStatus i ||| indReason b (indWord s g) else vget s.host.indStatus i := by
  rw [(indRead_spec s g b).1, vget_vmod_ite]

/-- A read that fails for the reason r returns 0 and leaves r in IND_STATUS. -/
theorem indRead_failed {s : State} {g : Agent} {b : Bool} {r : BitVec 4} (h : indReason b (indWord s g) = r) (hr : r ≠ 0) :
    (s.indRead g b).1 = 0 ∧ vget (s.indRead g b).2.host.indStatus (agentIx g) = vget s.host.indStatus (agentIx g) ||| r := by
  subst h
  exact ⟨(indRead_spec s g b).2.1 hr, by simp [indRead_status]⟩

/-- A read that succeeds leaves IND_STATUS as it was, and returns the word. -/
theorem indRead_answered {s : State} {g : Agent} (h : indReason true (indWord s g) = 0) :
    vget (s.indRead g true).2.host.indStatus (agentIx g) = vget s.host.indStatus (agentIx g) ∧
    (indWord s g = .zero → (s.indRead g true).1 = 0) ∧ ∀ f, indWord s g = .fuse f → (s.indRead g true).1 = s.fuseWord f := by
  obtain ⟨-, -, hzero, hfuse⟩ := indRead_spec s g true
  exact ⟨by simp [indRead_status, h], hzero, fun f => hfuse f rfl⟩

theorem indWrite_only (s : State) (g : Agent) : OnlyChanges [.host] s (s.indWrite g) := setHost_only s _

theorem indWrite_addr (s : State) (g : Agent) (i : Fin 2) : vget (s.indWrite g).host.indAddr i =
    if i = agentIx g then vget s.host.indAddr i + 4 else vget s.host.indAddr i := vget_vmod_ite _ _ i (· + 4)

theorem indWrite_status (s : State) (g : Agent) (i : Fin 2) : vget (s.indWrite g).host.indStatus i =
    if i = agentIx g then vget s.host.indStatus i ||| 8 else vget s.host.indStatus i := vget_vmod_ite _ _ i (· ||| 8)

/-! ### Register writes (R441-R443) -/

theorem exec_registerWrite {a : Word} {x : RegSite} (h : regSite (a.toNat / 4 * 4) = some x) (s : State) (g : Agent) (v : Word) :
    exec (.registerWrite g a v) s = .next (s.regWriteAt g v x) := by
  show Host.Outcome.next (s.regWrite g a.toNat v) = _
  simp [State.regWrite, h]

/-- A write outside every window is counted (R441). -/
theorem exec_registerWrite_unmapped {a : Word} (h : regSite (a.toNat / 4 * 4) = none) (s : State) (g : Agent) (v : Word) :
    exec (.registerWrite g a v) s = .next (s.devInc .regUnmapped) := by
  show Host.Outcome.next (s.regWrite g a.toNat v) = _
  simp [State.regWrite, h]

/-- A write to the inbound window of the stalls of a window. -/
theorem regWriteAt_inbound (s : State) (g : Agent) (v : Word) (w : Window) : s.regWriteAt g v (.stalls w 0x608) =
    s.overWindow w fun s n => s.modStall n fun x => { x with inboundBase := (v >>> 16).setWidth 16, inboundEnd := v.setWidth 16 } := rfl

theorem exec_counterReadClear {a : Word} {x : RegSite} {c : CtrSite} (hx : regSite (a.toNat / 4 * 4) = some x)
    (hc : ctrAt x = some c) (s : State) (g : Agent) : exec (.counterReadClear g a) s = .next (s.ctrReadClear g c) := by
  show Host.Outcome.next (counterReadClearEffect g a s) = _
  rw [counterReadClearEffect_ctr hx hc]

/-- Settles O58: each access is its effect by definition, and the rules above say what the effect does. -/
theorem registersAndCountersFollowTheirAccesses : Obligations.RegistersAndCountersFollowTheirAccesses := by
  refine ⟨fun s g b => ?_, fun s g v => ?_, fun s v => ?_, fun s v => ?_, fun s v => ?_, fun s a x c hx hc => ?_, fun s g a v => ?_⟩
  · exact ⟨(s.indRead g b).2, rfl, indRead_only s g b, indRead_addr s g b, fun i hi => by simp [indRead_status, hi],
      fun h => indRead_failed (by rw [indWord, h]; rfl) (by decide), fun h => indRead_failed (by rw [indWord, h]; rfl) (by decide),
      fun hu ho => ⟨fun hb => indRead_failed (by rw [indReason_mapped hu ho, hb]; rfl) (by decide),
        fun hb => by subst hb; exact indRead_answered (indReason_mapped hu ho)⟩⟩
  · exact ⟨s.indWrite g, rfl, indWrite_only s g, indWrite_addr s g, indWrite_status s g⟩
  · refine ⟨s.snapshot .host v, exec_counterSnapshot s .host v, snapshot_only s .host v, snapshot_host s .host v,
      fun c => ?_, fun n c => ?_, fun q => ?_⟩
    · rw [devCtr_snapshot]; split <;> simp [Ctr.snap]
    · rw [stall_snapshot]; split <;> simp [Ctr.snap]
    · rw [queue_snapshot]; split <;> simp [Queue.snap]
  · refine ⟨s.snapshot .hall v, exec_counterSnapshot s .hall v, snapshot_only s .hall v, snapshot_host s .hall v,
      fun c => ?_, fun n c => ?_, fun q => ?_⟩
    · rw [devCtr_snapshot]; split <;> simp [Ctr.snap]
    · rw [stall_snapshot]; split <;> simp [Ctr.snap]
    · rw [queue_snapshot]; split <;> simp [Queue.snap]
  · exact ⟨s.snapRelease .host v, s.snapRelease .hall v, rfl, rfl, rfl, setHost_only s _, rfl, setHost_only s _⟩
  · refine ⟨fun b => by rw [regRead_ctr hx hc]; rfl, fun hheld hblock => ?_, fun h => ?_, exec_counterReadClear hx hc s .hall⟩
    · have hclear : s.ctrReadClear .host c = s.modCtr (fun x => { x with live := 0 }) c := by
        simp [State.ctrReadClear, State.heldFor, hheld, hblock]
      refine ⟨_, exec_counterReadClear hx hc s .host, ?_⟩
      rw [hclear]
      exact ⟨by rw [ctr_modCtr_same s rfl], by rw [ctr_modCtr_same s rfl], fun d hd => ctr_modCtr_ne s _ hd, modCtr_only s _ c,
        fun b => by rw [regRead_ctr hx hc, hclear]⟩
    · rw [exec_counterReadClear hx hc]
      simp only [State.ctrReadClear, State.heldFor, h, if_true]
  · refine ⟨fun h => ?_, fun h => ?_, fun h => ?_, fun w h => ?_, fun o h => exec_registerWrite h s g v, fun o c h hc => ?_⟩
    · exact ⟨_, exec_registerWrite_unmapped h s g v, devCtr_devInc_same s _, devAdd_only s _ 1⟩
    · exact ⟨_, exec_registerWrite h s g v, rfl, setQm_only s _⟩
    · exact ⟨_, exec_registerWrite h s g v, rfl, setHost_only s _⟩
    · exact ⟨_, exec_registerWrite h s g v, overWindow_only s w _ fun s n => modStall_only s n _, fun n => by
        rw [regWriteAt_inbound, stall_overWindow_modStall]⟩
    · rw [exec_registerWrite h, regWriteAt_ctr hc]

/-! ### The values after a cold reset (R7, R98, R319, R458) -/

/-- The domains of the stalls are off: those on lie above bit 63. -/
theorem reset_domainOn (n : StallId) : State.reset.domainOn n.val = false := by
  show (0x3C00E0#86 <<< 64).getLsbD n.val = false
  simp only [BitVec.getLsbD_shiftLeft, n.isLt, decide_true, Bool.not_true, Bool.and_false, Bool.false_and]

theorem reset_ctr (c : CtrSite) : State.reset.ctr c = Ctr.zero := by
  cases c with
  | dev c => exact vget_replicate Ctr.zero c.idx
  | stall n c => simp [State.ctr, reset_domainOn]

theorem reset_stall (n : StallId) : State.reset.stall n = Stall.reset := vget_replicate Stall.reset n

theorem reset_cell (c : CellId) : State.reset.cell c = Cell.reset c := by
  simp [State.reset, State.cell, vget]

/-- Settles O5: the registers named are read one by one from the reset state; counters, stalls and cells are equal to their own reset
values. -/
theorem resetLeavesTheTableValues : Obligations.ResetLeavesTheTableValues := by
  refine ⟨by decide +kernel, by decide +kernel, by decide +kernel, by decide +kernel, fun c => ?_, fun n => ?_, fun c => ?_, rfl, rfl, rfl,
    rfl, rfl⟩
  · rw [reset_ctr]; exact ⟨rfl, rfl⟩
  · rw [reset_stall]
    exact ⟨reset_domainOn n, rfl, rfl, fun a => rfl, rfl, rfl, fun t => vget_replicate 8 t⟩
  · rw [reset_cell]; exact ⟨rfl, rfl⟩

end Sys2Proof.Safety
end

/-! STAGE_WINDOW_CLOSE on a command with PASS_ARRIVE (R16, R253): the arrival of the discarded command can find a joined generation late,
which is a second timing-dependent choice. -/
section
namespace Sys2Proof.Safety
open Sys2Proof.Machine

/-- The bytes of an entry of stage 1 with PASS_ARRIVE for Pass 0, whose window closes 1 ns after second 0. -/
def missedBytes : List Byte :=
  List.replicate 6 0 ++ [0x10] ++ List.replicate 9 0 ++ [1] ++ List.replicate 44 0 ++ [1] ++ List.replicate 34 0

/-- The entry, waiting at index 0. -/
def missedEntry : QEntry := ⟨0, missedBytes, .waiting, true, true, none, none, false, false, 0, 0, none, 0, 0, false⟩

/-- A joined Pass with a generation that was stamped at second 0 and has no release yet: the member whose stamp it waited for has left
the joined set since. -/
def latePass : Pass := { Pass.reset with en := true, joined := true, waves := [⟨0, some 0, none, []⟩] }

/-- Ten seconds later the entry is still in queue 0. -/
def latePassState : State :=
  { State.reset with
    time := { TimeBase.reset with stepped := true, anchorT := ns 10000000000 }
    qm := { QueueManager.reset with queues := vset QueueManager.reset.queues 0 { Queue.reset with entries := [missedEntry], tail := 1 } }
    fab := { Fabric.reset with passes := vset Fabric.reset.passes 0 latePass } }

/-- The entry waits, its stage is not the scheduler's, and its window has closed. -/
theorem latePassState_missed : latePassState.entry 0 0 = some missedEntry ∧ latePassState.time.stepped = true ∧
    missedEntry.desc.discardNs ≠ 0 ∧ missedEntry.desc.stage ≠ 0 ∧
    latePassState.reached (launchTime latePassState.now missedEntry.desc + ns missedEntry.desc.discardNs) = true := by decide +kernel

/-- The discarded command counts once, and the late release of the Pass once more. -/
theorem latePassState_counts_twice :
    ((stageWindowCloseEffect 0 0 [] [] 0 latePassState).devCtr .tdcSched).live = 2 := by decide +kernel

theorem latePassState_tdcSched : satAdd (latePassState.devCtr .tdcSched).live 1 = 1 := by decide +kernel

/-- Refutes O8: TDC_SCHED grows by 2, not by 1, where the arrival that the discarded command makes at its joined Pass (R253) completes a
generation while an earlier one is past its release (R256, PASS_LATE, itself an event of Table 13-2). -/
theorem not_unstartedEntriesAreDiscarded : ¬ Obligations.UnstartedEntriesAreDiscarded := by
  rintro ⟨hclose, -⟩
  obtain ⟨hentry, hstepped, hwindow, hstage, hreached⟩ := latePassState_missed
  obtain ⟨t, ht, -, hcount, -⟩ := (hclose 0 0 [] [] 0 missedEntry latePassState hentry rfl hstepped hwindow hreached).1 hstage
  obtain rfl : stageWindowCloseEffect 0 0 [] [] 0 latePassState = t := Host.Outcome.next.inj ht
  rw [latePassState_counts_twice, latePassState_tdcSched] at hcount
  exact absurd hcount (by decide)

end Sys2Proof.Safety
end

/-! What the operations that commands share change (messages, events, memory, Passes, queues, HARQ), said once for each. -/
section
namespace Sys2Proof.Safety
open Sys2Proof.Machine

/-! ### The frame of a shared operation -/

/-- The counters that a shared operation may raise, beside those that a command itself counts. -/
def sideCounters : List DevCtr :=
  [.evtDropped, .evtUsbDrop, .plainFwViol, .passStray, .passLate, .tdcSched, .qmNotAdmitted, .qmFaultRequeue, .qmResvConflict]

/-- The host interface but for the event unit and the capture ring. -/
def hostCore (h : HostIf) : HostIf :=
  { h with evtSeq := 0, ring := [], endpoint3 := [], evtUs := 0, evtCount := 0, evtRefused := 0, evtRefusedUs := 0, capture := ⟨false, 0, 0, 0, []⟩ }

/-- Nothing changes but the parts named; of the device's counters no more than the side counters, and of the host interface no more
than the event unit. -/
structure Touches (ps : List Part) (s t : State) : Prop where
  only : OnlyChanges ps s t
  counters : ∀ c, c ∉ sideCounters → t.devCtr c = s.devCtr c
  host : hostCore t.host = hostCore s.host

namespace Touches

theorem refl (ps : List Part) (s : State) : Touches ps s s := ⟨onlyChanges_refl ps s, fun _ _ => rfl, rfl⟩

theorem mono {ps qs : List Part} {s t : State} (h : Touches ps s t) (hs : ∀ p ∈ ps, p ∈ qs := by decide) : Touches qs s t :=
  ⟨onlyChanges_mono h.only hs, h.counters, h.host⟩

theorem trans {ps : List Part} {s t u : State} (h : Touches ps s t) (k : Touches ps t u) : Touches ps s u :=
  ⟨onlyChanges_trans h.only k.only, fun c hc => (k.counters c hc).trans (h.counters c hc), k.host.trans h.host⟩

/-- Two steps one after the other, each of which changes no more than the parts named. -/
theorem andThen {ps qs rs : List Part} {s t u : State} (h : Touches ps s t) (k : Touches qs t u) (hp : ∀ p ∈ ps, p ∈ rs := by decide)
    (hq : ∀ p ∈ qs, p ∈ rs := by decide) : Touches rs s u :=
  (h.mono hp).trans (k.mono hq)

theorem foldl {α : Type} {ps : List Part} (f : State → α → State) (hf : ∀ s a, Touches ps s (f s a)) (l : List α) (s : State) :
    Touches ps s (l.foldl f s) := by
  induction l generalizing s with
  | nil => exact refl ps s
  | cons a l ih => exact (hf s a).trans (ih (f s a))

theorem ite {ps : List Part} {s t u : State} {c : Prop} [Decidable c] (ht : Touches ps s t) (hu : Touches ps s u) :
    Touches ps s (if c then t else u) := by
  split
  · exact ht
  · exact hu

/-- What leaves device counters and host interface alone touches nothing else of them. -/
theorem of_only {ps : List Part} {s t : State} (h : OnlyChanges ps s t) (hd : Part.dev ∉ ps := by decide)
    (hh : Part.host ∉ ps := by decide) : Touches ps s t :=
  ⟨h, fun c _ => by rw [State.devCtr, show t.dev = s.dev from h.2 .dev hd]; rfl, by rw [show t.host = s.host from h.2 .host hh]⟩

/-- A part that is not named is the same. -/
theorem part {ps : List Part} {s t : State} (h : Touches ps s t) (p : Part) (hp : p ∉ ps := by decide) : p.same s t := h.only.2 p hp

/-- The mailboxes are the same. -/
theorem mbox {ps : List Part} {s t : State} (h : Touches ps s t) : t.host.mbox = s.host.mbox := show (hostCore t.host).mbox = (hostCore s.host).mbox by rw [h.host]

end Touches

/-- A counter other than the one raised reads as before. -/
theorem devCtr_devAdd_ne (s : State) {c d : DevCtr} (k : Nat) (h : d ≠ c) : (s.devAdd c k).devCtr d = s.devCtr d := by
  have hidx : c.idx ≠ d.idx := fun e => h (devCtr_idx_injective e).symm
  simp [State.devCtr, hidx]

@[simp] theorem devCtr_devAdd_same (s : State) (c : DevCtr) (k : Nat) : (s.devAdd c k).devCtr c = (s.devCtr c).add k := by
  simp [State.devCtr]

theorem devAdd_touches (s : State) {c : DevCtr} (k : Nat) (hc : c ∈ sideCounters := by decide) : Touches [.dev] s (s.devAdd c k) :=
  ⟨devAdd_only s c k, fun _ hd => devCtr_devAdd_ne s k fun e => hd (e ▸ hc), rfl⟩

theorem devInc_touches (s : State) {c : DevCtr} (hc : c ∈ sideCounters := by decide) : Touches [.dev] s (s.devInc c) := devAdd_touches s 1 hc

theorem modCell_touches (s : State) (c : CellId) (f : Cell → Cell) : Touches [.cells] s (s.modCell c f) := .of_only (modCell_only s c f)

theorem modQueue_touches (s : State) (q : QueueId) (f : Queue → Queue) : Touches [.qm] s (s.modQueue q f) := .of_only (modQueue_only s q f)

theorem modEntry_touches (s : State) (q : QueueId) (i : Fin 4096) (f : QEntry → QEntry) : Touches [.qm] s (s.modEntry q i f) :=
  .of_only (modEntry_only s q i f)

theorem modStall_touches (s : State) (n : StallId) (f : Stall → Stall) : Touches [.stalls] s (s.modStall n f) :=
  .of_only (modStall_only s n f)

theorem drew_touches (s : State) (k : Nat) : Touches [.free] s (s.drew k) := .of_only (drew_only s k)

theorem send_touches (s : State) (m : OutMsg) : Touches [.out] s (s.send m) := .of_only (send_only s m)

theorem settle_touches (s0 s : State) : Touches [.qm] s (State.settle s0 s) := .of_only (settle_only s0 s)

theorem tdc_touches (s : State) {c : DevCtr} (cell : CellId) (k : Nat) (hc : c ∈ sideCounters := by decide) :
    Touches [.dev, .cells] s (s.tdc c cell k) :=
  (devAdd_touches s k hc).andThen (modCell_touches _ _ _)

/-! ### Messages and events -/

theorem capture_touches (s : State) (c : Nat) (bs : List Byte) : Touches [.host] s (s.capture c bs) := by
  refine ⟨capture_only s c bs, fun _ _ => ?_, ?_⟩ <;> (unfold State.capture; split <;> rfl)

/-- The event unit refuses a record. -/
theorem refused_touches (u : State) (n : Nat) (us : Int) :
    Touches [.dev, .host] u { u.devInc .evtDropped with host := { u.host with evtRefused := n, evtRefusedUs := us } } :=
  ⟨⟨rfl, fun p hp => by cases p <;> first | rfl | simp at hp⟩, (devInc_touches u (c := .evtDropped)).counters, rfl⟩

/-- The event unit accepts a record. -/
theorem accept_touches (u : State) (e : Event) (us : Int) (n : Nat) : Touches [.dev, .host] u
    { (if (u.host.accept e).2 = true then u.devInc .evtUsbDrop else u) with
      host := { (u.host.accept e).1 with evtUs := us, evtCount := n } } :=
  ⟨accept_only u e us n, (Touches.ite (devInc_touches u (c := .evtUsbDrop)) (.refl _ u)).counters, rfl⟩

theorem raiseAt_touches (s : State) (t : Int) (y c : Nat) (bs : List Byte) : Touches [.dev, .host] s (s.raiseAt t y c bs) := by
  unfold State.raiseAt
  split
  · dsimp only
    generalize (if s.host.evtUs = usOf s.now then s.host.evtCount else 0) = n
    split
    · exact (capture_touches s _ _).andThen (refused_touches _ _ _)
    · exact (capture_touches s _ _).andThen (accept_touches _ _ _ _)
  · exact .refl _ s

theorem raise_touches (s : State) (y c : Nat) (bs : List Byte) : Touches [.dev, .host] s (s.raise y c bs) := raiseAt_touches s _ y c bs

theorem trace_touches (s : State) (c : Nat) : Touches [.free, .host] s (s.trace c) := by
  unfold State.trace
  split
  · exact (drew_touches s 3).andThen (capture_touches _ _ _)
  · exact .refl _ s

theorem tell_touches (s : State) (d : DeviceId) (k : Byte) (bs : List Byte) : Touches [.qps, .valley, .out] s (s.tell d k bs) :=
  .of_only (tell_only s d k bs)

theorem tellAll_touches (s : State) (k : Byte) (bs : List Byte) : Touches [.qps, .valley, .out] s (s.tellAll k bs) :=
  .foldl _ (fun s d => tell_touches s d k bs) _ s

theorem mirror_touches (s : State) (bs : List Byte) : Touches [.qps, .valley, .out] s (s.mirror bs) := by
  unfold State.mirror
  split
  · exact tell_touches s _ _ bs
  · exact .refl _ s

theorem forward_touches (s : State) (c : CellId) (bs : List Byte) : Touches [.qps, .valley, .out] s (s.forward c bs) := by
  unfold State.forward
  split
  · exact .ite (tell_touches s _ _ _) (.refl _ s)
  · exact .refl _ s

/-! ### Memory -/

theorem setMem_touches (s : State) (m : Mem) : Touches [.mem] s { s with mem := m } :=
  .of_only ⟨rfl, fun p hp => by cases p <;> first | rfl | simp at hp⟩

theorem setFab_touches (s : State) (f : Fabric) : Touches [.fab] s { s with fab := f } :=
  .of_only ⟨rfl, fun p hp => by cases p <;> first | rfl | simp at hp⟩

theorem setPwr_touches (s : State) (x : Power) : Touches [.pwr] s { s with pwr := x } :=
  .of_only ⟨rfl, fun p hp => by cases p <;> first | rfl | simp at hp⟩

theorem setQm_touches (s : State) (x : QueueManager) : Touches [.qm] s { s with qm := x } := .of_only (setQm_only s x)

theorem fwViolation_touches (s : State) (c : Source) (w : Bool) (a b : Nat) : Touches [.dev, .fab, .host] s (s.fwViolation c w a b) :=
  ((devInc_touches s).andThen (setFab_touches _ _) (rs := [.dev, .fab])).andThen (raise_touches _ _ _ _)

theorem plainRead_touches (s : State) (c : Source) (a n : Nat) : Touches [.dev, .fab, .host] s (s.plainRead c a n).2.2 := by
  unfold State.plainRead
  split
  · exact .refl _ s
  · exact fwViolation_touches s _ _ _ _

theorem plainWrite_touches (s : State) (c : Source) (a : Nat) (bs : List Byte) :
    Touches [.mem, .dev, .fab, .host] s (s.plainWrite c a bs).2 := by
  unfold State.plainWrite
  split
  · exact (setMem_touches s _).mono
  · exact (fwViolation_touches s _ _ _ _).mono

theorem agentRead_touches (s : State) (c : Source) (a n : Nat) : Touches [.dev, .fab, .host] s (s.agentRead c a n).2 := by
  unfold State.agentRead
  split
  · exact .refl _ s
  · exact plainRead_touches s _ _ _
  · exact .refl _ s
  · exact .refl _ s

theorem agentWrite_touches (s : State) (c : Source) (a : Nat) (bs : List Byte) :
    Touches [.mem, .dev, .fab, .host] s (s.agentWrite c a bs) := by
  unfold State.agentWrite
  split
  · exact .ite (setMem_touches s _).mono (.refl _ s)
  · exact plainWrite_touches s _ _ _
  · exact (setMem_touches s _).mono
  · exact .refl _ s

theorem qmWrite_touches (s : State) (a : Nat) (bs : List Byte) : Touches [.mem, .dev, .fab, .host] s (s.qmWrite a bs) :=
  agentWrite_touches s _ a bs

/-! ### Passes -/

/-- What an arrival at a Pass may change. -/
abbrev passParts : List Part := [.dev, .host, .fab, .pwr, .qps, .valley, .out]

theorem modPass_touches (s : State) (p : PassId) (f : Pass → Pass) : Touches [.fab] s (s.modPass p f) := setFab_touches s _

theorem noteLate_touches (s : State) (l : List (DeviceId × Int)) : Touches [.pwr] s (s.noteLate l) :=
  .ite (.refl _ s) (setPwr_touches s _)

/-- A late release counts in two side counters. -/
theorem late_touches {s t : State} (h : Touches passParts s t) (late : Prop) [Decidable late] :
    Touches passParts s (if late then (t.devInc .passLate).devInc .tdcSched else t) :=
  .ite (h.andThen ((devInc_touches t).trans (devInc_touches _))) h

theorem settleWave_touches (s : State) (p : PassId) (i : Nat) : Touches passParts s (s.settleWave p i) := by
  unfold State.settleWave
  dsimp only
  split
  · exact .refl _ s
  rename_i w _
  split
  · exact .refl _ s
  rename_i t0 _
  split
  · exact .refl _ s
  have stamped : Touches passParts s (match w.stamp with
      | some _ => s
      | none => (s.modPass p fun x => { x with waves := x.waves.set i { w with stamp := some t0 } }).tellAll 3
          (natLE 1 p.val ++ ptpBytes t0)) := by
    split
    · exact .refl _ s
    · exact (modPass_touches s p _).andThen (tellAll_touches _ _ _)
  split
  · exact stamped
  · exact late_touches ((stamped.andThen (noteLate_touches _ _) (rs := passParts)).andThen (modPass_touches _ p _)) _

theorem settlePass_touches (s : State) (p : PassId) : Touches passParts s (s.settlePass p) :=
  .ite (.foldl _ (fun s i => settleWave_touches s p i) _ s) (.refl _ s)

theorem arrive_touches (s : State) (p : PassId) (n : Option StallId) : Touches passParts s (s.arrive p n) := by
  unfold State.arrive
  dsimp only
  split
  · exact (devInc_touches s).andThen (raise_touches _ _ _ _)
  split
  · exact (modPass_touches s p _).mono
  refine .trans ?_ (settlePass_touches _ p)
  split
  · exact (modPass_touches s p _).andThen (tellAll_touches _ _ _)
  · exact (modPass_touches s p _).mono

end Sys2Proof.Safety
end

/-! The cells beside the one in hand, the settings that frames leave alone, and the path of an indication (R41-R44). -/
section
namespace Sys2Proof.Safety
open Sys2Proof.Machine

/-- A command that completes, with the state it leaves rewritten. -/
theorem exec_next {i : Instr} {s t u : State} (h : exec i s = .next t) (e : t = u) : exec i s = .next u := e ▸ h

/-! ### The other cells -/

theorem otherCells_refl (c : CellId) (s : State) : OtherCells c s s := fun _ _ => rfl

theorem otherCells_trans {c : CellId} {s t u : State} (h : OtherCells c s t) (k : OtherCells c t u) : OtherCells c s u :=
  fun d hd => (k d hd).trans (h d hd)

theorem otherCells_modCell (s : State) (c : CellId) (f : Cell → Cell) : OtherCells c s (s.modCell c f) :=
  fun _ hd => cell_modCell_ne s f hd.symm

theorem cell_eq_of_cells {s t : State} (h : t.cells = s.cells) (c : CellId) : t.cell c = s.cell c := by rw [State.cell, h]; rfl

@[simp] theorem cell_send (s : State) (m : OutMsg) (c : CellId) : (s.send m).cell c = s.cell c := rfl

@[simp] theorem cell_drew (s : State) (k : Nat) (c : CellId) : (s.drew k).cell c = s.cell c := rfl

/-- What does not name the cells leaves every cell alone. -/
theorem Touches.cell {ps : List Part} {s t : State} (h : Touches ps s t) (c : CellId) (hp : Part.cells ∉ ps := by decide) :
    t.cell c = s.cell c := cell_eq_of_cells (h.part .cells hp) c

theorem Touches.otherCells {ps : List Part} {s t : State} (h : Touches ps s t) (c : CellId) (hp : Part.cells ∉ ps := by decide) :
    OtherCells c s t := fun d _ => h.cell d hp

theorem otherCells_foldl {α : Type} {c : CellId} (f : State → α → State) (hf : ∀ s a, OtherCells c s (f s a)) (l : List α) (s : State) :
    OtherCells c s (l.foldl f s) := by
  induction l generalizing s with
  | nil => exact otherCells_refl c s
  | cons a l ih => exact otherCells_trans (hf s a) (ih (f s a))

theorem otherCells_tdc (s : State) (i : DevCtr) (c : CellId) (k : Nat) : OtherCells c s (s.tdc i c k) := otherCells_modCell _ c _

/-! ### What a cell's settings are read from -/

/-- Cells and time are such that the settings of every cell, at every slot, read the same. -/
structure SameSettings (s t : State) : Prop where
  running : ∀ c, (t.cell c).running = (s.cell c).running
  param : ∀ c, (t.cell c).param = (s.cell c).param
  changes : ∀ c, (t.cell c).changes = (s.cell c).changes
  time : t.time = s.time

namespace SameSettings

theorem refl (s : State) : SameSettings s s := ⟨fun _ => rfl, fun _ => rfl, fun _ => rfl, rfl⟩

theorem trans {s t u : State} (h : SameSettings s t) (k : SameSettings t u) : SameSettings s u :=
  ⟨fun c => (k.running c).trans (h.running c), fun c => (k.param c).trans (h.param c), fun c => (k.changes c).trans (h.changes c),
    k.time.trans h.time⟩

theorem of_cells {s t : State} (h : t.cells = s.cells) (ht : t.time = s.time) : SameSettings s t :=
  ⟨fun c => by rw [cell_eq_of_cells h], fun c => by rw [cell_eq_of_cells h], fun c => by rw [cell_eq_of_cells h], ht⟩

/-- What does not name cells and time keeps the settings. -/
theorem of_touches {ps : List Part} {s t : State} (h : Touches ps s t) (hc : Part.cells ∉ ps := by decide)
    (ht : Part.time ∉ ps := by decide) : SameSettings s t := of_cells (h.part .cells hc) (h.part .time ht)

theorem modCell (s : State) (c : CellId) (f : Cell → Cell)
    (hf : ∀ x, (f x).running = x.running ∧ (f x).param = x.param ∧ (f x).changes = x.changes := by intro x; exact ⟨rfl, rfl, rfl⟩) :
    SameSettings s (s.modCell c f) := by
  have hd : ∀ d, ((s.modCell c f).cell d).running = (s.cell d).running ∧ ((s.modCell c f).cell d).param = (s.cell d).param ∧
      ((s.modCell c f).cell d).changes = (s.cell d).changes := fun d => by
    by_cases h : c = d
    · subst h; rw [cell_modCell_same]; exact hf _
    · rw [cell_modCell_ne s f h]; exact ⟨rfl, rfl, rfl⟩
  exact ⟨fun d => (hd d).1, fun d => (hd d).2.1, fun d => (hd d).2.2, rfl⟩

theorem foldl {α : Type} (f : State → α → State) (hf : ∀ s a, SameSettings s (f s a)) (l : List α) (s : State) :
    SameSettings s (l.foldl f s) := by
  induction l generalizing s with
  | nil => exact refl s
  | cons a l ih => exact (hf s a).trans (ih (f s a))

variable {s t : State}

theorem get (h : SameSettings s t) (c : CellId) (p : CellParam) : (t.cell c).get p = (s.cell c).get p := by
  rw [Cell.get, h.param c]; rfl

theorem frameTiming (h : SameSettings s t) (c : CellId) : t.frameTiming c = s.frameTiming c := by
  simp only [State.frameTiming, h.time, h.get]

theorem now (h : SameSettings s t) : t.now = s.now := by rw [State.now, h.time]; rfl

theorem nowNs (h : SameSettings s t) : t.nowNs = s.nowNs := by rw [State.nowNs, h.time]; rfl

theorem procNow (h : SameSettings s t) (c : CellId) : t.procNow c = s.procNow c := by rw [State.procNow, h.frameTiming, h.now]; rfl

/-- A parameter in force at a slot reads the same. -/
theorem inPlan_get (h : SameSettings s t) (c : CellId) (k : Int) (p : CellParam) :
    ((t.cell c).inPlan k).get p = ((s.cell c).inPlan k).get p := by
  simp only [Cell.inPlan, h.changes c]
  split
  · simp only [Cell.get, h.param c]
  · exact h.get c p

theorem cellDecoded_get (h : SameSettings s t) (c : CellId) (a : AirSlot) (p : CellParam) :
    (t.cellDecoded c a).get p = (s.cellDecoded c a).get p := by
  simp only [State.cellDecoded, h.frameTiming, h.now, h.inPlan_get]

theorem deliveryQp (h : SameSettings s t) (c : CellId) (a : AirSlot) :
    (t.cellDecoded c a).deliveryQp = (s.cellDecoded c a).deliveryQp := by
  simp only [Cell.deliveryQp, h.cellDecoded_get]

theorem usbRate (h : SameSettings s t) : t.usbRate = s.usbRate := by
  have cells : ∀ x : State, x.usbRate = (((List.finRange 16).filter fun c => (x.cell c).running && (x.cell c).get .delivery == 0xFFFF).map fun c =>
      Config.peakUplink ((x.cell c).get .mu) ((x.cell c).get .nPrb) ((x.cell c).get .nUl)).sum := fun x => by
    have : vlist x.cells = (List.finRange 16).map x.cell := List.ext_getElem (by simp [vlist]) fun i _ _ => by simp [vlist, State.cell, vget]
    rw [State.usbRate, this, List.filter_map, List.map_map]; rfl
  simp only [cells, h.running, h.get]

end SameSettings

/-! ### The path of an indication -/

/-- What decides whether a path accepts data, beside the settings: ports, domains, queue pairs, USB, and the safe state. -/
structure SamePath (s t : State) : Prop where
  settings : SameSettings s t
  wh : t.wh = s.wh
  eth : t.eth = s.eth
  pwr : t.pwr = s.pwr
  qps : t.qps = s.qps
  join : t.join = s.join
  host : hostCore t.host = hostCore s.host

theorem SamePath.refl (s : State) : SamePath s s := ⟨.refl s, rfl, rfl, rfl, rfl, rfl, rfl⟩

theorem SamePath.trans {s t u : State} (h : SamePath s t) (k : SamePath t u) : SamePath s u :=
  ⟨h.settings.trans k.settings, k.wh.trans h.wh, k.eth.trans h.eth, k.pwr.trans h.pwr, k.qps.trans h.qps, k.join.trans h.join, k.host.trans h.host⟩

theorem SamePath.foldl {α : Type} (f : State → α → State) (hf : ∀ s a, SamePath s (f s a)) (l : List α) (s : State) :
    SamePath s (l.foldl f s) := by
  induction l generalizing s with
  | nil => exact refl s
  | cons a l ih => exact (hf s a).trans (ih (f s a))

/-- What keeps the settings and touches no more than cells, events and draws keeps the path. -/
theorem SamePath.of_touches {s t : State} (h : Touches [.cells, .dev, .host, .free] s t) (k : SameSettings s t) : SamePath s t :=
  ⟨k, h.part .wh, h.part .eth, h.part .pwr, h.part .qps, h.part .join, h.host⟩

theorem SamePath.pathAccepts {s t : State} (h : SamePath s t) (c : CellId) (a : AirSlot) : t.pathAccepts c a = s.pathAccepts c a := by
  have hu : t.usbAccepts = s.usbAccepts := by
    have h1 : t.host.usbConfigured = s.host.usbConfigured := show (hostCore t.host).usbConfigured = _ by rw [h.host]; rfl
    have h2 : t.host.usbSpeed = s.host.usbSpeed := show (hostCore t.host).usbSpeed = _ by rw [h.host]; rfl
    simp only [State.usbAccepts, h1, h2, h.settings.usbRate]
  simp only [State.pathAccepts, h.wh, h.settings.deliveryQp, State.qp, h.qps, State.portOn, State.port, h.eth, State.domainOn, h.pwr, hu]

theorem SamePath.shadows {s t : State} (h : SamePath s t) (c : CellId) : t.shadows c = s.shadows c := by rw [State.shadows, h.join]; rfl

/-- Over USB a delivery is one message of endpoint 2. -/
theorem deliver_usb {s : State} {c : CellId} {a : AirSlot} (h : (s.cellDecoded c a).deliveryQp = none) (bs : List Byte) :
    s.deliver c a bs = s.send (.usbMessage 2 0 0 0 0 bs) := by rw [State.deliver, h]

/-- What is posted with nothing held before it and an accepting path goes out. -/
theorem post_delivers {s : State} {c : CellId} {a : AirSlot} (hs : s.shadows c = false) (hh : (s.cell c).held = [])
    (ha : s.pathAccepts c a = true) (bs : List Byte) : s.post c a bs = s.deliver c a bs := by simp [State.post, hs, hh, ha]

/-- What is posted while the path does not accept it is held, oldest first (R44). -/
theorem post_holds {s : State} {c : CellId} {a : AirSlot} (hs : s.shadows c = false) (ha : s.pathAccepts c a = false)
    (hl : (s.cell c).held.length < 32) (bs : List Byte) :
    s.post c a bs = s.modCell c fun x => { x with held := x.held ++ [(a, bs)] } := by
  have hhold : s.hold c a bs = s.modCell c fun x => { x with held := x.held ++ [(a, bs)] } := by
    unfold State.hold
    dsimp only
    split
    · rw [if_neg (by omega)]
    · rfl
  rw [State.post, hs, ha, ← hhold]; simp

end Sys2Proof.Safety
end

/-! The downlink of an air slot, its report, and the HARQ pages that age (R45, R181, R307). -/
section
namespace Sys2Proof.Safety
open Sys2Proof.Machine

/-! ### Lists kept by air slot -/

theorem find_key_map {α : Type} (key : α → AirSlot) {f : α → α} (hf : ∀ d, key (f d) = key d) (a : AirSlot) (l : List α) :
    (l.map fun d => if key d = a then f d else d).find? (fun d => key d == a) = (l.find? fun d => key d == a).map f := by
  induction l with
  | nil => rfl
  | cons d l ih =>
    by_cases h : key d = a
    · simp [h, hf]
    · simp [h, ih]

theorem find_key_map_ne {α : Type} (key : α → AirSlot) {f : α → α} (hf : ∀ d, key (f d) = key d) {a b : AirSlot} (h : b ≠ a) (l : List α) :
    (l.map fun d => if key d = a then f d else d).find? (fun d => key d == b) = l.find? fun d => key d == b := by
  induction l with
  | nil => rfl
  | cons d l ih =>
    by_cases e : key d = a
    · have : key d ≠ b := fun k => h (k.symm.trans e)
      simp_all
    · simp [e, ih, List.find?_cons]

theorem find_key_filter {α : Type} (key : α → AirSlot) (a : AirSlot) (l : List α) :
    (l.filter fun d => key d != a).find? (fun d => key d == a) = none := by
  simp only [List.find?_eq_none, List.mem_filter]
  rintro d ⟨_, hd⟩ he
  simp_all

/-! ### DL_PAYLOAD_CHECK and DL_SLOT_REPORT -/

theorem dlSlot_modDl (s : State) (c : CellId) (a : AirSlot) {f : DlSlot → DlSlot} (hf : ∀ d, (f d).air = d.air) :
    (s.modDl c a f).dlSlot c a = (s.dlSlot c a).map f := by
  simp only [State.dlSlot, State.modDl, cell_modCell_same]
  exact find_key_map DlSlot.air hf a _

theorem modDl_touches (s : State) (c : CellId) (a : AirSlot) (f : DlSlot → DlSlot) : Touches [.cells] s (s.modDl c a f) :=
  modCell_touches s c _

/-- An allocation once the payloads are checked: one without payload is late, and one that has a reason keeps it. -/
def checkedAlloc (set : List (BitVec 16 × Byte)) (x : DlAlloc) : DlAlloc :=
  if x.reason = 0 ∧ set.contains (x.rnti, x.harqId) = false then { x with reason := 10 } else x

/-- The allocations that have a payload in the cell's ring at an air slot. -/
def placedAt (x : Cell) (a : AirSlot) : List (BitVec 16 × Byte) := (x.payloads.filter fun p => p.1 == a).map fun p => (p.2.1, p.2.2.1)

theorem mem_placedAt (x : Cell) (a : AirSlot) (r : BitVec 16) (h : Byte) :
    (placedAt x a).contains (r, h) = false ↔ ¬(∃ p ∈ x.payloads, p.1 = a ∧ p.2.1 = r ∧ p.2.2.1 = h) := by
  simp [placedAt, Bool.eq_false_iff]

/-- A slot's downlink once the payloads are checked. -/
def checkedDl (set : List (BitVec 16 × Byte)) (d : DlSlot) : DlSlot := { d with allocs := d.allocs.map (checkedAlloc set) }

/-- DL_PAYLOAD_CHECK at a cell that this device does not shadow. -/
theorem dlPayloadCheckEffect_eq {s : State} {c : CellId} {a : AirSlot} (hs : s.shadows c = false)
    (hr : s.reached (s.airStartPlus c a (-1)) = true) : ∃ bs, dlPayloadCheckEffect c a s =
      (s.forward c bs).modDl c a (checkedDl (placedAt (s.cell c) a)) := by
  have hp : s.payloadSet c a = some (placedAt (s.cell c) a) := by simp [State.payloadSet, hs, placedAt]
  refine ⟨(placedAt (s.cell c) a).flatMap fun p => natLE 2 p.1.toNat ++ [p.2], ?_⟩
  unfold dlPayloadCheckEffect
  rw [hp]
  simp only [hr]
  rfl

/-- The cell without what it held for an air slot's downlink. -/
def dlDone (a : AirSlot) (x : Cell) : Cell :=
  { x with dl := x.dl.filter (fun y => y.air != a), payloads := x.payloads.filter fun y => y.1 != a }

/-- The report of a slot over USB: the message, and the slot's entries gone. -/
theorem dlSlotReportEffect_usb {s : State} {c : CellId} {a : AirSlot} {d : DlSlot} (hd : s.dlSlot c a = some d) (hx : d.sent = true)
    (hs : s.shadows c = false) (hh : (s.cell c).held = []) (ha : s.pathAccepts c a = true)
    (hq : (s.cellDecoded c a).deliveryQp = none) : ∃ n, dlSlotReportEffect c a s =
      ((s.drew 1).modCell c (dlDone a)).send
        (.usbMessage 2 0 0 0 0 (indicationBytes 0x0202 c d.flags a (s.frameTiming c).mu s.now n 0 (d.allocs.map DlAlloc.entry))) := by
  refine ⟨if d.allocs.any (·.replaced) then (s.freeBits 0).toNat % 65536 else 0, ?_⟩
  unfold dlSlotReportEffect
  rw [hd]
  simp only [hx, if_true]
  have hsame : SamePath s ((s.drew 1).modCell c (dlDone a)) := .of_touches ((drew_touches s 1).andThen (modCell_touches _ c _))
    ((SameSettings.of_touches (drew_touches s 1)).trans (.modCell _ c _))
  have hheld : (((s.drew 1).modCell c (dlDone a)).cell c).held = [] := by rw [cell_modCell_same]; exact hh
  show ((s.drew 1).modCell c (dlDone a)).post c a _ = _
  rw [post_delivers (by rw [hsame.shadows, hs]) hheld (by rw [hsame.pathAccepts, ha]), deliver_usb (by rw [hsame.settings.deliveryQp, hq])]

/-! ### HARQ_PAGE_EXPIRY -/

/-- The page of a cell that HARQ_PAGE_EXPIRY names, past the greatest age at the present air slot. -/
def agedPage (s : State) (c : CellId) (n : Nat) (p : HarqPage) : Bool :=
  p.number == n && p.cell == c && decide (s.harq.maxAge < harqAge (s.frameTiming c).mu p ((s.frameTiming c).air (s.procNow c)))

theorem filter_not_contains_filter {α : Type} [BEq α] [LawfulBEq α] (l : List α) (p : α → Bool) :
    (l.filter fun x => !(l.filter p).contains x) = l.filter fun x => !p x := by
  apply List.filter_congr
  intro x hx
  cases h : p x <;> simp [h, hx]

/-- Every page of the list told to the pair's other device. -/
def mirrorFreed (s : State) (c : CellId) (l : List HarqPage) : State :=
  l.foldl (fun s p => s.mirror (natLE 2 p.rnti.toNat ++ [p.harqId, BitVec.ofNat 8 c.val])) s

theorem mirrorFreed_touches (s : State) (c : CellId) (l : List HarqPage) : Touches [.qps, .valley, .out] s (mirrorFreed s c l) :=
  .foldl _ (fun s _ => mirror_touches s _) l s

/-- The state with other HARQ pages in use. -/
def withPages (s : State) (l : List HarqPage) : State := { s with harq := { s.harq with pages := l } }

theorem withPages_touches (s : State) (l : List HarqPage) : Touches [.harq] s (withPages s l) :=
  .of_only ⟨rfl, fun p hp => by cases p <;> first | rfl | simp at hp⟩

/-- HARQ_PAGE_EXPIRY: the aged pages are mirrored, freed and counted. -/
theorem harqPageExpiryEffect_eq (s : State) (c : CellId) (n : Nat) : ∃ s1, Touches [.qps, .valley, .out] s s1 ∧
    harqPageExpiryEffect c n s = (withPages s1 (s.harq.pages.filter fun p => !agedPage s c n p)).cellAdd c .harqExpired
      (s.harq.pages.filter (agedPage s c n)).length := by
  have hm := mirrorFreed_touches s c (s.harq.pages.filter (agedPage s c n))
  have hh : (mirrorFreed s c (s.harq.pages.filter (agedPage s c n))).harq = s.harq := hm.part .harq
  have he : harqPageExpiryEffect c n s = (withPages (mirrorFreed s c (s.harq.pages.filter (agedPage s c n)))
      ((mirrorFreed s c (s.harq.pages.filter (agedPage s c n))).harq.pages.filter
        fun p => !(s.harq.pages.filter (agedPage s c n)).contains p)).cellAdd c .harqExpired
      (s.harq.pages.filter (agedPage s c n)).length := rfl
  exact ⟨_, hm, by rw [he, hh, filter_not_contains_filter]⟩

/-- Settles O12: the checked allocations and the posted report are read off the cell, and what HARQ_PAGE_EXPIRY filters out it counts. -/
theorem downlinkReportsAndHarqPages : Obligations.DownlinkReportsAndHarqPages := by
  refine ⟨⟨?_, ?_⟩, ?_⟩
  · intro c a d s hs hr hd
    obtain ⟨bs, he⟩ := dlPayloadCheckEffect_eq hs hr
    have hf := forward_touches s c bs
    refine ⟨_, checkedDl (placedAt (s.cell c) a) d, exec_next rfl he, ?_, ?_, ?_, ?_⟩
    · rw [dlSlot_modDl (f := checkedDl _) _ _ _ fun _ => rfl, State.dlSlot, hf.cell c, ← State.dlSlot, hd]; rfl
    · exact List.map_congr_left fun x _ => by simp only [checkedAlloc, mem_placedAt]
    · exact (hf.andThen (modDl_touches _ c a _)).only
    · exact otherCells_trans (hf.otherCells c) (otherCells_modCell _ c _)
  · intro c a d s hd hx hs hh ha hq
    obtain ⟨n, he⟩ := dlSlotReportEffect_usb hd hx hs hh ha hq
    refine ⟨_, _, exec_next rfl he, rfl, rfl, ?_, ?_, ?_, ?_, otherCells_modCell (s.drew 1) c _⟩
    · rw [← List.length_map (f := DlAlloc.entry)]; rfl
    · rw [State.dlSlot, cell_send, cell_modCell_same]; exact find_key_filter DlSlot.air a _
    · intro p hp
      rw [cell_send, cell_modCell_same] at hp
      simpa using (List.mem_filter.1 hp).2
    · exact (((drew_touches s 1).andThen (modCell_touches _ c _) (rs := [.cells, .out, .free])).andThen (send_touches _ _)).only
  · intro c n s
    obtain ⟨s1, h1, he⟩ := harqPageExpiryEffect_eq s c n
    have hh : s1.harq = s.harq := h1.part .harq
    have h2 := h1.andThen (withPages_touches s1 (s.harq.pages.filter fun p => !agedPage s c n p)) (rs := [.harq, .out, .qps, .valley])
    have hlen := List.length_eq_length_filter_add (l := s.harq.pages) (agedPage s c n)
    have hk : (s.harq.pages.filter (agedPage s c n)).length =
        s.harq.pages.length - (s.harq.pages.filter fun p => !agedPage s c n p).length := by omega
    refine ⟨_, exec_next rfl he, rfl, by rw [← hh]; rfl, by rw [← hh]; rfl, by rw [← hh]; rfl, ?_,
      (h2.andThen (modCell_touches _ c _)).only, otherCells_trans (h2.otherCells c) (otherCells_modCell _ c _)⟩
    rw [State.cellAdd, cell_modCell_same, h2.cell c, hk]
    exact vget_vmod_same _ _ _

end Sys2Proof.Safety
end

/-! The operations on command queues: what they leave alone (R258-R279). -/
section
namespace Sys2Proof.Safety
open Sys2Proof.Machine

/-! ### Parts -/

/-- What the rewriting of an entry may change. -/
abbrev entryParts : List Part := [.qm, .mem, .dev, .fab, .host]

/-- What the retiring of an entry may change. -/
abbrev retireParts : List Part := [.qm, .mem, .dev, .fab, .host, .pwr, .qps, .valley, .out, .free]

/-- What the appending of an entry may change. -/
abbrev appendParts : List Part := [.qm, .mem, .dev, .fab, .host, .pwr, .qps, .valley, .out, .free, .cells, .stalls]

theorem rewriteEntry_touches (s : State) (q : QueueId) (i : Fin 4096) (f : List Byte → List Byte) :
    Touches entryParts s (s.rewriteEntry q i f) := by
  unfold State.rewriteEntry
  split
  · exact (modEntry_touches s q i _).andThen (qmWrite_touches _ _ _)
  · exact .refl _ s

/-- The entry's record written and traced, the entry retired, and HEAD moved past what is retired. -/
def markRetired (s : State) (q : QueueId) (i : Fin 4096) (rec_ : List Byte) : State :=
  (((s.qmWrite ((s.queue q).entryAddr i.val + 96) rec_).trace (evtSource 5 q.val)).modEntry q i fun e => { e with phase := .retired }).modQueue q
    fun x => x.passHead x.entries

theorem markRetired_touches (s : State) (q : QueueId) (i : Fin 4096) (rec_ : List Byte) :
    Touches [.qm, .mem, .dev, .fab, .host, .free] s (markRetired s q i rec_) :=
  (((qmWrite_touches s _ _).andThen (trace_touches _ _) (rs := [.qm, .mem, .dev, .fab, .host, .free])).andThen (modEntry_touches _ q i _)
    (rs := [.qm, .mem, .dev, .fab, .host, .free])).andThen (modQueue_touches _ q _)

/-- Retiring an entry: its record, and the arrival at a Pass where its command makes one. -/
theorem retire_eq {s : State} {q : QueueId} {i : Fin 4096} {e : QEntry} (h : s.entry q i = some e) (o : Byte) (rows : Nat) :
    ∃ rec_, s.retire q i o rows = if e.desc.passArrive ∧ e.desc.opclass ≠ 4 then (markRetired s q i rec_).arrive (passOf e.desc.passId) e.stall
      else markRetired s q i rec_ := by
  unfold State.retire
  rw [h]
  exact ⟨_, rfl⟩

/-- An index at which no entry stands retires nothing. -/
theorem retire_none {s : State} {q : QueueId} {i : Fin 4096} (h : s.entry q i = none) (o : Byte) (rows : Nat) : s.retire q i o rows = s := by
  rw [State.retire, h]

theorem retire_touches (s : State) (q : QueueId) (i : Fin 4096) (o : Byte) (rows : Nat) : Touches retireParts s (s.retire q i o rows) := by
  cases he : s.entry q i with
  | none => rw [retire_none he]; exact .refl _ s
  | some e =>
    obtain ⟨rec_, hr⟩ := retire_eq he o rows
    rw [hr]
    exact .ite ((markRetired_touches s q i rec_).andThen (arrive_touches _ _ _)) (markRetired_touches s q i rec_).mono

theorem admitEntry_touches {s t : State} {c : CellId} {cost : Nat} {n : StallId} (h : s.admitEntry c cost = some (n, t)) :
    Touches [.qm] s t := by
  unfold State.admitEntry at h
  split at h
  · cases h
  split at h
  · cases h
  split at h
  · cases h
  split at h
  · cases h; exact setQm_touches s _
  · cases h

theorem freeEngine_touches (s : State) (n : StallId) (e : Engine) : Touches [.stalls] s (s.freeEngine n e) := by
  cases e <;> exact modStall_touches s n _

theorem unplace_touches (s : State) (q : QueueId) (i : Fin 4096) (ac : Nat) (f : QEntry → QEntry) : Touches [.qm] s (s.unplace q i ac f) :=
  (modQueue_touches s q _).andThen (modEntry_touches _ q i _)

/-- What the putting back of entries may change. -/
abbrev relinkParts : List Part := [.qm, .mem, .dev, .fab, .host, .stalls]

theorem requeue_touches (s : State) (q : QueueId) (i : Fin 4096) : Touches relinkParts s (s.requeue q i) := by
  unfold State.requeue
  split
  · exact .refl _ s
  rename_i e he
  dsimp only
  refine .andThen (ps := relinkParts) ?_ (devInc_touches _)
  have h1 : Touches relinkParts s (match e.phase with | .placed m g => s.freeEngine m g | _ => s) := by
    split
    · exact (freeEngine_touches s _ _).mono
    · exact .refl _ s
  have h2 := h1.andThen (rewriteEntry_touches _ q i fun b => setResume false (clearPin b)) (rs := relinkParts)
  exact .ite (h2.andThen (modEntry_touches _ q i _)) (h2.andThen (unplace_touches _ q i _ _))

theorem requeueLost_touches (s : State) (n : StallId) (q : QueueId) : Touches relinkParts s (s.requeueLost n q) :=
  .andThen (modQueue_touches s q _) (.foldl _ (fun s i => requeue_touches s q i) _ _)

theorem relink_touches (s : State) (q : QueueId) (i : Fin 4096) : Touches relinkParts s (s.relink q i) := by
  unfold State.relink
  split
  · exact .ite (requeueLost_touches s _ q) (.refl _ s)
  · exact .refl _ s

/-! ### Taking an entry in -/

/-- The entry that a queue makes of the bytes appended to it. -/
def newEntry (s : State) (q : QueueId) (bytes : List Byte) : QEntry :=
  { idx := ⟨(s.queue q).tail.toNat, by have := (s.queue q).tail.isLt; omega⟩, bytes := bytes, phase := .waiting
    launched := s.launchReached (descOf bytes), gateMet := (entryOf bytes).readyAddr == 0
    lastPoll := none, eligibleAt := none, affinityFree := false, missed := false, flags := 0, ac := 0, stall := none, placedAt := 0, start := 0
    asked := false }

/-- The queue with an entry at its tail. -/
def enqueued (e : QEntry) (x : Queue) : Queue :=
  { x with entries := x.entries ++ [e], tail := BitVec.ofNat 12 ((e.idx.val + 1) % x.size) }

/-- The state in which an appended entry stands at the tail, before it is admitted or linked. -/
def joinQueue (s : State) (q : QueueId) (bytes : List Byte) : State :=
  (s.qmWrite ((s.queue q).entryAddr (newEntry s q bytes).idx.val + 96) (List.replicate 32 0)).modQueue q (enqueued (newEntry s q bytes))

theorem joinQueue_touches (s : State) (q : QueueId) (bytes : List Byte) : Touches entryParts s (joinQueue s q bytes) :=
  (qmWrite_touches s _ _).andThen (modQueue_touches _ q _)

/-- An entry of an ordinary queue is linked to the one before it. -/
theorem takeIn_of_ordinary {s : State} {q : QueueId} (h : (s.queue q).fallback = false) (bytes : List Byte) :
    s.takeIn q bytes = (joinQueue s q bytes).relink q (newEntry s q bytes).idx := by
  unfold State.takeIn
  simp only [h]
  rfl

/-- An entry of a fallback queue is admitted to the reserve, or retired. -/
theorem takeIn_of_fallback {s : State} {q : QueueId} (h : (s.queue q).fallback = true) (bytes : List Byte) :
    s.takeIn q bytes = match (joinQueue s q bytes).admitEntry (s.queue q).cell (entryOf bytes).cost with
      | some (n, t) => t.rewriteEntry q (newEntry s q bytes).idx (setPin n)
      | none => (((joinQueue s q bytes).devInc .qmNotAdmitted).tdc .tdcSched (s.queue q).cell 1).retire q (newEntry s q bytes).idx
          oNotAdmitted 0 := by
  unfold State.takeIn
  simp only [h]
  rfl

/-- What the appending of an entry to a fallback queue may change: no stall. -/
abbrev fallbackParts : List Part := [.qm, .mem, .dev, .fab, .host, .pwr, .qps, .valley, .out, .free, .cells]

theorem takeIn_fallback_touches {s : State} {q : QueueId} (h : (s.queue q).fallback = true) (bytes : List Byte) :
    Touches fallbackParts s (s.takeIn q bytes) := by
  rw [takeIn_of_fallback h]
  have hj := joinQueue_touches s q bytes
  split
  · rename_i n t ht
    exact (hj.andThen (admitEntry_touches ht) (rs := entryParts)).andThen (rewriteEntry_touches t q _ _)
  · exact ((hj.andThen (devInc_touches _) (rs := fallbackParts)).andThen (tdc_touches _ _ 1) (rs := fallbackParts)).andThen
      (retire_touches _ q _ _ 0)

theorem takeIn_touches (s : State) (q : QueueId) (bytes : List Byte) : Touches appendParts s (s.takeIn q bytes) := by
  cases h : (s.queue q).fallback with
  | true => exact (takeIn_fallback_touches h bytes).mono
  | false => rw [takeIn_of_ordinary h]; exact (joinQueue_touches s q bytes).andThen (relink_touches _ q _)

theorem queue_of_qm {s t : State} (h : t.qm = s.qm) (q : QueueId) : t.queue q = s.queue q := by rw [State.queue, h]; rfl

theorem Touches.queue {ps : List Part} {s t : State} (h : Touches ps s t) (q : QueueId) (hp : Part.qm ∉ ps := by decide) :
    t.queue q = s.queue q := queue_of_qm (h.part .qm hp) q

theorem append_fallback_touches {s : State} {q : QueueId} (h : (s.queue q).fallback = true) (bytes : List Byte) :
    Touches fallbackParts s (s.append q bytes) :=
  (qmWrite_touches s _ _).andThen (takeIn_fallback_touches (by rw [(qmWrite_touches s _ _).queue q]; exact h) bytes)

theorem append_touches (s : State) (q : QueueId) (bytes : List Byte) : Touches appendParts s (s.append q bytes) :=
  (qmWrite_touches s _ _).andThen (takeIn_touches _ q bytes)

/-! ### Rings: tail and configuration of every queue -/

/-- Tail and configuration of every queue are the same. -/
def SameRings (s t : State) : Prop := ∀ q, (t.queue q).tail = (s.queue q).tail ∧ (t.queue q).cfg = (s.queue q).cfg

namespace SameRings

theorem refl (s : State) : SameRings s s := fun _ => ⟨rfl, rfl⟩

theorem trans {s t u : State} (h : SameRings s t) (k : SameRings t u) : SameRings s u :=
  fun q => ⟨(k q).1.trans (h q).1, (k q).2.trans (h q).2⟩

theorem of_touches {ps : List Part} {s t : State} (h : Touches ps s t) (hp : Part.qm ∉ ps := by decide) : SameRings s t :=
  fun q => by rw [h.queue q hp]; exact ⟨rfl, rfl⟩

theorem of_queues {s t : State} (h : ∀ q, t.queue q = s.queue q) : SameRings s t := fun q => by rw [h q]; exact ⟨rfl, rfl⟩

theorem ite {s t u : State} {c : Prop} [Decidable c] (ht : SameRings s t) (hu : SameRings s u) : SameRings s (if c then t else u) := by
  split
  · exact ht
  · exact hu

theorem foldl {α : Type} (f : State → α → State) (hf : ∀ s a, SameRings s (f s a)) (l : List α) (s : State) :
    SameRings s (l.foldl f s) := by
  induction l generalizing s with
  | nil => exact refl s
  | cons a l ih => exact (hf s a).trans (ih (f s a))

theorem size {s t : State} (h : SameRings s t) (q : QueueId) : (t.queue q).size = (s.queue q).size := by
  rw [Queue.size, Queue.log2, (h q).2]; rfl

end SameRings

theorem modQueue_rings (s : State) (q : QueueId) {f : Queue → Queue} (hf : (f (s.queue q)).tail = (s.queue q).tail ∧ (f (s.queue q)).cfg = (s.queue q).cfg) :
    SameRings s (s.modQueue q f) := fun p => by
  rw [queue_modQueue]
  split
  · subst q; exact hf
  · exact ⟨rfl, rfl⟩

theorem modEntry_rings (s : State) (q : QueueId) (i : Fin 4096) (f : QEntry → QEntry) : SameRings s (s.modEntry q i f) :=
  modQueue_rings s q ⟨rfl, rfl⟩

theorem rewriteEntry_rings (s : State) (q : QueueId) (i : Fin 4096) (f : List Byte → List Byte) : SameRings s (s.rewriteEntry q i f) := by
  unfold State.rewriteEntry
  split
  · exact (modEntry_rings s q i _).trans (.of_touches (qmWrite_touches _ _ _))
  · exact .refl s

theorem passHead_ring (l : List QEntry) (x : Queue) : (x.passHead l).tail = x.tail ∧ (x.passHead l).cfg = x.cfg := by
  induction l generalizing x with
  | nil => exact ⟨rfl, rfl⟩
  | cons e l ih =>
    unfold Queue.passHead
    split
    · exact ih _
    · exact ⟨rfl, rfl⟩

theorem retire_rings (s : State) (q : QueueId) (i : Fin 4096) (o : Byte) (rows : Nat) : SameRings s (s.retire q i o rows) := by
  cases he : s.entry q i with
  | none => rw [retire_none he]; exact .refl s
  | some e =>
    obtain ⟨rec_, hr⟩ := retire_eq he o rows
    have hm : SameRings s (markRetired s q i rec_) := (((SameRings.of_touches (qmWrite_touches s _ _)).trans (.of_touches (trace_touches _ _))).trans
      (modEntry_rings _ q i _)).trans (modQueue_rings _ q (passHead_ring _ _))
    rw [hr]
    exact .ite (hm.trans (.of_touches (arrive_touches _ _ _))) hm

theorem admitEntry_rings {s t : State} {c : CellId} {cost : Nat} {n : StallId} (h : s.admitEntry c cost = some (n, t)) : SameRings s t := by
  unfold State.admitEntry at h
  split at h
  · cases h
  split at h
  · cases h
  split at h
  · cases h
  split at h
  · cases h; exact .of_queues fun _ => rfl
  · cases h

theorem unplace_rings (s : State) (q : QueueId) (i : Fin 4096) (ac : Nat) (f : QEntry → QEntry) : SameRings s (s.unplace q i ac f) :=
  (modQueue_rings s q ⟨rfl, rfl⟩).trans (modEntry_rings _ q i _)

theorem requeue_rings (s : State) (q : QueueId) (i : Fin 4096) : SameRings s (s.requeue q i) := by
  unfold State.requeue
  split
  · exact .refl s
  rename_i e he
  dsimp only
  refine .trans ?_ (.of_touches (devInc_touches _))
  have h1 : SameRings s (match e.phase with | .placed m g => s.freeEngine m g | _ => s) := by
    split
    · exact .of_touches (freeEngine_touches s _ _)
    · exact .refl s
  have h2 := h1.trans (rewriteEntry_rings _ q i fun b => setResume false (clearPin b))
  exact .ite (h2.trans (modEntry_rings _ q i _)) (h2.trans (unplace_rings _ q i _ _))

theorem recall_ring {x y : Queue} (h : x.recall = some y) : y.tail = x.tail ∧ y.cfg = x.cfg := by
  unfold Queue.recall at h
  split at h
  · cases h
  · split at h
    · cases h; exact ⟨rfl, rfl⟩
    · cases h

theorem lost_ring (x : Queue) (n : StallId) : (x.lost n).1.tail = x.tail ∧ (x.lost n).1.cfg = x.cfg := by
  unfold Queue.lost
  dsimp only
  split
  · rename_i y hy
    split
    · exact recall_ring hy
    · exact ⟨rfl, rfl⟩
  · exact ⟨rfl, rfl⟩

theorem requeueLost_rings (s : State) (n : StallId) (q : QueueId) : SameRings s (s.requeueLost n q) :=
  (modQueue_rings s q (lost_ring _ n)).trans (.foldl _ (fun s i => requeue_rings s q i) _ _)

theorem relink_rings (s : State) (q : QueueId) (i : Fin 4096) : SameRings s (s.relink q i) := by
  unfold State.relink
  split
  · exact .ite (requeueLost_rings s _ q) (.refl s)
  · exact .refl s

/-- Taking an entry in moves nothing but the tail that its joining moves. -/
theorem takeIn_rings (s : State) (q : QueueId) (bytes : List Byte) : SameRings (joinQueue s q bytes) (s.takeIn q bytes) := by
  cases h : (s.queue q).fallback with
  | false => rw [takeIn_of_ordinary h]; exact relink_rings _ q _
  | true =>
    rw [takeIn_of_fallback h]
    split
    · rename_i n t ht
      exact (admitEntry_rings ht).trans (rewriteEntry_rings t q _ _)
    · exact ((SameRings.of_touches (devInc_touches _)).trans (.of_touches (tdc_touches _ _ 1))).trans (retire_rings _ q _ _ 0)

theorem queueCore_ring (x : Queue) : (queueCore x).tail = x.tail ∧ (queueCore x).cfg = x.cfg := ⟨rfl, rfl⟩

theorem settle_rings (s0 s : State) : SameRings s (State.settle s0 s) := fun q => by
  rw [← (queueCore_ring ((State.settle s0 s).queue q)).1, ← (queueCore_ring ((State.settle s0 s).queue q)).2, settle_core]
  exact queueCore_ring _

theorem queue_joinQueue (s : State) (q p : QueueId) (bytes : List Byte) :
    (joinQueue s q bytes).queue p = if q = p then enqueued (newEntry s q bytes) (s.queue q) else s.queue p := by
  simp only [joinQueue, queue_modQueue, (qmWrite_touches s _ _).queue]

/-- Where an appended entry leaves the tail. -/
theorem append_ring (s : State) (q p : QueueId) (bytes : List Byte) : ((s.append q bytes).queue p).cfg = (s.queue p).cfg ∧
    ((s.append q bytes).queue p).tail = if q = p then BitVec.ofNat 12 (((s.queue q).tail.toNat + 1) % (s.queue q).size) else (s.queue p).tail := by
  have hw := (qmWrite_touches s ((s.queue q).entryAddr (s.queue q).tail.toNat) bytes).queue
  have hj := takeIn_rings (s.qmWrite ((s.queue q).entryAddr (s.queue q).tail.toNat) bytes) q bytes p
  rw [queue_joinQueue] at hj
  refine ⟨hj.2.trans ?_, hj.1.trans ?_⟩
  · split
    · subst q; rw [hw]; rfl
    · rw [hw]
  · split
    · subst q; simp only [enqueued, newEntry, hw]
    · rw [hw]

/-- The tail of a queue as a number below its size. -/
theorem append_tail (s : State) (q p : QueueId) (bytes : List Byte) (h : (s.queue p).tail.toNat < (s.queue p).size) :
    ((s.append q bytes).queue p).size = (s.queue p).size ∧
    ((s.append q bytes).queue p).tail.toNat = ((s.queue p).tail.toNat + (if q = p then 1 else 0)) % (s.queue p).size := by
  obtain ⟨hc, ht⟩ := append_ring s q p bytes
  refine ⟨by rw [Queue.size, Queue.log2, hc]; rfl, ?_⟩
  rw [ht]
  have hs : (s.queue p).size ≤ 4096 := Nat.pow_le_pow_right (n := 2) (by decide) (Nat.min_le_left 12 _)
  split
  · subst q
    have := Nat.mod_lt ((s.queue p).tail.toNat + 1) (Nat.lt_of_le_of_lt (Nat.zero_le _) h)
    rw [BitVec.toNat_ofNat, Nat.mod_eq_of_lt (by omega)]
  · rw [Nat.add_zero, Nat.mod_eq_of_lt h]

/-- The tails after a list of entries, each appended to the queue it names. -/
theorem append_foldl_tail (es : List (List Byte)) (s : State) (p : QueueId) (h : (s.queue p).tail.toNat < (s.queue p).size) :
    ((es.foldl (fun s b => s.append (entryQueue b) b) s).queue p).tail.toNat =
      ((s.queue p).tail.toNat + (es.filter fun b => entryQueue b == p).length) % (s.queue p).size := by
  induction es generalizing s with
  | nil => exact (Nat.mod_eq_of_lt h).symm
  | cons b es ih =>
    obtain ⟨hsize, htail⟩ := append_tail s (entryQueue b) p b h
    have hlt : ((s.append (entryQueue b) b).queue p).tail.toNat < ((s.append (entryQueue b) b).queue p).size := by
      rw [hsize, htail]; exact Nat.mod_lt _ (Nat.lt_of_le_of_lt (Nat.zero_le _) h)
    rw [List.foldl_cons, ih _ hlt, hsize, htail, List.filter_cons]
    by_cases e : entryQueue b = p
    · simp only [e, beq_self_eq_true, if_true, List.length_cons, Nat.mod_add_mod]; congr 1; omega
    · simp [e]

/-! ### The cells, but for their account of lost determinism -/

/-- Every cell is the same but for the events of Table 13-2 that it counts. -/
def CellsButTdc (s t : State) : Prop := ∀ c, t.cell c = { s.cell c with tdc := (t.cell c).tdc }

namespace CellsButTdc

theorem of_touches {ps : List Part} {s t : State} (h : Touches ps s t) (hp : Part.cells ∉ ps := by decide) : CellsButTdc s t :=
  fun c => by rw [h.cell c hp]

theorem refl (s : State) : CellsButTdc s s := fun _ => rfl

theorem trans {s t u : State} (h : CellsButTdc s t) (k : CellsButTdc t u) : CellsButTdc s u := fun c => by rw [k c, h c]

theorem foldl {α : Type} (f : State → α → State) (hf : ∀ s a, CellsButTdc s (f s a)) (l : List α) (s : State) :
    CellsButTdc s (l.foldl f s) := by
  induction l generalizing s with
  | nil => exact refl s
  | cons a l ih => exact (hf s a).trans (ih (f s a))

/-- Where the account of the cell alone grows. -/
theorem tdc (s : State) (i : DevCtr) (c : CellId) (k : Nat) : CellsButTdc s (s.tdc i c k) := fun d => by
  by_cases h : c = d
  · subst h; rw [State.tdc, cell_modCell_same]; rfl
  · rw [State.tdc, cell_modCell_ne _ _ h]; rfl

end CellsButTdc

/-- What takes an entry in changes of the cells only the account of the cell whose fallback queue it is. -/
structure CellsOfQueue (c : CellId) (s t : State) : Prop where
  but : CellsButTdc s t
  other : OtherCells c s t

namespace CellsOfQueue

theorem of_touches {ps : List Part} {c : CellId} {s t : State} (h : Touches ps s t) (hp : Part.cells ∉ ps := by decide) : CellsOfQueue c s t :=
  ⟨.of_touches h hp, h.otherCells c hp⟩

theorem trans {c : CellId} {s t u : State} (h : CellsOfQueue c s t) (k : CellsOfQueue c t u) : CellsOfQueue c s u :=
  ⟨h.but.trans k.but, otherCells_trans h.other k.other⟩

end CellsOfQueue

theorem takeIn_cells (s : State) (q : QueueId) (bytes : List Byte) : CellsOfQueue (s.queue q).cell s (s.takeIn q bytes) := by
  have hj : CellsOfQueue (s.queue q).cell s (joinQueue s q bytes) := .of_touches (joinQueue_touches s q bytes)
  cases h : (s.queue q).fallback with
  | false => rw [takeIn_of_ordinary h]; exact hj.trans (.of_touches (relink_touches _ q _))
  | true =>
    rw [takeIn_of_fallback h]
    split
    · rename_i n t ht
      exact (hj.trans (.of_touches (admitEntry_touches ht))).trans (.of_touches (rewriteEntry_touches t q _ _))
    · exact ((hj.trans (.of_touches (devInc_touches _))).trans ⟨.tdc _ _ _ 1, otherCells_tdc _ _ _ 1⟩).trans (.of_touches (retire_touches _ q _ _ 0))

theorem append_cells (s : State) (q : QueueId) (bytes : List Byte) : CellsOfQueue (s.queue q).cell s (s.append q bytes) := by
  have hw := qmWrite_touches s ((s.queue q).entryAddr (s.queue q).tail.toNat) bytes
  have ht := takeIn_cells (s.qmWrite ((s.queue q).entryAddr (s.queue q).tail.toNat) bytes) q bytes
  rw [hw.queue q] at ht
  exact (CellsOfQueue.of_touches hw).trans ht

end Sys2Proof.Safety
end

/-! Uplink slots, units and blocks, and what HARQ storage leaves of them (R22, R42, R177-R181). -/
section
namespace Sys2Proof.Safety
open Sys2Proof.Machine

/-! ### Reading back a slot, a unit, a block -/

theorem ulSlot_modUl (s : State) (c : CellId) (a : AirSlot) {f : UlSlot → UlSlot} (hf : ∀ u, (f u).air = u.air) :
    (s.modUl c a f).ulSlot c a = (s.ulSlot c a).map f := by
  simp only [State.ulSlot, State.modUl, cell_modCell_same]
  exact find_key_map UlSlot.air hf a _

theorem ulUnit_modUnit (s : State) (r : BlockRef) (f : UlUnit → UlUnit) : (s.modUnit r f).ulUnit r = (s.ulUnit r).map f := by
  rw [State.ulUnit, State.modUnit, ulSlot_modUl _ _ _ (f := fun u => { u with units := u.units.modify r.unit f }) fun _ => rfl, State.ulUnit]
  cases s.ulSlot r.cell r.air with
  | none => rfl
  | some u => simp

theorem ulBlock_modBlock (s : State) (r : BlockRef) (f : UlBlock → UlBlock) : (s.modBlock r f).ulBlock r = (s.ulBlock r).map f := by
  rw [State.ulBlock, State.modBlock, ulUnit_modUnit, State.ulBlock]
  cases s.ulUnit r with
  | none => rfl
  | some u => simp

theorem ulSlot_of_cell {s t : State} {c : CellId} (h : (t.cell c).ul = (s.cell c).ul) (a : AirSlot) : t.ulSlot c a = s.ulSlot c a := by
  rw [State.ulSlot, h]; rfl

theorem ulUnit_of_slot {s t : State} {r : BlockRef} (h : t.ulSlot r.cell r.air = s.ulSlot r.cell r.air) : t.ulUnit r = s.ulUnit r := by
  rw [State.ulUnit, h]; rfl

theorem ulBlock_of_unit {s t : State} {r : BlockRef} (h : t.ulUnit r = s.ulUnit r) : t.ulBlock r = s.ulBlock r := by
  rw [State.ulBlock, h]; rfl

theorem ulBlock_of_cell {s t : State} {r : BlockRef} (h : (t.cell r.cell).ul = (s.cell r.cell).ul) : t.ulBlock r = s.ulBlock r :=
  ulBlock_of_unit (ulUnit_of_slot (ulSlot_of_cell h _))

theorem Touches.ulBlock {ps : List Part} {s t : State} (h : Touches ps s t) (r : BlockRef) (hp : Part.cells ∉ ps := by decide) :
    t.ulBlock r = s.ulBlock r := ulBlock_of_cell (by rw [h.cell r.cell hp])

theorem ulUnit_of_cell {s t : State} {r : BlockRef} (h : (t.cell r.cell).ul = (s.cell r.cell).ul) : t.ulUnit r = s.ulUnit r :=
  ulUnit_of_slot (ulSlot_of_cell h _)

/-- A slot's stamp moves no unit. -/
@[simp] theorem stamp_units (u : UlSlot) (now : Int) : (u.stamp now).units = u.units := by unfold UlSlot.stamp; split <;> rfl

@[simp] theorem stamp_air (u : UlSlot) (now : Int) : (u.stamp now).air = u.air := by unfold UlSlot.stamp; split <;> rfl

theorem ulUnit_stamp (s : State) (r : BlockRef) (now : Int) : (s.modUl r.cell r.air (·.stamp now)).ulUnit r = s.ulUnit r := by
  rw [State.ulUnit, ulSlot_modUl (hf := fun u => stamp_air u now), State.ulUnit]
  cases s.ulSlot r.cell r.air with
  | none => rfl
  | some u => simp

theorem modUl_touches (s : State) (c : CellId) (a : AirSlot) (f : UlSlot → UlSlot) : Touches [.cells] s (s.modUl c a f) :=
  modCell_touches s c _

theorem modUnit_touches (s : State) (r : BlockRef) (f : UlUnit → UlUnit) : Touches [.cells] s (s.modUnit r f) := modCell_touches s r.cell _

theorem modBlock_touches (s : State) (r : BlockRef) (f : UlBlock → UlBlock) : Touches [.cells] s (s.modBlock r f) :=
  modCell_touches s r.cell _

theorem otherCells_modUl (s : State) (c : CellId) (a : AirSlot) (f : UlSlot → UlSlot) : OtherCells c s (s.modUl c a f) :=
  otherCells_modCell s c _

theorem otherCells_modUnit (s : State) (r : BlockRef) (f : UlUnit → UlUnit) : OtherCells r.cell s (s.modUnit r f) :=
  otherCells_modCell s r.cell _

theorem otherCells_modBlock (s : State) (r : BlockRef) (f : UlBlock → UlBlock) : OtherCells r.cell s (s.modBlock r f) :=
  otherCells_modCell s r.cell _

theorem sameSettings_modUl (s : State) (c : CellId) (a : AirSlot) (f : UlSlot → UlSlot) : SameSettings s (s.modUl c a f) := .modCell s c _

theorem sameSettings_modBlock (s : State) (r : BlockRef) (f : UlBlock → UlBlock) : SameSettings s (s.modBlock r f) := .modCell s r.cell _

/-! ### What HARQ storage leaves of a cell -/

/-- A unit but for the grant of its pages. -/
def bareUnit (u : UlUnit) : UlUnit := { u with pages := none }

/-- A slot but for the grants of its units' pages. -/
def bareSlot (u : UlSlot) : UlSlot := { u with units := u.units.map bareUnit }

/-- The counters of a cell that HARQ storage raises. -/
def poolCtrs : List (Fin 44) := [CellCtr.harqCombined.idx, CellCtr.harqNoSpace.idx, CellCtr.harqMismatch.idx]

/-- What HARQ storage may change. -/
abbrev harqParts : List Part := [.cells, .harq, .mem, .host, .dev, .qps, .valley, .out]

/-- HARQ storage for cell c: of its cell only the grants of pages and the counters of the pool change. -/
structure HarqKept (c : CellId) (s t : State) : Prop where
  touches : Touches harqParts s t
  other : OtherCells c s t
  cell : t.cell c = { s.cell c with ul := (t.cell c).ul, ctr := (t.cell c).ctr }
  ctr : ∀ i, i ∉ poolCtrs → vget (t.cell c).ctr i = vget (s.cell c).ctr i
  ul : (t.cell c).ul.map bareSlot = (s.cell c).ul.map bareSlot

namespace HarqKept

theorem refl (c : CellId) (s : State) : HarqKept c s s := ⟨.refl _ s, otherCells_refl c s, rfl, fun _ _ => rfl, rfl⟩

theorem trans {c : CellId} {s t u : State} (h : HarqKept c s t) (k : HarqKept c t u) : HarqKept c s u :=
  ⟨h.touches.trans k.touches, otherCells_trans h.other k.other, by rw [k.cell, h.cell], fun i hi => (k.ctr i hi).trans (h.ctr i hi),
    k.ul.trans h.ul⟩

theorem foldl {α : Type} {c : CellId} (f : State → α → State) (hf : ∀ s a, HarqKept c s (f s a)) (l : List α) (s : State) :
    HarqKept c s (l.foldl f s) := by
  induction l generalizing s with
  | nil => exact refl c s
  | cons a l ih => exact (hf s a).trans (ih (f s a))

/-- What leaves the cells alone. -/
theorem of_touches {ps : List Part} {c : CellId} {s t : State} (h : Touches ps s t) (hp : ∀ p ∈ ps, p ∈ harqParts := by decide)
    (hc : Part.cells ∉ ps := by decide) : HarqKept c s t :=
  ⟨h.mono hp, h.otherCells c hc, by rw [h.cell c hc], fun _ _ => by rw [h.cell c hc], by rw [h.cell c hc]⟩

/-- A grant of pages noted in a unit. -/
theorem modUnit (s : State) (r : BlockRef) {f : UlUnit → UlUnit} (hf : ∀ u, bareUnit (f u) = bareUnit u) :
    HarqKept r.cell s (s.modUnit r f) := by
  refine ⟨(modUnit_touches s r f).mono, otherCells_modUnit s r f, by simp [State.modUnit, State.modUl], fun i _ => by simp [State.modUnit, State.modUl], ?_⟩
  have hm : ∀ (l : List UlUnit) (n : Nat), (l.modify n f).map bareUnit = l.map bareUnit := fun l n => by
    apply List.ext_getElem?
    intro i
    simp only [List.getElem?_map, List.getElem?_modify]
    split <;> cases l[i]? <;> simp [hf]
  simp only [State.modUnit, State.modUl, cell_modCell_same, List.map_map]
  apply List.map_congr_left
  intro u _
  simp only [Function.comp]
  split
  · simp only [bareSlot, hm]
  · rfl

/-- A count of the pool. -/
theorem count (s : State) (c : CellId) {i : CellCtr} (k : Nat) (hi : i.idx ∈ poolCtrs := by decide) : HarqKept c s (s.cellAdd c i k) := by
  refine ⟨(modCell_touches s c _).mono, otherCells_modCell s c _, by simp [State.cellAdd, Cell.add], fun j hj => ?_, by simp [State.cellAdd, Cell.add]⟩
  have : i.idx ≠ j := fun e => hj (e ▸ hi)
  simp [State.cellAdd, Cell.add, this]

variable {c : CellId} {s t : State}

theorem slot (h : HarqKept c s t) (a : AirSlot) : (t.ulSlot c a).map bareSlot = (s.ulSlot c a).map bareSlot := by
  have hm : ∀ x : State, (x.ulSlot c a).map bareSlot = ((x.cell c).ul.map bareSlot).find? fun u => u.air == a := fun x => by
    rw [State.ulSlot, List.find?_map]; rfl
  rw [hm, hm, h.ul]

/-- A unit is the same but for the grant of its pages. -/
theorem unit (h : HarqKept c s t) {r : BlockRef} (hr : r.cell = c) : (t.ulUnit r).map bareUnit = (s.ulUnit r).map bareUnit := by
  have hm : ∀ x : State, (x.ulUnit r).map bareUnit = ((x.ulSlot r.cell r.air).map bareSlot).bind fun u => u.units[r.unit]? := fun x => by
    rw [State.ulUnit]; cases x.ulSlot r.cell r.air <;> simp [bareSlot]
  rw [hm, hm, hr, h.slot]

/-- Every block is the same. -/
theorem block (h : HarqKept c s t) {r : BlockRef} (hr : r.cell = c) : t.ulBlock r = s.ulBlock r := by
  have hm : ∀ x : State, x.ulBlock r = ((x.ulUnit r).map bareUnit).bind fun u => u.blocks[r.cb]? := fun x => by
    rw [State.ulBlock]; cases x.ulUnit r <;> rfl
  rw [hm, hm, h.unit hr]

theorem length (h : HarqKept c s t) : (t.cell c).ul.length = (s.cell c).ul.length := by
  simpa using congrArg List.length h.ul

end HarqKept

/-! ### The operations on the pool -/

/-- The number of the pool at which a page of a block is put: that of the page it replaces, or a free one. -/
def pageNumber (s : State) (p : HarqPage) : Nat :=
  match s.harq.pages.find? fun q => q.isOf p.cell p.rnti p.harqId && q.cb == p.cb with
  | some q => q.number
  | none => s.harq.freePage

/-- A page goes to its number of the pool, and to memory there. -/
theorem putPage_eq (s : State) (p : HarqPage) : ∃ l, s.putPage p =
    { withPages s l with mem := memWrite s.mem (s.harq.pageAddr (pageNumber s p)) p.bytes } :=
  ⟨(s.harq.pages.filter fun q => !(q.isOf p.cell p.rnti p.harqId && q.cb == p.cb)) ++ [{ p with number := pageNumber s p }], rfl⟩

theorem putPage_touches (s : State) (p : HarqPage) : Touches [.harq, .mem] s (s.putPage p) := by
  obtain ⟨l, h⟩ := putPage_eq s p
  rw [h]
  exact (withPages_touches s l).andThen (setMem_touches _ _)

theorem harqStore_touches (s : State) (p : HarqPage) : Touches [.harq, .mem, .qps, .valley, .out] s (s.harqStore p) :=
  (putPage_touches s p).andThen (mirror_touches _ _)

theorem harqFree_touches (s : State) (c : CellId) (rnti : BitVec 16) (h : Byte) : Touches [.harq, .qps, .valley, .out] s (s.harqFree c rnti h) := by
  unfold State.harqFree
  split
  · exact (withPages_touches s _).andThen (mirror_touches _ _)
  · exact .refl _ s

theorem harqStores_kept {α : Type} (c : CellId) (f : α → HarqPage) (l : List α) (s : State) :
    HarqKept c s (l.foldl (fun s b => s.harqStore (f b)) s) :=
  .foldl _ (fun s b => .of_touches (harqStore_touches s (f b))) l s

theorem harqKeep_kept (s : State) (r : BlockRef) : HarqKept r.cell s (s.harqKeep r) := by
  unfold State.harqKeep
  split
  · exact .refl _ s
  split
  · exact .refl _ s
  split
  · exact .refl _ s
  split
  · refine (HarqKept.modUnit s r (f := fun u => { u with pages := some true }) fun _ => rfl).trans ?_
    exact harqStores_kept r.cell _ _ _
  · refine (HarqKept.modUnit s r (f := fun u => { u with pages := some false }) fun _ => rfl).trans ?_
    exact (HarqKept.count _ r.cell 1).trans (.of_touches (raise_touches _ _ _ _))

theorem harqKeepAll_kept (s : State) (c : CellId) (a : AirSlot) (n : Nat) : HarqKept c s (s.harqKeepAll c a n) := by
  refine .foldl _ (fun s i => ?_) _ s
  split
  · split
    · exact harqKeep_kept s ⟨c, a, i, 0⟩
    · exact .refl c s
  · exact .refl c s

theorem harqSoft_kept (s : State) (r : BlockRef) (d : Decoded) : HarqKept r.cell s (s.harqSoft r d) := by
  unfold State.harqSoft
  split
  · dsimp only
    have h := HarqKept.count s r.cell (i := .harqCombined) (bitNat d.combined)
    split
    · exact h.trans (.of_touches (harqStore_touches _ _))
    · exact h
  · exact .refl _ s

theorem harqAck_kept (s : State) (r : BlockRef) : HarqKept r.cell s (s.harqAck r) := by
  unfold State.harqAck
  split
  · split
    · exact .of_touches (harqFree_touches s _ _ _)
    · exact .refl _ s
  · exact .refl _ s

end Sys2Proof.Safety
end

/-! The release of a plan, and the windows of reserves (R12, R15, R17, R46, R261, R269). -/
section
namespace Sys2Proof.Safety
open Sys2Proof.Machine

/-! ### What a read depends on -/

/-- Memory, power and firewall are such that every read reads the same. -/
structure SameReads (s t : State) : Prop where
  mem : t.mem = s.mem
  pwr : t.pwr = s.pwr
  base : t.fab.fwBase = s.fab.fwBase
  limit : t.fab.fwLimit = s.fab.fwLimit
  attr : t.fab.fwAttr = s.fab.fwAttr

theorem SameReads.refl (s : State) : SameReads s s := ⟨rfl, rfl, rfl, rfl, rfl⟩

theorem SameReads.trans {s t u : State} (h : SameReads s t) (k : SameReads t u) : SameReads s u :=
  ⟨k.mem.trans h.mem, k.pwr.trans h.pwr, k.base.trans h.base, k.limit.trans h.limit, k.attr.trans h.attr⟩

theorem SameReads.symm {s t : State} (h : SameReads s t) : SameReads t s :=
  ⟨h.mem.symm, h.pwr.symm, h.base.symm, h.limit.symm, h.attr.symm⟩

/-- What names neither memory nor fabric nor power. -/
theorem SameReads.of_only {ps : List Part} {s t : State} (h : OnlyChanges ps s t) (hm : Part.mem ∉ ps := by decide)
    (hp : Part.pwr ∉ ps := by decide) (hf : Part.fab ∉ ps := by decide) : SameReads s t := by
  have h1 : t.fab = s.fab := h.2 .fab hf
  exact ⟨h.2 .mem hm, h.2 .pwr hp, by rw [h1], by rw [h1], by rw [h1]⟩

theorem SameReads.refused {s t : State} (h : SameReads s t) (src : Source) (w : Bool) (off n : Nat) :
    t.fwRefused src w off n = s.fwRefused src w off n := by
  simp only [State.fwRefused, State.byteAllowed, State.regionOf, State.quadOn, State.domainOn, Fabric.inRegion, h.pwr, h.base, h.limit, h.attr]
  rfl

/-- A read gives the same bytes. -/
theorem SameReads.read {s t : State} (h : SameReads s t) (src : Source) (a n : Nat) : (t.agentRead src a n).1 = (s.agentRead src a n).1 := by
  simp only [State.agentRead]
  split
  · simp only [State.localRead, State.domainOn, h.pwr, h.mem]
    rfl
  · simp only [State.plainRead, h.refused]
    split
    · rw [h.mem]
    · rfl
  · rw [h.mem]
  · rfl

/-- A violation is recorded, and the firewall stays as it is. -/
theorem fwViolation_reads (s : State) (src : Source) (w : Bool) (a b : Nat) : SameReads s (s.fwViolation src w a b) := by
  unfold State.fwViolation
  refine SameReads.trans ?_ (.of_only (raise_touches _ _ _ _).only)
  exact ⟨rfl, rfl, rfl, rfl, rfl⟩

/-- A read changes nothing that a later read depends on. -/
theorem agentRead_reads (s : State) (src : Source) (a n : Nat) : SameReads s (s.agentRead src a n).2 := by
  unfold State.agentRead
  split
  · exact .refl s
  · dsimp only [State.plainRead]
    split
    · exact .refl s
    · exact fwViolation_reads s src _ _ _
  · exact .refl s
  · exact .refl s

/-- Entries read one after another are those read from a state that reads the same. -/
theorem readEntries_reads (n : Nat) {s t : State} (h : SameReads s t) (a : Nat) : (t.readEntries a n).1 = (s.readEntries a n).1 := by
  induction n generalizing s t a with
  | zero => rfl
  | succ n ih =>
    simp only [State.readEntries, h.read]
    rw [ih (((agentRead_reads s _ a 96).symm.trans h).trans (agentRead_reads t _ a 96))]

theorem readEntries_touches (n : Nat) (s : State) (a : Nat) : Touches [.dev, .fab, .host] s (s.readEntries a n).2 := by
  induction n generalizing s a with
  | zero => exact .refl _ s
  | succ n ih => exact (agentRead_touches s _ a 96).trans (ih _ _)

/-! ### The slots of a released plan -/

/-- The uplink and the downlink air slot of a processing slot open in a cell; of its other fields only the books change. -/
structure OpensSlots (f : Cell → Cell) : Prop where
  dl : ∀ x, (f x).dl.length = x.dl.length + 1
  ul : ∀ x, (f x).ul.length = x.ul.length + 1
  ctr : ∀ x, (f x).ctr = x.ctr
  lastSlot : ∀ x, (f x).lastSlot = x.lastSlot

theorem openSlots_plan (s : State) (c : CellId) (k : Int) (us : List UnitDesc) (as : List AllocDesc) :
    ∃ f, OpensSlots f ∧ s.openSlots c k true us as = s.modCell c f := by
  unfold State.openSlots
  refine ⟨_, ⟨?_, ?_, ?_, ?_⟩, rfl⟩ <;> intro x <;> simp

theorem openSlots_noPlan (s : State) (c : CellId) (k : Int) (us : List UnitDesc) (as : List AllocDesc) :
    ∃ f a n, OpensSlots f ∧ s.openSlots c k false us as = (s.modCell c f).harqKeepAll c a n := by
  unfold State.openSlots
  refine ⟨_, _, _, ⟨?_, ?_, ?_, ?_⟩, rfl⟩ <;> intro x <;> simp

/-- What a slot without a plan leaves: its two air slots opened, and PLAN_MISSING raised (R17). -/
structure NoPlan (c : CellId) (s t : State) : Prop where
  touches : Touches harqParts s t
  other : OtherCells c s t
  dl : (t.cell c).dl.length = (s.cell c).dl.length + 1
  ul : (t.cell c).ul.length = (s.cell c).ul.length + 1
  lastSlot : (t.cell c).lastSlot = (s.cell c).lastSlot
  count : vget (t.cell c).ctr CellCtr.planMissing.idx = satAdd (vget (s.cell c).ctr CellCtr.planMissing.idx) 1

theorem noPlan_spec (s : State) (c : CellId) (k : Int) (us : List UnitDesc) (as : List AllocDesc) : NoPlan c s (s.noPlan c k us as) := by
  obtain ⟨f, a, n, hf, ho⟩ := openSlots_noPlan s c k us as
  have hk := harqKeepAll_kept (s.modCell c f) c a n
  have h1 : Touches harqParts s (s.openSlots c k false us as) := ho ▸ (modCell_touches s c f).andThen hk.touches
  have h2 : Touches harqParts s ((s.openSlots c k false us as).cellAdd c .planMissing 1) := h1.andThen (modCell_touches _ c _)
  have hr : Touches [.dev, .host] ((s.openSlots c k false us as).cellAdd c .planMissing 1) (s.noPlan c k us as) := raise_touches _ _ _ _
  have hc : (s.noPlan c k us as).cell c = ((s.openSlots c k false us as).cell c).add .planMissing 1 := by
    rw [hr.cell c, State.cellAdd, cell_modCell_same]
  have hl := hk.length
  have hn := hk.ctr CellCtr.planMissing.idx (by decide)
  have hs := hk.cell
  rw [← ho, cell_modCell_same] at hl hn hs
  refine ⟨h2.andThen hr, ?_, ?_, ?_, ?_, ?_⟩
  · refine otherCells_trans (otherCells_trans ?_ (otherCells_modCell _ c _)) (hr.otherCells c)
    rw [ho]
    exact otherCells_trans (otherCells_modCell s c f) hk.other
  · rw [hc, Cell.add, hs]; exact hf.dl _
  · rw [hc]; exact hl.trans (hf.ul _)
  · rw [hc, Cell.add, hs]; exact hf.lastSlot _
  · rw [hc]; simp only [Cell.add, vget_vmod_same]; rw [hn, hf.ctr]

/-! ### Taking a plan -/

theorem addReserve_touches (s : State) (c : CellId) (start : Int) (h : PlanHeader) : Touches [.qm, .dev] s (s.addReserve c start h) := by
  unfold State.addReserve
  dsimp only
  split
  · exact .refl _ s
  · exact (setQm_touches s _).andThen (devAdd_touches _ _)

theorem queue_addReserve (s : State) (c : CellId) (start : Int) (h : PlanHeader) (q : QueueId) : (s.addReserve c start h).queue q = s.queue q := by
  unfold State.addReserve
  dsimp only
  split
  · rfl
  · rfl

/-- The header and the entries of a plan. -/
def planHead (s : State) (addr : Nat) : List Byte := (s.agentRead Source.qm addr 64).1

def planEntries (s : State) (addr : Nat) : List (List Byte) :=
  ((s.agentRead Source.qm addr 64).2.readEntries (addr + 64) (planHeader (planHead s addr)).count).1

theorem planFits_congr {s t : State} (h : ∀ q, t.queue q = s.queue q) (es : List (List Byte)) : t.planFits es = s.planFits es := by
  simp only [State.planFits, h]

/-- A plan that fits: its reserve, its entries in plan order, and its slots. -/
theorem takePlan_fits {s : State} {addr : Nat} (hok : checkOk (planHead s addr) = true) (hn : (planHeader (planHead s addr)).count ≤ 8192)
    (hf : s.planFits (planEntries s addr) = true) (c : CellId) (k start : Int) (us : List UnitDesc) (as : List AllocDesc) :
    ∃ r, Touches [.dev, .fab, .host] s r ∧ s.takePlan c k addr start us as =
      ((planEntries s addr).foldl (fun s b => s.append (entryQueue b) b) (r.addReserve c start (planHeader (planHead s addr)))).openSlots
        c k true us as := by
  have hr : Touches [.dev, .fab, .host] s ((s.agentRead Source.qm addr 64).2.readEntries (addr + 64) (planHeader (planHead s addr)).count).2 :=
    (agentRead_touches s _ _ _).trans (readEntries_touches _ _ _)
  refine ⟨_, hr, ?_⟩
  have hb : (checkOk (planHead s addr) && decide ((planHeader (planHead s addr)).count ≤ 8192)) = true := by simp [hok, hn]
  have hfit := (planFits_congr hr.queue (planEntries s addr)).trans hf
  unfold State.takePlan
  simp only [← planHead.eq_def, hb, Bool.true_and, if_true, ← planEntries.eq_def, hfit]

/-- A plan whose CHECK does not hold: nothing is taken of it. -/
theorem takePlan_bad {s : State} {addr : Nat} (hok : checkOk (planHead s addr) = false) (c : CellId) (k start : Int) (us : List UnitDesc)
    (as : List AllocDesc) : s.takePlan c k addr start us as = ((s.agentRead Source.qm addr 64).2.devInc .qmRingFull).noPlan c k us as := by
  unfold State.takePlan
  simp [← planHead.eq_def, hok]

/-! ### The release -/

/-- Settling leaves every queue as many entries. -/
theorem settle_entries_length (s0 s : State) (q : QueueId) :
    ((State.settle s0 s).queue q).entries.length = (s.queue q).entries.length := by
  have h : ∀ x : Queue, x.entries.length = (queueCore x).entries.length := fun x => (List.length_map (as := x.entries) entryCore).symm
  rw [h, settle_core, ← h]

/-- The cell once the release of slot k is noted, with the count of missing plans ahead. -/
def notedRelease (k : Int) (ahead : Bool) (x : Cell) : Cell :=
  { x with lastSlot := if x.running then some k else x.lastSlot, depthMiss := if ahead then 0 else x.depthMiss + 1 }

/-- The state in which a due release takes its plan: the plan no longer registered, and the release noted. -/
def dueState (s : State) (c : CellId) (k : Int) (reg : Option PlanReg) : State :=
  State.depthCheck ((match reg with | some p => s.unregister c p | none => s).modCell c
    fun x => { x with lastSlot := if x.running then some k else x.lastSlot }) c k

theorem unregister_touches (s : State) (c : CellId) (p : PlanReg) : Touches [.time] s (s.unregister c p) :=
  .of_only ⟨rfl, fun p hp => by cases p <;> first | rfl | simp at hp⟩

theorem dueState_touches (s : State) (c : CellId) (k : Int) (reg : Option PlanReg) : Touches [.cells, .time] s (dueState s c k reg) := by
  have h : Touches [.cells, .time] s (match reg with | some p => s.unregister c p | none => s) := by
    cases reg with
    | none => exact .refl _ s
    | some p => exact (unregister_touches s c p).mono
  exact (h.andThen (modCell_touches _ c _) (rs := [.cells, .time])).andThen (modCell_touches _ c _)

theorem dueState_none_touches (s : State) (c : CellId) (k : Int) : Touches [.cells] s (dueState s c k none) :=
  (modCell_touches s c _).andThen (modCell_touches _ c _)

theorem cell_dueState (s : State) (c : CellId) (k : Int) (reg : Option PlanReg) :
    ∃ ahead, (dueState s c k reg).cell c = notedRelease k ahead (s.cell c) := by
  have h : ∀ s0 : State, s0.cell c = s.cell c → ∃ ahead, (State.depthCheck (s0.modCell c
      fun x => { x with lastSlot := if x.running then some k else x.lastSlot }) c k).cell c = notedRelease k ahead (s.cell c) := fun s0 h0 => by
    rw [State.depthCheck, cell_modCell_same, cell_modCell_same, h0]
    exact ⟨_, rfl⟩
  cases reg <;> exact h _ rfl

theorem otherCells_dueState (s : State) (c : CellId) (k : Int) (reg : Option PlanReg) : OtherCells c s (dueState s c k reg) := by
  have h : OtherCells c s (match reg with | some p => s.unregister c p | none => s) := by cases reg <;> exact fun _ _ => rfl
  exact otherCells_trans (otherCells_trans h (otherCells_modCell _ c _)) (otherCells_modCell _ c _)

/-- A plan that is taken is registered no longer. -/
theorem not_mem_plans_dueState (s : State) (c : CellId) (k : Int) (p : PlanReg) : p ∉ vget (dueState s c k (some p)).time.plans c := by
  have : (dueState s c k (some p)).time.plans = vmod s.time.plans c fun l => l.filter fun x => x != p := rfl
  simp [this]

/-- The release of the next slot of a running cell. -/
theorem planRelease_running {s : State} {c : CellId} {k : Int} (hst : s.time.stepped = true) (hr : (s.cell c).running = true)
    (hl : (s.cell c).lastSlot = some k) (hb : s.standby c = false) (hd : s.reached (s.releaseAt c (k + 1)) = true)
    (us : List UnitDesc) (as : List AllocDesc) {reg : Option PlanReg}
    (hreg : (vget s.time.plans c).find? (fun p => p.slot == (s.frameTiming c).air (k + 1)) = reg) :
    (∀ p, reg = some p → planReleaseEffect c us as s = State.settle s ((dueState s c (k + 1) reg).takePlan c (k + 1) p.addr.toNat
      ((s.frameTiming c).start (k + 1)) us as)) ∧
    (reg = none → (s.cell c).stopping = false → planReleaseEffect c us as s = (dueState s c (k + 1) reg).noPlan c (k + 1) us as) := by
  unfold planReleaseEffect
  simp only [hst, hr, hl, if_true, hd, hreg, hb, Bool.false_eq_true, if_false]
  refine ⟨fun p hp => ?_, fun hn hs => ?_⟩
  · subst hp; rfl
  · subst hn; simp only [hs, Bool.false_eq_true, if_false]; rfl

/-- The release of the earliest plan of a cell that does not run. -/
theorem planRelease_idle {s : State} {c : CellId} {p : PlanReg} (hst : s.time.stepped = true) (hr : (s.cell c).running = false)
    (hb : s.standby c = false) (hp : (vget s.time.plans c).find? (fun p => s.reached (ns p.release)) = some p) (us : List UnitDesc)
    (as : List AllocDesc) : ∃ k start, planReleaseEffect c us as s =
      State.settle s ((dueState s c k (some p)).takePlan c k p.addr.toNat start us as) := by
  unfold planReleaseEffect
  simp only [hst, hr, if_true, hp, hb, Bool.false_eq_true, if_false, Option.map_some]
  exact ⟨_, _, rfl⟩

/-- A plan that fits is taken whole. -/
theorem planRelease_takes {s : State} {c : CellId} {k : Int} {p : PlanReg} {es : List (List Byte)} (hst : s.time.stepped = true)
    (hr : (s.cell c).running = true) (hl : (s.cell c).lastSlot = some k) (hb : s.standby c = false)
    (hd : s.reached (s.releaseAt c (k + 1)) = true)
    (hp : (vget s.time.plans c).find? (fun p => p.slot == (s.frameTiming c).air (k + 1)) = some p)
    (hok : checkOk (planHead s p.addr.toNat) = true) (hn : (planHeader (planHead s p.addr.toNat)).count ≤ 8192)
    (hes : (s.readEntries (p.addr.toNat + 64) (planHeader (planHead s p.addr.toNat)).count).1 = es) (hf : s.planFits es = true)
    (us : List UnitDesc) (as : List AllocDesc) :
    ∃ r f start, Touches [.dev, .fab, .host] (dueState s c (k + 1) (some p)) r ∧ OpensSlots f ∧ planReleaseEffect c us as s =
      State.settle s ((es.foldl (fun s b => s.append (entryQueue b) b) (r.addReserve c start (planHeader (planHead s p.addr.toNat)))).modCell c f) := by
  have h3 := dueState_touches s c (k + 1) (some p)
  have hs : SameReads s (dueState s c (k + 1) (some p)) := .of_only h3.only
  have hhead : planHead (dueState s c (k + 1) (some p)) p.addr.toNat = planHead s p.addr.toNat := hs.read _ _ _
  have hents : planEntries (dueState s c (k + 1) (some p)) p.addr.toNat = es := by
    rw [planEntries, hhead, readEntries_reads _ (hs.trans (agentRead_reads _ _ _ _)), hes]
  obtain ⟨r, hr1, ht⟩ := takePlan_fits (hhead ▸ hok) (hhead ▸ hn) (by rw [planFits_congr h3.queue, hents, hf]) c (k + 1)
    ((s.frameTiming c).start (k + 1)) us as
  obtain ⟨f, hf, ho⟩ := openSlots_plan (es.foldl (fun s b => s.append (entryQueue b) b)
    (r.addReserve c ((s.frameTiming c).start (k + 1)) (planHeader (planHead s p.addr.toNat)))) c (k + 1) us as
  refine ⟨r, f, (s.frameTiming c).start (k + 1), hr1, hf, ?_⟩
  rw [(planRelease_running hst hr hl hb hd us as hp).1 p rfl, ht, hents, hhead, ho]

/-! ### Reserves -/

/-- The remainder of a running command added to the backlog of its stall. -/
def addBacklog (s : State) (x : Reserve) (p : StallId × Nat) : Reserve := s.setBacklog x p.1 (s.backlogAc x p.1 + p.2)

theorem backlogAc_addBacklog (s : State) (x : Reserve) (p : StallId × Nat) (n : StallId) :
    s.backlogAc (addBacklog s x p) n = s.backlogAc x n + (if p.1 = n then p.2 else 0) := by
  by_cases h : p.1 = n
  · subst h
    conv_lhs => rw [State.backlogAc, addBacklog, State.setBacklog]
    simp [State.timeAc]
  · have hf : ((x.backlog.filter fun f => f.1 != p.1).find? fun f => f.1 == n) = x.backlog.find? fun f => f.1 == n := by
      rw [List.find?_filter]
      congr 1
      funext f
      by_cases e : f.1 = n
      · simp [e, Ne.symm h]
      · simp [e]
    have hb : (addBacklog s x p).backlog = (p.1, s.backlogAc x p.1 + p.2, s.now) :: x.backlog.filter fun f => f.1 != p.1 := rfl
    conv_lhs => rw [State.backlogAc, hb]
    simp only [List.find?_cons, beq_eq_false_iff_ne.2 h, hf, if_neg h, Nat.add_zero]
    rfl

/-- Remainders added one after the other: only backlogs change, each by the sum of its stall's remainders. -/
theorem foldl_addBacklog (s : State) (l : List (StallId × Nat)) (x : Reserve) :
    let y := l.foldl (addBacklog s) x
    y = { x with backlog := y.backlog } ∧ ∀ n, s.backlogAc y n = s.backlogAc x n + ((l.filter fun p => p.1 == n).map (·.2)).sum := by
  induction l generalizing x with
  | nil => exact ⟨rfl, fun n => rfl⟩
  | cons p l ih =>
    obtain ⟨h1, h2⟩ := ih (addBacklog s x p)
    refine ⟨h1, fun n => ?_⟩
    rw [List.foldl_cons, h2 n, backlogAc_addBacklog, List.filter_cons]
    by_cases e : p.1 = n <;> simp [e, Nat.add_assoc]

/-- The reserve as its window opens. -/
def openedReserve (s : State) (r : Reserve) (rem : List (StallId × Nat)) : Reserve :=
  (rem.filter fun p => r.stalls.getLsbD p.1.val).foldl (addBacklog s) { r with isOpen := true }

theorem reserveWindowOpenEffect_some {s : State} {c : CellId} {r : Reserve}
    (h : s.qm.reserves.find? (fun r => r.cell == c && !r.isOpen && s.reached r.openAt && !s.reached r.closeAt) = some r)
    (rem : List (StallId × Nat)) : reserveWindowOpenEffect c rem s =
      { s with qm := { s.qm with reserves := s.qm.reserves.map fun x => if x = r then openedReserve s r rem else x } } := by
  unfold reserveWindowOpenEffect
  rw [h]
  rfl

/-- Settles O10: the effect of a release is composed of the unregistering, the appends, which move each tail by its queue's entries, and
the opening of the two slots; an opened reserve adds the remainders to its backlogs. -/
theorem plansReleaseAndReservesOpen : Obligations.PlansReleaseAndReservesOpen := by
  refine ⟨⟨?_, ?_, ?_⟩, ?_, ?_⟩
  · intro c us as k p es s hst hr hl hb hd hp hok hn hes hf
    obtain ⟨r, f, start, hr1, hfo, he⟩ := planRelease_takes hst hr hl hb hd hp hok hn hes hf us as
    have h3 := dueState_touches s c (k + 1) (some p)
    obtain ⟨ahead, hcell⟩ := cell_dueState s c (k + 1) (some p)
    have ha := hr1.andThen (addReserve_touches r c start (planHeader (planHead s p.addr.toNat))) (rs := [.dev, .fab, .host, .qm])
    have hq : ∀ q, (r.addReserve c start (planHeader (planHead s p.addr.toNat))).queue q = s.queue q := fun q =>
      (queue_addReserve r c start _ q).trans ((hr1.queue q).trans (h3.queue q))
    generalize r.addReserve c start (planHeader (planHead s p.addr.toNat)) = r1 at ha hq he
    have hall := ha.andThen (Touches.foldl (fun s b => s.append (entryQueue b) b) (fun s b => append_touches s _ b) es r1) (rs := appendParts)
    have hcells := CellsButTdc.foldl (fun s b => s.append (entryQueue b) b) (fun s b => (append_cells s _ b).but) es r1 c
    have htail := fun q => append_foldl_tail es r1 q
    generalize es.foldl (fun s b => s.append (entryQueue b) b) r1 = t1 at hall hcells htail he
    have hset := settle_touches s (t1.modCell c f)
    have hc : (State.settle s (t1.modCell c f)).cell c = f (t1.cell c) := by rw [hset.cell c, cell_modCell_same]
    rw [ha.cell c, hcell] at hcells
    refine ⟨_, exec_next rfl he, ?_, ?_, ?_, ?_, ?_, ?_, ?_⟩
    · rw [hc, hfo.lastSlot, hcells]; exact if_pos hr
    · have ht : (State.settle s (t1.modCell c f)).time = (dueState s c (k + 1) (some p)).time :=
        (hset.part .time).trans (hall.part .time)
      rw [ht]; exact not_mem_plans_dueState s c (k + 1) p
    · intro q hlt
      have h := htail q
      rw [hq] at h
      rw [(settle_rings s (t1.modCell c f) q).1]
      exact h hlt
    · rw [hc, hfo.dl, hcells]; rfl
    · rw [hc, hfo.ul, hcells]; rfl
    · rw [hc, hfo.ctr, hcells]; rfl
    · exact (hset.part .sec).trans ((hall.part .sec).trans (h3.part .sec))
  · intro c us as k s hst hr hx hl hb hd hp
    have hnone : (vget s.time.plans c).find? (fun p => p.slot == (s.frameTiming c).air (k + 1)) = none := by simpa using hp
    have he := (planRelease_running hst hr hl hb hd us as hnone).2 rfl hx
    have h3 := dueState_none_touches s c (k + 1)
    obtain ⟨ahead, hcell⟩ := cell_dueState s c (k + 1) none
    have hn := noPlan_spec (dueState s c (k + 1) none) c (k + 1) us as
    refine ⟨_, exec_next rfl he, ?_, ?_, ?_, ?_, (hn.touches.part .qm).trans (h3.part .qm), (hn.touches.part .time).trans (h3.part .time),
      (hn.touches.part .stalls).trans (h3.part .stalls), otherCells_trans (otherCells_dueState s c (k + 1) none) hn.other⟩
    · rw [hn.lastSlot, hcell]; exact if_pos hr
    · rw [hn.count, hcell]; rfl
    · rw [hn.dl, hcell]; rfl
    · rw [hn.ul, hcell]; rfl
  · intro c us as p s hst hr hb hp hok
    obtain ⟨k, start, he⟩ := planRelease_idle hst hr hb hp us as
    have h3 := dueState_touches s c k (some p)
    have hhead : planHead (dueState s c k (some p)) p.addr.toNat = planHead s p.addr.toNat := (SameReads.of_only h3.only).read _ _ _
    rw [takePlan_bad (by rw [hhead]; exact hok)] at he
    have h4 := agentRead_touches (dueState s c k (some p)) Source.qm p.addr.toNat 64
    generalize ((dueState s c k (some p)).agentRead Source.qm p.addr.toNat 64).2 = r at h4 he
    have hn := noPlan_spec (r.devInc .qmRingFull) c k us as
    have hset := settle_touches s ((r.devInc .qmRingFull).noPlan c k us as)
    refine ⟨_, exec_next rfl he, ?_, ?_, fun q => ?_⟩
    · have ht : (State.settle s ((r.devInc .qmRingFull).noPlan c k us as)).time = (dueState s c k (some p)).time :=
        (hset.part .time).trans ((hn.touches.part .time).trans (h4.part .time))
      rw [ht]; exact not_mem_plans_dueState s c k p
    · rw [hset.counters _ (by decide), hn.touches.counters _ (by decide), devCtr_devInc_same, h4.counters _ (by decide), h3.counters _ (by decide)]
      rfl
    · rw [settle_entries_length, hn.touches.queue q, show (r.devInc .qmRingFull).queue q = r.queue q from rfl, h4.queue q, h3.queue q]
  · intro c rem r s hfind
    obtain ⟨heq, hback⟩ := foldl_addBacklog s (rem.filter fun p => r.stalls.getLsbD p.1.val) { r with isOpen := true }
    have hkey := List.find?_some hfind
    simp only [Bool.and_eq_true, beq_iff_eq] at hkey
    obtain ⟨⟨⟨hrc, _⟩, _⟩, _⟩ := hkey
    refine ⟨_, openedReserve s r rem, exec_next rfl (reserveWindowOpenEffect_some hfind rem), ?_, ?_, ?_, ?_, ?_, ?_, fun n hn => ?_, setQm_only s _⟩
    · exact List.mem_map.2 ⟨r, List.mem_of_find?_eq_some hfind, if_pos rfl⟩
    · rw [openedReserve, heq]; exact hrc
    · rw [openedReserve, heq]
    · rw [openedReserve, heq]
    · rw [openedReserve, heq]
    · rw [openedReserve, heq]
    · have hfil : ((rem.filter fun p => r.stalls.getLsbD p.1.val).filter fun p => p.1 == n) = rem.filter fun p => p.1 == n := by
        rw [List.filter_filter]
        apply List.filter_congr
        intro p _
        by_cases e : p.1 = n
        · simp [e, hn]
        · simp [e]
      rw [← hfil]
      exact hback n
  · intro c s
    refine ⟨_, rfl, fun r => ?_, rfl, setQm_only s _⟩
    simp only [reserveWindowCloseEffect, List.mem_filter, State.reached, Bool.not_eq_true', Bool.and_eq_false_iff, beq_eq_false_iff_ne,
      decide_eq_false_iff_not, not_and, ne_eq, and_congr_right_iff]
    exact fun _ => imp_iff_not_or.symm

end Sys2Proof.Safety
end

/-! The end of a block and the rejection of an output: what they leave alone (R22, R23, R27, R179, R190). -/
section
namespace Sys2Proof.Safety
open Sys2Proof.Machine

/-! ### The end of a block -/

/-- A block made final where it is not, with its slot stamped. -/
def finalled (s : State) (r : BlockRef) (reason : Byte) : State :=
  (s.modBlock r fun b => if b.final = none then { b with final := some reason } else b).modUl r.cell r.air (·.stamp s.now)

theorem finalled_touches (s : State) (r : BlockRef) (reason : Byte) : Touches [.cells] s (finalled s r reason) :=
  (modBlock_touches s r _).trans (modUl_touches _ _ _ _)

theorem otherCells_finalled (s : State) (r : BlockRef) (reason : Byte) : OtherCells r.cell s (finalled s r reason) :=
  otherCells_trans (otherCells_modBlock s r _) (otherCells_modUl _ _ _ _)

theorem cell_finalled (s : State) (r : BlockRef) (reason : Byte) :
    (finalled s r reason).cell r.cell = { s.cell r.cell with ul := ((finalled s r reason).cell r.cell).ul } := by
  simp only [finalled, State.modBlock, State.modUnit, State.modUl, cell_modCell_same]

theorem ulBlock_finalled (s : State) (r : BlockRef) (reason : Byte) : (finalled s r reason).ulBlock r =
    (s.ulBlock r).map fun b => if b.final = none then { b with final := some reason } else b := by
  rw [finalled, ulBlock_of_unit (ulUnit_stamp _ r _), ulBlock_modBlock]

/-- The end of a block: it is made final, and the pages of a transport block that is now NACKed are taken. -/
theorem blockFinal_kept (s : State) (r : BlockRef) (reason : Byte) : HarqKept r.cell (finalled s r reason) (s.blockFinal r reason) := by
  unfold State.blockFinal
  dsimp only
  split
  · split
    · exact harqKeep_kept (finalled s r reason) r
    · exact .refl _ _
  · exact .refl _ _

theorem blockFinal_touches (s : State) (r : BlockRef) (reason : Byte) : Touches harqParts s (s.blockFinal r reason) :=
  (finalled_touches s r reason).andThen (blockFinal_kept s r reason).touches

theorem otherCells_blockFinal (s : State) (r : BlockRef) (reason : Byte) : OtherCells r.cell s (s.blockFinal r reason) :=
  otherCells_trans (otherCells_finalled s r reason) (blockFinal_kept s r reason).other

/-- The block itself has the reason where it was not final. -/
theorem ulBlock_blockFinal (s : State) (r : BlockRef) (reason : Byte) : (s.blockFinal r reason).ulBlock r =
    (s.ulBlock r).map fun b => if b.final = none then { b with final := some reason } else b := by
  rw [(blockFinal_kept s r reason).block rfl, ulBlock_finalled]

/-! ### A recomputation -/

theorem fallbackQueue_spec {s : State} {c : CellId} {cls : Nat} {q : QueueId} (h : s.fallbackQueue c cls = some q) :
    (s.queue q).fallback = true ∧ (s.queue q).cell = c := by
  have hok : ∀ q, ((s.queue q).en && (s.queue q).fallback && (s.queue q).cell == c && decide (0 < (s.queue q).room)) = true →
      (s.queue q).fallback = true ∧ (s.queue q).cell = c := fun q hq => by
    simp only [Bool.and_eq_true, beq_iff_eq] at hq
    obtain ⟨⟨⟨_, hf⟩, hc⟩, _⟩ := hq
    exact ⟨hf, hc⟩
  unfold State.fallbackQueue at h
  dsimp only at h
  split at h
  · rename_i p hp
    cases h
    have hp := List.find?_some hp
    rw [Bool.and_eq_true] at hp
    exact hok _ hp.1
  · have hp := List.find?_some h
    exact hok _ hp

theorem recompute_touches (s : State) (c : CellId) (template : List Byte) (cost : Nat) :
    Touches fallbackParts s (s.recompute c template cost).2 := by
  unfold State.recompute
  split
  · have h := (devInc_touches s (c := .qmNotAdmitted)).andThen (tdc_touches (c := .tdcSched) _ c 1) (rs := fallbackParts)
    exact h
  · rename_i q hq
    exact append_fallback_touches (fallbackQueue_spec hq).1 (setBytes (setExcl template) 84 (natLE 4 cost))

/-- A recomputation counts against its own cell alone. -/
theorem recompute_cells (s : State) (c : CellId) (template : List Byte) (cost : Nat) : CellsOfQueue c s (s.recompute c template cost).2 := by
  unfold State.recompute
  split
  · exact (CellsOfQueue.of_touches (devInc_touches s (c := .qmNotAdmitted))).trans ⟨.tdc _ _ _ 1, otherCells_tdc _ _ _ 1⟩
  · rename_i q hq
    have h := append_cells s q (setBytes (setExcl template) 84 (natLE 4 cost))
    rwa [(fallbackQueue_spec hq).2] at h

/-! ### A rejection -/

/-- What the rejection of an output that is not the scheduler's may change: no stall. -/
abbrev rejectParts : List Part := [.qm, .mem, .dev, .fab, .host, .pwr, .qps, .valley, .out, .free, .cells, .harq]

/-- An uplink slot with a cause noted. -/
def noted (cause test : Byte) (rnti : BitVec 16) (h : Byte) (y : UlSlot) : UlSlot := { y with notes := addNote cause test rnti h y.notes }

/-- The state in which a rejected uplink block is recomputed: it waits no longer, and its cause is counted and noted. -/
def causeNoted (s : State) (b : JudgedBlock) (cause test : Byte) (u : UlUnit) : State :=
  ((s.modBlock b.ref fun y => { y with waiting := none }).cellAdd b.ref.cell (causeCtr cause) 1).modUl b.ref.cell b.ref.air
    (noted cause test u.rnti u.harqId)

theorem causeNoted_touches (s : State) (b : JudgedBlock) (cause test : Byte) (u : UlUnit) : Touches [.cells] s (causeNoted s b cause test u) :=
  ((modBlock_touches s _ _).trans (modCell_touches _ _ _)).trans (modUl_touches _ _ _ _)

/-- An uplink slot that fell short of its reserve. -/
def shortOfReserve (y : UlSlot) : UlSlot := { y with reserveShort := true }

theorem rejectUplink_eq {s : State} {b : JudgedBlock} {x : UlBlock} {u : UlUnit} (hx : s.ulBlock b.ref = some x) (hu : s.ulUnit b.ref = some u)
    (hf : x.final = none) (cause test : Byte) (cost : Nat) : s.rejectUplink b cause test cost =
      if ((causeNoted s b cause test u).recompute b.ref.cell b.template cost).1 then
        ((causeNoted s b cause test u).recompute b.ref.cell b.template cost).2.cellAdd b.ref.cell .fallbackBlocks 1
      else (((causeNoted s b cause test u).recompute b.ref.cell b.template cost).2.blockFinal b.ref 4).modUl b.ref.cell b.ref.air shortOfReserve := by
  unfold State.rejectUplink
  simp only [hx, hu, hf]
  rfl

theorem rejectUplink_touches (s : State) (b : JudgedBlock) (cause test : Byte) (cost : Nat) :
    Touches rejectParts s (s.rejectUplink b cause test cost) := by
  cases hx : s.ulBlock b.ref with
  | none => simp only [State.rejectUplink, hx]; exact .refl _ s
  | some x =>
    cases hu : s.ulUnit b.ref with
    | none => simp only [State.rejectUplink, hx, hu]; exact .refl _ s
    | some u =>
      by_cases hf : x.final = none
      · rw [rejectUplink_eq hx hu hf]
        have hr := (causeNoted_touches s b cause test u).andThen (recompute_touches _ b.ref.cell b.template cost) (rs := rejectParts)
        exact .ite (hr.andThen (modCell_touches _ _ _))
          ((hr.andThen (blockFinal_touches _ _ 4) (rs := rejectParts)).andThen (modUl_touches _ _ _ _))
      · simp only [State.rejectUplink, hx, hu, Option.isSome_iff_ne_none.2 hf, if_true]; exact .refl _ s

theorem rejectDownlink_touches (s : State) (b : JudgedBlock) (alloc : BitVec 16) (cost : Nat) :
    Touches rejectParts s (s.rejectDownlink b alloc cost) := by
  have hr := recompute_touches s b.ref.cell b.template cost
  exact .ite (hr.andThen (modCell_touches _ _ _)) (hr.andThen (modCell_touches _ _ _))

/-- The rejection of an output that is not the scheduler's. -/
theorem rejectOutput_touches (s : State) {b : JudgedBlock} (h : b.path ≠ .scheduler) (cause test : Byte) (cost : Nat) :
    Touches rejectParts s (s.rejectOutput b cause test cost) := by
  unfold State.rejectOutput
  split
  · exact absurd ‹_› h
  · exact rejectDownlink_touches s b _ cost
  · exact rejectUplink_touches s b cause test cost

end Sys2Proof.Safety
end

/-! The stop of an item or of a command on an engine (R78, R107, R148). -/
section
namespace Sys2Proof.Safety
open Sys2Proof.Machine

/-! ### The other stalls -/

theorem stall_of_stalls {s t : State} (h : t.stalls = s.stalls) (n : StallId) : t.stall n = s.stall n := by rw [State.stall, h]; rfl

theorem Touches.stall {ps : List Part} {s t : State} (h : Touches ps s t) (n : StallId) (hp : Part.stalls ∉ ps := by decide) :
    t.stall n = s.stall n := stall_of_stalls (h.part .stalls hp) n

theorem Touches.otherStalls {ps : List Part} {s t : State} (h : Touches ps s t) (n : StallId) (hp : Part.stalls ∉ ps := by decide) :
    OtherStalls n s t := fun m _ => h.stall m hp

theorem otherStalls_refl (n : StallId) (s : State) : OtherStalls n s s := fun _ _ => rfl

theorem otherStalls_trans {n : StallId} {s t u : State} (h : OtherStalls n s t) (k : OtherStalls n t u) : OtherStalls n s u :=
  fun m hm => (k m hm).trans (h m hm)

theorem otherStalls_modStall (s : State) (n : StallId) (f : Stall → Stall) : OtherStalls n s (s.modStall n f) :=
  fun _ hm => stall_modStall_ne s f hm.symm

/-! ### The work of one stall -/

/-- Stall n's work: memory, the stall itself, and draws. -/
structure StallWork (n : StallId) (s t : State) : Prop where
  touches : Touches [.mem, .stalls, .free] s t
  other : OtherStalls n s t

namespace StallWork

theorem refl (n : StallId) (s : State) : StallWork n s s := ⟨.refl _ s, otherStalls_refl n s⟩

theorem trans {n : StallId} {s t u : State} (h : StallWork n s t) (k : StallWork n t u) : StallWork n s u :=
  ⟨h.touches.trans k.touches, otherStalls_trans h.other k.other⟩

theorem of_touches {ps : List Part} {n : StallId} {s t : State} (h : Touches ps s t) (hp : ∀ p ∈ ps, p ∈ [Part.mem, .stalls, .free] := by decide)
    (hs : Part.stalls ∉ ps := by decide) : StallWork n s t := ⟨h.mono hp, h.otherStalls n hs⟩

theorem modStall (s : State) (n : StallId) (f : Stall → Stall) : StallWork n s (s.modStall n f) :=
  ⟨(modStall_touches s n f).mono, otherStalls_modStall s n f⟩

end StallWork

/-! ### Matrix items -/

theorem mxRows_work (s : State) (n : StallId) (d : MxDesc) (w : MxRow) (bank : Bool) (rows : List Nat) :
    StallWork n s (s.mxRows n d w bank rows) :=
  (StallWork.of_touches (setMem_touches s _)).trans (.modStall _ n _)

theorem mxItem_work (s : State) (n : StallId) (d : MxDesc) (w : MxRow) (bank : Bool) (it : Item) : StallWork n s (s.mxItem n d w bank it) :=
  (StallWork.of_touches (setMem_touches s _)).trans (mxRows_work _ n d w bank _)

theorem mxStopped_work (s : State) (n : StallId) (d : MxDesc) (w : MxRow) (bank : Bool) (it : Item) (k : Nat) :
    StallWork n s (s.mxStopped n d w bank it k) :=
  (mxRows_work s n d w bank (itemRows it k)).trans <| (StallWork.of_touches (setMem_touches _ _)).trans <|
    (StallWork.of_touches (drew_touches _ _)).trans (.modStall _ n _)

/-- An item of a matrix command completed, where it has no result yet. -/
def finishItem (n : StallId) (d : MxDesc) (w : MxRow) (bank : Bool) (a : Running × State) (p : Item × Nat) : Running × State :=
  if (a.1.results.getD p.2 none).isSome then a
  else ({ a.1 with results := a.1.results.set p.2 (some (oDone, p.1.count)) }, a.2.mxItem n d w bank p.1)

/-- Between two states of a command's items: other results than those before an item stand as they were. -/
structure ResultsBefore (k : Nat) (r x : Running) : Prop where
  only : x = { r with results := x.results }
  length : x.results.length = r.results.length
  rest : ∀ i, k ≤ i → x.results[i]? = r.results[i]?

theorem finishItems (n : StallId) (d : MxDesc) (w : MxRow) (bank : Bool) (k : Nat) (l : List (Item × Nat)) (hl : ∀ p ∈ l, p.2 < k)
    (a : Running × State) : StallWork n a.2 (l.foldl (finishItem n d w bank) a).2 ∧ ResultsBefore k a.1 (l.foldl (finishItem n d w bank) a).1 := by
  induction l generalizing a with
  | nil => exact ⟨.refl n _, rfl, rfl, fun _ _ => rfl⟩
  | cons p l ih =>
    obtain ⟨hw, hr⟩ := ih (fun q hq => hl q (List.mem_cons_of_mem _ hq)) (finishItem n d w bank a p)
    have hp := hl p List.mem_cons_self
    have h1 : StallWork n a.2 (finishItem n d w bank a p).2 ∧ ResultsBefore k a.1 (finishItem n d w bank a p).1 := by
      unfold finishItem
      split
      · exact ⟨.refl n _, rfl, rfl, fun _ _ => rfl⟩
      · exact ⟨mxItem_work _ n d w bank _, rfl, List.length_set, fun i hi => List.getElem?_set_ne (by omega)⟩
    exact ⟨h1.1.trans hw, by rw [List.foldl_cons, hr.only, h1.2.only], hr.length.trans h1.2.length,
      fun i hi => (hr.rest i hi).trans (h1.2.rest i hi)⟩

theorem mxFinish_spec (s : State) (n : StallId) (r : Running) (bank : Bool) (k : Nat) :
    StallWork n s (s.mxFinish n r bank k).2 ∧ ResultsBefore k r (s.mxFinish n r bank k).1 := by
  unfold State.mxFinish
  dsimp only
  split
  · exact ⟨.refl n s, rfl, rfl, fun _ _ => rfl⟩
  · rename_i w _
    exact finishItems n (mxOf r.desc) w bank k _ (fun p hp => by simpa using (List.mem_filter.1 hp).2) (r, s)

theorem mxStopAt_work (s : State) (n : StallId) (r : Running) (bank : Bool) (stop : StopPoint) : StallWork n s (s.mxStopAt n r bank stop).2 := by
  unfold State.mxStopAt
  dsimp only
  split
  · split
    · exact .refl n s
    · exact mxStopped_work s n _ _ bank _ _
  · exact .refl n s

/-- A matrix item without a result reports the rows of its last whole pass. -/
theorem mxStopAt_fst {s : State} {n : StallId} {r : Running} {bank : Bool} {stop : StopPoint} {w : MxRow} {it : Item}
    (hw : mxRow (mxOf r.desc).mode (mxOf r.desc).fa (mxOf r.desc).fb = some w) (hi : (mxItems (mxOf r.desc) r.items)[stop.item]? = some it)
    (hn : r.results.getD stop.item none = none) : ∃ cuts start, (s.mxStopAt n r bank stop).1 =
      { r with results := r.results.set stop.item (some (oPartial, mxRowsDone (mxOf r.desc) w it.count stop.passes stop.fed)), itemStart := start, cuts := cuts } := by
  unfold State.mxStopAt
  simp only [hw, hi, hn]
  exact ⟨_, _, rfl⟩

/-! ### The stop of an item -/

/-- A command with other results, in which a time-dependent choice is marked. -/
def stamped (l : List (Option (Byte × Nat))) (r : Running) : Running := { r with results := l, tdc := true }

/-- A stopped matrix item, the items before it completed. -/
theorem stopItem_matrix {s : State} {n : StallId} {r : Running} {b : Bool} {w : MxRow} {it : Item} {stop : StopPoint}
    (hm : (s.stall n).matrix = .running r b) (ho : r.outcome = none) (hlt : stop.item < r.results.length)
    (hn : r.results.getD stop.item none = none) (hw : mxRow (mxOf r.desc).mode (mxOf r.desc).fa (mxOf r.desc).fb = some w)
    (hi : (mxItems (mxOf r.desc) r.items)[stop.item]? = some it) : ∃ r' t, StallWork n s t ∧
      s.stopItem n .matrix stop = some (r, s.mxItemStart n r (mxOf r.desc) w stop.item, t.setMatrix n (.running r' b)) ∧
      r'.results[stop.item]? = some (some (7, mxRowsDone (mxOf r.desc) w it.count stop.passes stop.fed)) ∧ r'.outcome = none ∧ r'.tdc = true := by
  obtain ⟨hfin, hres⟩ := mxFinish_spec s n r b stop.item
  have hx : { (s.mxFinish n r b stop.item).1 with tdc := true } = stamped (s.mxFinish n r b stop.item).1.results r := by rw [hres.only]; rfl
  have hnone : (stamped (s.mxFinish n r b stop.item).1.results r).results.getD stop.item none = none := by
    refine Eq.trans ?_ hn
    rw [List.getD_eq_getElem?_getD, List.getD_eq_getElem?_getD]
    exact congrArg (·.getD none) (hres.rest stop.item le_rfl)
  obtain ⟨cuts, start, hstop⟩ := mxStopAt_fst (s := (s.mxFinish n r b stop.item).2) (n := n) (bank := b)
    (r := stamped (s.mxFinish n r b stop.item).1.results r) hw hi hnone
  refine ⟨((s.mxFinish n r b stop.item).2.mxStopAt n (stamped (s.mxFinish n r b stop.item).1.results r) b stop).1, _,
    hfin.trans (mxStopAt_work _ n (stamped (s.mxFinish n r b stop.item).1.results r) b stop), ?_, ?_, ?_, ?_⟩
  · unfold State.stopItem
    simp only [hm, hw, hn, ho, hlt]
    simp only [← hx]
    rfl
  · rw [hstop]; exact List.getElem?_set_self (by rw [stamped, hres.length]; exact hlt)
  · rw [hstop]; exact ho
  · rw [hstop]; rfl

theorem stopItem_vector {s : State} {n : StallId} {r : Running} {x : VecRegs} {stop : StopPoint} (hv : (s.stall n).vec = .running r x)
    (ho : r.outcome = none) (hi : r.item = some stop.item) : s.stopItem n .vector stop =
      some (r, r.itemStart, s.setVec n (vecNextItem ({ r with tdc := true }.endItem stop.item oPartial) x s.now)) := by
  unfold State.stopItem
  simp [hv, ho, hi]

theorem stopItem_sequencer {s : State} {n : StallId} {r : Running} {x : SeqRegs} {stop : StopPoint} (hv : (s.stall n).seq = .running r x)
    (ho : r.outcome = none) (hi : r.item = some stop.item) (hx : x.mayInterrupt = true) : s.stopItem n .sequencer stop =
      some (r, r.itemStart, s.setSeq n (seqNextItem ({ r with tdc := true }.endItem stop.item oPartial) x s.now)) := by
  unfold State.stopItem
  simp [hv, ho, hi, hx]

/-- The stop of an item is the work of its stall alone. -/
theorem stopItem_work {s t : State} {n : StallId} {e : Engine} {stop : StopPoint} {x : Running} {begun : Int}
    (h : s.stopItem n e stop = some (x, begun, t)) : StallWork n s t := by
  unfold State.stopItem at h
  split at h
  · split at h
    · dsimp only at h
      split at h
      · cases h
      · split at h
        · cases h
          exact ((mxFinish_spec s n _ _ stop.item).1.trans (mxStopAt_work _ n _ _ stop)).trans (.modStall _ n _)
        · cases h
    · cases h
  · split at h
    · split at h
      · cases h; exact .modStall s n _
      · cases h
    · cases h
  · split at h
    · split at h
      · cases h; exact .modStall s n _
      · cases h
    · cases h
  · cases h

end Sys2Proof.Safety
end

/-! The end of uplink blocks and the posting of an uplink slot (R22, R41, R43, R44, R169). -/
section
namespace Sys2Proof.Safety
open Sys2Proof.Machine

/-! ### UPLINK_DEADLINE -/

/-- A slot all of whose open blocks miss their deadline. -/
def expired (now : Int) (u : UlSlot) : UlSlot := ({ u with units := u.units.map UlUnit.expire } : UlSlot).stamp now

theorem expired_units (now : Int) (u : UlSlot) : (expired now u).units = u.units.map UlUnit.expire := stamp_units _ now

theorem uplinkDeadlineEffect_due {s : State} {c : CellId} {a : AirSlot} (h : s.reached (s.airStartPlus c a 2) = true) :
    HarqKept c (s.modUl c a (expired s.now)) (uplinkDeadlineEffect c a s) := by
  unfold uplinkDeadlineEffect
  rw [if_pos h]
  exact harqKeepAll_kept _ c a _

theorem ulBlock_expired {s : State} {r : BlockRef} {b : UlBlock} (now : Int) (h : s.ulBlock r = some b) :
    ∃ b', (s.modUl r.cell r.air (expired now)).ulBlock r = some b' ∧ b'.final = some (b.final.getD 3) := by
  rw [State.ulBlock, State.ulUnit] at h
  rw [State.ulBlock, State.ulUnit, ulSlot_modUl _ _ _ (f := expired now) fun u => stamp_air _ now]
  cases hu : s.ulSlot r.cell r.air with
  | none => rw [hu] at h; cases h
  | some u =>
    rw [hu] at h
    simp only [Option.bind_some, Option.map_some, expired_units, List.getElem?_map] at h ⊢
    cases hx : u.units[r.unit]? with
    | none => rw [hx] at h; cases h
    | some x =>
      rw [hx] at h
      simp only [Option.bind_some, Option.map_some, UlUnit.expire, List.getElem?_map] at h ⊢
      rw [h]
      refine ⟨_, rfl, ?_⟩
      cases hf : b.final <;> simp [hf]

/-! ### DEC_BLOCK_BUDGET_EXPIRY -/

theorem harqCombine_kept (s : State) (r : BlockRef) (u : UlUnit) (t : SchTx) (l : List Byte) : HarqKept r.cell s (s.harqCombine r u t l).2.2 := by
  have hmis : ∀ n, HarqKept r.cell s ((s.cellAdd r.cell .harqMismatch n).harqFree r.cell u.rnti u.harqId) := fun n =>
    (HarqKept.count s r.cell n).trans (.of_touches (harqFree_touches _ _ _ _))
  unfold State.harqCombine
  dsimp only
  split
  · exact .refl _ s
  split
  · exact hmis _
  split
  · exact .of_touches (harqFree_touches s _ _ _)
  split
  · exact hmis _
  split
  · exact .refl _ s
  · exact .refl _ s

/-- A block that takes a decoded result, which it keeps. -/
def decodedBlock (d : Decoded) (x : UlBlock) : UlBlock :=
  { x with classical := some d.classical, payload := d.payload, waiting := none, soft := d.soft }

/-- A block that has not been final ends with a reason that is not 0: the reason stands, and only the pool and its own cell change. -/
theorem blockAccepted_spec {s : State} {r : BlockRef} {b : UlBlock} {d : Decoded} (hb : s.ulBlock r = some b) (hf : b.final = none)
    (hd : d.reason ≠ 0) : Touches harqParts s (s.blockAccepted r d) ∧ OtherCells r.cell s (s.blockAccepted r d) ∧
      ∃ b', (s.blockAccepted r d).ulBlock r = some b' ∧ b'.final = some d.reason := by
  have he : s.blockAccepted r d = (((s.modBlock r (decodedBlock d)).harqSoft r d).blockFinal r d.reason).harqAck r := by
    unfold State.blockAccepted
    simp only [hb, hf, hd]
    rfl
  have h1 := modBlock_touches s r (decodedBlock d)
  have h2 := harqSoft_kept (s.modBlock r (decodedBlock d)) r d
  have h3 := harqAck_kept (((s.modBlock r (decodedBlock d)).harqSoft r d).blockFinal r d.reason) r
  rw [he]
  refine ⟨((h1.andThen h2.touches (rs := harqParts)).andThen (blockFinal_touches _ r d.reason) (rs := harqParts)).andThen h3.touches,
    otherCells_trans (otherCells_trans (otherCells_trans (otherCells_modBlock s r _) h2.other) (otherCells_blockFinal _ r _)) h3.other, ?_⟩
  rw [h3.block rfl, ulBlock_blockFinal, h2.block rfl, ulBlock_modBlock, hb]
  exact ⟨_, rfl, by simp [decodedBlock, hf]⟩

/-- The state in which the budget of a block's decode has been counted. -/
def budgetCounted (s : State) (c : CellId) (k : Nat) : State := (s.countLdpc c k false).tdc .tdcBudget c 1

theorem budgetCounted_other (s : State) (c : CellId) (k : Nat) : OtherCells c s (budgetCounted s c k) :=
  otherCells_trans (otherCells_trans (otherCells_trans (otherCells_modCell s c _) (otherCells_modCell _ c _)) (otherCells_modCell _ c _))
    (otherCells_tdc _ _ c 1)

theorem budgetCounted_counter (s : State) (c : CellId) (k : Nat) : (budgetCounted s c k).devCtr .tdcBudget = (s.devCtr .tdcBudget).add 1 :=
  devCtr_devAdd_same (s.countLdpc c k false) .tdcBudget 1

theorem budgetCounted_ul (s : State) (c : CellId) (k : Nat) : ((budgetCounted s c k).cell c).ul = (s.cell c).ul := by
  simp [budgetCounted, State.countLdpc, State.tdc, State.cellAdd, Cell.add, State.cell]

/-- The block whose budget has run out. -/
theorem decBlockBudgetExpiryEffect_due {s s' : State} {r : BlockRef} {n : StallId} {e : Engine} {stop : StopPoint} {start begun : Int}
    {own : Option (List Byte × List Bool)} {b : UlBlock} {u : UlUnit} {x : Running} (hb : s.ulBlock r = some b) (hu : s.ulUnit r = some u)
    (ht : u.tx.isSome = true) (hstop : s.stopItem n e stop = some (x, begun, s')) (hd : (b.decodes own).isSome = true) (hf : b.final = none)
    (hw : b.waiting = none) (hbegun : begun ≤ start) (hx : x.start ≤ start)
    (hnow : start + ns (1000 * (s.cellDecoded r.cell r.air).get .decBudget : Nat) ≤ s.now) (k : Nat) :
    ∃ l tx d, d.reason = 2 ∧ decBlockBudgetExpiryEffect r n e stop start k own s =
      State.settle s (((budgetCounted s' r.cell k).harqCombine r u tx l).2.2.blockAccepted r d) := by
  obtain ⟨tx, htx⟩ := Option.isSome_iff_exists.1 ht
  obtain ⟨⟨l, cl⟩, hl⟩ := Option.isSome_iff_exists.1 hd
  refine ⟨l.1, tx, ⟨2, 0, k, cl, .none, some ((budgetCounted s' r.cell k).harqCombine r u tx l.1).1,
    ((budgetCounted s' r.cell k).harqCombine r u tx l.1).2.1⟩, rfl, ?_⟩
  unfold decBlockBudgetExpiryEffect
  simp only [hb, hu, Option.bind_some, htx, hstop, hl, hf, hw]
  rw [if_neg (by simp only [Option.isSome_none, Bool.false_eq_true, false_or, not_or, not_lt]; exact ⟨hbegun, hx, hnow⟩)]
  rfl

/-! ### UL_SLOT_INDICATION -/

/-- What the counts and events of an indication leave: the path, what is held, the uplink slots, messages and memory. -/
structure IndicationKept (c : CellId) (s t : State) : Prop where
  path : SamePath s t
  other : OtherCells c s t
  held : (t.cell c).held = (s.cell c).held
  out : t.out = s.out
  mem : t.mem = s.mem

namespace IndicationKept

theorem refl (c : CellId) (s : State) : IndicationKept c s s := ⟨.refl s, otherCells_refl c s, rfl, rfl, rfl⟩

theorem trans {c : CellId} {s t u : State} (h : IndicationKept c s t) (k : IndicationKept c t u) : IndicationKept c s u :=
  ⟨h.path.trans k.path, otherCells_trans h.other k.other, k.held.trans h.held, k.out.trans h.out, k.mem.trans h.mem⟩

theorem foldl {α : Type} {c : CellId} (f : State → α → State) (hf : ∀ s a, IndicationKept c s (f s a)) (l : List α) (s : State) :
    IndicationKept c s (l.foldl f s) := by
  induction l generalizing s with
  | nil => exact refl c s
  | cons a l ih => exact (hf s a).trans (ih (f s a))

/-- A change of the cell that keeps its settings and what it holds. -/
theorem modCell (s : State) (c : CellId) (f : Cell → Cell) (hf : ∀ x, (f x).running = x.running ∧ (f x).param = x.param ∧ (f x).changes = x.changes)
    (hh : ∀ x, (f x).held = x.held) : IndicationKept c s (s.modCell c f) :=
  ⟨.of_touches (modCell_touches s c f).mono (.modCell s c f hf), otherCells_modCell s c f, by rw [cell_modCell_same, hh], rfl, rfl⟩

/-- Draws and events. -/
theorem of_touches (c : CellId) {s t : State} (h : Touches [.dev, .host, .free] s t) : IndicationKept c s t :=
  ⟨.of_touches h.mono (.of_touches h), h.otherCells c, by rw [h.cell c], h.part .out, h.part .mem⟩

end IndicationKept

theorem cellAdd_indication (s : State) (c : CellId) (i : CellCtr) (k : Nat) : IndicationKept c s (s.cellAdd c i k) :=
  .modCell s c _ (fun _ => ⟨rfl, rfl, rfl⟩) fun _ => rfl

theorem countEntry_indication (s : State) (c : CellId) (e : IndEntry) : IndicationKept c s (s.countEntry c e) := by
  unfold State.countEntry
  split
  · exact cellAdd_indication s c _ 1
  split
  · exact cellAdd_indication s c _ 1
  split
  · exact cellAdd_indication s c _ 1
  split
  · exact cellAdd_indication s c _ 1
  · exact .refl c s

/-- The cell without an uplink air slot that has been indicated. -/
def ulDone (a : AirSlot) (x : Cell) : Cell := { x with ul := x.ul.filter (fun y => y.air != a), ing := x.ing.filter (fun y => y.air != a) }

/-- The indication of an uplink air slot. -/
def ulIndication (s : State) (c : CellId) (a : AirSlot) (u : UlSlot) : List Byte :=
  indicationBytes 0x0201 c (ulFlags u (((s.ingSlot c a).map (·.concealed)).getD false)) a (s.frameTiming c).mu (u.finalTime.getD s.now) u.fallbackCount
    (((s.ingSlot c a).map fun x => x.noiseFloor ((s.freeBits 0).getLsbD 0)).getD (-32768)) (u.units.map UlUnit.entry)

/-- An indication begins with its TYPE, the cell and the air slot. -/
theorem ulIndication_header (s : State) (c : CellId) (a : AirSlot) (u : UlSlot) : (ulIndication s c a u).take 3 = [0x01, 0x02, BitVec.ofNat 8 c.val] ∧
    ((ulIndication s c a u).drop 4).take 3 = natLE 2 a.sfn.val ++ [BitVec.ofNat 8 a.slot.val] := ⟨rfl, rfl⟩

/-- The indication of a slot all of whose blocks are final: it is posted once its entries and causes are counted and its slot is gone. -/
theorem ulSlotIndicationEffect_final {s : State} {c : CellId} {a : AirSlot} {u : UlSlot} (hu : s.ulSlot c a = some u) (hf : u.isFinal = true) :
    ∃ s3, IndicationKept c s s3 ∧ s3.ulSlot c a = none ∧ ulSlotIndicationEffect c a s = s3.post c a (ulIndication s c a u) := by
  have h1 : IndicationKept c s ((u.units.map UlUnit.entry).foldl (fun s e => s.countEntry c e) (s.drew 1)) :=
    (IndicationKept.of_touches c (drew_touches s 1).mono).trans (.foldl _ (fun s e => countEntry_indication s c e) _ _)
  have h2 := h1.trans (.foldl (fun s n => s.fallbackEvent c a n) (fun s n => .of_touches c (raise_touches s _ _ _).mono) u.notes _)
  refine ⟨_, h2.trans (.modCell _ c (ulDone a) (fun _ => ⟨rfl, rfl, rfl⟩) fun _ => rfl), ?_, ?_⟩
  · rw [State.ulSlot, cell_modCell_same]
    exact find_key_filter UlSlot.air a _
  · unfold ulSlotIndicationEffect
    simp only [hu, hf, if_true]
    rfl

/-- What a RoCE send does where its queue pair is live: one message, and the queue pair stays live. -/
theorem roceSend_live {s : State} {q : QpId} (h : (s.qp q).live = true) (op : Byte) (addr : BitVec 64) (imm : Word) (bs : List Byte) (n : Nat) :
    ∃ t, (s.roceSend q op addr imm bs n).out = s.out ++ [.roce q op addr imm bs t] ∧ ((s.roceSend q op addr imm bs n).qp q).live = true ∧
      (s.roceSend q op addr imm bs n).cells = s.cells := by
  unfold State.roceSend
  simp only [h, if_true]
  refine ⟨_, rfl, ?_, rfl⟩
  show ((State.modQp s q _).qp q).live = true
  rw [qp_modQp_same]
  exact h

/-- Over RoCEv2 a delivery is an RDMA WRITE and an RDMA WRITE with immediate (R43). -/
theorem deliver_roce {s : State} {c : CellId} {a : AirSlot} {q : QpId} (hq : (s.cellDecoded c a).deliveryQp = some q)
    (ha : s.pathAccepts c a = true) (bs : List Byte) : ∃ x t1 t2, (s.deliver c a bs).out = s.out ++ [.roce q 1 x 0 bs t1,
      .roce q 2 x (BitVec.ofNat 32 (c.val * 2 ^ 24 + a.sfn.val * 2 ^ 8 + a.slot.val)) [] t2] ∧ (s.deliver c a bs).cells = s.cells := by
  have hlive : ((s.drew 1).qp q).live = true := by
    simp only [State.pathAccepts, hq, Bool.and_eq_true] at ha
    obtain ⟨_, hl, _⟩ := ha
    exact hl
  obtain ⟨t1, ho1, hl1, hc1⟩ := roceSend_live hlive 1 (s.freeBits 0) 0 bs bs.length
  obtain ⟨t2, ho2, _, hc2⟩ := roceSend_live hl1 2 (s.freeBits 0) (indicationImm c a) [] 0
  refine ⟨s.freeBits 0, t1, t2, ?_, ?_⟩ <;> rw [State.deliver, hq]
  · rw [ho2, ho1, List.append_assoc]
    simp [indicationImm, packWord, State.drew]
  · rw [hc2, hc1]; rfl

/-- Settles O11: a block's end is read back through what HARQ storage keeps, and an indication is posted by the path that it finds. -/
theorem uplinkBlocksEndAndArePosted : Obligations.UplinkBlocksEndAndArePosted := by
  refine ⟨?_, ⟨?_, ?_⟩, ?_, ?_, ?_, ?_⟩
  · intro c a s hdue
    have hk := uplinkDeadlineEffect_due hdue
    refine ⟨_, rfl, fun u k b hb => ?_, ((modUl_touches s c a _).andThen hk.touches (rs := harqParts)).only,
      otherCells_trans (otherCells_modUl s c a _) hk.other⟩
    obtain ⟨b', hb', hf⟩ := ulBlock_expired s.now hb
    exact ⟨b', (hk.block (r := ⟨c, a, u, k⟩) rfl).trans hb', hf⟩
  · intro r n e stop start begun k own b u x s s' hb hu ht hstop hd hf hw hbegun hx hnow
    obtain ⟨l, tx, d, hreason, he⟩ := decBlockBudgetExpiryEffect_due hb hu ht hstop hd hf hw hbegun hx hnow k
    have hwork := (stopItem_work hstop).touches
    have hcomb := harqCombine_kept (budgetCounted s' r.cell k) r u tx l
    have hb1 : ((budgetCounted s' r.cell k).harqCombine r u tx l).2.2.ulBlock r = some b := by
      rw [hcomb.block rfl, ulBlock_of_cell (budgetCounted_ul s' r.cell k), hwork.ulBlock r, hb]
    obtain ⟨hacc, hother, b', hb', hfin⟩ := blockAccepted_spec hb1 hf (d := d) (by rw [hreason]; decide)
    have hset := settle_touches s (((budgetCounted s' r.cell k).harqCombine r u tx l).2.2.blockAccepted r d)
    refine ⟨_, b', exec_next rfl he, ?_, by rw [hfin, hreason], ?_, ?_⟩
    · rw [hset.ulBlock r, hb']
    · rw [hset.counters _ (by decide), hacc.counters _ (by decide), hcomb.touches.counters _ (by decide), budgetCounted_counter,
        hwork.counters _ (by decide)]
      rfl
    · exact otherCells_trans (otherCells_trans (otherCells_trans (otherCells_trans (hwork.otherCells _) (budgetCounted_other s' r.cell k))
        hcomb.other) hother) (hset.otherCells _)
  · intro r n e stop start k own b s hb hf
    show Host.Outcome.next (decBlockBudgetExpiryEffect r n e stop start k own s) = _
    unfold decBlockBudgetExpiryEffect
    split
    · rename_i b' _ _ _ _ _ hb' _ _ _
      rw [hb] at hb'
      cases hb'
      split
      · rw [if_pos (.inl (Option.isSome_iff_ne_none.2 hf))]
      · rfl
    · rfl
  · intro c a u s hu hf hs hh ha hq
    obtain ⟨s3, hk, hgone, he⟩ := ulSlotIndicationEffect_final hu hf
    rw [post_delivers (by rw [hk.path.shadows, hs]) (by rw [hk.held, hh]) (by rw [hk.path.pathAccepts, ha]),
      deliver_usb (by rw [hk.path.settings.deliveryQp, hq])] at he
    obtain ⟨h1, h2⟩ := ulIndication_header s c a u
    exact ⟨_, _, exec_next rfl he, by rw [← hk.out]; rfl, h1, h2, hgone, by rw [cell_send, hk.held, hh], hk.other, hk.mem⟩
  · intro c a u q s hu hf hs hh ha hq
    obtain ⟨s3, hk, hgone, he⟩ := ulSlotIndicationEffect_final hu hf
    have ha3 : s3.pathAccepts c a = true := by rw [hk.path.pathAccepts, ha]
    rw [post_delivers (by rw [hk.path.shadows, hs]) (by rw [hk.held, hh]) ha3] at he
    obtain ⟨x, t1, t2, hout, hcells⟩ := deliver_roce (by rw [hk.path.settings.deliveryQp, hq]) ha3 (ulIndication s c a u)
    refine ⟨_, _, x, t1, t2, exec_next rfl he, by rw [hout, hk.out], (ulIndication_header s c a u).1, ?_, fun d hd => ?_⟩
    · rw [← hgone]; exact ulSlot_of_cell (by rw [cell_eq_of_cells hcells]) a
    · rw [cell_eq_of_cells hcells, hk.other d hd]
  · intro c a u s hu hf hs ha hl
    obtain ⟨s3, hk, hgone, he⟩ := ulSlotIndicationEffect_final hu hf
    rw [post_holds (by rw [hk.path.shadows, hs]) (by rw [hk.path.pathAccepts, ha]) (by rw [hk.held]; exact hl)] at he
    refine ⟨_, _, exec_next rfl he, by rw [cell_modCell_same, hk.held], hk.out, ?_, otherCells_trans hk.other (otherCells_modCell _ c _)⟩
    rw [← hgone]
    exact ulSlot_of_cell (by rw [cell_modCell_same]) a
  · intro c a b rest s hh ha hq
    have he : heldIndicationPostEffect c s = (s.modCell c fun x => { x with held := rest }).deliver c a b := by
      unfold heldIndicationPostEffect
      simp only [hh, ha, if_true]
    have hsame : SameSettings s (s.modCell c fun x => { x with held := rest }) := .modCell s c _
    rw [deliver_usb (by rw [hsame.deliveryQp, hq])] at he
    refine ⟨_, exec_next rfl he, by rw [cell_send, cell_modCell_same], rfl, ((modCell_touches s c _).andThen (send_touches _ _)).only,
      otherCells_modCell s c _⟩

end Sys2Proof.Safety
end

/-! Item budgets, the limit on reserve stalls, pre-emption and the remote abort (R20, R25, R78, R107, R148, R270-R274, R489). -/
section
namespace Sys2Proof.Safety
open Sys2Proof.Machine

/-! ### ITEM_BUDGET_EXPIRY -/

/-- The rejection of every block of an item whose budget ran out. -/
def budgetRejects (s : State) (bs : List JudgedBlock) : State := bs.foldl (fun s b => s.rejectOutput b 34 0 (s.classicalAc b)) s

theorem budgetRejects_touches {bs : List JudgedBlock} (h : ∀ b ∈ bs, b.path ≠ .scheduler) (s : State) :
    Touches rejectParts s (budgetRejects s bs) := by
  induction bs generalizing s with
  | nil => exact .refl _ s
  | cons b bs ih =>
    exact (rejectOutput_touches s (h b List.mem_cons_self) 34 0 _).trans (ih (fun x hx => h x (List.mem_cons_of_mem _ hx)) _)

/-- An item whose budget has run out: it is stopped, counted, and its blocks rejected. Stalls and the count stand as the stop and the count
leave them. -/
theorem itemBudgetExpiry_stops {s t : State} {n : StallId} {e : Engine} {stop : StopPoint} {r : Running} {begun : Int}
    (hstop : s.stopItem n e stop = some (r, begun, t)) (hb : (descOf r.desc).budget ≠ 0)
    (hnow : begun + ns (1000 * (descOf r.desc).budget : Nat) ≤ s.now) {bs : List JudgedBlock} (hbs : ∀ b ∈ bs, b.path ≠ .scheduler) :
    ∃ u, exec (.itemBudgetExpiry n e stop.item ⟨stop.passes, stop.fed⟩ bs) s = .next u ∧ u.stalls = t.stalls ∧
      (u.devCtr .tdcBudget).live = satAdd (s.devCtr .tdcBudget).live 1 ∧ (bs = [] → u.mem = t.mem) ∧ OtherStalls n s u := by
  have he : itemBudgetExpiryEffect n e stop bs s = State.settle s (budgetRejects (t.tdc .tdcBudget (descOf r.desc).cell 1) bs) := by
    unfold itemBudgetExpiryEffect State.budgetStop
    simp only [hstop, hb, ne_eq, not_false_eq_true, true_and, hnow, if_true]
    rfl
  have hrej := budgetRejects_touches hbs (t.tdc .tdcBudget (descOf r.desc).cell 1)
  have hset := settle_touches s (budgetRejects (t.tdc .tdcBudget (descOf r.desc).cell 1) bs)
  have hwork := stopItem_work hstop
  have hstalls : (State.settle s (budgetRejects (t.tdc .tdcBudget (descOf r.desc).cell 1) bs)).stalls = t.stalls :=
    (hset.part .stalls).trans (hrej.part .stalls)
  refine ⟨_, exec_next rfl he, hstalls, ?_, ?_, fun m hm => (stall_of_stalls hstalls m).trans (hwork.other m hm)⟩
  · rw [hset.counters _ (by decide), hrej.counters _ (by decide), ← hwork.touches.counters .tdcBudget (by decide)]
    exact congrArg Ctr.live (devCtr_devAdd_same t .tdcBudget 1)
  · rintro rfl
    exact hset.part .mem

/-- A program command whose item in hand is stopped, at its next item. -/
def cutItem (r : Running) (k : Nat) (now : Int) : Running := ({ r with tdc := true }.endItem k oPartial).nextItem now

/-- The item has the outcome PARTIAL with ROWS_DONE 0, and the command goes on. -/
theorem cutItem_spec {r : Running} {k : Nat} (hk : k < r.results.length) (now : Int) : (cutItem r k now).results[k]? = some (some (7, 0)) ∧
    (cutItem r k now).outcome = r.outcome ∧ (cutItem r k now).tdc = true :=
  ⟨List.getElem?_set_self hk, rfl, rfl⟩

/-! ### RESERVE_STALL_LIMIT -/

theorem stopCommand_vector {s : State} {n : StallId} {r : Running} {x : VecRegs} (hv : (s.stall n).vec = .running r x) (he : r.ended = none)
    (stop : StopPoint) : s.stopCommand n .vector stop = some (r, s.setVec n (.running { r.stopped with tdc := true } x)) := by
  unfold State.stopCommand
  simp [hv, he]

/-- The stop of a background command in a reserve window, with the flag in its entry and the count of the loss. -/
theorem reserveStallLimitEffect_stops {s : State} {n : StallId} {r : Running} {x : VecRegs} {w : Reserve}
    (hv : (s.stall n).vec = .running r x) (he : r.ended = none) (hw : s.window n = some w) (hc : (s.queue r.q).cls = 2)
    (ho : nsOf w.openAt ≤ nsOf r.start) (hnow : r.start + ns 5000 ≤ s.now) (stop : StopPoint) :
    Touches [.qm, .dev, .cells] (s.setVec n (.running { r.stopped with tdc := true } x)) (reserveStallLimitEffect n .vector stop s) := by
  have hr : (s.stall n).running .vector = some r := by simp [Stall.running, hv]
  have ht : ns 5000 ≤ s.now - r.start := by omega
  unfold reserveStallLimitEffect
  simp only [hr, hw, hc, ho, ht, and_self, if_true, stopCommand_vector hv he]
  have h1 := modEntry_touches (s.setVec n (.running { r.stopped with tdc := true } x)) r.q r.idx fun e => { e with flags := e.flags ||| 8 }
  exact .ite h1.mono (h1.andThen (tdc_touches _ _ 1))

/-! ### PREEMPTION -/

theorem preemptionEffect_asks {s : State} {q : QueueId} {i : Fin 4096} {e : QEntry} {t0 : Int} {n : StallId} {r : Running}
    (he : s.entry q i = some e) (ht : e.eligibleAt = some t0) (hp : e.phase = .waiting) (hc : (s.queue q).cls = 0)
    (hd : t0 + ns (fld s.qm.timing 15 0 : Nat) ≤ s.now) (hg : engineOf e.bytes = .sequencer) (ha : e.asked = false)
    (hf : s.engineFor q e .sequencer = false) (hv : s.chooseVictim q e .sequencer = some (n, r)) : preemptionEffect q i s =
      ((s.modStall n fun x => { x with irqPending := true }).modEntry q i fun e => { e with asked := true }).devInc .qmPreempt := by
  have hw : e.isWaiting = true := by simp [QEntry.isWaiting, hp]
  have hd' : ns (fld s.qm.timing 15 0 : Nat) ≤ s.now - t0 := by omega
  unfold preemptionEffect
  simp only [he, ht, hg, hw, hc, hd', ha, hf, hv, and_self, if_true]

/-! ### REMOTE_ABORT -/

/-- A chain that waits on a remote transfer for too long gives its stream up; its entry waits again with REMOTE_REQUEUED. -/
theorem remoteAbortEffect_gives_up {s : State} {n : StallId} {d : StreamId} {t0 : Int} {c : Chain} {r : Running}
    (hp : (vget (s.stall n).streams d).preempt = some t0) (hc : (vget (s.stall n).streams d).chain = some c) (ho : c.origin = .command r)
    (hr : c.remote = true) (hd : t0 + ns (remoteWaitUs s.qm.ctrl * 1000 : Nat) ≤ s.now) (ac : Nat) :
    remoteAbortEffect n d ac s = State.settle s ((((s.freeEngine n (.dma d)).unplace r.q r.idx ac
      fun e => { e with flags := e.flags ||| 1 }).devInc .qmRemoteAbort).raise 0x0402 (evtSource 1 n.val)
        ([BitVec.ofNat 8 n.val, BitVec.ofNat 8 d.val] ++ natLE 2 (descOf r.desc).tag)) := by
  have hd' : ns (remoteWaitUs s.qm.ctrl * 1000 : Nat) ≤ s.now - t0 := by omega
  unfold remoteAbortEffect
  simp only [hp, hc, ho, hr, hd', and_self, if_true]

theorem entry_of_queue {s t : State} {q : QueueId} (h : t.queue q = s.queue q) (i : Fin 4096) : t.entry q i = s.entry q i := by
  rw [State.entry, h]; rfl

theorem entry_unplace {s : State} {q : QueueId} {i : Fin 4096} {e : QEntry} (h : s.entry q i = some e) (ac : Nat) (f : QEntry → QEntry)
    (hf : ∀ e, (f e).idx = e.idx) : (s.unplace q i ac f).entry q i =
      some (f { e with phase := .waiting, ac := e.ac + ac, eligibleAt := none, affinityFree := false, asked := false }) := by
  unfold State.unplace
  refine entry_modEntry (e := e) _ (fun e => hf _) ?_
  simp only [State.charge, State.entry, queue_modQueue_same]
  exact h

/-- Settles O16: what an engine's stop leaves is read off its stall, and what follows it touches no stall. -/
theorem budgetsAndPreemptionStopCommands : Obligations.BudgetsAndPreemptionStopCommands := by
  refine ⟨⟨?_, ?_, ?_, ?_⟩, ?_, ?_⟩
  · intro n r x stop bs s hv ho hi hlt hb hnow hbs
    have hstop := stopItem_vector hv ho hi
    obtain ⟨u, he, hstalls, hctr, hmem, hother⟩ := itemBudgetExpiry_stops hstop hb hnow hbs
    obtain ⟨hres, hout, htdc⟩ := cutItem_spec hlt s.now
    exact ⟨u, cutItem r stop.item s.now, _, he, by rw [stall_of_stalls hstalls, Laws.stall_setVec]; rfl, hres, hout.trans ho, htdc, hctr, hmem, hother⟩
  · intro n r x stop bs s hv ho hi hlt hm hb hnow hbs
    have hstop := stopItem_sequencer hv ho hi hm
    obtain ⟨u, he, hstalls, hctr, hmem, hother⟩ := itemBudgetExpiry_stops hstop hb hnow hbs
    obtain ⟨hres, hout, htdc⟩ := cutItem_spec hlt s.now
    exact ⟨u, cutItem r stop.item s.now, _, he, by rw [stall_of_stalls hstalls, Laws.stall_setSeq]; rfl, hres, hout.trans ho, htdc, hctr, hmem, hother⟩
  · intro n r b w it stop bs s hm ho hlt hn hw hi hb hnow hbs
    obtain ⟨r', t, _, hstop, hres, hout, htdc⟩ := stopItem_matrix hm ho hlt hn hw hi
    obtain ⟨u, he, hstalls, hctr, _, hother⟩ := itemBudgetExpiry_stops hstop hb hnow hbs
    refine ⟨u, r', he, ?_, hres, hout, htdc, hctr, hother⟩
    rw [stall_of_stalls hstalls, State.setMatrix, stall_modStall_same]
  · intro n r x w stop s hv he hw hc ho hnow
    have ht := reserveStallLimitEffect_stops hv he hw hc ho hnow stop
    refine ⟨_, { r.stopped with tdc := true }, rfl, ?_, rfl, ht.part .mem, fun m hm => ?_⟩
    · exact (congrArg Stall.vec (ht.stall n)).trans (by rw [Laws.stall_setVec])
    · exact (ht.stall m).trans (otherStalls_modStall s n _ m hm)
  · intro q i e t0 n r s he ht hp hc hd hg ha hf hv
    have heff := preemptionEffect_asks he ht hp hc hd hg ha hf hv
    refine ⟨_, exec_next rfl heff, ?_, ?_, ?_, ?_, ?_⟩
    · show ((s.modStall n _).stall n).irqPending = true
      rw [stall_modStall_same]
    · exact entry_modEntry (s := s.modStall n _) (fun e => { e with asked := true }) (fun _ => rfl) he
    · rw [devCtr_devInc_same]; rfl
    · exact onlyChanges_trans (onlyChanges_trans (onlyChanges_mono (modStall_only s n _) (by decide)) (onlyChanges_mono (modEntry_only _ q i _)
        (by decide))) (onlyChanges_mono (devAdd_only _ _ 1) (by decide))
    · exact otherStalls_modStall s n _
  · intro n d ac t0 c r e s hp hc ho hr hd he
    have heff := remoteAbortEffect_gives_up hp hc ho hr hd ac
    have hun := entry_unplace (s := s.freeEngine n (.dma d)) he ac (fun e => { e with flags := e.flags ||| 1 }) fun _ => rfl
    have htu := unplace_touches (s.freeEngine n (.dma d)) r.q r.idx ac fun e => { e with flags := e.flags ||| 1 }
    generalize (s.freeEngine n (.dma d)).unplace r.q r.idx ac (fun e => { e with flags := e.flags ||| 1 }) = u at hun htu heff
    have hra := raise_touches (u.devInc .qmRemoteAbort) 0x0402 (evtSource 1 n.val)
      ([BitVec.ofNat 8 n.val, BitVec.ofNat 8 d.val] ++ natLE 2 (descOf r.desc).tag)
    generalize (u.devInc .qmRemoteAbort).raise 0x0402 (evtSource 1 n.val)
      ([BitVec.ofNat 8 n.val, BitVec.ofNat 8 d.val] ++ natLE 2 (descOf r.desc).tag) = v at hra heff
    have hset := settle_touches s v
    have hv : v.entry r.q r.idx = u.entry r.q r.idx := entry_of_queue (hra.queue r.q) r.idx
    obtain ⟨at_, hent⟩ := settle_entry_some (s0 := s) (hv.trans hun)
    have hst : ∀ m, (State.settle s v).stall m = (s.freeEngine n (.dma d)).stall m := fun m =>
      (hset.stall m).trans ((hra.stall m).trans (htu.stall m))
    refine ⟨_, _, exec_next rfl heff, ?_, hent, rfl, rfl, rfl, ?_, ?_, fun m hm => ?_⟩
    · rw [hst, State.freeEngine, State.modStream, stall_modStall_same]
      simp
    · rw [hset.counters _ (by decide), hra.counters _ (by decide), devCtr_devInc_same, htu.counters _ (by decide)]
      rfl
    · exact (hset.part .mem).trans ((hra.part .mem).trans (htu.part .mem))
    · rw [hst]; exact otherStalls_modStall s n _ m hm

end Sys2Proof.Safety
end

/-! The frame of every mailbox command: what an answer, a start in the background and a hold of Hall leave (R427-R434). -/
section
namespace Sys2Proof.Safety
open Sys2Proof.Machine

/-! ### Answers -/

/-- What every answer may change. -/
abbrev mbParts : List Part := [.host, .dev, .qps, .out]

/-- Mailboxes and doorbell order are the same. -/
structure SameBoxes (s t : State) : Prop where
  mbox : t.host.mbox = s.host.mbox
  order : t.host.order = s.host.order

namespace SameBoxes

theorem of_host {s t : State} (h : hostCore t.host = hostCore s.host) : SameBoxes s t :=
  ⟨show (hostCore t.host).mbox = (hostCore s.host).mbox by rw [h], show (hostCore t.host).order = (hostCore s.host).order by rw [h]⟩

theorem trans {s t u : State} (h : SameBoxes s t) (k : SameBoxes t u) : SameBoxes s u := ⟨k.mbox.trans h.mbox, k.order.trans h.order⟩

theorem mb {s t : State} (h : SameBoxes s t) (m : MboxId) : t.mb m = s.mb m := by rw [State.mb, h.mbox]; rfl

end SameBoxes

theorem mbSend_boxes (s : State) (m : MboxId) (p : MbPath) (bs : List Byte) : SameBoxes s (s.mbSend m p bs) ∧ OnlyChanges mbParts s (s.mbSend m p bs) := by
  cases p with
  | registers => exact ⟨⟨rfl, rfl⟩, onlyChanges_refl _ s⟩
  | endpoint1 => exact ⟨⟨rfl, rfl⟩, onlyChanges_mono (send_only s _) (by decide)⟩
  | roce q =>
    have h := roceSend_only s q 0 0 0 bs bs.length
    exact ⟨.of_host (by rw [show (s.mbSend m (.roce q) bs).host = s.host from h.2 .host (by decide)]), onlyChanges_mono h (by decide)⟩

/-- The mailbox as an answer leaves it. -/
def answeredBox (m : MboxId) (cmd seq status detail : Nat) (items : List Byte) (x : Mailbox) : Mailbox :=
  { x with
    resp := memWrite x.resp 0 (mbResponse m cmd seq status detail items), busy := false, phase := .idle
    done := if keepsDone status then x.done else true
    lastSeq := if keepsDone status then x.lastSeq else x.seq }

/-- The state with mailbox m changed and out of the doorbell order. -/
def boxDone (s : State) (m : MboxId) (f : Mailbox → Mailbox) : State :=
  { s.modMb m f with host := { (s.modMb m f).host with order := s.host.order.filter (· ≠ m) } }

theorem boxDone_only (s : State) (m : MboxId) (f : Mailbox → Mailbox) : OnlyChanges [.host] s (boxDone s m f) :=
  ⟨rfl, fun p hp => by cases p <;> first | rfl | simp at hp⟩

theorem mb_boxDone_same (s : State) (m : MboxId) (f : Mailbox → Mailbox) : (boxDone s m f).mb m = f (s.mb m) := mb_modMb_same s m f

theorem mb_boxDone_ne (s : State) {m k : MboxId} (f : Mailbox → Mailbox) (h : m ≠ k) : (boxDone s m f).mb k = s.mb k := mb_modMb_ne s f h

/-- An answer: the mailbox is answered and out of the order; what follows are its event and its response. -/
theorem mbAnswer_spec (s : State) (m : MboxId) (cmd seq status detail : Nat) (items : List Byte) :
    SameBoxes (boxDone s m (answeredBox m cmd seq status detail items)) (s.mbAnswer m cmd seq status detail items) ∧
    OnlyChanges mbParts s (s.mbAnswer m cmd seq status detail items) := by
  have h1 : OnlyChanges mbParts s (boxDone s m (answeredBox m cmd seq status detail items)) := onlyChanges_mono (boxDone_only s m _) (by decide)
  have he : ∀ e : State, SameBoxes (boxDone s m (answeredBox m cmd seq status detail items)) e → OnlyChanges mbParts s e →
      SameBoxes (boxDone s m (answeredBox m cmd seq status detail items)) (e.mbSend m (s.mb m).path (mbResponse m cmd seq status detail items)) ∧
      OnlyChanges mbParts s (e.mbSend m (s.mb m).path (mbResponse m cmd seq status detail items)) := fun e hb ho =>
    ⟨hb.trans (mbSend_boxes e m _ _).1, onlyChanges_trans ho (mbSend_boxes e m _ _).2⟩
  unfold State.mbAnswer
  refine he _ ?_ ?_
  · split
    · exact ⟨rfl, rfl⟩
    · exact .of_host (raise_touches (boxDone s m (answeredBox m cmd seq status detail items)) _ _ _).host
  · split
    · exact h1
    · exact onlyChanges_trans h1 (onlyChanges_mono (raise_only _ _ _ _) (by decide))

/-- Taking what waits behind leaves alone a mailbox that is not in the order. -/
theorem mbSettle_spec (n : Nat) (s : State) {m : MboxId} (hm : m ∉ s.host.order) :
    (s.mbSettle n).mb m = s.mb m ∧ m ∉ (s.mbSettle n).host.order ∧ OnlyChanges mbParts s (s.mbSettle n) := by
  induction n generalizing s with
  | zero => exact ⟨rfl, hm, onlyChanges_refl _ s⟩
  | succ n ih =>
    unfold State.mbSettle
    split
    · exact ⟨rfl, hm, onlyChanges_refl _ s⟩
    rename_i k rest hk
    split
    · exact ⟨rfl, hm, onlyChanges_refl _ s⟩
    dsimp only
    split
    · rename_i f _
      have hne : k ≠ m := fun e => hm (by rw [hk, e]; exact List.mem_cons_self)
      have h0 : OnlyChanges mbParts s (s.modMb k fun x => { x with noEvent := x.quiet }) := onlyChanges_mono (modMb_only s k _) (by decide)
      obtain ⟨hb, ho⟩ := mbAnswer_spec (s.modMb k fun x => { x with noEvent := x.quiet }) k (s.mb k).command (memNat (s.mb k).req 4 2) f.1 f.2 []
      have hin : m ∉ ((s.modMb k fun x => { x with noEvent := x.quiet }).mbAnswer k (s.mb k).command (memNat (s.mb k).req 4 2) f.1 f.2 []).host.order := by
        rw [hb.order]
        exact fun h => hm (List.mem_of_mem_filter h)
      obtain ⟨h1, h2, h3⟩ := ih _ hin
      refine ⟨?_, h2, onlyChanges_trans (onlyChanges_trans h0 ho) h3⟩
      rw [h1, hb.mb, mb_boxDone_ne _ _ hne, mb_modMb_ne _ _ hne]
    · exact ⟨rfl, hm, onlyChanges_refl _ s⟩

theorem not_mem_boxDone (s : State) (m : MboxId) (f : Mailbox → Mailbox) : m ∉ (boxDone s m f).host.order := by
  show m ∉ s.host.order.filter (· ≠ m)
  simp

/-! ### Commands -/

/-- The state in which a taken command runs: NO_EVENT of its request noted. -/
def quieted (s : State) (m : MboxId) : State := s.modMb m fun x => { x with noEvent := x.quiet }

@[simp] theorem cell_quieted (s : State) (m : MboxId) (c : CellId) : (quieted s m).cell c = s.cell c := rfl

@[simp] theorem quieted_mem (s : State) (m : MboxId) : (quieted s m).mem = s.mem := rfl

theorem quieted_only (s : State) (m : MboxId) : OnlyChanges [.host] s (quieted s m) := modMb_only s m _

theorem mb_quieted (s : State) (m : MboxId) : (quieted s m).mb m = { s.mb m with noEvent := (s.mb m).quiet } := mb_modMb_same s m _

/-- What a reply's state may be: the mailboxes as the command found them, and no parts changed but those of an answer and those named. -/
structure ReplyKeeps (ps : List Part) (s u : State) : Prop where
  boxes : SameBoxes s u
  only : OnlyChanges (mbParts ++ ps) s u

theorem ReplyKeeps.of_touches {qs ps : List Part} {s u : State} (h : Touches qs s u) (hq : ∀ p ∈ qs, p ∈ mbParts ++ ps := by decide) :
    ReplyKeeps ps s u := ⟨.of_host h.host, onlyChanges_mono h.only hq⟩

theorem ReplyKeeps.refl (ps : List Part) (s : State) : ReplyKeeps ps s s := ⟨⟨rfl, rfl⟩, onlyChanges_refl _ s⟩

theorem ReplyKeeps.trans {ps : List Part} {s t u : State} (h : ReplyKeeps ps s t) (k : ReplyKeeps ps t u) : ReplyKeeps ps s u :=
  ⟨h.boxes.trans k.boxes, onlyChanges_trans h.only k.only⟩

/-- The command as it runs. -/
theorem mbCommand_eq {s : State} {m : MboxId} {code : Nat} {allow : Nat → List Byte → Option Bool} {l : List MItem} (h : MbRuns s m code allow l)
    (f : List MItem → State → Reply × Hold) : s.mbCommand m code allow f =
      let r := f l (quieted s m)
      if r.2 = .now ∨ r.1.status ≠ stOk then (r.1.after.mbAnswer m code (s.mb m).seq.toNat r.1.status r.1.detail r.1.items).mbSettle 8
      else (boxDone r.1.after m fun x => { x with
        phase := .taken (decide (r.2 = Hold.background)) code (itemsCell l) r.1.status r.1.detail r.1.items }).mbSettle 8 := by
  have hready : (s.sec.ready || s.bootTakes code) = true := by
    rcases h.ready with hr | hr <;> simp [hr]
  unfold State.mbCommand
  simp only [h.takes, h.items, h.good, hready, if_true]
  rfl

/-- A command that is answered now. -/
theorem mbDoes_of {c : Instr} {s u : State} {m : MboxId} {code status detail : Nat} {allow : Nat → List Byte → Option Bool} {l : List MItem}
    {f : List MItem → State → Reply × Hold} {items : List Byte} {hold : Hold} {ps : List Part} {P : State → Prop} (h : MbRuns s m code allow l)
    (he : exec c s = .next (s.mbCommand m code allow f)) (hf : f l (quieted s m) = (⟨status, detail, items, u⟩, hold))
    (hnow : hold = .now ∨ status ≠ stOk) (hu : ReplyKeeps ps (quieted s m) u) (hP : ∀ t, OnlyChanges mbParts u t → P t) :
    MbDoes c s m code status detail items ps P := by
  obtain ⟨hb, ho⟩ := mbAnswer_spec u m code (s.mb m).seq.toNat status detail items
  have hout : m ∉ (u.mbAnswer m code (s.mb m).seq.toNat status detail items).host.order := by rw [hb.order]; exact not_mem_boxDone u m _
  obtain ⟨hm, hin, hs⟩ := mbSettle_spec 8 _ hout
  have hmb : ((u.mbAnswer m code (s.mb m).seq.toNat status detail items).mbSettle 8).mb m =
      answeredBox m code (s.mb m).seq.toNat status detail items { s.mb m with noEvent := (s.mb m).quiet } := by
    rw [hm, hb.mb, mb_boxDone_same, hu.boxes.mb, mb_quieted]
  have hcmd : s.mbCommand m code allow f = (u.mbAnswer m code (s.mb m).seq.toNat status detail items).mbSettle 8 := by
    rw [mbCommand_eq h, hf]
    exact if_pos hnow
  refine ⟨_, exec_next he hcmd, ⟨?_, ?_, ?_, hin, ?_, ?_⟩, hP _ (onlyChanges_trans ho hs), ?_⟩
  · rw [hmb, answeredBox]
  · rw [hmb, answeredBox]
  · rw [hmb, answeredBox]
  · rw [hmb, answeredBox]
  · rw [hmb, answeredBox]
  · have h1 : OnlyChanges (mbParts ++ ps) s (quieted s m) := onlyChanges_mono (quieted_only s m) fun p hp => by simp at hp; simp [hp]
    have h2 : OnlyChanges (mbParts ++ ps) u _ := onlyChanges_mono (onlyChanges_trans ho hs) fun p hp => List.mem_append_left _ hp
    exact onlyChanges_trans (onlyChanges_trans h1 hu.only) h2

/-- A command that goes on in the background. -/
theorem mbStarts_of {c : Instr} {s u : State} {m : MboxId} {code : Nat} {allow : Nat → List Byte → Option Bool} {l : List MItem}
    {f : List MItem → State → Reply × Hold} {items : List Byte} {cell : Option CellId} {ps : List Part} {P : State → Prop}
    (h : MbRuns s m code allow l) (hc : itemsCell l = cell)
    (he : exec c s = .next (s.mbCommand m code allow f)) (hf : f l (quieted s m) = (⟨0, 0, items, u⟩, .background))
    (hu : ReplyKeeps ps (quieted s m) u) (hP : ∀ t, OnlyChanges mbParts u t → P t) :
    MbStarts c s m code cell items ps P := by
  subst hc
  obtain ⟨hm, hin, hs⟩ := mbSettle_spec 8 _ (not_mem_boxDone u m fun x => { x with phase := .taken true code (itemsCell l) 0 0 items })
  have ho : OnlyChanges mbParts u (boxDone u m fun x => { x with phase := .taken true code (itemsCell l) 0 0 items }) :=
    onlyChanges_mono (boxDone_only u m _) (by decide)
  have hcmd : s.mbCommand m code allow f = (boxDone u m fun x => { x with phase := .taken true code (itemsCell l) 0 0 items }).mbSettle 8 := by
    rw [mbCommand_eq h, hf]
    rfl
  refine ⟨_, exec_next he hcmd, ?_, hin, hP _ (onlyChanges_trans ho hs), ?_⟩
  · rw [hm, mb_boxDone_same]
  · have h1 : OnlyChanges (mbParts ++ ps) s (quieted s m) := onlyChanges_mono (quieted_only s m) fun p hp => by simp at hp; simp [hp]
    have h2 : OnlyChanges (mbParts ++ ps) u _ := onlyChanges_mono (onlyChanges_trans ho hs) fun p hp => List.mem_append_left _ hp
    exact onlyChanges_trans (onlyChanges_trans h1 hu.only) h2

/-- While a command holds Hall, nothing behind it is taken. -/
theorem mbSettle_held {s : State} (h : s.mbHeld = true) (n : Nat) : s.mbSettle n = s := by
  cases n with
  | zero => rfl
  | succ n =>
    unfold State.mbSettle
    split
    · rfl
    · rw [if_pos (.inr h)]

end Sys2Proof.Safety
end

/-! Site adaptation: its steps, what it exports and imports, its replay (R32-R35, R380-R382). -/
section
namespace Sys2Proof.Safety
open Sys2Proof.Machine

/-! ### Numbers and lists read off the front of bytes -/

@[simp] theorem length_natLE (n v : Nat) : (natLE n v).length = n := by
  induction n generalizing v with
  | zero => rfl
  | succ n ih => simp [natLE, ih]

theorem leNat_natLE (n v : Nat) (h : v < 256 ^ n) : leNat (natLE n v) = v := by
  induction n generalizing v with
  | zero => simp only [Nat.pow_zero, Nat.lt_one_iff] at h; subst h; rfl
  | succ n ih =>
    have hv : v / 256 < 256 ^ n := Nat.div_lt_of_lt_mul (by rw [Nat.mul_comm, ← Nat.pow_succ]; exact h)
    simp only [natLE, leNat, ih _ hv, BitVec.toNat_ofNat]
    omega

theorem takeNat_natLE (n v : Nat) (rest : List Byte) (h : v < 256 ^ n) : takeNat n (natLE n v ++ rest) = some (v, rest) := by
  have hlen : ¬(natLE n v ++ rest).length < n := by simp
  rw [takeNat, if_neg hlen, List.take_left' (length_natLE n v), List.drop_left' (length_natLE n v), leNat_natLE n v h]

/-- A word of w = 8 n bits as n bytes. -/
theorem takeNat_word {w : Nat} (n : Nat) (x : BitVec w) (rest : List Byte) (h : 8 * n = w := by decide) :
    takeNat n (natLE n x.toNat ++ rest) = some (x.toNat, rest) :=
  takeNat_natLE n _ rest (by have := x.isLt; rw [show (256 : Nat) = 2 ^ 8 from rfl, ← Nat.pow_mul, h]; exact this)

variable {α : Type} {one : List Byte → Option (α × List Byte)} {enc : α → List Byte}

theorem takeMany_flatMap {l : List α} (h : ∀ x ∈ l, ∀ rest, one (enc x ++ rest) = some (x, rest)) (rest : List Byte) :
    takeMany one l.length (l.flatMap enc ++ rest) = some (l, rest) := by
  induction l with
  | nil => rfl
  | cons x l ih =>
    simp only [List.length_cons, takeMany, List.flatMap_cons, List.append_assoc, h x List.mem_cons_self]
    rw [ih fun y hy => h y (List.mem_cons_of_mem _ hy)]
    rfl

theorem length_le_flatMap {l : List α} (h : ∀ x ∈ l, 1 ≤ (enc x).length) : l.length ≤ (l.flatMap enc).length := by
  induction l with
  | nil => simp
  | cons x l ih =>
    have h1 := h x List.mem_cons_self
    have h2 := ih fun y hy => h y (List.mem_cons_of_mem _ hy)
    simp only [List.length_cons, List.flatMap_cons, List.length_append]
    omega

/-- A counted list reads back as it was. -/
theorem takeList_flatMap {l : List α} (hl : l.length < 2 ^ 32) (h : ∀ x ∈ l, ∀ rest, one (enc x ++ rest) = some (x, rest))
    (h1 : ∀ x ∈ l, 1 ≤ (enc x).length) (rest : List Byte) : takeList one (natLE 4 l.length ++ (l.flatMap enc ++ rest)) = some (l, rest) := by
  have hlen : ¬(natLE 4 l.length ++ (l.flatMap enc ++ rest)).length < l.length := by
    have := length_le_flatMap h1
    simp only [List.length_append, length_natLE]
    omega
  rw [takeList, takeNat_natLE 4 l.length _ hl]
  simp only [hlen, if_false]
  exact takeMany_flatMap h rest

/-! ### What is exported reads back -/

theorem takeWord16_natLE (x : BitVec 16) (rest : List Byte) : takeWord16 (natLE 2 x.toNat ++ rest) = some (x, rest) := by
  simp [takeWord16, takeNat_word 2 x rest]

/-- A tensor as it is exported. -/
def tensorBytes (t : BitVec 16 × List (BitVec 16)) : List Byte :=
  natLE 2 t.1.toNat ++ natLE 4 t.2.length ++ t.2.flatMap fun x => natLE 2 x.toNat

theorem takeTensor_tensorBytes {t : BitVec 16 × List (BitVec 16)} (h : t.2.length < 2 ^ 32) (rest : List Byte) :
    takeTensor (tensorBytes t ++ rest) = some (t, rest) := by
  have hl := takeList_flatMap (one := takeWord16) (enc := fun x : BitVec 16 => natLE 2 x.toNat) h (fun x _ => takeWord16_natLE x)
    (fun _ _ => by simp) rest
  simp only [tensorBytes, List.append_assoc, takeTensor, takeWord16_natLE, hl]
  rfl

/-- A journal entry as it is exported. -/
def journalBytes (j : BitVec 64 × BitVec 256 × BitVec 256) : List Byte := natLE 8 j.1.toNat ++ digestBytes j.2.1 ++ digestBytes j.2.2

theorem bytesNat_digest (x : BitVec 256) (front rest : List Byte) : bytesNat (front ++ (digestBytes x ++ rest)) front.length 32 = x.toNat := by
  have hx : (natLE 32 x.toNat).length = 32 := length_natLE 32 _
  rw [bytesNat, List.drop_left, digestBytes, List.take_left' hx, leNat_natLE 32 _ x.isLt]

theorem takeJournal_journalBytes (j : BitVec 64 × BitVec 256 × BitVec 256) (rest : List Byte) :
    takeJournal (journalBytes j ++ rest) = some (j, rest) := by
  have hlen : ∀ x : BitVec 256, (digestBytes x).length = 32 := fun x => length_natLE 32 _
  have h1 := bytesNat_digest j.2.1 [] (digestBytes j.2.2 ++ rest)
  have h2 := bytesNat_digest j.2.2 (digestBytes j.2.1) rest
  rw [hlen] at h2
  have hn : ¬(digestBytes j.2.1 ++ (digestBytes j.2.2 ++ rest)).length < 64 := by simp only [List.length_append, hlen]; omega
  have hd : (digestBytes j.2.1 ++ (digestBytes j.2.2 ++ rest)).drop 64 = rest := by
    rw [← List.append_assoc, List.drop_left' (by simp [hlen])]
  simp only [journalBytes, List.append_assoc, takeJournal, takeNat_word 8 j.1, hn, if_false, hd, h2]
  rw [show bytesNat (digestBytes j.2.1 ++ (digestBytes j.2.2 ++ rest)) 0 32 = j.2.1.toNat from h1]
  simp

/-- A batch as it is exported. -/
def batchBytes (b : BitVec 64 × List Byte) : List Byte := natLE 8 b.1.toNat ++ natLE 4 b.2.length ++ b.2

theorem takeBatch_batchBytes {b : BitVec 64 × List Byte} (h : b.2.length < 2 ^ 32) (rest : List Byte) :
    takeBatch (batchBytes b ++ rest) = some (b, rest) := by
  simp only [batchBytes, List.append_assoc, takeBatch, takeNat_word 8 b.1, takeNat_natLE 4 b.2.length _ h]
  simp

/-- The parts of what is exported. -/
theorem export_eq (x : Adapt) : x.export_ = natLE 8 x.seed.toNat ++ (natLE 8 x.stepNo.toNat ++ (natLE 4 x.candidate.length ++
    (x.candidate.flatMap tensorBytes ++ (natLE 4 x.journal.length ++ (x.journal.flatMap journalBytes ++
    (natLE 4 x.batches.length ++ (x.batches.flatMap batchBytes ++ []))))))) := by
  simp only [Adapt.export_, tensorsBytes, List.append_assoc, List.append_nil]
  rfl

/-- An exported adaptation reads back as it was. -/
theorem importAdapt_export {x : Adapt} (hc : x.candidate.length < 2 ^ 32) (hw : ∀ w ∈ x.candidate, w.2.length < 2 ^ 32)
    (hj : x.journal.length < 2 ^ 32) (hb : x.batches.length < 2 ^ 32) (hs : ∀ b ∈ x.batches, b.2.length < 2 ^ 32) :
    importAdapt x.export_ = some { x with promoted := none, work := 0 } := by
  have h1 := fun rest => takeList_flatMap hc (fun w h => takeTensor_tensorBytes (hw w h)) (fun _ _ => by simp [tensorBytes]; omega) rest
  have h2 := fun rest => takeList_flatMap hj (fun j _ => takeJournal_journalBytes j) (fun _ _ => by simp [journalBytes]; omega) rest
  have h3 := takeList_flatMap hb (fun b h => takeBatch_batchBytes (hs b h)) (fun _ _ => by simp [batchBytes]; omega) []
  rw [export_eq]
  simp only [importAdapt, takeNat_word 8 x.seed, takeNat_word 8 x.stepNo, h1, h2, h3, Option.map_some, BitVec.ofNat_toNat, BitVec.setWidth_eq]

/-! ### A step -/

theorem keepLast_all {l : List α} {n : Nat} (h : l.length ≤ n) : keepLast n l = l := by
  rw [keepLast, Nat.sub_eq_zero_of_le h, List.drop_zero]

/-- With room for one, what was added last is kept. -/
theorem getLast_keepLast {n : Nat} (h : 1 ≤ n) (l : List α) (x : α) : (keepLast n (l ++ [x])).getLast? = some x := by
  rw [keepLast, List.getLast?_drop, if_neg (by simp; omega), List.getLast?_concat]

/-- A cell after an update step. -/
def adapted (batch : List Byte) (us : List (BitVec 16 × List Word)) (x : Cell) : Cell :=
  { x with adapt := x.adapt.update x.bundle (x.get .adaptKeep) batch us }

/-- The journal's newest entry is that of the step. -/
theorem journal_adapted (batch : List Byte) (us : List (BitVec 16 × List Word)) {x : Cell} (hk : 1 ≤ x.get .adaptKeep) :
    ∃ d, (adapted batch us x).adapt.journal.getLast? = some (x.adapt.stepNo, Config.shake256 batch, d) :=
  ⟨_, getLast_keepLast hk _ _⟩

theorem adaptUpdateStepEffect_runs {s : State} {c : CellId} {labels : List BlockRef} (hm : ((s.cell c).inPlan (s.procNow c)).get .adaptMode = 1)
    (hw : 0 < (s.cell c).adapt.work) (hl : labels ≠ []) (hin : ∀ l ∈ labels, l ∈ (s.cell c).labels) (batch : List Byte)
    (us : List (BitVec 16 × List Word)) : adaptUpdateStepEffect c labels batch us s = s.modCell c (adapted batch us) := by
  have hall : (labels.all fun l => (s.cell c).labels.contains l) = true := by simpa using hin
  unfold adaptUpdateStepEffect
  exact if_pos ⟨hm, hw, hl, hall⟩

/-! ### The commands -/

theorem agentWrite_dram {s : State} {a off : Nat} {bs : List Byte} (h : placeOf a bs.length = .dram off) (src : Source) :
    s.agentWrite src a bs = { s with mem := memWrite s.mem a bs } := by
  rw [State.agentWrite, h]

/-- BLOB brings its bytes without a read. -/
theorem broughtBytes_blob {l : List MItem} {bs : List Byte} (h : itemVal l 12 = some bs) (s : State) : s.broughtBytes l = (some bs, s) := by
  rw [State.broughtBytes, h]

theorem cellReply_some {l : List MItem} {c : CellId} (h : itemsCell l = some c) (s : State) (f : CellId → Reply) : cellReply l s f = f c := by
  rw [cellReply, h]

section
variable {s : State} {m : MboxId} {l : List MItem} {c : CellId}

/-- ADAPT_EXPORT to an address in DRAM writes the bytes there. -/
theorem adaptExport_writes {a off : Nat} (h : MbRuns s m 0x2C (orItems cellItem adaptItems) l) (hc : itemsCell l = some c)
    (ha : itemNum l 7 = some a) (hp : placeOf a (s.cell c).adapt.export_.length = .dram off) :
    MbStarts (.adaptExport m) s m 0x2C (some c) (itemBytes 11 (natLE 4 (s.cell c).adapt.export_.length)) [.mem] fun t =>
      t.mem = memWrite s.mem a (s.cell c).adapt.export_ ∧ MemOnly a (s.cell c).adapt.export_.length s t := by
  have hmem : ((quieted s m).agentWrite Source.hall a (s.cell c).adapt.export_).mem = memWrite s.mem a (s.cell c).adapt.export_ := by
    rw [agentWrite_dram hp, quieted_mem]
  have hk : ReplyKeeps [.mem] (quieted s m) ((quieted s m).agentWrite Source.hall a (s.cell c).adapt.export_) := by
    rw [agentWrite_dram hp]; exact .of_touches (setMem_touches _ _)
  refine mbStarts_of h hc rfl ?_ hk fun t ht => ?_
  · simp only [cellReply_some hc, ha, cell_quieted]
    rfl
  · have he := ht.2 .mem (by decide)
    simp only [Part.same, hmem] at he
    exact ⟨he, fun x hx => by rw [he]; exact memByte_outside hx⟩

/-- ADAPT_EXPORT without an address returns the bytes. -/
theorem adaptExport_returns (h : MbRuns s m 0x2C (orItems cellItem adaptItems) l) (hc : itemsCell l = some c) (ha : itemNum l 7 = none) :
    MbStarts (.adaptExport m) s m 0x2C (some c) (itemBytes 11 (natLE 4 (s.cell c).adapt.export_.length) ++
      itemBytes 12 (((s.cell c).adapt.export_.drop ((itemNum l 4).getD 0)).take 4064)) [] fun _ => True := by
  refine mbStarts_of h hc rfl (u := quieted s m) ?_ (.refl _ _) fun _ _ => trivial
  simp only [cellReply_some hc, ha, cell_quieted]
  rfl

/-- ADAPT_IMPORT of bytes that do not read back as an adaptation is refused. -/
theorem adaptImport_refuses {bs : List Byte} (h : MbRuns s m 0x2D (orItems cellItem adaptItems) l) (hc : itemsCell l = some c)
    (hv : itemVal l 12 = some bs) (hi : importAdapt bs = none) : ∃ d, MbDoes (.adaptImport m) s m 0x2D 2 d [] [] fun _ => True := by
  refine ⟨itemOffset l (if (itemVal l 12).isSome then 12 else 7), mbDoes_of h rfl (u := quieted s m) (hold := .background) ?_ (.inr (by decide)) (.refl _ _) fun _ _ => trivial⟩
  simp only [cellReply_some hc, broughtBytes_blob hv, Option.bind_some, hi]
  rfl

/-- A cell with an adaptation installed; its promoted weights stay. -/
def installed (x : Adapt) (z : Cell) : Cell := { z with adapt := { x with promoted := z.adapt.promoted } }

/-- ADAPT_IMPORT installs what it reads back. -/
theorem adaptImport_installs {bs : List Byte} {x : Adapt} (h : MbRuns s m 0x2D (orItems cellItem adaptItems) l) (hc : itemsCell l = some c)
    (hv : itemVal l 12 = some bs) (hi : importAdapt bs = some x) (hj : x.journal.length ≤ (s.cell c).get .adaptKeep)
    (hb : x.batches.length ≤ (s.cell c).get .adaptKeep) : MbStarts (.adaptImport m) s m 0x2D (some c) [] [.cells] fun t =>
      t.cell c = installed x (s.cell c) ∧ OtherCells c s t := by
  refine mbStarts_of h hc rfl (u := (quieted s m).modCell c (installed x)) ?_ (.of_touches (modCell_touches _ c _)) fun t ht => ?_
  · simp only [cellReply_some hc, broughtBytes_blob hv, Option.bind_some, hi, cell_quieted, keepLast_all hj, keepLast_all hb]
    rfl
  · have hcells := ht.2 .cells (by decide)
    simp only [Part.same] at hcells
    refine ⟨?_, fun d hd => ?_⟩
    · rw [cell_eq_of_cells hcells, cell_modCell_same, cell_quieted]
    · rw [cell_eq_of_cells hcells, cell_modCell_ne _ _ hd.symm, cell_quieted]

/-- ADAPT_REPLAY of one batch returns its step number and the digest of the weights after it. -/
theorem adaptReplay_returns {bs : List Byte} {us : List (List (BitVec 16 × List Word))} {x : Adapt} {k : BitVec 64} {b : List Byte}
    (h : MbRuns s m 0x2E (orItems cellItem adaptItems) l) (hc : itemsCell l = some c) (hv : itemVal l 12 = some bs)
    (hi : importAdapt bs = some x) (hbat : x.batches = [(k, b)]) (hus : us.length = 1) (hfrom : itemNum l 4 = none) :
    MbStarts (.adaptReplay m us) s m 0x2E (some c) (itemBytes 12 (natLE 8 k.toNat ++
      digestBytes (Config.shake256 (weightBytes (Adapt.update { x with stepNo := k } (s.cell c).bundle 1 b (us.getD 0 [])).candidate)))) []
      fun _ => True := by
  obtain ⟨u, rfl⟩ := List.length_eq_one_iff.1 hus
  refine mbStarts_of h hc rfl (u := quieted s m) ?_ (.refl _ _) fun _ _ => trivial
  simp only [cellReply_some hc, broughtBytes_blob hv, Option.bind_some, hi, hbat, hfrom, cell_quieted, List.map_cons, List.map_nil, List.zip_cons_cons,
    List.zip_nil_left, Adapt.replay, List.head?_cons, Option.map_some, Option.getD_some, Option.getD_none, List.drop_zero, List.take_succ_cons,
    List.take_nil, List.flatMap_cons, List.flatMap_nil, List.append_nil]
  rfl

end

/-- Settles O13: what is exported is a row of counted lists, each of which reads back, and each command is one reply in the background. -/
theorem adaptationsStepExportAndImport : Obligations.AdaptationsStepExportAndImport := by
  refine ⟨⟨?_, ?_⟩, ?_, ?_, ?_, ?_⟩
  · intro c labels batch us s hm hk hw hl hin
    obtain ⟨d, hd⟩ := journal_adapted batch us hk
    refine ⟨_, d, exec_next rfl (adaptUpdateStepEffect_runs hm hw hl hin batch us), ?_, ?_, ?_, ?_, modCell_only s c _, otherCells_modCell s c _⟩
    · rw [cell_modCell_same]; rfl
    · rw [cell_modCell_same]; exact hd
    · rw [cell_modCell_same]; rfl
    · rw [cell_modCell_same]; rfl
  · intro c labels batch us s hm
    show Host.Outcome.next (adaptUpdateStepEffect c labels batch us s) = _
    unfold adaptUpdateStepEffect
    simp [hm]
  · intro x hc hw hj hb hs
    exact importAdapt_export hc hw hj hb hs
  · intro s m l c h hc
    exact ⟨fun a off ha hp => adaptExport_writes h hc ha hp, fun ha => adaptExport_returns h hc ha⟩
  · intro s m l c bs h hc hv
    exact ⟨fun hi => adaptImport_refuses h hc hv hi, fun x hi hj hb => adaptImport_installs h hc hv hi hj hb⟩
  · intro s m l c bs us x k b h hc hv hi hbat hus hfrom
    exact adaptReplay_returns h hc hv hi hbat hus hfrom

end Sys2Proof.Safety
end

/-! The slots of a cell in time: the slot that an instant lies in, and the slot that a cell starts with (R326, R320). -/
section
namespace Sys2Proof.Safety
open Sys2Proof.Machine

/-! ### Slot starts within a frame -/

/-- Every slot starts at or after its nominal start, and before that of the next; the slots fill the frame of 10 ms. -/
structure SlotGrid (mu : Nat) : Prop where
  pos : 0 < slotsPerFrame mu
  frame : (slotsPerFrame mu * (slotNs mu * 65536) : Nat) = ns 10000000
  zero : slotStart mu 0 = 0
  lo : ∀ k, k * (slotNs mu * 65536) ≤ slotStart mu k
  hi : ∀ k, slotStart mu k < (k + 1) * (slotNs mu * 65536)

theorem slotGrid {mu : Nat} (h : mu = 0 ∨ mu = 1 ∨ mu = 3) : SlotGrid mu := by
  rcases h with rfl | rfl | rfl
  · refine ⟨by decide, by decide, by decide, fun k => ?_, fun k => ?_⟩ <;> simp [slotStart, slotNs] <;> omega
  · refine ⟨by decide, by decide, by decide, fun k => ?_, fun k => ?_⟩ <;> simp [slotStart, slotNs] <;> omega
  · refine ⟨by decide, by decide, by decide, fun k => ?_, fun k => ?_⟩ <;>
      simp only [slotStart, slotNs, tcUnits, if_true] <;> split <;> omega

/-! ### Slot starts -/

variable {f : FrameTiming}

/-- The start of slot k of a frame. -/
theorem start_frame (h : SlotGrid f.mu) (fr : Int) {k : Nat} (hk : k < slotsPerFrame f.mu) :
    f.start (fr * slotsPerFrame f.mu + k) = f.base + ns (fr * 10000000) + slotStart f.mu k := by
  have hp : (0 : Int) < slotsPerFrame f.mu := by exact_mod_cast h.pos
  have hdiv : (fr * slotsPerFrame f.mu + k : Int) / slotsPerFrame f.mu = fr := by
    rw [Int.add_comm, Int.add_mul_ediv_right _ _ (ne_of_gt hp), Int.ediv_eq_zero_of_lt (by omega) (by exact_mod_cast hk), Int.zero_add]
  have hmod : (fr * slotsPerFrame f.mu + k : Int) % slotsPerFrame f.mu = k := by
    rw [Int.add_comm, Int.add_mul_emod_self_right, Int.emod_eq_of_lt (by omega) (by exact_mod_cast hk)]
  simp only [FrameTiming.start, hdiv, hmod, Int.toNat_natCast]

theorem ns_add (a b : Int) : ns (a + b) = ns a + ns b := Int.add_mul a b 65536

/-- The next slot starts at its nominal start or later. -/
theorem start_next (h : SlotGrid f.mu) (fr : Int) {k : Nat} (hk : k < slotsPerFrame f.mu) :
    f.base + ns (fr * 10000000) + ((k + 1) * (slotNs f.mu * 65536) : Nat) ≤ f.start (fr * slotsPerFrame f.mu + k + 1) := by
  rcases Nat.lt_or_ge (k + 1) (slotsPerFrame f.mu) with hlt | hge
  · have hs := start_frame h fr hlt
    rw [Nat.cast_add, Nat.cast_one, ← Int.add_assoc] at hs
    rw [hs]
    have := h.lo (k + 1)
    omega
  · have hkp : k + 1 = slotsPerFrame f.mu := by omega
    have hs := start_frame h (fr + 1) h.pos
    have hn : (fr + 1) * slotsPerFrame f.mu + ((0 : Nat) : Int) = fr * slotsPerFrame f.mu + k + 1 := by
      rw [Int.add_mul, ← hkp]; push_cast; omega
    rw [hn, Int.add_mul, Int.one_mul, ns_add, h.zero] at hs
    rw [hs, hkp, h.frame]
    omega

/-- Slots start one after the other. -/
theorem start_lt_succ (h : SlotGrid f.mu) (n : Int) : f.start n < f.start (n + 1) := by
  have hp : (0 : Int) < slotsPerFrame f.mu := by exact_mod_cast h.pos
  obtain ⟨k, hk⟩ := Int.eq_ofNat_of_zero_le (Int.emod_nonneg n (ne_of_gt hp))
  have hlt : k < slotsPerFrame f.mu := by have := Int.emod_lt_of_pos n hp; omega
  have hn : n = n / slotsPerFrame f.mu * slotsPerFrame f.mu + k := by rw [← hk, Int.mul_comm, Int.mul_ediv_add_emod]
  have h1 := start_frame h (n / slotsPerFrame f.mu) hlt
  have h2 := start_next h (n / slotsPerFrame f.mu) hlt
  have h3 := h.hi k
  rw [← hn] at h1 h2
  omega

/-- An instant lies in its slot: at or after its start, and before the next. -/
theorem slotAt_spec (h : SlotGrid f.mu) (t : Int) : f.start (f.slotAt t) ≤ t ∧ t < f.start (f.slotAt t + 1) := by
  have hfr : (0 : Int) < ns 10000000 := by decide
  generalize hu : t - f.base = u
  obtain ⟨r, hr⟩ := Int.eq_ofNat_of_zero_le (show 0 ≤ u - u / ns 10000000 * ns 10000000 by
    have := Int.emod_nonneg u (ne_of_gt hfr); have := Int.mul_ediv_add_emod u (ns 10000000); rw [Int.mul_comm] at this; omega)
  have hrlt : (r : Int) < ns 10000000 := by
    have := Int.emod_lt_of_pos u hfr; have := Int.mul_ediv_add_emod u (ns 10000000); rw [Int.mul_comm] at this; omega
  have hns : ns (u / ns 10000000 * 10000000) = u / ns 10000000 * ns 10000000 := Int.mul_assoc _ _ _
  have ht : t = f.base + ns (u / ns 10000000 * 10000000) + r := by rw [hns]; omega
  have hS : 0 < slotNs f.mu * 65536 := by
    have := h.hi 0
    omega
  have hklt : r / (slotNs f.mu * 65536) < slotsPerFrame f.mu := by
    rw [Nat.div_lt_iff_lt_mul hS]
    have := h.frame
    omega
  have hlo := Nat.div_mul_le_self r (slotNs f.mu * 65536)
  have hhi : r < (r / (slotNs f.mu * 65536) + 1) * (slotNs f.mu * 65536) := by
    rw [Nat.mul_comm]; exact Nat.lt_mul_div_succ r hS
  have hslot : f.slotAt t = u / ns 10000000 * slotsPerFrame f.mu +
      ((if slotStart f.mu (r / (slotNs f.mu * 65536)) ≤ r then r / (slotNs f.mu * 65536) else r / (slotNs f.mu * 65536) - 1 : Nat) : Int) := by
    simp only [FrameTiming.slotAt, hu, hr]
    rfl
  generalize r / (slotNs f.mu * 65536) = k at hklt hlo hhi hslot
  have hstart := start_frame h (u / ns 10000000) hklt
  rw [hslot]
  split
  · have hnext := start_next h (u / ns 10000000) hklt
    omega
  · have hk : 1 ≤ k := by
      rcases Nat.eq_zero_or_pos k with hz | hz
      · subst hz; have := h.zero; omega
      · exact hz
    have hj : k - 1 < slotsPerFrame f.mu := by omega
    have hprev := start_frame h (u / ns 10000000) hj
    have hphi := h.hi (k - 1)
    rw [Nat.sub_add_cancel hk] at hphi
    have hsucc : u / ns 10000000 * slotsPerFrame f.mu + ((k - 1 : Nat) : Int) + 1 = u / ns 10000000 * slotsPerFrame f.mu + (k : Int) := by omega
    rw [hsucc]
    omega

/-! ### The slot that a cell starts with -/

/-- The first slot that starts at or after an instant. -/
def firstSlot (f : FrameTiming) (t : Int) : Int := if f.start (f.slotAt t) < t then f.slotAt t + 1 else f.slotAt t

theorem firstSlot_spec (h : SlotGrid f.mu) (t : Int) : t ≤ f.start (firstSlot f t) ∧ f.start (firstSlot f t - 1) < t := by
  obtain ⟨hlo, hhi⟩ := slotAt_spec h t
  unfold firstSlot
  split
  · rw [Int.add_sub_cancel]; omega
  · have hprev := start_lt_succ h (f.slotAt t - 1)
    rw [Int.sub_add_cancel] at hprev
    omega

/-- A cell served from the slot after one. -/
def startedCell (k : Int) (x : Cell) : Cell := { x with running := true, stopping := false, lastSlot := some (k - 1), depthMiss := 0 }

theorem startCell_eq (s : State) (c : CellId) : s.startCell c =
    s.modCell c (startedCell (firstSlot (s.frameTiming c) (s.now + ns 300000 + ns ((s.frameTiming c).planLead * 1000 : Nat)))) := rfl

end Sys2Proof.Safety
end

/-! CELL_CONFIGURE: what the items set, what the acceptance keeps of every cell, and the answers (R36, R37, R320, R326, R381). -/
section
namespace Sys2Proof.Safety
open Sys2Proof.Machine

/-! ### Parameters -/

theorem cellParam_idx_injective {p q : CellParam} (h : p.idx = q.idx) : p = q := by
  have at_idx : ∀ r : CellParam, CellParam.all[r.idx.val]? = some r := fun r => by cases r <;> rfl
  exact Option.some.inj (by rw [← at_idx p, ← at_idx q, h])

theorem get_set_same (x : Cell) (p : CellParam) (v : Nat) : (x.set p v).get p = v := by simp [Cell.get, Cell.set]

theorem get_set_ne (x : Cell) {p q : CellParam} (v : Nat) (h : p ≠ q) : (x.set p v).get q = x.get q := by
  have hidx : p.idx ≠ q.idx := fun e => h (cellParam_idx_injective e)
  simp [Cell.get, Cell.set, hidx]

/-- A step that sets the parameter of a specification, or leaves the cell alone. -/
def setSome (val : ParamSpec → Option Nat) (x : Cell) (p : ParamSpec) : Cell :=
  match val p with
  | some v => x.set p.param v
  | none => x

theorem get_setSome_ne (val : ParamSpec → Option Nat) (x : Cell) (p : ParamSpec) {q : CellParam} (h : p.param ≠ q) :
    (setSome val x p).get q = x.get q := by
  unfold setSome
  split
  · exact get_set_ne x _ h
  · rfl

theorem get_setSome_same (val : ParamSpec → Option Nat) (x : Cell) (p : ParamSpec) :
    (setSome val x p).get p.param = (val p).getD (x.get p.param) := by
  unfold setSome
  split
  · rename_i v hv; rw [get_set_same, hv]; rfl
  · rename_i hv; rw [hv]; rfl

/-- Parameters that a list does not name are kept. -/
theorem get_foldl_setSome_ne (val : ParamSpec → Option Nat) (ps : List ParamSpec) (x : Cell) {q : CellParam} (h : ∀ p ∈ ps, p.param ≠ q) :
    (ps.foldl (setSome val) x).get q = x.get q := by
  induction ps generalizing x with
  | nil => rfl
  | cons p ps ih =>
    rw [List.foldl_cons, ih _ fun p' hp' => h p' (List.mem_cons_of_mem _ hp'), get_setSome_ne val x p (h p List.mem_cons_self)]

/-- A parameter that a list names once takes its value. -/
theorem get_foldl_setSome (val : ParamSpec → Option Nat) (ps : List ParamSpec) (x : Cell) (hps : (ps.map (·.param)).Nodup) {p : ParamSpec}
    (hp : p ∈ ps) : (ps.foldl (setSome val) x).get p.param = (val p).getD (x.get p.param) := by
  induction ps generalizing x with
  | nil => simp at hp
  | cons a ps ih =>
    obtain ⟨ha, hps⟩ := List.nodup_cons.mp (List.map_cons ▸ hps)
    have hne : ∀ p' ∈ ps, p'.param ≠ a.param := fun p' hp' e => ha (e ▸ List.mem_map_of_mem hp')
    rcases List.mem_cons.mp hp with rfl | hp'
    · rw [List.foldl_cons, get_foldl_setSome_ne val ps _ hne, get_setSome_same]
    · rw [List.foldl_cons, ih _ hps hp', get_setSome_ne val x a (hne p hp').symm]

theorem foldl_setSome_running (val : ParamSpec → Option Nat) (ps : List ParamSpec) (x : Cell) :
    (ps.foldl (setSome val) x).running = x.running := by
  induction ps generalizing x with
  | nil => rfl
  | cons a ps ih =>
    rw [List.foldl_cons, ih]
    unfold setSome
    split <;> rfl

/-- The parameters of CELL_CONFIGURE. -/
abbrev configParams : List ParamSpec := cellParams ++ frontParams ++ frameParams

/-- The cell that CELL_CONFIGURE starts from: at the first configuration, one with the defaults. -/
def baseCell (x : Cell) (c : CellId) : Cell :=
  if x.configured then x else configParams.foldl (setSome fun p => some (p.param.default c)) x

theorem configuredBy_eq (x : Cell) (c : CellId) (l : List MItem) :
    x.configuredBy c l = { configParams.foldl (setSome fun p => itemNum l p.id) (baseCell x c) with configured := true } := rfl

theorem configuredBy_running (x : Cell) (c : CellId) (l : List MItem) : (x.configuredBy c l).running = x.running := by
  rw [configuredBy_eq]
  show (configParams.foldl (setSome fun p => itemNum l p.id) (baseCell x c)).running = x.running
  rw [foldl_setSome_running, baseCell]
  split
  · rfl
  · exact foldl_setSome_running _ _ x

theorem configuredBy_get (x : Cell) (c : CellId) (l : List MItem) {p : ParamSpec} (hp : p ∈ configParams) :
    (x.configuredBy c l).get p.param = (itemNum l p.id).getD (if x.configured then x.get p.param else p.param.default c) := by
  have hnodup : (configParams.map (·.param)).Nodup := by decide
  rw [configuredBy_eq]
  show (configParams.foldl (setSome fun p => itemNum l p.id) (baseCell x c)).get p.param = _
  rw [get_foldl_setSome _ _ _ hnodup hp, baseCell]
  split
  · rfl
  · rw [get_foldl_setSome _ _ _ hnodup hp]; rfl

/-! ### What an acceptance keeps -/

/-- Settings of every cell, and which cells are configured. -/
structure SameSetup (s t : State) : Prop where
  settings : SameSettings s t
  configured : ∀ c, (t.cell c).configured = (s.cell c).configured

namespace SameSetup

theorem refl (s : State) : SameSetup s s := ⟨.refl s, fun _ => rfl⟩

theorem trans {s t u : State} (h : SameSetup s t) (k : SameSetup t u) : SameSetup s u :=
  ⟨h.settings.trans k.settings, fun c => (k.configured c).trans (h.configured c)⟩

theorem foldl {α : Type} (f : State → α → State) (hf : ∀ s a, SameSetup s (f s a)) (l : List α) (s : State) : SameSetup s (l.foldl f s) := by
  induction l generalizing s with
  | nil => exact refl s
  | cons a l ih => exact (hf s a).trans (ih (f s a))

theorem of_only {ps : List Part} {s t : State} (h : OnlyChanges ps s t) (hc : Part.cells ∉ ps := by decide)
    (ht : Part.time ∉ ps := by decide) : SameSetup s t :=
  ⟨.of_cells (h.2 .cells hc) (h.2 .time ht), fun c => by rw [cell_eq_of_cells (h.2 .cells hc)]⟩

theorem modCell (s : State) (c : CellId) (f : Cell → Cell)
    (hf : ∀ x, (f x).running = x.running ∧ (f x).param = x.param ∧ (f x).changes = x.changes := by intro x; exact ⟨rfl, rfl, rfl⟩)
    (hg : ∀ x, (f x).configured = x.configured := by intro x; rfl) : SameSetup s (s.modCell c f) :=
  ⟨.modCell s c f hf, fun d => by
    by_cases h : c = d
    · subst h; rw [cell_modCell_same, hg]
    · rw [cell_modCell_ne s f h]⟩

end SameSetup

theorem modSec_touches (s : State) (f : Security → Security) : Touches [.sec] s (s.modSec f) :=
  .of_only ⟨rfl, fun p hp => by cases p <;> first | rfl | simp at hp⟩

theorem setTiming_touches (s : State) (c : CellId) : Touches [.time] s (s.setTiming c) :=
  .of_only ⟨rfl, fun p hp => by cases p <;> first | rfl | simp at hp⟩

theorem timing_setTiming (s : State) (c : CellId) : vget (s.setTiming c).time.timing c =
    some ⟨(s.cell c).get .mu, (s.cell c).get .planLead, (s.cell c).get .frameOffsetNs, (s.cell c).get .sfnOffset⟩ := by
  simp [State.setTiming]

theorem placeCell_spec (s : State) (c : CellId) : Touches [.cells, .free] s (s.placeCell c) ∧ SameSetup s (s.placeCell c) :=
  ⟨(drew_touches s 2).andThen (modCell_touches _ c _), (SameSetup.of_only (drew_only s 2)).trans (.modCell _ c _)⟩

theorem drawSeed_spec (s : State) (c : CellId) : Touches [.cells, .sec] s (s.drawSeed c) ∧ SameSetup s (s.drawSeed c) := by
  unfold State.drawSeed
  dsimp only
  split
  · exact ⟨(modCell_touches s c _).andThen (modSec_touches _ _), (SameSetup.modCell s c _).trans (.of_only (modSec_touches _ _).only)⟩
  · exact ⟨.refl _ s, .refl s⟩

/-- One cell takes its share and its limit, with the event. -/
theorem adjustLoad_spec (s : State) : Touches [.cells, .dev, .host] s s.adjustLoad ∧ SameSetup s s.adjustLoad := by
  unfold State.adjustLoad
  dsimp only
  split
  · exact ⟨.refl _ s, .refl s⟩
  · refine ⟨.foldl _ (fun s c => ?_) _ s, .foldl _ (fun s c => ?_) _ s⟩
    · exact .ite (.refl _ s) ((modCell_touches s c _).andThen (raise_touches _ _ _ _))
    · split
      · exact .refl s
      · exact (SameSetup.modCell s c _).trans (.of_only (raise_only _ _ _ _))

/-! ### The acceptance -/

/-- What an acceptance may change, beside the events. -/
abbrev acceptParts : List Part := [.cells, .time, .pwr, .sec, .free, .dev, .host]

/-- An acceptance: cell c is y in its settings, its timing is as they say, and every other cell is configured as it was. -/
theorem acceptCell_spec (s : State) (c : CellId) (y : Cell) (seed : Option Nat) :
    Touches acceptParts s (s.acceptCell c y seed) ∧
    ∃ z w, z.running = y.running ∧ z.param = y.param ∧ z.configured = y.configured ∧ SameSetup (s.modCell c fun _ => z) w ∧
      SameSetup (w.setTiming c) (s.acceptCell c y seed) := by
  unfold State.acceptCell
  dsimp only
  set z : Cell := { y with
    reserveNow := y.get .reservePct, prbCap := 1000, changes := (s.cell c).keepUntil (s.procNow c)
    adapt := { y.adapt with
      seed := (seed.map (BitVec.ofNat 64)).getD y.adapt.seed
      journal := keepLast (y.get .adaptKeep) y.adapt.journal, batches := keepLast (y.get .adaptKeep) y.adapt.batches } }
  set w := if (s.cell c).configured ∧ (s.cell c).get .nPrb = y.get .nPrb ∧ (s.cell c).get .nUl = y.get .nUl then
    s.modCell c fun _ => z else (s.modCell c fun _ => z).placeCell c with hw
  have hplace : Touches [.cells, .free] (s.modCell c fun _ => z) w ∧ SameSetup (s.modCell c fun _ => z) w := by
    rw [hw]
    split
    · exact ⟨.refl _ _, .refl _⟩
    · exact placeCell_spec _ c
  have hpwr : ∀ f, Touches [.pwr] ((w.setTiming c).drawSeed c) (((w.setTiming c).drawSeed c).modPwr f) := fun f => setPwr_touches _ _
  refine ⟨?_, z, w, rfl, rfl, rfl, hplace.2, ?_⟩
  · have h1 : Touches acceptParts s (w.setTiming c) :=
      ((modCell_touches s c _).andThen hplace.1 (rs := acceptParts)).andThen (setTiming_touches w c)
    exact ((h1.andThen (drawSeed_spec _ c).1 (rs := acceptParts)).andThen (hpwr _) (rs := acceptParts)).andThen (adjustLoad_spec _).1
  · exact ((drawSeed_spec _ c).2.trans (.of_only (hpwr _).only)).trans (adjustLoad_spec _).2

/-! ### The answers -/

/-- A command whose answer is never put off. -/
theorem mbDoes_of_now {i : Instr} {s u : State} {m : MboxId} {code status detail : Nat} {allow : Nat → List Byte → Option Bool} {l : List MItem}
    {f : List MItem → State → Reply} {items : List Byte} {ps : List Part} {P : State → Prop} (h : MbRuns s m code allow l)
    (he : exec i s = .next (s.mbNow m code allow f)) (hf : f l (quieted s m) = ⟨status, detail, items, u⟩)
    (hu : ReplyKeeps ps (quieted s m) u) (hP : ∀ t, OnlyChanges mbParts u t → P t) : MbDoes i s m code status detail items ps P :=
  mbDoes_of (hold := .now) h (by rw [he, State.mbNow]) (congrArg (·, Hold.now) hf) (.inl rfl) hu hP

theorem cellOf_val (c : CellId) : cellOf c.val = c := Fin.ext (Nat.mod_eq_of_lt c.isLt)

section
variable {s : State} {m : MboxId} {l : List MItem} {c : CellId} {y : Cell}

/-- A request that asks a running cell for what may not change is denied. -/
theorem configure_denied (h : MbRuns s m 0x20 configureItems l) (hk : itemNum l 0x0101 = some c.val) (hy : (s.cell c).configuredBy c l = y)
    (hr : (s.cell c).running = true) (hd : ∃ p ∈ fixedParams, (s.cell c).get p.2 ≠ y.get p.2) :
    ∃ d, MbDoes (.cellConfigure m) s m 0x20 3 d [] [] fun _ => True := by
  obtain ⟨p, hp, hne⟩ := hd
  cases hfind : fixedParams.find? fun p => (s.cell c).get p.2 != y.get p.2 with
  | none => simpa [hne] using List.find?_eq_none.mp hfind p hp
  | some q =>
    refine ⟨q.1, mbDoes_of_now (u := quieted s m) h rfl ?_ (.refl _ _) fun _ _ => trivial⟩
    simp only [hk, cellOf_val, cell_quieted, hy, hr, if_true, hfind]
    rfl

/-- Past what may not change, the range of N_PRB and ADAPT_SEED. -/
structure ConfigGood (s : State) (l : List MItem) (c : CellId) (y : Cell) : Prop where
  fixed : (s.cell c).running = false ∨ ∀ p ∈ fixedParams, (s.cell c).get p.2 = y.get p.2
  prbs : y.get .nPrb ≤ maxPrb (y.get .mu)
  seed : itemVal l 0x0112 = none ∨ y.get .adaptMode ≠ 1

theorem ConfigGood.find (g : ConfigGood s l c y) :
    (if (s.cell c).running then fixedParams.find? fun p => (s.cell c).get p.2 != y.get p.2 else none) = none := by
  rcases g.fixed with h | h
  · simp [h]
  · split
    · exact List.find?_eq_none.mpr fun p hp => by simp [h p hp]
    · rfl

/-- The reply of CELL_CONFIGURE to a good request: what does not fit is refused, the rest accepted. -/
theorem configure_of_good {status detail : Nat} {u : State} {ps : List Part} {P : State → Prop} (h : MbRuns s m 0x20 configureItems l)
    (hk : itemNum l 0x0101 = some c.val) (hy : (s.cell c).configuredBy c l = y) (g : ConfigGood s l c y)
    (hf : (if (s.modCell c fun _ => y).loadFits = false then Reply.bad (quieted s m) stNoResource 0x0101
      else if (s.modCell c fun _ => y).portsFit = false then Reply.bad (quieted s m) stNoResource 0x0107
      else if (s.modCell c fun _ => y).queuesFit = false then Reply.bad (quieted s m) stNoResource 0x0103
      else if (s.modCell c fun _ => y).usbFits = false then Reply.bad (quieted s m) stNoResource 0x0110
      else Reply.ok (((quieted s m).acceptCell c y (itemNum l 0x0112)).mirror (0 :: (itemBytes 0x0101 [BitVec.ofNat 8 c.val]
        ++ paramItems (cellParams ++ frontParams ++ frameParams) (((quieted s m).acceptCell c y (itemNum l 0x0112)).cell c))))) =
      ⟨status, detail, [], u⟩) (hu : ReplyKeeps ps (quieted s m) u) (hP : ∀ t, OnlyChanges mbParts u t → P t) :
    MbDoes (.cellConfigure m) s m 0x20 status detail [] ps P := by
  have hseed : ¬ ((itemVal l 0x0112).isSome = true ∧ y.get .adaptMode = 1) := by
    rintro ⟨hs, hm⟩
    rcases g.seed with h0 | h0
    · simp [h0] at hs
    · exact h0 hm
  refine mbDoes_of_now h rfl ?_ hu hP
  rw [← hf]
  simp only [hk, cellOf_val, cell_quieted, hy, g.find, if_neg (Nat.not_lt.mpr g.prbs), if_neg hseed]
  rfl

/-- A cell that fits is configured with the items given. -/
theorem configure_accepts (h : MbRuns s m 0x20 configureItems l) (hk : itemNum l 0x0101 = some c.val)
    (hy : (s.cell c).configuredBy c l = y) (g : ConfigGood s l c y) (h1 : (s.modCell c fun _ => y).loadFits = true)
    (h2 : (s.modCell c fun _ => y).portsFit = true) (h3 : (s.modCell c fun _ => y).queuesFit = true)
    (h4 : (s.modCell c fun _ => y).usbFits = true) :
    MbDoes (.cellConfigure m) s m 0x20 0 0 [] [.cells, .time, .pwr, .sec, .free, .valley] fun t =>
      (t.cell c).configured = true ∧ (t.cell c).running = (s.cell c).running ∧
      (∀ p ∈ cellParams ++ frontParams ++ frameParams, (t.cell c).get p.param = (itemNum l p.id).getD
        (if (s.cell c).configured then (s.cell c).get p.param else p.param.default c)) ∧
      vget t.time.timing c = some ⟨y.get .mu, y.get .planLead, y.get .frameOffsetNs, y.get .sfnOffset⟩ ∧
      ∀ d, d ≠ c → (t.cell d).param = (s.cell d).param ∧ (t.cell d).running = (s.cell d).running := by
  obtain ⟨htouch, z, w, hzr, hzp, hzc, hw, hset⟩ := acceptCell_spec (quieted s m) c y (itemNum l 0x0112)
  set a := (quieted s m).acceptCell c y (itemNum l 0x0112) with ha
  set bytes := 0 :: (itemBytes 0x0101 [BitVec.ofNat 8 c.val] ++ paramItems (cellParams ++ frontParams ++ frameParams) (a.cell c))
  have hmir := mirror_touches a bytes
  refine configure_of_good (u := a.mirror bytes) h hk hy g (by simp [h1, h2, h3, h4]; rfl) ?_ fun t ht => ?_
  · exact .of_touches (htouch.andThen hmir (rs := [.cells, .time, .pwr, .sec, .free, .dev, .host, .qps, .valley, .out]))
  have hwc : ∀ d, (w.setTiming c).cell d = w.cell d := (setTiming_touches w c).cell
  have hkept : SameSetup (w.setTiming c) t := (hset.trans (.of_only hmir.only)).trans (.of_only ht)
  have hcell : ((quieted s m).modCell c fun _ => z).cell c = z := cell_modCell_same _ _ _
  have hparam : (t.cell c).param = y.param := by
    rw [hkept.settings.param, hwc, hw.settings.param, hcell, hzp]
  have hget : ∀ p, (t.cell c).get p = y.get p := fun p => by rw [Cell.get, hparam]; rfl
  have hwget : ∀ p, (w.cell c).get p = y.get p := fun p => by rw [hw.settings.get, hcell, Cell.get, hzp]; rfl
  refine ⟨?_, ?_, fun p hp => ?_, ?_, fun d hd => ⟨?_, ?_⟩⟩
  · rw [hkept.configured, hwc, hw.configured, hcell, hzc, ← hy, configuredBy_eq]
  · rw [hkept.settings.running, hwc, hw.settings.running, hcell, hzr, ← hy, configuredBy_running]
  · rw [hget, ← hy, configuredBy_get _ _ _ hp]
  · rw [hkept.settings.time, timing_setTiming, hwget, hwget, hwget, hwget]
  · rw [hkept.settings.param, hwc, hw.settings.param, cell_modCell_ne _ _ (Ne.symm hd), cell_quieted]
  · rw [hkept.settings.running, hwc, hw.settings.running, cell_modCell_ne _ _ (Ne.symm hd), cell_quieted]

end

end Sys2Proof.Safety
end

/-! CELL_START and CELL_STOP: the slot that a cell starts with, and the pages and tracks that a stopped one gives up (R181, R196, R206, R320). -/
section
namespace Sys2Proof.Safety
open Sys2Proof.Machine

section
variable {s : State} {m : MboxId} {l : List MItem} {c : CellId}

/-! ### CELL_START -/

theorem start_notReady (h : MbRuns s m 0x21 cellItem l) (hc : itemsCell l = some c)
    (hn : (s.cell c).configured = false ∨ s.time.servo.locked = false) : MbDoes (.cellStart m) s m 0x21 8 0 [] [] fun _ => True := by
  have hn' : ((quieted s m).cell c).configured = false ∨ (quieted s m).time.servo.locked = false := hn
  refine mbDoes_of_now (u := quieted s m) h rfl ?_ (.refl _ _) fun _ _ => trivial
  simp only [cellReply_some hc, if_pos hn']
  rfl

/-- The first slot of which the release lies at least 300 µs ahead. -/
def startSlot (s : State) (c : CellId) : Int :=
  firstSlot (s.frameTiming c) (s.now + ns 300000 + ns ((s.frameTiming c).planLead * 1000 : Nat))

theorem startSlot_spec (hmu : (s.frameTiming c).mu = 0 ∨ (s.frameTiming c).mu = 1 ∨ (s.frameTiming c).mu = 3) :
    s.now + ns 300000 ≤ (s.frameTiming c).start (startSlot s c) - ns ((s.frameTiming c).planLead * 1000 : Nat) ∧
    (s.frameTiming c).start (startSlot s c - 1) - ns ((s.frameTiming c).planLead * 1000 : Nat) < s.now + ns 300000 := by
  obtain ⟨hlo, hhi⟩ := firstSlot_spec (slotGrid hmu) (s.now + ns 300000 + ns ((s.frameTiming c).planLead * 1000 : Nat))
  rw [startSlot]
  omega

theorem start_starts (h : MbRuns s m 0x21 cellItem l) (hc : itemsCell l = some c) (hcon : (s.cell c).configured = true)
    (hlock : s.time.servo.locked = true) (hrun : (s.cell c).running = false)
    (hmu : (s.frameTiming c).mu = 0 ∨ (s.frameTiming c).mu = 1 ∨ (s.frameTiming c).mu = 3) :
    MbDoes (.cellStart m) s m 0x21 0 0 [] [.cells] fun t => (t.cell c).running = true ∧ (t.cell c).stopping = false ∧
      (∃ k, (t.cell c).lastSlot = some (k - 1) ∧
        s.now + ns 300000 ≤ (s.frameTiming c).start k - ns ((s.frameTiming c).planLead * 1000 : Nat) ∧
        (s.frameTiming c).start (k - 1) - ns ((s.frameTiming c).planLead * 1000 : Nat) < s.now + ns 300000) ∧
      (t.cell c).param = (s.cell c).param ∧ OtherCells c s t := by
  have hn : ¬ (((quieted s m).cell c).configured = false ∨ (quieted s m).time.servo.locked = false) := by
    rw [cell_quieted, hcon, show (quieted s m).time.servo.locked = true from hlock]
    simp
  refine mbDoes_of_now (u := (quieted s m).modCell c (startedCell (startSlot s c))) h rfl ?_ (.of_touches (modCell_touches _ c _)) fun t ht => ?_
  · simp only [cellReply_some hc]
    rw [if_neg hn, if_neg (by simp [hrun]), startCell_eq]
    rfl
  · have hcells : t.cells = ((quieted s m).modCell c (startedCell (startSlot s c))).cells := ht.2 .cells (by decide)
    have hcell : t.cell c = startedCell (startSlot s c) (s.cell c) := by rw [cell_eq_of_cells hcells, cell_modCell_same, cell_quieted]
    refine ⟨by rw [hcell]; rfl, by rw [hcell]; rfl, ⟨startSlot s c, by rw [hcell]; rfl, startSlot_spec hmu⟩, by rw [hcell]; rfl, fun d hd => ?_⟩
    rw [cell_eq_of_cells hcells, cell_modCell_ne _ _ (Ne.symm hd), cell_quieted]

/-! ### A stopped cell -/

theorem pages_harqFree (s : State) (c : CellId) (rnti : BitVec 16) (h : Byte) :
    (s.harqFree c rnti h).harq.pages = s.harq.pages.filter fun p => !p.isOf c rnti h := by
  unfold State.harqFree
  split
  · rename_i hany
    exact congrArg Harq.pages ((mirror_touches _ _).part .harq)
  · rename_i hany
    refine (List.filter_eq_self.mpr fun p hp => ?_).symm
    simpa using fun hof => hany (List.any_eq_true.mpr ⟨p, hp, hof⟩)

theorem mem_pages_frees (l : List HarqPage) (s : State) (p : HarqPage) :
    p ∈ (l.foldl (fun s q => s.harqFree q.cell q.rnti q.harqId) s).harq.pages ↔
      p ∈ s.harq.pages ∧ ∀ q ∈ l, p.isOf q.cell q.rnti q.harqId = false := by
  induction l generalizing s with
  | nil => simp
  | cons q l ih =>
    rw [List.foldl_cons, ih, pages_harqFree, List.mem_filter, List.forall_mem_cons, and_assoc]
    simp

/-- A stopped cell has no page left, and every page of another cell stays. -/
theorem mem_pages_freePages (s : State) (c : CellId) (p : HarqPage) :
    p ∈ (s.freePages c none).harq.pages ↔ p ∈ s.harq.pages ∧ p.cell ≠ c := by
  rw [State.freePages, mem_pages_frees]
  refine and_congr_right fun hp => ⟨fun h hc => ?_, fun hc q hq => ?_⟩
  · have := h p (List.mem_filter.mpr ⟨hp, by simp [hc]⟩)
    simp [HarqPage.isOf] at this
  · have hqc : q.cell = c := by simpa using (List.mem_filter.mp hq).2
    simp [HarqPage.isOf, hqc, hc]

theorem freePages_touches (s : State) (c : CellId) (r : Option (BitVec 16)) : Touches [.harq, .qps, .valley, .out] s (s.freePages c r) :=
  .foldl _ (fun s (p : HarqPage) => harqFree_touches s p.cell p.rnti p.harqId) _ s

theorem modHist_touches (s : State) (f : Hist → Hist) : Touches [.hist] s (s.modHist f) :=
  .of_only ⟨rfl, fun p hp => by cases p <;> first | rfl | simp at hp⟩

/-- What a track that is dropped may change. -/
abbrev trackParts : List Part := [.hist, .mem, .dev, .fab, .host]

theorem trackRec_touches (s : State) (t : TrackId) : Touches [.dev, .fab, .host] s (s.trackRec t).2 := by
  unfold State.trackRec
  generalize 2048 = n
  exact agentRead_touches s _ _ _

theorem dropTrack_touches (s : State) (t : TrackId) (x : TrackRec) : Touches trackParts s (s.dropTrack t x) :=
  (modHist_touches s _).andThen (agentWrite_touches _ _ _ _)

theorem detach_touches (s : State) (t : TrackId) (x : TrackRec) (f : Hist → Hist) :
    Touches trackParts s ((s.detach t x).getD (s.modHist f)) := by
  unfold State.detach
  split
  · exact (modHist_touches s f).mono
  · exact dropTrack_touches s t x

theorem freeTracks_touches (s : State) (c : CellId) : Touches trackParts s (s.freeTracks c) :=
  .ite (.foldl _ (fun s t => .ite ((trackRec_touches s t).andThen (detach_touches _ t _ _)) (.refl _ s)) _ s) (.refl _ s)

/-- The record of a stopped cell. -/
def stoppedCell (x : Cell) : Cell := { x with running := false, stopping := false, lastSlot := none }

/-- What a stop may change. -/
abbrev stopParts : List Part := [.cells, .harq, .hist, .mem, .dev, .fab, .host, .qps, .valley, .out]

theorem stopped_touches (s : State) (c : CellId) : Touches stopParts s (s.stopped c) :=
  ((modCell_touches s c stoppedCell).andThen (freePages_touches _ c none) (rs := stopParts)).andThen (freeTracks_touches _ c)

theorem cells_stopped (s : State) (c : CellId) : (s.stopped c).cells = (s.modCell c stoppedCell).cells :=
  ((freeTracks_touches _ c).part .cells).trans ((freePages_touches (s.modCell c stoppedCell) c none).part .cells)

theorem mem_pages_stopped (s : State) (c : CellId) (p : HarqPage) : p ∈ (s.stopped c).harq.pages ↔ p ∈ s.harq.pages ∧ p.cell ≠ c := by
  have hharq : (s.stopped c).harq = ((s.modCell c stoppedCell).freePages c none).harq := (freeTracks_touches _ c).part .harq
  rw [hharq, mem_pages_freePages]
  rfl

/-- What a stop that completes leaves: the cell stands, its pages are gone, and no other cell is concerned. -/
structure CellStopped (c : CellId) (s t : State) : Prop where
  running : (t.cell c).running = false
  pages : ∀ p, p ∈ t.harq.pages ↔ p ∈ s.harq.pages ∧ p.cell ≠ c
  param : (t.cell c).param = (s.cell c).param
  others : OtherCells c s t

theorem cellStopped_of_answer {t : State} (ht : OnlyChanges mbParts (s.stopped c) t) : CellStopped c s t := by
  have hcells : t.cells = (s.modCell c stoppedCell).cells := (ht.2 .cells (by decide)).trans (cells_stopped s c)
  have hharq : t.harq = (s.stopped c).harq := ht.2 .harq (by decide)
  have hcell : t.cell c = stoppedCell (s.cell c) := by rw [cell_eq_of_cells hcells, cell_modCell_same]
  refine ⟨by rw [hcell]; rfl, fun p => by rw [hharq, mem_pages_stopped], by rw [hcell]; rfl, fun d hd => ?_⟩
  rw [cell_eq_of_cells hcells, cell_modCell_ne _ _ (Ne.symm hd)]

/-! ### CELL_STOP -/

/-- What CELL_STOP replies, and whether it holds Hall. -/
def stopReply (l : List MItem) (s : State) : Reply × Hold :=
  let now := (itemsCell l).all fun c => !(s.cell c).running || s.plansRun c
  (cellReply l s fun c =>
    if (s.cell c).running = false then Reply.ok s
    else if now then Reply.ok (s.stopped c)
    else Reply.ok (s.modCell c fun x => { x with stopping := true }), if now then .now else .foreground)

/-- A doorbell just rung has the command taken as any other. -/
theorem cellStopEffect_rung (h : (s.mb m).phase = .rung) : cellStopEffect m s = s.mbCommand m 0x22 cellItem stopReply := by
  unfold cellStopEffect
  rw [h]
  rfl

theorem exec_cellStop_rung (h : (s.mb m).phase = .rung) : exec (.cellStop m) s = .next (s.mbCommand m 0x22 cellItem stopReply) :=
  exec_next rfl (cellStopEffect_rung h)

theorem stop_idle (hr : (s.mb m).phase = .rung) (h : MbRuns s m 0x22 cellItem l) (hc : itemsCell l = some c)
    (hrun : (s.cell c).running = false) : MbDoes (.cellStop m) s m 0x22 0 0 [] [] fun _ => True := by
  refine mbDoes_of (u := quieted s m) h (exec_cellStop_rung hr) (hold := .now) ?_ (.inl rfl) (.refl _ _) fun _ _ => trivial
  simp [stopReply, hc, cellReply_some hc, hrun]
  rfl

theorem plansRun_quieted (s : State) (m : MboxId) (c : CellId) : (quieted s m).plansRun c = s.plansRun c := rfl

theorem stop_stops (hr : (s.mb m).phase = .rung) (h : MbRuns s m 0x22 cellItem l) (hc : itemsCell l = some c)
    (hrun : (s.cell c).running = true) (hp : s.plansRun c = true) :
    MbDoes (.cellStop m) s m 0x22 0 0 [] [.cells, .harq, .hist, .mem, .fab, .valley] (CellStopped c s) := by
  refine mbDoes_of (u := (quieted s m).stopped c) h (exec_cellStop_rung hr) (hold := .now) ?_ (.inl rfl) (.of_touches (stopped_touches _ c))
    fun t ht => ?_
  · simp [stopReply, hc, cellReply_some hc, hrun, plansRun_quieted, hp]
    rfl
  · obtain ⟨h1, h2, h3, h4⟩ := cellStopped_of_answer ht
    exact ⟨h1, h2, h3, h4⟩

/-- The mailbox of a command that holds Hall. -/
def heldBox (code : Nat) (cell : Option CellId) (x : Mailbox) : Mailbox := { x with phase := .taken false code cell 0 0 [] }

theorem mbHeld_boxDone (s : State) (m : MboxId) (code : Nat) (cell : Option CellId) : (boxDone s m (heldBox code cell)).mbHeld = true := by
  refine List.any_eq_true.mpr ⟨(boxDone s m (heldBox code cell)).mb m, ?_, by rw [mb_boxDone_same]; rfl⟩
  rw [State.mb, vget, vlist]
  exact Vector.mem_toList_iff.mpr (Vector.getElem_mem _)

/-- A stop with plans still to run holds Hall until they have run. -/
theorem stop_waits (hr : (s.mb m).phase = .rung) (h : MbRuns s m 0x22 cellItem l) (hc : itemsCell l = some c)
    (hrun : (s.cell c).running = true) (hp : s.plansRun c = false) :
    ∃ t, exec (.cellStop m) s = .next t ∧ (t.cell c).stopping = true ∧ (t.cell c).running = true ∧
      (t.mb m).phase = .taken false 0x22 (some c) 0 0 [] ∧ m ∉ t.host.order ∧ OtherCells c s t ∧ OnlyChanges [.host, .cells] s t := by
  set u := (quieted s m).modCell c fun x => { x with stopping := true } with hu
  have hreply : stopReply l (quieted s m) = (Reply.ok u, .foreground) := by
    simp [stopReply, hc, cellReply_some hc, hrun, plansRun_quieted, hp, hu]
  have hcmd : s.mbCommand m 0x22 cellItem stopReply = boxDone u m (heldBox 0x22 (some c)) := by
    rw [mbCommand_eq h, hreply, ← mbSettle_held (mbHeld_boxDone u m 0x22 (some c)) 8, ← hc]
    rfl
  have hcell : ∀ d, (boxDone u m (heldBox 0x22 (some c))).cell d = u.cell d := fun _ => rfl
  refine ⟨_, exec_next (exec_cellStop_rung hr) hcmd, ?_, ?_, by rw [mb_boxDone_same, heldBox], not_mem_boxDone u m _, fun d hd => ?_, ?_⟩
  · rw [hcell, hu, cell_modCell_same]
  · rw [hcell, hu, cell_modCell_same]
    exact hrun
  · rw [hcell, hu, cell_modCell_ne _ _ (Ne.symm hd), cell_quieted]
  · exact onlyChanges_trans (onlyChanges_mono (onlyChanges_trans (onlyChanges_mono (quieted_only s m) (by decide) : OnlyChanges [.host, .cells] s _)
      (onlyChanges_mono (modCell_only _ c _) (by decide))) (by decide)) (onlyChanges_mono (boxDone_only u m _) (by decide))

/-- A stop that held Hall is answered once the plans have run. -/
theorem stop_ends (hph : (s.mb m).phase = .taken false 0x22 (some c) 0 0 []) (ha : s.hallAbsent = false) (hp : s.plansRun c = true) :
    MbDoes (.cellStop m) s m 0x22 0 0 [] [.cells, .harq, .hist, .mem, .fab, .valley] (CellStopped c s) := by
  have hmb : (s.stopped c).mb m = s.mb m := (SameBoxes.of_host (stopped_touches s c).host).mb m
  have heff : cellStopEffect m s = ((s.stopped c).mbAnswer m 0x22 (s.mb m).seq.toNat 0 0 []).mbSettle 8 := by
    unfold cellStopEffect
    rw [hph]
    refine (if_pos ⟨ha, hp⟩).trans ?_
    rw [State.mbRelease, hmb, hph]
  obtain ⟨hb, ho⟩ := mbAnswer_spec (s.stopped c) m 0x22 (s.mb m).seq.toNat 0 0 []
  have hout : m ∉ ((s.stopped c).mbAnswer m 0x22 (s.mb m).seq.toNat 0 0 []).host.order := by rw [hb.order]; exact not_mem_boxDone _ m _
  obtain ⟨hm, hin, hs⟩ := mbSettle_spec 8 _ hout
  have hbox : (((s.stopped c).mbAnswer m 0x22 (s.mb m).seq.toNat 0 0 []).mbSettle 8).mb m = answeredBox m 0x22 (s.mb m).seq.toNat 0 0 [] (s.mb m) := by
    rw [hm, hb.mb, mb_boxDone_same, hmb]
  refine ⟨_, exec_next rfl heff, ⟨?_, ?_, ?_, hin, ?_, ?_⟩, cellStopped_of_answer (onlyChanges_trans ho hs), ?_⟩
  · rw [hbox, answeredBox]
  · rw [hbox, answeredBox]
  · rw [hbox, answeredBox]
  · rw [hbox, answeredBox]
  · rw [hbox, answeredBox]
  · exact onlyChanges_trans (onlyChanges_mono (stopped_touches s c).only (by decide)) (onlyChanges_mono (onlyChanges_trans ho hs) (by decide))

end

/-- Settles O41: a configuration sets each parameter that an item gives and keeps what the acceptance does beside it; a start takes the
first slot that the instant allows; a stop leaves no page of the cell. -/
theorem cellsAreConfiguredStartedAndStopped : Obligations.CellsAreConfiguredStartedAndStopped := by
  refine ⟨?_, ?_, ?_, ?_⟩
  · intro s m l c y h hk hy
    refine ⟨configure_denied h hk hy, fun hfix hprb hseed => ?_⟩
    have g : ConfigGood s l c y := ⟨hfix, hprb, hseed⟩
    refine ⟨fun h1 => ?_, fun h1 h2 => ?_, fun h1 h2 h3 => ?_, configure_accepts h hk hy g⟩
    · exact configure_of_good (u := quieted s m) h hk hy g (by simp [h1]; rfl) (.refl _ _) fun _ _ => trivial
    · exact configure_of_good (u := quieted s m) h hk hy g (by simp [h1, h2]; rfl) (.refl _ _) fun _ _ => trivial
    · exact configure_of_good (u := quieted s m) h hk hy g (by simp [h1, h2, h3]; rfl) (.refl _ _) fun _ _ => trivial
  · exact fun s m l c h hc => ⟨start_notReady h hc, start_starts h hc⟩
  · refine fun s m l c hr h hc => ⟨stop_idle hr h hc, fun hrun hp => ?_, stop_waits hr h hc⟩
    obtain ⟨t, he, ha, ⟨h1, h2, h3, h4⟩, ho⟩ := stop_stops hr h hc hrun hp
    exact ⟨t, he, ha, ⟨h1, h2, h3, h4⟩, ho⟩
  · intro s m c hph ha hp
    obtain ⟨t, he, hans, ⟨h1, h2, _, h4⟩, ho⟩ := stop_ends hph ha hp
    exact ⟨t, he, hans, ⟨h1, h2, h4⟩, ho⟩

end Sys2Proof.Safety
end

/-! The verdict port: where its words go, the tests in their order, and what is accepted (R336-R341, R343, R344). -/
section
namespace Sys2Proof.Safety
open Sys2Proof.Machine

/-! ### Verdict words -/

/-- The state with a verdict word at an address. -/
def wordAt (s : State) (a : Word) (v : Nat) : State := { s with mem := memWrite s.mem a.toNat (natLE 8 v) }

theorem wordAt_touches (s : State) (a : Word) (v : Nat) : Touches [.mem] s (wordAt s a v) := setMem_touches s _

@[simp] theorem cell_wordAt (s : State) (a : Word) (v : Nat) (c : CellId) : (wordAt s a v).cell c = s.cell c := rfl

theorem fwRefused_of_parts {s t : State} (hf : t.fab = s.fab) (hp : t.pwr = s.pwr) (src : Source) (w : Bool) (off n : Nat) :
    t.fwRefused src w off n = s.fwRefused src w off n := by
  simp only [State.fwRefused, State.byteAllowed, State.regionOf, State.quadOn, State.domainOn, hf, hp]
  rfl

theorem VerdictOpen.of_parts {s t : State} {b : JudgedBlock} (h : VerdictOpen s b) (hf : t.fab = s.fab) (hp : t.pwr = s.pwr) : VerdictOpen t b := by
  obtain ⟨off, hpl, ha, hr⟩ := h
  exact ⟨off, hpl, ha, by rw [fwRefused_of_parts hf hp]; exact hr⟩

/-- A verdict word that may be written stays so while firewall and power do. -/
theorem VerdictOpen.of_touches {s t : State} {b : JudgedBlock} {ps : List Part} (h : VerdictOpen s b) (k : Touches ps s t)
    (hf : Part.fab ∉ ps := by decide) (hp : Part.pwr ∉ ps := by decide) : VerdictOpen t b := h.of_parts (k.part .fab hf) (k.part .pwr hp)

/-- The queue manager writes a verdict word where it may. -/
theorem qmWrite_open {s : State} {b : JudgedBlock} (h : VerdictOpen s b) (v : Nat) :
    s.qmWrite b.verdictAddr.toNat (natLE 8 v) = wordAt s b.verdictAddr v := by
  obtain ⟨off, hpl, ha, hr⟩ := h
  have hlen : (natLE 8 v).length = 8 := length_natLE 8 v
  rw [State.qmWrite, State.agentWrite, hlen, hpl]
  dsimp only
  rw [State.plainWrite, hlen, hr, ← ha]
  rfl

theorem writeVerdict_open {s : State} {b : JudgedBlock} (h : VerdictOpen s b) (rejected : Bool) (test cause : Nat) :
    s.writeVerdict b rejected test cause = wordAt s b.verdictAddr (verdictBits rejected test cause) := qmWrite_open h _

theorem verdictBits_accepted : verdictBits false 0 0 = 0x80000000 := by decide

theorem verdictBits_rejected {k c : Nat} (hk : k < 256) (hc : c < 256) : verdictBits true k c = 0xC0000000 + 256 * k + c := by
  simp only [verdictBits, bitNat, if_true, Nat.mod_eq_of_lt hk, Nat.mod_eq_of_lt hc]
  omega

/-- Every queue's front that is eligible has its instant already: then settling leaves the state as it is. -/
theorem settle_eq_self {s t : State} (hq : t.qm = s.qm) (he : ∀ q e, (s.queue q).eligible = some e → e.eligibleAt ≠ none) :
    State.settle s t = t := by
  have hstep : ∀ q, State.settleQueue s t q = t := fun q => by
    unfold State.settleQueue
    rw [queue_of_qm hq]
    cases hel : (s.queue q).eligible with
    | none => rfl
    | some e => simp [he q e hel]
  unfold State.settle
  induction List.finRange 32 with
  | nil => rfl
  | cons q l ih => rw [List.foldl_cons, hstep, ih]

/-! ### The tests -/

theorem firstFailing_cons (n : Nat) (b : Bool) (l : List (Nat × Bool)) :
    firstFailing ((n, b) :: l) = if b = true then some n else firstFailing l := by
  cases b <;> rfl

@[simp] theorem firstFailing_nil : firstFailing [] = none := rfl

/-- Short of 80h, an LLR is at its greatest magnitude where its own is 127. -/
theorem llrMag_eq_127 {b : Byte} (h : b ≠ 0x80) : (llrMag b == 127) = (b.toInt.natAbs == 127) := by
  have hle : ∀ b : Byte, b ≠ 0x80 → b.toInt.natAbs ≤ 127 := by decide
  rw [llrMag, Nat.min_eq_right (hle b h)]

theorem filter_llrMag {ls : List Byte} (h : (0x80 : Byte) ∉ ls) :
    (ls.filter fun b => llrMag b == 127) = ls.filter fun b => b.toInt.natAbs == 127 :=
  List.filter_congr fun _ hb => llrMag_eq_127 fun e => h (e ▸ hb)

/-- The tests against a shadow. -/
def shadowTests (x : Cell) (ls : List Byte) (snr : Int) : Option ShadowObs → List (Nat × Bool)
  | some o => [(13, decide (x.get .thr13 * (shadowBits ls o.llrs).length < 1000 * ((shadowBits ls o.llrs).filter id).length)),
      (14, decide ((x.get .thr14 : Int) < ((snr - o.snr).natAbs : Int)))]
  | none => []

section
variable (x : Cell) (pw : Option (Nat × Nat)) (ls : List Byte) (er : List Bool) (q : Nat) (snr : Int) (o : Option ShadowObs)

/-- The tests on LLRs, one after the other. -/
theorem judge_llr : x.judge pw (.llr ls er q snr o) =
    if ls.contains 0x80 = true then some 1
    else if ((ls.zip er).any fun p => p.2 && p.1 != 0) = true then some 2
    else if x.get .thr3 * ls.length < 1000 * (ls.filter fun b => llrMag b == 127).length then some 3
    else if llrMagFails (x.get .thr4) ls pw q = true then some 4
    else firstFailing (shadowTests x ls snr o) := by
  unfold Cell.judge
  simp only [List.cons_append, List.nil_append, firstFailing_cons, decide_eq_true_eq]
  cases o <;> rfl

theorem judge_llr_extreme (h : (0x80 : Byte) ∈ ls) : x.judge pw (.llr ls er q snr o) = some 1 := by
  rw [judge_llr, if_pos (List.contains_iff_mem.mpr h)]

variable {ls er}

theorem judge_llr_erased (h : (0x80 : Byte) ∉ ls) (he : ∃ p ∈ ls.zip er, p.2 = true ∧ p.1 ≠ 0) :
    x.judge pw (.llr ls er q snr o) = some 2 := by
  have hany : ((ls.zip er).any fun p => p.2 && p.1 != 0) = true := by
    obtain ⟨p, hp, h2, h1⟩ := he
    exact List.any_eq_true.mpr ⟨p, hp, by rw [h2, Bool.true_and, bne_iff_ne]; exact h1⟩
  rw [judge_llr, if_neg (by simpa using h), if_pos hany]

/-- Where neither mark nor extreme fails and no power and no shadow is there, the saturation test decides. -/
theorem judge_llr_saturation (h : (0x80 : Byte) ∉ ls) (he : ∀ p ∈ ls.zip er, p.2 = true → p.1 = 0) :
    x.judge none (.llr ls er q snr none) =
      if x.get .thr3 * ls.length < 1000 * (ls.filter fun b => b.toInt.natAbs == 127).length then some 3 else none := by
  have hany : ¬ ((ls.zip er).any fun p => p.2 && p.1 != 0) = true := fun hc => by
    obtain ⟨p, hp, hb⟩ := List.any_eq_true.mp hc
    rw [Bool.and_eq_true] at hb
    simp [he p hp hb.1] at hb
  rw [judge_llr, if_neg (by simpa using h), if_neg hany, filter_llrMag h]
  simp [llrMagFails, shadowTests]

end

theorem judge_decoded (x : Cell) (ps rc : Bool) (sy it mcs la : Nat) : x.judge none (.decoded ps sy it rc mcs la) =
    if (ps = true ∧ sy ≠ 0) ∨ x.get .iterCap < it then some 6 else if ps = true ∧ rc = false then some 7 else none := by
  unfold Cell.judge
  simp [firstFailing_cons, decSnrFails]

theorem judge_uci (x : Cell) (pw : Option (Nat × Nat)) (ps rc : Bool) :
    x.judge pw (.uci ps rc) = if ps = true ∧ rc = false then some 7 else none := by
  unfold Cell.judge
  simp [firstFailing_cons]

theorem judge_encoded (x : Cell) (pw : Option (Nat × Nat)) (ea : Bool) (sy : Nat) :
    x.judge pw (.encoded ea sy) = if ea = false ∨ sy ≠ 0 then some 11 else none := by
  unfold Cell.judge
  simp [firstFailing_cons]

theorem judge_precoded (x : Cell) (pw : Option (Nat × Nat)) (cs : List (BitVec 16)) : x.judge pw (.precoded cs) =
    if cs.length < 1000 * (cs.filter fun c => c == 0x8000 || c == 0x7FFF).length then some 10 else none := by
  unfold Cell.judge
  simp only [firstFailing_cons, decide_eq_true_eq]
  rfl

/-- The number of a failing test is no greater than those of the tests. -/
theorem firstFailing_le {l : List (Nat × Bool)} {k n : Nat} (hl : ∀ p ∈ l, p.1 ≤ n) (h : firstFailing l = some k) : k ≤ n := by
  rw [firstFailing, Option.map_eq_some_iff] at h
  obtain ⟨p, hp, rfl⟩ := h
  exact hl p (List.mem_of_find?_eq_some hp)

/-- Tests past 12 are those on the shadow of LLRs. -/
theorem judge_le_of_not_llr (x : Cell) (pw : Option (Nat × Nat)) {v : VerdictInput} {k : Nat} (hv : isLlr v = false) (h : x.judge pw v = some k) :
    k ≤ 12 := by
  cases v with
  | llr => simp [isLlr] at hv
  | decoded | uci | weights | precoded | encoded | sched => exact firstFailing_le (by simp) h

/-! ### What is not judged -/

theorem verdict_skips {s : State} {b : JudgedBlock} {v : VerdictInput} (h : s.wh.ready = false ∨ s.judged b.verdictAddr = true) :
    exec (.plausibilityVerdict b v) s = .next s := exec_next rfl (by unfold plausibilityVerdictEffect; exact if_pos h)

/-- A block that is still to be judged. -/
structure Unjudged (s : State) (b : JudgedBlock) : Prop where
  ready : s.wh.ready = true
  word : s.judged b.verdictAddr = false

theorem Unjudged.not_skipped {s : State} {b : JudgedBlock} (h : Unjudged s b) : ¬ (s.wh.ready = false ∨ s.judged b.verdictAddr = true) := by
  simp [h.ready, h.word]

/-! ### What is accepted -/

/-- An output is neither faulty nor learned past its use, and no shadow is waited for: the tests judge it. -/
structure Usable (s : State) (b : JudgedBlock) (v : VerdictInput) : Prop where
  fault : b.fault = false
  demoted : (b.learned && s.afterDemotion b) = false
  suspect : (b.learned && (s.stall b.stall).suspect) = false
  shadow : s.waitsShadow b v = false

/-- The state in which a usable output is accepted or rejected by its tests: a shadow sample is counted. -/
def sampleCounted (s : State) (b : JudgedBlock) : VerdictInput → State
  | .llr _ _ _ _ (some _) => s.cellAdd b.ref.cell .shadowSamples 1
  | _ => s

theorem verdict_accepts {s : State} {b : JudgedBlock} {v : VerdictInput} (h : Unjudged s b) (hu : Usable s b v)
    (hj : (s.judgedCell b).judge (s.powers b) (s.shadowed b v) = none) :
    plausibilityVerdictEffect b v s = State.settle s ((sampleCounted s b (s.shadowed b v)).acceptOutput b (s.shadowed b v)) := by
  unfold plausibilityVerdictEffect
  dsimp only
  rw [if_neg h.not_skipped, if_neg (by simp [hu.fault]), if_neg (by simp [hu.demoted]), if_neg (by simp [hu.suspect]), if_neg (by simp [hu.shadow]), hj]
  rfl

/-- An accepted output of the precoder or the receiver, past the word itself. -/
theorem acceptOutput_precoded {s : State} {b : JudgedBlock} (ho : VerdictOpen s b) (hd : b.dlAlloc = none) (hp : b.path ≠ .scheduler)
    (cs : List (BitVec 16)) : s.acceptOutput b (.precoded cs) = wordAt s b.verdictAddr 0x80000000 := by
  unfold State.acceptOutput
  simp [writeVerdict_open ho, verdictBits_accepted, hd, hp]

/-- An LLR block with its path noted. -/
def llrAccepted (b : JudgedBlock) (x : UlBlock) : UlBlock := { x with classical := some (!b.learned) }

theorem acceptOutput_llr {s : State} {b : JudgedBlock} (ho : VerdictOpen s b) (hd : b.dlAlloc = none) (hp : b.path = .receiver)
    (l : List Byte) (e : List Bool) (q : Nat) (snr : Int) (o : Option ShadowObs) : s.acceptOutput b (.llr l e q snr o) =
      ((wordAt s b.verdictAddr 0x80000000).modBlock b.ref (llrAccepted b)).noteEstimate b true := by
  unfold State.acceptOutput
  simp [writeVerdict_open ho, verdictBits_accepted, hd, hp]
  rfl

/-- An LLR block with the verdict on its part of the learned estimate. -/
def estimated (ok : Bool) (x : UlBlock) : UlBlock := { x with estimate := some (x.estimate.getD ok) }

/-- The blocks of a user in an air slot. -/
def userBlocks (u : UlSlot) (rnti : BitVec 16) : List UlBlock := (u.units.filter fun y => y.rnti == rnti).flatMap (·.blocks)

/-- The verdict on a user's estimate is written once every block has been judged (R341). -/
theorem noteEstimate_learned {s : State} {b : JudgedBlock} {u : UlSlot} {x : UlUnit} (hl : b.learned = true) (ha : b.estimateAddr ≠ 0)
    (ho : VerdictOpen s { b with verdictAddr := b.estimateAddr }) (ok : Bool)
    (hu : (s.modBlock b.ref (estimated ok)).ulSlot b.ref.cell b.ref.air = some u) (hx : (s.modBlock b.ref (estimated ok)).ulUnit b.ref = some x) :
    s.noteEstimate b ok = if ((userBlocks u x.rnti).all fun y => y.estimate.isSome) = true then
        wordAt (s.modBlock b.ref (estimated ok)) b.estimateAddr
          (if ((userBlocks u x.rnti).any fun y => y.estimate == some false) = true then 0xC0000000 else 0x80000000)
      else s.modBlock b.ref (estimated ok) := by
  have hopen := ho.of_touches (modBlock_touches s b.ref (estimated ok))
  have hbits : ∀ r : Bool, verdictBits r 0 0 = if r = true then 0xC0000000 else 0x80000000 := by decide
  have hnote : s.noteEstimate b ok = if ((userBlocks u x.rnti).all fun y => y.estimate.isSome) = true ∧ b.estimateAddr ≠ 0 then
        (s.modBlock b.ref (estimated ok)).qmWrite b.estimateAddr.toNat
          (natLE 8 (verdictBits ((userBlocks u x.rnti).any fun y => y.estimate == some false) 0 0))
      else s.modBlock b.ref (estimated ok) := by
    unfold State.noteEstimate
    rw [if_neg (by simp [hl])]
    unfold estimated at hu hx
    simp only [hu, hx]
    rfl
  rw [hnote, qmWrite_open hopen, hbits]
  simp only [ha, ne_eq, not_false_eq_true, and_true]

theorem noteEstimate_classical {s : State} {b : JudgedBlock} (h : b.learned = false) (ok : Bool) : s.noteEstimate b ok = s := by
  rw [State.noteEstimate, if_pos h]

section
variable {s : State} {b : JudgedBlock}

theorem verdict_accepts_precoded (h : Unjudged s b) (ho : VerdictOpen s b) (hf : b.fault = false) (hl : b.learned = false)
    (cs : List (BitVec 16)) (hd : b.dlAlloc = none) (hp : b.path ≠ .scheduler)
    (hj : (s.judgedCell b).judge (s.powers b) (.precoded cs) = none) :
    ∃ t, exec (.plausibilityVerdict b (.precoded cs)) s = .next t ∧ VerdictWritten s t b 0x80000000 ∧ OnlyChanges [.mem, .qm] s t ∧
      ((∀ q e, (s.queue q).eligible = some e → e.eligibleAt ≠ none) → t.qm = s.qm) := by
  have hu : Usable s b (.precoded cs) := ⟨hf, by simp [hl], by simp [hl], rfl⟩
  have he : plausibilityVerdictEffect b (.precoded cs) s = State.settle s (wordAt s b.verdictAddr 0x80000000) :=
    (verdict_accepts h hu hj).trans (congrArg (State.settle s) (acceptOutput_precoded ho hd hp cs))
  have hw := wordAt_touches s b.verdictAddr 0x80000000
  have hs := settle_touches s (wordAt s b.verdictAddr 0x80000000)
  refine ⟨_, exec_next rfl he, hs.part .mem, (hw.andThen hs).only, fun hq => ?_⟩
  rw [settle_eq_self (hw.part .qm) hq]
  exact hw.part .qm

end

end Sys2Proof.Safety
end

/-! Verdicts on LLR blocks, with the learned estimate of their user (R190, R341), and the words of rejected outputs (R338, R346). -/
section
namespace Sys2Proof.Safety
open Sys2Proof.Machine

/-! ### LLR blocks -/

/-- A slot with one block changed. -/
def withBlock (r : BlockRef) (f : UlBlock → UlBlock) (u : UlSlot) : UlSlot :=
  { u with units := u.units.modify r.unit fun x => { x with blocks := x.blocks.modify r.cb f } }

theorem ulSlot_modBlock (s : State) (r : BlockRef) (f : UlBlock → UlBlock) :
    (s.modBlock r f).ulSlot r.cell r.air = (s.ulSlot r.cell r.air).map (withBlock r f) := ulSlot_modUl s r.cell r.air (f := withBlock r f) fun _ => rfl

section
variable {s : State} {b : JudgedBlock}

/-- An LLR block that no shadow is sampled of and that passes its tests: settled, it is accepted. -/
theorem verdict_accepts_llr {ls l : List Byte} {er e : List Bool} {q : Nat} {snr : Int} (h : Unjudged s b) (ho : VerdictOpen s b)
    (hf : b.fault = false) (hsus : (s.stall b.stall).suspect = false) (hdem : s.afterDemotion b = false) (hsh : s.shadowCounts b = false)
    (hd : b.dlAlloc = none) (hp : b.path = .receiver) (hmade : ((s.ulBlock b.ref).bind (·.llr)).getD (ls, er) = (l, e))
    (hj : (s.judgedCell b).judge (s.powers b) (.llr l e q snr none) = none) :
    plausibilityVerdictEffect b (.llr ls er q snr none) s =
      State.settle s (((wordAt s b.verdictAddr 0x80000000).modBlock b.ref (llrAccepted b)).noteEstimate b true) := by
  have hshadowed : s.shadowed b (.llr ls er q snr none) = .llr l e q snr none := by
    simp [State.shadowed, hmade, hsh]
  have hu : Usable s b (.llr ls er q snr none) := ⟨hf, by simp [hdem], by simp [hsus], hsh⟩
  rw [verdict_accepts h hu (by rw [hshadowed]; exact hj), hshadowed]
  exact congrArg (State.settle s) (acceptOutput_llr ho hd hp l e q snr none)

/-- A classical LLR block may be decoded. -/
theorem verdict_llr_classical {v : VerdictInput} (hl : b.learned = false) (he : plausibilityVerdictEffect b v s =
      State.settle s (((wordAt s b.verdictAddr 0x80000000).modBlock b.ref (llrAccepted b)).noteEstimate b true)) :
    ∃ t, exec (.plausibilityVerdict b v) s = .next t ∧ VerdictWritten s t b 0x80000000 ∧
      (∀ x, s.ulBlock b.ref = some x → t.ulBlock b.ref = some { x with classical := some true }) ∧
      OnlyChanges [.mem, .cells, .qm] s t ∧ OtherCells b.ref.cell s t := by
  rw [noteEstimate_classical hl] at he
  have hw := wordAt_touches s b.verdictAddr 0x80000000
  have hm := modBlock_touches (wordAt s b.verdictAddr 0x80000000) b.ref (llrAccepted b)
  have hs := settle_touches s ((wordAt s b.verdictAddr 0x80000000).modBlock b.ref (llrAccepted b))
  refine ⟨_, exec_next rfl he, (hs.part .mem).trans (hm.part .mem), fun x hx => ?_,
    ((hw.andThen hm (rs := [.mem, .cells, .qm])).andThen hs).only,
    otherCells_trans (otherCells_trans (hw.otherCells _) (otherCells_modBlock _ b.ref _)) (hs.otherCells _)⟩
  rw [hs.ulBlock, ulBlock_modBlock, hw.ulBlock, hx]
  simp [llrAccepted, hl]

/-- A learned LLR block that is accepted counts for the estimate of its user, which is decided with the last of them. -/
theorem verdict_llr_learned {v : VerdictInput} {u : UlSlot} {x : UlUnit} (hl : b.learned = true) (hu : s.ulSlot b.ref.cell b.ref.air = some u)
    (hx : s.ulUnit b.ref = some x) (ha : b.estimateAddr ≠ 0) (ho : VerdictOpen s { b with verdictAddr := b.estimateAddr })
    (he : plausibilityVerdictEffect b v s =
      State.settle s (((wordAt s b.verdictAddr 0x80000000).modBlock b.ref (llrAccepted b)).noteEstimate b true)) :
    ∃ t u' l', exec (.plausibilityVerdict b v) s = .next t ∧ t.ulSlot b.ref.cell b.ref.air = some u' ∧
      (u'.units.filter fun y => y.rnti == x.rnti).flatMap (·.blocks) = l' ∧
      (∀ y, s.ulBlock b.ref = some y → t.ulBlock b.ref = some { y with
        classical := some false, estimate := some (y.estimate.getD true) }) ∧
      t.mem = (if (l'.all fun y => y.estimate.isSome) = true then
          memWrite (memWrite s.mem b.verdictAddr.toNat (natLE 8 0x80000000)) b.estimateAddr.toNat
            (natLE 8 (if (l'.any fun y => y.estimate == some false) = true then 0xC0000000 else 0x80000000))
        else memWrite s.mem b.verdictAddr.toNat (natLE 8 0x80000000)) ∧
      OnlyChanges [.mem, .cells, .qm] s t ∧ OtherCells b.ref.cell s t := by
  set w := (wordAt s b.verdictAddr 0x80000000).modBlock b.ref (llrAccepted b) with hwdef
  set n := w.modBlock b.ref (estimated true) with hndef
  have hword := wordAt_touches s b.verdictAddr 0x80000000
  have hw : Touches [.mem, .cells] s w := hword.andThen (modBlock_touches _ b.ref _)
  have hn : Touches [.mem, .cells] s n := hw.andThen (modBlock_touches w b.ref _)
  have hother : OtherCells b.ref.cell s n :=
    otherCells_trans (otherCells_trans (hword.otherCells _) (otherCells_modBlock _ b.ref _)) (otherCells_modBlock w b.ref _)
  have hmem : n.mem = memWrite s.mem b.verdictAddr.toNat (natLE 8 0x80000000) := rfl
  have hslot : ∃ u', n.ulSlot b.ref.cell b.ref.air = some u' := by
    rw [hndef, ulSlot_modBlock, hwdef, ulSlot_modBlock, ulSlot_of_cell (congrArg Cell.ul (hword.cell _)), hu]
    exact ⟨_, rfl⟩
  obtain ⟨u', hu'⟩ := hslot
  have hunit : ∃ x', n.ulUnit b.ref = some x' ∧ x'.rnti = x.rnti := by
    rw [hndef, hwdef]
    simp only [State.modBlock]
    rw [ulUnit_modUnit, ulUnit_modUnit, ulUnit_of_cell (congrArg Cell.ul (hword.cell _)), hx]
    exact ⟨_, rfl, rfl⟩
  obtain ⟨x', hx', hrnti⟩ := hunit
  have hblock : ∀ y, s.ulBlock b.ref = some y → n.ulBlock b.ref = some { y with
      classical := some false, estimate := some (y.estimate.getD true) } := fun y hy => by
    rw [hndef, ulBlock_modBlock, hwdef, ulBlock_modBlock, hword.ulBlock, hy]
    simp [llrAccepted, estimated, hl]
  rw [noteEstimate_learned hl ha (ho.of_touches hw) true hu' hx', hrnti] at he
  set l' := userBlocks u' x.rnti with hl'
  set z := if (l'.all fun y => y.estimate.isSome) = true then
      wordAt n b.estimateAddr (if (l'.any fun y => y.estimate == some false) = true then 0xC0000000 else 0x80000000) else n with hz
  have hnz : Touches [.mem] n z := .ite (wordAt_touches _ _ _) (.refl _ n)
  have hs := settle_touches s z
  have hcell : ∀ c, (State.settle s z).cell c = n.cell c := fun c => (hs.cell c).trans (hnz.cell c)
  refine ⟨_, u', l', exec_next rfl he, ?_, rfl, fun y hy => ?_, ?_, ((hn.andThen hnz (rs := [.mem, .cells, .qm])).andThen hs).only,
    fun d hd => (hcell d).trans (hother d hd)⟩
  · rw [ulSlot_of_cell (congrArg Cell.ul (hcell _)), hu']
  · rw [ulBlock_of_cell (congrArg Cell.ul (hcell _)), hblock y hy]
  · rw [hs.part .mem, hz]
    split
    · rw [← hmem]; rfl
    · exact hmem

end

end Sys2Proof.Safety
end

/-! Rejected outputs: the scheduler's run replaced, an uplink block that no reserve recomputes, the time limit and the withdrawal of a
sample (R30, R190, R338, R343, R346). -/
section
namespace Sys2Proof.Safety
open Sys2Proof.Machine

/-! ### Counters of a cell -/

theorem ctr_cellAdd_same (s : State) (c : CellId) (i : CellCtr) (k : Nat) :
    vget ((s.cellAdd c i k).cell c).ctr i.idx = satAdd (vget (s.cell c).ctr i.idx) k := by
  rw [State.cellAdd, cell_modCell_same]
  exact vget_vmod_same _ _ _

theorem ctr_cellAdd_ne (s : State) (c : CellId) {i : CellCtr} (k : Nat) {j : Fin 44} (h : i.idx ≠ j) :
    vget ((s.cellAdd c i k).cell c).ctr j = vget (s.cell c).ctr j := by
  rw [State.cellAdd, cell_modCell_same]
  simp [Cell.add, h]

theorem otherCells_cellAdd (s : State) (c : CellId) (i : CellCtr) (k : Nat) : OtherCells c s (s.cellAdd c i k) := otherCells_modCell s c _

theorem CellsButTdc.ulBlock {s t : State} (h : CellsButTdc s t) (r : BlockRef) : t.ulBlock r = s.ulBlock r :=
  ulBlock_of_cell (by rw [h r.cell])

theorem CellsButTdc.ctr {s t : State} (h : CellsButTdc s t) (c : CellId) : (t.cell c).ctr = (s.cell c).ctr := by rw [h c]

/-! ### The classical scheduler run (R30) -/

/-- The state with other reserves. -/
def withReserves (s : State) (r : List Reserve) : State := { s with qm := { s.qm with reserves := r } }

theorem withReserves_touches (s : State) (r : List Reserve) : Touches [.qm] s (withReserves s r) := setQm_touches s _

theorem queue_withReserves (s : State) (r : List Reserve) (q : QueueId) : (withReserves s r).queue q = s.queue q := rfl

theorem firmQueue_of_queues {s t : State} (h : ∀ q, t.queue q = s.queue q) : t.firmQueue = s.firmQueue := by
  simp only [State.firmQueue, h]

theorem fallback_of_firmQueue {s : State} {q : QueueId} (h : s.firmQueue = some q) : (s.queue q).fallback = false := by
  have hq := List.find?_some h
  simp only [Bool.and_eq_true, Bool.not_eq_true'] at hq
  obtain ⟨⟨⟨_, hf⟩, _⟩, _⟩ := hq
  exact hf

/-- The classical run in the cell's reserve: queued where a firm queue has room, and noted. -/
theorem classicalScheduler_eq (s : State) (c : CellId) (k : Int) (cmd : List Byte) (ac : Nat) : ∃ r, s.classicalScheduler c k cmd ac =
    (match s.firmQueue with
      | some q => (withReserves s r).append q (setExcl cmd)
      | none => withReserves s r).schedFallback c k := by
  unfold State.classicalScheduler
  cases s.reserveOf c with
  | none => exact ⟨s.qm.reserves, rfl⟩
  | some w => exact ⟨s.qm.reserves.map fun x => if x = w then { x with unspent := x.unspent - ac } else x, rfl⟩

/-- A slot planned by the classical run. -/
def schedFellBack (u : UlSlot) : UlSlot := { u with schedFallback := true }

/-- The note of a classical run: its cell counts it, in no other counter. -/
theorem schedFallback_spec (s : State) (c : CellId) (k : Int) : Touches [.cells] s (s.schedFallback c k) ∧ OtherCells c s (s.schedFallback c k) ∧
    CellCounts s (s.schedFallback c k) c .schedFallback 1 ∧
    ∀ j, CellCtr.schedFallback.idx ≠ j → vget ((s.schedFallback c k).cell c).ctr j = vget (s.cell c).ctr j := by
  have hctr : ((s.modUl c ((s.frameTiming c).air (k - 1)) schedFellBack).cell c).ctr = (s.cell c).ctr := by rw [State.modUl, cell_modCell_same]
  have heq : s.schedFallback c k = (s.modUl c ((s.frameTiming c).air (k - 1)) schedFellBack).cellAdd c .schedFallback 1 := rfl
  rw [heq]
  refine ⟨(modUl_touches s c _ schedFellBack).trans (modCell_touches _ c _),
    otherCells_trans (otherCells_modUl s c _ schedFellBack) (otherCells_cellAdd _ c _ 1), ?_, fun j hj => ?_⟩
  · rw [CellCounts, ctr_cellAdd_same, hctr]
  · rw [ctr_cellAdd_ne _ c 1 hj, hctr]

/-! ### A rejected run with no firm queue -/

/-- A rejected scheduler's output: the word, and the fallback counted; beside queues and the cell nothing changes. -/
structure RunReplaced (s t : State) (b : JudgedBlock) (word : Nat) : Prop where
  written : VerdictWritten s t b word
  counted : CellCounts s t b.ref.cell .schedFallback 1
  ctr : ∀ j, CellCtr.schedFallback.idx ≠ j → vget (t.cell b.ref.cell).ctr j = vget (s.cell b.ref.cell).ctr j
  others : OtherCells b.ref.cell s t
  dev : t.dev = s.dev

theorem run_replaced {s : State} {b : JudgedBlock} (ho : VerdictOpen s b) (hp : b.path = .scheduler) (hq : s.firmQueue = none)
    {test cause : Nat} (ht : test < 256) (hc : cause < 256) (s0 : State) (cost : Nat) :
    RunReplaced s (State.settle s0 (s.rejectVerdict b cause test cost)) b (0xC0000000 + 256 * test + cause) := by
  set w := wordAt s b.verdictAddr (0xC0000000 + 256 * test + cause)
  have hw := wordAt_touches s b.verdictAddr (0xC0000000 + 256 * test + cause)
  obtain ⟨r, hr⟩ := classicalScheduler_eq w b.ref.cell ((w.frameTiming b.ref.cell).absOf w.now b.ref.air) b.template cost
  have hrej : s.rejectVerdict b cause test cost =
      (withReserves w r).schedFallback b.ref.cell ((w.frameTiming b.ref.cell).absOf w.now b.ref.air) := by
    rw [firmQueue_of_queues fun q => hw.queue q, hq] at hr
    rw [State.rejectVerdict, writeVerdict_open ho, verdictBits_rejected ht hc, State.rejectOutput, hp]
    exact hr
  have hres := withReserves_touches w r
  obtain ⟨hcells, hother, hcount, hctr⟩ := schedFallback_spec (withReserves w r) b.ref.cell ((w.frameTiming b.ref.cell).absOf w.now b.ref.air)
  rw [hrej]
  have hset := settle_touches s0 ((withReserves w r).schedFallback b.ref.cell ((w.frameTiming b.ref.cell).absOf w.now b.ref.air))
  refine ⟨(hset.part .mem).trans ((hcells.part .mem).trans (hres.part .mem)), ?_, fun j hj => ?_, fun d hd => ?_, ?_⟩
  · rw [CellCounts, hset.cell]; exact hcount
  · rw [hset.cell]; exact hctr j hj
  · rw [hset.cell]; exact hother d hd
  · exact (hset.part .dev).trans ((hcells.part .dev).trans ((hres.part .dev).trans (hw.part .dev)))

/-! ### When an output is rejected -/

section
variable {s : State} {b : JudgedBlock} {v : VerdictInput}

theorem verdict_fault (h : Unjudged s b) (hv : isLlr v = false) (hf : b.fault = true) :
    plausibilityVerdictEffect b v s = State.settle s (s.rejectVerdict b 36 0 (s.classicalAc b)) := by
  unfold plausibilityVerdictEffect
  dsimp only
  rw [if_neg h.not_skipped, if_pos hf, hv]
  rfl

theorem verdict_demoted (h : Unjudged s b) (hv : isLlr v = false) (hf : b.fault = false) (hl : b.learned = true) (hd : s.afterDemotion b = true) :
    plausibilityVerdictEffect b v s = State.settle s (s.rejectVerdict b 37 0 (s.classicalAc b)) := by
  unfold plausibilityVerdictEffect
  dsimp only
  rw [if_neg h.not_skipped, if_neg (by simp [hf]), if_pos (by simp [hl, hd]), hv]
  rfl

theorem verdict_suspect (h : Unjudged s b) (hv : isLlr v = false) (hf : b.fault = false) (hl : b.learned = true)
    (hd : s.afterDemotion b = false) (hs : (s.stall b.stall).suspect = true) :
    plausibilityVerdictEffect b v s = State.settle s (s.rejectVerdict b 36 0 (s.classicalAc b)) := by
  unfold plausibilityVerdictEffect
  dsimp only
  rw [if_neg h.not_skipped, if_neg (by simp [hf]), if_neg (by simp [hd]), if_pos (by simp [hl, hs]), hv]
  rfl

theorem isLlr_shadowed (s : State) (b : JudgedBlock) (v : VerdictInput) : isLlr (s.shadowed b v) = isLlr v := by
  cases v with
  | decoded => unfold State.shadowed; dsimp only; split <;> rfl
  | _ => rfl

theorem sampleCounted_of_not_llr (hv : isLlr v = false) : sampleCounted s b v = s := by
  cases v with
  | llr => simp [isLlr] at hv
  | _ => rfl

theorem waitsShadow_of_not_llr (hv : isLlr v = false) : s.waitsShadow b v = false := by
  cases v with
  | llr => simp [isLlr] at hv
  | _ => rfl

theorem verdict_rejects {k : Nat} (h : Unjudged s b) (hv : isLlr v = false) (hf : b.fault = false) (hl : b.learned = false)
    (hj : (s.judgedCell b).judge (s.powers b) (s.shadowed b v) = some k) : k ≤ 12 ∧ plausibilityVerdictEffect b v s =
      State.settle s ((s.cellAdd b.ref.cell .verdictRejectBlocks 1).rejectVerdict b 32 k (s.classicalAc b)) := by
  have hv' : isLlr (s.shadowed b v) = false := (isLlr_shadowed s b v).trans hv
  have hk := judge_le_of_not_llr _ _ hv' hj
  have hshadow : (k == 13 || k == 14) = false := by simp; omega
  have heff : plausibilityVerdictEffect b v s = State.settle s (((sampleCounted s b (s.shadowed b v)).cellAdd b.ref.cell
      .verdictRejectBlocks 1).rejectVerdict b 32 k (s.classicalAc b)) := by
    unfold plausibilityVerdictEffect
    dsimp only
    rw [if_neg h.not_skipped, if_neg (by simp [hf]), if_neg (by simp [hl]), if_neg (by simp [hl]),
      if_neg (by simp [waitsShadow_of_not_llr hv]), hj]
    simp only [hshadow, hv, hl]
    rfl
  exact ⟨hk, by rw [heff, sampleCounted_of_not_llr hv']⟩

end

/-! ### The time limit (R338) -/

theorem verdictTimeoutEffect_rejects {s : State} {b : JudgedBlock} {i : Int} (h : Unjudged s b) (hp : b.path = .scheduler)
    (hi : s.verdictFrom b = some i) (hd : i + 4000 ≤ s.nowNs) :
    verdictTimeoutEffect b s = State.settle s ((s.tdc .tdcBudget b.ref.cell 1).rejectVerdict b 35 15 (s.classicalAc b)) := by
  unfold verdictTimeoutEffect
  simp [h.ready, h.word, hi, hd, hp]

theorem verdictTimeoutEffect_waits {s : State} {b : JudgedBlock} {i : Int}
    (h : s.verdictFrom b = none ∨ (s.verdictFrom b = some i ∧ s.nowNs < i + 4000)) : verdictTimeoutEffect b s = s := by
  have hdue : ((s.verdictFrom b).any fun t => decide (t + 4000 ≤ s.nowNs)) = false := by
    rcases h with h | ⟨h, hlt⟩
    · simp [h]
    · simp [h, hlt]
  unfold verdictTimeoutEffect
  simp [hdue]

/-! ### A run that a firm queue takes -/

theorem newEntry_idx (s : State) (q : QueueId) (bytes : List Byte) : (newEntry s q bytes).idx.val = (s.queue q).tail.toNat := rfl

theorem queueCore_entries (x : Queue) : (queueCore x).entries = x.entries.map entryCore := rfl

/-- An entry without a link joins an ordinary queue at its tail. -/
theorem takeIn_unlinked {s : State} {q : QueueId} {bytes : List Byte} (hf : (s.queue q).fallback = false) (hl : (entryOf bytes).link = false)
    (hfree : ∀ e ∈ (s.queue q).entries, e.idx.val ≠ (s.queue q).tail.toNat) :
    s.takeIn q bytes = joinQueue s q bytes := by
  have hfind : (s.queue q).entries.find? (fun e => e.idx == (newEntry s q bytes).idx) = none :=
    List.find?_eq_none.mpr fun e he heq => hfree e he (congrArg Fin.val (eq_of_beq heq))
  have hentry : (joinQueue s q bytes).entry q (newEntry s q bytes).idx = some (newEntry s q bytes) := by
    rw [State.entry, queue_joinQueue, if_pos rfl, Queue.entry, enqueued]
    simp [List.find?_append, hfind]
  rw [takeIn_of_ordinary hf, State.relink, hentry]
  split
  · rename_i e m he _
    cases he
    exact if_neg fun h => by simp [QEntry.fields, newEntry, hl] at h
  · rfl

/-- A rejected run whose classical replacement a firm queue takes: its entry waits at the tail. -/
theorem run_queued {s : State} {b : JudgedBlock} {q : QueueId} (hp : b.path = .scheduler) (hq : s.firmQueue = some q)
    (hl : (entryOf (setExcl b.template)).link = false) (hfree : ∀ e ∈ (s.queue q).entries, e.idx.val ≠ (s.queue q).tail.toNat)
    (s0 : State) (cause test cost : Nat) :
    CellCounts s (State.settle s0 (s.rejectVerdict b cause test cost)) b.ref.cell .schedFallback 1 ∧
    ∃ e ∈ ((State.settle s0 (s.rejectVerdict b cause test cost)).queue q).entries, e.idx.val = (s.queue q).tail.toNat ∧
      e.bytes = setExcl b.template ∧ e.isWaiting = true := by
  set w := s.writeVerdict b true test cause
  have hw : Touches [.mem, .dev, .fab, .host] s w := qmWrite_touches s _ _
  obtain ⟨r, hr⟩ := classicalScheduler_eq w b.ref.cell ((w.frameTiming b.ref.cell).absOf w.now b.ref.air) b.template cost
  set k := (w.frameTiming b.ref.cell).absOf w.now b.ref.air
  set a := (withReserves w r).append q (setExcl b.template) with ha
  have hrej : s.rejectVerdict b cause test cost = a.schedFallback b.ref.cell k := by
    rw [firmQueue_of_queues fun q => hw.queue q, hq] at hr
    rw [State.rejectVerdict, State.rejectOutput, hp]
    exact hr
  set u := (withReserves w r).qmWrite (((withReserves w r).queue q).entryAddr ((withReserves w r).queue q).tail.toNat) (setExcl b.template)
  have hu : u.queue q = s.queue q := by
    rw [(qmWrite_touches (withReserves w r) _ _).queue q, queue_withReserves, hw.queue q]
  have hjoin : a = joinQueue u q (setExcl b.template) :=
    takeIn_unlinked (by rw [hu]; exact fallback_of_firmQueue hq) hl (by rw [hu]; exact hfree)
  have hcells : ((a.cell b.ref.cell).ctr) = (s.cell b.ref.cell).ctr := by
    rw [(append_cells (withReserves w r) q (setExcl b.template)).but.ctr]
    exact congrArg Cell.ctr (((withReserves_touches w r).cell b.ref.cell).trans (hw.cell b.ref.cell))
  obtain ⟨hfb, _, hcount, _⟩ := schedFallback_spec a b.ref.cell k
  rw [hrej]
  have hset := settle_touches s0 (a.schedFallback b.ref.cell k)
  refine ⟨?_, ?_⟩
  · rw [CellCounts, hset.cell, hcount, hcells]
  · have hcore := congrArg Queue.entries (settle_core s0 (a.schedFallback b.ref.cell k) q)
    have haq : a.queue q = enqueued (newEntry u q (setExcl b.template)) (u.queue q) := by rw [hjoin, queue_joinQueue, if_pos rfl]
    rw [hfb.queue q, haq] at hcore
    have hmem : entryCore (newEntry u q (setExcl b.template)) ∈
        ((State.settle s0 (a.schedFallback b.ref.cell k)).queue q).entries.map entryCore := by
      rw [← queueCore_entries, hcore, queueCore_entries]
      exact List.mem_map_of_mem (List.mem_append_right _ List.mem_cons_self)
    obtain ⟨e, he, heq⟩ := List.mem_map.mp hmem
    refine ⟨e, he, ?_, ?_, ?_⟩
    · have hidx : e.idx = (newEntry u q (setExcl b.template)).idx := (congrArg QEntry.idx heq :)
      rw [hidx, newEntry_idx, hu]
    · exact (congrArg QEntry.bytes heq :)
    · exact (congrArg QEntry.isWaiting heq :)

/-! ### Memory below the HARQ pool -/

/-- Every byte below DRAM is as it was. -/
def SameBelowDram (s t : State) : Prop := ∀ a < dramBase, memByte t.mem a = memByte s.mem a

namespace SameBelowDram

theorem refl (s : State) : SameBelowDram s s := fun _ _ => rfl

theorem trans {s t u : State} (h : SameBelowDram s t) (k : SameBelowDram t u) : SameBelowDram s u := fun a ha => (k a ha).trans (h a ha)

theorem of_touches {ps : List Part} {s t : State} (h : Touches ps s t) (hp : Part.mem ∉ ps := by decide) : SameBelowDram s t :=
  fun a _ => by rw [h.part .mem hp]

theorem foldl {α : Type} (f : State → α → State) (hf : ∀ s a, SameBelowDram s (f s a)) (l : List α) (s : State) : SameBelowDram s (l.foldl f s) := by
  induction l generalizing s with
  | nil => exact refl s
  | cons a l ih => exact (hf s a).trans (ih (f s a))

end SameBelowDram

theorem dramBase_le_pageAddr (x : Harq) (n : Nat) : dramBase ≤ x.pageAddr n := by
  unfold Harq.pageAddr
  exact Nat.le_add_right _ _

theorem harqStore_belowDram (s : State) (p : HarqPage) : SameBelowDram s (s.harqStore p) := by
  obtain ⟨l, hl⟩ := putPage_eq s p
  have hmem : (s.putPage p).mem = memWrite s.mem (s.harq.pageAddr (pageNumber s p)) p.bytes := by rw [hl]
  have hput : SameBelowDram s (s.putPage p) := fun a ha => by
    rw [hmem, memByte_outside (.inl (Nat.lt_of_lt_of_le ha (dramBase_le_pageAddr _ _)))]
  exact hput.trans (.of_touches (mirror_touches (s.putPage p) p.bytes))

theorem harqKeep_belowDram (s : State) (r : BlockRef) : SameBelowDram s (s.harqKeep r) := by
  unfold State.harqKeep
  split
  · exact .refl s
  split
  · exact .refl s
  split
  · exact .refl s
  split
  · exact (SameBelowDram.of_touches (modUnit_touches s r _)).trans (.foldl _ (fun s b => harqStore_belowDram s _) _ _)
  · exact .of_touches (((modUnit_touches s r _).trans (modCell_touches _ _ _)).andThen (raise_touches _ _ _ _) (rs := [.cells, .dev, .host]))

theorem blockFinal_belowDram (s : State) (r : BlockRef) (reason : Byte) : SameBelowDram s (s.blockFinal r reason) := by
  have h1 : SameBelowDram s (finalled s r reason) := .of_touches (finalled_touches s r reason)
  unfold State.blockFinal
  dsimp only
  split
  · split
    · exact h1.trans (harqKeep_belowDram (finalled s r reason) r)
    · exact h1
  · exact h1

/-- A verdict word lies below DRAM. -/
theorem VerdictOpen.below {s : State} {b : JudgedBlock} (h : VerdictOpen s b) : b.verdictAddr.toNat + 8 ≤ dramBase := by
  obtain ⟨off, hpl, _, _⟩ := h
  simp only [placeOf, plainBase, plainSize, dramBase, show ¬ 8 = 0 by decide, if_false] at hpl ⊢
  split_ifs at hpl
  omega

/-- A word once written reads so while the memory below DRAM stays. -/
theorem memRead_word {s t : State} {b : JudgedBlock} {v : Nat} (ho : VerdictOpen s b) (hm : SameBelowDram (wordAt s b.verdictAddr v) t)
    (hok : MemOk s) : memRead t.mem b.verdictAddr.toNat 8 = natLE 8 v := by
  have hread := memRead_memWrite b.verdictAddr.toNat (natLE 8 v) hok
  rw [length_natLE] at hread
  rw [← hread]
  refine List.map_congr_left fun i hi => hm _ ?_
  have := ho.below
  have := List.mem_range.mp hi
  omega

/-! ### An uplink block that no reserve recomputes (R190) -/

theorem causeNoted_block (s : State) (b : JudgedBlock) (cause test : Byte) (u : UlUnit) :
    (causeNoted s b cause test u).ulBlock b.ref = (s.ulBlock b.ref).map fun y => { y with waiting := none } := by
  set m := s.modBlock b.ref fun y => { y with waiting := none }
  have hul : ((m.cellAdd b.ref.cell (causeCtr cause) 1).cell b.ref.cell).ul = (m.cell b.ref.cell).ul := by
    rw [State.cellAdd, cell_modCell_same, Cell.add]
  have hnote : (causeNoted s b cause test u).ulUnit b.ref = (m.cellAdd b.ref.cell (causeCtr cause) 1).ulUnit b.ref := by
    rw [State.ulUnit, causeNoted, ulSlot_modUl (f := noted cause test u.rnti u.harqId) _ _ _ fun _ => rfl, State.ulUnit]
    cases (m.cellAdd b.ref.cell (causeCtr cause) 1).ulSlot b.ref.cell b.ref.air <;> rfl
  rw [ulBlock_of_unit hnote, ulBlock_of_cell hul, ulBlock_modBlock]

theorem causeNoted_counts (s : State) (b : JudgedBlock) (cause test : Byte) (u : UlUnit) :
    CellCounts s (causeNoted s b cause test u) b.ref.cell (causeCtr cause) 1 ∧ OtherCells b.ref.cell s (causeNoted s b cause test u) := by
  refine ⟨?_, otherCells_trans (otherCells_trans (otherCells_modBlock s b.ref _) (otherCells_cellAdd _ _ _ 1)) (otherCells_modUl _ _ _ _)⟩
  rw [CellCounts, causeNoted, State.modUl, cell_modCell_same]
  exact (ctr_cellAdd_same _ b.ref.cell (causeCtr cause) 1).trans (by rw [State.modBlock, State.modUnit, State.modUl, cell_modCell_same])

theorem recompute_none {s : State} {c : CellId} {template : List Byte} (h : s.fallbackQueue c (descOf template).crit = none) (cost : Nat) :
    s.recompute c template cost = (false, (s.devInc .qmNotAdmitted).tdc .tdcSched c 1) := by
  rw [State.recompute, h]

theorem fallbackQueue_of_queues {s t : State} (h : ∀ q, t.queue q = s.queue q) (c : CellId) (cls : Nat) :
    t.fallbackQueue c cls = s.fallbackQueue c cls := by
  simp only [State.fallbackQueue, h]

/-- A block rejected with no queue to recompute it in ends with reason 4, and its cause is counted. -/
theorem block_rejected {s : State} {b : JudgedBlock} {x : UlBlock} {u : UlUnit} (hx : s.ulBlock b.ref = some x) (hf : x.final = none)
    (hu : s.ulUnit b.ref = some u) (hq : s.fallbackQueue b.ref.cell (descOf b.template).crit = none) (cause test : Byte) (cost : Nat)
    (hc : (causeCtr cause).idx ∉ poolCtrs) :
    SameBelowDram s (s.rejectUplink b cause test cost) ∧
    (s.rejectUplink b cause test cost).ulBlock b.ref = some { x with waiting := none, final := some 4 } ∧
    CellCounts s (s.rejectUplink b cause test cost) b.ref.cell (causeCtr cause) 1 ∧
    OtherCells b.ref.cell s (s.rejectUplink b cause test cost) := by
  set n := causeNoted s b cause test u
  have hn := causeNoted_touches s b cause test u
  set d := (n.devInc .qmNotAdmitted).tdc .tdcSched b.ref.cell 1 with hd
  have hdt : Touches [.dev, .cells] n d := (devInc_touches n (c := .qmNotAdmitted)).andThen (tdc_touches (c := .tdcSched) _ b.ref.cell 1)
  have hdcell : CellsButTdc n d := (CellsButTdc.of_touches (devInc_touches n (c := .qmNotAdmitted))).trans (.tdc _ _ _ 1)
  have hdother : OtherCells b.ref.cell n d :=
    otherCells_trans ((devInc_touches n (c := .qmNotAdmitted)).otherCells _) (otherCells_tdc _ _ _ 1)
  set f := d.blockFinal b.ref 4
  have hkept : HarqKept b.ref.cell (finalled d b.ref 4) f := blockFinal_kept d b.ref 4
  have hrej : s.rejectUplink b cause test cost = f.modUl b.ref.cell b.ref.air shortOfReserve := by
    rw [rejectUplink_eq hx hu hf, recompute_none (by rw [fallbackQueue_of_queues fun q => hn.queue q]; exact hq)]
    rfl
  obtain ⟨hcount, hother⟩ := causeNoted_counts s b cause test u
  rw [hrej]
  refine ⟨?_, ?_, ?_, ?_⟩
  · exact (((SameBelowDram.of_touches hn).trans (.of_touches hdt)).trans (blockFinal_belowDram d b.ref 4)).trans
      (.of_touches (modUl_touches f _ _ _))
  · have hunit : (f.modUl b.ref.cell b.ref.air shortOfReserve).ulUnit b.ref = f.ulUnit b.ref := by
      rw [State.ulUnit, ulSlot_modUl (f := shortOfReserve) _ _ _ fun _ => rfl, State.ulUnit]
      cases f.ulSlot b.ref.cell b.ref.air <;> rfl
    rw [ulBlock_of_unit hunit, ulBlock_blockFinal, hdcell.ulBlock, causeNoted_block, hx]
    simp [hf]
  · have hctr : ((f.modUl b.ref.cell b.ref.air shortOfReserve).cell b.ref.cell).ctr = (f.cell b.ref.cell).ctr := by
      rw [State.modUl, cell_modCell_same]
    rw [CellCounts, hctr, hkept.ctr _ hc, cell_finalled, hdcell.ctr]
    exact hcount
  · exact otherCells_trans (otherCells_trans (otherCells_trans hother hdother) (otherCells_blockFinal d b.ref 4)) (otherCells_modUl f _ _ _)

/-! ### SHADOW_WITHDRAW (R343) -/

theorem shadowWithdrawEffect_withdraws {s : State} {b : JudgedBlock} (hc : s.shadowCounts b = true) (hj : s.judged b.verdictAddr = false)
    (hr : s.reached (s.detectionClose b) = true) (he : s.recordEnd b.shadowRecord = none) : shadowWithdrawEffect b s =
      ((s.modBlock b.ref fun x => { x with withdrawn := true }).cellAdd b.ref.cell .shadowLate 1).tdc .tdcSched b.ref.cell 1 := by
  unfold shadowWithdrawEffect
  exact if_pos ⟨hc, hj, hr, he⟩

theorem withdraw_spec (s : State) (b : JudgedBlock) {t : State} (ht : t =
      ((s.modBlock b.ref fun x => { x with withdrawn := true }).cellAdd b.ref.cell .shadowLate 1).tdc .tdcSched b.ref.cell 1) :
    CellCounts s t b.ref.cell .shadowLate 1 ∧ t.devCtr .tdcSched = (s.devCtr .tdcSched).add 1 ∧
      (∀ x, s.ulBlock b.ref = some x → t.ulBlock b.ref = some { x with withdrawn := true }) ∧ OnlyChanges [.cells, .dev] s t ∧
      OtherCells b.ref.cell s t := by
  set m := s.modBlock b.ref fun x => { x with withdrawn := true }
  have hm := modBlock_touches s b.ref fun x => { x with withdrawn := true }
  have hadd : Touches [.cells] m (m.cellAdd b.ref.cell .shadowLate 1) := modCell_touches m _ _
  have htdc := CellsButTdc.tdc (m.cellAdd b.ref.cell .shadowLate 1) .tdcSched b.ref.cell 1
  have hmctr : (m.cell b.ref.cell).ctr = (s.cell b.ref.cell).ctr := by
    simp only [m, State.modBlock, State.modUnit, State.modUl, cell_modCell_same]
  have hul : ((m.cellAdd b.ref.cell .shadowLate 1).cell b.ref.cell).ul = (m.cell b.ref.cell).ul := by
    rw [State.cellAdd, cell_modCell_same, Cell.add]
  subst ht
  refine ⟨?_, devCtr_devAdd_same _ .tdcSched 1, fun x hx => ?_, ((hm.trans hadd).andThen (tdc_touches _ _ 1)).only,
    otherCells_trans (otherCells_trans (otherCells_modBlock s b.ref _) (otherCells_cellAdd m _ _ 1)) (otherCells_tdc _ _ _ 1)⟩
  · rw [CellCounts, htdc.ctr, ← hmctr]
    exact ctr_cellAdd_same m b.ref.cell .shadowLate 1
  · rw [htdc.ulBlock, ulBlock_of_cell hul, ulBlock_modBlock, hx]
    rfl

/-- Settles O51: the first failing test is read off the list of tests; a word is one write below the HARQ pool, which the recomputation or
the end of the block leaves alone. -/
theorem verdictsAreWrittenOnce : Obligations.VerdictsAreWrittenOnce := by
  refine ⟨?_, ?_, ?_, ?_, ?_, ?_, ?_, ?_, ?_, ?_, ?_⟩
  · rintro s b v cs hr hw ho hf hl rfl hd hp hj
    exact verdict_accepts_precoded ⟨hr, hw⟩ ho hf hl cs hd hp hj
  · intro x pw ls er q snr o
    refine ⟨judge_llr_extreme x pw ls er q snr o, judge_llr_erased x pw q snr o, ?_⟩
    rintro hmem herased rfl rfl
    rw [judge_llr_saturation x q snr hmem herased]
    split <;> simp <;> omega
  · intro x pw ps rc ea sy it mcs la
    exact ⟨fun hpw => hpw ▸ judge_decoded x ps rc sy it mcs la, judge_uci x pw ps rc, judge_encoded x pw ea sy⟩
  · intro x pw cs
    rw [judge_precoded]
    simp
  · exact fun s b v h => verdict_skips h
  · intro s b ls l er e q snr hr hw ho hf hsus hdem hsh hd hp hmade hj
    have heff := verdict_accepts_llr ⟨hr, hw⟩ ho hf hsus hdem hsh hd hp hmade hj
    exact ⟨fun hl => verdict_llr_classical hl heff, fun u x hl hu hx ha hoe => verdict_llr_learned hl hu hx ha hoe heff⟩
  · intro s b v k i hr hw ho hp hv hq
    have h : Unjudged s b := ⟨hr, hw⟩
    refine ⟨fun hf => ?_, fun hf hl hd => ?_, fun hf hl hd hs => ?_, fun hf hl hj => ?_, fun hi hd => ?_⟩
    · have hrun := run_replaced ho hp hq (test := 0) (cause := 36) (by decide) (by decide) s (s.classicalAc b)
      exact ⟨_, exec_next rfl (verdict_fault h hv hf), hrun.written, hrun.counted, hrun.others⟩
    · have hrun := run_replaced ho hp hq (test := 0) (cause := 37) (by decide) (by decide) s (s.classicalAc b)
      exact ⟨_, exec_next rfl (verdict_demoted h hv hf hl hd), hrun.written, hrun.counted⟩
    · have hrun := run_replaced ho hp hq (test := 0) (cause := 36) (by decide) (by decide) s (s.classicalAc b)
      exact ⟨_, exec_next rfl (verdict_suspect h hv hf hl hd hs), hrun.written⟩
    · obtain ⟨hk, heff⟩ := verdict_rejects h hv hf hl hj
      set c := s.cellAdd b.ref.cell .verdictRejectBlocks 1
      have hrun := run_replaced (ho.of_parts (t := c) rfl rfl) hp (show c.firmQueue = none from hq) (test := k) (cause := 32) (by omega)
        (by decide) s (s.classicalAc b)
      have hcell : vget (c.cell b.ref.cell).ctr CellCtr.schedFallback.idx = vget (s.cell b.ref.cell).ctr CellCtr.schedFallback.idx :=
        ctr_cellAdd_ne s _ 1 (by decide)
      refine ⟨_, exec_next rfl heff, hrun.written, ?_, ?_, otherCells_trans (otherCells_cellAdd s _ _ 1) hrun.others⟩
      · exact (hrun.ctr _ (by decide)).trans (ctr_cellAdd_same s b.ref.cell .verdictRejectBlocks 1)
      · exact hrun.counted.trans (by rw [hcell])
    · have hrun := run_replaced (ho.of_parts (t := s.tdc .tdcBudget b.ref.cell 1) rfl rfl) hp
        (show (s.tdc .tdcBudget b.ref.cell 1).firmQueue = none from hq) (test := 15) (cause := 35) (by decide) (by decide) s (s.classicalAc b)
      refine ⟨_, exec_next rfl (verdictTimeoutEffect_rejects h hp hi hd), hrun.written, ?_⟩
      rw [State.devCtr, hrun.dev]
      exact devCtr_devAdd_same s .tdcBudget 1
  · exact fun s b i h => exec_next rfl (verdictTimeoutEffect_waits h)
  · intro s b v q hr hw hf hp hv hq hl hfree
    exact ⟨_, exec_next rfl (verdict_fault ⟨hr, hw⟩ hv hf), run_queued hp hq hl hfree s 36 0 (s.classicalAc b)⟩
  · intro s b v x u hr hw ho hf hp hd hv hx hfin hu hq
    set w := wordAt s b.verdictAddr (0xC0000000 + 36) with hwdef
    have hwt := wordAt_touches s b.verdictAddr (0xC0000000 + 36)
    obtain ⟨hmem, hblock, hcount, hother⟩ := block_rejected (s := w) (cause := 36) (test := 0) (cost := s.classicalAc b)
      ((hwt.ulBlock b.ref).trans hx) hfin ((ulUnit_of_cell (congrArg Cell.ul (hwt.cell _))).trans hu)
      ((fallbackQueue_of_queues (fun q => hwt.queue q) _ _).trans hq) (by decide)
    have hrej : s.rejectVerdict b 36 0 (s.classicalAc b) = w.rejectUplink b 36 0 (s.classicalAc b) := by
      rw [State.rejectVerdict, writeVerdict_open ho, verdictBits_rejected (by decide) (by decide), State.rejectOutput, hp, hd]
      rfl
    have hset := settle_touches s (w.rejectUplink b 36 0 (s.classicalAc b))
    refine ⟨_, _, exec_next rfl ((verdict_fault ⟨hr, hw⟩ hv hf).trans (by rw [hrej])),
      fun hok => memRead_word ho (hmem.trans (.of_touches hset)) hok, (hset.ulBlock b.ref).trans hblock, rfl, ?_, fun d hne => ?_⟩
    · rw [CellCounts, hset.cell]; exact hcount
    · rw [hset.cell]; exact hother d hne
  · intro s b hc hj hr he
    exact ⟨_, exec_next rfl (shadowWithdrawEffect_withdraws hc hj hr he), withdraw_spec s b rfl⟩

end Sys2Proof.Safety
end

/-! How a command starts on an engine of a stall, and how its checks refuse it (R49, R50, R76, R79, R106, R147, R241, R254). -/
section
namespace Sys2Proof.Safety
open Sys2Proof.Machine

/-! ### The bytes of a descriptor -/

/-- A number that lies within the leading bytes reads the same from those alone. -/
theorem bytesNat_take (b : List Byte) {k o n : Nat} (h : o + n ≤ k) : bytesNat (b.take k) o n = bytesNat b o n := by
  rw [bytesNat, bytesNat, List.drop_take, List.take_take, Nat.min_eq_left (by omega)]

/-- The shared fields of an entry's bytes stand in its descriptor. -/
theorem descOf_take (b : List Byte) : descOf (b.take 64) = descOf b := by
  simp (disch := decide) only [descOf, bytesNat_take]

theorem chainOf_take (b : List Byte) : chainOf (b.take 64) = chainOf b := by
  simp (disch := decide) only [chainOf, bytesNat_take]

/-! ### A CHECK that does not hold (R76) -/

section
variable {b : List Byte} (h : checkOk b = false)
include h

theorem commonChecks_badCheck (rest : Option Byte) : commonChecks b rest = some 4 := by
  simp only [commonChecks, failWith, h]
  rfl

theorem mxRefusal_badCheck (cls : Nat) : mxRefusal b cls = some 4 := commonChecks_badCheck h _

theorem vecRefusal_badCheck (cls : Nat) : vecRefusal b cls = some 4 := commonChecks_badCheck h _

theorem seqRefusal_badCheck (cls : Nat) : seqRefusal b cls = some 4 := commonChecks_badCheck h _

theorem chainRefusal_badCheck (cls : Nat) : chainRefusal b cls = some 4 := commonChecks_badCheck h _

theorem waitRefusal_badCheck (cls : Nat) (en : Bool) : waitRefusal b cls en = some 4 := commonChecks_badCheck h _

end

/-! ### The entry that an engine is reserved for -/

theorem entry_idx {s : State} {q : QueueId} {i : Fin 4096} {e : QEntry} (h : s.entry q i = some e) : e.idx = i := by
  simpa using List.find?_some h

theorem reservedEntry_entry {s : State} {n : StallId} {g : Engine} {q : QueueId} {e : QEntry} (h : s.reservedEntry n g = some (q, e)) :
    s.entry q e.idx = some e := by
  unfold State.reservedEntry at h
  split at h
  · rename_i p i _
    cases he : s.entry p i with
    | none => rw [he] at h; cases h
    | some x => rw [he] at h; cases h; rw [entry_idx he]; exact he
  · cases h

/-! ### Item lists -/

theorem plainItems_touches (s : State) (n : StallId) (cls a len : Nat) : Touches [.dev, .fab, .host] s (s.plainItems n cls a len).2 := by
  unfold State.plainItems
  split
  · exact plainRead_touches s _ _ _
  · exact .refl _ s

theorem readItems_touches (s : State) (n : StallId) (cls a : Nat) : Touches [.dev, .fab, .host] s (s.readItems n cls a).2 := by
  unfold State.readItems
  split
  · exact .refl _ s
  · exact (plainItems_touches s n cls a 4).trans (plainItems_touches _ n cls _ _)

/-! ### Swaps that are due, and the extents of what runs -/

theorem running_rqSwapEffect (x : Stall) (g : Engine) : x.rqSwapEffect.running g = x.running g := by
  unfold Stall.rqSwapEffect
  split <;> rfl

theorem running_sfSwapEffect (x : Stall) (g : Engine) : x.sfSwapEffect.running g = x.running g := by
  unfold Stall.sfSwapEffect
  split <;> rfl

theorem vecFlush_sfSwapEffect (x : Stall) : x.sfSwapEffect.vecFlush = x.vecFlush := by
  unfold Stall.sfSwapEffect
  split <;> rfl

/-- What holds a command back is read from the commands that run alone. -/
theorem holds50_of_running {x y : Stall} (h : ∀ g, y.running g = x.running g) (e : Engine) (w : Extents) : y.holds50 e w = x.holds50 e w := by
  simp only [Stall.holds50, h]

/-- A stall with one stream changed. -/
def onStream (d : StreamId) (f : Stream → Stream) (x : Stall) : Stall := { x with streams := vmod x.streams d f }

theorem modStream_eq (s : State) (n : StallId) (d : StreamId) (f : Stream → Stream) : s.modStream n d f = s.modStall n (onStream d f) := rfl

@[simp] theorem stream_onStream (d : StreamId) (f : Stream → Stream) (x : Stall) :
    vget (onStream d f x).streams d = f (vget x.streams d) := vget_vmod_same _ _ _

/-- A change of a stream that leaves its chain changes no command that runs. -/
theorem running_onStream (d : StreamId) {f : Stream → Stream} (hf : ∀ y, (f y).chain = y.chain) (x : Stall) (g : Engine) :
    (onStream d f x).running g = x.running g := by
  cases g with
  | matrix => rfl
  | vector => rfl
  | sequencer => rfl
  | dma t =>
    have hc : (vget (vmod x.streams d f) t).chain = (vget x.streams t).chain := by
      rw [vget_vmod]
      split
      · subst d; exact hf _
      · rfl
    simp only [Stall.running, onStream, hc]

/-! ### A start -/

/-- The state in which a command starts on stall n: items were read, and the stall changed. -/
structure Starts (n : StallId) (s t : State) : Prop where
  touches : Touches [.stalls, .dev, .fab, .host] s t
  other : OtherStalls n s t

namespace Starts

theorem of_items {s t : State} (n : StallId) (h : Touches [.dev, .fab, .host] s t) : Starts n s t := ⟨h.mono, h.otherStalls n⟩

theorem modStall {s t : State} {n : StallId} (h : Starts n s t) (f : Stall → Stall) : Starts n s (t.modStall n f) :=
  ⟨h.touches.andThen (modStall_touches t n f), otherStalls_trans h.other (otherStalls_modStall t n f)⟩

/-- The run of the entry has its instant; memory and the other stalls are as before. -/
theorem started {s t : State} {n : StallId} {q : QueueId} {e : QEntry} (h : Starts n s t) (he : s.entry q e.idx = some e) :
    (t.started q e.idx).entry q e.idx = some { e with start := s.now } ∧ (t.started q e.idx).mem = s.mem ∧
      OtherStalls n s (t.started q e.idx) := by
  have hnow : t.now = s.now := by rw [State.now, h.touches.part .time]; rfl
  refine ⟨?_, h.touches.part .mem, h.other⟩
  rw [← hnow]
  exact entry_modEntry _ (fun _ => rfl) ((entry_of_queue (h.touches.queue q) e.idx).trans he)

end Starts

/-! ### A refusal -/

/-- A command of stall n has been refused: that is counted, and beside the stall the event unit alone changes. -/
structure Refused (n : StallId) (c : StallCtr) (s t : State) : Prop where
  ctr : vget (t.stall n).ctr c.idx = (vget (s.stall n).ctr c.idx).add 1
  only : OnlyChanges [.stalls, .host, .dev] s t
  other : OtherStalls n s t

theorem stall_refuse (s : State) (n m : StallId) (c : StallCtr) (q : QueueId) (b : List Byte) (o : Byte) :
    (s.refuse n c q b o).stall m = (s.modStall n (·.add c 1)).stall m := (raise_touches _ _ _ _).stall m

theorem stall_refuse_modStall (s : State) (n : StallId) (f : Stall → Stall) (c : StallCtr) (q : QueueId) (b : List Byte) (o : Byte) :
    ((s.modStall n f).refuse n c q b o).stall n = (f (s.stall n)).add c 1 := by
  rw [stall_refuse, stall_modStall_same, stall_modStall_same]

/-- The refusal of a command that stands in its stall without a change of the stall's counters. -/
theorem Refused.modStall (s : State) (n : StallId) {f : Stall → Stall} (hf : (f (s.stall n)).ctr = (s.stall n).ctr) (c : StallCtr)
    (q : QueueId) (b : List Byte) (o : Byte) : Refused n c s ((s.modStall n f).refuse n c q b o) where
  ctr := by
    rw [stall_refuse_modStall, ← hf]
    exact vget_vmod_same _ _ _
  only := (((modStall_touches s n f).trans (modStall_touches _ n _)).andThen (raise_touches _ _ _ _)).only
  other := fun m hm => by rw [stall_refuse, stall_modStall_ne _ _ hm.symm, stall_modStall_ne _ _ hm.symm]

/-! ### MATRIX_COMMAND -/

section
variable {n : StallId} {q : QueueId} {e : QEntry} {s : State}

theorem matrixCommandEffect_starts {w : MxRow} (hr : s.reservedEntry n .matrix = some (q, e)) (hop : e.desc.opclass ≠ 4)
    (hok : mxRefusal e.bytes (s.queue q).cls = none) (hw : mxRow (mxOf e.bytes).mode (mxOf e.bytes).fa (mxOf e.bytes).fb = some w)
    (hh : (s.stall n).holds50 .matrix (mxExtents (mxOf e.bytes) w) = false) :
    ∃ t items results, Starts n s t ∧ matrixCommandEffect n s = t.started q e.idx ∧
      (t.stall n).matrix = .running (newRunning s.now q e items results none) (s.stall n).rqSwapEffect.rqActive := by
  have hh' : (s.stall n).rqSwapEffect.holds50 .matrix (mxExtents (mxOf e.bytes) w) = false :=
    (holds50_of_running (running_rqSwapEffect _) _ _).trans hh
  unfold matrixCommandEffect
  simp only [hr, if_neg hop, hok, hw, hh', Bool.false_eq_true, if_false]
  exact ⟨_, _, _, ((Starts.of_items n (readItems_touches s n _ _)).modStall Stall.rqSwapEffect).modStall _, rfl,
    congrArg Stall.matrix (stall_modStall_same _ n _)⟩

theorem matrixCommandEffect_refuses {o : Byte} (hr : s.reservedEntry n .matrix = some (q, e)) (hop : e.desc.opclass ≠ 4)
    (ho : mxRefusal e.bytes (s.queue q).cls = some o) : ∃ t b, matrixCommandEffect n s = t ∧
      (t.stall n).matrix = .running (newRunning s.now q e none [] (some o)) b ∧ Refused n .mxRefused s t := by
  unfold matrixCommandEffect
  simp only [hr, if_neg hop, ho]
  exact ⟨_, _, rfl, congrArg Stall.matrix (stall_refuse_modStall s n _ .mxRefused q e.bytes o), .modStall s n rfl _ q e.bytes o⟩

/-! ### VECTOR_COMMAND -/

theorem vectorCommandEffect_starts (hr : s.reservedEntry n .vector = some (q, e)) (hok : vecRefusal e.bytes (s.queue q).cls = none)
    (hh : (s.stall n).holds50 .vector (progExtents (progOf e.bytes) 8) = false) :
    ∃ t items it, Starts n s t ∧ vectorCommandEffect n s = t.started q e.idx ∧
      (t.stall n).vec = .running ((newRunning s.now q e items (progResults items) none).nextItem s.now)
        ((VecRegs.clear (s.stall n).sfSwapEffect.sfActive (s.stall n).vecFlush).load (progOf e.bytes) it) := by
  have hh' : (s.stall n).sfSwapEffect.holds50 .vector (progExtents (progOf e.bytes) 8) = false :=
    (holds50_of_running (running_sfSwapEffect _) _ _).trans hh
  unfold vectorCommandEffect
  simp only [hr, hok, hh', Bool.false_eq_true, if_false, vecFlush_sfSwapEffect]
  exact ⟨_, _, _, ((Starts.of_items n (readItems_touches s n _ _)).modStall Stall.sfSwapEffect).modStall _, rfl,
    congrArg Stall.vec (stall_modStall_same _ n _)⟩

theorem vectorCommandEffect_refuses {o : Byte} (hr : s.reservedEntry n .vector = some (q, e))
    (ho : vecRefusal e.bytes (s.queue q).cls = some o) : ∃ t x, vectorCommandEffect n s = t ∧
      (t.stall n).vec = .running (newRunning s.now q e none [] (some o)) x ∧ Refused n .vecRefused s t := by
  unfold vectorCommandEffect
  simp only [hr, ho]
  exact ⟨_, _, rfl, congrArg Stall.vec (stall_refuse_modStall s n _ .vecRefused q e.bytes o), .modStall s n rfl _ q e.bytes o⟩

/-- The vector engine's registers at the start of a command: 0, but for A1 to A7 (R49, R107). -/
theorem load_clear_vec (bank : Bool) (flush : Word) (p : ProgDesc) (it : Option Item) {x : VecRegs}
    (hx : x = (VecRegs.clear bank flush).load p it) : x.pc = 0 ∧ x.loops = [] ∧ (∀ i j, vget (vget x.v i) j = 0) ∧ (∀ i, vget x.k i = 0) ∧
      x.bank = bank ∧ x.flush = flush ∧ vget x.a 0 = 0 ∧ vget x.a 1 = BitVec.ofNat 32 p.rdBase ∧ vget x.a 2 = BitVec.ofNat 32 p.wrBase := by
  subst hx
  refine ⟨rfl, rfl, fun i j => ?_, fun i => vget_replicate _ i, rfl, rfl, rfl, rfl, rfl⟩
  show vget (vget (Vector.replicate 32 (Vector.replicate 256 0)) i) j = 0
  rw [vget_replicate, vget_replicate]

/-! ### SEQUENCER_COMMAND -/

theorem sequencerCommandEffect_starts (hr : s.reservedEntry n .sequencer = some (q, e)) (hok : seqRefusal e.bytes (s.queue q).cls = none)
    (hh : (s.stall n).holds50 .sequencer (progExtents (progOf e.bytes) 4) = false) :
    ∃ t items it, Starts n s t ∧ sequencerCommandEffect n s = t.started q e.idx ∧
      (t.stall n).seq = .running ((newRunning s.now q e items (progResults items) none).nextItem s.now)
        ((seqStart (progOf e.bytes)).load (progOf e.bytes) it) := by
  unfold sequencerCommandEffect
  simp only [hr, hok, hh, Bool.false_eq_true, if_false]
  exact ⟨_, _, _, (Starts.of_items n (readItems_touches s n _ _)).modStall _, rfl, congrArg Stall.seq (stall_modStall_same _ n _)⟩

theorem sequencerCommandEffect_refuses {o : Byte} (hr : s.reservedEntry n .sequencer = some (q, e))
    (ho : seqRefusal e.bytes (s.queue q).cls = some o) : ∃ t x, sequencerCommandEffect n s = t ∧
      (t.stall n).seq = .running (newRunning s.now q e none [] (some o)) x ∧ Refused n .seqRefused s t := by
  unfold sequencerCommandEffect
  simp only [hr, ho]
  exact ⟨_, _, rfl, congrArg Stall.seq (stall_refuse_modStall s n _ .seqRefused q e.bytes o), .modStall s n rfl _ q e.bytes o⟩

/-- The sequencer's registers at the start of a command (R49, R146). -/
theorem load_seqStart (p : ProgDesc) (it : Option Item) {x : SeqRegs} (hx : x = (seqStart p).load p it) : x.pc = 0 ∧
    (∀ a, vget x.acc a = 0) ∧ x.late = [] ∧ x.branch = none ∧ vget x.ix 0 = BitVec.ofNat 16 ((p.rdBase - 0x150000) / 4) := by
  subst hx
  exact ⟨rfl, fun a => vget_replicate _ a, rfl, rfl, rfl⟩

/-! ### PASS_WAIT_COMMAND -/

/-- The wait stands in the array, and what follows is its arrival at the Pass, if it makes one. -/
theorem passWaitCommandEffect_waits (hr : s.reservedEntry n .matrix = some (q, e)) (hop : e.desc.opclass = 4)
    (hok : waitRefusal e.bytes (s.queue q).cls (s.pass (passOf e.desc.passId)).en = none) :
    ∃ t g, Starts n s t ∧ Touches passParts (t.started q e.idx) (passWaitCommandEffect n s) ∧
      (t.stall n).matrix = .passWait (newRunning s.now q e none [] none) (passOf e.desc.passId) g
        (if bytesNat e.bytes 20 4 = 0 then none else some (s.now + ns (bytesNat e.bytes 20 4))) := by
  unfold passWaitCommandEffect
  simp only [hr, hop, hok, ne_eq, not_true_eq_false, if_false]
  exact ⟨_, _, (Starts.of_items n (.refl _ s)).modStall _, .ite (arrive_touches _ _ _) (.refl _ _),
    congrArg Stall.matrix (stall_modStall_same s n _)⟩

theorem passWaitCommandEffect_refuses {o : Byte} (hr : s.reservedEntry n .matrix = some (q, e)) (hop : e.desc.opclass = 4)
    (ho : waitRefusal e.bytes (s.queue q).cls (s.pass (passOf e.desc.passId)).en = some o) : ∃ t p g l, passWaitCommandEffect n s = t ∧
      (t.stall n).matrix = .passWait (newRunning s.now q e none [] (some o)) p g l ∧ Refused n .mxRefused s t := by
  unfold passWaitCommandEffect
  simp only [hr, hop, ho, ne_eq, not_true_eq_false, if_false]
  exact ⟨_, _, _, _, rfl, congrArg Stall.matrix (stall_refuse_modStall s n _ .mxRefused q e.bytes o), .modStall s n rfl _ q e.bytes o⟩

end

/-! ### CHAIN_START_COMMAND -/

section
variable {n : StallId} {d : StreamId} {q : QueueId} {i : Fin 4096} {e : QEntry} {s : State}

/-- A stream that takes a command over from its reservation. -/
def taken (r : Running) (y : Stream) : Stream := { y with reserved := none, queued := some r }

/-- A stream on which the command waiting at it starts a chain. -/
def chained (c : Chain) (y : Stream) : Stream := { y with queued := none, chain := some c }

/-- The chain of a chain-start command, at its first descriptor. -/
def commandChain (now : Int) (r : Running) : Chain :=
  newChain (.command { r with start := now }) (descOf r.desc).crit (chainOf r.desc).1 (chainOf r.desc).2.1 (chainOf r.desc).2.2 now

/-- The chain takes its first descriptor, its LOCAL range and its class from the entry. -/
theorem commandChain_entry (now : Int) (q : QueueId) (e : QEntry) {c : Chain} (hc : c = commandChain now (newRunning now q e none [] none)) :
    c.next = bytesNat e.bytes 20 4 ∧ c.localBase = bytesNat e.bytes 28 4 ∧ c.localEnd = bytesNat e.bytes 32 4 ∧ c.cls = e.desc.crit := by
  have hb : chainOf (newRunning now q e none [] none).desc = chainOf e.bytes := chainOf_take e.bytes
  subst hc
  exact ⟨congrArg Prod.fst hb, congrArg (·.2.1) hb, congrArg (·.2.2) hb, congrArg Desc.crit (descOf_take e.bytes)⟩

theorem startQueued_starts {r : Running} (hq : (vget (s.stall n).streams d).queued = some r) (ho : r.outcome = none)
    (hc : (vget (s.stall n).streams d).chain = none) (hs : (vget (s.stall n).streams d).shadow = none)
    (hh : (s.stall n).holds50 (.dma d) (runningExtents (.dma d) r) = false) :
    s.startQueued n d = (s.modStream n d (chained (commandChain s.now r))).started r.q r.idx := by
  unfold State.startQueued
  simp only [hc, hq, ho, hs, hh, Option.isSome_none, Bool.false_eq_true, or_self, if_false]
  rw [← ho]
  rfl

theorem chainStartCommandEffect_starts {r : Running} (hrun : newRunning s.now q e none [] none = r)
    (hr : (vget (s.stall n).streams d).reserved = some (q, i)) (he : s.entry q i = some e)
    (hok : chainRefusal e.bytes (s.queue q).cls = none) (hc : (vget (s.stall n).streams d).chain = none)
    (hs : (vget (s.stall n).streams d).shadow = none) (hh : (s.stall n).holds50 (.dma d) (runningExtents (.dma d) r) = false) :
    ∃ t, chainStartCommandEffect n d s = t ∧
      vget (t.stall n).streams d = chained (commandChain s.now r) (taken r (vget (s.stall n).streams d)) ∧ Touches [.stalls, .qm] s t ∧
      OtherStalls n s t := by
  have hx : (s.modStream n d (taken r)).stall n = onStream d (taken r) (s.stall n) := stall_modStall_same s n _
  have hstart := startQueued_starts (s := s.modStream n d (taken r)) (n := n) (d := d) (r := r)
  simp only [hx, stream_onStream, holds50_of_running (running_onStream d (f := taken r) (fun _ => rfl) (s.stall n))] at hstart
  unfold chainStartCommandEffect
  simp only [hr, he, hok, hrun]
  refine ⟨_, hstart rfl (by rw [← hrun]; rfl) hc hs hh, ?_,
    ((modStall_touches s n _).trans (modStall_touches _ n _)).andThen (modEntry_touches _ r.q r.idx _),
    otherStalls_trans (otherStalls_modStall s n _) (otherStalls_modStall _ n _)⟩
  change vget (((s.modStream n d (taken r)).modStall n (onStream d _)).stall n).streams d = _
  rw [stall_modStall_same, hx, stream_onStream, stream_onStream]
  rfl

theorem chainStartCommandEffect_refuses {o : Byte} (hr : (vget (s.stall n).streams d).reserved = some (q, i)) (he : s.entry q i = some e)
    (ho : chainRefusal e.bytes (s.queue q).cls = some o) : ∃ t, chainStartCommandEffect n d s = t ∧
      vget (t.stall n).streams d = taken (newRunning s.now q e none [] (some o)) (vget (s.stall n).streams d) ∧ Refused n .mxRefused s t := by
  unfold chainStartCommandEffect
  simp only [hr, he, ho]
  refine ⟨_, rfl, ?_, .modStall s n rfl _ q e.bytes o⟩
  rw [modStream_eq, stall_refuse_modStall]
  exact stream_onStream d _ _

end

/-- Settles O14: of a command that its checks pass the engine, its entry and the frame of the start are read off; of one that they
refuse, the outcome and the count. -/
theorem commandsAreCheckedAndStart : Obligations.CommandsAreCheckedAndStart := by
  refine ⟨⟨?_, ?_, ?_, ?_, ?_⟩, ?_, ?_, ?_, ?_, ?_⟩
  · intro n q e w s hr hop hok hw hh
    obtain ⟨t, items, results, ht, he, hm⟩ := matrixCommandEffect_starts hr hop hok hw hh
    obtain ⟨hent, hmem, ho⟩ := ht.started (reservedEntry_entry hr)
    exact ⟨_, _, exec_next rfl he, hm, rfl, rfl, rfl, rfl, rfl, hent, hmem, ho⟩
  · intro n q e s hr hok hh
    obtain ⟨t, items, it, ht, he, hx⟩ := vectorCommandEffect_starts hr hok hh
    obtain ⟨hpc, hloops, hv, hk, hbank, hflush, ha0, ha1, ha2⟩ :=
      load_clear_vec (s.stall n).sfSwapEffect.sfActive (s.stall n).vecFlush (progOf e.bytes) it rfl
    obtain ⟨hent, hmem, ho⟩ := ht.started (reservedEntry_entry hr)
    exact ⟨_, _, _, exec_next rfl he, hx, rfl, rfl, rfl, hpc, hloops, hv, hk, hbank, hflush, ha0, ha1, ha2, hent, hmem, ho⟩
  · intro n q e s hr hok hh
    obtain ⟨t, items, it, ht, he, hx⟩ := sequencerCommandEffect_starts hr hok hh
    obtain ⟨hpc, hacc, hlate, hbranch, hix⟩ := load_seqStart (progOf e.bytes) it rfl
    obtain ⟨hent, hmem, ho⟩ := ht.started (reservedEntry_entry hr)
    exact ⟨_, _, _, exec_next rfl he, hx, rfl, rfl, rfl, hpc, hacc, hlate, hbranch, hix, hent, hmem, ho⟩
  · intro n d q i e s hr he hok hc hs hh
    obtain ⟨t, heff, hy, ht, ho⟩ := chainStartCommandEffect_starts rfl hr he hok hc hs hh
    obtain ⟨hnext, hlo, hhi, hcls⟩ := commandChain_entry s.now q e rfl
    exact ⟨t, _, exec_next rfl heff, by rw [hy]; rfl, rfl, hnext, hlo, hhi, rfl, hcls, by rw [hy]; rfl, ht.only, ho⟩
  · intro n q e s hr hop hok
    obtain ⟨t, g, ht, harr, hm⟩ := passWaitCommandEffect_waits hr hop hok
    obtain ⟨hent, hmem, ho⟩ := ht.started (reservedEntry_entry hr)
    exact ⟨_, _, g, rfl, (congrArg Stall.matrix (harr.stall n)).trans hm, rfl, (entry_of_queue (harr.queue q) e.idx).trans hent,
      (harr.part .mem).trans hmem, otherStalls_trans ho (harr.otherStalls n)⟩
  · intro n q e s hr hop hc
    obtain ⟨t, b, he, hm, ht⟩ := matrixCommandEffect_refuses hr (by omega) (mxRefusal_badCheck hc _)
    exact ⟨t, _, b, exec_next rfl he, hm, rfl, ht.ctr, ht.only, ht.other⟩
  · intro n q e s hr hc
    obtain ⟨t, x, he, hx, ht⟩ := vectorCommandEffect_refuses hr (vecRefusal_badCheck hc _)
    exact ⟨t, _, x, exec_next rfl he, hx, rfl, ht.ctr, ht.only, ht.other⟩
  · intro n q e s hr hc
    obtain ⟨t, x, he, hx, ht⟩ := sequencerCommandEffect_refuses hr (seqRefusal_badCheck hc _)
    exact ⟨t, _, x, exec_next rfl he, hx, rfl, ht.ctr, ht.only, ht.other⟩
  · intro n d q i e s hr he hc
    obtain ⟨t, heff, hy, ht⟩ := chainStartCommandEffect_refuses hr he (chainRefusal_badCheck hc _)
    exact ⟨t, _, exec_next rfl heff, by rw [hy]; rfl, rfl, by rw [hy]; rfl, ht.only, ht.other⟩
  · intro n q e s hr hop hc
    obtain ⟨t, p, g, l, he, hm, ht⟩ := passWaitCommandEffect_refuses hr hop (waitRefusal_badCheck hc _ _)
    exact ⟨t, _, p, g, l, exec_next rfl he, hm, rfl, ht.only, ht.other⟩

end Sys2Proof.Safety
end

/-! How a command completes: what the blocks of its results leave alone, and the retiring of its entry (R71, R73, R145, R266, R273, R280). -/
section
namespace Sys2Proof.Safety
open Sys2Proof.Machine

/-! ### Blocks that a command leaves (R158-R185) -/

theorem transportCheck_touches (s : State) (r : BlockRef) : Touches harqParts s (s.transportCheck r) := by
  unfold State.transportCheck
  split
  · split
    · exact .ite ((modUnit_touches s r _).andThen (harqKeep_kept _ r).touches) (.refl _ s)
    · exact .refl _ s
  · exact .refl _ s

theorem blockAccepted_touches (s : State) (r : BlockRef) (d : Decoded) : Touches harqParts s (s.blockAccepted r d) := by
  unfold State.blockAccepted
  split
  · refine .ite (.refl _ s) (.trans ?_ (harqAck_kept _ r).touches)
    have h := ((modBlock_touches s r (decodedBlock d)).andThen (harqSoft_kept _ r d).touches (rs := harqParts)).trans
      (blockFinal_touches _ r d.reason)
    exact .ite ((h.trans (modCell_touches _ r.cell _).mono).trans (transportCheck_touches _ r)) h
  · exact .refl _ s

theorem countLdpc_touches (s : State) (c : CellId) (k : Nat) (early : Bool) : Touches [.cells] s (s.countLdpc c k early) :=
  ((modCell_touches s c _).trans (modCell_touches _ c _)).trans (modCell_touches _ c _)

theorem decodeLdpc_touches (s : State) (r : BlockRef) (u : UlUnit) (t : SchTx) (l : List Byte × List Bool) (classical : Bool) :
    Touches harqParts s (s.decodeLdpc r u t l classical).2 := by
  unfold State.decodeLdpc
  split
  · exact .refl _ s
  · exact (harqCombine_kept s r u t l.1).touches.trans ((countLdpc_touches _ _ _ _).andThen (modCell_touches _ _ _))

theorem decodeUci_touches (s : State) (r : BlockRef) (w : UciWord) (l : List Byte × List Bool) (classical : Bool) :
    Touches [.cells] s (s.decodeUci r w l classical).2 := by
  unfold State.decodeUci
  dsimp only
  split
  · split <;> exact .refl _ s
  split
  · exact .refl _ s
  split
  · split <;> exact .refl _ s
  split
  · exact modCell_touches s _ _
  · exact (modCell_touches s _ _).trans (modCell_touches _ _ _)

theorem blockDecoded_touches (s : State) (r : BlockRef) (d : Decoded) : Touches harqParts s (s.blockDecoded r d) := by
  unfold State.blockDecoded
  split
  · exact .ite (.refl _ s) (.ite (modBlock_touches s r _).mono (blockAccepted_touches s r d))
  · exact .refl _ s

theorem takeLlrs_touches (s : State) (r : BlockRef) (src : LlrSource) : Touches [.cells] s (s.takeLlrs r src) :=
  .ite (modBlock_touches s r _) (.refl _ s)

/-- What a command leaves of a block changes its cell and the HARQ pool. -/
theorem blockResult_touches (s : State) (b : BlockResult) : Touches harqParts s (s.blockResult b) := by
  cases b with
  | llrs r src => exact (takeLlrs_touches s r src).mono
  | ldpc r own =>
    simp only [State.blockResult]
    split
    · exact (decodeLdpc_touches s r _ _ _ _).trans (blockDecoded_touches _ r _)
    · exact .refl _ s
  | uci r own w =>
    simp only [State.blockResult]
    split
    · exact (decodeUci_touches s r w _ _).mono.trans (blockDecoded_touches _ r _)
    · exact .refl _ s
  | prach r p => exact blockAccepted_touches s r _
  | srs r p => exact blockAccepted_touches s r _
  | encoded c a alloc => exact (modDl_touches s c a _).mono
  | attention c mask => exact (modCell_touches s c _).mono
  | control c a rnti bits n => exact (modDl_touches s c a _).mono

theorem blockFaulted_touches (s : State) (b : BlockResult) : Touches harqParts s (s.blockFaulted b) := by
  cases b with
  | llrs r src =>
    cases src with
    | learned => exact .refl _ s
    | classical => exact blockFinal_touches s r 7
  | ldpc r own => exact .ite (blockFinal_touches s r 7) (.refl _ s)
  | uci r own w => exact .ite (blockFinal_touches s r 7) (.refl _ s)
  | prach r p => exact blockFinal_touches s r 7
  | srs r p => exact blockFinal_touches s r 7
  | encoded c a alloc => exact (modDl_touches s c a _).mono
  | attention c mask => exact .refl _ s
  | control c a rnti bits n => exact .refl _ s

/-! ### Results and digests of a command -/

/-- What the results and the digest of a command may change. -/
abbrev resultParts : List Part := [.mem, .dev, .fab, .host, .free, .cells]

theorem writeResults_touches (s : State) (n : StallId) (cls : Nat) (r : Running) (a : Nat) :
    Touches resultParts s (s.writeResults n cls r a) := by
  unfold State.writeResults
  split
  · exact .refl _ s
  · refine .foldl _ (fun s p => ?_) _ s
    dsimp only
    split
    · exact (drew_touches s 1).andThen (plainWrite_touches _ _ _ _)
    · exact (drew_touches s 1).mono

theorem digest_touches (s : State) (n : StallId) (g : Engine) (r : Running) (o : Byte) : Touches resultParts s (s.digest n g r o) := by
  unfold State.digest
  refine .ite (.trans (.ite (.refl _ s) ?_) (modCell_touches _ _ _).mono) (.refl _ s)
  split
  · exact (plainWrite_touches s _ _ _).mono
  · exact .refl _ s

theorem adaptWork_touches (s : State) (q : QueueId) (d : Desc) (o : Byte) : Touches [.cells] s (s.adaptWork q d o) :=
  .ite (modCell_touches s _ _) (.refl _ s)

/-! ### An entry that is retired -/

theorem passHead_entries (l : List QEntry) (x : Queue) : (x.passHead l).entries ⊆ l := by
  induction l generalizing x with
  | nil => exact List.Subset.refl _
  | cons e l ih =>
    unfold Queue.passHead
    split
    · exact List.subset_cons_of_subset e (ih _)
    · exact List.Subset.refl _

/-- An entry that still stands once its index has been marked is retired. -/
theorem markRetired_entry {s : State} {q : QueueId} {i : Fin 4096} {rec_ : List Byte} {e : QEntry}
    (h : (markRetired s q i rec_).entry q i = some e) : e.phase = .retired := by
  have hi := entry_idx h
  have hmem := List.mem_of_find?_eq_some h
  rw [markRetired, queue_modQueue_same] at hmem
  have hmap := passHead_entries _ _ hmem
  rw [State.modEntry, queue_modQueue_same] at hmap
  obtain ⟨x, -, hx⟩ := List.mem_map.1 hmap
  split at hx
  · rw [← hx]
  · exact absurd (hx ▸ hi) ‹_›

theorem retire_entry {s : State} {q : QueueId} {i : Fin 4096} {o : Byte} {rows : Nat} {e : QEntry}
    (h : (s.retire q i o rows).entry q i = some e) : e.phase = .retired := by
  cases he : s.entry q i with
  | none => rw [retire_none he, he] at h; cases h
  | some x =>
    obtain ⟨rec_, hr⟩ := retire_eq he o rows
    rw [hr] at h
    split at h
    · rw [entry_of_queue ((arrive_touches _ _ _).queue q) i] at h
      exact markRetired_entry h
    · exact markRetired_entry h

/-- Settling changes no phase. -/
theorem settle_entry_phase {s0 s : State} {q : QueueId} {i : Fin 4096} {p : EntryPhase} (h : ∀ e, s.entry q i = some e → e.phase = p) :
    ∀ e, (State.settle s0 s).entry q i = some e → e.phase = p := by
  intro e he
  have hcore := settle_entry s0 s q i
  rw [he] at hcore
  cases hx : s.entry q i with
  | none => rw [hx] at hcore; cases hcore
  | some x =>
    rw [hx] at hcore
    exact (congrArg QEntry.phase (Option.some.inj hcore)).trans (h x hx)

/-! ### The engine at the end -/

theorem engineCounts_work (s : State) (n : StallId) (g : Engine) (r : Running) (ac dry bk : Nat) :
    StallWork n s (s.engineCounts n g r ac dry bk) := by
  have hadd : ∀ (u : State) (c : StallCtr) (k : Nat), StallWork n u (u.stallAdd n c k) := fun u _ _ => .modStall u n _
  cases g with
  | matrix =>
    have hbusy := (hadd s .mxBusyAc (busySplit (s.stall n).mxRem (if r.refused then 0 else ac)).1).trans (.modStall _ n fun x =>
      { x with mxRem := (busySplit (s.stall n).mxRem (if r.refused then 0 else ac)).2 })
    have hran := ((hbusy.trans (hadd _ .mxCmdCount (bitNat (bytesNat r.desc 0 1 == 0)))).trans (hadd _ .mxDryAc dry)).trans
      (hadd _ .mxBackupAc bk)
    simp only [State.engineCounts]
    split
    · exact hbusy
    split
    · exact hran
    · exact (hran.trans (hadd _ _ _)).trans (hadd _ _ _)
  | vector => exact ((hadd s _ _).trans (hadd _ _ _)).trans (.modStall _ n _)
  | sequencer => exact ((((hadd s _ _).trans (hadd _ _ _)).trans (hadd _ _ _)).trans (hadd _ _ _)).trans (.modStall _ n _)
  | dma d => exact .refl n s

/-- A vector command counts once. -/
theorem engineCounts_vecCmdCount (s : State) (n : StallId) (r : Running) (ac dry bk : Nat) :
    vget ((s.engineCounts n .vector r ac dry bk).stall n).ctr StallCtr.vecCmdCount.idx =
      (vget (s.stall n).ctr StallCtr.vecCmdCount.idx).add 1 := by
  have hne : StallCtr.vecBusyAc.idx ≠ StallCtr.vecCmdCount.idx := by decide
  simp only [State.engineCounts, State.stallAdd, stall_modStall_same, Stall.add, vget_vmod_ne _ _ hne, vget_vmod_same]

theorem freeEngine_work (s : State) (n : StallId) (g : Engine) : StallWork n s (s.freeEngine n g) := by
  cases g <;> exact .modStall s n _

/-- A swap changes neither the engines nor the counters. -/
theorem swapAt_keeps (x : Stall) (g : Engine) :
    (x.swapAt g).matrix = x.matrix ∧ (x.swapAt g).vec = x.vec ∧ (x.swapAt g).seq = x.seq ∧ (x.swapAt g).ctr = x.ctr := by
  cases g with
  | matrix => simp only [Stall.swapAt, Stall.rqSwapEffect]; split <;> exact ⟨rfl, rfl, rfl, rfl⟩
  | vector => simp only [Stall.swapAt, Stall.sfSwapEffect]; split <;> exact ⟨rfl, rfl, rfl, rfl⟩
  | sequencer => exact ⟨rfl, rfl, rfl, rfl⟩
  | dma d => exact ⟨rfl, rfl, rfl, rfl⟩

/-- The state in which a command that has ended is counted, its engine free, and a swap that waited for it made. -/
def freed (s : State) (n : StallId) (g : Engine) (r : Running) (ac dry bk : Nat) : State :=
  ((s.engineCounts n g r ac dry bk).freeEngine n g).modStall n fun x => x.swapAt g

section
variable (s : State) (n : StallId) (r : Running) (ac dry bk : Nat)

theorem freed_work (g : Engine) : StallWork n s (freed s n g r ac dry bk) :=
  ((engineCounts_work s n g r ac dry bk).trans (freeEngine_work _ n g)).trans (.modStall _ n _)

theorem freed_stall (g : Engine) : (freed s n g r ac dry bk).stall n = (((s.engineCounts n g r ac dry bk).freeEngine n g).stall n).swapAt g :=
  stall_modStall_same _ n _

theorem freed_matrix : ((freed s n .matrix r ac dry bk).stall n).matrix = .idle := by
  obtain ⟨hmatrix, -, -, -⟩ := swapAt_keeps (((s.engineCounts n .matrix r ac dry bk).freeEngine n .matrix).stall n) .matrix
  rw [freed_stall, hmatrix, State.freeEngine, stall_modStall_same]

theorem freed_vector : ((freed s n .vector r ac dry bk).stall n).vec = .idle ∧
    vget ((freed s n .vector r ac dry bk).stall n).ctr StallCtr.vecCmdCount.idx = (vget (s.stall n).ctr StallCtr.vecCmdCount.idx).add 1 := by
  obtain ⟨-, hvec, -, hctr⟩ := swapAt_keeps (((s.engineCounts n .vector r ac dry bk).freeEngine n .vector).stall n) .vector
  rw [freed_stall, hvec, hctr, State.freeEngine, stall_modStall_same]
  exact ⟨rfl, engineCounts_vecCmdCount s n r ac dry bk⟩

theorem freed_sequencer : ((freed s n .sequencer r ac dry bk).stall n).seq = .idle := by
  obtain ⟨-, -, hseq, -⟩ := swapAt_keeps (((s.engineCounts n .sequencer r ac dry bk).freeEngine n .sequencer).stall n) .sequencer
  rw [freed_stall, hseq, State.freeEngine, stall_modStall_same]

end

/-! ### A command that retires its entry -/

/-- Results and digest of a command written, and its run charged to its queue and its entry. -/
def accounted (s : State) (n : StallId) (g : Engine) (r : Running) (o : Byte) (used items : Nat) : State :=
  ((if (descOf r.desc).opclass ≤ 2 then (s.writeResults n (s.queue r.q).cls r items).digest n g r o else s).charge r.q
    ((descOf r.desc).opclass == 4) used).modEntry r.q r.idx fun e => { e with ac := e.ac + used }

theorem accounted_touches (s : State) (n : StallId) (g : Engine) (r : Running) (o : Byte) (used items : Nat) :
    Touches (.qm :: resultParts) s (accounted s n g r o used items) := by
  have hres := (writeResults_touches s n (s.queue r.q).cls r items).andThen (digest_touches _ n g r o) (rs := .qm :: resultParts)
  exact (Touches.ite hres (.refl _ s)).trans ((modQueue_touches _ r.q _).andThen (modEntry_touches _ r.q r.idx _))

/-- The blocks that a command with an outcome leaves. -/
def leaveBlocks (s : State) (o : Byte) (res : List BlockResult) : State :=
  res.foldl (fun s b => if blockFault o then s.blockFaulted b else s.blockResult b) s

theorem leaveBlocks_touches (s : State) (o : Byte) (res : List BlockResult) : Touches harqParts s (leaveBlocks s o res) :=
  .foldl _ (fun s b => .ite (blockFaulted_touches s b) (blockResult_touches s b)) res s

section
variable {s s0 : State} {n : StallId} {g : Engine} {r : Running} {o : Byte} {ac dry bk : Nat}

theorem commandCompletionEffect_retires (hf : s.finished n g ac dry bk = some (r, o, s0)) (ho : o ≠ oYielded) (res : List BlockResult) :
    ∃ items, commandCompletionEffect n g ac dry bk res s = State.settle s (leaveBlocks
      (((accounted (freed s0 n g r ac dry bk) n g r o (ac + s.heldAc n r.q r.idx) items).retire r.q r.idx o (recordRows r)).adaptWork r.q
        (descOf r.desc) o) o res) := by
  unfold commandCompletionEffect
  simp only [hf, if_neg ho]
  exact ⟨_, rfl⟩

/-- The engine is as the end of the command leaves it, and the entry is retired. -/
theorem commandCompletion_retires (hf : s.finished n g ac dry bk = some (r, o, s0)) (ho : o ≠ oYielded) (hw : StallWork n s s0)
    (res : List BlockResult) : ∃ t, exec (.commandCompletion n g ac dry bk res) s = .next t ∧
      t.stall n = (freed s0 n g r ac dry bk).stall n ∧ (∀ e, t.entry r.q r.idx = some e → e.phase = .retired) ∧ OtherStalls n s t := by
  obtain ⟨items, he⟩ := commandCompletionEffect_retires hf ho res
  have hu := accounted_touches (freed s0 n g r ac dry bk) n g r o (ac + s.heldAc n r.q r.idx) items
  generalize accounted (freed s0 n g r ac dry bk) n g r o (ac + s.heldAc n r.q r.idx) items = u at he hu
  have hv := (adaptWork_touches (u.retire r.q r.idx o (recordRows r)) r.q (descOf r.desc) o).andThen (leaveBlocks_touches _ o res)
    (rs := harqParts)
  generalize leaveBlocks ((u.retire r.q r.idx o (recordRows r)).adaptWork r.q (descOf r.desc) o) o res = v at he hv
  have hstall : ∀ m, (State.settle s v).stall m = (freed s0 n g r ac dry bk).stall m := fun m =>
    ((settle_touches s v).stall m).trans ((hv.stall m).trans (((retire_touches u _ _ _ _).stall m).trans (hu.stall m)))
  refine ⟨_, exec_next rfl he, hstall n, settle_entry_phase fun e h => ?_, fun m hm => (hstall m).trans ?_⟩
  · rw [entry_of_queue (hv.queue r.q) r.idx] at h
    exact retire_entry h
  · exact (hw.trans (freed_work s0 n r ac dry bk g)).other m hm

end

/-! ### A command that yields (R273) -/

theorem entry_rewriteEntry {s : State} {q : QueueId} {i : Fin 4096} {e : QEntry} (h : s.entry q i = some e) (f : List Byte → List Byte) :
    (s.rewriteEntry q i f).entry q i = some { e with bytes := f e.bytes } := by
  unfold State.rewriteEntry
  rw [h]
  exact (entry_of_queue ((qmWrite_touches _ _ _).queue q) i).trans (entry_modEntry _ (fun _ => rfl) h)

theorem entry_yielded {s : State} {r : Running} {e : QEntry} (h : s.entry r.q r.idx = some e) (n : StallId) (ac : Nat) :
    (s.yielded n r ac).entry r.q r.idx = some { e with
      bytes := setPin n (setResume true e.bytes), phase := .waiting, ac := e.ac + ac, eligibleAt := none, affinityFree := false, asked := false
      flags := e.flags ||| 4 } :=
  entry_unplace (entry_rewriteEntry h _) ac _ fun _ => rfl

theorem yielded_touches (s : State) (n : StallId) (r : Running) (ac : Nat) : Touches entryParts s (s.yielded n r ac) :=
  (rewriteEntry_touches s r.q r.idx _).andThen (unplace_touches _ r.q r.idx ac fun e => { e with flags := e.flags ||| 4 })

theorem commandCompletionEffect_yields {s s0 : State} {n : StallId} {g : Engine} {r : Running} {ac dry bk : Nat}
    (hf : s.finished n g ac dry bk = some (r, oYielded, s0)) (res : List BlockResult) : commandCompletionEffect n g ac dry bk res s =
      State.settle s ((freed s0 n g r ac dry bk).yielded n r (ac + s.heldAc n r.q r.idx)) := by
  unfold commandCompletionEffect
  simp only [hf, if_true]
  rfl

/-! ### What has finished -/

theorem itemsOutcome_ne_yielded (l : List (Byte × Nat)) : itemsOutcome l ≠ oYielded := by
  unfold itemsOutcome
  split <;> decide

section
variable {s : State} {n : StallId} {r : Running}

theorem finished_vector {x : VecRegs} {o : Byte} (hx : (s.stall n).vec = .running r x) (ho : r.ended = some o) (ac dry bk : Nat) :
    s.finished n .vector ac dry bk = some (r, o, s) := by
  simp [State.finished, hx, ho]

theorem finished_sequencer {x : SeqRegs} {o : Byte} {ac dry : Nat} (hx : (s.stall n).seq = .running r x) (ho : r.ended = some o)
    (hac : ac = x.issue + dry) (bk : Nat) : s.finished n .sequencer ac dry bk = some (r, o, s) := by
  simp [State.finished, hx, ho, hac]

theorem finished_matrix_stopped {b : Bool} {o : Byte} (hm : (s.stall n).matrix = .running r b) (ho : r.outcome = some o) (ac dry bk : Nat) :
    s.finished n .matrix ac dry bk = some (r, o, s) := by
  simp [State.finished, hm, ho]

theorem finished_matrix_ran {b : Bool} {ac dry bk : Nat} (hm : (s.stall n).matrix = .running r b) (ho : r.outcome = none)
    (ht : r.timeOk ac dry bk = true) : s.finished n .matrix ac dry bk = some ((s.mxFinish n r b r.results.length).1,
      itemsOutcome (s.mxFinish n r b r.results.length).1.itemOutcomes, (s.mxFinish n r b r.results.length).2) := by
  simp [State.finished, hm, ho, ht]

end

/-- Settles O15: what has finished gives its engine free; an entry that does not yield is retired, and one that yields waits again. -/
theorem completionRetiresOrRequeues : Obligations.CompletionRetiresOrRequeues := by
  refine ⟨?_, ?_, ?_, ?_⟩
  · intro n r x o ac dry bk res s hx he ho
    obtain ⟨t, hexec, hstall, hret, hother⟩ := commandCompletion_retires (finished_vector hx he ac dry bk) ho (.refl n s) res
    obtain ⟨hvec, hctr⟩ := freed_vector s n r ac dry bk
    exact ⟨t, hexec, by rw [hstall, hvec], by rw [hstall, hctr], hret, hother⟩
  · intro n r x e ac dry bk res s hx he hent hac
    have heff := commandCompletionEffect_yields (finished_sequencer hx he hac bk) res
    have hwork := freed_work s n r ac dry bk .sequencer
    have hset := settle_touches s ((freed s n .sequencer r ac dry bk).yielded n r (ac + s.heldAc n r.q r.idx))
    have hyield := yielded_touches (freed s n .sequencer r ac dry bk) n r (ac + s.heldAc n r.q r.idx)
    obtain ⟨at_, ha⟩ := settle_entry_some (s0 := s)
      (entry_yielded ((entry_of_queue (hwork.touches.queue r.q) r.idx).trans hent) n (ac + s.heldAc n r.q r.idx))
    refine ⟨_, _, exec_next rfl heff, ?_, ha, rfl, rfl, rfl, rfl,
      fun m hm => (hset.stall m).trans ((hyield.stall m).trans (hwork.other m hm))⟩
    rw [hset.stall, hyield.stall, freed_sequencer]
  · intro n r b o ac dry bk res s hm he ho
    obtain ⟨t, hexec, hstall, hret, hother⟩ := commandCompletion_retires (finished_matrix_stopped hm he ac dry bk) ho (.refl n s) res
    exact ⟨t, hexec, by rw [hstall, freed_matrix], hret, hother⟩
  · intro n r b ac dry bk res s hm he ht
    obtain ⟨hwork, hres⟩ := mxFinish_spec s n r b r.results.length
    obtain ⟨t, hexec, hstall, hret, hother⟩ := commandCompletion_retires (finished_matrix_ran hm he ht) (itemsOutcome_ne_yielded _) hwork res
    rw [hres.only] at hret
    exact ⟨t, hexec, by rw [hstall, freed_matrix], hret, hother⟩

end Sys2Proof.Safety
end

/-! The requantisation and function stores of a stall: their windows and the swaps of their banks (R96, R97, R131, R132). -/
section
namespace Sys2Proof.Safety
open Sys2Proof.Machine

/-! ### Reading back -/

theorem sget_of_forall_lt {α : Type} (d : α) {m : Sparse α} {a : Nat} (h : ∀ c ∈ m, a < c.1) : sget d m a = d := by
  induction m with
  | nil => rfl
  | cons c m ih =>
    obtain ⟨hc, hm⟩ := List.forall_mem_cons.mp h
    rw [sget, if_neg (Nat.ne_of_gt hc), ih hm]

/-- At rising keys a store reads back what it put, whether or not the other words listed are at their defaults. -/
theorem sget_sput_same {α : Type} [DecidableEq α] (d : α) {m : Sparse α} (h : m.Pairwise fun a b => a.1 < b.1) (a : Nat) (v : α) :
    sget d (sput d m a v) a = v := by
  induction m with
  | nil =>
    unfold sput
    split
    · exact (‹v = d›).symm
    · simp [sget]
  | cons c m ih =>
    obtain ⟨k, w⟩ := c
    obtain ⟨hk, hm⟩ := List.pairwise_cons.mp h
    unfold sput
    split
    · have hall : ∀ c ∈ (k, w) :: m, a < c.1 := List.forall_mem_cons.mpr ⟨‹a < k›, fun c hc => Nat.lt_trans ‹a < k› (hk c hc)⟩
      split
      · rw [sget_of_forall_lt d hall, ‹v = d›]
      · simp [sget]
    · split
      · subst ‹a = k›
        split
        · rw [sget_of_forall_lt d hk, ‹v = d›]
        · simp [sget]
      · rw [sget, if_neg (Ne.symm ‹¬a = k›), ih hm]

theorem memNat_memWrite {m : Mem} (a n v : Nat) (hm : Mem.wf m = true) (hv : v < 256 ^ n) : memNat (memWrite m a (natLE n v)) a n = v := by
  have hread := memRead_memWrite a (natLE n v) hm
  rw [length_natLE] at hread
  rw [memNat, hread, leNat_natLE n v hv]

/-! ### Writes to a bank -/

theorem rqWrite_active {x : Stall} {off : Nat} (hlo : 0x8000 ≤ off) (hhi : off < 0x10000)
    (hb : decide (0xC000 ≤ off / 4 * 4) = x.rqActive) (v : Word) : x.rqWrite off v = x.add .tableWriteRefused 1 := by
  have hin : ¬(off / 4 * 4 < 0x8000 ∨ 0x10000 ≤ off / 4 * 4) := by omega
  simp only [Stall.rqWrite, if_neg hin, if_pos hb]

theorem rqWrite_inactive {x : Stall} {off : Nat} (hlo : 0x8000 ≤ off) (hhi : off < 0x10000) (hal : off % 4 = 0)
    (hb : decide (0xC000 ≤ off) ≠ x.rqActive) (v : Word) :
    x.rqWrite off v = { x with rqTable := memWrite x.rqTable (off - 0x8000) (natLE 4 v.toNat) } := by
  have hword : off / 4 * 4 = off := by omega
  have hin : ¬(off < 0x8000 ∨ 0x10000 ≤ off) := by omega
  simp only [Stall.rqWrite, hword, if_neg hin, if_neg hb]

theorem sfWrite_active {x : Stall} (hb : x.sfWin.getLsbD 4 = x.sfActive) (off : Nat) (v : Word) :
    x.sfWrite off v = x.add .tableWriteRefused 1 := if_pos hb

theorem sfRead_sfWrite_inactive {x : Stall} (hb : x.sfWin.getLsbD 4 ≠ x.sfActive) (hx : SfOk x) (off : Nat) (v : Word) :
    (x.sfWrite off v).sfRead off = v := by
  have hkey : (x.sfKey off).1 ≠ x.sfActive := hb
  simp only [Stall.sfWrite, if_neg hkey]
  exact sget_sput_same _ hx _ v

/-! ### The commands at one stall -/

theorem overWindow_stall {s : State} {n : StallId} (hon : s.domainOn n.val = true) (f : State → StallId → State) :
    s.overWindow (.stall n) f = f s n := by simp [State.overWindow, Window.stalls, hon]

theorem exec_rqTableWrite_stall {s : State} {n : StallId} (hon : s.domainOn n.val = true) (off : BitVec 16) (v : Word) :
    exec (.rqTableWrite (.stall n) off v) s = .next (s.modStall n fun x => x.rqWrite off.toNat v) :=
  exec_next rfl (overWindow_stall hon _)

theorem exec_sfTableWrite_stall {s : State} {n : StallId} (hon : s.domainOn n.val = true) (off : BitVec 12) (v : Word) :
    exec (.sfTableWrite (.stall n) off v) s = .next (s.modStall n fun x => x.sfWrite off.toNat v) :=
  exec_next rfl (overWindow_stall hon _)

/-- A refused write is counted at its stall. -/
theorem refusedWrite_counts (x : Stall) : vget (x.add .tableWriteRefused 1).ctr StallCtr.tableWriteRefused.idx =
    (vget x.ctr StallCtr.tableWriteRefused.idx).add 1 := vget_vmod_same _ _ _

/-- Settles O17: each command is one update at the stalls that its window reaches; a swap waits for an engine that runs nothing. -/
theorem tableWritesAndSwaps : Obligations.TableWritesAndSwaps := by
  refine ⟨?_, ?_, ?_, ?_, ?_, ?_, ?_, ?_⟩
  · intro n off v s hon hlo hal hb hwf
    have hword : off.toNat / 4 * 4 = off.toNat := by omega
    refine ⟨_, exec_rqTableWrite_stall hon off v, ?_, fun a ha => ?_, modStall_only _ _ _, otherStalls_modStall _ _ _⟩
    · rw [stall_modStall_same, rqWrite_inactive hlo off.isLt hal hb, Stall.rqRead, hword, memNat_memWrite _ _ _ hwf v.isLt, BitVec.ofNat_toNat,
        BitVec.setWidth_eq]
    · rw [stall_modStall_same, rqWrite_inactive hlo off.isLt hal hb]
      exact memByte_outside (by rwa [length_natLE])
  · intro n off v s hon hlo hb
    refine ⟨_, exec_rqTableWrite_stall hon off v, ?_, ?_, modStall_only _ _ _, otherStalls_modStall _ _ _⟩ <;>
      rw [stall_modStall_same, rqWrite_active hlo off.isLt hb]
    · rfl
    · exact refusedWrite_counts _
  · intro n off v s hon hb
    refine ⟨_, exec_sfTableWrite_stall hon off v, ?_, ?_, modStall_only _ _ _, otherStalls_modStall _ _ _⟩ <;>
      rw [stall_modStall_same, sfWrite_active hb]
    · rfl
    · exact refusedWrite_counts _
  · intro n off v s hon _ hb hx
    refine ⟨_, exec_sfTableWrite_stall hon off v, ?_, modStall_only _ _ _, otherStalls_modStall _ _ _⟩
    rw [stall_modStall_same, sfRead_sfWrite_inactive hb hx]
  · exact fun w v s => ⟨_, rfl, overWindow_only s w _ fun s n => modStall_only s n _, stall_overWindow_modStall s w _⟩
  · exact fun w v s => ⟨_, rfl, overWindow_only s w _ fun s n => modStall_only s n _, stall_overWindow_modStall s w _⟩
  · intro n s
    refine ⟨_, rfl, ?_, modStall_only _ _ _, otherStalls_modStall _ _ _⟩
    simp only [stall_modStall_same, Stall.rqSwapEffect, Option.isNone_iff_eq_none]
  · intro n s
    refine ⟨_, rfl, ?_, modStall_only _ _ _, otherStalls_modStall _ _ _⟩
    simp only [stall_modStall_same, Stall.sfSwapEffect, Option.isNone_iff_eq_none]

end Sys2Proof.Safety
end

/-! The registers of the vector engine after a write, and what an instruction that runs leaves and counts (R102-R108, R119, R90). -/
section
namespace Sys2Proof.Safety
open Sys2Proof.Machine Sys2Proof.Laws

/-! ### Registers -/

theorem tile_setTile_ne (x : VecRegs) (t : Tile) {i n : Nat} (h : i % 32 ≠ n % 32) : (x.setTile n t).tile i = x.tile i :=
  vget_vset_ne _ _ fun e => h (congrArg Fin.val e).symm

theorem mask_setMask_ne (x : VecRegs) (m : BitVec 256) {i n : Nat} (h : i % 8 ≠ n % 8) : (x.setMask n m).mask i = x.mask i :=
  vget_vset_ne _ _ fun e => h (congrArg Fin.val e).symm

@[simp] theorem mask_setTile (x : VecRegs) (n : Nat) (t : Tile) (i : Nat) : (x.setTile n t).mask i = x.mask i := rfl
@[simp] theorem tile_setMask (x : VecRegs) (n : Nat) (m : BitVec 256) (i : Nat) : (x.setMask n m).tile i = x.tile i := rfl

/-- Writing one tile changes no other register. -/
theorem setTile_eq (x : VecRegs) (n : Nat) (t : Tile) :
    x.setTile n t = { x with v := vset x.v (tileIx n) ((x.setTile n t).tile n) } := by
  rw [tile_setTile_same]; rfl

/-- Entry j of a list of results by row, column or block. -/
theorem getD_map_range {α : Type} (g : Nat → α) (d : α) {m j : Nat} (h : j < m) : ((List.range m).map g).getD j d = g j := by
  simp [h]

/-! ### An instruction that runs -/

/-- What the instruction at the program index of stall n reads beside the registers. -/
abbrev vecEnvOf (s : State) (n : StallId) (r : Running) (x : VecRegs) : VecEnv :=
  ⟨stallView s.mem n, progOf r.desc, (s.stall n).fnTable x.bank, fun i => (s.freeBits i).setWidth 32⟩

section
variable {s : State} {n : StallId} {r : Running} {x : VecRegs} {k : Nat} {f : VecInstr} {row : Nat} {z : VecResult}

theorem vecDoes_ok {c : Instr} {P : VecRegs → Prop} {y : VecRegs} (h : VecAt s n r x k f) (hc : exec c s = .next (vecRun n row s))
    (hop : f.op = row) (hz : vecStep (vecEnvOf s n r x) f x = .ok y) (hp : P y) (hrow : row ≠ 0x1F := by decide) : VecDoes c s n r k P :=
  vecDoes_of (.ok y) h hc (vecRow_eq hop hrow) hz rfl rfl hp

/-- Where the engine goes after an instruction that stores and draws nothing, and what stays as it was. -/
theorem vecRun_frame (h : VecAt s n r x k f) (hop : f.op = row) (hz : vecStep (vecEnvOf s n r x) f x = z) (hs : z.stop = none)
    (hn : z.stores = []) (hrow : row ≠ 0x1F := by decide) (hdraw : ¬(0x51 ≤ row ∧ row ≤ 0x53) := by decide) :
    VecGoes (vecRun n row s) n r k z.regs ∧ (vecRun n row s).mem = s.mem ∧ OnlyChanges [.stalls] s (vecRun n row s) ∧
      OtherStalls n s (vecRun n row s) := by
  obtain ⟨hgoes, hmem, honly, hfree, hother, -⟩ := vecRun_goes h (vecRow_eq hop hrow) hz hs hn
  refine ⟨hgoes, hmem, ⟨honly.1, fun p hp => ?_⟩, hother⟩
  by_cases he : p = .free
  · subst he; exact hfree (hop ▸ hdraw)
  · exact honly.2 p (by simp_all)

/-- What an instruction adds to VEC_EMPTY_COUNT and QUANT_BAD_SCALE. -/
theorem vecRun_counts (h : VecAt s n r x k f) (hop : f.op = row) (hz : vecStep (vecEnvOf s n r x) f x = z) (hs : z.stop = none)
    (hn : z.stores = []) (hrow : row ≠ 0x1F := by decide) :
    vget ((vecRun n row s).stall n).ctr StallCtr.vecEmptyCount.idx = (vget (s.stall n).ctr StallCtr.vecEmptyCount.idx).add z.empties ∧
    vget ((vecRun n row s).stall n).ctr StallCtr.quantBadScale.idx = (vget (s.stall n).ctr StallCtr.quantBadScale.idx).add z.bads := by
  obtain ⟨-, -, -, -, -, hctr⟩ := vecRun_goes h (vecRow_eq hop hrow) hz hs hn
  have hne : StallCtr.quantBadScale.idx ≠ StallCtr.vecEmptyCount.idx := by decide
  constructor
  · rw [hctr, Stall.add, vget_vmod_ne _ _ hne, Stall.add, vget_vmod_same]
  · rw [hctr, Stall.add, vget_vmod_same, Stall.add, vget_vmod_ne _ _ hne.symm]

end

end Sys2Proof.Safety
end

/-! The reductions of the vector engine (R117-R119). -/
section
namespace Sys2Proof.Safety
open Sys2Proof.Machine Sys2Proof.Laws

/-! ### One reduction -/

theorem treeRed_replicate {op : Word → Word → Word} {w : Word} (h : op w w = w) (k : Nat) :
    treeRed op k (List.replicate (2 ^ k) w) = w := by
  induction k with
  | zero => rfl
  | succ k ih =>
    have htake : (List.replicate (2 ^ (k + 1)) w).take (2 ^ k) = List.replicate (2 ^ k) w := by
      rw [List.take_replicate, Nat.min_eq_left (Nat.pow_le_pow_right (by decide) (Nat.le_succ k))]
    have hdrop : (List.replicate (2 ^ (k + 1)) w).drop (2 ^ k) = List.replicate (2 ^ k) w := by
      rw [List.drop_replicate, Nat.pow_succ, Nat.mul_two, Nat.add_sub_cancel]
    rw [treeRed, htake, hdrop, List.zipWith_replicate, h, Nat.min_self, ih]

/-- The reduction of row j as direction 0 of RED takes it: ARGMAX and ARGMIN answer the lane. -/
def redRow (f : VecInstr) (x : VecRegs) (j : Nat) : Word × Bool :=
  let op := bitsOf f.imm 3 0
  let q := redOne f x op ((List.range 16).map fun l => (16 * j + l, tget (x.tile f.va) (16 * j + l))) fun g ident =>
    treeRed g 4 ((List.range 16).map fun l => if x.active f (16 * j + l) then tget (x.tile f.va) (16 * j + l) else ident)
  if (op = 4 ∨ op = 5) ∧ q.2 = false then (BitVec.ofNat 32 (q.1.toNat % 16), false) else q

section
variable (f : VecInstr) (x : VecRegs) (j : Nat)

theorem redOne_snd (op : Nat) (els : List (Nat × Word)) (tree : (Word → Word → Word) → Word → Word) :
    (redOne f x op els tree).2 = els.all fun p => !x.active f p.1 := by
  show (els.filter fun p => x.active f p.1).isEmpty = _
  rw [Bool.eq_iff_iff]
  simp [List.isEmpty_iff, List.filter_eq_nil_iff]

/-- SUM of I32 (R118), 0 when nothing is active (R119). -/
theorem redOne_sum (ht : f.type = 0) (els : List (Nat × Word)) (tree : (Word → Word → Word) → Word → Word) :
    (redOne f x 0 els tree).1 =
      if (redOne f x 0 els tree).2 then 0 else tree (fun a b => fit32 f.wrap (a.toInt + b.toInt)) 0 := by
  simp only [redOne, ht]; rfl

theorem redRow_snd : (redRow f x j).2 = (List.range 16).all fun l => !x.active f (16 * j + l) := by
  have hone : ∀ g, (redOne f x (bitsOf f.imm 3 0) ((List.range 16).map fun l => (16 * j + l, tget (x.tile f.va) (16 * j + l))) g).2 =
      (List.range 16).all fun l => !x.active f (16 * j + l) := fun g => by rw [redOne_snd, List.all_map]; rfl
  unfold redRow
  dsimp only
  split
  · rename_i h; rw [← hone, h.2]
  · exact hone _

theorem redRow_count (h : bitsOf f.imm 3 0 = 7) :
    (redRow f x j).1 = BitVec.ofNat 32 ((List.range 16).countP fun l => x.active f (16 * j + l)) := by
  simp [redRow, redOne, h, List.filter_map, List.countP_eq_length_filter, Function.comp_def]

/-- SUM of I32: an empty row gives 0, as the tree over sixteen zeros does. -/
theorem redRow_sum (ht : f.type = 0) (h : bitsOf f.imm 3 0 = 0) : (redRow f x j).1 =
    treeRed (fun a b => fit32 f.wrap (a.toInt + b.toInt)) 4
      ((List.range 16).map fun l => if x.active f (16 * j + l) then tget (x.tile f.va) (16 * j + l) else 0) := by
  have hempty := redRow_snd f x j
  simp only [redRow, h, OfNat.zero_ne_ofNat, or_self, false_and, if_false, redOne_sum f x ht] at hempty ⊢
  rw [hempty]
  split
  · rename_i he
    have hzeros : ((List.range 16).map fun l => if x.active f (16 * j + l) then tget (x.tile f.va) (16 * j + l) else (0 : Word)) =
        List.replicate (2 ^ 4) 0 :=
      List.map_eq_replicate_iff.mpr fun l hl => by simp [by simpa using List.all_eq_true.mp he l hl]
    have hzero : fit32 f.wrap ((0 : Word).toInt + (0 : Word).toInt) = 0 := fit32_toInt f.wrap 0
    rw [hzeros, treeRed_replicate hzero]
  · rfl

end

/-! ### RED -/

/-- RED's registers and its count of empty reductions, from the list of its reductions with the elements that they are written to. -/
def redDone (f : VecInstr) (x : VecRegs) (rs : List (Nat × Word × Bool)) : VecResult :=
  { VecResult.ok ((x.setTile f.vd (tgen fun i => match rs.find? fun p => p.1 == i with | some p => p.2.1 | none => 0)).setMask f.vc
      (maskGen fun i => match rs.find? fun p => p.1 == i with | some p => p.2.2 | none => false)) with
    empties := (rs.filter fun p => p.2.2).length }

theorem vecStep_red {e : VecEnv} {f : VecInstr} {x : VecRegs} (hop : f.op = 0x38) (ht : f.type ≤ 1) (h7 : bitsOf f.imm 3 0 ≤ 7)
    (h2 : bitsOf f.imm 5 4 ≤ 2) : ∃ rs, vecStep e f x = redDone f x rs ∧
      (bitsOf f.imm 5 4 = 0 → rs = (List.range 16).map fun j => (16 * j, redRow f x j)) ∧
      (bitsOf f.imm 5 4 = 1 → ∀ p ∈ rs, p.1 < 16) ∧ (bitsOf f.imm 5 4 = 2 → ∀ p ∈ rs, p.1 = 0) := by
  have hstep : vecStep e f x = vecRedStep f x := by rw [vecStep, if_neg (by omega), hop]; rfl
  rw [hstep, vecRedStep]
  simp only [if_pos (show f.type ≤ 1 ∧ bitsOf f.imm 3 0 ≤ 7 ∧ bitsOf f.imm 5 4 ≤ 2 from ⟨ht, h7, h2⟩)]
  refine ⟨_, rfl, fun h => ?_, fun h => ?_, fun h => ?_⟩
  · simp only [h]; rfl
  · simp only [h]; simp
  · simp only [h]; simp

section
variable {f : VecInstr} {x : VecRegs} {rs : List (Nat × Word × Bool)}

theorem redDone_elsewhere {i : Nat} (hi : i < 256) (h : ∀ p ∈ rs, p.1 ≠ i) :
    tget ((redDone f x rs).regs.tile f.vd) i = 0 ∧ ((redDone f x rs).regs.mask f.vc).getLsbD i = false := by
  have hfind : rs.find? (fun p => p.1 == i) = none := List.find?_eq_none.mpr fun p hp => by simpa using h p hp
  simp only [redDone, VecResult.ok, tile_setMask, tile_setTile_same, mask_setMask_same, tget_tgen _ hi, getLsbD_maskGen _ hi, hfind, and_self]

theorem find?_rows {β : Type} (g : Nat → β) {j : Nat} (h : j < 16) :
    ((List.range 16).map fun i => (16 * i, g i)).find? (fun p => p.1 == 16 * j) = some (16 * j, g j) := by
  rw [List.find?_map, List.find?_range_eq_some.mpr ⟨by simp, List.mem_range.mpr h, fun i hi => by simp; omega⟩]
  rfl

theorem redDone_row {g : Nat → Word × Bool} {j : Nat} (h : j < 16) :
    tget ((redDone f x ((List.range 16).map fun i => (16 * i, g i))).regs.tile f.vd) (16 * j) = (g j).1 ∧
    ((redDone f x ((List.range 16).map fun i => (16 * i, g i))).regs.mask f.vc).getLsbD (16 * j) = (g j).2 := by
  have hj : 16 * j < 256 := by omega
  simp only [redDone, VecResult.ok, tile_setMask, tile_setTile_same, mask_setMask_same, tget_tgen _ hj, getLsbD_maskGen _ hj, find?_rows g h,
    and_self]

theorem redDone_empties (g : Nat → Word × Bool) : (redDone f x ((List.range 16).map fun i => (16 * i, g i))).empties =
    (List.range 16).countP fun j => (g j).2 := by
  simp [redDone, List.countP_eq_length_filter, List.filter_map, Function.comp_def]

end

end Sys2Proof.Safety
end

/-! The row operations of the vector engine: normalisation and softmax over rows of several tiles (R120-R123). -/
section
namespace Sys2Proof.Safety
open Sys2Proof.Machine Sys2Proof.Laws

/-! ### Rows that are written -/

/-- The first n tiles written are those that n writes leave, and one more. -/
theorem putWide_succ (x : VecRegs) (f : VecInstr) (n : Nat) (g : Nat → Nat → Option Word) :
    ∃ t, putWide x f (n + 1) g = (putWide x f n g).setTile (f.vd + n) t ∧
      ∀ i w, i < 256 → g (i / 16) (16 * n + i % 16) = some w → tget t i = w := by
  refine ⟨_, by rw [putWide, List.range_succ, List.foldl_append]; rfl, fun i w hi h => ?_⟩
  rw [tget_tgen _ hi, h]

/-- Only tiles are written. -/
theorem putWide_eq (x : VecRegs) (f : VecInstr) (n : Nat) (g : Nat → Nat → Option Word) :
    putWide x f n g = { x with v := (putWide x f n g).v } := by
  induction n with
  | zero => rfl
  | succ n ih =>
    obtain ⟨t, ht, -⟩ := putWide_succ x f n g
    rw [ht, VecRegs.setTile, ih]

theorem putWide_a (x : VecRegs) (f : VecInstr) (n : Nat) (g : Nat → Nat → Option Word) : (putWide x f n g).a = x.a := by
  rw [putWide_eq]

theorem putWide_pc (x : VecRegs) (f : VecInstr) (n : Nat) (g : Nat → Nat → Option Word) : (putWide x f n g).pc = x.pc := by
  rw [putWide_eq]

section
variable {x : VecRegs} {f : VecInstr} {n : Nat} {g : Nat → Nat → Option Word}

theorem tile_putWide_ne {i : Nat} (hi : i < 32) (hn : f.vd + n ≤ 32) (h : ¬(f.vd ≤ i ∧ i < f.vd + n)) :
    (putWide x f n g).tile i = x.tile i := by
  induction n with
  | zero => rfl
  | succ n ih =>
    obtain ⟨t, ht, -⟩ := putWide_succ x f n g
    rw [ht, tile_setTile_ne _ _ (by omega), ih (by omega) (by omega)]

theorem tget_putWide {t i : Nat} {w : Word} (ht : t < n) (hn : f.vd + n ≤ 32) (hi : i < 256)
    (h : g (i / 16) (16 * t + i % 16) = some w) : tget ((putWide x f n g).tile (f.vd + t)) i = w := by
  induction n with
  | zero => omega
  | succ n ih =>
    obtain ⟨u, hu, hval⟩ := putWide_succ x f n g
    rw [hu]
    by_cases he : t = n
    · subst he; rw [tile_setTile_same, hval i w hi h]
    · rw [tile_setTile_ne _ _ (by omega), ih (by omega) (by omega)]

end

theorem getLsbD_emptyMask (rows : List Bool) {j : Nat} (h : j < 16) : (emptyMask rows).getLsbD (16 * j) = rows.getD j false := by
  rw [emptyMask, getLsbD_maskGen _ (by omega : 16 * j < 256)]
  simp

/-! ### Rows that are empty -/

section
variable (e : VecEnv) (f : VecInstr) (x : VecRegs) (j : Nat)

theorem filter_wideActive_eq_nil :
    (List.range (2 ^ wideLog f)).filter (wideActive x f j) = [] ↔ ∀ l, l < 16 → x.active f (16 * j + l) = false := by
  have hw : 16 ≤ 2 ^ wideLog f := Nat.pow_le_pow_right (n := 2) (i := 4) (by decide) (Nat.le_add_right _ _)
  simp only [List.filter_eq_nil_iff, List.mem_range, wideActive, Bool.not_eq_true]
  constructor
  · intro h l hl
    rw [← h l (by omega), Nat.mod_eq_of_lt hl]
  · exact fun h k _ => h (k % 16) (Nat.mod_lt _ (by decide))

theorem normRow_empty : (normRow e f x j).2.2.2.2 = true ↔ ∀ l, l < 16 → x.active f (16 * j + l) = false := by
  rw [← filter_wideActive_eq_nil, normRow]
  dsimp only
  split
  · rename_i h; simp [h]
  · rename_i h
    rw [h]
    split <;> simp

/-- A row that the mask leaves empty is fully masked (R123). -/
theorem softmaxRow_masked (h : ∀ l, l < 16 → x.active f (16 * j + l) = false) : softmaxRow e f x j = (fun _ => 0, true) := by
  have hnil : ((List.range (2 ^ wideLog f)).filter fun k => wideActive x f j k && wideEl x f.va j k != 0xFF800000) = [] :=
    List.filter_eq_nil_iff.mpr fun k hk => by simp [List.filter_eq_nil_iff.mp ((filter_wideActive_eq_nil f x j).mpr h) k hk]
  simp only [softmaxRow, hnil, List.isEmpty_nil, if_true]

end

/-! ### NORM and SOFTMAX -/

section
variable {e : VecEnv} {f : VecInstr} {x : VecRegs}

theorem vecStep_norm (hop : f.op = 0x48) (ht : f.type ≤ 1) (ha : f.va + 2 ^ bitsOf f.imm 17 16 ≤ 32)
    (hd : f.vd + 2 ^ bitsOf f.imm 17 16 ≤ 32) :
    ∃ z, vecStep e f x = z ∧ z.stop = none ∧ z.stores = [] ∧ z.regs.a = x.a ∧ z.regs.pc = x.pc ∧
      (∀ i, i < 32 → i ≠ f.vc % 32 → ¬(f.vd ≤ i ∧ i < f.vd + 2 ^ bitsOf f.imm 17 16) → z.regs.tile i = x.tile i) ∧
      ∀ j, j < 16 → (∀ c, c < 3 → tget (z.regs.tile f.vc) (16 * j + c) =
          [(normRow e f x j).2.1, (normRow e f x j).2.2.1, (normRow e f x j).2.2.2.1].getD c 0) ∧
        (z.regs.mask f.vc).getLsbD (16 * j) = (normRow e f x j).2.2.2.2 := by
  have hstep : vecStep e f x = vecNormStep e f x := by rw [vecStep, if_neg (by omega), hop]; rfl
  refine ⟨_, hstep.trans (if_pos ⟨ht, ha, hd⟩), rfl, rfl, putWide_a x f _ _, putWide_pc x f _ _,
    fun i hi hc h => ?_, fun j hj => ⟨fun c hc => ?_, ?_⟩⟩
  · exact (tile_setTile_ne _ _ (by omega)).trans (tile_putWide_ne hi hd h)
  · dsimp only [VecResult.ok]
    rw [tile_setMask, tile_setTile_same, tget_tgen _ (by omega), show (16 * j + c) / 16 = j by omega, show (16 * j + c) % 16 = c by omega,
      getD_map_range _ _ hj]
    interval_cases c <;> rfl
  · dsimp only [VecResult.ok]
    rw [mask_setMask_same, getLsbD_emptyMask _ hj, List.map_map, getD_map_range _ _ hj]
    rfl

theorem vecStep_softmax (hop : f.op = 0x49) (ht : f.type ≤ 1) (ha : f.va + 2 ^ bitsOf f.imm 17 16 ≤ 32)
    (hd : f.vd + 2 ^ bitsOf f.imm 17 16 ≤ 32) :
    ∃ z, vecStep e f x = z ∧ z.stop = none ∧ z.stores = [] ∧ z.regs.a = x.a ∧ z.regs.pc = x.pc ∧
      (∀ i, i < 32 → ¬(f.vd ≤ i ∧ i < f.vd + 2 ^ bitsOf f.imm 17 16) → z.regs.tile i = x.tile i) ∧
      ∀ j l, j < 16 → l < 16 * 2 ^ bitsOf f.imm 17 16 → (∀ i, i < 16 → x.active f (16 * j + i) = false) →
        tget (z.regs.tile (f.vd + l / 16)) (16 * j + l % 16) = 0 ∧ (z.regs.mask f.vc).getLsbD (16 * j) = true := by
  have hstep : vecStep e f x = vecSoftmaxStep e f x := by rw [vecStep, if_neg (by omega), hop]; rfl
  refine ⟨_, hstep.trans (if_pos ⟨ht, ha, hd⟩), rfl, rfl, putWide_a x f _ _, putWide_pc x f _ _,
    fun i hi h => tile_putWide_ne hi hd h, fun j l hj hl h => ⟨?_, ?_⟩⟩
  · refine tget_putWide (by omega) hd (by omega) ?_
    simp only [show (16 * j + l % 16) / 16 = j by omega, getD_map_range _ _ hj, softmaxRow_masked e f x j h, if_true]
  · dsimp only [VecResult.ok]
    rw [mask_setMask_same, getLsbD_emptyMask _ hj, List.map_map, getD_map_range _ _ hj]
    exact congrArg Prod.snd (softmaxRow_masked e f x j h)

end

end Sys2Proof.Safety
end

/-! The functions and the quantisation of the vector engine (R90-R92, R125-R130). -/
section
namespace Sys2Proof.Safety
open Sys2Proof.Machine Sys2Proof.Laws

section
variable {e : VecEnv} {f : VecInstr} {x : VecRegs}

theorem vecStep_func (hop : f.op = 0x40) (ht : f.type ≤ 1) : vecStep e f x =
    .ok (x.put f fun i => flush x.flush (fnEval e.fn (bitsOf f.imm 3 0) (tget (x.tile f.va) i))) := by
  have hstep : vecStep e f x = vecFuncStep e f x := by rw [vecStep, if_neg (by omega), hop]; rfl
  exact hstep.trans (if_pos ht)

theorem vecStep_fbas (hop : f.op = 0x41) (ht : f.type ≤ 1) (hact : bitsOf f.imm 4 0 ≤ 17) : vecStep e f x =
    .ok (x.put f fun i =>
      let j := if bitOf f.imm 5 then i % 16 else i
      let v := fadd (if f.type = 0 then intToF (tget (x.tile f.va) i).toInt else tget (x.tile f.va) i) (tget (x.tile f.vb) j)
      flush x.flush (fmul (if bitsOf f.imm 4 0 = 16 then v
        else if bitsOf f.imm 4 0 = 17 then (if (fv v).isNan then fnan else if flt true 0 v then v else 0)
        else fnEval e.fn (bitsOf f.imm 4 0) v) (tget (x.tile f.vc) j))) := by
  have hstep : vecStep e f x = vecFbasStep e f x := by rw [vecStep, if_neg (by omega), hop]; rfl
  exact hstep.trans (if_pos ⟨ht, hact⟩)

/-- Block b of QBS: its scale byte, its element codes, and whether the bad-scale rule of R90 applies to it. -/
def qbsBlockAt (f : VecInstr) (x : VecRegs) (b : Nat) : Nat × List Int × Bool :=
  qbsBlock (if bitsOf f.imm 3 0 = fmtBs8 then 127 else 7) (tget (x.tile f.vb) 0)
    ((List.range 32).map fun i => tget (x.tile f.va) (32 * b + i))

theorem vecStep_qbs (hop : f.op = 0x50) (ht : f.type ≤ 1) (hfmt : bitsOf f.imm 3 0 = fmtBs8 ∨ bitsOf f.imm 3 0 = fmtBs4) :
    ∃ y, vecStep e f x = { VecResult.ok y with bads := (List.range 8).countP fun b => (qbsBlockAt f x b).2.2 } ∧
      y.a = x.a ∧ y.k = x.k ∧ y.pc = x.pc ∧ (∀ i, i < 32 → i ≠ f.vd % 32 → i ≠ f.vc % 32 → y.tile i = x.tile i) ∧
      ∀ b j, b < 8 → j < 32 →
        (f.vd % 32 ≠ f.vc % 32 → tget (y.tile f.vd) (32 * b + j) = BitVec.ofInt 32 ((qbsBlockAt f x b).2.1.getD j 0)) ∧
        tget (y.tile f.vc) b = BitVec.ofNat 32 (qbsBlockAt f x b).1 := by
  have hstep : vecStep e f x = vecQbsStep f x := by rw [vecStep, if_neg (by omega), hop]; rfl
  have hcount : (((List.range 8).map (qbsBlockAt f x)).filter fun b => b.2.2).length =
      (List.range 8).countP fun b => (qbsBlockAt f x b).2.2 := by
    simp [List.countP_eq_length_filter, List.filter_map, Function.comp_def]
  rw [← hcount]
  refine ⟨_, hstep.trans (if_pos ⟨ht, hfmt⟩), rfl, rfl, rfl, fun i hi hd hc => ?_, fun b j hb hj => ⟨fun hne => ?_, ?_⟩⟩
  · rw [tile_setTile_ne _ _ (by omega), tile_setTile_ne _ _ (by omega)]
  · rw [tile_setTile_ne _ _ hne, tile_setTile_same, tget_tgen _ (by omega), show (32 * b + j) / 32 = b by omega,
      show (32 * b + j) % 32 = j by omega, getD_map_range _ _ hb]
    simp only [qbsBlockAt]
  · rw [tile_setTile_same, tget_tgen _ (by omega), if_pos hb, getD_map_range _ _ hb]
    simp only [qbsBlockAt]

/-- QRANGE keeps the range and the count of a column without an active element. -/
theorem vecStep_qrange (hop : f.op = 0x51) (ht : f.type ≤ 1) : ∃ t, vecStep e f x = .ok (x.setTile f.vd t) ∧
    ∀ l, l < 16 → (∀ j, j < 16 → x.active f (16 * j + l) = false) → ∀ i, i < 3 → (i = 2 ∨ tget (x.tile f.vc) (32 + l) ≠ 0) →
      tget t (16 * i + l) = tget (x.tile f.vc) (16 * i + l) := by
  have hstep : vecStep e f x = vecQrangeStep e f x := by rw [vecStep, if_neg (by omega), hop]; rfl
  refine ⟨_, hstep.trans (if_pos ht), fun l hl hnone i hi hseen => ?_⟩
  have hcol : (List.range 16).filter (fun r => x.active f (16 * r + l)) = [] :=
    List.filter_eq_nil_iff.mpr fun r hr => by simp [hnone r (List.mem_range.mp hr)]
  rw [tget_tgen _ (by omega), show (16 * i + l) / 16 = i by omega, show (16 * i + l) % 16 = l by omega]
  simp only [hcol, List.map_nil, List.filter_nil, List.foldl_nil, List.length_nil]
  interval_cases i
  · rw [if_neg (hseen.resolve_left (by decide))]; simp
  · rw [if_neg (hseen.resolve_left (by decide))]; simp
  · simp

/-- Scale and zero of column l of QPARAM (R91). -/
def qparamAt (f : VecInstr) (x : VecRegs) (l : Nat) : Word × Word :=
  if tget (x.tile f.va) (32 + l) = 0 then qparamOf (bitsOf f.imm 3 0 == 1) 0 0
  else qparamOf (bitsOf f.imm 3 0 == 1) (tget (x.tile f.va) l) (tget (x.tile f.va) (16 + l))

theorem vecStep_qparam (hop : f.op = 0x52) (ht : f.type ≤ 1) (hfmt : bitsOf f.imm 3 0 ≤ 1) :
    ∃ t, vecStep e f x = .ok (x.setTile f.vd t) ∧
      ∀ l, l < 16 → tget t l = (qparamAt f x l).1 ∧ tget t (16 + l) = (qparamAt f x l).2 := by
  have hstep : vecStep e f x = vecQparamStep e f x := by rw [vecStep, if_neg (by omega), hop]; rfl
  refine ⟨_, hstep.trans (if_pos ⟨ht, hfmt⟩), fun l hl => ⟨?_, ?_⟩⟩
  · rw [tget_tgen _ (by omega), show l / 16 = 0 by omega, show l % 16 = l by omega]; rfl
  · rw [tget_tgen _ (by omega), show (16 + l) / 16 = 1 by omega, show (16 + l) % 16 = l by omega]; rfl

theorem vecStep_qapply (hop : f.op = 0x53) (ht : f.type ≤ 1) (hfmt : bitsOf f.imm 3 0 ≤ 1) :
    ∃ t, vecStep e f x = .ok (x.setTile f.vd t) ∧ ∀ i q, i < 256 →
      qapplyOf (bitsOf f.imm 3 0 == 1) (tget (x.tile f.vb) (i % 16)) (tget (x.tile f.vb) (16 + i % 16)) (tget (x.tile f.va) i) = some q →
        tget t i = BitVec.ofInt 32 q := by
  have hstep : vecStep e f x = vecQapplyStep e f x := by rw [vecStep, if_neg (by omega), hop]; rfl
  refine ⟨_, hstep.trans (if_pos ⟨ht, hfmt⟩), fun i q hi h => ?_⟩
  rw [tget_tgen _ hi, h]

end

end Sys2Proof.Safety
end

/-! The reductions, functions, row operations and quantisation as commands at one stall (R90, R117-R130). -/
section
namespace Sys2Proof.Safety
open Sys2Proof.Machine Sys2Proof.Laws

/-- Settles O21: each clause reads off what its instruction does to the registers; a command that runs it goes on with those. -/
theorem vectorRowsFunctionsAndQuantisation : Obligations.VectorRowsFunctionsAndQuantisation := by
  intro s n r x k f h ht
  dsimp only
  refine ⟨?_, ?_, ?_, ?_, ?_, ?_, ?_, ?_, ?_, ?_, ?_⟩
  · intro hop h7 h2
    obtain ⟨rs, hz, hrows, hcols, hall⟩ := vecStep_red (e := vecEnvOf s n r x) hop ht h7 h2
    refine vecDoes_of _ h rfl (vecRow_eq hop (by decide)) hz rfl rfl ⟨rfl, rfl, rfl, fun i hi hne => ?_, fun i hi hne => ?_,
      fun i hi hkey => redDone_elsewhere hi ?_, fun hd hcount j hj => ?_, fun hd hsum hI j hj => ?_⟩
    · exact tile_setTile_ne _ _ (by omega)
    · exact mask_setMask_ne _ _ (by omega)
    · intro p hp
      obtain hd | hd | hd : bitsOf f.imm 5 4 = 0 ∨ bitsOf f.imm 5 4 = 1 ∨ bitsOf f.imm 5 4 = 2 := by omega
      all_goals rw [hd] at hkey
      · obtain ⟨j, -, rfl⟩ := List.mem_map.mp (hrows hd ▸ hp)
        have hkey : i % 16 ≠ 0 := hkey
        omega
      · have hkey : 16 ≤ i := hkey
        have := hcols hd p hp
        omega
      · rw [hall hd p hp]
        exact Ne.symm hkey
    · obtain ⟨hval, hmask⟩ := redDone_row (f := f) (x := x) (g := redRow f x) hj
      rw [hrows hd, hval, hmask, redRow_count f x j hcount, redRow_snd]
      simp
    · rw [hrows hd, (redDone_row hj).1, redRow_sum f x j hI hsum]
  · exact fun hop => vecDoes_ok h rfl hop (vecStep_func hop ht) (put_tileOnly f x _ _ fun _ _ => rfl)
  · exact fun hop hact => vecDoes_ok h rfl hop (vecStep_fbas hop ht hact) (put_tileOnly f x _ _ fun _ _ => rfl)
  · intro hop ha hd
    obtain ⟨z, hz, hs, hn, hza, hpc, htiles, hrow⟩ := vecStep_norm (e := vecEnvOf s n r x) hop ht ha hd
    obtain ⟨hgoes, hmem, honly, hother⟩ := vecRun_frame h hop hz hs hn
    refine ⟨_, z.regs, rfl, hgoes, hza, hpc, hmem, htiles, fun j hj => ?_, honly, hother⟩
    obtain ⟨hword, hmask⟩ := hrow j hj
    exact ⟨hword 0 (by decide), hword 1 (by decide), hword 2 (by decide), by rw [hmask, normRow_empty]⟩
  · intro hop ha hd
    obtain ⟨z, hz, hs, hn, hza, hpc, htiles, hmasked⟩ := vecStep_softmax (e := vecEnvOf s n r x) hop ht ha hd
    obtain ⟨hgoes, hmem, honly, hother⟩ := vecRun_frame h hop hz hs hn
    exact ⟨_, z.regs, rfl, hgoes, hza, hpc, hmem, htiles, hmasked, honly, hother⟩
  · intro hop hfmt
    obtain ⟨y, hz, hy⟩ := vecStep_qbs (e := vecEnvOf s n r x) hop ht hfmt
    simp only [qbsBlockAt] at hy
    exact vecDoes_of _ h rfl (vecRow_eq hop (by decide)) hz rfl rfl hy
  · intro hop hfmt
    obtain ⟨y, hz, -⟩ := vecStep_qbs (e := vecEnvOf s n r x) hop ht hfmt
    refine ⟨_, rfl, ?_⟩
    rw [(vecRun_counts h hop hz rfl rfl).2]
    simp only [qbsBlockAt]
  · intro hop h7 hd
    obtain ⟨rs, hz, hrows, -⟩ := vecStep_red (e := vecEnvOf s n r x) hop ht h7 (by omega)
    refine ⟨_, rfl, ?_⟩
    rw [(vecRun_counts h hop hz rfl rfl).1, hrows hd, redDone_empties]
    simp only [redRow_snd]
  · intro hop
    obtain ⟨t, hz, hcol⟩ := vecStep_qrange (e := vecEnvOf s n r x) hop ht
    exact vecDoes_ok h rfl hop hz ⟨setTile_eq _ _ _, by rw [tile_setTile_same]; exact hcol⟩
  · intro hop hfmt
    obtain ⟨t, hz, hcol⟩ := vecStep_qparam (e := vecEnvOf s n r x) hop ht hfmt
    exact vecDoes_ok h rfl hop hz ⟨setTile_eq _ _ _, by rw [tile_setTile_same]; exact hcol⟩
  · intro hop hfmt
    obtain ⟨t, hz, hval⟩ := vecStep_qapply (e := vecEnvOf s n r x) hop ht hfmt
    exact vecDoes_ok h rfl hop hz ⟨setTile_eq _ _ _, by rw [tile_setTile_same]; exact hval⟩

end Sys2Proof.Safety
end

/-! The vector engine's instructions as commands: from what an operation gives to what the command does (R107-R110, R114). -/
section
namespace Sys2Proof.Safety
open Sys2Proof.Machine Sys2Proof.Laws

/-- An instruction with a defined TYPE does what Table 04-4 gives its opcode. -/
theorem vecStep_of_op {e : VecEnv} {f : VecInstr} {x : VecRegs} {o : Nat} (st : VecInstr → VecResult)
    (hst : ∀ g : VecInstr, vecStep e { g with op := o } x = if 4 ≤ g.type then .bad x else st { g with op := o })
    (hop : f.op = o) (ht : f.type < 4) : vecStep e f x = st f := by
  subst hop
  exact (hst f).trans (if_neg (by omega))

theorem vecRow_conj {f : VecInstr} (hop : f.op = 0x1F) (h : bitOf f.imm 0 = false) : vecRow f = 0x1F := by simp [vecRow, hop, h]

theorem vecRow_mag2 {f : VecInstr} (hop : f.op = 0x1F) (h : bitOf f.imm 0 = true) : vecRow f = 0x11F := by simp [vecRow, hop, h]

section
variable {s : State} {n : StallId} {r : Running} {x : VecRegs} {k : Nat} {f : VecInstr} {row : Nat} {c : Instr}

/-- An instruction that writes the active elements of VD. -/
theorem vecDoes_put {g g' : Nat → Word} (h : VecAt s n r x k f) (hc : exec c s = .next (vecRun n row s)) (hop : f.op = row)
    (hz : vecStep (vecEnvOf s n r x) f x = .ok (x.put f g')) (e : ∀ i, i < 256 → g i = g' i) (hrow : row ≠ 0x1F := by decide) :
    VecDoes c s n r k (TileOnly f x g) :=
  vecDoes_ok h hc hop hz (put_tileOnly f x g g' e) hrow

/-- An instruction that writes mask VD. -/
theorem vecDoes_setMask {g : Nat → Bool} {m : BitVec 256} (h : VecAt s n r x k f) (hc : exec c s = .next (vecRun n row s))
    (hop : f.op = row) (hz : vecStep (vecEnvOf s n r x) f x = .ok (x.setMask f.vd m)) (e : ∀ i, i < 256 → m.getLsbD i = g i)
    (hrow : row ≠ 0x1F := by decide) : VecDoes c s n r k (MaskOnly f x g) :=
  vecDoes_ok h hc hop hz (setMask_maskOnly f x g m e) hrow

/-- An undefined instruction stops the command (R108). -/
theorem vecStops_bad (h : VecAt s n r x k f) (hc : exec c s = .next (vecRun n row s)) (hop : f.op = row)
    (hz : vecStep (vecEnvOf s n r x) f x = .bad x) (hrow : row ≠ 0x1F := by decide) : VecStops c s n r k oBadInstr :=
  vecStops_of _ h hc (vecRow_eq hop hrow) hz rfl (by decide)

/-- An access outside the command's extents stops it (R106). -/
theorem vecStops_outside (h : VecAt s n r x k f) (hc : exec c s = .next (vecRun n row s)) (hop : f.op = row)
    (hz : vecStep (vecEnvOf s n r x) f x = .outside x) (hrow : row ≠ 0x1F := by decide) : VecStops c s n r k oOutOfExtent :=
  vecStops_of _ h hc (vecRow_eq hop hrow) hz rfl (by decide)

/-- Where the engine goes after an instruction that draws nothing, what it stored, and what stays as it was. -/
theorem vecRun_stores {z : VecResult} (h : VecAt s n r x k f) (hop : f.op = row) (hz : vecStep (vecEnvOf s n r x) f x = z)
    (hs : z.stop = none) (hrow : row ≠ 0x1F := by decide) (hdraw : ¬(0x51 ≤ row ∧ row ≤ 0x53) := by decide) :
    ∃ r', r' = { r with itemLog := r'.itemLog } ∧ VecGoes (vecRun n row s) n r' k z.regs ∧ Stored n z.stores s (vecRun n row s) ∧
      OnlyChanges [.stalls, .mem] s (vecRun n row s) ∧ OtherStalls n s (vecRun n row s) := by
  have e : vecRun n row s =
      (((s.applyStores n z.stores).stallAdd n .vecEmptyCount z.empties).stallAdd n .quantBadScale z.bads).setVec n
        (vecAfter { r with itemLog := r.itemLog ++ storeDigest (progOf r.desc).wrBase z.stores } k z.regs s.now) := by
    unfold vecRun
    simp only [h.engine, h.going, h.item, h.word, vecRow_eq hop hrow, hz, hs, hop, hdraw, if_false, ne_eq, not_true_eq_false, false_and]
  refine ⟨{ r with itemLog := r.itemLog ++ storeDigest (progOf r.desc).wrBase z.stores }, rfl, ?_, ⟨?_, fun a ha => ?_⟩,
    ⟨?_, fun p hp => ?_⟩, fun m hm => ?_⟩
  all_goals rw [e]
  · simp only [VecGoes, stall_setVec, vecAfter, ← Nat.not_lt, ite_not]
    split <;> rfl
  · rfl
  · exact memByte_foldl_outside _ _ _ ha
  · rfl
  · cases p with
    | stalls | mem => exact absurd (by decide) hp
    | _ => rfl
  · simp [State.setVec, State.modStall, State.stallAdd, State.applyStores, State.stall, hm.symm]

end

end Sys2Proof.Safety
end

/-! The loads, the stores and the control of the vector engine (R104, R106-R110). -/
section
namespace Sys2Proof.Safety
open Sys2Proof.Machine Sys2Proof.Laws

section
variable {e : VecEnv} {f : VecInstr} {x : VecRegs}

theorem vecMayRead_iff {d : ProgDesc} {a m : Nat} : vecMayRead d a m = true ↔ ∀ i, i < m → vecReadable d (a + i) = true := by
  simp [vecMayRead]

theorem rows_readable_iff {d : ProgDesc} : ((List.range 16).all fun j => vecMayRead d (vecRowAddr x f j) 64) = true ↔
    ∀ j i, j < 16 → i < 64 → vecReadable d (vecRowAddr x f j + i) = true := by
  simp only [List.all_eq_true, List.mem_range, vecMayRead_iff]
  exact ⟨fun h j i hj => h j hj i, fun h j hj i => h j i hj⟩

theorem rows_writable_iff {d : ProgDesc} : ((List.range 16).all fun j =>
      decide (d.wrBase ≤ vecRowAddr x f j) && decide (vecRowAddr x f j + 64 ≤ d.wrEnd)) = true ↔
    ∀ j, j < 16 → d.wrBase ≤ vecRowAddr x f j ∧ vecRowAddr x f j + 64 ≤ d.wrEnd := by
  simp

theorem setA_zero {a : Nat} (h : a % 8 = 0) (w : Word) : x.setA a w = x := if_pos h

theorem setA_areg {a : Nat} (h : a % 8 ≠ 0) (w : Word) :
    x.setA a (x.areg a + w) = { x with a := vset x.a (maskIx a) (vget x.a (maskIx a) + w) } := by
  simp only [VecRegs.setA, VecRegs.areg, if_neg h]

/-- LOOP where it fits its program and the loops around it. -/
theorem vecLoopStep_ok (hlen : x.pc + bitsOf f.imm 21 16 + 1 < e.desc.len) (hdeep : x.loops.length < 2)
    (hin : ∀ l ∈ x.loops, x.pc + bitsOf f.imm 21 16 + 1 ≤ l.last) : vecLoopStep e f x = .ok
      (if bitsOf f.imm 15 0 = 0 then { x with pc := x.pc + bitsOf f.imm 21 16 + 1 }
       else { x with loops := ⟨x.pc + 1, x.pc + bitsOf f.imm 21 16 + 1, bitsOf f.imm 15 0⟩ :: x.loops }) := by
  have hfit : ¬(e.desc.len ≤ x.pc + (bitsOf f.imm 21 16 + 1) ∨ 2 ≤ x.loops.length ∨
      (x.loops.any fun l => l.last < x.pc + (bitsOf f.imm 21 16 + 1)) = true) := by
    simpa [← Nat.add_assoc, hlen, hdeep] using hin
  exact (if_neg hfit).trans (apply_ite VecResult.ok _ _ _).symm

theorem vecLoopStep_bad (h : 2 ≤ x.loops.length ∨ e.desc.len ≤ x.pc + bitsOf f.imm 21 16 + 1) : vecLoopStep e f x = .bad x :=
  if_pos (h.elim (fun h => .inr (.inl h)) .inl)

end

/-- Settles O18: a load or store tests its extent row by row; an address register other than A0 takes the sum. -/
theorem vectorLoadsStoresAndControl : Obligations.VectorLoadsStoresAndControl := by
  intro s n r x k f h ht
  dsimp only
  have hld (hop : f.op = 0x00) : vecStep (vecEnvOf s n r x) f x = vecLdStep (vecEnvOf s n r x) f x :=
    vecStep_of_op (vecLdStep _ · x) (fun _ => rfl) hop ht
  have hst (hop : f.op = 0x01) : vecStep (vecEnvOf s n r x) f x = vecStStep (vecEnvOf s n r x) f x :=
    vecStep_of_op (vecStStep _ · x) (fun _ => rfl) hop ht
  have hldr (hop : f.op = 0x02) : vecStep (vecEnvOf s n r x) f x = vecLdrStep (vecEnvOf s n r x) f x :=
    vecStep_of_op (vecLdrStep _ · x) (fun _ => rfl) hop ht
  have hloop (hop : f.op = 0x08) : vecStep (vecEnvOf s n r x) f x = vecLoopStep (vecEnvOf s n r x) f x :=
    vecStep_of_op (vecLoopStep _ · x) (fun _ => rfl) hop ht
  have haddi (hop : f.op = 0x09) : vecStep (vecEnvOf s n r x) f x = vecAddiStep f x :=
    vecStep_of_op (vecAddiStep · x) (fun _ => rfl) hop ht
  have haddm (hop : f.op = 0x0A) : vecStep (vecEnvOf s n r x) f x = vecAddmStep f x :=
    vecStep_of_op (vecAddmStep · x) (fun _ => rfl) hop ht
  refine ⟨?_, ?_, ?_, ?_, ?_, ?_, ?_, ?_, ?_, ?_⟩
  · exact fun hop hin => vecDoes_put h rfl hop
      ((hld hop).trans (if_pos (rows_readable_iff.mpr hin))) fun _ _ => rfl
  · rintro hop ⟨j, i, hj, hi, hout⟩
    refine vecStops_outside h rfl hop ((hld hop).trans (if_neg fun hin => ?_))
    exact absurd ((rows_readable_iff.mp hin j i hj hi).symm.trans hout) (by decide)
  · intro hop hin
    obtain ⟨r', hr', hgoes, hstored, honly, hother⟩ :=
      vecRun_stores h hop ((hst hop).trans (if_pos (rows_writable_iff.mpr hin))) rfl
    exact ⟨_, r', rfl, hgoes, hr', hstored, honly, hother⟩
  · rintro hop ⟨j, hj, hout⟩
    exact vecStops_outside h rfl hop
      ((hst hop).trans (if_neg fun hin => hout (rows_writable_iff.mp hin j hj)))
  · exact fun hop hin => vecDoes_put h rfl hop
      ((hldr hop).trans (if_pos (vecMayRead_iff.mpr hin))) fun _ _ => rfl
  · rintro hop ⟨i, hi, hout⟩
    refine vecStops_outside h rfl hop ((hldr hop).trans (if_neg fun hin => ?_))
    exact absurd ((vecMayRead_iff.mp hin i hi).symm.trans hout) (by decide)
  · intro hop hlen hdeep hin
    refine vecDoes_ok h rfl hop ((hloop hop).trans (vecLoopStep_ok hlen hdeep hin)) ?_
    split <;> rfl
  · exact fun hop hbad => vecStops_bad h rfl hop ((hloop hop).trans (vecLoopStep_bad hbad))
  · exact fun hop => vecDoes_ok h rfl hop (haddi hop) ⟨fun h0 => setA_zero h0 _, fun h0 => setA_areg h0 _⟩
  · exact fun hop => vecDoes_ok h rfl hop (haddm hop) ⟨fun h0 => setA_zero h0 _, fun h0 => setA_areg h0 _⟩

end Sys2Proof.Safety
end

/-! The arithmetic of the vector engine (R111-R113, R127). -/
section
namespace Sys2Proof.Safety
open Sys2Proof.Machine Sys2Proof.Laws

/-! ### Elements -/

theorem fit32_min (w : Bool) (a b : Word) : fit32 w (min a.toInt b.toInt) = if a.toInt ≤ b.toInt then a else b := by
  rw [min_def, apply_ite (fit32 w), fit32_toInt, fit32_toInt]

theorem fit32_max (w : Bool) (a b : Word) : fit32 w (max a.toInt b.toInt) = if b.toInt ≤ a.toInt then a else b := by
  rw [max_comm, max_def, apply_ite (fit32 w), fit32_toInt, fit32_toInt]

theorem natAbs_eq_ite (v : Int) : (v.natAbs : Int) = if v < 0 then -v else v := by
  split <;> omega

theorem bitsOf_byte (v : Nat) : bitsOf v 7 0 = v % 256 := by simp [bitsOf]

theorem isRe_iff {i : Nat} : isRe i = true ↔ i % 2 = 0 := by simp [isRe]

theorem pairRe_of_even (t : Tile) {i : Nat} (h : i % 2 = 0) : pairRe t i = tget t i := by rw [pairRe, show i / 2 * 2 = i by omega]

theorem pairIm_of_odd (t : Tile) {i : Nat} (h : i % 2 ≠ 0) : pairIm t i = tget t i := by rw [pairIm, show i / 2 * 2 + 1 = i by omega]

/-! ### Operations by TYPE -/

section
variable {f : VecInstr} {x : VecRegs}

theorem vecArith_eq (ht : f.type < 4) (opI : Int → Int → Int) (opF : Word → Word → Word) (cI : Nat → Int) (cF : Nat → Word) :
    vecArith f x opI opF cI cF = .ok (x.put f fun i =>
      if f.type = 0 then fit32 f.wrap (opI (tget (x.tile f.va) i).toInt (tget (x.tile f.vb) i).toInt)
      else if f.type = 1 then flush x.flush (opF (tget (x.tile f.va) i) (tget (x.tile f.vb) i))
      else if f.type = 2 then fit32 f.wrap (cI i) else flush x.flush (cF i)) := by
  obtain h | h | h | h : f.type = 0 ∨ f.type = 1 ∨ f.type = 2 ∨ f.type = 3 := by omega
  all_goals simp [vecArith, h]

/-- An operation that takes the parts of a complex element one by one. -/
theorem vecArith_parts (ht : f.type < 4) (opI : Int → Int → Int) (opF : Word → Word → Word) :
    vecArith f x opI opF (fun i => opI (tget (x.tile f.va) i).toInt (tget (x.tile f.vb) i).toInt)
      (fun i => opF (tget (x.tile f.va) i) (tget (x.tile f.vb) i)) = .ok (x.put f fun i =>
        if f.type % 2 = 0 then fit32 f.wrap (opI (tget (x.tile f.va) i).toInt (tget (x.tile f.vb) i).toInt)
        else flush x.flush (opF (tget (x.tile f.va) i) (tget (x.tile f.vb) i))) := by
  obtain h | h | h | h : f.type = 0 ∨ f.type = 1 ∨ f.type = 2 ∨ f.type = 3 := by omega
  all_goals simp [vecArith, h]

theorem vecReal_eq (ht : f.type ≤ 1) (gI : Nat → Int) (gF : Nat → Word) : vecReal f x gI gF = .ok (x.put f fun i =>
    if f.type = 0 then fit32 f.wrap (gI i) else flush x.flush (gF i)) := by
  obtain h | h : f.type = 0 ∨ f.type = 1 := by omega
  all_goals simp [vecReal, h]

theorem vecReal_bad (ht : 2 ≤ f.type) (gI : Nat → Int) (gF : Nat → Word) : vecReal f x gI gF = .bad x := by
  unfold vecReal
  split
  · omega
  · omega
  · rfl

theorem vecCvtStep_eq (ht : f.type ≤ 1) : vecCvtStep f x = .ok (x.put f fun i =>
    if f.type = 0 then BitVec.ofInt 32 (fToInt (-2147483648) 2147483647 (tget (x.tile f.va) i))
    else intToF (tget (x.tile f.va) i).toInt) := by
  obtain h | h : f.type = 0 ∨ f.type = 1 := by omega
  all_goals simp [vecCvtStep, h]

theorem vecCvtStep_bad (ht : 2 ≤ f.type) : vecCvtStep f x = .bad x := by
  unfold vecCvtStep
  split
  · omega
  · omega
  · rfl

theorem vecConjStep_conj (hmag : bitOf f.imm 0 = false) (h2 : 2 ≤ f.type) (ht : f.type < 4) : vecConjStep f x = .ok (x.put f fun i =>
    if f.type = 2 then (if i % 2 = 0 then tget (x.tile f.va) i else fit32 f.wrap (-(tget (x.tile f.va) i).toInt))
    else flush x.flush (if i % 2 = 0 then (if (fv (tget (x.tile f.va) i)).isNan then fnan else tget (x.tile f.va) i)
      else fneg (tget (x.tile f.va) i))) := by
  obtain h | h : f.type = 2 ∨ f.type = 3 := by omega
  all_goals
    simp only [vecConjStep, h, hmag]
    refine congrArg (fun g => VecResult.ok (x.put f g)) (funext fun i => ?_)
    by_cases hi : i % 2 = 0
    · simp [isRe_iff, hi, pairRe_of_even]
    · simp [isRe_iff, hi, pairIm_of_odd]

theorem vecConjStep_mag2 (hmag : bitOf f.imm 0 = true) (h2 : 2 ≤ f.type) (ht : f.type < 4) : vecConjStep f x = .ok (x.put f fun i =>
    if f.type = 2 then fit32 f.wrap ((pairRe (x.tile f.va) i).toInt * (pairRe (x.tile f.va) i).toInt +
      (pairIm (x.tile f.va) i).toInt * (pairIm (x.tile f.va) i).toInt)
    else flush x.flush (fdot false (pairRe (x.tile f.va) i) (pairRe (x.tile f.va) i) (pairIm (x.tile f.va) i)
      (pairIm (x.tile f.va) i))) := by
  obtain h | h : f.type = 2 ∨ f.type = 3 := by omega
  all_goals simp [vecConjStep, h, hmag]

theorem vecConjStep_bad (ht : f.type ≤ 1) : vecConjStep f x = .bad x := by
  unfold vecConjStep
  split
  · omega
  · omega
  · rfl

end

/-- Settles O19: each operation writes the active elements of VD by TYPE; at a pair's own lane its part is the element itself. -/
theorem vectorArithmetic : Obligations.VectorArithmetic := by
  intro s n r x k f h ht
  dsimp only
  have hadd (hop : f.op = 0x10) := vecStep_of_op (e := vecEnvOf s n r x) (vecAddStep · x) (fun _ => rfl) hop ht
  have hsub (hop : f.op = 0x11) := vecStep_of_op (e := vecEnvOf s n r x) (vecSubStep · x) (fun _ => rfl) hop ht
  have hmul (hop : f.op = 0x12) := vecStep_of_op (e := vecEnvOf s n r x) (vecMulStep · x) (fun _ => rfl) hop ht
  have hfma (hop : f.op = 0x13) := vecStep_of_op (e := vecEnvOf s n r x) (vecFmaStep · x) (fun _ => rfl) hop ht
  have hmin (hop : f.op = 0x14) := vecStep_of_op (e := vecEnvOf s n r x) (vecMinStep · x) (fun _ => rfl) hop ht
  have hmax (hop : f.op = 0x15) := vecStep_of_op (e := vecEnvOf s n r x) (vecMaxStep · x) (fun _ => rfl) hop ht
  have habs (hop : f.op = 0x16) := vecStep_of_op (e := vecEnvOf s n r x) (vecAbsStep · x) (fun _ => rfl) hop ht
  have hneg (hop : f.op = 0x17) := vecStep_of_op (e := vecEnvOf s n r x) (vecNegStep · x) (fun _ => rfl) hop ht
  have hshl (hop : f.op = 0x18) := vecStep_of_op (e := vecEnvOf s n r x) (vecShlStep · x) (fun _ => rfl) hop ht
  have hshr (hop : f.op = 0x19) := vecStep_of_op (e := vecEnvOf s n r x) (vecShrStep · x) (fun _ => rfl) hop ht
  have hcvt (hop : f.op = 0x1E) := vecStep_of_op (e := vecEnvOf s n r x) (vecCvtStep · x) (fun _ => rfl) hop ht
  have hconj (hop : f.op = 0x1F) := vecStep_of_op (e := vecEnvOf s n r x) (vecConjStep · x) (fun _ => rfl) hop ht
  refine ⟨?_, ?_, ?_, ?_, ?_, ?_, ?_, ?_, ?_, ?_, ?_, ?_, ?_, ?_, ?_⟩
  · exact fun hop => vecDoes_put h rfl hop ((hadd hop).trans (vecArith_parts ht _ _)) fun _ _ => rfl
  · exact fun hop => vecDoes_put h rfl hop ((hsub hop).trans (vecArith_parts ht _ _)) fun _ _ => rfl
  · exact fun hop => vecDoes_put h rfl hop ((hmul hop).trans (vecArith_eq ht _ _ _ _)) fun i _ => by
      simp only [isRe_iff, apply_ite (fit32 f.wrap), apply_ite (flush x.flush), pairRe, pairIm]
  · exact fun hop h1 => vecDoes_put h rfl hop ((hfma hop).trans (vecReal_eq h1 _ _)) fun _ _ => rfl
  · exact fun hop h1 => vecDoes_put h rfl hop ((hmin hop).trans (vecReal_eq h1 _ _)) fun i _ => by
      rw [fit32_min]
  · exact fun hop h1 => vecDoes_put h rfl hop ((hmax hop).trans (vecReal_eq h1 _ _)) fun i _ => by
      rw [fit32_max]
  · exact fun hop h1 => vecDoes_put h rfl hop ((habs hop).trans (vecReal_eq h1 _ _)) fun i _ => by
      rw [natAbs_eq_ite]
  · exact fun hop h1 => vecDoes_put h rfl hop ((hneg hop).trans (vecReal_eq h1 _ _)) fun _ _ => rfl
  · exact fun hop h1 => vecDoes_put h rfl hop ((hshl hop).trans (if_pos h1)) fun i _ => by
      rw [bitsOf_byte, shlWord]
  · exact fun hop h1 => vecDoes_put h rfl hop ((hshr hop).trans (if_pos h1)) fun i _ => by
      rw [bitsOf_byte, shrWord]
  · exact fun hop h1 => vecDoes_put h rfl hop ((hcvt hop).trans (vecCvtStep_eq h1)) fun _ _ => rfl
  · exact fun hop hmag h2 => vecDoes_of _ h rfl (vecRow_conj hop hmag) ((hconj hop).trans (vecConjStep_conj hmag h2 ht)) rfl rfl
      (put_tileOnly f x _ _ fun _ _ => rfl)
  · exact fun hop hmag h2 => vecDoes_of _ h rfl (vecRow_mag2 hop hmag) ((hconj hop).trans (vecConjStep_mag2 hmag h2 ht)) rfl rfl
      (put_tileOnly f x _ _ fun _ _ => rfl)
  · intro p hp hop h2
    have hshift : ¬f.type ≤ 1 := by omega
    simp only [List.mem_cons, List.not_mem_nil, or_false] at hp
    obtain rfl | rfl | rfl | rfl | rfl | rfl | rfl | rfl := hp
    · exact vecStops_bad h rfl hop ((hfma hop).trans (vecReal_bad h2 _ _))
    · exact vecStops_bad h rfl hop ((hmin hop).trans (vecReal_bad h2 _ _))
    · exact vecStops_bad h rfl hop ((hmax hop).trans (vecReal_bad h2 _ _))
    · exact vecStops_bad h rfl hop ((habs hop).trans (vecReal_bad h2 _ _))
    · exact vecStops_bad h rfl hop ((hneg hop).trans (vecReal_bad h2 _ _))
    · exact vecStops_bad h rfl hop ((hshl hop).trans (if_neg hshift))
    · exact vecStops_bad h rfl hop ((hshr hop).trans (if_neg hshift))
    · exact vecStops_bad h rfl hop ((hcvt hop).trans (vecCvtStep_bad h2))
  · intro hop h1
    cases hmag : bitOf f.imm 0
    · exact vecStops_of _ h rfl (vecRow_conj hop hmag) ((hconj hop).trans (vecConjStep_bad h1)) rfl (by decide)
    · exact vecStops_of _ h rfl (vecRow_mag2 hop hmag) ((hconj hop).trans (vecConjStep_bad h1)) rfl (by decide)

end Sys2Proof.Safety
end

/-! The masks and the lanes of the vector engine: what their bits are (R103, R114-R116). -/
section
namespace Sys2Proof.Safety
open Sys2Proof.Machine Sys2Proof.Laws

/-! ### Numbers by their digits -/

theorem mod_pow_div_mod {v a b c : Nat} (h : a + c ≤ b) : v % 2 ^ b / 2 ^ a % 2 ^ c = v / 2 ^ a % 2 ^ c := by
  obtain ⟨d, rfl⟩ := Nat.exists_eq_add_of_le h
  rw [Nat.add_assoc, Nat.pow_add 2 a, Nat.mod_mul_right_div_self, Nat.pow_add, Nat.mod_mul_right_mod]

theorem foldr_eq_ofDigits (b : Nat) (g : Nat → Nat) (l : List Nat) :
    l.foldr (fun i v => g i + b * v) 0 = Nat.ofDigits b (l.map g) := by
  rw [Nat.ofDigits_eq_foldr, List.foldr_map]; rfl

/-- Digit i of a number given by its digits. -/
theorem foldr_digit {b m i : Nat} {g : Nat → Nat} (hg : ∀ l, l < m → g l < b) (hi : i < m) :
    (List.range m).foldr (fun l v => g l + b * v) 0 / b ^ i % b = g i := by
  have hb : 0 < b := Nat.zero_lt_of_lt (hg i hi)
  rw [foldr_eq_ofDigits, Nat.ofDigits_div_pow_eq_ofDigits_drop i hb _ (by simpa using hg),
    List.drop_eq_getElem_cons (by simpa using hi), Nat.ofDigits_cons]
  simp [Nat.mod_eq_of_lt (hg i hi)]

theorem foldr_lt_pow {b m : Nat} {g : Nat → Nat} (hb : 1 < b) (hg : ∀ l, l < m → g l < b) :
    (List.range m).foldr (fun l v => g l + b * v) 0 < b ^ m := by
  rw [foldr_eq_ofDigits]
  simpa using Nat.ofDigits_lt_base_pow_length (l := (List.range m).map g) hb (by simpa using hg)

/-- A number from its first m digits. -/
theorem foldr_digits (b v m : Nat) : (List.range m).foldr (fun l u => v / b ^ l % b + b * u) 0 = v % b ^ m := by
  rw [foldr_eq_ofDigits]
  induction m with
  | zero => simp [Nat.mod_one]
  | succ m ih =>
    rw [List.range_succ, List.map_append, Nat.ofDigits_append, ih, Nat.mod_pow_succ]
    simp

/-! ### Masks -/

theorem getLsbD_foldl_or (g : Nat → BitVec 256) (l : List Nat) (m : BitVec 256) (i : Nat) :
    (l.foldl (fun m j => m ||| g j) m).getLsbD i = (m.getLsbD i || l.any fun j => (g j).getLsbD i) := by
  induction l generalizing m with
  | nil => simp
  | cons j l ih => simp [ih, Bool.or_assoc]

theorem getLsbD_maskRows {p i : Nat} (hp : p < 2 ^ 16) (hi : i < 256) : (maskRows p).getLsbD i = p.testBit (i % 16) := by
  have hrow (j : Nat) : (BitVec.ofNat 256 p <<< (16 * j)).getLsbD i = (decide (16 * j ≤ i) && p.testBit (i - 16 * j)) := by
    simp only [BitVec.getLsbD_shiftLeft, BitVec.getLsbD_ofNat, hi, decide_true, Bool.true_and, show i - 16 * j < 256 by omega]
    by_cases hj : 16 * j ≤ i <;> simp [hj]
  have hzero : (0 : BitVec 256).getLsbD i = false := BitVec.getLsbD_zero
  rw [maskRows, getLsbD_foldl_or, hzero, Bool.false_or, Bool.eq_iff_iff]
  simp only [hrow, List.any_eq_true, List.mem_range, Bool.and_eq_true, decide_eq_true_eq]
  constructor
  · rintro ⟨j, -, hj, hbit⟩
    have : i - 16 * j < 16 := by
      by_contra hge
      rw [Nat.testBit_eq_false_of_lt (hp.trans_le (Nat.pow_le_pow_right (by decide) (Nat.not_lt.mp hge)))] at hbit
      exact Bool.false_ne_true hbit
    rwa [show i % 16 = i - 16 * j by omega]
  · exact fun hbit => ⟨i / 16, by omega, by omega, by rwa [show i - 16 * (i / 16) = i % 16 by omega]⟩

/-! ### Lanes -/

section
variable {g : FpFmt} (hg : g = fp16 ∨ g = bf16)
include hg

theorem pack_lt (neg : Bool) {mag : Nat} (h : mag ≤ g.inf) : g.pack neg mag < 2 ^ 16 := by
  obtain rfl | rfl := hg
  all_goals
    simp only [FpFmt.inf, fp16, bf16] at h
    simp only [FpFmt.pack, FpFmt.sign, fp16, bf16]
    split <;> omega

theorem ofDyadic_lt (zneg : Bool) (m e : Int) : g.ofDyadic zneg m e < 2 ^ 16 := by
  simp only [FpFmt.ofDyadic, FpFmt.round]
  split
  · exact pack_lt hg _ (Nat.zero_le _)
  · split
    · exact pack_lt hg _ (Nat.zero_le _)
    · exact pack_lt hg _ (Nat.min_le_right _ _)

theorem fNarrow_lt (a : Word) : fNarrow g a < 2 ^ 16 := by
  unfold fNarrow
  split
  · obtain rfl | rfl := hg <;> decide
  · exact pack_lt hg _ (Nat.le_refl _)
  · exact ofDyadic_lt hg _ _ _

end

theorem emod_two_pow_lt (v : Int) (w : Nat) : (v % ((2 ^ w : Nat) : Int)).toNat < 2 ^ w := by
  have hpos : (0 : Int) < (2 ^ w : Nat) := by exact_mod_cast Nat.two_pow_pos w
  have := Int.emod_lt_of_pos v hpos
  omega

/-- A converted lane fits the bits that it takes. -/
theorem packLane_lt {fmt w : Nat} (hw : laneBits fmt = some w) (float wrap : Bool) (v : Word) : packLane fmt w float wrap v < 2 ^ w := by
  simp only [packLane]
  split
  · rename_i hfp
    have hw16 : w = 16 := by
      obtain rfl | rfl := hfp
      all_goals exact (Option.some.inj hw).symm
    subst hw16
    have hg : (if fmt = fmtFp16 then fp16 else bf16) = fp16 ∨ (if fmt = fmtFp16 then fp16 else bf16) = bf16 := by
      split <;> simp
    split
    · exact fNarrow_lt hg v
    · exact ofDyadic_lt hg _ _ _
  · split
    · exact emod_two_pow_lt _ w
    · split
      · exact Nat.mod_lt _ (Nat.two_pow_pos w)
      · exact emod_two_pow_lt _ w

/-! ### Rows -/

/-- A row whose words are those of the number v. -/
theorem rowBits_eq_mod {t : Tile} {j v : Nat} (h : ∀ l, l < 16 → tget t (16 * j + l) = BitVec.ofNat 32 (v / 2 ^ (32 * l))) :
    rowBits t j = v % 2 ^ (32 * 16) := by
  have hword : rowBits t j = (List.range 16).foldr (fun l u => v / (2 ^ 32) ^ l % 2 ^ 32 + 2 ^ 32 * u) 0 :=
    List.foldr_ext _ _ _ fun l hl u => by rw [h l (List.mem_range.mp hl), BitVec.toNat_ofNat, Nat.pow_mul]
  rw [hword, foldr_digits, Nat.pow_mul]

/-- The field of q values at p holds what replaces it. -/
theorem replaced_field {v p q u : Nat} (hp : 0 < p) (hu : u < q) : (v - v / p % q * p + u * p) / p % q = u := by
  have hv : v = v % p + (v / p % q + q * (v / p / q)) * p := by
    rw [Nat.mod_add_div, Nat.mod_add_div']
  have hsub : v - v / p % q * p = v % p + q * (v / p / q) * p := by
    rw [Nat.add_mul] at hv
    omega
  rw [hsub, show v % p + q * (v / p / q) * p + u * p = v % p + (u + q * (v / p / q)) * p by ring,
    Nat.add_mul_div_right _ _ hp, Nat.div_eq_of_lt (Nat.mod_lt _ hp), Nat.zero_add, Nat.add_mul_mod_self_left, Nat.mod_eq_of_lt hu]

section
variable (f : VecInstr) (x : VecRegs) (w j : Nat)

/-- The sixteen lanes that PACK makes of row j of VA. -/
def packedLanes : Nat :=
  (List.range 16).foldr (fun l n => packLane (bitsOf f.imm 3 0) w (f.type == 1) f.wrap (tget (x.tile f.va) (16 * j + l)) + 2 ^ w * n) 0

/-- Row j of VD with those lanes at IMM[9:4]. -/
def packedRow : Nat :=
  let keep := rowBits (x.tile f.vd) j
  let sh := w * 16 * bitsOf f.imm 9 4
  keep - bitsOf keep (sh + 16 * w - 1) sh * 2 ^ sh + packedLanes f x w j * 2 ^ sh

end

section
variable {f : VecInstr} {x : VecRegs} {w : Nat}

theorem vecPackStep_eq (hw : laneBits (bitsOf f.imm 3 0) = some w) (hpos : bitsOf f.imm 9 4 < 32 / w) (ht : f.type ≤ 1) :
    vecPackStep f x = .ok (x.put f fun i =>
      BitVec.ofNat 32 (((List.range 16).map (packedRow f x w)).getD (i / 16) 0 / 2 ^ (32 * (i % 16)))) := by
  simp only [vecPackStep, hw, hpos, ht, and_self, if_true]
  rfl

theorem packedRow_lane {j l : Nat} (hw : laneBits (bitsOf f.imm 3 0) = some w) (hpos : bitsOf f.imm 9 4 < 32 / w) (hl : l < 16) :
    packedRow f x w j % 2 ^ (32 * 16) / 2 ^ (w * (16 * bitsOf f.imm 9 4 + l)) % 2 ^ w =
      packLane (bitsOf f.imm 3 0) w (f.type == 1) f.wrap (tget (x.tile f.va) (16 * j + l)) := by
  have hw0 : 0 < w := Nat.pos_of_ne_zero fun h => by simp [h] at hpos
  have hlane (l : Nat) (_ : l < 16) := packLane_lt hw (f.type == 1) f.wrap (tget (x.tile f.va) (16 * j + l))
  have hfit : w * (16 * bitsOf f.imm 9 4 + l) + w ≤ 32 * 16 := by
    have h32 : w * bitsOf f.imm 9 4 + w ≤ 32 := by
      rw [← Nat.mul_succ, Nat.mul_comm]
      exact (Nat.le_div_iff_mul_le hw0).mp hpos
    have hlast : w * l + w ≤ w * 16 := Nat.mul_le_mul_left w hl
    rw [Nat.mul_add, Nat.mul_left_comm]
    omega
  have hfield : packedRow f x w j / 2 ^ (w * 16 * bitsOf f.imm 9 4) % 2 ^ (16 * w) = packedLanes f x w j := by
    simp only [packedRow, bitsOf, show ∀ a, a + 16 * w - 1 + 1 - a = 16 * w by omega]
    exact replaced_field (Nat.two_pow_pos _)
      ((foldr_lt_pow (Nat.one_lt_two_pow hw0.ne') hlane).trans_eq (by rw [← Nat.pow_mul, Nat.mul_comm]))
  calc packedRow f x w j % 2 ^ (32 * 16) / 2 ^ (w * (16 * bitsOf f.imm 9 4 + l)) % 2 ^ w
      = packedRow f x w j / 2 ^ (w * 16 * bitsOf f.imm 9 4) / 2 ^ (w * l) % 2 ^ w := by
        rw [mod_pow_div_mod hfit, Nat.div_div_eq_div_mul, ← Nat.pow_add, Nat.mul_add, Nat.mul_assoc]
    _ = packedLanes f x w j / (2 ^ w) ^ l % 2 ^ w := by
        rw [← hfield, ← Nat.pow_mul, mod_pow_div_mod]
        exact Nat.mul_comm 16 w ▸ Nat.mul_le_mul_left w hl
    _ = _ := foldr_digit hlane hl

end

end Sys2Proof.Safety
end

/-! The bitwise operations, masks and moves of the vector engine (R103, R109, R114-R116). -/
section
namespace Sys2Proof.Safety
open Sys2Proof.Machine Sys2Proof.Laws

section
variable {f : VecInstr} {x : VecRegs}

theorem bitOf_eq_testBit (v i : Nat) : bitOf v i = v.testBit i := by
  rw [Nat.testBit_eq_decide_div_mod_eq]; rfl

theorem vecCmpStep_ok (ht : f.type ≤ 1) (hc : bitsOf f.imm 2 0 ≤ 5) :
    vecCmpStep f x = .ok (x.setMask f.vd (maskGen fun i => x.active f i &&
      (if f.type = 0 then vecCmpStep.cmpInt (bitsOf f.imm 2 0) (tget (x.tile f.va) i).toInt (tget (x.tile f.vb) i).toInt
       else fcmp (bitsOf f.imm 2 0) (tget (x.tile f.va) i) (tget (x.tile f.vb) i)))) :=
  if_pos ⟨hc, ht⟩

/-- A condition of R62 on the words themselves. -/
theorem cmpInt_toInt (c : Nat) (a b : Word) : vecCmpStep.cmpInt c a.toInt b.toInt = match c with
    | 0 => decide (a.toInt < b.toInt) | 1 => decide (a.toInt ≤ b.toInt) | 2 => decide (a = b) | 3 => decide (a ≠ b)
    | 4 => decide (b.toInt < a.toInt) | _ => decide (b.toInt ≤ a.toInt) := by
  match c with
  | 0 | 1 | 4 | _ + 5 => rfl
  | 2 => exact decide_eq_decide.mpr BitVec.toInt_inj
  | 3 => exact decide_eq_decide.mpr (not_congr BitVec.toInt_inj)

theorem getLsbD_andNot (a b : BitVec 256) {i : Nat} (hi : i < 256) : (a &&& ~~~b).getLsbD i = (a.getLsbD i && !b.getLsbD i) := by
  rw [BitVec.getLsbD_and, BitVec.getLsbD_not, decide_eq_true hi, Bool.true_and]

/-- MOP by the bits of its two masks (R103). -/
theorem vecMopStep_ok : ∃ m, vecMopStep f x = .ok (x.setMask f.vd m) ∧ ∀ i, i < 256 → m.getLsbD i = match bitsOf f.imm 1 0 with
    | 0 => (x.mask f.va).getLsbD i && (x.mask f.vb).getLsbD i
    | 1 => (x.mask f.va).getLsbD i || (x.mask f.vb).getLsbD i
    | 2 => (x.mask f.va).getLsbD i ^^ (x.mask f.vb).getLsbD i
    | _ => (x.mask f.va).getLsbD i && !(x.mask f.vb).getLsbD i := by
  refine ⟨_, rfl, fun i hi => ?_⟩
  match bitsOf f.imm 1 0 with
  | 0 => exact BitVec.getLsbD_and
  | 1 => exact BitVec.getLsbD_or
  | 2 => exact BitVec.getLsbD_xor
  | _ + 3 => exact getLsbD_andNot _ _ hi

theorem vecShufStep_ok (h : bitsOf f.imm 1 0 ≠ 3) : vecShufStep f x = .ok (x.put f fun i =>
    let g := fun j => match bitsOf f.imm 1 0 with
      | 0 => Nat.xor j (bitsOf f.imm 7 4) | 1 => (j + bitsOf f.imm 7 4) % 16 | _ => bitsOf f.imm 7 4
    if bitOf f.imm 2 then tget (x.tile f.va) (16 * g (i / 16) + i % 16) else tget (x.tile f.va) (16 * (i / 16) + g (i % 16))) :=
  if_neg h

theorem vecUnpackStep_ok {w : Nat} (hw : laneBits (bitsOf f.imm 3 0) = some w) (hpos : bitsOf f.imm 9 4 < 32 / w) (ht : f.type ≤ 1) :
    vecUnpackStep f x = .ok (x.put f fun i => unpackLane (bitsOf f.imm 3 0) w
      (rowBits (x.tile f.va) (i / 16) / 2 ^ (w * (16 * bitsOf f.imm 9 4 + i % 16)) % 2 ^ w)) := by
  simp only [vecUnpackStep, hw, hpos, ht, and_self, if_true]

/-- A format without lanes, a place past the last and a complex TYPE are undefined (R108, R116). -/
theorem packing_bad (h : 2 ≤ f.type ∨ laneBits (bitsOf f.imm 3 0) = none ∨
      ∃ w, laneBits (bitsOf f.imm 3 0) = some w ∧ 32 / w ≤ bitsOf f.imm 9 4) :
    vecPackStep f x = .bad x ∧ vecUnpackStep f x = .bad x := by
  simp only [vecPackStep, vecUnpackStep]
  cases hw : laneBits (bitsOf f.imm 3 0) with
  | none => exact ⟨rfl, rfl⟩
  | some w =>
    have hno : ¬(bitsOf f.imm 9 4 < 32 / w ∧ f.type ≤ 1) := by
      rintro ⟨hpos, ht⟩
      obtain h2 | hnone | ⟨v, hv, hpast⟩ := h
      · omega
      · exact absurd (hnone.symm.trans hw) (by simp)
      · obtain rfl : v = w := Option.some.inj (hv.symm.trans hw)
        omega
    exact ⟨if_neg hno, if_neg hno⟩

/-- With every element active PACK's lanes stand in each row of VD at their place. -/
theorem vecPackStep_lanes {w : Nat} (hw : laneBits (bitsOf f.imm 3 0) = some w) (hpos : bitsOf f.imm 9 4 < 32 / w) (ht : f.type ≤ 1) :
    ∃ t, vecPackStep f x = .ok (x.setTile f.vd t) ∧ ((∀ i, i < 256 → x.active f i = true) → ∀ j l, j < 16 → l < 16 →
      rowBits t j / 2 ^ (w * (16 * bitsOf f.imm 9 4 + l)) % 2 ^ w =
        packLane (bitsOf f.imm 3 0) w (f.type == 1) f.wrap (tget (x.tile f.va) (16 * j + l))) := by
  refine ⟨_, vecPackStep_eq hw hpos ht, fun hact j l hj hl => ?_⟩
  rw [rowBits_eq_mod fun l hl => ?_, packedRow_lane hw hpos hl]
  rw [tget_tgen _ (by omega), if_pos (hact _ (by omega))]
  dsimp only
  rw [show (16 * j + l) / 16 = j by omega, show (16 * j + l) % 16 = l by omega, getD_map_range _ _ hj]

end

/-- Settles O20: the moves are functions of the element's place; the masks are known by their bits, and a row that PACK writes by the
number that its words spell. -/
theorem vectorBitsMasksAndMoves : Obligations.VectorBitsMasksAndMoves := by
  intro s n r x k f h ht
  dsimp only
  have hpack (hop : f.op = 0x33) := vecStep_of_op (e := vecEnvOf s n r x) (vecPackStep · x) (fun _ => rfl) hop ht
  have hunpack (hop : f.op = 0x34) := vecStep_of_op (e := vecEnvOf s n r x) (vecUnpackStep · x) (fun _ => rfl) hop ht
  have hcmp (hop : f.op = 0x28) := vecStep_of_op (e := vecEnvOf s n r x) (vecCmpStep · x) (fun _ => rfl) hop ht
  refine ⟨?_, ?_, ?_, ?_, ?_, ?_, ?_, ?_, ?_, ?_, ?_, ?_, ?_, ?_, ?_, ?_⟩
  · exact fun hop => vecDoes_put h rfl hop
      (vecStep_of_op (vecBitwise · x (· &&& ·)) (fun _ => rfl) hop ht) fun _ _ => rfl
  · exact fun hop => vecDoes_put h rfl hop
      (vecStep_of_op (vecBitwise · x (· ||| ·)) (fun _ => rfl) hop ht) fun _ _ => rfl
  · exact fun hop => vecDoes_put h rfl hop
      (vecStep_of_op (vecBitwise · x (· ^^^ ·)) (fun _ => rfl) hop ht) fun _ _ => rfl
  · refine fun hop => vecDoes_ok h rfl hop (vecStep_of_op (vecSelStep · x) (fun _ => rfl) hop ht) ⟨setTile_eq _ _ _, fun i hi => ?_⟩
    rw [tile_setTile_same, tget_tgen _ hi]
  · refine fun hop h1 hc => vecDoes_setMask h rfl hop ((hcmp hop).trans (vecCmpStep_ok h1 hc)) fun i hi => ?_
    rw [getLsbD_maskGen _ hi, cmpInt_toInt]
    obtain h0 | h0 : f.type = 0 ∨ f.type = 1 := by omega
    · exact congrArg (x.active f i && ·) ((if_pos h0).trans (if_neg (by omega)).symm)
    · exact congrArg (x.active f i && ·) ((if_neg (by omega)).trans (if_pos h0).symm)
  · exact fun hop hbad => vecStops_bad h rfl hop ((hcmp hop).trans (if_neg (by omega)))
  · intro hop
    obtain ⟨m, hz, hbits⟩ := vecMopStep_ok (f := f) (x := x)
    exact vecDoes_setMask h rfl hop ((vecStep_of_op (vecMopStep · x) (fun _ => rfl) hop ht).trans hz) hbits
  · refine fun hop => vecDoes_setMask h rfl hop
      (vecStep_of_op (vecMsetStep · x) (fun _ => rfl) hop ht) fun i hi => ?_
    have hlt : bitsOf f.imm 15 0 < 2 ^ 16 := Nat.mod_lt _ (by decide)
    rw [getLsbD_maskRows hlt hi, bitOf_eq_testBit]
  · refine fun hop => vecDoes_setMask h rfl hop
      (vecStep_of_op (vecMlenStep · x) (fun _ => rfl) hop ht) fun i hi => ?_
    have hlt : 2 ^ min (bitsOf f.imm 4 0) 16 ≤ 2 ^ 16 := Nat.pow_le_pow_right (by decide) (Nat.min_le_right _ _)
    rw [getLsbD_maskRows (by omega) hi, Nat.testBit_two_pow_sub_one]
  · exact fun hop h3 => vecDoes_put h rfl hop
      ((vecStep_of_op (vecShufStep · x) (fun _ => rfl) hop ht).trans (vecShufStep_ok h3)) fun _ _ => rfl
  · exact fun hop => vecDoes_put h rfl hop (vecStep_of_op (vecPermStep · x) (fun _ => rfl) hop ht) fun _ _ => rfl
  · exact fun hop => vecDoes_put h rfl hop (vecStep_of_op (vecTransStep · x) (fun _ => rfl) hop ht) fun _ _ => rfl
  · exact fun hop => vecDoes_put h rfl hop (vecStep_of_op (vecMovStep · x) (fun _ => rfl) hop ht) fun _ _ => rfl
  · exact fun w hop h1 hw hpos => vecDoes_put h rfl hop
      ((hunpack hop).trans (vecUnpackStep_ok hw hpos h1)) fun _ _ => rfl
  · intro w hop h1 hw hpos
    obtain ⟨t, hz, hlanes⟩ := vecPackStep_lanes hw hpos h1
    exact vecDoes_ok h rfl hop ((hpack hop).trans hz) ⟨setTile_eq _ _ _, by rw [tile_setTile_same]; exact hlanes⟩
  · intro p hp hop hbad
    obtain ⟨hpackbad, hunpackbad⟩ := packing_bad (x := x) hbad
    simp only [List.mem_cons, List.not_mem_nil, or_false] at hp
    obtain rfl | rfl := hp
    · exact vecStops_bad h rfl hop ((hpack hop).trans hpackbad)
    · exact vecStops_bad h rfl hop ((hunpack hop).trans hunpackbad)

end Sys2Proof.Safety
end

/-! The sequencer's instructions as commands: from what an operation gives to what the command does (R141, R143, R147, R148). -/
section
namespace Sys2Proof.Safety
open Sys2Proof.Machine Sys2Proof.Laws

section
variable {s : State} {n : StallId} {r : Running} {x : SeqRegs} {k c : Nat} {u : Word} {w : Option Word} {i : Instr}
  {op : Mem → ProgDesc → SeqRegs → SeqResult}

/-- An instruction that runs does what its operation gives. -/
theorem seqDoes_ran {y : SeqRegs} {late : List SeqLate} {stores : List (Nat × List Byte)} {sat : Bool} (h : SeqAt s n r x k c u)
    (hi : exec i s = .next (seqRun n c w op s)) (hz : op (stallView s.mem n) (progOf r.desc) x = ⟨y, late, stores, sat, none⟩)
    (hw : w.any (fun t => t != u) = false := by rfl) : SeqDoes i s n r y late stores sat :=
  seqDoes_of _ h hi hw hz rfl

/-- An undefined instruction stops the command (R143). -/
theorem seqStops_bad (h : SeqAt s n r x k c u) (hi : exec i s = .next (seqRun n c w op s))
    (hz : op (stallView s.mem n) (progOf r.desc) x = .bad x) (hw : w.any (fun t => t != u) = false := by rfl) :
    SeqStops i s n r k oBadInstr :=
  seqStops_of _ h hi hw hz rfl (by decide)

/-- An access outside the command's extents stops it (R147). -/
theorem seqStops_outside (h : SeqAt s n r x k c u) (hi : exec i s = .next (seqRun n c w op s))
    (hz : op (stallView s.mem n) (progOf r.desc) x = .outside x) (hw : w.any (fun t => t != u) = false := by rfl) :
    SeqStops i s n r k oOutOfExtent :=
  seqStops_of _ h hi hw hz rfl (by decide)

end

end Sys2Proof.Safety
end

/-! The control of the sequencer, and its interrupt (R141-R143, R147-R150). -/
section
namespace Sys2Proof.Safety
open Sys2Proof.Machine Sys2Proof.Laws

/-! ### Branches and loops -/

theorem noBranchHere_eq_true {x : SeqRegs} (h : x.branch ≠ none ∨ x.atLoopEnd = true) : x.noBranchHere = true := by
  simpa [SeqRegs.noBranchHere, Option.isSome_iff_ne_none] using h

theorem noBranchHere_free {x : SeqRegs} (hb : x.branch = none) (hl : x.atLoopEnd = false) : ¬x.noBranchHere = true := by
  simp [SeqRegs.noBranchHere, hb, hl]

/-- The registers as a loop over the next b instructions leaves them. -/
def enterLoop (x : SeqRegs) (b q : Nat) : SeqRegs :=
  if q = 0 then { x with pc := x.pc + b } else
    { x with ls := vset x.ls (ix2 x.depth) (BitVec.ofNat 16 (x.pc + 1)), le := vset x.le (ix2 x.depth) (BitVec.ofNat 16 (x.pc + b)),
             lc := vset x.lc (ix2 x.depth) (BitVec.ofNat 16 q), lstat := BitVec.ofNat 16 (x.depth + 1), shadow := 3,
             cache := x.openCache (x.pc + 1) (x.pc + b) }

theorem seqLoopOp_ok {x : SeqRegs} {b : Nat} (h : ¬x.noBranchHere = true) (hd : x.depth < 2) (h1 : 1 ≤ b) (hb : b ≤ 256) (q : Nat) :
    seqLoopOp b q x = .ok (enterLoop x b q) := by
  have hfit : ¬(x.noBranchHere = true ∨ 2 ≤ x.depth ∨ b = 0 ∨ 256 < b) := by simp [h]; omega
  exact (if_neg hfit).trans (apply_ite SeqResult.ok _ _ _).symm

/-! ### HALT -/

section
variable {s : State} {n : StallId} {r : Running} {x : SeqRegs} {k : Nat} {w : Word}

/-- HALT 1 ends the command as YIELDED, with the instructions in flight complete. -/
theorem seqHalt_yields (h : SeqAt s n r x k 1 w) :
    ∃ y, seqHaltEffect n true s = s.setSeq n (.running { r with outcome := some oYielded } y) := by
  obtain ⟨x0, held, hx, hcode, -⟩ := h.engine
  exact ⟨_, by simp only [seqHaltEffect, hx, h.going, h.item, hcode]; rfl⟩

/-- HALT 0 ends the item as DONE. -/
theorem seqHalt_ends (h : SeqAt s n r x k 1 w) :
    ∃ y, seqHaltEffect n false s = s.setSeq n (.running ((r.endItem k oDone).nextItem s.now) y) := by
  obtain ⟨x0, held, hx, hcode, -⟩ := h.engine
  exact ⟨_, by simp only [seqHaltEffect, hx, h.going, h.item, hcode]; rfl⟩

end

theorem setSeq_engine (s : State) (n : StallId) (v : SeqEngine) : ((s.setSeq n v).stall n).seq = v := by rw [stall_setSeq]

theorem setSeq_frame (s : State) (n : StallId) (v : SeqEngine) :
    OnlyChanges [.stalls] s (s.setSeq n v) ∧ OtherStalls n s (s.setSeq n v) :=
  ⟨modStall_only s n _, fun _ hm => stall_modStall_ne s _ hm.symm⟩

/-! ### The interrupt -/

theorem writeIrq_eq (x : Stall) (v : Word) : x.writeIrq v = { x with
    irqPending := x.irqPending || (wbit v 0 && (x.running .sequencer).isSome)
    irqTaken := x.irqTaken && !wbit v 2 } := by
  simp only [Stall.writeIrq, Stall.running]
  cases x.seq <;> rfl

/-- A pending request at an instruction boundary outside the shadow is taken, with IRQ_EN and IE set (R149). -/
theorem seqIrqTakenEffect_takes {s : State} {n : StallId} {r : Running} {x : SeqRegs} (hx : (s.stall n).seq = .running r x)
    (hgo : r.outcome = none) (hitem : r.item ≠ none) (hpend : (s.stall n).irqPending = true) (hen : (progOf r.desc).irqEn = true)
    (hie : x.sqst.getLsbD 4 = true) (hbranch : x.branch = none) (hshadow : x.shadow = 0) :
    seqIrqTakenEffect n s = (s.setSeq n (.running r (x.interrupt (progOf r.desc).irqVec))).modStall n fun y =>
      { y with irqPending := false, irqTaken := true } := by
  have hmay : x.mayInterrupt = true := by simp [SeqRegs.mayInterrupt, hbranch, hshadow]
  have hready : r.outcome.isNone ∧ r.item.isSome ∧ (s.stall n).irqPending ∧ (progOf r.desc).irqEn ∧ x.sqst.getLsbD 4 = true ∧
      x.mayInterrupt = true :=
    ⟨by simp [hgo], Option.isSome_iff_ne_none.mpr hitem, hpend, hen, hie, hmay⟩
  simp only [seqIrqTakenEffect, hx, if_pos hready]

/-- Inside the interrupt's program no other is taken until EI: IE is 0. -/
theorem interrupt_ie (x : SeqRegs) (vec : Nat) : (x.interrupt vec).sqst.getLsbD 4 = false := by simp [SeqRegs.interrupt]

/-- Settles O22: a branch is one test, then a jump; a loop is one write of its registers; HALT and the interrupt are one update of
the engine. -/
theorem sequencerControlAndInterrupt : Obligations.SequencerControlAndInterrupt := by
  refine ⟨fun s n r x k c w h => ⟨?_, ?_, ?_, ?_, ?_, ?_, ?_, ?_, ?_, ?_, ?_⟩, ?_, ?_⟩
  · rintro rfl
    exact seqDoes_ran h rfl rfl
  · rintro rfl
    exact seqDoes_ran h rfl rfl
  · rintro rfl
    exact seqDoes_ran h rfl rfl
  · rintro t hb hl rfl
    exact seqDoes_ran h rfl (if_neg (noBranchHere_free hb hl))
  · intro i t hb hl hix
    constructor
    all_goals
      rintro rfl
      exact seqDoes_ran h rfl ((if_neg (noBranchHere_free hb hl)).trans (if_pos hix))
  · intro i t hb hl hix
    constructor
    all_goals
      rintro rfl
      exact seqDoes_ran h rfl ((if_neg (noBranchHere_free hb hl)).trans (if_neg hix))
  · rintro hb hl rfl
    exact seqDoes_ran h rfl (if_neg (noBranchHere_free hb hl))
  · intro b m i hb hl hd h1 h256
    have hfree := noBranchHere_free hb hl
    refine ⟨?_, ?_⟩
    · rintro rfl
      exact seqDoes_ran h rfl (seqLoopOp_ok hfree hd h1 h256 m)
    · rintro rfl
      exact seqDoes_ran h rfl (seqLoopOp_ok hfree hd h1 h256 _)
  · intro t i b m hbusy j hj hc
    have hbad := noBranchHere_eq_true hbusy
    simp only [List.mem_cons, List.not_mem_nil, or_false] at hj
    obtain rfl | rfl | rfl | rfl | rfl | rfl := hj
    all_goals subst hc
    · exact seqStops_bad h rfl (if_pos hbad)
    · exact seqStops_bad h rfl (if_pos hbad)
    · exact seqStops_bad h rfl (if_pos hbad)
    · exact seqStops_bad h rfl (if_pos hbad)
    · exact seqStops_bad h rfl (if_pos (.inl hbad))
    · exact seqStops_bad h rfl (if_pos (.inl hbad))
  · rintro rfl
    obtain ⟨y, he⟩ := seqHalt_yields h
    obtain ⟨honly, hother⟩ := setSeq_frame s n (.running { r with outcome := some oYielded } y)
    exact ⟨_, _, y, exec_next rfl he, setSeq_engine s n _, rfl, rfl, rfl, rfl, honly, hother⟩
  · rintro rfl
    obtain ⟨y, he⟩ := seqHalt_ends h
    obtain ⟨honly, hother⟩ := setSeq_frame s n (.running ((r.endItem k oDone).nextItem s.now) y)
    exact ⟨_, _, y, exec_next rfl he, setSeq_engine s n _, h.going, rfl, rfl, honly, hother⟩
  · intro w v s
    refine ⟨_, rfl, overWindow_only s w _ fun s n => modStall_only s n _, fun n => ?_⟩
    rw [stall_overWindow_modStall, writeIrq_eq]
  · intro n r x s hx hgo hitem hpend hen hie hbr hsh
    have he := seqIrqTakenEffect_takes hx hgo hitem hpend hen hie hbr hsh
    obtain ⟨honly, hother⟩ := setSeq_frame s n (.running r (x.interrupt (progOf r.desc).irqVec))
    refine ⟨_, x.interrupt (progOf r.desc).irqVec, exec_next rfl he, ?_, ?_, ?_, rfl, rfl, rfl, interrupt_ie x _, rfl, rfl, rfl,
      onlyChanges_trans honly (modStall_only _ n _), fun m hm => (stall_modStall_ne _ _ hm.symm).trans (hother m hm)⟩
    · rw [stall_modStall_same, stall_setSeq]
    · rw [stall_modStall_same]
    · rw [stall_modStall_same]

end Sys2Proof.Safety
end

/-! The moves, loads and stores of the sequencer (R137, R139, R140, R143, R147). -/
section
namespace Sys2Proof.Safety
open Sys2Proof.Machine Sys2Proof.Laws

/-! ### Moves -/

theorem clampInt_ne_iff {lo hi v : Int} : clampInt lo hi v ≠ v ↔ v < lo ∨ hi < v := by
  unfold clampInt
  split
  · omega
  · split <;> omega

/-- An accumulator as a move reads it: saturated to int24, and counted where it did not fit (R139). -/
theorem src_acc (x : SeqRegs) (a : Fin 4) : x.src (.acc a) =
    (clampInt (-8388608) 8388607 (x.accv a), decide (x.accv a < -8388608 ∨ 8388607 < x.accv a)) :=
  Prod.ext rfl (decide_eq_decide.mpr clampInt_ne_iff)

/-- A write to a loop, status or circular register opens the shadow of R149. -/
def openShadow (d : Fin 31) (x : SeqRegs) : SeqRegs := if 8 ≤ d.val ∧ d.val < 24 then { x with shadow := 3 } else x

/-- A register takes a value and shows it at its distance (Table 05-2). -/
theorem seqInto_reg (x : SeqRegs) (d : Fin 31) (v : Int) (load : Bool) : seqInto x (.reg d) v load =
    ⟨openShadow d x, [lateReg d v (seqDistance d load)], [], false, none⟩ := by
  have hshadow : (seqShadowReg d = true) = (8 ≤ d.val ∧ d.val < 24) := by simp [seqShadowReg]
  simp only [seqInto, hshadow, openShadow]
  rfl

theorem seqMvOp_reg_reg (x : SeqRegs) (d g : Fin 31) : seqMvOp (.reg d) (.reg g) x =
    ⟨openShadow d x, [lateReg d (x.reg g) (seqDistance d false)], [], false, none⟩ := by
  simp only [seqMvOp, seqInto_reg]; rfl

theorem seqMvOp_reg_acc (x : SeqRegs) (d : Fin 31) (a : Fin 4) : seqMvOp (.reg d) (.acc a) x =
    ⟨openShadow d x, [lateReg d (clampInt (-8388608) 8388607 (x.accv a)) (seqDistance d false)], [],
      decide (x.accv a < -8388608 ∨ 8388607 < x.accv a), none⟩ := by
  simp only [seqMvOp, seqInto_reg, src_acc]

theorem seqMvOp_acc_acc (x : SeqRegs) (d a : Fin 4) : seqMvOp (.acc d) (.acc a) x =
    ⟨x, [lateAcc d (clampInt (-8388608) 8388607 (x.accv a))], [], decide (x.accv a < -8388608 ∨ 8388607 < x.accv a), none⟩ := by
  simp only [seqMvOp, src_acc]; rfl

/-! ### Loads and stores of a pair -/

section
variable {m : Mem} {p : ProgDesc} {f : SeqFmt} {ad : SeqAddr} {x : SeqRegs} {r0 r1 : Fin 31} {v0 v1 : BitVec 24}

theorem fmtListed_of (hf : f = .int24 ∨ f = .ci16) : ¬fmtListed f = false := by
  rcases hf with rfl | rfl <;> decide

theorem seqLoadPair_ok (hf : f = .int24 ∨ f = .ci16) (h : seqMayLoad p (x.addr ad).1 (fmtWords f) = true) :
    seqLoadPair m p f ad r0 r1 x = ⟨x, (x.addr ad).2 ++ [lateReg r0 (seqPair m f (x.addr ad).1).1.toInt 2,
      lateReg r1 (seqPair m f (x.addr ad).1).2.toInt 2], [], false, none⟩ :=
  (if_neg (fmtListed_of hf)).trans (if_pos h)

theorem seqLoadPair_outside (hf : f = .int24 ∨ f = .ci16) (h : seqMayLoad p (x.addr ad).1 (fmtWords f) = false) :
    seqLoadPair m p f ad r0 r1 x = .outside x :=
  (if_neg (fmtListed_of hf)).trans (if_neg (h ▸ nofun))

theorem seqLoadPair_reserved (b : Fin 8) : seqLoadPair m p (.reserved b) ad r0 r1 x = .bad x := rfl

theorem seqStorePair_ok (hf : f = .int24 ∨ f = .ci16) (h : seqMayStore p (x.addr ad).1 (fmtWords f) = true) :
    seqStorePair p f ad v0 v1 x = ⟨x, (x.addr ad).2, [(seqByte (x.addr ad).1, (seqPairBytes f v0 v1).1)], (seqPairBytes f v0 v1).2, none⟩ :=
  (if_neg (fmtListed_of hf)).trans (if_pos h)

theorem seqStorePair_outside (hf : f = .int24 ∨ f = .ci16) (h : seqMayStore p (x.addr ad).1 (fmtWords f) = false) :
    seqStorePair p f ad v0 v1 x = .outside x :=
  (if_neg (fmtListed_of hf)).trans (if_neg (h ▸ nofun))

theorem seqStorePair_reserved (b : Fin 8) : seqStorePair p (.reserved b) ad v0 v1 x = .bad x := rfl

/-! ### Loads and stores of a word -/

theorem seqLdwOp_ok (d : Fin 31) (h : seqMayLoad p (x.addr ad).1 1 = true) : seqLdwOp m p d ad x =
    ⟨openShadow d x, (x.addr ad).2 ++ [lateReg d (seqWord m (x.addr ad).1).toInt (seqDistance d true)], [], false, none⟩ := by
  simp only [seqLdwOp, seqInto_reg, if_pos h]

end

/-- Settles O23: a move is seen at its register's distance; a load or store of a defined format tests its extent once. -/
theorem sequencerMovesLoadsAndStores : Obligations.SequencerMovesLoadsAndStores := by
  intro s n r x k c w h
  dsimp only
  refine ⟨?_, ?_, ?_, ?_, ?_, ?_, ?_, ?_, ?_, ?_, ?_, ?_, ?_, ?_, ?_, ?_, ?_⟩
  · rintro rfl d v
    exact seqDoes_ran h rfl (seqInto_reg x d _ _)
  · rintro rfl a v
    exact seqDoes_ran h rfl rfl
  · rintro rfl d g
    exact seqDoes_ran h rfl (seqMvOp_reg_reg x d g)
  · rintro rfl a g
    exact seqDoes_ran h rfl rfl
  · rintro rfl d a
    exact seqDoes_ran h rfl (seqMvOp_reg_acc x d a)
  · rintro rfl d a
    exact seqDoes_ran h rfl (seqMvOp_acc_acc x d a)
  · rintro f ad rfl hf hin
    exact seqDoes_ran h rfl (seqLoadPair_ok hf hin)
  · rintro f ad rfl hf hin
    exact seqDoes_ran h rfl (seqLoadPair_ok hf hin)
  · rintro f ad rfl hf hin
    exact seqDoes_ran h rfl (seqStorePair_ok hf hin)
  · rintro f ad rfl hf hin
    exact seqDoes_ran h rfl (seqStorePair_ok hf hin)
  · rintro d ad rfl hin
    exact seqDoes_ran h rfl (seqLdwOp_ok d hin)
  · rintro d ad rfl hin
    exact seqDoes_ran h rfl (if_pos hin)
  · rintro inc rfl hin
    exact seqDoes_ran h rfl (if_pos hin)
  · rintro i v rfl
    exact seqDoes_ran h rfl rfl
  · intro f d ad
    refine ⟨?_, ?_, fun hf hout => ⟨?_, ?_⟩⟩
    · rintro rfl hout
      exact seqStops_outside h rfl (if_neg (hout ▸ nofun))
    · rintro rfl inc hout
      exact seqStops_outside h rfl (if_neg (hout ▸ nofun))
    · rintro rfl
      exact seqStops_outside h rfl (seqLoadPair_outside hf hout)
    · rintro rfl
      exact seqStops_outside h rfl (seqLoadPair_outside hf hout)
  · intro f d ad
    refine ⟨?_, fun hf hout => ⟨?_, ?_⟩⟩
    · rintro rfl hout
      exact seqStops_outside h rfl (if_neg (hout ▸ nofun))
    · rintro rfl
      exact seqStops_outside h rfl (seqStorePair_outside hf hout)
    · rintro rfl
      exact seqStops_outside h rfl (seqStorePair_outside hf hout)
  · intro b ad j hj hc
    simp only [List.mem_cons, List.not_mem_nil, or_false] at hj
    obtain rfl | rfl | rfl | rfl := hj
    all_goals subst hc
    · exact seqStops_bad h rfl (seqLoadPair_reserved b)
    · exact seqStops_bad h rfl (seqStorePair_reserved b)
    · exact seqStops_bad h rfl (seqLoadPair_reserved b)
    · exact seqStops_bad h rfl (seqStorePair_reserved b)

end Sys2Proof.Safety
end

/-! The multiply words of the sequencer (R138, R141, R144, Table 05-4). -/
section
namespace Sys2Proof.Safety
open Sys2Proof.Machine Sys2Proof.Laws

/-! ### Sums of products -/

/-- A sum saturated to the 56 bits of an accumulator (R138). -/
def clamp56 (v : Int) : Int :=
  if v < -36028797018963968 then -36028797018963968 else if 36028797018963967 < v then 36028797018963967 else v

/-- What OP 0, 1 and 2 make of an accumulator and a product: the sum, the difference, the product (Table 05-4). -/
def mulSum (op : Nat) (a v : Int) : Int := if op = 0 then a + v else if op = 1 then a - v else v

theorem sat56_eq (v : Int) : sat56 v = (BitVec.ofInt 56 (clamp56 v), decide (clamp56 v ≠ v)) := by
  have hclamp : clampInt (-(2 ^ 55)) (2 ^ 55 - 1) v = clamp56 v := by norm_num [clampInt, clamp56]
  rw [sat56, hclamp]

theorem mulAcc_eq (op : Nat) (a : BitVec 56) (v : Int) : mulAcc op a v =
    (BitVec.ofInt 56 (clamp56 (mulSum op a.toInt v)), decide (clamp56 (mulSum op a.toInt v) ≠ mulSum op a.toInt v)) := by
  rw [← sat56_eq]
  match op with
  | 0 | 1 | _ + 2 => rfl

/-- A saturated sum fits its accumulator. -/
theorem toInt_ofInt_clamp56 (v : Int) : (BitVec.ofInt 56 (clamp56 v)).toInt = clamp56 v := by
  have hlo : -36028797018963968 ≤ clamp56 v := by unfold clamp56; split <;> [skip; split] <;> omega
  have hhi : clamp56 v ≤ 36028797018963967 := by unfold clamp56; split <;> [skip; split] <;> omega
  rw [BitVec.toInt_ofInt]
  exact Int.bmod_eq_of_le (by norm_num; exact hlo) (by norm_num; omega)

/-- The two product sums by class: 4h multiplies each sample by its tap or by C, 5h the complex sample by the tap or its conjugate. -/
theorem products_eq (x : SeqRegs) (u : SeqMul) : x.products u =
    (if u.cls = 4 then (vget x.s 0).toInt * (if u.useC then x.c.toInt else (vget x.t 0).toInt)
      else if u.conj then (vget x.s 0).toInt * (vget x.t 0).toInt + (vget x.s 1).toInt * (vget x.t 1).toInt
      else (vget x.s 0).toInt * (vget x.t 0).toInt - (vget x.s 1).toInt * (vget x.t 1).toInt,
     if u.cls = 4 then (vget x.s 1).toInt * (if u.useC then x.c.toInt else (vget x.t 1).toInt)
      else if u.conj then (vget x.s 1).toInt * (vget x.t 0).toInt - (vget x.s 0).toInt * (vget x.t 1).toInt
      else (vget x.s 0).toInt * (vget x.t 1).toInt + (vget x.s 1).toInt * (vget x.t 0).toInt) := by
  unfold SeqRegs.products
  split
  · rfl
  · split <;> rfl

/-! ### Multiply words -/

theorem mul_defined {u : SeqMul} (hlow : u.low = 0) (hop : u.op < 3) (hs : u.sld < 3) (ht : u.tld < 3) (h4 : u.cls = 4 → u.conj = false)
    (h5 : u.cls = 5 → u.useC = false) (hcls : u.cls = 4 ∨ u.cls = 5) : u.defined = true := by
  have hop3 : u.op ≠ 3 := by omega
  have hs3 : u.sld ≠ 3 := by omega
  have ht3 : u.tld ≠ 3 := by omega
  rcases hcls with hc | hc
  · simp [SeqMul.defined, hc, hlow, hop3, hs3, ht3, h4 hc]
  · simp [SeqMul.defined, hc, hlow, hop3, hs3, ht3, h5 hc]

/-- Each of the six multiply rows runs the word under its class and OP. -/
theorem exec_mul (s : State) (n : StallId) (w : Word) {cls op : Nat} (hcls : cls = 4 ∨ cls = 5) (hop : op < 3) :
    exec (if cls = 4 then (if op = 0 then Instr.seqMac2 n w else if op = 1 then .seqMsu2 n w else .seqMpy2 n w)
      else (if op = 0 then Instr.seqCmac n w else if op = 1 then .seqCmsu n w else .seqCmpy n w)) s =
    .next (seqRun n (16 * cls + op) (some w) (fun v p x => seqMulOp v p w x) s) := by
  rcases hcls with rfl | rfl <;> interval_cases op <;> rfl

/-- The second parallel load is refused where it is a load of T or of C and its own extent test fails. -/
theorem tapLoad_refused_iff {tld a : Nat} (ht : tld < 3) (P : Nat → Bool) :
    (tld ≠ 0 ∧ P (if tld = 1 then a else 1) = false) ↔ (tld = 1 ∧ P a = false) ∨ (tld = 2 ∧ P 1 = false) := by
  interval_cases tld <;> simp

/-- Settles O25: a defined word passes its checks once for both parallel loads; each sum is saturated once. -/
theorem sequencerMultiplies : Obligations.SequencerMultiplies := by
  rintro s n r x k w u rfl h hlow hop hs ht h4 h5
  dsimp only
  intro hcls
  have hdef : ¬(!(seqMulOf w).defined) = true := by simp [mul_defined hlow hop hs ht h4 h5 hcls]
  have hw : (some w).any (fun t => t != w) = false := by simp
  have htap := tapLoad_refused_iff (a := fmtWords (if (seqMulOf w).ci16 then SeqFmt.ci16 else SeqFmt.int24)) ht
    (seqMayLoad (progOf r.desc) (vget x.ix (if (seqMulOf w).tld = 1 then 2 else 3)).toNat)
  constructor
  · rintro ⟨hsl, htl, htc⟩
    refine seqDoes_ran h (exec_mul s n w hcls hop) ((if_neg hdef).trans ((if_neg ?_).trans ?_)) hw
    · rw [htap]
      rintro (⟨hne, hout⟩ | ⟨h1, hout⟩ | ⟨h2, hout⟩)
      · exact absurd ((hsl hne).symm.trans hout) nofun
      · exact absurd ((htl h1).symm.trans hout) nofun
      · exact absurd ((htc h2).symm.trans hout) nofun
    · simp only [mulAcc_eq, products_eq, toInt_ofInt_clamp56, ← Bool.decide_or]
      rfl
  · intro hout
    exact seqStops_outside h (exec_mul s n w hcls hop) ((if_neg hdef).trans (if_pos (hout.imp_right htap.mpr))) hw

end Sys2Proof.Safety
end

/-! The services of a cell: its status, its history, the HARQ pool and its audit (R177, R181, R195, R373, R377, R379, R436). -/
section
namespace Sys2Proof.Safety
open Sys2Proof.Machine

/-- What a state that has the cells of an update of cell c has at c and beside it. -/
theorem cell_of_modCell {s t : State} {c : CellId} {f : Cell → Cell} (h : t.cells = (s.modCell c f).cells) :
    t.cell c = f (s.cell c) ∧ OtherCells c s t :=
  ⟨by rw [cell_eq_of_cells h, cell_modCell_same], fun d hd => by rw [cell_eq_of_cells h, cell_modCell_ne _ _ (Ne.symm hd)]⟩

theorem any_running_iff (s : State) : (vlist s.cells).any (·.running) = true ↔ ∃ c, (s.cell c).running = true := by
  simp only [List.any_eq_true, vlist, Array.mem_toList_iff, Vector.mem_toArray_iff, Vector.mem_iff_getElem]
  constructor
  · rintro ⟨x, ⟨i, hi, rfl⟩, hx⟩
    exact ⟨⟨i, hi⟩, hx⟩
  · rintro ⟨c, hc⟩
    exact ⟨_, ⟨c.val, c.isLt, rfl⟩, hc⟩

/-- The load is read from the stalls and, of each cell, from its parameters, its audit and whether it is configured. -/
theorem loadFits_congr {s t : State} (hstalls : t.stalls = s.stalls) (hcell : ∀ d, (t.cell d).configured = (s.cell d).configured ∧
    (t.cell d).param = (s.cell d).param ∧ (t.cell d).audit = (s.cell d).audit) : t.loadFits = s.loadFits := by
  have hget : ∀ d p, (t.cell d).get p = (s.cell d).get p := fun d p => by rw [Cell.get, (hcell d).2.1]; rfl
  have hload : ∀ d k, cellLoad (t.cell d) k = cellLoad (s.cell d) k := fun d k => by simp only [cellLoad, hget, (hcell d).2.2]
  have hconf : t.configuredCells = s.configuredCells := by simp only [State.configuredCells, (hcell _).1]
  have hcount : t.inServiceCount = s.inServiceCount := by simp only [State.inServiceCount, State.stall, hstalls]
  simp only [State.loadFits, State.loadAt, hconf, hload, hget, hcount]
  rfl

/-- Cell updates that agree on what the load is read from load alike. -/
theorem loadFits_modCell_congr {s t : State} {c : CellId} {f g : Cell → Cell} (hstalls : t.stalls = s.stalls) (hcells : t.cells = s.cells)
    (hf : (g (s.cell c)).configured = (f (s.cell c)).configured ∧ (g (s.cell c)).param = (f (s.cell c)).param ∧
      (g (s.cell c)).audit = (f (s.cell c)).audit) : (t.modCell c g).loadFits = (s.modCell c f).loadFits := by
  refine loadFits_congr hstalls fun d => ?_
  by_cases h : c = d
  · subst h; simpa only [cell_modCell_same, cell_eq_of_cells hcells] using hf
  · simp only [cell_modCell_ne _ _ h, cell_eq_of_cells hcells, and_self]

section
variable {s : State} {m : MboxId} {l : List MItem} {c : CellId} {y : Cell}

/-! ### CELL_STATUS -/

/-- The cell with its counters cleared. -/
def countersCleared (x : Cell) : Cell := { x with ctr := Vector.replicate 44 0 }

theorem status_answers (h : MbRuns s m 0x23 (orItems cellItem fun id v => if id = 3 then some (inRange 0 1 v) else none) l)
    (hc : itemsCell l = some c) : MbDoes (.cellStatus m) s m 0x23 0 0
      (itemBytes 1 (natLE 2 c.val) ++ itemBytes 0x1000 (digestBytes (Config.shake256 (s.settingsBytes c))) ++ (s.cell c).counterItems) [.cells]
      fun t => (itemNum l 3 = some 1 → ∀ i, vget (t.cell c).ctr i = 0) ∧ (itemNum l 3 ≠ some 1 → t.cells = s.cells) ∧
        (t.cell c).param = (s.cell c).param ∧ OtherCells c s t := by
  by_cases hclear : itemNum l 3 = some 1
  · refine mbDoes_of_now (u := (quieted s m).modCell c countersCleared) h rfl ?_ (.of_touches (modCell_touches _ c _)) fun t ht => ?_
    · simp only [cellReply_some hc, if_pos hclear]
      rfl
    · obtain ⟨hcell, hother⟩ := cell_of_modCell (s := quieted s m) (ht.2 .cells (by decide))
      refine ⟨fun _ i => ?_, fun hn => absurd hclear hn, by rw [hcell]; rfl, hother⟩
      rw [hcell, countersCleared, vget_replicate]
  · refine mbDoes_of_now (u := quieted s m) h rfl ?_ (.refl _ _) fun t ht => ?_
    · simp only [cellReply_some hc, if_neg hclear]
      rfl
    · have hcells : t.cells = s.cells := ht.2 .cells (by decide)
      exact ⟨fun hp => absurd hp hclear, fun _ => hcells, by rw [cell_eq_of_cells hcells], fun d _ => cell_eq_of_cells hcells d⟩

/-! ### HIST_CONFIGURE -/

/-- What may not change of the history of a running cell, with its item. -/
abbrev histFixed : List (Nat × CellParam) := [(0x0701, .window), (0x0702, .tok), (0x0703, .keyFmt), (0x0704, .prefixLen)]

theorem setItems_get (x : Cell) {ps : List ParamSpec} (hps : (ps.map (·.param)).Nodup) {p : ParamSpec} (hp : p ∈ ps) :
    (x.setItems l ps).get p.param = (itemNum l p.id).getD (x.get p.param) :=
  get_foldl_setSome (fun p => itemNum l p.id) ps x hps hp

theorem setItems_running (x : Cell) (ps : List ParamSpec) : (x.setItems l ps).running = x.running :=
  foldl_setSome_running (fun p => itemNum l p.id) ps x

theorem hist_denied (h : MbRuns s m 0x24 (orItems cellItem (paramOk histParams)) l) (hc : itemsCell l = some c)
    (hy : (s.cell c).setItems l histParams = y) (hr : (s.cell c).running = true)
    (hd : ∃ p ∈ [CellParam.window, .tok, .keyFmt, .prefixLen], (s.cell c).get p ≠ y.get p) :
    ∃ d, MbDoes (.histConfigure m) s m 0x24 3 d [] [] fun _ => True := by
  cases hfind : histFixed.find? fun p => (s.cell c).get p.2 != y.get p.2 with
  | none =>
    obtain ⟨p, hp, hne⟩ := hd
    rw [show [CellParam.window, .tok, .keyFmt, .prefixLen] = histFixed.map (·.2) from rfl, List.mem_map] at hp
    obtain ⟨q, hq, rfl⟩ := hp
    simpa [hne] using List.find?_eq_none.mp hfind q hq
  | some q =>
    refine ⟨q.1, mbDoes_of_now (u := quieted s m) h rfl ?_ (.refl _ _) fun _ _ => trivial⟩
    simp only [cellReply_some hc, cell_quieted, hy, hr, if_true, hfind]
    rfl

/-- A request that leaves alone what is fixed is answered by whether the histories fit. -/
theorem hist_of_good {status detail : Nat} {u : State} {ps : List Part} {P : State → Prop}
    (h : MbRuns s m 0x24 (orItems cellItem (paramOk histParams)) l) (hc : itemsCell l = some c)
    (hy : (s.cell c).setItems l histParams = y)
    (hfix : (s.cell c).running = false ∨ ∀ p ∈ [CellParam.window, .tok, .keyFmt, .prefixLen], (s.cell c).get p = y.get p)
    (hlen : y.get .prefixLen + y.get .window ≤ 128)
    (hf : (if (s.modCell c fun _ => y).histFits = false then Reply.bad (quieted s m) stNoResource 0x0706
      else Reply.ok (((quieted s m).modCell c fun _ => y).mirror (0 :: (itemBytes 0x0101 [BitVec.ofNat 8 c.val] ++ paramItems histParams y)))) =
      ⟨status, detail, [], u⟩) (hu : ReplyKeeps ps (quieted s m) u) (hP : ∀ t, OnlyChanges mbParts u t → P t) :
    MbDoes (.histConfigure m) s m 0x24 status detail [] ps P := by
  have hfind : (if (s.cell c).running then histFixed.find? fun p => (s.cell c).get p.2 != y.get p.2 else none) = none := by
    rcases hfix with hr | hsame
    · rw [hr]; rfl
    · split
      · exact List.find?_eq_none.mpr fun p hp => by simp [hsame p.2 (List.mem_map_of_mem (f := (·.2)) hp)]
      · rfl
  refine mbDoes_of_now h rfl ?_ hu hP
  rw [← hf]
  simp only [cellReply_some hc, cell_quieted, hy, hfind, if_neg (Nat.not_lt.mpr hlen)]
  rfl

theorem hist_accepts (h : MbRuns s m 0x24 (orItems cellItem (paramOk histParams)) l) (hc : itemsCell l = some c)
    (hy : (s.cell c).setItems l histParams = y)
    (hfix : (s.cell c).running = false ∨ ∀ p ∈ [CellParam.window, .tok, .keyFmt, .prefixLen], (s.cell c).get p = y.get p)
    (hlen : y.get .prefixLen + y.get .window ≤ 128) (hfits : (s.modCell c fun _ => y).histFits = true) :
    MbDoes (.histConfigure m) s m 0x24 0 0 [] [.cells, .valley] fun t =>
      (∀ p ∈ histParams, (t.cell c).get p.param = (itemNum l p.id).getD ((s.cell c).get p.param)) ∧
      (t.cell c).running = (s.cell c).running ∧ OtherCells c s t := by
  have hmir := mirror_touches ((quieted s m).modCell c fun _ => y) (0 :: (itemBytes 0x0101 [BitVec.ofNat 8 c.val] ++ paramItems histParams y))
  refine hist_of_good h hc hy hfix hlen (by simp only [hfits]; rfl)
    (.of_touches ((modCell_touches _ c _).andThen hmir (rs := [.cells, .qps, .valley, .out]))) fun t ht => ?_
  obtain ⟨hcell, hother⟩ := cell_of_modCell (s := quieted s m) ((ht.2 .cells (by decide)).trans (hmir.part .cells))
  have hnodup : (histParams.map (·.param)).Nodup := by decide
  rw [hcell]
  exact ⟨fun p hp => by rw [← hy, setItems_get _ hnodup hp], by rw [← hy, setItems_running], hother⟩

/-! ### HARQ_CONFIGURE and HARQ_FLUSH -/

theorem setHarq_touches (s : State) (x : Harq) : Touches [.harq] s { s with harq := x } :=
  .of_only ⟨rfl, fun p hp => by cases p <;> first | rfl | simp at hp⟩

theorem placePool_touches (s : State) : Touches [.harq, .free] s s.placePool := (setHarq_touches s _).andThen (drew_touches _ 1)

/-- The HARQ unit with the size and the age limit that the items give. -/
def harqSet (l : List MItem) (x : Harq) : Harq :=
  { x with pool := (itemNum l 0x0601).getD x.pool, maxAge := (itemNum l 0x0602).getD x.maxAge }

theorem harqConfigure_denied (h : MbRuns s m 0x25 harqItems l) (hr : ∃ c, (s.cell c).running = true) :
    MbDoes (.harqConfigure m) s m 0x25 3 0x0601 [] [] fun _ => True := by
  refine mbDoes_of_now (u := quieted s m) h rfl ?_ (.refl _ _) fun _ _ => trivial
  rw [if_pos ((any_running_iff (quieted s m)).mpr hr)]
  rfl

theorem harqConfigure_accepts (h : MbRuns s m 0x25 harqItems l) (hr : ∀ c, (s.cell c).running = false) :
    MbDoes (.harqConfigure m) s m 0x25 0 0 [] [.harq, .free, .valley] fun t =>
      t.harq.pool = (itemNum l 0x0601).getD s.harq.pool ∧ t.harq.maxAge = (itemNum l 0x0602).getD s.harq.maxAge ∧
      t.harq.pages = s.harq.pages := by
  have hnone : ¬ (vlist (quieted s m).cells).any (·.running) = true := by simp [any_running_iff (quieted s m), hr]
  set v : State := { quieted s m with harq := harqSet l s.harq }
  set bytes := 0 :: (itemBytes 0x0601 (natLE 2 (harqSet l s.harq).pool) ++ itemBytes 0x0602 (natLE 2 (harqSet l s.harq).maxAge))
  have hmir := mirror_touches v.placePool bytes
  refine mbDoes_of_now (u := v.placePool.mirror bytes) h rfl ?_ (.of_touches (((setHarq_touches _ _).andThen (placePool_touches v)
    (rs := [.harq, .free])).andThen hmir (rs := [.harq, .free, .qps, .valley, .out]))) fun t ht => ?_
  · rw [if_neg hnone]
    rfl
  · have hharq : t.harq = v.placePool.harq := (ht.2 .harq (by decide)).trans (hmir.part .harq)
    rw [hharq]
    exact ⟨rfl, rfl, rfl⟩

/-- Pages of a cell freed, of one RNTI or all: every other page stays. -/
theorem mem_pages_freePages_iff (s : State) (c : CellId) (r : Option (BitVec 16)) (p : HarqPage) :
    p ∈ (s.freePages c r).harq.pages ↔ p ∈ s.harq.pages ∧ ¬(p.cell = c ∧ ∀ k, r = some k → p.rnti = k) := by
  have hchosen : ∀ q : HarqPage, (q.cell == c && r.all fun k => q.rnti == k) = true ↔ q.cell = c ∧ ∀ k, r = some k → q.rnti = k := fun q => by
    cases r <;> simp
  rw [State.freePages, mem_pages_frees]
  refine and_congr_right fun hp => ⟨fun h hof => ?_, fun h q hq => ?_⟩
  · have := h p (List.mem_filter.mpr ⟨hp, (hchosen p).mpr hof⟩)
    simp [HarqPage.isOf] at this
  · obtain ⟨hqc, hqr⟩ := (hchosen q).mp (List.mem_filter.mp hq).2
    refine Bool.eq_false_iff.mpr fun hof => h ?_
    obtain ⟨⟨hcell, hrnti⟩, -⟩ : (p.cell = q.cell ∧ p.rnti = q.rnti) ∧ p.harqId = q.harqId := by simpa [HarqPage.isOf] using hof
    exact ⟨hcell.trans hqc, fun k hk => hrnti.trans (hqr k hk)⟩

theorem harqFlush_frees (h : MbRuns s m 0x26 (orItems cellItem fun id v => if id = 8 then some (sized 2 v) else none) l)
    (hc : itemsCell l = some c) : MbDoes (.harqFlush m) s m 0x26 0 0 [] [.harq, .valley] fun t =>
      ∀ p, p ∈ t.harq.pages ↔ p ∈ s.harq.pages ∧ ¬(p.cell = c ∧ ∀ k, itemNum l 8 = some k → p.rnti = BitVec.ofNat 16 k) := by
  refine mbDoes_of_now (u := (quieted s m).freePages c ((itemNum l 8).map (BitVec.ofNat 16))) h rfl ?_
    (.of_touches (freePages_touches _ c _)) fun t ht p => ?_
  · simp only [cellReply_some hc]
    rfl
  · rw [show t.harq = _ from ht.2 .harq (by decide), mem_pages_freePages_iff]
    refine and_congr_right fun _ => not_congr (and_congr_right fun _ => ?_)
    cases itemNum l 8 <;> simp

/-! ### AUDIT_CONFIGURE and AUDIT_READ -/

/-- The cell with audit as the items say and its digest ring at a. -/
def auditSet (l : List MItem) (a n : Nat) (x : Cell) : Cell :=
  { x with
    audit := ((itemNum l 0x0D09).map (· == 1)).getD x.audit, digestRing := a, digestSize := n
    digestPos := if a = x.digestRing ∧ n = x.digestSize then x.digestPos else 0 }

/-- Audit switched on or kept on fits where an audited cell does. -/
theorem audit_fits {a n : Nat} (hfit : itemNum l 0x0D09 = some 0 ∨ (s.modCell c fun x => { x with audit := true }).loadFits = true) :
    ¬ ((auditSet l a n (s.cell c)).audit = true ∧
      (((quieted s m).drew 2).modCell c fun _ => auditSet l a n (s.cell c)).loadFits = false) := by
  rintro ⟨hon, hno⟩
  rcases hfit with h0 | hfit
  · simp [auditSet, h0] at hon
  · have := loadFits_modCell_congr (s := s) (t := (quieted s m).drew 2) (c := c) (f := fun x => { x with audit := true })
      (g := fun _ => auditSet l a n (s.cell c)) rfl rfl ⟨rfl, rfl, hon⟩
    rw [this, hfit] at hno
    exact absurd hno nofun

theorem auditConfigure_sets {a n off : Nat} (h : MbRuns s m 0x2A (orItems cellItem auditItems) l) (hc : itemsCell l = some c)
    (ha : itemNum l 7 = some a) (hn : itemNum l 11 = some n) (hplace : placeOf a n = .plain off) (hal : a % 64 = 0)
    (hfit : itemNum l 0x0D09 = some 0 ∨ (s.modCell c fun x => { x with audit := true }).loadFits = true) :
    MbDoes (.auditConfigure m) s m 0x2A 0 0 [] [.cells, .free] fun t => t.cell c = auditSet l a n (s.cell c) ∧ OtherCells c s t := by
  have hmoved : (if decide (a ≠ (s.cell c).digestRing ∨ n ≠ (s.cell c).digestSize) = true then 0 else (s.cell c).digestPos) =
      if a = (s.cell c).digestRing ∧ n = (s.cell c).digestSize then (s.cell c).digestPos else 0 := by
    by_cases hsame : a = (s.cell c).digestRing ∧ n = (s.cell c).digestSize
    · simp [hsame]
    · rw [if_neg hsame, if_pos (decide_eq_true (not_and_or.mp hsame))]
  refine mbDoes_of_now (u := ((quieted s m).drew 2).modCell c fun _ => auditSet l a n (s.cell c)) h rfl ?_
    (.of_touches ((drew_touches _ 2).andThen (modCell_touches _ c _) (rs := [.cells, .free]))) fun t ht => ?_
  · simp only [cellReply_some hc, ha, hn, Option.getD_some, cell_quieted, hmoved, hplace]
    rw [if_neg (by simp [hal])]
    exact if_neg (audit_fits hfit)
  · exact cell_of_modCell (s := (quieted s m).drew 2) (ht.2 .cells (by decide))

theorem auditRead_returns
    (h : MbRuns s m 0x2B (orItems cellItem fun id v => if id = 4 then some (sized 4 v) else if id = 5 then some (inRange 1 42 v) else none) l)
    (hc : itemsCell l = some c) : MbDoes (.auditRead m) s m 0x2B 0 0
      (itemBytes 12 ((((s.cell c).audits.drop ((itemNum l 4).getD ((s.cell c).auditCount - (s.cell c).audits.length) -
        ((s.cell c).auditCount - (s.cell c).audits.length))).take ((itemNum l 5).getD 42)).flatMap (auditBytes c))) [] fun _ => True := by
  refine mbDoes_of_now (u := quieted s m) h rfl ?_ (.refl _ _) fun _ _ => trivial
  simp only [cellReply_some hc, cell_quieted]
  rfl

end

/-- Settles O42: each command is one reply about its cell or the pool; what it sets is read back, and a flush keeps the pages that are not
the user's. -/
theorem cellServicesAreConfigured : Obligations.CellServicesAreConfigured := by
  refine ⟨?_, ?_, ?_, ?_, ?_, ?_⟩
  · exact fun s m l c h hc => status_answers h hc
  · intro s m l c y h hc hy
    refine ⟨hist_denied h hc hy, fun hfix hlen => ⟨fun hno => ?_, hist_accepts h hc hy hfix hlen⟩⟩
    exact hist_of_good (u := quieted s m) h hc hy hfix hlen (by rw [if_pos hno]; rfl) (.refl _ _) fun _ _ => trivial
  · exact fun s m l h => ⟨harqConfigure_denied h, harqConfigure_accepts h⟩
  · exact fun s m l c h hc => harqFlush_frees h hc
  · intro s m l c a n off h hc ha hn hplace hal hfit
    obtain ⟨t, he, hans, ⟨hcell, hother⟩, ho⟩ := auditConfigure_sets h hc ha hn hplace hal hfit
    refine ⟨t, he, hans, ?_, ho⟩
    beta_reduce
    rw [hcell]
    exact ⟨rfl, rfl, rfl, rfl, rfl, hother⟩
  · exact fun s m l c h hc => auditRead_returns h hc

end Sys2Proof.Safety
end

/-! The flash directory after an image is written (R454, R455). -/
section
namespace Sys2Proof.Safety
open Sys2Proof.Machine

/-! ### Bytes replaced in a list -/

theorem setBytes_eq {bs l : List Byte} {o : Nat} (h : o ≤ bs.length) : setBytes bs o l = bs.take o ++ (l ++ bs.drop (o + l.length)) := by
  simp [setBytes, Nat.sub_eq_zero_of_le h]

theorem length_setBytes {bs l : List Byte} {o : Nat} (h : o + l.length ≤ bs.length) : (setBytes bs o l).length = bs.length := by
  rw [setBytes_eq (by omega)]
  simp only [List.length_append, List.length_take, List.length_drop]
  omega

/-- Bytes before those replaced stay. -/
theorem take_setBytes {bs l : List Byte} {o k : Nat} (h : o ≤ bs.length) (hk : k ≤ o) : (setBytes bs o l).take k = bs.take k := by
  rw [setBytes_eq h, List.take_append_of_le_length (by simp; omega), List.take_take, Nat.min_eq_left hk]

theorem bytesNat_setBytes_before {bs l : List Byte} {o p n : Nat} (h : o ≤ bs.length) (hp : p + n ≤ o) :
    bytesNat (setBytes bs o l) p n = bytesNat bs p n := by
  rw [← bytesNat_take _ hp, take_setBytes h (Nat.le_refl o), bytesNat_take _ hp]

theorem bytesNat_setBytes_same {bs l : List Byte} {o n : Nat} (h : o ≤ bs.length) (hn : l.length = n) :
    bytesNat (setBytes bs o l) o n = leNat l := by
  rw [setBytes_eq h, bytesNat, List.drop_left' (by simp [h]), List.take_left' hn]

/-! ### The directory -/

/-- A directory copy with the magic number of one, of 256 bytes. -/
structure DirShape (d : List Byte) : Prop where
  length : d.length = 256
  magic : bytesNat d 0 4 = 0x43564449

theorem length_memRead (m : Mem) (a n : Nat) : (memRead m a n).length = n := by simp [memRead]

theorem dirShape_of_flashDir {s : State} {b : Bool} {d : List Byte} (h : s.flashDir = some (b, d)) : DirShape d := by
  have hcopy : ∀ k, dirOk (s.dirCopy k) = true → DirShape (s.dirCopy k) := fun k hk => by
    simp only [dirOk, Bool.and_eq_true, beq_iff_eq] at hk
    exact ⟨length_memRead _ _ _, hk.1⟩
  unfold State.flashDir at h
  dsimp only at h
  split at h
  · rename_i ha
    split at h
    · rename_i hb
      simp only [Option.some.injEq, Prod.mk.injEq] at h
      exact h.2 ▸ hcopy true hb.1
    · simp only [Option.some.injEq, Prod.mk.injEq] at h
      exact h.2 ▸ hcopy false ha
  · split at h
    · rename_i hb
      simp only [Option.some.injEq, Prod.mk.injEq] at h
      exact h.2 ▸ hcopy true hb
    · simp at h

/-- The directory that a new one follows: the valid one, or one that names the slots where they lie. -/
def oldDir (s : State) : List Byte :=
  match s.flashDir with
  | some (_, d) => d
  | none => natLE 4 0x43564449 ++ natLE 4 0 ++ (List.range 4).flatMap (fun i => natLE 4 (s.slotOffset (decide (2 ≤ i)) (i % 2 == 1)))
      ++ List.replicate 232 0

theorem dirShape_oldDir (s : State) : DirShape (oldDir s) := by
  unfold oldDir
  split
  · rename_i h
    exact dirShape_of_flashDir h
  · refine ⟨?_, ?_⟩
    · simp only [List.length_append, List.length_flatMap, length_natLE, List.map_const', List.length_range, List.sum_replicate, List.length_replicate]
      rfl
    · simp only [List.append_assoc]
      rw [bytesNat, List.drop_zero, List.take_left' (length_natLE 4 _), leNat_natLE 4 _ (by decide)]

/-- A new directory is valid and names the slot. -/
theorem newDir_spec {d : List Byte} (h : DirShape d) (wh slot : Bool) :
    (newDir d wh slot).length = 256 ∧ dirOk (newDir d wh slot) = true ∧
    bytesNat (newDir d wh slot) (if wh then 25 else 24) 1 = bitNat slot := by
  unfold newDir
  dsimp only
  set d0 := setBytes d 4 (natLE 4 (bytesNat d 4 4 + 1))
  have hlen0 : d0.length = 256 := by rw [length_setBytes (by simp [h.length]), h.length]
  have hmagic0 : bytesNat d0 0 4 = 0x43564449 := by rw [bytesNat_setBytes_before (by simp [h.length]) (by decide), h.magic]
  obtain ⟨o, ho, ho4, ho25⟩ : ∃ o, (if wh then 25 else 24) = o ∧ 4 ≤ o ∧ o ≤ 25 := by cases wh <;> simp
  rw [ho]
  set d1 := setBytes d0 o [BitVec.ofNat 8 (bitNat slot)]
  have hlen1 : d1.length = 256 := by rw [length_setBytes (by simp [hlen0]; omega), hlen0]
  have hmagic1 : bytesNat d1 0 4 = 0x43564449 := by rw [bytesNat_setBytes_before (by omega) (by omega), hmagic0]
  have hslot1 : bytesNat d1 o 1 = bitNat slot := by
    rw [bytesNat_setBytes_same (by omega) (n := 1) rfl]
    cases slot <;> rfl
  set x := natLE 2 (crc16 (d1.take 254)).toNat
  have hx : x.length = 2 := length_natLE 2 _
  have hcrc : leNat x = (crc16 (d1.take 254)).toNat := leNat_natLE 2 _ (crc16 (d1.take 254)).isLt
  refine ⟨by rw [length_setBytes (by omega), hlen1], ?_, ?_⟩
  · have h254 : 254 ≤ d1.length := by omega
    simp only [dirOk, bytesNat_setBytes_before h254 (show 0 + 4 ≤ 254 by decide), hmagic1, bytesNat_setBytes_same h254 hx,
      take_setBytes h254 (Nat.le_refl 254), hcrc, beq_self_eq_true, Bool.and_self]
  · rw [bytesNat_setBytes_before (by omega) (by omega), hslot1]

theorem memRead_congr {m n : Mem} {a k : Nat} (h : ∀ i, a ≤ i → i < a + k → memByte m i = memByte n i) : memRead m a k = memRead n a k :=
  List.map_congr_left fun i hi => h _ (by omega) (by have := List.mem_range.mp hi; omega)

/-- Bytes outside those written read as before. -/
theorem memRead_outside {m : Mem} {a b k : Nat} {bs : List Byte} (h : a + k ≤ b ∨ b + bs.length ≤ a) :
    memRead (memWrite m b bs) a k = memRead m a k :=
  memRead_congr fun _ _ _ => memByte_outside (by omega)

/-- The flash with an image and both directory copies written. -/
def flashed (m : Mem) (off : Nat) (b d : List Byte) : Mem := memWrite (memWrite (memWrite m off b) 0 d) 0x10000 d

/-- Both copies are the one written. -/
theorem memRead_flashed {m : Mem} (hm : Mem.wf m = true) (off : Nat) (b : List Byte) {d : List Byte} (hd : d.length = 256) :
    memRead (flashed m off b d) 0 256 = d ∧ memRead (flashed m off b d) 0x10000 256 = d := by
  have h1 : Mem.wf (memWrite m off b) = true := memWrite_wf _ _ hm
  refine ⟨?_, ?_⟩
  · rw [flashed, memRead_outside (.inl (by omega))]
    have := memRead_memWrite 0 d h1
    rwa [hd] at this
  · have := memRead_memWrite 0x10000 d (memWrite_wf 0 d h1)
    rwa [hd] at this

theorem writeFlash_eq (s : State) (wh : Bool) (b : List Byte) : s.writeFlash wh b = (s.drew 4).modSec fun x => { x with
    flash := flashed x.flash (s.slotOffset wh !s.activeSlot wh) b (newDir (oldDir s) wh !s.activeSlot wh) } := rfl

theorem writeFlash_touches (s : State) (wh : Bool) (b : List Byte) : Touches [.free, .sec] s (s.writeFlash wh b) := by
  rw [writeFlash_eq]
  exact (drew_touches s 4).andThen (modSec_touches _ _)

theorem activeSlot_of_sec {s t : State} (h : t.sec = s.sec) (wh : Bool) : t.activeSlot wh = s.activeSlot wh := by
  simp only [State.activeSlot, State.flashDir, State.dirCopy, h]

/-- Where both copies are one valid directory, the active slot is the one that it names. -/
theorem activeSlot_of_copies {s : State} {d : List Byte} (h0 : s.dirCopy false = d) (h1 : s.dirCopy true = d) (hd : dirOk d = true) (wh : Bool) :
    s.activeSlot wh = (bytesNat d (if wh then 25 else 24) 1 == 1) := by
  have hdir : s.flashDir = some (false, d) := by
    simp [State.flashDir, h0, h1, hd]
  rw [State.activeSlot, hdir]

/-- An image that is written makes the other slot the active one. -/
theorem activeSlot_writeFlash {s : State} (hwf : Mem.wf s.sec.flash = true) (wh : Bool) (b : List Byte) :
    (s.writeFlash wh b).activeSlot wh = !s.activeSlot wh := by
  obtain ⟨hlen, hok, hslot⟩ := newDir_spec (dirShape_oldDir s) wh (!s.activeSlot wh)
  obtain ⟨h0, h1⟩ := memRead_flashed hwf (s.slotOffset wh !s.activeSlot wh) b hlen
  rw [activeSlot_of_copies (s := s.writeFlash wh b) h0 h1 hok, hslot]
  cases s.activeSlot wh <;> rfl

end Sys2Proof.Safety
end

/-! Transfers to the staging area, and FIRMWARE_UPDATE (R451, R452, R455, R462). -/
section
namespace Sys2Proof.Safety
open Sys2Proof.Machine

/-! ### Images -/

/-- What an image is held against beside itself: the fuses. -/
theorem verifyImage_of_fuses {s t : State} (hr : t.sec.revoked = s.sec.revoked) (hb : t.sec.blown = s.sec.blown) (ty : Nat) (b : List Byte) :
    t.verifyImage ty b = s.verifyImage ty b := by
  simp only [State.verifyImage, State.revokedKeys, State.svnCounter, State.counterBits, hr, hb]
  rfl

theorem tryImage_of_none {s : State} {ty : Nat} {b : List Byte} (h : s.verifyImage ty b = none) (src : Nat) : s.tryImage ty src b = (true, s) := by
  unfold State.tryImage
  rw [h]

theorem tryImage_of_some {s : State} {ty r : Nat} {b : List Byte} (h : s.verifyImage ty b = some r) (src : Nat) :
    s.tryImage ty src b = (false, s.verifyFail ty r src b) := by
  unfold State.tryImage
  rw [h]

/-- A rejection is counted and recorded. -/
theorem verifyFail_keeps (s : State) (ty r src : Nat) (b : List Byte) :
    hostCore (s.verifyFail ty r src b).host = hostCore s.host ∧ OnlyChanges [.dev, .host] s (s.verifyFail ty r src b) := by
  have hr : Touches [.dev, .host] (s.devInc .secVerifyFail) (s.verifyFail ty r src b) := raise_touches _ _ _ _
  exact ⟨hr.host, onlyChanges_trans (onlyChanges_mono (devAdd_only s _ 1) (by decide)) hr.only⟩

/-! ### Transfers -/

/-- The area belongs to o. -/
def ownedBy (o : Option (Nat × Int)) (x : Security) : Security := { x with owner := o }

theorem verifyImage_ownedBy (s : State) (o : Option (Nat × Int)) (ty : Nat) (b : List Byte) :
    (s.modSec (ownedBy o)).verifyImage ty b = s.verifyImage ty b := verifyImage_of_fuses rfl rfl ty b

theorem verifyImage_quieted (s : State) (m : MboxId) (ty : Nat) (b : List Byte) : (quieted s m).verifyImage ty b = s.verifyImage ty b :=
  verifyImage_of_fuses rfl rfl ty b

section
variable {s : State} {m : MboxId} {l : List MItem} {code ty n : Nat} {fin : List Byte → State → Reply}

theorem staged_of_owner (h : ∀ o i, s.sec.owner = some (o, i) → o = code) : s.staged code = false := by
  unfold State.staged
  split
  · rename_i o i ho
    simp [h o i ho]
  · rfl

/-- Once the device is ready, a chunk goes to DRAM. -/
theorem putChunk_ready (h : s.sec.ready = true) (code off : Nat) (bs : List Byte) : ∃ o, s.putChunk code off bs =
    { s.modSec (ownedBy o) with mem := memWrite s.mem (s.stagingAddr + off) bs } :=
  ⟨_, if_pos h⟩

/-- A chunk that fits is put into the area. -/
theorem transfer_chunk {bs : List Byte} {off : Nat} (h : s.staged code = false) (hv : itemVal l 12 = some bs) (ho : itemNum l 0x0902 = some off)
    (hn : itemNum l 0x0903 = none) (hfit : off + bs.length ≤ s.stagingRoom) :
    s.transfer code ty l fin = Reply.ok (s.putChunk code off bs) := by
  simp [State.transfer, h, hv, ho, hn, hfit]

/-- The area of a command of the other type is left alone. -/
theorem transfer_conflict {o : Nat} {i : Int} (h : s.sec.owner = some (o, i)) (hne : o ≠ code) :
    ∃ d, s.transfer code ty l fin = Reply.bad s stConflict d := by
  have hst : s.staged code = true := by simp [State.staged, h, hne]
  exact ⟨_, by rw [State.transfer, if_pos hst]⟩

theorem stagedImage_ready (h : s.sec.ready = true) (n : Nat) : s.stagedImage n = memRead s.mem s.stagingAddr n := if_pos h

theorem stagingRoom_ready (h : s.sec.ready = true) : s.stagingRoom = stagingSize := if_pos h

/-- The request finishes a transfer of n bytes, of which no area of the other type is in the way. -/
structure Finishes (s : State) (l : List MItem) (code n : Nat) : Prop where
  ready : s.sec.ready = true
  mine : ∀ o i, s.sec.owner = some (o, i) → o = code
  noChunk : itemVal l 12 = none
  noOffset : itemNum l 0x0902 = none
  total : itemNum l 0x0903 = some n
  fits : n ≤ stagingSize

theorem Finishes.quieted (g : Finishes s l code n) (m : MboxId) : Finishes (quieted s m) l code n := ⟨g.ready, g.mine, g.noChunk, g.noOffset, g.total, g.fits⟩

/-- A finish frees the area and acts on an image that verifies. -/
theorem transfer_finish (g : Finishes s l code n) : s.transfer code ty l fin =
    if ((s.modSec (ownedBy none)).tryImage ty 4 (memRead s.mem s.stagingAddr n)).1 then
      fin (memRead s.mem s.stagingAddr n) ((s.modSec (ownedBy none)).tryImage ty 4 (memRead s.mem s.stagingAddr n)).2
    else Reply.bad ((s.modSec (ownedBy none)).tryImage ty 4 (memRead s.mem s.stagingAddr n)).2 stFault 0 := by
  simp only [State.transfer, staged_of_owner g.mine, g.noChunk, g.noOffset, g.total, stagingRoom_ready g.ready, Nat.not_lt.mpr g.fits,
    stagedImage_ready g.ready, if_false]
  rfl

theorem transfer_verified (g : Finishes s l code n) (himg : s.verifyImage ty (memRead s.mem s.stagingAddr n) = none) :
    s.transfer code ty l fin = fin (memRead s.mem s.stagingAddr n) (s.modSec (ownedBy none)) := by
  have : (s.modSec (ownedBy none)).verifyImage ty (memRead s.mem s.stagingAddr n) = none := by rw [verifyImage_ownedBy, himg]
  rw [transfer_finish g, tryImage_of_none this, if_pos rfl]

/-- An image that does not verify ends the command with FAULT. -/
theorem transfer_rejected (g : Finishes s l code n) (himg : s.verifyImage ty (memRead s.mem s.stagingAddr n) ≠ none) :
    ∃ u, s.transfer code ty l fin = Reply.bad u stFault 0 ∧ u.sec = ownedBy none s.sec ∧ ReplyKeeps [.sec] s u := by
  obtain ⟨r, hr⟩ := Option.ne_none_iff_exists'.mp himg
  have : (s.modSec (ownedBy none)).verifyImage ty (memRead s.mem s.stagingAddr n) = some r := by rw [verifyImage_ownedBy, hr]
  obtain ⟨hhost, honly⟩ := verifyFail_keeps (s.modSec (ownedBy none)) ty r 4 (memRead s.mem s.stagingAddr n)
  refine ⟨(s.modSec (ownedBy none)).verifyFail ty r 4 (memRead s.mem s.stagingAddr n), ?_, honly.2 .sec (by decide), .of_host hhost, ?_⟩
  · rw [transfer_finish g, tryImage_of_some this, if_neg nofun]
  · exact onlyChanges_trans (onlyChanges_mono (modSec_touches s (ownedBy none)).only (by decide)) (onlyChanges_mono honly (by decide))

/-- A finish whose image does not verify, whatever it would do with one: FAULT, and the area is free. -/
theorem finish_rejected {c : Instr} {allow : Nat → List Byte → Option Bool} {f : List MItem → State → Reply × Hold}
    (h : MbRuns s m code allow l) (hexec : exec c s = .next (s.mbCommand m code allow f))
    (hf : f l (quieted s m) = ((quieted s m).transfer code ty l fin, .background)) (g : Finishes s l code n)
    (hbad : s.verifyImage ty (memRead s.mem s.stagingAddr n) ≠ none) :
    MbDoes c s m code 7 0 [] [.sec] fun t => t.sec = { s.sec with owner := none } := by
  have hbad' : (quieted s m).verifyImage ty (memRead s.mem s.stagingAddr n) ≠ none := by rwa [verifyImage_quieted]
  obtain ⟨u, hu, hsec, hkeep⟩ := transfer_rejected (fin := fin) (g.quieted m) hbad'
  exact mbDoes_of h hexec (hf.trans (congrArg (·, Hold.background) hu)) (.inr (by decide)) hkeep
    fun t ht => (ht.2 .sec (by decide) : t.sec = u.sec).trans hsec

/-! ### FIRMWARE_UPDATE -/

/-- What FIRMWARE_UPDATE takes. -/
abbrev firmwareItems (id : Nat) (v : List Byte) : Option Bool := if id = 0x0901 then some (inRange 1 2 v) else chunkItems id v

/-- What a finish of FIRMWARE_UPDATE does with a verified image. -/
def firmwareFinish (ty : Nat) (img : List Byte) (s : State) : Reply := Reply.ok (s.writeFlash (ty == 2) img)

/-- What FIRMWARE_UPDATE replies to a request that names the type of the image. -/
theorem firmware_reply {m : MboxId} : ∃ f, (∀ s, exec (.firmwareUpdate m) s = .next (s.mbCommand m 0x10 firmwareItems f)) ∧
    ∀ (l : List MItem) (ty : Nat) (s : State), itemNum l 0x0901 = some ty → f l s = (s.transfer 0x10 ty l (firmwareFinish ty), .background) := by
  refine ⟨_, fun s => rfl, fun l ty s hty => ?_⟩
  simp only [hty]
  rfl

theorem firmware_chunk {bs : List Byte} {off : Nat} (h : MbRuns s m 0x10 firmwareItems l) (hready : s.sec.ready = true)
    (hty : itemNum l 0x0901 = some ty) (hv : itemVal l 12 = some bs) (ho : itemNum l 0x0902 = some off) (hn : itemNum l 0x0903 = none)
    (hown : ∀ o i, s.sec.owner = some (o, i) → o = 0x10) (hfit : off + bs.length ≤ stagingSize) :
    MbStarts (.firmwareUpdate m) s m 0x10 (itemsCell l) [] [.mem, .sec] fun t =>
      t.mem = memWrite s.mem (s.stagingAddr + off) bs ∧ MemOnly (s.stagingAddr + off) bs.length s t ∧ t.sec.flash = s.sec.flash := by
  obtain ⟨f, hexec, hf⟩ := firmware_reply (m := m)
  have hfit' : off + bs.length ≤ (quieted s m).stagingRoom := by rw [stagingRoom_ready (s := quieted s m) hready]; exact hfit
  obtain ⟨o, hput⟩ := putChunk_ready (s := quieted s m) hready 0x10 off bs
  refine mbStarts_of h rfl (hexec s) ((hf l ty _ hty).trans (congrArg (·, Hold.background) (transfer_chunk (staged_of_owner hown) hv ho hn hfit'))) ?_
    fun t ht => ?_
  · rw [hput]
    exact .of_touches ((modSec_touches (quieted s m) (ownedBy o)).andThen (setMem_touches _ _) (rs := [.mem, .sec]))
  · rw [hput] at ht
    have hmem : t.mem = memWrite s.mem (s.stagingAddr + off) bs := ht.2 .mem (by decide)
    have hsec : t.sec = ownedBy o s.sec := ht.2 .sec (by decide)
    exact ⟨hmem, fun a ha => by rw [hmem]; exact memByte_outside ha, by rw [hsec, ownedBy]⟩

theorem firmware_conflict {i : Int} (h : MbRuns s m 0x10 firmwareItems l) (hty : itemNum l 0x0901 = some ty) (hown : s.sec.owner = some (0x11, i)) :
    ∃ d, MbDoes (.firmwareUpdate m) s m 0x10 4 d [] [] fun _ => True := by
  obtain ⟨f, hexec, hf⟩ := firmware_reply (m := m)
  obtain ⟨d, hd⟩ := transfer_conflict (s := quieted s m) (code := 0x10) (ty := ty) (l := l) (fin := firmwareFinish ty) hown (by decide)
  exact ⟨d, mbDoes_of h (hexec s) ((hf l ty _ hty).trans (congrArg (·, Hold.background) hd)) (.inr (by decide)) (.refl _ _) fun _ _ => trivial⟩

theorem firmware_writes (h : MbRuns s m 0x10 firmwareItems l) (hty : itemNum l 0x0901 = some ty) (g : Finishes s l 0x10 n)
    (hwf : Mem.wf s.sec.flash = true) (hok : s.verifyImage ty (memRead s.mem s.stagingAddr n) = none) :
    MbStarts (.firmwareUpdate m) s m 0x10 (itemsCell l) [] [.sec, .free] fun t =>
      t.activeSlot (ty == 2) = !s.activeSlot (ty == 2) ∧ t.sec.owner = none ∧ t.sec.hallImage = s.sec.hallImage := by
  obtain ⟨f, hexec, hf⟩ := firmware_reply (m := m)
  have hreply := transfer_verified (fin := firmwareFinish ty) (g.quieted m) ((verifyImage_quieted s m ty _).trans hok)
  refine mbStarts_of h rfl (hexec s) ((hf l ty _ hty).trans (congrArg (·, Hold.background) hreply))
    (.of_touches ((modSec_touches _ (ownedBy none)).andThen (writeFlash_touches _ _ _) (rs := [.sec, .free]))) fun t ht => ?_
  have hsec : t.sec = (((quieted s m).modSec (ownedBy none)).writeFlash (ty == 2) (memRead s.mem s.stagingAddr n)).sec := ht.2 .sec (by decide)
  refine ⟨?_, by rw [hsec]; rfl, by rw [hsec]; rfl⟩
  rw [activeSlot_of_sec hsec, activeSlot_writeFlash (s := (quieted s m).modSec (ownedBy none)) hwf]
  rfl

theorem firmware_rejected (h : MbRuns s m 0x10 firmwareItems l) (hty : itemNum l 0x0901 = some ty) (g : Finishes s l 0x10 n)
    (hbad : s.verifyImage ty (memRead s.mem s.stagingAddr n) ≠ none) :
    MbDoes (.firmwareUpdate m) s m 0x10 7 0 [] [.sec] fun t => t.sec = { s.sec with owner := none } := by
  obtain ⟨f, hexec, hf⟩ := firmware_reply (m := m)
  exact finish_rejected h (hexec s) (hf l ty _ hty) g hbad

end

end Sys2Proof.Safety
end

/-! BUNDLE_LOAD: the offset books of a bundle in Plain, its fuses, its measurement (R171, R456, R462, R463). -/
section
namespace Sys2Proof.Safety
open Sys2Proof.Machine

/-! ### Writes to Plain -/

theorem placeOf_plain {a n : Nat} (hlo : plainBase ≤ a) (hlast : a < plainBase + plainSize) (hhi : a + n ≤ plainBase + plainSize) :
    placeOf a n = .plain (a - plainBase) := by
  simp only [plainBase, plainSize] at hlo hlast hhi
  have hend : a ≤ a + (if n = 0 then 0 else n - 1) ∧ a + (if n = 0 then 0 else n - 1) < 0x20000000 + 0x2000000 := by split <;> omega
  unfold placeOf
  dsimp only
  generalize a + (if n = 0 then 0 else n - 1) = e at hend ⊢
  rw [if_neg (by omega), dif_neg (by omega), if_pos (by simp only [plainBase, plainSize]; omega)]

theorem agentWrite_plain {s : State} {a off : Nat} {bs : List Byte} (h : placeOf a bs.length = .plain off) (src : Source) :
    s.agentWrite src a bs = (s.plainWrite src off bs).2 := by
  rw [State.agentWrite, h]

/-- A write that the firewall lets pass. -/
theorem plainWrite_allowed {s : State} {src : Source} {off : Nat} {bs : List Byte} (h : s.fwRefused src true off bs.length = none) :
    (s.plainWrite src off bs).2 = { s with mem := memWrite s.mem (plainBase + off) bs } := by
  rw [State.plainWrite, h]

/-- Made or refused, a write leaves the bytes outside it. -/
theorem memByte_plainWrite_outside (s : State) (src : Source) {off x : Nat} {bs : List Byte} (h : x < plainBase + off ∨ plainBase + off + bs.length ≤ x) :
    memByte (s.plainWrite src off bs).2.mem x = memByte s.mem x := by
  unfold State.plainWrite
  split
  · exact memByte_outside h
  · rw [(fwViolation_reads s src true off _).mem]

/-- Made or refused, a write leaves the firewall. -/
theorem fwRefused_plainWrite (s : State) (src : Source) (off : Nat) (bs : List Byte) (src' : Source) (w : Bool) (o n : Nat) :
    (s.plainWrite src off bs).2.fwRefused src' w o n = s.fwRefused src' w o n := by
  unfold State.plainWrite
  split
  · exact fwRefused_of_parts rfl rfl src' w o n
  · exact (fwViolation_reads s src true off _).refused src' w o n

/-! ### Offset books -/

/-- The bytes of a bundle's book. -/
def bookBytes (img : List Byte) (bg1 : Bool) : List Byte := (Config.bundleBook img bg1).take (bookSize bg1)

/-- A book copied to an address. -/
def putBook (s : State) (img : List Byte) (bg1 : Bool) (a : Nat) : State := s.agentWrite Source.hall a (bookBytes img bg1)

/-- The address that Hall takes for a book. -/
def bookPlace (s : State) (i : Nat) (bg1 : Bool) : Nat :=
  plainBase + (s.freeBits i).toNat % ((plainSize - bookSize bg1) / 64 + 1) * 64

/-- The books of a bundle that is loaded now. -/
def booksNow (s : State) (c : CellId) : BookSet :=
  ⟨if (s.cell c).running then s.procNow c + 3 else 0, bookPlace s 0 true, bookPlace s 1 false⟩

/-- Both books copied. -/
def booksPut (s : State) (img : List Byte) : State :=
  putBook (putBook (s.drew 2) img true (bookPlace s 0 true)) img false (bookPlace s 1 false)

/-- The cell with one more set of books; one that does not run has no plan with an older set. -/
def withBooks (b : BookSet) (x : Cell) : Cell := { x with books := (if x.running then x.books else []) ++ [b] }

theorem loadBooks_eq (s : State) (c : CellId) (img : List Byte) :
    s.loadBooks c img = (booksPut s img).modCell c (withBooks (booksNow s c)) := rfl

/-- A book lies within Plain, on a line of 64 bytes. -/
structure BookPlaced (bg1 : Bool) (a : Nat) : Prop where
  low : plainBase ≤ a
  high : a + bookSize bg1 ≤ plainBase + plainSize
  aligned : a % 64 = 0

theorem bookPlace_placed (s : State) (i : Nat) (bg1 : Bool) : BookPlaced bg1 (bookPlace s i bg1) := by
  unfold bookPlace
  generalize (s.freeBits i).toNat = v
  cases bg1 <;> refine ⟨?_, ?_, ?_⟩ <;> simp only [bookSize, plainBase, plainSize, if_true, Bool.false_eq_true, if_false] <;> omega

theorem length_bookBytes (img : List Byte) (bg1 : Bool) : (bookBytes img bg1).length ≤ bookSize bg1 := List.length_take_le _ _

theorem putBook_plain {a : Nat} {bg1 : Bool} (h : BookPlaced bg1 a) (s : State) (img : List Byte) :
    putBook s img bg1 a = (s.plainWrite Source.hall (a - plainBase) (bookBytes img bg1)).2 := by
  have hlen := length_bookBytes img bg1
  have hpos : 0 < bookSize bg1 := by cases bg1 <;> decide
  have hhigh := h.high
  exact agentWrite_plain (placeOf_plain h.low (by omega) (by omega)) _

theorem memByte_putBook_outside {a x : Nat} {bg1 : Bool} (h : BookPlaced bg1 a) (s : State) (img : List Byte)
    (hx : x < a ∨ a + bookSize bg1 ≤ x) : memByte (putBook s img bg1 a).mem x = memByte s.mem x := by
  have hlen := length_bookBytes img bg1
  have hlow := h.low
  rw [putBook_plain h]
  exact memByte_plainWrite_outside s _ (by omega)

theorem putBook_touches (s : State) (img : List Byte) (bg1 : Bool) (a : Nat) : Touches [.mem, .dev, .fab, .host] s (putBook s img bg1 a) :=
  agentWrite_touches s _ _ _

theorem booksPut_touches (s : State) (img : List Byte) : Touches [.free, .mem, .dev, .fab, .host] s (booksPut s img) :=
  (drew_touches s 2).andThen ((putBook_touches _ img true _).trans (putBook_touches _ img false _))

/-- Memory changes in the two books only. -/
theorem memByte_booksPut {s : State} {img : List Byte} {x : Nat} (hx : memByte (booksPut s img).mem x ≠ memByte s.mem x) :
    (bookPlace s 0 true ≤ x ∧ x < bookPlace s 0 true + 94208) ∨ (bookPlace s 1 false ≤ x ∧ x < bookPlace s 1 false + 86016) := by
  by_contra hout
  obtain ⟨h1, h2⟩ := not_or.mp hout
  refine hx ?_
  rw [booksPut, memByte_putBook_outside (bookPlace_placed s 1 false) _ _ (by simp only [bookSize, Bool.false_eq_true, if_false]; omega),
    memByte_putBook_outside (bookPlace_placed s 0 true) _ _ (by simp only [bookSize, if_true]; omega), drew_mem]

/-- The second book reads back where the firewall lets it be written. -/
theorem memRead_booksPut {s : State} {img : List Byte} (hmem : MemOk s)
    (hfw : s.fwRefused Source.hall true (bookPlace s 1 false - plainBase) (bookBytes img false).length = none) :
    memRead (booksPut s img).mem (bookPlace s 1 false) (bookBytes img false).length = bookBytes img false := by
  have hplace := bookPlace_placed s 1 false
  set w := putBook (s.drew 2) img true (bookPlace s 0 true) with hw
  have hwf : MemOk w := memOk_agentWrite _ _ _ (memOk_of_only (drew_only s 2) (by decide) hmem)
  have hfw' : w.fwRefused Source.hall true (bookPlace s 1 false - plainBase) (bookBytes img false).length = none := by
    rw [hw, putBook_plain (bookPlace_placed s 0 true), fwRefused_plainWrite]
    exact (fwRefused_of_parts (s := s) rfl rfl _ _ _ _).trans hfw
  rw [booksPut, putBook_plain hplace, plainWrite_allowed hfw', Nat.add_sub_cancel' hplace.low]
  exact memRead_memWrite _ _ hwf

/-! ### Fuses -/

/-- Measurements and the list of loaded bundles stay, and nothing changes but the security block and the events. -/
structure KeepsLoads (s t : State) : Prop where
  touches : Touches [.sec, .dev, .host] s t
  meas : t.sec.meas = s.sec.meas
  bundles : t.sec.bundles = s.sec.bundles

theorem KeepsLoads.refl (s : State) : KeepsLoads s s := ⟨.refl _ s, rfl, rfl⟩

theorem KeepsLoads.trans {s t u : State} (h : KeepsLoads s t) (k : KeepsLoads t u) : KeepsLoads s u :=
  ⟨h.touches.trans k.touches, k.meas.trans h.meas, k.bundles.trans h.bundles⟩

theorem KeepsLoads.raise (s : State) (y c : Nat) (bs : List Byte) : KeepsLoads s (s.raise y c bs) := by
  have h := raise_touches s y c bs
  have hsec : (s.raise y c bs).sec = s.sec := h.part .sec
  exact ⟨h.mono, by rw [hsec], by rw [hsec]⟩

theorem KeepsLoads.modSec (s : State) (f : Security → Security) (hm : (f s.sec).meas = s.sec.meas) (hb : (f s.sec).bundles = s.sec.bundles) :
    KeepsLoads s (s.modSec f) := ⟨(modSec_touches s f).mono, hm, hb⟩

theorem advanceFuses_keeps (s : State) (b : List Byte) : KeepsLoads s (s.advanceFuses b) := by
  unfold State.advanceFuses
  extract_lets ty old s1 t1 was s2
  have h1 : KeepsLoads s t1 := by
    unfold t1
    split
    · exact (KeepsLoads.modSec s _ rfl rfl).trans (.raise _ _ _ _)
    · exact .refl s
  have h2 : KeepsLoads s s2 := h1.trans (.modSec t1 _ rfl rfl)
  split
  · split
    · exact h2
    · exact h2.trans (.raise _ _ _ _)
  · exact h1

/-! ### The bundle -/

/-- The cell with a bundle's digest. -/
def withBundle (img : List Byte) (x : Cell) : Cell := { x with bundle := some (Config.shake256 (img.take 512)) }

/-- The security block with one more bundle. -/
def withLoad (c : CellId) (img : List Byte) (x : Security) : Security := { x with bundles := x.bundles ++ [(c, img.take 512)] }

/-- The cell has the bundle, and its books are still to be put. -/
def bundleNoted (s : State) (c : CellId) (img : List Byte) : State := (s.modCell c (withBundle img)).modSec (withLoad c img)

/-- The bundle noted and its books put. -/
def bundlePut (s : State) (c : CellId) (img : List Byte) : State := (bundleNoted s c img).loadBooks c img

theorem bundlePut_touches (s : State) (c : CellId) (img : List Byte) :
    Touches [.cells, .sec, .free, .mem, .dev, .fab, .host] s (bundlePut s c img) :=
  ((modCell_touches s c _).andThen (modSec_touches _ _) (rs := [.cells, .sec])).andThen
    ((booksPut_touches _ img).andThen (modCell_touches _ c _) (rs := [.free, .mem, .dev, .fab, .host, .cells]))

theorem extend_touches (s : State) (n : Fin 8) (v : List Byte) : Touches [.sec] s (s.extend n v) := modSec_touches s _

/-- What follows the books keeps all but fuses, measurement 3 and what is sent. -/
theorem loadBundle_after (s : State) (c : CellId) (img : List Byte) :
    Touches [.sec, .dev, .host, .qps, .valley, .out] (bundlePut s c img) (s.loadBundle c img) ∧
    (s.loadBundle c img).sec.meas = ((bundlePut s c img).extend 3 (imgMeasure img)).sec.meas ∧
    (s.loadBundle c img).sec.bundles = (bundlePut s c img).sec.bundles := by
  have hkeep := advanceFuses_keeps ((bundlePut s c img).extend 3 (imgMeasure img)) (img.take 512)
  have hmir := mirror_touches (((bundlePut s c img).extend 3 (imgMeasure img)).advanceFuses (img.take 512))
    ([2, BitVec.ofNat 8 c.val] ++ digestBytes (Config.shake256 (img.take 512)))
  have hsec : (s.loadBundle c img).sec = (((bundlePut s c img).extend 3 (imgMeasure img)).advanceFuses (img.take 512)).sec := hmir.part .sec
  refine ⟨((extend_touches _ 3 _).andThen hkeep.touches (rs := [.sec, .dev, .host])).andThen hmir, ?_, ?_⟩
  · rw [hsec, hkeep.meas]
  · rw [hsec, hkeep.bundles]
    rfl

theorem loadBundle_touches (s : State) (c : CellId) (img : List Byte) :
    Touches [.cells, .sec, .mem, .fab, .free, .valley, .dev, .host, .qps, .out] s (s.loadBundle c img) :=
  (bundlePut_touches s c img).andThen (loadBundle_after s c img).1

/-- The cell with its bundle and one more set of books. -/
theorem cell_loadBundle (s : State) (c : CellId) (img : List Byte) :
    (s.loadBundle c img).cell c = withBooks (booksNow s c) (withBundle img (s.cell c)) ∧ OtherCells c s (s.loadBundle c img) := by
  have hnow : booksNow (bundleNoted s c img) c = booksNow s c := by
    have hset : SameSettings s (bundleNoted s c img) := (SameSettings.modCell s c (withBundle img)).trans (.of_cells rfl rfl)
    simp only [booksNow, hset.procNow, hset.running]
    rfl
  have hput : (booksPut (bundleNoted s c img) img).cells = (s.modCell c (withBundle img)).cells := (booksPut_touches _ img).part .cells
  obtain ⟨hcell, hother⟩ := cell_of_modCell (s := booksPut (bundleNoted s c img) img) (f := withBooks (booksNow s c)) (c := c)
    (t := s.loadBundle c img) (by rw [show (s.loadBundle c img).cells = (bundlePut s c img).cells from (loadBundle_after s c img).1.part .cells,
      bundlePut, loadBooks_eq, hnow])
  obtain ⟨hcell0, hother0⟩ := cell_of_modCell hput
  exact ⟨by rw [hcell, hcell0], otherCells_trans hother0 hother⟩

theorem mem_loadBundle (s : State) (c : CellId) (img : List Byte) : (s.loadBundle c img).mem = (booksPut (bundleNoted s c img) img).mem :=
  (loadBundle_after s c img).1.part .mem

theorem sec_bundlePut (s : State) (c : CellId) (img : List Byte) : (bundlePut s c img).sec = withLoad c img s.sec :=
  (booksPut_touches (bundleNoted s c img) img).part .sec

theorem bundles_loadBundle (s : State) (c : CellId) (img : List Byte) : (s.loadBundle c img).sec.bundles = s.sec.bundles ++ [(c, img.take 512)] := by
  rw [(loadBundle_after s c img).2.2, sec_bundlePut, withLoad]

theorem meas_loadBundle (s : State) (c : CellId) (img : List Byte) :
    vget (s.loadBundle c img).sec.meas 3 = Config.shake512 (digestBytes (vget s.sec.meas 3) ++ imgMeasure img) := by
  have hext : ((bundlePut s c img).extend 3 (imgMeasure img)).sec.meas =
      vmod (bundlePut s c img).sec.meas 3 fun m => Config.shake512 (digestBytes m ++ imgMeasure img) := rfl
  rw [(loadBundle_after s c img).2.1, hext, vget_vmod_same, sec_bundlePut, withLoad]

/-! ### BUNDLE_LOAD -/

/-- What BUNDLE_LOAD takes. -/
abbrev bundleItems (id : Nat) (v : List Byte) : Option Bool := if id = 0x0101 then some (inRange 0 15 v) else chunkItems id v

/-- What a finish of BUNDLE_LOAD does with a verified image. -/
def bundleFinish (c : CellId) (img : List Byte) (s : State) : Reply := Reply.ok (s.loadBundle c img)

/-- What BUNDLE_LOAD replies to a request that names the cell. -/
theorem bundle_reply {m : MboxId} : ∃ f, (∀ s, exec (.bundleLoad m) s = .next (s.mbCommand m 0x11 bundleItems f)) ∧
    ∀ (l : List MItem) (c : CellId) (s : State), itemNum l 0x0101 = some c.val →
      f l s = (s.transfer 0x11 3 l (bundleFinish c), .background) := by
  refine ⟨_, fun s => rfl, fun l c s hc => ?_⟩
  simp only [hc, Option.getD_some, cellOf_val]
  rfl

section
variable {s : State} {m : MboxId} {l : List MItem} {c : CellId} {n : Nat} {img : List Byte}

/-- A state that answers the load of a bundle. -/
structure BundleLoaded (c : CellId) (img : List Byte) (s t : State) : Prop where
  cell : t.cell c = withBooks (booksNow s c) (withBundle img (s.cell c))
  others : OtherCells c s t
  outside : ∀ a, memByte t.mem a ≠ memByte s.mem a → (bookPlace s 0 true ≤ a ∧ a < bookPlace s 0 true + 94208) ∨
    bookPlace s 1 false ≤ a ∧ a < bookPlace s 1 false + 86016
  book : MemOk s → s.fwRefused Source.hall true (bookPlace s 1 false - plainBase) (bookBytes img false).length = none →
    memRead t.mem (bookPlace s 1 false) (bookBytes img false).length = bookBytes img false
  bundles : t.sec.bundles = s.sec.bundles ++ [(c, img.take 512)]
  meas : vget t.sec.meas 3 = Config.shake512 (digestBytes (vget s.sec.meas 3) ++ imgMeasure img)

theorem bundleLoaded_of_answer {t : State} (ht : OnlyChanges mbParts (s.loadBundle c img) t) : BundleLoaded c img s t := by
  have hcells : t.cells = (s.loadBundle c img).cells := ht.2 .cells (by decide)
  have hmem : t.mem = (booksPut (bundleNoted s c img) img).mem := (ht.2 .mem (by decide)).trans (mem_loadBundle s c img)
  have hsec : t.sec = (s.loadBundle c img).sec := ht.2 .sec (by decide)
  obtain ⟨hcell, hother⟩ := cell_loadBundle s c img
  refine ⟨by rw [cell_eq_of_cells hcells, hcell], fun d hd => by rw [cell_eq_of_cells hcells, hother d hd], fun a ha => ?_, fun hok hfw => ?_,
    by rw [hsec, bundles_loadBundle], by rw [hsec, meas_loadBundle]⟩
  · rw [hmem] at ha
    exact memByte_booksPut (s := bundleNoted s c img) ha
  · rw [hmem]
    exact memRead_booksPut (s := bundleNoted s c img) hok ((fwRefused_of_parts (s := s) rfl rfl _ _ _ _).trans hfw)

theorem bundle_loads (h : MbRuns s m 0x11 bundleItems l) (hc : itemNum l 0x0101 = some c.val) (g : Finishes s l 0x11 n)
    (himg : memRead s.mem s.stagingAddr n = img) (hok : s.verifyImage 3 img = none) :
    MbStarts (.bundleLoad m) s m 0x11 (itemsCell l) [] [.cells, .sec, .mem, .fab, .free, .valley] (BundleLoaded c img s) := by
  subst himg
  obtain ⟨f, hexec, hf⟩ := bundle_reply (m := m)
  have hreply := transfer_verified (fin := bundleFinish c) (g.quieted m) ((verifyImage_quieted s m 3 _).trans hok)
  refine mbStarts_of h rfl (hexec s) ((hf l c _ hc).trans (congrArg (·, Hold.background) hreply))
    (.of_touches ((modSec_touches _ (ownedBy none)).andThen (loadBundle_touches _ c _)
      (rs := [.cells, .sec, .mem, .fab, .free, .valley, .dev, .host, .qps, .out]))) fun t ht => ?_
  obtain ⟨hcell, hothers, houtside, hbook, hbundles, hmeas⟩ := bundleLoaded_of_answer ht
  exact ⟨hcell, hothers, houtside, fun hmem hfw => hbook hmem ((fwRefused_of_parts (s := s) rfl rfl _ _ _ _).trans hfw), hbundles, hmeas⟩

theorem bundle_rejected (h : MbRuns s m 0x11 bundleItems l) (hc : itemNum l 0x0101 = some c.val) (g : Finishes s l 0x11 n)
    (himg : memRead s.mem s.stagingAddr n = img) (hbad : s.verifyImage 3 img ≠ none) :
    MbDoes (.bundleLoad m) s m 0x11 7 0 [] [.sec] fun t => t.sec = { s.sec with owner := none } := by
  subst himg
  obtain ⟨f, hexec, hf⟩ := bundle_reply (m := m)
  exact finish_rejected h (hexec s) (hf l c _ hc) g hbad

end

end Sys2Proof.Safety
end

/-! Attestation and debug unlock (R456, R464, R465), and the commands of the security block put together. -/
section
namespace Sys2Proof.Safety
open Sys2Proof.Machine

/-! ### Items that a command takes -/

theorem allowed_of_firstFault {allow : Nat → List Byte → Option Bool} {seen : List Nat} {l : List MItem} (h : firstFault allow seen l = none)
    {i : MItem} (hi : i ∈ l) : allow i.id i.val = some true := by
  induction l generalizing seen with
  | nil => simp at hi
  | cons a l ih =>
    unfold firstFault at h
    split at h
    · simp at h
    · rename_i hgood
      rcases List.mem_cons.mp hi with rfl | hi
      · exact not_not.mp fun hne => hgood (.inr hne)
      · exact ih h hi

/-- An item of a request that a command takes is one that it allows. -/
theorem MbRuns.allowed {s : State} {m : MboxId} {code : Nat} {allow : Nat → List Byte → Option Bool} {l : List MItem} (h : MbRuns s m code allow l)
    {id : Nat} {v : List Byte} (hv : itemVal l id = some v) : allow id v = some true := by
  obtain ⟨i, hfind, rfl⟩ := Option.map_eq_some_iff.mp hv
  have hid : i.id = id := by simpa using List.find?_some hfind
  exact hid ▸ allowed_of_firstFault h.good (List.mem_of_find?_eq_some hfind)

/-! ### ATTEST -/

theorem length_digestBytes {w : Nat} (x : BitVec w) : (digestBytes x).length = w / 8 := length_natLE _ _

theorem length_ptpBytes (t : Int) : (ptpBytes t).length = 12 := by
  simp only [ptpBytes, intLE, List.length_append, length_natLE]

theorem length_measurements (x : Vector (BitVec 512) 8) : ((vlist x).flatMap fun m => digestBytes m).length = 512 := by
  have hlen : (vlist x).length = 8 := by simp [vlist]
  simp only [List.length_flatMap, length_digestBytes, List.map_const', List.sum_replicate, hlen]
  rfl

/-- The report of a nonce of up to 64 bytes has the size of Table 16-7. -/
theorem length_attestBody (s : State) {x : List Byte} (h : x.length ≤ 64) : (s.attestBody x).length = 688 := by
  simp only [State.attestBody, List.length_append, length_natLE, length_digestBytes, length_ptpBytes, length_measurements, List.length_cons,
    List.length_nil, List.length_replicate]
  omega

section
variable {s : State} {m : MboxId} {l : List MItem} {x : List Byte}

/-- What ATTEST takes. -/
abbrev attestItems (id : Nat) (v : List Byte) : Option Bool := if id = 0x0904 then some (decide (1 ≤ v.length) && decide (v.length ≤ 64)) else none

theorem attest_denied (h : MbRuns s m 0x12 attestItems l) (hx : itemVal l 0x0904 = some x) (hkeys : s.sec.keysDead = true) :
    MbDoes (.attest m) s m 0x12 3 0x0904 [] [] fun _ => True := by
  refine mbDoes_of_now (u := quieted s m) h rfl ?_ (.refl _ _) fun _ _ => trivial
  simp only [hx]
  exact if_pos hkeys

theorem attest_signs (h : MbRuns s m 0x12 attestItems l) (hx : itemVal l 0x0904 = some x) (hkeys : s.sec.keysDead = false) :
    (s.attestBody x).length = 688 ∧ MbDoes (.attest m) s m 0x12 0 0
      (itemBytes 0x0905 (s.attestBody x ++ digestBytes (Config.attestSign (s.attestBody x)) ++ List.replicate 14 0) ++
        itemBytes 0x0906 s.certificates.1 ++ itemBytes 0x0907 s.certificates.2) [] fun _ => True := by
  have hlen : x.length ≤ 64 := by
    have := h.allowed hx
    simp only [attestItems, if_true, Option.some.injEq, Bool.and_eq_true, decide_eq_true_eq] at this
    exact this.2
  refine ⟨length_attestBody s hlen, mbDoes_of_now (u := quieted s m) h rfl ?_ (.refl _ _) fun _ _ => trivial⟩
  simp only [hx]
  exact if_neg (by rw [show (quieted s m).sec.keysDead = false from hkeys]; exact nofun)

/-! ### DEBUG_UNLOCK -/

/-- What DEBUG_UNLOCK takes. -/
abbrev debugItems (id : Nat) (v : List Byte) : Option Bool :=
  if id = 0x090A then some (inRange 1 2 v) else if id = 0x0909 then some (sized 114 v) else none

/-- A disabled port denies every request. -/
theorem debug_disabled (h : MbRuns s m 0x13 debugItems l) (hd : Config.debugDisable = true) :
    MbDoes (.debugUnlock m) s m 0x13 3 0x090A [] [] fun _ => True :=
  mbDoes_of_now (u := quieted s m) h rfl (if_pos hd) (.refl _ _) fun _ _ => trivial

theorem debug_challenges {k : Nat} (h : MbRuns s m 0x13 debugItems l) (hd : ¬ Config.debugDisable = true) (hr : itemVal l 0x0909 = none)
    (hk : itemNum l 0x090A = some k) : MbDoes (.debugUnlock m) s m 0x13 0 0 (itemBytes 0x0908 (s.challenge k)) [.sec] fun t =>
      t.sec = { s.sec with challenge := some (s.challenge k, s.up + ns 60000000000), randoms := s.sec.randoms + 1 } := by
  refine mbDoes_of_now (u := (quieted s m).modSec fun x => { x with
    challenge := some (s.challenge k, s.up + ns 60000000000), randoms := x.randoms + 1 }) h rfl ?_ (.of_touches (modSec_touches _ _))
    fun t ht => ht.2 .sec (by decide)
  simp only [hr, hk]
  exact if_neg hd

section
variable {r c : List Byte} {i : Int}

/-- The challenge is used up. -/
def challengeSpent (x : Security) : Security := { x with challenge := none }

/-- The security block unlocked by the response to a challenge; level 2 makes the keys unusable. -/
def unlockedBy (c : List Byte) (x : Security) : Security :=
  { x with debug := BitVec.ofNat 2 (challengeLevel c), keysDead := x.keysDead || challengeLevel c == 2, unlocks := x.unlocks ++ [c] }

/-- The challenge used up, the levels unlocked, the unlock measured. -/
def unlocked (s : State) (c : List Byte) : State := ((s.modSec challengeSpent).modSec (unlockedBy c)).extend 4 c

theorem unlocked_touches (s : State) (c : List Byte) : Touches [.sec] s (unlocked s c) :=
  ((modSec_touches _ _).trans (modSec_touches _ _)).trans (extend_touches _ _ _)

/-- The debug key has signed that response to that challenge. -/
abbrev DebugSigned (c r : List Byte) : Prop :=
  Config.shake256 Config.debugKey = Config.debugKeyHash ∧ Config.ed448Verify Config.debugKey c r = true

/-- What an enabled port replies to a response while there is a challenge. -/
theorem debug_reply (m : MboxId) (hd : ¬ Config.debugDisable = true) (hr : itemVal l 0x0909 = some r) :
    ∃ f, (∀ s, exec (.debugUnlock m) s = .next (s.mbNow m 0x13 debugItems f)) ∧ ∀ s : State, s.sec.challenge = some (c, i) →
      f l s = if i ≤ s.up then Reply.bad s stDenied 0x0909
        else if DebugSigned c r then Reply.ok ((unlocked s c).raise 0x0904 0 [BitVec.ofNat 8 (challengeLevel c)])
        else Reply.bad (s.modSec challengeSpent) stFault 0 := by
  refine ⟨_, fun s => rfl, fun s hc => ?_⟩
  rw [if_neg hd]
  simp only [hr, hc]
  rfl

/-- A response that comes at the expiry or after is denied. -/
theorem debug_expired (h : MbRuns s m 0x13 debugItems l) (hd : ¬ Config.debugDisable = true) (hr : itemVal l 0x0909 = some r)
    (hc : s.sec.challenge = some (c, i)) (hi : i ≤ s.up) : MbDoes (.debugUnlock m) s m 0x13 3 0x0909 [] [] fun _ => True := by
  obtain ⟨f, hexec, hf⟩ := debug_reply (c := c) (i := i) m hd hr
  exact mbDoes_of_now h (hexec s) ((hf (quieted s m) hc).trans (if_pos hi)) (.refl _ _) fun _ _ => trivial

theorem debug_unlocks (h : MbRuns s m 0x13 debugItems l) (hd : ¬ Config.debugDisable = true) (hr : itemVal l 0x0909 = some r)
    (hc : s.sec.challenge = some (c, i)) (hi : s.up < i) (hsig : DebugSigned c r) :
    MbDoes (.debugUnlock m) s m 0x13 0 0 [] [.sec] fun t => t.sec.debug = BitVec.ofNat 2 (challengeLevel c) ∧
      t.sec.challenge = none ∧ (t.sec.keysDead = true ↔ s.sec.keysDead = true ∨ challengeLevel c = 2) ∧
      vget t.sec.meas 4 = Config.shake512 (digestBytes (vget s.sec.meas 4) ++ c) := by
  obtain ⟨f, hexec, hf⟩ := debug_reply (c := c) (i := i) m hd hr
  have hraise := raise_touches (unlocked (quieted s m) c) 0x0904 0 [BitVec.ofNat 8 (challengeLevel c)]
  refine mbDoes_of_now h (hexec s) ((hf (quieted s m) hc).trans ((if_neg (Int.not_le.mpr hi)).trans (if_pos hsig)))
    (.of_touches ((unlocked_touches _ c).andThen hraise (rs := [.sec, .dev, .host]))) fun t ht => ?_
  have hsec : t.sec = (unlocked (quieted s m) c).sec := (ht.2 .sec (by decide)).trans (hraise.part .sec)
  rw [hsec]
  refine ⟨rfl, rfl, ?_, vget_vmod_same _ _ _⟩
  show (s.sec.keysDead || challengeLevel c == 2) = true ↔ _
  simp

/-- A response that is not signed by the debug key uses the challenge up. -/
theorem debug_fails (h : MbRuns s m 0x13 debugItems l) (hd : ¬ Config.debugDisable = true) (hr : itemVal l 0x0909 = some r)
    (hc : s.sec.challenge = some (c, i)) (hi : s.up < i) (hsig : ¬ DebugSigned c r) :
    MbDoes (.debugUnlock m) s m 0x13 7 0 [] [.sec] fun t => t.sec = { s.sec with challenge := none } := by
  obtain ⟨f, hexec, hf⟩ := debug_reply (c := c) (i := i) m hd hr
  exact mbDoes_of_now h (hexec s) ((hf (quieted s m) hc).trans ((if_neg (Int.not_le.mpr hi)).trans (if_neg hsig)))
    (.of_touches (modSec_touches _ challengeSpent)) fun t ht => ht.2 .sec (by decide)

end

end

/-! ### Time-outs -/

theorem stagingTimeoutEffect_due {s : State} {o : Nat} {i : Int} (h : s.sec.owner = some (o, i)) (hi : ns 10000000000 ≤ s.up - i) :
    stagingTimeoutEffect s = s.modSec (ownedBy none) := by
  rw [stagingTimeoutEffect, h]
  exact if_pos hi

theorem debugChallengeExpiryEffect_due {s : State} {c : List Byte} {i : Int} (h : s.sec.challenge = some (c, i)) (hi : i ≤ s.up) :
    debugChallengeExpiryEffect s = s.modSec challengeSpent := by
  rw [debugChallengeExpiryEffect, h]
  exact if_pos hi

/-- Settles O50: a transfer acts on what verifies and frees the area either way; the directory written in both copies names the new slot,
and the books of a bundle lie in Plain. -/
theorem securityCommandsVerify : Obligations.SecurityCommandsVerify := by
  refine ⟨?_, ?_, ?_, ?_, ?_, ?_⟩
  · intro s m l bs off ty h hready hty
    refine ⟨fun hv ho hn hown hfit => firmware_chunk h hready hty hv ho hn hown hfit, fun i hown => firmware_conflict h hty hown,
      fun n hv ho hn hfit hown hwf => ?_⟩
    have g : Finishes s l 0x10 n := ⟨hready, hown, hv, ho, hn, hfit⟩
    split
    case isTrue hok => exact firmware_writes h hty g hwf hok
    case isFalse hbad => exact firmware_rejected h hty g hbad
  · intro s m l c n img h hready hc hv ho hn hfit hown himg
    have g : Finishes s l 0x11 n := ⟨hready, hown, hv, ho, hn, hfit⟩
    split
    case isTrue hok =>
      obtain ⟨t, he, hphase, hgone, ⟨hcell, hothers, houtside, hbook, hbundles, hmeas⟩, hframe⟩ := bundle_loads h hc g himg hok
      have hbg1 := bookPlace_placed s 0 true
      have hbg2 := bookPlace_placed s 1 false
      refine ⟨t, he, hphase, hgone, ⟨⟨booksNow s c, hcell, rfl, hbg1.low, hbg1.high, hbg2.low, hbg2.high, hbg1.aligned, hbg2.aligned,
        houtside, ?_⟩, hbundles, hmeas, hothers⟩, hframe⟩
      rintro bs rfl hmem hfw
      exact hbook hmem hfw
    case isFalse hbad => exact bundle_rejected h hc g himg hbad
  · exact fun s o i hown hi => ⟨_, exec_next rfl (stagingTimeoutEffect_due hown hi), rfl⟩
  · exact fun s m l x h hx => ⟨attest_denied h hx, attest_signs h hx⟩
  · intro s m l h
    refine ⟨?_, fun k hr hk => ?_, fun r c i hr hc => ⟨fun hi => ?_, fun hi => ?_⟩⟩
    · cases hd : Config.debugDisable
      · exact .inl rfl
      · exact .inr (debug_disabled h hd)
    · split
      case isTrue hd => exact debug_disabled h hd
      case isFalse hd => exact debug_challenges h hd hr hk
    · split
      case isTrue hd => exact debug_disabled h hd
      case isFalse hd => exact debug_expired h hd hr hc hi
    · split
      case isTrue hd => exact debug_disabled h hd
      case isFalse hd =>
        split
        case isTrue hsig => exact debug_unlocks h hd hr hc hi hsig
        case isFalse hsig => exact debug_fails h hd hr hc hi hsig
  · exact fun s c i hc hi => ⟨_, exec_next rfl (debugChallengeExpiryEffect_due hc hi), rfl⟩

end Sys2Proof.Safety
end

/-! What the walker of the history cache leaves alone, and the records that it reads and writes (R196-R201, R205, R234). -/
section
namespace Sys2Proof.Safety
open Sys2Proof.Machine

/-! ### Firewall and power -/

/-- Firewall and power let the same accesses through. -/
structure SameWall (s t : State) : Prop where
  pwr : t.pwr = s.pwr
  base : t.fab.fwBase = s.fab.fwBase
  limit : t.fab.fwLimit = s.fab.fwLimit
  attr : t.fab.fwAttr = s.fab.fwAttr

theorem SameReads.wall {s t : State} (h : SameReads s t) : SameWall s t := ⟨h.pwr, h.base, h.limit, h.attr⟩

theorem SameWall.of_parts {s t : State} (hp : t.pwr = s.pwr) (hf : t.fab = s.fab) : SameWall s t := ⟨hp, by rw [hf], by rw [hf], by rw [hf]⟩

namespace SameWall

theorem refl (s : State) : SameWall s s := ⟨rfl, rfl, rfl, rfl⟩

theorem trans {s t u : State} (h : SameWall s t) (k : SameWall t u) : SameWall s u :=
  ⟨k.pwr.trans h.pwr, k.base.trans h.base, k.limit.trans h.limit, k.attr.trans h.attr⟩

theorem domainOn {s t : State} (h : SameWall s t) (d : Nat) : t.domainOn d = s.domainOn d := by rw [State.domainOn, h.pwr]; rfl

/-- What the firewall refuses does not depend on the memory. -/
theorem refused {s t : State} (h : SameWall s t) (src : Source) (w : Bool) (off n : Nat) : t.fwRefused src w off n = s.fwRefused src w off n :=
  (fwRefused_of_parts (s := t) (t := { t with mem := s.mem }) rfl rfl src w off n).symm.trans
    (SameReads.refused (s := s) (t := { t with mem := s.mem }) ⟨rfl, h.pwr, h.base, h.limit, h.attr⟩ src w off n)

end SameWall

/-! ### The frame of an access by the unit -/

/-- Of the history unit no more than reference counts, the look-aside buffer and the SRAM change. -/
structure HistKept (h k : Hist) : Prop where
  base : k.trackBase = h.trackBase
  rings : k.rings = h.rings
  active : k.active = h.active
  pin : k.pin = h.pin
  last : k.last = h.last
  oldValid : k.oldValid = h.oldValid

namespace HistKept

theorem refl (h : Hist) : HistKept h h := ⟨rfl, rfl, rfl, rfl, rfl, rfl⟩

theorem trans {h k l : Hist} (a : HistKept h k) (b : HistKept k l) : HistKept h l :=
  ⟨b.base.trans a.base, b.rings.trans a.rings, b.active.trans a.active, b.pin.trans a.pin, b.last.trans a.last, b.oldValid.trans a.oldValid⟩

theorem foldl {α : Type} (f : Hist → α → Hist) (hf : ∀ h a, HistKept h (f h a)) (l : List α) (h : Hist) : HistKept h (l.foldl f h) := by
  induction l generalizing h with
  | nil => exact refl h
  | cons a l ih => exact (hf h a).trans (ih (f h a))

end HistKept

/-- Any change of reference counts and of the buffer. -/
theorem histKept_refs (h : Hist) (r : Sparse Nat) (l : Vector (List LabEntry) 64) : HistKept h { h with refcnt := r, lab := l } :=
  ⟨rfl, rfl, rfl, rfl, rfl, rfl⟩

theorem histKept_ref (h : Hist) (f n : Nat) : HistKept h (h.ref f n) := ⟨rfl, rfl, rfl, rfl, rfl, rfl⟩

theorem histKept_labInval (h : Hist) (t : TrackId) (lo hi : Nat) : HistKept h (h.labInval t lo hi) := ⟨rfl, rfl, rfl, rfl, rfl, rfl⟩

/-- An access by the unit: the parts named, with firewall, the form of the memory and most of the unit as they were. -/
structure Walked (ps : List Part) (s t : State) : Prop where
  only : OnlyChanges ps s t
  wall : SameWall s t
  memOk : MemOk s → MemOk t
  hist : HistKept s.hist t.hist

namespace Walked

theorem refl (ps : List Part) (s : State) : Walked ps s s := ⟨onlyChanges_refl ps s, .refl s, id, .refl _⟩

theorem mono {ps qs : List Part} {s t : State} (h : Walked ps s t) (hs : ∀ p ∈ ps, p ∈ qs := by decide) : Walked qs s t :=
  ⟨onlyChanges_mono h.only hs, h.wall, h.memOk, h.hist⟩

theorem trans {ps : List Part} {s t u : State} (h : Walked ps s t) (k : Walked ps t u) : Walked ps s u :=
  ⟨onlyChanges_trans h.only k.only, h.wall.trans k.wall, k.memOk ∘ h.memOk, h.hist.trans k.hist⟩

/-- Two accesses one after the other, each of which changes no more than the parts named. -/
theorem andThen {ps qs rs : List Part} {s t u : State} (h : Walked ps s t) (k : Walked qs t u) (hp : ∀ p ∈ ps, p ∈ rs := by decide)
    (hq : ∀ p ∈ qs, p ∈ rs := by decide) : Walked rs s u :=
  (h.mono hp).trans (k.mono hq)

theorem foldl {α : Type} {ps : List Part} (f : State → α → State) (hf : ∀ s a, Walked ps s (f s a)) (l : List α) (s : State) :
    Walked ps s (l.foldl f s) := by
  induction l generalizing s with
  | nil => exact refl ps s
  | cons a l ih => exact (hf s a).trans (ih (f s a))

/-- What names neither memory nor unit, power or fabric. -/
theorem of_only {ps : List Part} {s t : State} (h : OnlyChanges ps s t) (hm : Part.mem ∉ ps := by decide) (hh : Part.hist ∉ ps := by decide)
    (hp : Part.pwr ∉ ps := by decide) (hf : Part.fab ∉ ps := by decide) : Walked ps s t :=
  ⟨h, (SameReads.of_only h hm hp hf).wall, memOk_of_only h hm, by rw [show t.hist = s.hist from h.2 .hist hh]; exact .refl _⟩

/-- A part that is not named is the same. -/
theorem part {ps : List Part} {s t : State} (h : Walked ps s t) (p : Part) (hp : p ∉ ps := by decide) : p.same s t := h.only.2 p hp

theorem trackAddr {ps : List Part} {s t : State} (h : Walked ps s t) (x : TrackId) : t.hist.trackAddr x = s.hist.trackAddr x := by
  rw [Hist.trackAddr, h.hist.base]; rfl

theorem prefixAddr {ps : List Part} {s t : State} (h : Walked ps s t) (c : CellId) : t.hist.prefixAddr c = s.hist.prefixAddr c := by
  rw [Hist.prefixAddr, h.hist.base]; rfl

end Walked

theorem devAdd_walked (s : State) (c : DevCtr) (k : Nat) : Walked [.dev] s (s.devAdd c k) := .of_only (devAdd_only s c k)

theorem devInc_walked (s : State) (c : DevCtr) : Walked [.dev] s (s.devInc c) := devAdd_walked s c 1

theorem drew_walked (s : State) (k : Nat) : Walked [.free] s (s.drew k) := .of_only (drew_only s k)

theorem modHist_walked (s : State) {f : Hist → Hist} (hf : HistKept s.hist (f s.hist)) : Walked [.hist] s (s.modHist f) :=
  ⟨(modHist_touches s f).only, .of_parts rfl rfl, id, hf⟩

theorem agentRead_walked (s : State) (src : Source) (a n : Nat) : Walked [.dev, .fab, .host] s (s.agentRead src a n).2 :=
  ⟨agentRead_only s src a n, (agentRead_reads s src a n).wall, memOk_agentRead src a n,
    by rw [show (s.agentRead src a n).2.hist = s.hist from (agentRead_only s src a n).2 .hist (by decide)]; exact .refl _⟩

theorem agentWrite_wall (s : State) (src : Source) (a : Nat) (bs : List Byte) : SameWall s (s.agentWrite src a bs) := by
  unfold State.agentWrite
  split
  · unfold State.localWrite
    split
    · exact .of_parts rfl rfl
    · exact .refl s
  · unfold State.plainWrite
    split
    · exact .of_parts rfl rfl
    · exact (fwViolation_reads s src _ _ _).wall
  · exact .of_parts rfl rfl
  · exact .refl s

theorem agentWrite_walked (s : State) (src : Source) (a : Nat) (bs : List Byte) : Walked [.mem, .dev, .fab, .host] s (s.agentWrite src a bs) :=
  ⟨agentWrite_only s src a bs, agentWrite_wall s src a bs, memOk_agentWrite src a bs,
    by rw [show (s.agentWrite src a bs).hist = s.hist from (agentWrite_only s src a bs).2 .hist (by decide)]; exact .refl _⟩

/-! ### Places -/

/-- An access wholly in a stall memory is at the memory's own addresses. -/
theorem placeOf_eq_stallMem {a n : Nat} {m : StallId} {off : Nat} (hn : 0 < n) (h : placeOf a n = .stallMem m off) :
    a = stallBase m + off ∧ 0x10000000 ≤ a ∧ a + n ≤ 0x18000000 := by
  unfold placeOf at h
  rw [if_neg hn.ne'] at h
  dsimp only at h
  split at h
  · cases h
  split at h
  · rename_i hin
    split at h
    · obtain ⟨rfl, rfl⟩ := Place.stallMem.inj h
      simp only [stallBase]
      omega
    · cases h
  repeat' split at h
  all_goals cases h

/-- An access wholly in Plain is at Plain's own addresses. -/
theorem placeOf_eq_plain {a n off : Nat} (h : placeOf a n = .plain off) : a = plainBase + off := by
  unfold placeOf at h
  dsimp only at h
  generalize (if n = 0 then 0 else n - 1) = e at h
  split at h
  · cases h
  split at h
  · split at h <;> cases h
  split at h
  · rename_i hin
    rw [← Place.plain.inj h]
    exact (Nat.add_sub_cancel' hin.1).symm
  repeat' split at h
  all_goals cases h

/-! ### Records -/

/-- What was written reads back. -/
theorem memRead_written {m : Mem} (hm : Mem.wf m = true) (a : Nat) {bs : List Byte} {n : Nat} (hn : bs.length = n) :
    memRead (memWrite m a bs) a n = bs := by
  rw [← hn]
  exact memRead_memWrite a bs hm

theorem length_pteBytes (p : Pte) : p.bytes.length = 8 := length_natLE 8 _

theorem length_flatMap_const {α : Type} (g : α → List Byte) (n : Nat) (hg : ∀ a, (g a).length = n) (l : List α) :
    (l.flatMap g).length = l.length * n := by
  simp [List.length_flatMap, hg]

/-- A record of 64 ring positions and 128 page-table entries. -/
structure TrackShaped (x : TrackRec) : Prop where
  stamps : x.stamps.length = 64
  ptes : x.ptes.length = 128

theorem length_trackBytes {x : TrackRec} (h : TrackShaped x) : x.bytes.length = 2048 := by
  simp only [TrackRec.bytes, List.length_append, List.length_cons, List.length_nil, List.length_replicate, length_natLE,
    length_flatMap_const _ 4 (length_natLE 4), length_flatMap_const _ 8 length_pteBytes, h.stamps, h.ptes]

theorem trackShaped_trackRecOf (b : List Byte) : TrackShaped (trackRecOf b) := ⟨by simp [trackRecOf], by simp [trackRecOf]⟩

theorem trackShaped_trackRec (s : State) (t : TrackId) : TrackShaped (s.trackRec t).1 := trackShaped_trackRecOf _

theorem length_prefixBytes {x : PrefixRec} (h : x.ptes.length = 64) : x.bytes.length = 1024 := by
  simp only [PrefixRec.bytes, List.length_append, List.length_replicate, length_natLE, length_flatMap_const _ 8 length_pteBytes, h]

theorem length_prefixRec_ptes (s : State) (c : CellId) : (s.prefixRec c).1.ptes.length = 64 := by
  simp [State.prefixRec, prefixRecOf]

@[simp] theorem length_markShared (h : Hist) (l : List Pte) : (h.markShared l).length = l.length := List.length_map _

theorem trackRec_eq (s : State) (t : TrackId) : s.trackRec t =
    (trackRecOf (s.agentRead (histSource 0) (s.hist.trackAddr t) 2048).1, (s.agentRead (histSource 0) (s.hist.trackAddr t) 2048).2) := rfl

theorem prefixRec_eq (s : State) (c : CellId) : s.prefixRec c =
    (prefixRecOf (s.agentRead (histSource 0) (s.hist.prefixAddr c) 1024).1, (s.agentRead (histSource 0) (s.hist.prefixAddr c) 1024).2) := rfl

/-- A record read leaves what the access leaves. -/
theorem agentRead_then {α : Type} {P : State → Prop} (f : List Byte → α) (s : State) (src : Source) (a n : Nat) (h : P (s.agentRead src a n).2) :
    P (let r := s.agentRead src a n; (f r.1, r.2)).2 := h

theorem trackRec_walked (s : State) (t : TrackId) : Walked [.dev, .fab, .host] s (s.trackRec t).2 :=
  agentRead_then trackRecOf s (histSource 0) (s.hist.trackAddr t) 2048 (agentRead_walked s _ _ _)

theorem trackRec_reads (s : State) (t : TrackId) : SameReads s (s.trackRec t).2 :=
  agentRead_then trackRecOf s (histSource 0) (s.hist.trackAddr t) 2048 (agentRead_reads s _ _ _)

theorem prefixRec_walked (s : State) (c : CellId) : Walked [.dev, .fab, .host] s (s.prefixRec c).2 :=
  agentRead_then prefixRecOf s (histSource 0) (s.hist.prefixAddr c) 1024 (agentRead_walked s _ _ _)

theorem prefixRec_reads (s : State) (c : CellId) : SameReads s (s.prefixRec c).2 :=
  agentRead_then prefixRecOf s (histSource 0) (s.hist.prefixAddr c) 1024 (agentRead_reads s _ _ _)

/-- Where every read reads the same, so do the records. -/
theorem trackRec_congr {s t : State} (h : SameReads s t) (hb : t.hist.trackBase = s.hist.trackBase) (x : TrackId) :
    (t.trackRec x).1 = (s.trackRec x).1 := by
  have haddr : t.hist.trackAddr x = s.hist.trackAddr x := by rw [Hist.trackAddr, hb]; rfl
  rw [trackRec_eq, trackRec_eq, haddr, h.read]

theorem prefixRec_congr {s t : State} (h : SameReads s t) (hb : t.hist.trackBase = s.hist.trackBase) (c : CellId) :
    (t.prefixRec c).1 = (s.prefixRec c).1 := by
  have haddr : t.hist.prefixAddr c = s.hist.prefixAddr c := by rw [Hist.prefixAddr, hb]; rfl
  rw [prefixRec_eq, prefixRec_eq, haddr, h.read]

theorem putTrack_walked (s : State) (t : TrackId) (x : TrackRec) : Walked [.mem, .dev, .fab, .host] s (s.putTrack t x) := agentWrite_walked s _ _ _

theorem putPrefix_walked (s : State) (c : CellId) (x : PrefixRec) : Walked [.mem, .dev, .fab, .host] s (s.putPrefix c x) := agentWrite_walked s _ _ _

/-- A firm access that may write may read. -/
theorem fwRefused_read_of_write {s : State} {off n : Nat} (h : s.fwRefused (histSource 0) true off n = none) :
    s.fwRefused (histSource 0) false off n = none := by
  rw [State.fwRefused, List.find?_eq_none] at h ⊢
  intro b hb
  have hw := h b hb
  simp only [Bool.not_eq_true', Bool.not_eq_false, State.byteAllowed] at hw ⊢
  split at hw
  · cases hw
  · simp [histSource]

theorem agentRead_plain {s : State} {src : Source} {a n off : Nat} (hp : placeOf a n = .plain off) (hr : s.fwRefused src false off n = none) :
    s.agentRead src a n = (memRead s.mem a n, s) := by
  rw [State.agentRead, hp]
  dsimp only
  rw [State.plainRead, hr, ← placeOf_eq_plain hp]

/-- A record that lies in Plain, where the walker may read it. -/
theorem trackRec_plain {s : State} {t : TrackId} {off : Nat} (hp : placeOf (s.hist.trackAddr t) 2048 = .plain off)
    (hr : s.fwRefused (histSource 0) false off 2048 = none) : s.trackRec t = (trackIn s t, s) := by
  rw [trackRec_eq, agentRead_plain hp hr, trackIn]

/-- A walker that may write a record reads it without a fault. -/
theorem trackRec_mayWrite {s : State} {t : TrackId} (h : WalkerMayWrite s t) : (s.trackRec t).2 = s := by
  obtain ⟨off, hp, hr⟩ := h
  rw [trackRec_plain hp (fwRefused_read_of_write hr)]

theorem Walked.mayWrite {ps : List Part} {s t : State} {x : TrackId} (h : Walked ps s t) (hw : WalkerMayWrite s x) : WalkerMayWrite t x := by
  obtain ⟨off, hp, hr⟩ := hw
  exact ⟨off, by rw [h.trackAddr, hp], by rw [h.wall.refused, hr]⟩

/-- A record that the walker may write. -/
theorem putTrack_mayWrite {s : State} {t : TrackId} (h : WalkerMayWrite s t) {x : TrackRec} (hx : TrackShaped x) :
    s.putTrack t x = { s with mem := memWrite s.mem (s.hist.trackAddr t) x.bytes } := by
  obtain ⟨off, hp, hr⟩ := h
  have hlen := length_trackBytes hx
  rw [State.putTrack, agentWrite_plain (by rw [hlen, hp]), plainWrite_allowed (by rw [hlen, hr]), ← placeOf_eq_plain hp]

/-- It reads back. -/
theorem memRead_putTrack {s : State} {t : TrackId} (h : WalkerMayWrite s t) {x : TrackRec} (hx : TrackShaped x) (hm : MemOk s) :
    memRead (s.putTrack t x).mem (s.hist.trackAddr t) 2048 = x.bytes := by
  rw [putTrack_mayWrite h hx, memRead_written hm _ (length_trackBytes hx)]

theorem putPrefix_mayWrite {s : State} {c : CellId} {off : Nat} (hp : placeOf (s.hist.prefixAddr c) 1024 = .plain off)
    (hr : s.fwRefused (histSource 0) true off 1024 = none) {x : PrefixRec} (hx : x.ptes.length = 64) :
    s.putPrefix c x = { s with mem := memWrite s.mem (s.hist.prefixAddr c) x.bytes } := by
  have hlen := length_prefixBytes hx
  rw [State.putPrefix, agentWrite_plain (by rw [hlen, hp]), plainWrite_allowed (by rw [hlen, hr]), ← placeOf_eq_plain hp]

theorem memRead_putPrefix {s : State} {c : CellId} {off : Nat} (hp : placeOf (s.hist.prefixAddr c) 1024 = .plain off)
    (hr : s.fwRefused (histSource 0) true off 1024 = none) {x : PrefixRec} (hx : x.ptes.length = 64) (hm : MemOk s) :
    memRead (s.putPrefix c x).mem (s.hist.prefixAddr c) 1024 = x.bytes := by
  rw [putPrefix_mayWrite hp hr hx, memRead_written hm _ (length_prefixBytes hx)]

/-! ### The completion record (R205) -/

theorem length_doneBytes (f : HistFields) (status result : Nat) : (doneBytes f status result).length = 8 := by simp [doneBytes]

theorem Walked.doneInStall {ps : List Part} {s t : State} {f : HistFields} (h : Walked ps s t) (hd : DoneInStall s f) : DoneInStall t f := by
  obtain ⟨n, off, hp, hon⟩ := hd
  exact ⟨n, off, hp, by rw [h.wall.domainOn, hon]⟩

/-- The state with a completion record at its place. -/
def doneAt (s : State) (f : HistFields) (status result : Nat) : State := { s with mem := memWrite s.mem f.done (doneBytes f status result) }

theorem histDone_inStall {s : State} {f : HistFields} (h : DoneInStall s f) (cls : Fin 3) (status result : Nat) :
    s.histDone cls f status result = doneAt s f status result := by
  obtain ⟨n, off, hp, hon⟩ := h
  have hlen := length_doneBytes f status result
  change s.fabricPut _ f.done (doneBytes f status result) = _
  rw [State.fabricPut, hlen, hp]
  dsimp only
  rw [State.agentWrite, hlen, hp]
  dsimp only
  rw [State.localWrite, if_pos hon, ← (placeOf_eq_stallMem (by decide) hp).1]
  rfl

@[simp] theorem hist_doneAt (s : State) (f : HistFields) (status result : Nat) : (doneAt s f status result).hist = s.hist := rfl

theorem doneAt_only (s : State) (f : HistFields) (status result : Nat) : OnlyChanges [.mem] s (doneAt s f status result) := (setMem_touches s _).only

theorem memRead_doneAt {s : State} (hm : MemOk s) (f : HistFields) (status result : Nat) :
    memRead (doneAt s f status result).mem f.done 8 = doneBytes f status result :=
  memRead_written hm f.done (length_doneBytes f status result)

theorem memOnly_doneAt (s : State) (f : HistFields) (status result : Nat) : MemOnly f.done 8 s (doneAt s f status result) :=
  fun _ hx => memByte_outside (by rw [length_doneBytes]; exact hx)

/-- A completion record in a stall memory lies outside whatever lies in Plain. -/
theorem memRead_doneAt_plain {s u : State} {f : HistFields} (hd : DoneInStall u f) {a n off : Nat} (hp : placeOf a n = .plain off) (status result : Nat) :
    memRead (doneAt s f status result).mem a n = memRead s.mem a n := by
  obtain ⟨m, o, hpd, -⟩ := hd
  obtain ⟨-, -, hend⟩ := placeOf_eq_stallMem (by decide) hpd
  refine memRead_outside (.inr ?_)
  rw [length_doneBytes, placeOf_eq_plain hp, plainBase]
  omega

end Sys2Proof.Safety
end

/-! History requests as commands: posted into a ring, or served from one (R203-R206). -/
section
namespace Sys2Proof.Safety
open Sys2Proof.Machine

/-! ### The rows of a request -/

/-- The seven rows of a request, with the operation of each. -/
def historyRows : List ((HcPost → Instr) × Nat) :=
  [(Instr.fetch, 1), (Instr.append, 2), (Instr.attach, 3), (Instr.detach, 4), (Instr.clone, 5), (Instr.prefixWrite, 6), (Instr.migrate, 7)]

theorem historyRows_op {c : HcPost → Instr} {op : Nat} (h : (c, op) ∈ historyRows) : 1 ≤ op ∧ op ≤ 7 := by
  simp only [historyRows, List.mem_cons, Prod.mk.injEq, List.not_mem_nil, or_false] at h
  omega

theorem exec_historyRow {c : HcPost → Instr} {op : Nat} (h : (c, op) ∈ historyRows) (p : HcPost) (s : State) :
    exec (c p) s = .next (histRow op p s) := by
  simp only [historyRows, List.mem_cons, Prod.mk.injEq, List.not_mem_nil, or_false] at h
  obtain ⟨rfl, rfl⟩ | ⟨rfl, rfl⟩ | ⟨rfl, rfl⟩ | ⟨rfl, rfl⟩ | ⟨rfl, rfl⟩ | ⟨rfl, rfl⟩ | ⟨rfl, rfl⟩ := h <;> rfl

/-! ### Posting (R203, R204) -/

theorem histPost_off {s : State} (h : s.hist.en = false) (k : Fin 3) (hall : Bool) (b : List Byte) : s.histPost k hall b = s := by
  simp [State.histPost, h]

theorem histPost_room {s : State} {k : Fin 3} (he : s.hist.en = true) (hr : (vget s.hist.rings k).length < 128) (hall : Bool) (b : List Byte) :
    s.histPost k hall b = s.modHist fun h => { h with rings := vmod h.rings k fun l => l ++ [⟨b, hall, s.now⟩] } := by
  rw [State.histPost, if_neg (by simp [he]), if_neg (by omega)]

theorem histPost_full {s : State} {k : Fin 3} (he : s.hist.en = true) (hr : 128 ≤ (vget s.hist.rings k).length) (hall : Bool) (b : List Byte) :
    s.histPost k hall b =
      (s.devInc .hcPostDrop).raise 0x0701 (evtSource 0 0) ([BitVec.ofNat 8 k.val, 0] ++ natLE 2 (bytesNat b 28 2)) := by
  rw [State.histPost, if_neg (by simp [he]), if_pos hr]

theorem histRow_posted {op : Nat} {b : List Byte} (hl : b.length = 32) (ho : bytesNat b 0 1 = op) (k : Fin 3) (s : State) :
    histRow op (.posted k b) s = s.histPost k true b := if_pos ⟨hl, ho⟩

theorem histRow_posted_off {s : State} (h : s.hist.en = false) (op : Nat) (k : Fin 3) (b : List Byte) : histRow op (.posted k b) s = s := by
  simp [histRow, histPost_off h]

/-! ### Serving (R206) -/

/-- What the walker does with a request of an operation, once it holds what any request must. -/
def requestOf (op : Nat) (s : State) (k : Fin 3) (b : List Byte) : Option State :=
  match op with
  | 1 => s.histFetch k b
  | 2 => s.histAppend k b
  | 3 => s.histAttach k b
  | 4 => s.histDetach k b
  | 5 => s.histClone k b
  | 6 => s.histPrefix k b
  | _ => s.histMigrate k b

theorem histRequest_checked {s : State} {r : HistReq} (h : histCheck r.bytes r.hall = none) (k : Fin 3) :
    s.histRequest k r = requestOf (histOf r.bytes).op s k r.bytes := by
  rw [State.histRequest, h]
  rfl

theorem histRequest_refused {s : State} {r : HistReq} {e : Nat} (h : histCheck r.bytes r.hall = some e) (k : Fin 3) :
    s.histRequest k r = some (s.histDone k (histOf r.bytes) e 0) := by
  rw [State.histRequest, h]

theorem histCheck_badCheck {b : List Byte} (h : bytesNat b 30 2 ≠ (crc16 (b.take 30)).toNat) (hall : Bool) : histCheck b hall = some 2 := if_pos h

/-- A request leaves the head of its ring. -/
def ringServed (k : Fin 3) (rest : List HistReq) (h : Hist) : Hist := { h with rings := vset h.rings k rest }

section
variable (k : Fin 3) (rest : List HistReq) (h : Hist)

@[simp] theorem rings_ringServed : vget (ringServed k rest h).rings k = rest := vget_vset_same _ k rest
@[simp] theorem active_ringServed : (ringServed k rest h).active = h.active := rfl
@[simp] theorem last_ringServed : (ringServed k rest h).last = h.last := rfl
@[simp] theorem lab_ringServed : (ringServed k rest h).lab = h.lab := rfl
@[simp] theorem pin_ringServed : (ringServed k rest h).pin = h.pin := rfl
@[simp] theorem refcnt_ringServed : (ringServed k rest h).refcnt = h.refcnt := rfl
@[simp] theorem oldValid_ringServed : (ringServed k rest h).oldValid = h.oldValid := rfl

end

section
variable {s t : State} {k : Fin 3} {r : HistReq} {rest : List HistReq} {f : HistFields} {op : Nat}

theorem histServe_some (h : HistServes s k r rest f op) (ht : s.histRequest k r = some t) : s.histServe op = t.modHist (ringServed k rest) := by
  have hop : bytesNat r.bytes 0 1 = op := by rw [← h.code, ← h.fields]; rfl
  unfold State.histServe
  rw [h.next]
  dsimp only
  rw [h.head]
  dsimp only
  rw [if_neg (fun hne => hne.1 hop), ht]
  rfl

/-- A request that holds what any request must, served. -/
theorem histServe_checked (h : HistServes s k r rest f op) (hck : histCheck r.bytes r.hall = none) (ht : requestOf op s k r.bytes = some t) :
    s.histServe op = t.modHist (ringServed k rest) :=
  histServe_some h (by rw [histRequest_checked hck, h.fields, h.code, ht])

/-- What a request leaves that ends at once with a completion record. -/
theorem served_done (s : State) (f : HistFields) (k : Fin 3) (rest : List HistReq) (hm : MemOk s) (status result : Nat) :
    let t := (doneAt s f status result).modHist (ringServed k rest)
    t.hist = { s.hist with rings := vset s.hist.rings k rest } ∧ memRead t.mem f.done 8 = doneBytes f status result ∧
      MemOnly f.done 8 s t ∧ OnlyChanges [.hist, .mem] s t :=
  ⟨rfl, memRead_doneAt hm f status result, memOnly_doneAt s f status result,
    onlyChanges_trans (onlyChanges_mono (doneAt_only s f status result) (by decide)) (onlyChanges_mono (modHist_touches _ _).only (by decide))⟩

/-- FETCH, APPEND, DETACH and MIGRATE first look whether their track is attached. -/
theorem requestOf_noTrack {b : List Byte} (hlo : 1 ≤ op) (hhi : op ≤ 7) (h3 : op ≠ 3) (h5 : op ≠ 5) (h6 : op ≠ 6)
    (ht : (s.trackRec (histOf b).track).1.attached = false) (k : Fin 3) :
    requestOf op s k b = some ((s.trackRec (histOf b).track).2.histDone k (histOf b) 3 0) := by
  have hno : (!(s.trackRec (histOf b).track).1.attached) = true := by rw [ht]; rfl
  obtain rfl | rfl | rfl | rfl : op = 1 ∨ op = 2 ∨ op = 4 ∨ op = 7 := by omega
  · unfold requestOf State.histFetch
    exact if_pos hno
  · unfold requestOf State.histAppend
    exact if_pos hno
  · unfold requestOf State.histDetach
    exact if_pos hno
  · unfold requestOf State.histMigrate
    exact if_pos hno

end

/-- Settles O26: a request is queued or dropped by the ring that its class has; one that fails its CHECK, or whose track is not attached, ends
with its completion record alone. -/
theorem historyRequestsQueueAndRefuse : Obligations.HistoryRequestsQueueAndRefuse := by
  intro s c op hc
  obtain ⟨hlo, hhi⟩ := historyRows_op hc
  refine ⟨fun k b hl ho he hr => ?_, fun k b hl ho he hr => ?_, fun k b he => ?_, fun k r rest f h hcrc hd hm => ?_,
    fun k r rest f off h h3 h5 h6 hck hp hw hno hd hm => ?_⟩
  · refine ⟨_, exec_next (exec_historyRow hc _ s) ((histRow_posted hl ho k s).trans (histPost_room he hr true b)), ?_, fun j hj => ?_, rfl, rfl,
      (modHist_touches s _).only⟩
    · simp
    · simp [hj.symm]
  · have hraise := raise_touches (s.devInc .hcPostDrop) 0x0701 (evtSource 0 0) ([BitVec.ofNat 8 k.val, 0] ++ natLE 2 (bytesNat b 28 2))
    refine ⟨_, exec_next (exec_historyRow hc _ s) ((histRow_posted hl ho k s).trans (histPost_full he hr true b)), hraise.part .hist, ?_,
      onlyChanges_trans (onlyChanges_mono (devAdd_only s .hcPostDrop 1) (by decide)) hraise.only⟩
    rw [hraise.counters .hcPostDrop (by decide), State.devInc, devCtr_devAdd_same]
    rfl
  · exact exec_next (exec_historyRow hc _ s) (histRow_posted_off he op k b)
  · refine ⟨_, exec_next (exec_historyRow hc _ s) (histServe_some h ?_), served_done s f k rest hm 2 0⟩
    rw [histRequest_refused (histCheck_badCheck hcrc r.hall), h.fields, histDone_inStall hd]
  · refine ⟨_, exec_next (exec_historyRow hc _ s) (histServe_checked h hck ?_), served_done s f k rest hm 3 0⟩
    have hrec := trackRec_plain hp hw
    rw [requestOf_noTrack hlo hhi h3 h5 h6 (by rw [h.fields, hrec]; exact hno), h.fields, hrec, histDone_inStall hd]

end Sys2Proof.Safety
end

/-! Tracks of the history cache: bound to a generation of their cell's pages, attached, copied and detached (R196, R217, R218, R222). -/
section
namespace Sys2Proof.Safety
open Sys2Proof.Machine

/-! ### Page-table entries -/

theorem histKept_refUps (l : List Pte) (h : Hist) : HistKept h (l.foldl (fun h p => h.refUp p.frame) h) :=
  .foldl (fun h (p : Pte) => h.refUp p.frame) (fun h p => histKept_ref h p.frame _) l h

theorem histKept_refDowns (l : List Pte) (h : Hist) : HistKept h (l.foldl (fun h p => h.refDown p.frame) h) :=
  .foldl (fun h (p : Pte) => h.refDown p.frame) (fun h p => histKept_ref h p.frame _) l h

/-- Marking what is shared changes neither validity nor frame. -/
theorem getD_markShared (h : Hist) (l : List Pte) (i : Nat) :
    ((h.markShared l).getD i Pte.empty).v = (l.getD i Pte.empty).v ∧ ((h.markShared l).getD i Pte.empty).frame = (l.getD i Pte.empty).frame := by
  simp only [Hist.markShared, List.getD_eq_getElem?_getD, List.getElem?_map]
  cases l[i]? with
  | none => exact ⟨rfl, rfl⟩
  | some p =>
    simp only [Option.map_some, Option.getD_some]
    split <;> exact ⟨rfl, rfl⟩

/-! ### Binding a track (R218) -/

/-- The unit once a track maps the cell's pages `new` where it had those of x. -/
def boundHist (t : TrackId) (x : TrackRec) (new : List Pte) (h : Hist) : Hist :=
  ((new.filter (·.v)).foldl (fun h p => h.refUp p.frame) (((x.ptes.drop 64).filter (·.v)).foldl (fun h p => h.refDown p.frame) h)).labInval t 64 128

/-- A record bound to a generation and its pages. -/
def boundTrack (x : TrackRec) (gen : Nat) (ptes : List Pte) : TrackRec := { x with gen := gen, ptes := x.ptes.take 64 ++ ptes }

/-- The cell's pages as the records then hold them. -/
def boundPtes (r : PrefixRec × State) (t : TrackId) (x : TrackRec) : List Pte := (boundHist t x r.1.ptes r.2.hist).markShared r.1.ptes

/-- The state in which a bound track's record is written. -/
def boundState (r : PrefixRec × State) (t : TrackId) (x : TrackRec) : State :=
  (r.2.modHist (boundHist t x r.1.ptes)).putPrefix x.cell { r.1 with ptes := boundPtes r t x }

theorem rebind_eq (s : State) (t : TrackId) (x : TrackRec) : s.rebind t x =
    (boundTrack x (s.prefixRec x.cell).1.gen (boundPtes (s.prefixRec x.cell) t x), (boundState (s.prefixRec x.cell) t x).putTrack t
      (boundTrack x (s.prefixRec x.cell).1.gen (boundPtes (s.prefixRec x.cell) t x))) := rfl

theorem rebind_fst (s : State) (t : TrackId) (x : TrackRec) :
    (s.rebind t x).1 = boundTrack x (s.prefixRec x.cell).1.gen (boundPtes (s.prefixRec x.cell) t x) := by rw [rebind_eq]

theorem rebind_snd (s : State) (t : TrackId) (x : TrackRec) : (s.rebind t x).2 =
    (boundState (s.prefixRec x.cell) t x).putTrack t (boundTrack x (s.prefixRec x.cell).1.gen (boundPtes (s.prefixRec x.cell) t x)) := by
  rw [rebind_eq]

theorem length_boundPtes {r : PrefixRec × State} {n : Nat} (h : r.1.ptes.length = n) (t : TrackId) (x : TrackRec) : (boundPtes r t x).length = n :=
  (length_markShared _ _).trans h

theorem histKept_boundHist (t : TrackId) (x : TrackRec) (new : List Pte) (h : Hist) : HistKept h (boundHist t x new h) :=
  ((histKept_refDowns _ h).trans (histKept_refUps _ _)).trans (histKept_labInval _ t 64 128)

theorem trackShaped_boundTrack {x : TrackRec} (h : TrackShaped x) (gen : Nat) {l : List Pte} (hl : l.length = 64) :
    TrackShaped (boundTrack x gen l) :=
  ⟨h.stamps, by simp [boundTrack, h.ptes, hl]⟩

theorem boundState_walked (r : PrefixRec × State) (t : TrackId) (x : TrackRec) : Walked trackParts r.2 (boundState r t x) :=
  (modHist_walked r.2 (histKept_boundHist t x r.1.ptes _)).andThen (putPrefix_walked _ _ _)

theorem rebind_walked (s : State) (t : TrackId) (x : TrackRec) : Walked trackParts s (s.rebind t x).2 := by
  rw [rebind_snd]
  exact ((prefixRec_walked s x.cell).andThen (boundState_walked (s.prefixRec x.cell) t x) (rs := trackParts)).andThen (putTrack_walked _ t _)

/-- The record as bound: only the generation and the cell's pages are new. -/
theorem rebind_record (s : State) (t : TrackId) (x : TrackRec) : ∃ gen l, l.length = 64 ∧ (s.rebind t x).1 = boundTrack x gen l := by
  exact ⟨_, _, length_boundPtes (length_prefixRec_ptes s x.cell) t x, rebind_fst s t x⟩

/-- It is what memory then holds. -/
theorem memRead_rebind {s : State} {t : TrackId} (h : WalkerMayWrite s t) {x : TrackRec} (hx : TrackShaped x) (hm : MemOk s) :
    memRead (s.rebind t x).2.mem (s.hist.trackAddr t) 2048 = (s.rebind t x).1.bytes := by
  have hw : Walked trackParts s (boundState (s.prefixRec x.cell) t x) := (prefixRec_walked s x.cell).andThen (boundState_walked _ t x)
  have hl := length_boundPtes (length_prefixRec_ptes s x.cell) t x
  rw [rebind_fst, rebind_snd, ← hw.trackAddr]
  exact memRead_putTrack (hw.mayWrite h) (trackShaped_boundTrack hx _ hl) (hw.memOk hm)

/-! ### Requests that end at once -/

section
variable {s u : State} {k : Fin 3} {r : HistReq} {rest : List HistReq} {f : HistFields} {op : Nat}

/-- A request done and taken off its ring. -/
def servedDone (u : State) (k : Fin 3) (rest : List HistReq) (f : HistFields) : State := (doneAt u f 0 0).modHist (ringServed k rest)

theorem doneInStall_modHist (h : DoneInStall s f) (g : Hist → Hist) : DoneInStall (s.modHist g) f := h

theorem memOk_modHist (h : MemOk s) (g : Hist → Hist) : MemOk (s.modHist g) := h

theorem memRead_servedDone_plain (hd : DoneInStall s f) {a n off : Nat} (hp : placeOf a n = .plain off) (u : State) (k : Fin 3) (rest : List HistReq) :
    memRead (servedDone u k rest f).mem a n = memRead u.mem a n := memRead_doneAt_plain hd hp 0 0

theorem memRead_servedDone (hm : MemOk u) (k : Fin 3) (rest : List HistReq) (f : HistFields) :
    memRead (servedDone u k rest f).mem f.done 8 = doneBytes f 0 0 := memRead_doneAt hm f 0 0

@[simp] theorem hist_servedDone (u : State) (k : Fin 3) (rest : List HistReq) (f : HistFields) :
    (servedDone u k rest f).hist = ringServed k rest u.hist := rfl

theorem servedDone_only (h : OnlyChanges trackParts s u) (k : Fin 3) (rest : List HistReq) (f : HistFields) :
    OnlyChanges [.mem, .hist, .dev, .fab, .host] s (servedDone u k rest f) :=
  onlyChanges_trans (onlyChanges_mono h (by decide)) (onlyChanges_trans (onlyChanges_mono (doneAt_only u f 0 0) (by decide))
    (onlyChanges_mono (modHist_touches _ _).only (by decide)))

/-- A request whose effect is u, served to its end. -/
theorem histServe_done (h : HistServes s k r rest f op) (hck : histCheck r.bytes r.hall = none)
    (hu : requestOf op s k r.bytes = some (u.histDone k f 0 0)) (hd : DoneInStall u f) : s.histServe op = servedDone u k rest f := by
  rw [histServe_checked h hck hu, histDone_inStall hd]
  rfl

end

/-! ### ATTACH (R196) -/

/-- The record of a track that has just been attached, before it is bound. -/
def newTrack (c : CellId) (rnti : Nat) : TrackRec :=
  { attached := true, cell := c, rnti := rnti, head := 0, gen := 0, stamps := List.replicate 64 noStamp, ptes := List.replicate 128 Pte.empty }

/-- A track was attached or appended to at an instant. -/
def appendedAt (t : TrackId) (i : Int) (h : Hist) : Hist := { h with last := vset h.last t i }

@[simp] theorem last_appendedAt (t : TrackId) (i : Int) (h : Hist) : vget (appendedAt t i h).last t = i := vget_vset_same _ t i
@[simp] theorem active_appendedAt (t : TrackId) (i : Int) (h : Hist) : (appendedAt t i h).active = h.active := rfl

theorem trackShaped_newTrack (c : CellId) (rnti : Nat) : TrackShaped (newTrack c rnti) := ⟨List.length_replicate, List.length_replicate⟩

theorem pte_boundTrack_new (c : CellId) (rnti gen : Nat) (l : List Pte) {i : Nat} (hi : i < 64) :
    (boundTrack (newTrack c rnti) gen l).pte i = Pte.empty := by
  have htake : (List.replicate 128 Pte.empty).take 64 = List.replicate 64 Pte.empty := List.take_replicate
  rw [TrackRec.pte, boundTrack, newTrack, htake, List.getD_append _ _ _ _ (by rw [List.length_replicate]; exact hi), List.getD_replicate _ hi]

theorem histAttach_free {s : State} {b : List Byte} {c : CellId} (hc : c.val = (histOf b).cell) (hs : (s.trackRec (histOf b).track).2 = s)
    (ha : (s.trackRec (histOf b).track).1.attached = false) (k : Fin 3) :
    requestOf 3 s k b = some (((s.rebind (histOf b).track (newTrack c (histOf b).rnti)).2.modHist (appendedAt (histOf b).track s.now)).histDone
      k (histOf b) 0 0) := by
  have hlt : (histOf b).cell < 16 := hc ▸ c.isLt
  obtain rfl : c = ⟨(histOf b).cell, hlt⟩ := Fin.ext hc
  unfold requestOf State.histAttach
  dsimp only
  rw [dif_pos hlt, if_neg (by rw [ha]; decide), hs]
  rfl

/-! ### DETACH (R196, R217, R222) -/

/-- A record that is no longer attached and maps nothing. -/
def droppedTrack (x : TrackRec) : TrackRec := { x with attached := false, ptes := List.replicate 128 Pte.empty }

/-- The unit once a track maps nothing. -/
def unmapped (t : TrackId) (x : TrackRec) (h : Hist) : Hist := ((x.ptes.filter (·.v)).foldl (fun h p => h.refDown p.frame) h).labInval t 0 128

theorem dropTrack_eq (s : State) (t : TrackId) (x : TrackRec) : s.dropTrack t x = (s.modHist (unmapped t x)).putTrack t (droppedTrack x) := rfl

theorem trackShaped_droppedTrack {x : TrackRec} (h : TrackShaped x) : TrackShaped (droppedTrack x) := ⟨h.stamps, List.length_replicate⟩

theorem pte_droppedTrack (x : TrackRec) {i : Nat} (hi : i < 128) : (droppedTrack x).pte i = Pte.empty := List.getD_replicate _ hi

theorem unmapped_walked (s : State) (t : TrackId) (x : TrackRec) : Walked [.hist] s (s.modHist (unmapped t x)) :=
  modHist_walked s ((histKept_refDowns _ _).trans (histKept_labInval _ t 0 128))

theorem dropTrack_walked (s : State) (t : TrackId) (x : TrackRec) : Walked trackParts s (s.dropTrack t x) := by
  rw [dropTrack_eq]
  exact (unmapped_walked s t x).andThen (putTrack_walked _ t _)

theorem memRead_dropTrack {s : State} {t : TrackId} (h : WalkerMayWrite s t) {x : TrackRec} (hx : TrackShaped x) (hm : MemOk s) :
    memRead (s.dropTrack t x).mem (s.hist.trackAddr t) 2048 = (droppedTrack x).bytes := by
  rw [dropTrack_eq, ← (unmapped_walked s t x).trackAddr]
  exact memRead_putTrack ((unmapped_walked s t x).mayWrite h) (trackShaped_droppedTrack hx) hm

/-- The buffer keeps no entry of the track. -/
theorem lab_dropTrack (s : State) (t : TrackId) (x : TrackRec) (j : Fin 64) {e : LabEntry} (he : e ∈ vget (s.dropTrack t x).hist.lab j) :
    e.track ≠ t := by
  have hhist : (s.dropTrack t x).hist = unmapped t x s.hist := (putTrack_walked (s.modHist (unmapped t x)) t (droppedTrack x)).part .hist
  rw [hhist, unmapped, Hist.labInval, Hist.labDrop, vget_vmap, List.mem_filter] at he
  rintro rfl
  simp at he

theorem detach_idle {s : State} (h : s.hist.active = []) (t : TrackId) (x : TrackRec) : s.detach t x = some (s.dropTrack t x) := by
  simp [State.detach, Hist.writing, h]

theorem histDetach_idle {s : State} {b : List Byte} (hs : (s.trackRec (histOf b).track).2 = s)
    (ha : (s.trackRec (histOf b).track).1.attached = true) (hi : s.hist.active = []) (k : Fin 3) :
    requestOf 4 s k b = some ((s.dropTrack (histOf b).track (s.trackRec (histOf b).track).1).histDone k (histOf b) 0 0) := by
  unfold requestOf State.histDetach
  dsimp only
  rw [if_neg (by rw [ha]; decide), hs, detach_idle hi]
  rfl

theorem trackIdleDetach_due {s : State} {x : TrackId} (hs : (s.trackRec x).2 = s) (ha : (s.trackRec x).1.attached = true) (he : s.hist.en = true)
    (hi : s.hist.active = [])
    (hdue : ns ((s.cell (s.trackRec x).1.cell).get .histIdle * s.slotLen (s.trackRec x).1.cell : Nat) ≤ s.now - vget s.hist.last x) :
    trackIdleDetachEffect x (s.trackRec x).1.cell s = s.dropTrack x (s.trackRec x).1 := by
  unfold trackIdleDetachEffect
  dsimp only
  rw [if_pos ⟨ha, rfl, he, hdue⟩, hs, detach_idle hi, Option.getD_some]

/-! ### CLONE (R217) -/

/-- The unit once the pages of a track are mapped a second time. -/
def sharedHist (t : TrackId) (x : TrackRec) (h : Hist) : Hist := ((x.ptes.filter (·.v)).foldl (fun h p => h.refUp p.frame) h).labInval t 0 128

/-- The pages of a track as both records then hold them. -/
def sharedPtes (s : State) (t : TrackId) (x : TrackRec) : List Pte := (sharedHist t x s.hist).markShared x.ptes

/-- The record of the copy. -/
def clonedTrack (s : State) (t : TrackId) (x : TrackRec) (c : CellId) (rnti : Nat) : TrackRec :=
  { x with cell := c, rnti := rnti, ptes := sharedPtes s t x }

/-- The state in which the record of the copy is written. -/
def clonedState (s : State) (t : TrackId) (x : TrackRec) : State := (s.modHist (sharedHist t x)).putTrack t { x with ptes := sharedPtes s t x }

theorem trackShaped_clonedTrack {x : TrackRec} (h : TrackShaped x) (s : State) (t : TrackId) (c : CellId) (rnti : Nat) :
    TrackShaped (clonedTrack s t x c rnti) := ⟨h.stamps, (length_markShared _ _).trans h.ptes⟩

theorem clonedState_walked (s : State) (t : TrackId) (x : TrackRec) : Walked trackParts s (clonedState s t x) :=
  (modHist_walked s (f := sharedHist t x) ((histKept_refUps _ _).trans (histKept_labInval _ t 0 128))).andThen (putTrack_walked _ t _)

theorem histClone_takes {s : State} {b : List Byte} {d : TrackId} {c : CellId} (hd : d.val = (histOf b).dest) (hc : c.val = (histOf b).cell)
    (hs : (s.trackRec (histOf b).track).2 = s) (hsd : (s.trackRec d).2 = s) (ha : (s.trackRec (histOf b).track).1.attached = true)
    (had : (s.trackRec d).1.attached = false) (k : Fin 3) :
    requestOf 5 s k b = some (((((clonedState s (histOf b).track (s.trackRec (histOf b).track).1).putTrack d
      (clonedTrack s (histOf b).track (s.trackRec (histOf b).track).1 c (histOf b).rnti)).modHist
        fun h => appendedAt d (vget h.last (histOf b).track) h)).histDone k (histOf b) 0 0) := by
  have hlt : (histOf b).dest < 1024 ∧ (histOf b).cell < 16 := ⟨hd ▸ d.isLt, hc ▸ c.isLt⟩
  obtain rfl : d = ⟨(histOf b).dest, hlt.1⟩ := Fin.ext hd
  obtain rfl : c = ⟨(histOf b).cell, hlt.2⟩ := Fin.ext hc
  unfold requestOf State.histClone
  dsimp only
  rw [dif_pos hlt, hs, hsd, if_neg (by rw [ha, had]; decide)]
  rfl

/-! ### The requests as commands -/

section
variable {s : State} {k : Fin 3} {r : HistReq} {rest : List HistReq} {f : HistFields}

/-- A track once it is attached. -/
structure TrackAttached (s t : State) (f : HistFields) (x : TrackRec) : Prop where
  read : memRead t.mem (s.hist.trackAddr f.track) 2048 = TrackRec.bytes x
  attached : x.attached = true
  cell : x.cell.val = f.cell
  rnti : x.rnti = f.rnti
  head : x.head = 0
  stamps : x.stamps = List.replicate 64 noStamp
  empty : ∀ i, i < 64 → x.pte i = Pte.empty

theorem trackAttached_rebind {t : State} {c : CellId} (hc : c.val = f.cell) (hw : WalkerMayWrite s f.track) (hm : MemOk s)
    (ht : memRead t.mem (s.hist.trackAddr f.track) 2048 =
      memRead (s.rebind f.track (newTrack c f.rnti)).2.mem (s.hist.trackAddr f.track) 2048) :
    TrackAttached s t f (s.rebind f.track (newTrack c f.rnti)).1 := by
  obtain ⟨gen, l, -, hrec⟩ := rebind_record s f.track (newTrack c f.rnti)
  rw [memRead_rebind hw (trackShaped_newTrack c f.rnti) hm] at ht
  rw [hrec] at ht ⊢
  exact ⟨ht, rfl, hc, rfl, rfl, rfl, fun i hi => pte_boundTrack_new c f.rnti gen l hi⟩

theorem attach_served (h : HistServes s k r rest f 3) (hck : histCheck r.bytes r.hall = none) (hcell : f.cell < 16)
    (hfree : (s.trackRec f.track).1.attached = false) (hw : WalkerMayWrite s f.track) (hd : DoneInStall s f) (hm : MemOk s) :
    ∃ t x, exec (.attach .served) s = .next t ∧ TrackAttached s t f x ∧ memRead t.mem f.done 8 = doneBytes f 0 0 ∧
      vget t.hist.rings k = rest ∧ vget t.hist.last f.track = s.now ∧ t.hist.active = s.hist.active ∧
      OnlyChanges [.mem, .hist, .dev, .fab, .host] s t := by
  obtain rfl := h.fields
  have hreq := histAttach_free (c := ⟨_, hcell⟩) rfl (trackRec_mayWrite hw) hfree k
  have hv := rebind_walked s (histOf r.bytes).track (newTrack ⟨_, hcell⟩ (histOf r.bytes).rnti)
  have hatt (t : State) := trackAttached_rebind (t := t) (c := ⟨_, hcell⟩) (f := histOf r.bytes) rfl hw hm
  generalize s.rebind (histOf r.bytes).track (newTrack ⟨_, hcell⟩ (histOf r.bytes).rnti) = y at hv hreq hatt
  obtain ⟨off, hp, -⟩ := hw
  exact ⟨_, _, exec_next rfl (histServe_done h hck hreq (doneInStall_modHist (hv.doneInStall hd) _)), hatt _ (by rw [memRead_servedDone_plain hd hp, modHist_mem]),
    memRead_servedDone (memOk_modHist (hv.memOk hm) _) _ _ _, by rw [hist_servedDone, rings_ringServed],
    by rw [hist_servedDone, last_ringServed, modHist_hist, last_appendedAt],
    by rw [hist_servedDone, active_ringServed, modHist_hist, active_appendedAt, hv.hist.active],
    servedDone_only (onlyChanges_trans hv.only (onlyChanges_mono (modHist_touches _ _).only (by decide))) _ _ _⟩

theorem detach_served (h : HistServes s k r rest f 4) (hck : histCheck r.bytes r.hall = none) (ha : (s.trackRec f.track).1.attached = true)
    (hi : s.hist.active = []) (hw : WalkerMayWrite s f.track) (hd : DoneInStall s f) (hm : MemOk s) :
    ∃ t x, exec (.detach .served) s = .next t ∧ memRead t.mem (s.hist.trackAddr f.track) 2048 = TrackRec.bytes x ∧
      x.attached = false ∧ (∀ i, i < 128 → x.pte i = Pte.empty) ∧ memRead t.mem f.done 8 = doneBytes f 0 0 ∧
      vget t.hist.rings k = rest ∧ (∀ j, ∀ e ∈ vget t.hist.lab j, e.track ≠ f.track) ∧ t.hist.pin = s.hist.pin ∧
      OnlyChanges [.mem, .hist, .dev, .fab, .host] s t := by
  obtain rfl := h.fields
  have hreq := histDetach_idle (trackRec_mayWrite hw) ha hi k
  have hshape := trackShaped_trackRec s (histOf r.bytes).track
  generalize (s.trackRec (histOf r.bytes).track).1 = x at hreq hshape
  have hv := dropTrack_walked s (histOf r.bytes).track x
  have hread := memRead_dropTrack hw hshape hm
  have hlab := lab_dropTrack s (histOf r.bytes).track x
  generalize s.dropTrack (histOf r.bytes).track x = v at hv hread hreq hlab
  obtain ⟨off, hp, -⟩ := hw
  exact ⟨_, droppedTrack x, exec_next rfl (histServe_done h hck hreq (hv.doneInStall hd)), (memRead_servedDone_plain hd hp _ _ _).trans hread, rfl,
    fun i hi => pte_droppedTrack x hi, memRead_servedDone (hv.memOk hm) _ _ _, by rw [hist_servedDone, rings_ringServed], by rw [hist_servedDone, lab_ringServed]; exact fun j e he => hlab j he,
    by rw [hist_servedDone, pin_ringServed, hv.hist.pin],
    servedDone_only hv.only _ _ _⟩

theorem clone_served {d : TrackId} (h : HistServes s k r rest f 5) (hck : histCheck r.bytes r.hall = none) (hcell : f.cell < 16)
    (hdest : d.val = f.dest) (ha : (s.trackRec f.track).1.attached = true) (had : (s.trackRec d).1.attached = false)
    (hw : WalkerMayWrite s f.track) (hwd : WalkerMayWrite s d) (hd : DoneInStall s f) (hm : MemOk s) :
    ∃ t x, exec (.clone .served) s = .next t ∧ memRead t.mem (s.hist.trackAddr d) 2048 = TrackRec.bytes x ∧
      x = { (s.trackRec f.track).1 with cell := x.cell, rnti := f.rnti, ptes := x.ptes } ∧ x.cell.val = f.cell ∧
      (∀ i, i < 128 → (x.pte i).v = ((s.trackRec f.track).1.pte i).v ∧ (x.pte i).frame = ((s.trackRec f.track).1.pte i).frame) ∧
      memRead t.mem f.done 8 = doneBytes f 0 0 ∧ vget t.hist.rings k = rest ∧
      vget t.hist.last d = vget s.hist.last f.track ∧ OnlyChanges [.mem, .hist, .dev, .fab, .host] s t := by
  obtain rfl := h.fields
  have hreq := histClone_takes (c := ⟨_, hcell⟩) hdest rfl (trackRec_mayWrite hw) (trackRec_mayWrite hwd) ha had k
  have hshape := trackShaped_trackRec s (histOf r.bytes).track
  generalize (s.trackRec (histOf r.bytes).track).1 = x at hreq hshape ⊢
  have hu := clonedState_walked s (histOf r.bytes).track x
  generalize hz : clonedTrack s (histOf r.bytes).track x ⟨_, hcell⟩ (histOf r.bytes).rnti = z at hreq
  have hv : Walked trackParts s _ := hu.andThen (putTrack_walked _ d z)
  have hread := memRead_putTrack (hu.mayWrite hwd) (hz ▸ trackShaped_clonedTrack hshape s _ _ _) (hu.memOk hm)
  rw [hu.trackAddr] at hread
  generalize (clonedState s (histOf r.bytes).track x).putTrack d z = v at hv hread hreq
  obtain ⟨off, hp, -⟩ := hwd
  refine ⟨_, z, exec_next rfl (histServe_done h hck hreq (doneInStall_modHist (hv.doneInStall hd) _)),
    by rw [memRead_servedDone_plain hd hp, modHist_mem, hread], by rw [← hz]; rfl, by rw [← hz]; rfl, fun i _ => ?_, memRead_servedDone (memOk_modHist (hv.memOk hm) _) _ _ _, by rw [hist_servedDone, rings_ringServed], ?_,
    servedDone_only (onlyChanges_trans hv.only (onlyChanges_mono (modHist_touches _ _).only (by decide))) _ _ _⟩
  · rw [← hz]
    exact getD_markShared _ _ i
  · rw [hist_servedDone, last_ringServed, modHist_hist, last_appendedAt, hv.hist.last]

theorem idle_detached {x : TrackId} (ha : (s.trackRec x).1.attached = true) (he : s.hist.en = true) (hi : s.hist.active = [])
    (hdue : ns ((s.cell (s.trackRec x).1.cell).get .histIdle * s.slotLen (s.trackRec x).1.cell : Nat) ≤ s.now - vget s.hist.last x)
    (hw : WalkerMayWrite s x) (hm : MemOk s) :
    ∃ t y, exec (.trackIdleDetach x (s.trackRec x).1.cell) s = .next t ∧ memRead t.mem (s.hist.trackAddr x) 2048 = TrackRec.bytes y ∧
      y.attached = false ∧ (∀ j, ∀ e ∈ vget t.hist.lab j, e.track ≠ x) ∧ t.hist.rings = s.hist.rings ∧
      OnlyChanges [.mem, .hist, .dev, .fab, .host] s t := by
  have hv := dropTrack_walked s x (s.trackRec x).1
  exact ⟨_, droppedTrack _, exec_next rfl (trackIdleDetach_due (trackRec_mayWrite hw) ha he hi hdue), memRead_dropTrack hw (trackShaped_trackRec s x) hm, rfl,
    fun j e he => lab_dropTrack s _ _ j he, hv.hist.rings, onlyChanges_mono hv.only (by decide)⟩

end

/-- Settles O27: a track's record lies in memory as the request makes it, and the completion record lies outside Plain. -/
theorem historyTracksComeAndGo : Obligations.HistoryTracksComeAndGo := by
  refine ⟨?_, ?_, ?_, ?_⟩
  · intro s k r rest f h hck hcell hfree hw hd hm
    obtain ⟨t, x, he, ⟨h1, h2, h3, h4, h5, h6, h7⟩, hrest⟩ := attach_served h hck hcell hfree hw hd hm
    exact ⟨t, x, he, h1, h2, h3, h4, h5, h6, h7, hrest⟩
  · exact fun s k r rest f h hck ha hi hw hd hm => detach_served h hck ha hi hw hd hm
  · exact fun s k r rest f d h hck hcell hdest ha had hw hwd hd hm => clone_served h hck hcell hdest ha had hw hwd hd hm
  · exact fun s x ha he hi hdue hw hm => idle_detached ha he hi hdue hw hm

end Sys2Proof.Safety
end

/-! FETCH: the context that it pins (R207-R209, R216, R220). -/
section
namespace Sys2Proof.Safety
open Sys2Proof.Machine

/-! ### Binding before the use of a track (R218) -/

theorem rebindAt_eq (s : State) (t : TrackId) (x : TrackRec) (g : HistGeo) (ref : Nat) : s.rebindAt t x g ref =
    if (s.prefixRec x.cell).1.gen ≠ x.gen ∧ g.reached ref (s.prefixRec x.cell).1.effective = true then (s.prefixRec x.cell).2.rebind t x
    else (x, (s.prefixRec x.cell).2) := rfl

/-- A track bound to the cell's generation stays as it is. -/
theorem rebindAt_same {s : State} {x : TrackRec} (h : (s.prefixRec x.cell).1.gen = x.gen) (t : TrackId) (g : HistGeo) (ref : Nat) :
    s.rebindAt t x g ref = (x, (s.prefixRec x.cell).2) := by
  rw [rebindAt_eq, if_neg (fun hne => hne.1 h)]

section
variable {s : State} {t : TrackId} {x : TrackRec} {q : PrefixRec × State} {c : Prop} [Decidable c]

theorem rebind_ite_walked (h : Walked [.dev, .fab, .host] s q.2) : Walked trackParts s (if c then q.2.rebind t x else (x, q.2)).2 := by
  split
  · exact h.andThen (rebind_walked q.2 t x)
  · exact h.mono

theorem rebind_ite_ring : (if c then q.2.rebind t x else (x, q.2)).1.head = x.head ∧ (if c then q.2.rebind t x else (x, q.2)).1.stamps = x.stamps := by
  split
  · obtain ⟨gen, l, -, hrec⟩ := rebind_record q.2 t x
    rw [hrec]
    exact ⟨rfl, rfl⟩
  · exact ⟨rfl, rfl⟩

end

theorem rebindAt_walked (s : State) (t : TrackId) (x : TrackRec) (g : HistGeo) (ref : Nat) : Walked trackParts s (s.rebindAt t x g ref).2 := by
  rw [rebindAt_eq]
  exact rebind_ite_walked (prefixRec_walked s x.cell)

/-- Neither the head nor the ring positions change. -/
theorem rebindAt_ring (s : State) (t : TrackId) (x : TrackRec) (g : HistGeo) (ref : Nat) :
    (s.rebindAt t x g ref).1.head = x.head ∧ (s.rebindAt t x g ref).1.stamps = x.stamps := by
  rw [rebindAt_eq]
  exact rebind_ite_ring

/-! ### Translation (R220) -/

theorem foldl_snd_walked {α β : Type} {ps : List Part} (f : β × State → α → β × State) (hf : ∀ a p, Walked ps a.2 (f a p).2) (l : List α)
    (a : β × State) : Walked ps a.2 (l.foldl f a).2 := by
  induction l generalizing a with
  | nil => exact .refl ps a.2
  | cons p l ih => exact (hf a p).trans (ih (f a p))

/-- The buffer with one set replaced. -/
def labFilled (j : Fin 64) (l : List LabEntry) (h : Hist) : Hist := { h with lab := vset h.lab j l }

theorem labFilled_walked (s : State) (j : Fin 64) (l : List LabEntry) : Walked [.hist] s (s.modHist (labFilled j l)) :=
  modHist_walked s ⟨rfl, rfl, rfl, rfl, rfl, rfl⟩

/-- A page that the buffer does not hold, and that the record maps. -/
def missState (s : State) (t : TrackId) (x : TrackRec) (p : Fin 128) : State :=
  (s.devInc .hcLabMiss).modHist (labFilled (labSet t p)
    ((⟨t, p, x.cell, (x.pte p.val).frame, (x.pte p.val).sh⟩ :: vget s.hist.lab (labSet t p)).take 4))

theorem missState_walked (s : State) (t : TrackId) (x : TrackRec) (p : Fin 128) : Walked [.hist, .dev] s (missState s t x p) :=
  (devInc_walked s .hcLabMiss).andThen (labFilled_walked _ _ _)

theorem translate_walked (s : State) (t : TrackId) (x : TrackRec) (p : Fin 128) : Walked [.hist, .dev] s (s.translate t x p).2 := by
  unfold State.translate
  dsimp only
  split
  · exact (labFilled_walked s _ _).andThen (devInc_walked _ _)
  · split
    · exact missState_walked s t x p
    · exact (devInc_walked s .hcLabMiss).mono

theorem translateAll_walked (s : State) (t : TrackId) (x : TrackRec) (pages : List Nat) :
    Walked [.hist, .dev] s (s.translateAll t x pages).2 :=
  foldl_snd_walked (β := List (Nat × Option Nat)) _ (fun a p => translate_walked a.2 t x (page128 p)) pages ([], s)

/-! ### Pins (R209) -/

/-- The unit with the frames pinned once more. -/
def pinned (l : List Nat) (h : Hist) : Hist := l.foldl Hist.pinUp h

theorem active_pinned (l : List Nat) (h : Hist) : (pinned l h).active = h.active := by
  unfold pinned
  induction l generalizing h with
  | nil => rfl
  | cons q l ih => exact ih (h.pinUp q)

theorem rings_pinned (l : List Nat) (h : Hist) : (pinned l h).rings = h.rings := by
  unfold pinned
  induction l generalizing h with
  | nil => rfl
  | cons q l ih => exact ih (h.pinUp q)

/-! ### A request that begins to move data -/

@[simp] theorem active_histBegin (s : State) (u : HistRun) : (s.histBegin u).hist.active = s.hist.active ++ [u] := rfl
@[simp] theorem rings_histBegin (s : State) (u : HistRun) : (s.histBegin u).hist.rings = s.hist.rings := rfl
@[simp] theorem last_histBegin (s : State) (u : HistRun) : (s.histBegin u).hist.last = s.hist.last := rfl
@[simp] theorem pin_histBegin (s : State) (u : HistRun) : (s.histBegin u).hist.pin = s.hist.pin := rfl
@[simp] theorem refcnt_histBegin (s : State) (u : HistRun) : (s.histBegin u).hist.refcnt = s.hist.refcnt := rfl
@[simp] theorem oldValid_histBegin (s : State) (u : HistRun) : (s.histBegin u).hist.oldValid = s.hist.oldValid := rfl
@[simp] theorem mem_histBegin (s : State) (u : HistRun) : (s.histBegin u).mem = s.mem := rfl

theorem histBegin_only (s : State) (u : HistRun) : OnlyChanges [.hist] s (s.histBegin u) := (modHist_touches s _).only

/-! ### The context -/

theorem length_fetchPlan (g : HistGeo) (x : TrackRec) (valid : BitVec 64) (a ref : Nat) : (fetchPlan g x valid a ref).length = g.p + min x.head g.w := by
  simp [fetchPlan]

/-- The timestamp at context position i of the ring. -/
def ringStamp (g : HistGeo) (x : TrackRec) (i : Nat) : Nat := x.stamps.getD ((x.head - min x.head g.w + i) % max 1 g.w) noStamp

/-- A ring position that is empty, too young or too old is not valid. -/
theorem fetchPlan_stale {g : HistGeo} {x : TrackRec} {valid : BitVec 64} {a ref i : Nat} (hi : i < min x.head g.w)
    (hs : ringStamp g x i = noStamp ∨ g.age ref (ringStamp g x i) < a ∨ g.maxAge < g.age ref (ringStamp g x i)) :
    ∃ p, (fetchPlan g x valid a ref)[g.p + i]? = some (false, p) := by
  have hval : (ringStamp g x i != noStamp && decide (a ≤ g.age ref (ringStamp g x i)) && decide (g.age ref (ringStamp g x i) ≤ g.maxAge)) = false := by
    obtain hs | hs | hs := hs
    · simp [hs]
    · simp [Nat.not_le.mpr hs]
    · simp [Nat.not_le.mpr hs]
  unfold fetchPlan
  dsimp only
  rw [List.getElem?_append_right (by simp), List.length_map, List.length_range, Nat.add_sub_cancel_left, List.getElem?_map, List.getElem?_range hi]
  exact ⟨_, congrArg (fun v => some (v, _)) hval⟩

/-- What a fetch gathers at a position of its plan, where both of its pages are mapped. -/
def fetchPos (m : List (Nat × Option Nat)) (p : Bool × (Nat × Nat) × (Nat × Nat)) : Option HistPos :=
  match p.1, mapped m p.2.1.1, mapped m p.2.2.1 with
  | true, some k, some v => some ⟨k, p.2.1.2, v, p.2.2.2⟩
  | _, _, _ => none

theorem fetchPos_invalid (m : List (Nat × Option Nat)) (p : (Nat × Nat) × (Nat × Nat)) : fetchPos m (false, p) = none := rfl

/-- A context: its gathered positions, filled up to its length. -/
def fetchCtx (n : Nat) (l : List (Option HistPos)) : List (Option HistPos) := l ++ List.replicate (n - l.length) none

theorem count_fetchCtx (n : Nat) (l : List (Option HistPos)) : ((fetchCtx n l).filter (·.isSome)).length = (l.filter (·.isSome)).length := by
  simp [fetchCtx]

theorem fetchCtx_tail {n i : Nat} {l : List (Option HistPos)} (hl : l.length ≤ i) (hi : i < n) : (fetchCtx n l)[i]? = some none := by
  rw [fetchCtx, List.getElem?_append_right hl, List.getElem?_replicate, if_pos (by omega)]

theorem fetchCtx_map {n i : Nat} {α : Type} {l : List α} {f : α → Option HistPos} {p : α} (hp : l[i]? = some p) :
    (fetchCtx n (l.map f))[i]? = some (f p) := by
  have hlt : i < (l.map f).length := by
    rw [List.length_map]
    exact (List.getElem?_eq_some_iff.mp hp).1
  rw [fetchCtx, List.getElem?_append_left hlt, List.getElem?_map, hp]
  rfl

/-- The run that a fetch of a track begins. -/
structure FetchRun (k : Fin 3) (b : List Byte) (x : TrackRec) (g : HistGeo) (f : HistFields) (u : HistRun) : Prop where
  bytes : u.bytes = b
  cls : u.cls = k
  waits : u.waits = []
  writes : u.writes = []
  copies : u.copies = []
  result : u.result = f.count * (u.ctx.filter (·.isSome)).length
  stale : ∀ i, i < min x.head g.w → (ringStamp g x i = noStamp ∨ g.age f.ref (ringStamp g x i) < f.minAge ∨
    g.maxAge < g.age f.ref (ringStamp g x i)) → u.ctx[g.p + i]? = some none
  short : ∀ i, g.p + min x.head g.w ≤ i → i < g.ctx → u.ctx[i]? = some none

/-- A valid FETCH, once its track is bound and the cell's record read. -/
def fetchRest (k : Fin 3) (b : List Byte) (g : HistGeo) (y : TrackRec × State) (pr : PrefixRec × State) : Option State :=
  let f := histOf b
  let plan := fetchPlan g y.1 (if pr.1.gen = y.1.gen then pr.1.valid else vget pr.2.hist.oldValid y.1.cell) f.minAge f.ref
  let z := pr.2.translateAll f.track y.1 (plan.flatMap fun p => [p.2.1.1, p.2.2.1]).eraseDups
  let frames := (z.1.filterMap (·.2)).eraseDups
  if frames.any fun q => 255 ≤ sget 0 z.2.hist.pin q then none
  else
    let pos := plan.map (fetchPos z.1)
    let n := (pos.filter (·.isSome)).length
    some (((z.2.modHist (pinned frames)).devAdd .hcEmptyContext (if n = 0 then f.count else 0)).histBegin
      { cls := k, bytes := b, waits := [], pins := frames, ctx := fetchCtx g.ctx pos, tok := g.tok, lk := g.lk, writes := [], copies := []
        result := n * f.count, shot := false })

theorem histFetch_eq (s : State) (k : Fin 3) (b : List Byte) : s.histFetch k b =
    if !(s.trackRec (histOf b).track).1.attached then some ((s.trackRec (histOf b).track).2.histDone k (histOf b) hNoTrack 0)
    else if (histOf b).minAge = 0 ∨ (histOf b).count = 0 ∨ (s.histGeo (s.trackRec (histOf b).track).1.cell).tok < (histOf b).first + (histOf b).count ∨
        (s.histGeo (s.trackRec (histOf b).track).1.cell).period ≤ (histOf b).ref then
      some ((s.trackRec (histOf b).track).2.histDone k (histOf b) hBadReq 0)
    else
      let y := (s.trackRec (histOf b).track).2.rebindAt (histOf b).track (s.trackRec (histOf b).track).1
        (s.histGeo (s.trackRec (histOf b).track).1.cell) (histOf b).ref
      fetchRest k b (s.histGeo (s.trackRec (histOf b).track).1.cell) y (y.2.prefixRec y.1.cell) := rfl

/-- A valid FETCH begins to move data where none of its frames has as many pins as can be counted. -/
theorem fetchRest_begins {k : Fin 3} {b : List Byte} {g : HistGeo} {y : TrackRec × State} {pr : PrefixRec × State} {x : TrackRec}
    (hring : y.1.head = x.head ∧ y.1.stamps = x.stamps) (hpin : ∀ q, sget 0 pr.2.hist.pin q < 255) :
    ∃ w l n u, fetchRest k b g y pr = some (((w.modHist (pinned l)).devAdd .hcEmptyContext n).histBegin u) ∧ Walked [.hist, .dev] pr.2 w ∧
      FetchRun k b x g (histOf b) u := by
  obtain ⟨hhead, hstamps⟩ := hring
  unfold fetchRest
  dsimp only
  generalize hplan : fetchPlan g y.1 _ (histOf b).minAge (histOf b).ref = plan
  have hz := translateAll_walked pr.2 (histOf b).track y.1 (plan.flatMap fun p => [p.2.1.1, p.2.2.1]).eraseDups
  generalize pr.2.translateAll (histOf b).track y.1 (plan.flatMap fun p => [p.2.1.1, p.2.2.1]).eraseDups = z at hz ⊢
  have hlen : plan.length = g.p + min x.head g.w := by rw [← hplan, length_fetchPlan, hhead]
  have hfree : ((z.1.filterMap (·.2)).eraseDups.any fun q => 255 ≤ sget 0 z.2.hist.pin q) = false := by
    rw [List.any_eq_false]
    intro q _
    simpa [hz.hist.pin] using hpin q
  rw [if_neg (by rw [hfree]; decide)]
  refine ⟨z.2, _, _, _, rfl, hz, rfl, rfl, rfl, rfl, rfl, ?_, fun i hi hs => ?_, fun i hi hi' => fetchCtx_tail (by rw [List.length_map, hlen]; exact hi) hi'⟩
  · rw [count_fetchCtx, Nat.mul_comm]
  · have hst : ringStamp g y.1 i = ringStamp g x i := by rw [ringStamp, ringStamp, hhead, hstamps]
    rw [← hhead] at hi
    rw [← hst] at hs
    obtain ⟨p, hp⟩ := fetchPlan_stale (valid := _) hi hs
    rw [hplan] at hp
    rw [fetchCtx_map hp, fetchPos_invalid]

/-- A FETCH that is valid and need not wait for a pin. -/
theorem histFetch_begins {s : State} {b : List Byte} {x : TrackRec} {g : HistGeo} (hx : (s.trackRec (histOf b).track).1 = x) (ha : x.attached = true)
    (hg : s.histGeo x.cell = g) (hage : (histOf b).minAge ≠ 0) (hcount : (histOf b).count ≠ 0)
    (htok : (histOf b).first + (histOf b).count ≤ g.tok) (href : (histOf b).ref < g.period) (hpin : ∀ q, sget 0 s.hist.pin q < 255) (k : Fin 3) :
    ∃ w l n u, requestOf 1 s k b = some (((w.modHist (pinned l)).devAdd .hcEmptyContext n).histBegin u) ∧ Walked trackParts s w ∧
      FetchRun k b x g (histOf b) u := by
  have hr : Walked trackParts s (s.trackRec (histOf b).track).2 := (trackRec_walked s _).mono
  have hy := hr.trans (rebindAt_walked (s.trackRec (histOf b).track).2 (histOf b).track x g (histOf b).ref)
  have hring := rebindAt_ring (s.trackRec (histOf b).track).2 (histOf b).track x g (histOf b).ref
  unfold requestOf
  rw [histFetch_eq, hx, hg, if_neg (by rw [ha]; decide), if_neg (by omega)]
  dsimp only
  have hpr := hy.andThen (prefixRec_walked ((s.trackRec (histOf b).track).2.rebindAt (histOf b).track x g (histOf b).ref).2
    ((s.trackRec (histOf b).track).2.rebindAt (histOf b).track x g (histOf b).ref).1.cell) (rs := trackParts)
  obtain ⟨w, l, n, u, he, hw, hu⟩ := fetchRest_begins (k := k) (b := b) (g := g) hring (fun q => by rw [hpr.hist.pin]; exact hpin q)
  exact ⟨w, l, n, u, he, hpr.andThen hw, hu⟩

/-- A FETCH as a command. -/
theorem fetch_served {s : State} {k : Fin 3} {r : HistReq} {rest : List HistReq} {f : HistFields} {x : TrackRec} {g : HistGeo}
    (h : HistServes s k r rest f 1) (hck : histCheck r.bytes r.hall = none) (hx : (s.trackRec f.track).1 = x) (ha : x.attached = true)
    (hg : s.histGeo x.cell = g) (hage : f.minAge ≠ 0) (hcount : f.count ≠ 0) (htok : f.first + f.count ≤ g.tok) (href : f.ref < g.period)
    (hpin : ∀ q, sget 0 s.hist.pin q < 255) :
    ∃ t u, exec (.fetch .served) s = .next t ∧ t.hist.active = s.hist.active ++ [u] ∧ FetchRun k r.bytes x g f u ∧ vget t.hist.rings k = rest ∧
      OnlyChanges [.mem, .hist, .dev, .fab, .host] s t := by
  obtain rfl := h.fields
  obtain ⟨w, l, n, u, hreq, hw, hu⟩ := histFetch_begins hx ha hg hage hcount htok href hpin k
  refine ⟨_, u, exec_next rfl (histServe_checked h hck hreq), ?_, hu, by rw [modHist_hist, rings_ringServed], ?_⟩
  · rw [modHist_hist, active_ringServed, active_histBegin, devAdd_hist, modHist_hist, active_pinned, hw.hist.active]
  · have hone := onlyChanges_mono (modHist_touches w (pinned l)).only (qs := [.mem, .hist, .dev, .fab, .host]) (by decide)
    have htwo := onlyChanges_mono (devAdd_only (w.modHist (pinned l)) .hcEmptyContext n) (qs := [.mem, .hist, .dev, .fab, .host]) (by decide)
    have hthree := onlyChanges_mono (histBegin_only ((w.modHist (pinned l)).devAdd .hcEmptyContext n) u) (qs := [.mem, .hist, .dev, .fab, .host]) (by decide)
    exact onlyChanges_trans (onlyChanges_mono hw.only (by decide)) (onlyChanges_trans hone (onlyChanges_trans htwo (onlyChanges_trans hthree
      (onlyChanges_mono (modHist_touches _ _).only (by decide)))))

end Sys2Proof.Safety
end

/-! APPEND and MIGRATE: the pages that they write and move (R210, R211, R216, R223, R224). -/
section
namespace Sys2Proof.Safety
open Sys2Proof.Machine

/-! ### Accesses to frames -/

theorem hist_putTrack (s : State) (t : TrackId) (x : TrackRec) : (s.putTrack t x).hist = s.hist := (putTrack_walked s t x).part .hist

theorem hist_histShare (s : State) (c : CellId) (b : List Byte) : (s.histShare c b).hist = s.hist := by
  unfold State.histShare
  split
  · rfl
  · exact (mirror_touches s _).part .hist

theorem mem_histShare (s : State) (c : CellId) (b : List Byte) : (s.histShare c b).mem = s.mem := by
  unfold State.histShare
  split
  · rfl
  · exact (mirror_touches s _).part .mem

theorem frameRead_walked (s : State) (f off n : Nat) : Walked [.dev, .fab, .host] s (s.frameRead f off n).2 := by
  unfold State.frameRead
  split
  · exact .refl _ s
  · exact agentRead_walked s _ _ n

/-- The SRAM with bytes written into a frame. -/
def sramWritten (f off : Nat) (bs : List Byte) (h : Hist) : Hist := { h with sram := memWrite h.sram (f * 4096 + off) bs }

theorem frameWrite_sram {f : Nat} (h : f < 448) (s : State) (off : Nat) (bs : List Byte) : s.frameWrite f off bs = s.modHist (sramWritten f off bs) :=
  if_pos h

theorem frameWrite_walked (s : State) (f off : Nat) (bs : List Byte) : Walked trackParts s (s.frameWrite f off bs) := by
  by_cases h : f < 448
  · rw [frameWrite_sram h]
    exact (modHist_walked s (f := sramWritten f off bs) ⟨rfl, rfl, rfl, rfl, rfl, rfl⟩).mono
  · rw [State.frameWrite, if_neg h]
    exact (agentWrite_walked s _ _ bs).mono

theorem frameCopy_walked (s : State) (a b : Nat) : Walked trackParts s (s.frameCopy a b) := by
  unfold State.frameCopy
  generalize 4096 = n
  exact (frameRead_walked s a 0 n).andThen (frameWrite_walked _ b 0 _)

/-! ### Pages that a track owns (R210, R216) -/

/-- The buffer holds no entry of a page. -/
def Unbuffered (s : State) (p : Fin 128) : Prop := ∀ j, ∀ e ∈ vget s.hist.lab j, e.page ≠ p

theorem translate_miss {s : State} {p : Fin 128} (h : Unbuffered s p) {x : TrackRec} (hv : (x.pte p.val).v = true) (t : TrackId) :
    s.translate t x p = (some ((x.pte p.val).frame, (x.pte p.val).sh), missState s t x p) := by
  have hfind : (vget s.hist.lab (labSet t p)).find? (fun e => e.track == t && e.page == p) = none := by
    rw [List.find?_eq_none]
    intro e he
    simp [h _ e he]
  unfold State.translate
  dsimp only
  rw [hfind]
  dsimp only
  rw [if_pos hv]
  rfl

/-- A miss brings in one entry, of its own page. -/
theorem unbuffered_missState {s : State} (h : ∀ j, vget s.hist.lab j = []) (t : TrackId) (x : TrackRec) {p q : Fin 128} (hpq : p ≠ q) :
    Unbuffered (missState s t x p) q := by
  intro j e he
  have hlab : (missState s t x p).hist.lab = vset s.hist.lab (labSet t p)
      ((⟨t, p, x.cell, (x.pte p.val).frame, (x.pte p.val).sh⟩ :: vget s.hist.lab (labSet t p)).take 4) := rfl
  rw [hlab, vget_vset, h, h] at he
  split at he
  · simp only [List.take_succ_cons, List.take_nil, List.mem_cons, List.not_mem_nil, or_false] at he
    rw [he]
    exact hpq
  · cases he

theorem refcnt_missState (s : State) (t : TrackId) (x : TrackRec) (p : Fin 128) : (missState s t x p).hist.refcnt = s.hist.refcnt := rfl

/-- A page that the track maps alone is written where it is, once its pins are 0. -/
theorem ownPage_private {s : State} {x : TrackRec} {page : Nat} (hb : Unbuffered s (page128 page)) (hlt : page < 128) (hv : (x.pte page).v = true)
    (hs : (x.pte page).sh = false) (t : TrackId) (kind : Nat) :
    s.ownPage t x page kind =
      some ((x.pte page).frame, decide (sget 0 s.hist.pin (x.pte page).frame ≠ 0), x, missState s t x (page128 page)) := by
  have hval : (page128 page).val = page := Nat.mod_eq_of_lt hlt
  unfold State.ownPage
  dsimp only
  rw [translate_miss hb (by rw [hval]; exact hv), hval, hs]
  rfl

/-! ### APPEND -/

/-- The newest timestamp of a track. -/
def newestStamp (x : TrackRec) (w : Nat) : Nat := if x.head = 0 then noStamp else x.stamps.getD ((x.head - 1) % w) noStamp

/-- The frames that an append waits for. -/
def appendWaits (h : Hist) (kf vf : Nat) : List Nat :=
  (if sget 0 h.pin kf ≠ 0 then [kf] else []) ++ (if sget 0 h.pin vf ≠ 0 then [vf] else [])

/-- The run that an append at a ring position begins. -/
structure AppendRun (b : List Byte) (x : TrackRec) (g : HistGeo) (f : HistFields) (pos : Nat) (h : Hist) (u : HistRun) : Prop where
  bytes : u.bytes = b
  result : u.result = pos
  writes : u.writes = [⟨f.addr0, (x.pte (pos / g.rgpp false)).frame, pos % g.rgpp false * g.rowGroup false, g.rowGroup false, false⟩,
    ⟨f.addr1, (x.pte (32 + pos / g.rgpp true)).frame, pos % g.rgpp true * g.rowGroup true, g.rowGroup true, true⟩]
  waits : u.waits = appendWaits h (x.pte (pos / g.rgpp false)).frame (x.pte (32 + pos / g.rgpp true)).frame

/-- Both pages of a ring position are the track's own. -/
structure OwnPages (x : TrackRec) (g : HistGeo) (pos : Nat) : Prop where
  key : (x.pte (pos / g.rgpp false)).v = true
  keyOwn : (x.pte (pos / g.rgpp false)).sh = false
  keyIn : pos / g.rgpp false < 32
  value : (x.pte (32 + pos / g.rgpp true)).v = true
  valueOwn : (x.pte (32 + pos / g.rgpp true)).sh = false
  valueIn : pos / g.rgpp true < 32

/-- What an accepted append leaves, from the state with its pages translated. -/
def appendState (w : State) (t : TrackId) (x : TrackRec) (i : Int) (n m : Nat) (c : CellId) (b : List Byte) (u : HistRun) : State :=
  (((((w.putTrack t x).modHist (appendedAt t i)).devAdd .hcAppendWait n).devAdd .hcAppendReplace m).histShare c b).histBegin u

/-- The unit then. -/
theorem hist_appendState (w : State) (t : TrackId) (x : TrackRec) (i : Int) (n m : Nat) (c : CellId) (b : List Byte) (u : HistRun) :
    (appendState w t x i n m c b u).hist = { appendedAt t i w.hist with active := w.hist.active ++ [u] } := by
  have hshare : ((((w.putTrack t x).modHist (appendedAt t i)).devAdd .hcAppendWait n).devAdd .hcAppendReplace m |>.histShare c b).hist =
      appendedAt t i w.hist := by
    rw [hist_histShare, devAdd_hist, devAdd_hist, modHist_hist, hist_putTrack]
  rw [appendState, State.histBegin, modHist_hist, hshare]
  rfl

/-- An append begins at ring position pos, from the state s' with the track bound. -/
def AppendBegins (s s' : State) (b : List Byte) (x : TrackRec) (g : HistGeo) (pos : Nat) (o : Option State) : Prop :=
  ∃ w x' n m u, o = some (appendState w (histOf b).track x' s.now n m x.cell b u) ∧ Walked [.hist, .dev] s' w ∧
    w.hist.refcnt = s'.hist.refcnt ∧ AppendRun b x g (histOf b) pos s'.hist u

/-- An append of a track that is bound already, into pages of its own. -/
theorem histAppend_private {s s' : State} {b : List Byte} {x : TrackRec} {g : HistGeo} {same : Bool} {pos : Nat}
    (hx : (s.trackRec (histOf b).track).1 = x) (ha : x.attached = true) (hg : s.histGeo x.cell = g) (href : (histOf b).ref < g.period) (hw : 1 ≤ g.w)
    (hy : (s.trackRec (histOf b).track).2.rebindAt (histOf b).track x g (histOf b).ref = (x, s')) (hidle : s'.hist.active = [])
    (hlab : ∀ j, vget s'.hist.lab j = [])
    (hsame : same = (decide (newestStamp x g.w ≠ noStamp) && decide (newestStamp x g.w = (histOf b).ref)))
    (hnew : newestStamp x g.w = noStamp ∨ g.reached (histOf b).ref (newestStamp x g.w) = true)
    (hpos : pos = if same then (x.head - 1) % g.w else x.head % g.w) (hown : OwnPages x g pos) (k : Fin 3) :
    AppendBegins s s' b x g pos (s.histAppend k b) := by
  obtain ⟨hkv, hks, hklt, hvv, hvs, hvlt⟩ := hown
  set kp := page128 (pos / g.rgpp false)
  set vp := page128 (32 + pos / g.rgpp true)
  have hmax : max 1 g.w = g.w := Nat.max_eq_right hw
  have hne : kp ≠ vp := by
    rw [Ne, Fin.ext_iff]
    change ¬ (pos / g.rgpp false) % 128 = (32 + pos / g.rgpp true) % 128
    rw [Nat.mod_eq_of_lt (Nat.lt_trans hklt (by decide)), Nat.mod_eq_of_lt (by omega)]
    exact ((Nat.lt_of_lt_of_le hklt (Nat.le_add_right _ _)).ne)
  have hk := ownPage_private (s := s') (x := x) (fun j e he => by rw [hlab] at he; cases he) (by omega) hkv hks (histOf b).track 1
  have hv := ownPage_private (s := missState s' (histOf b).track x kp) (x := x) (unbuffered_missState hlab _ x hne) (by omega) hvv hvs (histOf b).track 2
  have hwalk := (missState_walked s' (histOf b).track x kp).trans (missState_walked _ (histOf b).track x vp)
  have hstamp : (if x.head = 0 then noStamp else x.stamps.getD ((x.head - 1) % g.w) noStamp) = newestStamp x g.w := rfl
  have hkat : g.at_ false pos = (pos / g.rgpp false, pos % g.rgpp false * g.rowGroup false) := rfl
  have hvat : g.at_ true pos = (pos / g.rgpp true, pos % g.rgpp true * g.rowGroup true) := rfl
  have hwriting : s'.hist.writing = [] := by rw [Hist.writing, hidle]; rfl
  unfold State.histAppend
  extract_lets +onlyGivenNames f r g0
  have hr : r.1 = x := hx
  have hg0 : g0 = g := by rw [← hg, ← hr]
  have hy0 : r.2.rebindAt f.track x g f.ref = (x, s') := hy
  rw [hr, hg0, if_neg (by rw [ha]; decide), if_neg (Nat.not_le.mpr href), hy0]
  have hnot : ¬(newestStamp x g.w ≠ noStamp ∧ g.reached f.ref (newestStamp x g.w) = false) :=
    fun h => hnew.elim h.1 fun h' => Bool.false_ne_true (h.2.symm.trans h')
  have hsame0 : same = (decide (newestStamp x g.w ≠ noStamp) && decide (newestStamp x g.w = f.ref)) := hsame
  dsimp only
  rw [hmax, hstamp, if_neg hnot, ← hsame0, ← hpos, hkat, hvat, hwriting]
  dsimp only
  rw [if_neg (by simp), hk]
  dsimp only
  rw [hv]
  dsimp only [Option.map_some]
  exact ⟨_, _, _, _, _, rfl, hwalk, rfl, rfl, rfl, rfl, by simp [appendWaits]; rfl⟩

/-- An APPEND as a command. -/
theorem append_served {s : State} {k : Fin 3} {r : HistReq} {rest : List HistReq} {f : HistFields} {x : TrackRec} {g : HistGeo} {same : Bool} {pos : Nat}
    (h : HistServes s k r rest f 2) (hck : histCheck r.bytes r.hall = none) (hx : (s.trackRec f.track).1 = x) (ha : x.attached = true)
    (hg : s.histGeo x.cell = g) (href : f.ref < g.period) (hw : 1 ≤ g.w) (hgen : (s.prefixRec x.cell).1.gen = x.gen) (hidle : s.hist.active = [])
    (hlab : ∀ j, vget s.hist.lab j = [])
    (hsame : same = (decide (newestStamp x g.w ≠ noStamp) && decide (newestStamp x g.w = f.ref)))
    (hnew : newestStamp x g.w = noStamp ∨ g.reached f.ref (newestStamp x g.w) = true)
    (hpos : pos = if same then (x.head - 1) % g.w else x.head % g.w) (hown : OwnPages x g pos) :
    ∃ t u, exec (.append .served) s = .next t ∧ t.hist.active = [u] ∧ AppendRun r.bytes x g f pos s.hist u ∧ vget t.hist.last f.track = s.now ∧
      vget t.hist.rings k = rest ∧ t.hist.refcnt = s.hist.refcnt ∧ t.hist.pin = s.hist.pin := by
  obtain rfl := h.fields
  have hr := trackRec_walked s (histOf r.bytes).track
  have hp := prefixRec_walked (s.trackRec (histOf r.bytes).track).2 x.cell
  have hgen' : ((s.trackRec (histOf r.bytes).track).2.prefixRec x.cell).1.gen = x.gen := by
    rw [prefixRec_congr (trackRec_reads s _) hr.hist.base, hgen]
  have hs' : ((s.trackRec (histOf r.bytes).track).2.prefixRec x.cell).2.hist = s.hist := (hp.part .hist).trans (hr.part .hist)
  obtain ⟨w, x', n, m, u, hreq, hwalk, href', hu⟩ := histAppend_private hx ha hg href hw
    (rebindAt_same hgen' (histOf r.bytes).track g (histOf r.bytes).ref) (by rw [hs', hidle]) (fun j => by rw [hs', hlab]) hsame hnew hpos hown k
  rw [hs'] at hu href'
  refine ⟨_, u, exec_next rfl (histServe_checked h hck hreq), ?_, hu, ?_, ?_, ?_, ?_⟩
  · rw [modHist_hist, active_ringServed, hist_appendState, hwalk.hist.active, hs', hidle]
    rfl
  · rw [modHist_hist, last_ringServed, hist_appendState]
    exact last_appendedAt _ _ _
  · rw [modHist_hist, rings_ringServed]
  · rw [modHist_hist, refcnt_ringServed, hist_appendState]
    exact href'
  · rw [modHist_hist, pin_ringServed, hist_appendState]
    exact hwalk.hist.pin.trans (by rw [hs'])

/-! ### MIGRATE (R224) -/

/-- The free frames that a location gives. -/
theorem mem_gives {h : Hist} {kind loc q : Nat} (hq : q ∈ h.gives kind loc) : q ∈ h.framesOf loc ∧ h.isFree q = true := by
  unfold Hist.gives at hq
  dsimp only at hq
  split at hq
  · cases hq
  · exact List.mem_filter.mp hq

theorem frameLoc_of_mem {h : Hist} {loc q : Nat} (hq : q ∈ h.framesOf loc) : frameLoc q = loc := by
  unfold Hist.framesOf at hq
  split at hq
  · rw [frameLoc, if_pos (List.mem_range.mp hq)]
  · obtain ⟨i, hi, rfl⟩ := List.mem_map.mp hq
    have hlt := List.mem_range.mp hi
    rw [Hist.plainCount] at hlt
    rw [frameLoc, if_neg (by omega), if_pos (by omega)]
  · obtain ⟨i, -, rfl⟩ := List.mem_map.mp hq
    rw [frameLoc, if_neg (by omega), if_neg (by omega)]
  · cases hq

/-- A location that has a free frame gives one of them. -/
theorem allocFrom_one {s : State} {kind loc : Nat} (h : s.hist.gives kind loc ≠ []) :
    ∃ q ∈ s.hist.gives kind loc, s.allocFrom kind [loc] = some (q, (s.drew 1).modHist fun h => h.ref q 1) := by
  have hlt : (s.freeBits 0).toNat % (s.hist.gives kind loc).length < (s.hist.gives kind loc).length := Nat.mod_lt _ (List.length_pos_iff.mpr h)
  refine ⟨(s.hist.gives kind loc)[(s.freeBits 0).toNat % (s.hist.gives kind loc).length], List.getElem_mem hlt, ?_⟩
  unfold State.allocFrom
  split
  · rename_i hnil
    exact absurd hnil h
  · rw [List.getElem?_eq_getElem hlt]
    rfl

/-- A frame of a location taken, with a page copied into it. -/
def pageMoved (s : State) (p : Pte) (q : Nat) : State := ((s.drew 1).modHist fun h => h.ref q 1).frameCopy p.frame q

/-- The entry of a page that has moved to a frame. -/
def movedPte (p : Pte) (q : Nat) : Pte := { p with frame := q, sh := false }

/-- A page moved, with its record written, its old frame released and the buffer told. -/
def migrated (s : State) (t : TrackId) (x : TrackRec) (page : Nat) (q : Nat) : State :=
  ((pageMoved s (x.pte page) q).putTrack t (x.setPte page (movedPte (x.pte page) q))).modHist
    fun h => (h.refDown (x.pte page).frame).labInval t page (page + 1)

abbrev moveParts : List Part := .free :: trackParts

theorem pageMoved_walked (s : State) (p : Pte) (q : Nat) : Walked moveParts s (pageMoved s p q) :=
  ((drew_walked s 1).andThen (modHist_walked (s.drew 1) (histKept_ref _ q 1)) (rs := moveParts)).andThen (frameCopy_walked _ p.frame q)

theorem trackShaped_setPte {x : TrackRec} (h : TrackShaped x) (page : Nat) (p : Pte) : TrackShaped (x.setPte page p) :=
  ⟨h.stamps, (List.length_set ..).trans h.ptes⟩

theorem putMoved_walked (s : State) (t : TrackId) (x : TrackRec) (page q : Nat) :
    Walked moveParts s ((pageMoved s (x.pte page) q).putTrack t (x.setPte page (movedPte (x.pte page) q))) :=
  (pageMoved_walked s (x.pte page) q).andThen (putTrack_walked _ t _)

theorem migrated_walked (s : State) (t : TrackId) (x : TrackRec) (page q : Nat) : Walked moveParts s (migrated s t x page q) :=
  (putMoved_walked s t x page q).andThen (modHist_walked _ ((histKept_ref _ (x.pte page).frame _).trans (histKept_labInval _ t page (page + 1))))

theorem memRead_migrated {s : State} {t : TrackId} (h : WalkerMayWrite s t) {x : TrackRec} (hx : TrackShaped x) (hm : MemOk s) (page q : Nat) :
    memRead (migrated s t x page q).mem (s.hist.trackAddr t) 2048 = (x.setPte page (movedPte (x.pte page) q)).bytes := by
  have hw := pageMoved_walked s (x.pte page) q
  rw [migrated, modHist_mem, ← hw.trackAddr]
  exact memRead_putTrack (hw.mayWrite h) (trackShaped_setPte hx page _) (hw.memOk hm)

/-- The location that the frames of a page come from, by the kind of page. -/
def pageKind (page : Nat) : Nat := if page < 32 then 1 else if page < 64 then 2 else 0

/-- A migration of an unpinned page that one entry maps, where a frame is free. -/
theorem histMigrate_moves {s : State} {b : List Byte} {x : TrackRec} (hs : s.trackRec (histOf b).track = (x, s)) (ha : x.attached = true)
    (hloc : (histOf b).loc ≠ 3) (hpage : (histOf b).page < 128) (hv : (x.pte (histOf b).page).v = true)
    (href : sget 0 s.hist.refcnt (x.pte (histOf b).page).frame ≤ 1) (hpin : sget 0 s.hist.pin (x.pte (histOf b).page).frame = 0)
    (hidle : s.hist.active = []) (hgives : s.hist.gives (pageKind (histOf b).page) (histOf b).loc ≠ []) (k : Fin 3) :
    ∃ q ∈ s.hist.gives (pageKind (histOf b).page) (histOf b).loc, ∃ u,
      requestOf 7 s k b = some ((migrated s (histOf b).track x (histOf b).page q).histBegin u) ∧
      u.copies = [((x.pte (histOf b).page).frame, q)] ∧ u.writes = [] ∧ u.waits = [] := by
  obtain ⟨q, hq, halloc⟩ := allocFrom_one hgives
  have hwriting : s.hist.writing = [] := by rw [Hist.writing, hidle]; rfl
  have hbad : ¬((histOf b).loc = 3 ∨ 128 ≤ (histOf b).page ∨ (x.pte (histOf b).page).v = false ∨
      1 < sget 0 s.hist.refcnt (x.pte (histOf b).page).frame) := by
    rw [hv]
    simp only [Bool.true_eq_false, false_or]
    omega
  have hwait : ¬(s.hist.writing.contains (x.pte (histOf b).page).frame = true ∨ sget 0 s.hist.pin (x.pte (histOf b).page).frame ≠ 0) := by
    rw [hwriting, hpin]
    simp
  refine ⟨q, hq, ⟨k, b, [], [], [], 0, 0, [], [((x.pte (histOf b).page).frame, q)], 0, false⟩, ?_, rfl, rfl, rfl⟩
  unfold requestOf State.histMigrate
  dsimp only
  rw [hs]
  dsimp only
  rw [if_neg (by rw [ha]; decide), if_neg hbad, if_neg hwait]
  change (match s.allocFrom (pageKind (histOf b).page) [(histOf b).loc] with | none => _ | some (q, s1) => _) = _
  rw [halloc]
  rfl

/-- A MIGRATE as a command. -/
theorem migrate_served {s : State} {k : Fin 3} {r : HistReq} {rest : List HistReq} {f : HistFields} {x : TrackRec}
    (h : HistServes s k r rest f 7) (hck : histCheck r.bytes r.hall = none) (hx : (s.trackRec f.track).1 = x) (ha : x.attached = true)
    (hloc : f.loc ≠ 3) (hpage : f.page < 128) (hv : (x.pte f.page).v = true) (href : sget 0 s.hist.refcnt (x.pte f.page).frame ≤ 1)
    (hpin : sget 0 s.hist.pin (x.pte f.page).frame = 0) (hidle : s.hist.active = []) (hw : WalkerMayWrite s f.track) (hm : MemOk s)
    (hgives : s.hist.gives (pageKind f.page) f.loc ≠ []) :
    ∃ t u q, exec (.migrate .served) s = .next t ∧ t.hist.active = [u] ∧ u.copies = [((x.pte f.page).frame, q)] ∧ u.writes = [] ∧ u.waits = [] ∧
      memRead t.mem (s.hist.trackAddr f.track) 2048 = (x.setPte f.page (movedPte (x.pte f.page) q)).bytes ∧ sget 0 s.hist.refcnt q = 0 ∧
      sget 0 s.hist.pin q = 0 ∧ frameLoc q = f.loc ∧ vget t.hist.rings k = rest ∧ t.hist.pin = s.hist.pin ∧
      OnlyChanges [.mem, .hist, .dev, .fab, .host, .free] s t := by
  obtain rfl := h.fields
  have hshape : TrackShaped x := hx ▸ trackShaped_trackRec s _
  obtain ⟨q, hq, u, hreq, hcopies, hwrites, hwaits⟩ :=
    histMigrate_moves (Prod.ext hx (trackRec_mayWrite hw)) ha hloc hpage hv href hpin hidle hgives k
  have hmoved := migrated_walked s (histOf r.bytes).track x (histOf r.bytes).page q
  obtain ⟨hframe, hfree⟩ := mem_gives hq
  simp only [Hist.isFree, Bool.and_eq_true, beq_iff_eq] at hfree
  refine ⟨_, u, q, exec_next rfl (histServe_checked h hck hreq), ?_, hcopies, hwrites, hwaits, ?_, hfree.1, hfree.2, frameLoc_of_mem hframe, ?_, ?_, ?_⟩
  · rw [modHist_hist, active_ringServed, active_histBegin, hmoved.hist.active, hidle]
    rfl
  · rw [modHist_mem, mem_histBegin]
    exact memRead_migrated hw hshape hm _ q
  · rw [modHist_hist, rings_ringServed]
  · rw [modHist_hist, pin_ringServed, pin_histBegin, hmoved.hist.pin]
  · exact onlyChanges_trans (onlyChanges_mono hmoved.only (by decide)) (onlyChanges_trans (onlyChanges_mono (histBegin_only _ u) (by decide))
      (onlyChanges_mono (modHist_touches _ _).only (by decide)))

end Sys2Proof.Safety
end

/-! PREFIX_WRITE: a new generation of a cell's pages (R218), and the requests that begin to move data. -/
section
namespace Sys2Proof.Safety
open Sys2Proof.Machine

/-! ### The cell's record and its tracks -/

/-- A cell's record that lies in Plain, where the walker may write it. -/
theorem prefixRec_mayWrite {s : State} {c : CellId} {off : Nat} (hp : placeOf (s.hist.prefixAddr c) 1024 = .plain off)
    (hr : s.fwRefused (histSource 0) true off 1024 = none) : (s.prefixRec c).2 = s := by
  rw [prefixRec_eq, agentRead_plain hp (fwRefused_read_of_write hr)]

/-- Where every track of the cell is bound to the generation, none is bound again. -/
theorem rebindCell_bound {s : State} {c : CellId} {gen : Nat}
    (h : ∀ y, (s.trackRec y).1.attached = true → (s.trackRec y).1.cell = c → (s.trackRec y).1.gen = gen) : s.rebindCell c gen = s :=
  List.foldl_fixed' (fun y => if_neg fun ⟨ha, hc, hne⟩ => hne (h y ha hc)) _

/-! ### The pages of the new generation -/

/-- A page that is mapped once and not pinned. -/
def OwnedPte (h : Hist) (p : Pte) : Prop := p.v = true ∧ sget 0 h.refcnt p.frame = 1 ∧ sget 0 h.pin p.frame = 0

/-- The page of the cell that holds a position's keys or values. -/
def prefixPage (g : HistGeo) : Bool → Nat → Nat
  | false, p => (g.at_ false p).1
  | true, p => 32 + (g.at_ true p).1

theorem prefixPage_eq (g : HistGeo) (v : Bool) (p : Nat) : prefixPage g v p = (if v then 32 else 0) + p / g.rgpp v := by
  cases v with
  | false => exact (Nat.zero_add _).symm
  | true => rfl

/-- The positions that a request writes. -/
def prefixPositions (f : HistFields) : List Nat := (List.range f.count).map (f.first + ·)

/-- Their pages. -/
def prefixPages (g : HistGeo) (f : HistFields) : List Nat :=
  ((prefixPositions f).map (prefixPage g false)).eraseDups ++ ((prefixPositions f).map (prefixPage g true)).eraseDups

theorem mem_prefixPositions {f : HistFields} {p : Nat} : p ∈ prefixPositions f ↔ f.first ≤ p ∧ p < f.first + f.count := by
  rw [prefixPositions, List.mem_map]
  constructor
  · rintro ⟨i, hi, rfl⟩
    have := List.mem_range.mp hi
    omega
  · rintro ⟨hle, hlt⟩
    exact ⟨p - f.first, List.mem_range.mpr (by omega), by omega⟩

theorem mem_prefixPages {g : HistGeo} {f : HistFields} {i : Nat} (h : i ∈ prefixPages g f) :
    ∃ j v, j < f.count ∧ i = prefixPage g v (f.first + j) := by
  rw [prefixPages, List.mem_append, List.mem_eraseDups, List.mem_eraseDups, List.mem_map, List.mem_map] at h
  obtain ⟨p, hp, rfl⟩ | ⟨p, hp, rfl⟩ := h <;> obtain ⟨j, hj, rfl⟩ := List.mem_map.mp hp
  · exact ⟨j, false, List.mem_range.mp hj, rfl⟩
  · exact ⟨j, true, List.mem_range.mp hj, rfl⟩

/-- Pages that are owned stay where they are. -/
theorem ownPrefixes_owned {s : State} {ptes : List Pte} {pages : List Nat} (h : ∀ i ∈ pages, OwnedPte s.hist (ptes.getD i Pte.empty)) :
    s.ownPrefixes ptes pages = some (ptes, s) := by
  induction pages with
  | nil => rfl
  | cons i is ih =>
    obtain ⟨hv, href, hpin⟩ := h i List.mem_cons_self
    have hone : s.ownPrefix ptes i = some (ptes, s) := by
      unfold State.ownPrefix
      dsimp only
      rw [hv, if_neg (by decide), if_pos ⟨href, hpin⟩]
    rw [State.ownPrefixes, hone]
    exact ih fun j hj => h j (List.mem_cons_of_mem i hj)

/-- The entries of a cell's pages with their generation. -/
def regenerated (gen : Nat) (ptes : List Pte) : List Pte := ptes.map fun p => if p.v then { p with gen := gen } else p

theorem length_regenerated (gen : Nat) (ptes : List Pte) : (regenerated gen ptes).length = ptes.length := List.length_map _

theorem frame_regenerated (gen : Nat) (ptes : List Pte) (i : Nat) :
    ((regenerated gen ptes).getD i Pte.empty).frame = (ptes.getD i Pte.empty).frame := by
  simp only [regenerated, List.getD_eq_getElem?_getD, List.getElem?_map]
  cases ptes[i]? with
  | none => rfl
  | some p =>
    simp only [Option.map_some, Option.getD_some]
    split <;> rfl

/-- No page has moved. -/
theorem copiedPages_regenerated (gen : Nat) (ptes : List Pte) (pages : List Nat) : copiedPages ptes (regenerated gen ptes) pages = [] := by
  rw [copiedPages, List.filterMap_eq_nil_iff]
  intro i _
  dsimp only
  rw [if_neg (fun h => h.2 (frame_regenerated gen ptes i).symm)]

/-- The valid bits with those of some positions set. -/
def validated (v : BitVec 64) (l : List Nat) : BitVec 64 := l.foldl (fun v p => v ||| ((1 : BitVec 64) <<< p)) v

theorem getLsbD_validated {i : Nat} (hi : i < 64) (l : List Nat) (v : BitVec 64) :
    (validated v l).getLsbD i = true ↔ v.getLsbD i = true ∨ i ∈ l := by
  induction l generalizing v with
  | nil => simp [validated]
  | cons p l ih =>
    have hbit : (v ||| ((1 : BitVec 64) <<< p)).getLsbD i = true ↔ v.getLsbD i = true ∨ i = p := by
      have hone : ((1 : BitVec 64).getLsbD (i - p)) = decide (i - p = 0) := by
        rw [show (1 : BitVec 64) = 1#64 from rfl, BitVec.getLsbD_one]
        simp
      rw [BitVec.getLsbD_or, BitVec.getLsbD_shiftLeft, hone]
      have hdec : (decide (i < 64) && !decide (i < p) && decide (i - p = 0)) = true ↔ i = p := by
        simp only [Bool.and_eq_true, Bool.not_eq_true', decide_eq_false_iff_not, decide_eq_true_eq]
        omega
      rw [Bool.or_eq_true, hdec]
    change (validated (v ||| ((1 : BitVec 64) <<< p)) l).getLsbD i = true ↔ _
    rw [ih, hbit, List.mem_cons, or_assoc]

/-! ### The writes -/

/-- A row group of the request and where it goes. -/
def prefixWrite (g : HistGeo) (f : HistFields) (ptes : List Pte) (i : Nat) (v : Bool) : HistWrite :=
  ⟨(if v then f.addr1 else f.addr0) + i * g.rowGroup v, (ptes.getD (prefixPage g v (f.first + i)) Pte.empty).frame,
    (f.first + i) % g.rgpp v * g.rowGroup v, g.rowGroup v, false⟩

/-- The writes of a request, a row group of keys and one of values for each position. -/
def prefixWrites (g : HistGeo) (f : HistFields) (ptes : List Pte) : List HistWrite :=
  (List.range f.count).flatMap fun i => [prefixWrite g f ptes i false, prefixWrite g f ptes i true]

theorem length_prefixWrites (g : HistGeo) (f : HistFields) (ptes : List Pte) : (prefixWrites g f ptes).length = 2 * f.count := by
  simp [prefixWrites, List.length_flatMap, Nat.mul_comm]

theorem mem_prefixWrites {g : HistGeo} {f : HistFields} {ptes : List Pte} {w : HistWrite} (h : w ∈ prefixWrites g f ptes) :
    ∃ i v, i < f.count ∧ w = prefixWrite g f ptes i v := by
  obtain ⟨i, hi, hw⟩ := List.mem_flatMap.mp h
  rw [List.mem_pair] at hw
  obtain hw | hw := hw
  · exact ⟨i, false, List.mem_range.mp hi, hw⟩
  · exact ⟨i, true, List.mem_range.mp hi, hw⟩

theorem prefixWrites_regenerated (g : HistGeo) (f : HistFields) (gen : Nat) (ptes : List Pte) :
    prefixWrites g f (regenerated gen ptes) = prefixWrites g f ptes := by
  simp only [prefixWrites, prefixWrite, frame_regenerated]

/-! ### The request -/

/-- The generation after one. -/
def nextGen (x : PrefixRec) : Nat := (x.gen + 1) % 2 ^ 32

/-- The record of the new generation. -/
def nextPrefix (x : PrefixRec) (f : HistFields) (h : Hist) : PrefixRec :=
  ⟨nextGen x, f.ref, validated x.valid (prefixPositions f), h.markShared (regenerated (nextGen x) x.ptes)⟩

/-- The unit keeps the valid bits of the generation before. -/
def keptValid (c : CellId) (v : BitVec 64) (h : Hist) : Hist := { h with oldValid := vset h.oldValid c v }

/-- The run that writes a new generation. -/
def prefixRun (k : Fin 3) (b : List Byte) (g : HistGeo) (x : PrefixRec) : HistRun :=
  { cls := k, bytes := b, waits := [], pins := [], ctx := [], tok := g.tok, lk := g.lk, 
    writes := prefixWrites g (histOf b) (regenerated (nextGen x) x.ptes)
    copies := copiedPages x.ptes (regenerated (nextGen x) x.ptes) (prefixPages g (histOf b)), result := 0, shot := false }

theorem writes_prefixRun (k : Fin 3) (b : List Byte) (g : HistGeo) (x : PrefixRec) :
    (prefixRun k b g x).writes = prefixWrites g (histOf b) x.ptes := prefixWrites_regenerated g (histOf b) _ x.ptes

theorem copies_prefixRun (k : Fin 3) (b : List Byte) (g : HistGeo) (x : PrefixRec) : (prefixRun k b g x).copies = [] :=
  copiedPages_regenerated _ x.ptes _

/-- What an accepted PREFIX_WRITE leaves. -/
def prefixState (s : State) (c : CellId) (y : PrefixRec) (v : BitVec 64) (b : List Byte) (u : HistRun) : State :=
  (((s.putPrefix c y).modHist (keptValid c v)).histShare c b).histBegin u

theorem hist_prefixState (s : State) (c : CellId) (y : PrefixRec) (v : BitVec 64) (b : List Byte) (u : HistRun) :
    (prefixState s c y v b u).hist = { keptValid c v s.hist with active := s.hist.active ++ [u] } := by
  have hput : (s.putPrefix c y).hist = s.hist := (putPrefix_walked s c y).part .hist
  rw [prefixState, State.histBegin, modHist_hist, hist_histShare, modHist_hist, hput]
  rfl

theorem mem_prefixState (s : State) (c : CellId) (y : PrefixRec) (v : BitVec 64) (b : List Byte) (u : HistRun) :
    (prefixState s c y v b u).mem = (s.putPrefix c y).mem := by
  rw [prefixState, mem_histBegin, mem_histShare, modHist_mem]

/-- A PREFIX_WRITE of a cell whose tracks are all bound and whose pages are owned. -/
theorem histPrefix_owned {s : State} {b : List Byte} {c : CellId} {g : HistGeo} {x : PrefixRec} (hc : c.val = (histOf b).cell) (hg : s.histGeo c = g)
    (hcount : (histOf b).count ≠ 0) (hin : (histOf b).first + (histOf b).count ≤ g.p) (href : (histOf b).ref < g.period)
    (hx : s.prefixRec c = (x, s)) (hbound : s.rebindCell c x.gen = s) (hidle : s.hist.active = [])
    (hown : ∀ i ∈ prefixPages g (histOf b), OwnedPte s.hist (x.ptes.getD i Pte.empty)) (k : Fin 3) :
    s.histPrefix k b = some (prefixState s c (nextPrefix x (histOf b) s.hist) x.valid b (prefixRun k b g x)) := by
  have hlt : (histOf b).cell < 16 := hc ▸ c.isLt
  obtain rfl : c = ⟨(histOf b).cell, hlt⟩ := Fin.ext hc
  have hwriting : s.hist.writing = [] := by rw [Hist.writing, hidle]; rfl
  unfold State.histPrefix
  extract_lets +onlyGivenNames f
  rw [dif_pos hlt]
  extract_lets +onlyGivenNames c0 g0
  have hg0 : g0 = g := hg
  have hx0 : s.prefixRec c0 = (x, s) := hx
  have hfine : ¬(f.count = 0 ∨ g.p < f.first + f.count ∨ g.period ≤ f.ref) := by
    rintro (h | h | h)
    exacts [hcount h, Nat.not_lt.mpr hin h, Nat.not_le.mpr href h]
  rw [hg0, if_neg hfine, hx0]
  dsimp only
  rw [hbound, hx]
  dsimp only
  rw [hwriting, if_neg (by simp)]
  change (match s.ownPrefixes x.ptes (prefixPages g (histOf b)) with | none => _ | some (ptes, s1) => _) = _
  rw [ownPrefixes_owned hown]
  rfl

/-- A PREFIX_WRITE as a command. -/
theorem prefixWrite_served {s : State} {k : Fin 3} {r : HistReq} {rest : List HistReq} {f : HistFields} {c : CellId} {g : HistGeo} {x : PrefixRec}
    (h : HistServes s k r rest f 6) (hck : histCheck r.bytes r.hall = none) (hc : c.val = f.cell) (hg : s.histGeo c = g) (hcount : f.count ≠ 0)
    (hin : f.first + f.count ≤ g.p) (href : f.ref < g.period) (hx : (s.prefixRec c).1 = x)
    (hbound : ∀ y, (s.trackRec y).1.attached = true → (s.trackRec y).1.cell = c → (s.trackRec y).1.gen = x.gen) (hidle : s.hist.active = [])
    (hown : ∀ i, i < f.count → ∀ v, OwnedPte s.hist (x.ptes.getD (prefixPage g v (f.first + i)) Pte.empty))
    (hplain : ∃ off, placeOf (s.hist.prefixAddr c) 1024 = .plain off ∧ s.fwRefused (histSource 0) true off 1024 = none) (hm : MemOk s) :
    ∃ t, exec (.prefixWrite .served) s = .next t ∧ memRead t.mem (s.hist.prefixAddr c) 1024 = (nextPrefix x f s.hist).bytes ∧
      t.hist.active = [prefixRun k r.bytes g x] ∧ vget t.hist.oldValid c = x.valid ∧ vget t.hist.rings k = rest := by
  obtain rfl := h.fields
  obtain ⟨off, hp, hr⟩ := hplain
  have hlen : (nextPrefix x (histOf r.bytes) s.hist).ptes.length = 64 := by
    rw [nextPrefix, length_markShared, length_regenerated, ← hx, length_prefixRec_ptes]
  have hpages : ∀ i ∈ prefixPages g (histOf r.bytes), OwnedPte s.hist (x.ptes.getD i Pte.empty) := by
    intro i hi
    obtain ⟨j, v, hj, rfl⟩ := mem_prefixPages hi
    exact hown j hj v
  have hreq := histPrefix_owned hc hg hcount hin href (Prod.ext hx (prefixRec_mayWrite hp hr)) (rebindCell_bound hbound) hidle hpages k
  refine ⟨_, exec_next rfl (histServe_checked h hck hreq), ?_, ?_, ?_, ?_⟩
  · rw [modHist_mem, mem_prefixState]
    exact memRead_putPrefix hp hr hlen hm
  · rw [modHist_hist, active_ringServed, hist_prefixState, hidle]
    rfl
  · rw [modHist_hist, oldValid_ringServed, hist_prefixState]
    exact vget_vset_same _ c x.valid
  · rw [modHist_hist, rings_ringServed]

/-- Settles O28: a fetch pins what its track maps, an append and a PREFIX_WRITE begin their writes, a migration takes a free frame. -/
theorem historyRequestsStartMoving : Obligations.HistoryRequestsStartMoving := by
  unfold Obligations.HistoryRequestsStartMoving
  refine ⟨?fetch, ?append, ?migrate, ?generation⟩
  case fetch =>
    intro s k r rest f x g h hck hx ha hg hage hcount htok href hpin
    obtain ⟨t, u, hex, hact, hu, hring, honly⟩ := fetch_served h hck hx ha hg hage hcount htok href hpin
    exact ⟨t, u, hex, hact, hu.bytes, hu.cls, hu.waits, hu.writes, hu.copies, hu.result, hu.stale, hu.short, hring, honly⟩
  case append =>
    intro s k r rest f x g same pos h hck hx ha hg href hw _ hgen hidle hlab hnewest hpos hkv hks hkin hvv hvs hvin
    obtain ⟨t, u, hex, hact, hu, hlast, hring, hrefs, hpins⟩ :=
      append_served h hck hx ha hg href hw hgen hidle hlab hnewest.1 hnewest.2 hpos ⟨hkv, hks, hkin, hvv, hvs, hvin⟩
    exact ⟨t, u, hex, hact, hu.bytes, hu.result, hu.writes, hu.waits, hlast, hring, hrefs, hpins⟩
  case migrate =>
    intro s k r rest f x p h hck hx ha hloc hpage hp hv href hpin hidle hw hm hgives
    subst hp
    exact migrate_served h hck hx ha hloc hpage hv href hpin hidle hw hm hgives
  case generation =>
    intro s k r rest f c g x h hck hc hg hcount hin hp href hx hbound hidle hown hplain hm
    simp only [← prefixPage_eq] at hown ⊢
    obtain ⟨t, hex, hmem, hact, hold, hring⟩ := prefixWrite_served h hck hc hg hcount hin href hx hbound hidle hown hplain hm
    refine ⟨t, _, _, hex, hmem, rfl, rfl, fun i hi => ?_, hact, rfl, rfl, copies_prefixRun k r.bytes g x, ?_, fun w hw => ?_, hold, hring⟩
    · exact (getLsbD_validated hi _ _).trans (or_congr_right mem_prefixPositions)
    · rw [writes_prefixRun, length_prefixWrites, h.fields]
    · rw [writes_prefixRun, h.fields] at hw
      exact mem_prefixWrites hw

end Sys2Proof.Safety
end

/-! Requests that end, writes that go on, and shoot-downs (R205, R206, R210, R222). -/
section
namespace Sys2Proof.Safety
open Sys2Proof.Machine

/-! ### Accesses by a request -/

theorem placeOf_beyond {a n : Nat} (h : 0x10000000 ≤ a) (o : Nat) : placeOf a n ≠ .register o := by
  unfold placeOf
  dsimp only
  rw [if_neg (by omega)]
  repeat' split
  all_goals exact Place.noConfusion

/-- Past register space a write is one of memory. -/
theorem fabricPut_beyond {a : Nat} (h : 0x10000000 ≤ a) (s : State) (src : Source) (bs : List Byte) :
    s.fabricPut src a bs = s.agentWrite src a bs := by
  unfold State.fabricPut
  split
  · exact absurd ‹_› (placeOf_beyond h _)
  · rfl

theorem fabricPut_walked {a : Nat} (h : 0x10000000 ≤ a) (s : State) (src : Source) (bs : List Byte) :
    Walked [.mem, .dev, .fab, .host] s (s.fabricPut src a bs) := by
  rw [fabricPut_beyond h]
  exact agentWrite_walked s src a bs

theorem fabricGet_walked (s : State) (src : Source) (a n : Nat) : Walked [.dev, .fab, .host] s (s.fabricGet src a n).2 := by
  unfold State.fabricGet
  split
  · exact .refl _ s
  · exact agentRead_walked s src a n

/-- A read of a stall memory whose domain is on. -/
theorem fabricGet_stallMem {s : State} {a n off : Nat} {m : StallId} (hp : placeOf a n = .stallMem m off) (hon : s.domainOn m.val = true)
    (src : Source) : s.fabricGet src a n = (memRead s.mem a n, s) := by
  have hread : memRead s.mem (stallBase m + off) n = memRead s.mem a n := by
    obtain rfl | hn := Nat.eq_zero_or_pos n
    · rfl
    · rw [(placeOf_eq_stallMem hn hp).1]
  rw [State.fabricGet, hp]
  dsimp only
  rw [State.agentRead, hp]
  dsimp only
  rw [State.localRead, if_pos hon, hread]

/-- The device with an address of an uncorrectable error. -/
def ueNoted (s : State) (w : Word) : State := { s.devInc .dramUe with fab := { s.fab with ueAddr := w } }

theorem ueNoted_walked (s : State) (w : Word) : Walked [.dev, .fab] s (ueNoted s w) :=
  ⟨onlyChanges_trans (onlyChanges_mono (devAdd_only s .dramUe 1) (by decide))
    (onlyChanges_mono (setFab_touches (s.devInc .dramUe) _).only (by decide)), ⟨rfl, rfl, rfl, rfl⟩, id, .refl _⟩

theorem ueRaised_walked (s : State) (w : Word) (y c : Nat) (bs : List Byte) : Walked [.dev, .fab, .host] s ((ueNoted s w).raise y c bs) :=
  (ueNoted_walked s w).andThen (.of_only (raise_only (ueNoted s w) y c bs) : Walked [.dev, .host] _ _)

theorem dramUe_walked (s : State) (a : Nat) : Walked [.dev, .fab, .host] s (s.dramUe a) := by
  unfold State.dramUe
  exact ueRaised_walked s _ _ _ _

theorem frameEcc_walked (s : State) (q : Nat) (c : Ecc) : Walked [.dev, .fab, .host] s (s.frameEcc q c) := by
  cases c with
  | clean => exact .refl _ s
  | corrected => exact (devInc_walked s .dramCe).mono
  | uncorrectable => exact dramUe_walked s _

/-- What a request's reads from DRAM leave. -/
def eccState (s : State) (r : HistRun) (c : Ecc) : State := match r.dramFrames with | q :: _ => s.frameEcc q c | [] => s

theorem eccState_walked (s : State) (r : HistRun) (c : Ecc) : Walked [.dev, .fab, .host] s (eccState s r c) := by
  unfold eccState
  split
  · exact frameEcc_walked s _ c
  · exact .refl _ s

/-- A read that can be corrected is no more than counted. -/
theorem eccState_correctable (s : State) (r : HistRun) {c : Ecc} (hc : c ≠ .uncorrectable) : Walked [.dev] s (eccState s r c) := by
  unfold eccState
  split
  · cases c with
    | clean => exact .refl _ s
    | corrected => exact devInc_walked s .dramCe
    | uncorrectable => exact absurd rfl hc
  · exact .refl _ s

/-- What has copied nothing has no copy to lose. -/
theorem spoilCopies_none {r : HistRun} (h : r.copies = []) (s : State) (q : Nat) : s.spoilCopies r q = s := by
  rw [State.spoilCopies, h]
  rfl

abbrev fetchParts : List Part := [.dev, .fab, .host, .free]

theorem ite_snd_walked {α : Type} {ps : List Part} {s : State} {p q : α × State} {c : Prop} [Decidable c] (hp : Walked ps s p.2)
    (hq : Walked ps s q.2) : Walked ps s (if c then p else q).2 := by
  split
  · exact hp
  · exact hq

theorem fetchLines_walked (s : State) (r : HistRun) (value : Bool) (lost : Option Nat) (first count : Nat) :
    Walked fetchParts s (s.fetchLines r value lost first count).2 := by
  unfold State.fetchLines
  refine foldl_snd_walked (β := List Byte) _ (fun a e => ?_) _ ([], s)
  dsimp only
  split
  · exact .refl _ a.2
  · exact ite_snd_walked (drew_walked a.2 _).mono (frameRead_walked a.2 _ _ _).mono

/-! ### Row groups (R210) -/

/-- The unit as the source of its accesses for a request. -/
def rowSource (r : HistRun) : Source := ⟨evtSource 8 (histOf r.bytes).track.val, r.cls.val, false⟩

/-- What a write puts into its frame. -/
def rowBytes (w : HistWrite) (bs : List Byte) : List Byte := if w.clean then cleanZeros bs else bs

/-- A row group read at its source and written into its frame. -/
def rowWritten (src : Source) (s : State) (w : HistWrite) : State :=
  let d := s.fabricGet src w.src w.len
  d.2.frameWrite w.frame w.off (rowBytes w d.1)

/-- All row groups of a request. -/
def rowsWritten (src : Source) (s : State) (l : List HistWrite) : State := l.foldl (rowWritten src) s

theorem length_cleanZeros (bs : List Byte) : (cleanZeros bs).length = bs.length := by
  induction bs using cleanZeros.induct with
  | case1 bs ih => simp [cleanZeros, ih]
  | case2 a b bs hne ih => simp [cleanZeros, ih]
  | case3 bs hne hne' => simp [cleanZeros]

theorem length_rowBytes (w : HistWrite) (bs : List Byte) : (rowBytes w bs).length = bs.length := by
  unfold rowBytes
  split
  · exact length_cleanZeros bs
  · rfl

/-- Of the unit only the SRAM has changed, and its form is kept. -/
structure SramFilled (s t : State) : Prop where
  walked : Walked [.hist, .dev, .fab, .host] s t
  sram : t.hist = { s.hist with sram := t.hist.sram }
  wf : Mem.wf s.hist.sram = true → Mem.wf t.hist.sram = true

namespace SramFilled

theorem of_walked {s t : State} (h : Walked [.dev, .fab, .host] s t) : SramFilled s t := by
  have hh : t.hist = s.hist := h.part .hist
  exact ⟨h.mono, by rw [hh], by rw [hh]; exact id⟩

theorem trans {s t u : State} (h : SramFilled s t) (k : SramFilled t u) : SramFilled s u :=
  ⟨h.walked.trans k.walked, by rw [k.sram, h.sram], k.wf ∘ h.wf⟩

theorem leaving {s t : State} (h : SramFilled s t) : t.hist.leaving = s.hist.leaving := by rw [h.sram]

theorem refcnt {s t : State} (h : SramFilled s t) : t.hist.refcnt = s.hist.refcnt := by rw [h.sram]

end SramFilled

theorem sramFilled_frameWrite {q : Nat} (h : q < 448) (s : State) (off : Nat) (bs : List Byte) : SramFilled s (s.frameWrite q off bs) := by
  rw [frameWrite_sram h]
  exact ⟨(modHist_walked s (f := sramWritten q off bs) ⟨rfl, rfl, rfl, rfl, rfl, rfl⟩).mono, rfl, memWrite_wf _ bs⟩

theorem sramFilled_rowWritten {w : HistWrite} (h : w.frame < 448) (src : Source) (s : State) : SramFilled s (rowWritten src s w) :=
  (SramFilled.of_walked (fabricGet_walked s src w.src w.len)).trans (sramFilled_frameWrite h _ w.off _)

theorem sramFilled_rowsWritten {l : List HistWrite} (h : ∀ w ∈ l, w.frame < 448) (src : Source) (s : State) : SramFilled s (rowsWritten src s l) := by
  induction l generalizing s with
  | nil => exact .of_walked (.refl _ s)
  | cons w l ih =>
    exact (sramFilled_rowWritten (h w List.mem_cons_self) src s).trans (ih (fun v hv => h v (List.mem_cons_of_mem w hv)) _)

/-- A row group read from a stall memory is in its frame. -/
theorem memRead_rowWritten {s : State} {w : HistWrite} {n : StallId} {off : Nat} (hw : w.frame < 448) (hp : placeOf w.src w.len = .stallMem n off)
    (hon : s.domainOn n.val = true) (hwf : Mem.wf s.hist.sram = true) (src : Source) :
    memRead (rowWritten src s w).hist.sram (w.frame * 4096 + w.off) (memRead s.mem w.src w.len).length = rowBytes w (memRead s.mem w.src w.len) := by
  rw [rowWritten, fabricGet_stallMem hp hon]
  dsimp only
  rw [frameWrite_sram hw, modHist_hist, sramWritten]
  exact memRead_written hwf _ (length_rowBytes w _)

/-- The last row group of a request is in its frame. -/
theorem memRead_rowsWritten {s : State} {l : List HistWrite} {w : HistWrite} {n : StallId} {off : Nat} (hl : ∀ v ∈ l, v.frame < 448)
    (hlast : l.getLast? = some w) (hp : placeOf w.src w.len = .stallMem n off) (hon : s.domainOn n.val = true)
    (hwf : Mem.wf s.hist.sram = true) (src : Source) :
    memRead (rowsWritten src s l).hist.sram (w.frame * 4096 + w.off) (memRead s.mem w.src w.len).length = rowBytes w (memRead s.mem w.src w.len) := by
  obtain ⟨ws, rfl⟩ := List.getLast?_eq_some_iff.mp hlast
  have hfill := sramFilled_rowsWritten (fun v hv => hl v (List.mem_append_left _ hv)) src s
  have hmem : (rowsWritten src s ws).mem = s.mem := hfill.walked.part .mem
  rw [rowsWritten, List.foldl_append, ← hmem]
  exact memRead_rowWritten (hl w (by simp)) hp (by rw [hfill.walked.wall.domainOn, hon]) (hfill.wf hwf) src

/-! ### The end of a request (R205, R206) -/

/-- The unit with a request in progress removed. -/
def endedRun (i : Nat) (h : Hist) : Hist := { h with active := h.active.eraseIdx i }

/-- A state with the frames of a fetch unpinned once each. -/
def unpinned (l : List Nat) (h : Hist) : Hist := l.foldl Hist.pinDown h

theorem unpinned_eq (l : List Nat) (h : Hist) : unpinned l h = { h with pin := (unpinned l h).pin } := by
  unfold unpinned
  induction l generalizing h with
  | nil => rfl
  | cons q l ih => exact ih (h.pinDown q)

theorem leaving_unpinned (l : List Nat) (h : Hist) : (unpinned l h).leaving = h.leaving := by rw [unpinned_eq]

/-- A request ends from a state: off the list, and its record written. -/
def finished (i : Nat) (r : HistRun) (u : State) : State := doneAt (u.modHist (endedRun i)) (histOf r.bytes) 0 r.result

theorem finished_only (i : Nat) (r : HistRun) (u : State) : OnlyChanges [.mem, .hist] u (finished i r u) :=
  onlyChanges_trans (onlyChanges_mono (modHist_touches u _).only (by decide)) (onlyChanges_mono (doneAt_only _ _ 0 r.result) (by decide))

theorem memRead_finished {u : State} (hm : MemOk u) (i : Nat) (r : HistRun) :
    memRead (finished i r u).mem (histOf r.bytes).done 8 = doneBytes (histOf r.bytes) 0 r.result :=
  memRead_doneAt (memOk_modHist hm (endedRun i)) (histOf r.bytes) 0 r.result

theorem hist_finished (i : Nat) (r : HistRun) (u : State) : (finished i r u).hist = endedRun i u.hist := rfl

section
variable {s u : State} {i : Nat} {r : HistRun} {f : HistFields}

/-- No track waits to be detached. -/
theorem finish_eq (hl : u.hist.leaving = []) (hd : DoneInStall u (histOf r.bytes)) :
    ((u.modHist fun h => { h with active := h.active.eraseIdx i }).detachLeaving).histDone r.cls (histOf r.bytes) hDone r.result =
      finished i r u := by
  have hstay : (u.modHist (endedRun i)).detachLeaving = u.modHist (endedRun i) := by
    rw [State.detachLeaving, modHist_hist, endedRun, hl]
    rfl
  change ((u.modHist (endedRun i)).detachLeaving).histDone _ _ hDone r.result = _
  rw [hstay, histDone_inStall (doneInStall_modHist hd _)]
  rfl

/-- A fetch ends with its lines delivered and its pins dropped. -/
theorem complete_fetch (hr : s.hist.active[i]? = some r) (hop : (histOf r.bytes).op = 1) (hwait : r.waits = [])
    (hk : 0x10000000 ≤ (histOf r.bytes).addr0) (hv : 0x10000000 ≤ (histOf r.bytes).addr1) (hd : DoneInStall s (histOf r.bytes))
    (hl : s.hist.leaving = []) (c : Ecc) :
    ∃ u, Walked (.mem :: fetchParts) s u ∧ hcRequestCompleteEffect i c s = finished i r (u.modHist (unpinned r.pins)) := by
  unfold hcRequestCompleteEffect
  rw [hr]
  dsimp -zeta only
  extract_lets +onlyGivenNames f src fin lost s0
  have hs0 : s0 = eccState s r c := rfl
  clear_value s0
  subst hs0
  extract_lets +onlyGivenNames k v masks s1
  have hlines : Walked fetchParts s v.2 := ((eccState_walked s r c).mono.trans (fetchLines_walked _ r false lost f.first f.count)).trans
    (fetchLines_walked k.2 r true lost f.first f.count)
  have hwalk : Walked (.mem :: fetchParts) s s1 := ((hlines.andThen (fabricPut_walked hk v.2 src k.1)).trans
    (fabricPut_walked hv _ src v.1).mono).trans (fabricPut_walked (Nat.le_add_right_of_le hv) _ src masks).mono
  rw [if_neg (not_not.mpr hwait), if_pos hop]
  refine ⟨s1, hwalk, finish_eq ?_ (doneInStall_modHist (hwalk.doneInStall hd) _)⟩
  have hs1 : s1.hist = s.hist := hwalk.part .hist
  exact (leaving_unpinned r.pins s1.hist).trans (by rw [hs1, hl])

/-- Any other request ends with its row groups written, where nothing that it copied is lost. -/
theorem complete_rows (hr : s.hist.active[i]? = some r) (hop : (histOf r.bytes).op ≠ 1) (hwait : r.waits = []) (c : Ecc)
    (hlost : c ≠ .uncorrectable ∨ r.copies = [])
    (hl : (rowsWritten (rowSource r) (eccState s r c) r.writes).hist.leaving = [])
    (hd : DoneInStall (rowsWritten (rowSource r) (eccState s r c) r.writes) (histOf r.bytes)) :
    hcRequestCompleteEffect i c s = finished i r (rowsWritten (rowSource r) (eccState s r c) r.writes) := by
  unfold hcRequestCompleteEffect
  rw [hr]
  dsimp -zeta only
  extract_lets +onlyGivenNames f src fin lost s0
  have hs0 : s0 = eccState s r c := rfl
  clear_value s0
  subst hs0
  rw [if_neg (not_not.mpr hwait), if_neg hop]
  have hnone : lost = none ∨ r.copies = [] := hlost.imp_left fun hc => if_neg hc
  clear_value lost
  extract_lets +onlyGivenNames s1
  have hs1 : s1 = eccState s r c := by
    obtain rfl | hc := hnone
    · rfl
    · cases lost with
      | none => rfl
      | some q => exact spoilCopies_none hc _ q
  rw [hs1]
  exact finish_eq hl hd

end

/-! ### Writes that go on, and shoot-downs (R210, R222) -/

/-- The request at i waits for a frame no longer. -/
def resumedRun (i q : Nat) (h : Hist) : Hist := { h with active := h.active.modify i fun r => { r with waits := r.waits.erase q } }

theorem pinnedWriteResume_first {s : State} {q : Fin 65536} {i : Nat} (hpin : sget 0 s.hist.pin q.val = 0)
    (hi : (s.hist.active.findIdx? fun r => r.waits.contains q.val) = some i) :
    pinnedWriteResumeEffect q s = s.modHist (resumedRun i q.val) := by
  unfold pinnedWriteResumeEffect
  rw [if_pos hpin, hi]
  rfl

/-- The field of HC_LAB that a write of it leaves. -/
def shootSet (v : Word) (h : Hist) : Hist := { h with shoot := v &&& 0x03FF0F30 }

/-- A shoot-down that begins: the entries of its scope go, and the fetches in progress that p selects are waited for. -/
def shootBegun (v : Word) (p : HistRun → Bool) (h : Hist) : Hist :=
  { (shootSet v h).labDrop (fun e => inScope v e.track.val e.cell.val) with
    busy := true, active := h.active.map fun r => if p r then { r with shot := true } else r }

/-- The fetches that may have used an entry of the scope. -/
def shootWaits (s : State) (v : Word) (r : HistRun) : Bool :=
  decide (r.pins ≠ [] ∧ inScope v (histOf r.bytes).track.val (s.trackRec (histOf r.bytes).track).1.cell.val = true)

theorem hcLabShoot_idle {s : State} {v : Word} (hgo : wbit v 0 = true) (hbusy : s.hist.busy = false) :
    hcLabShootEffect v s = s.modHist (shootBegun v (shootWaits s v)) := by
  unfold hcLabShootEffect State.modHist shootBegun shootWaits
  simp only [hgo, hbusy, and_self, ↓reduceIte, decide_eq_true_eq]
  rfl

theorem hcLabShoot_busy {s : State} {v : Word} (hbusy : s.hist.busy = true) : hcLabShootEffect v s = s.modHist (shootSet v) := by
  change ({ s with hist := if wbit v 0 ∧ s.hist.busy = false then _ else shootSet v s.hist } : State) = _
  rw [if_neg (by rw [hbusy]; simp)]
  rfl

theorem labShootDone_quiet {s : State} (h : ∀ r ∈ s.hist.active, r.shot = false) :
    labShootDoneEffect s = s.modHist fun h => { h with busy := false } := by
  have hnone : (s.hist.active.any (·.shot)) = false := List.any_eq_false.mpr fun r hr => by rw [h r hr]; decide
  rw [labShootDoneEffect, hnone]
  rfl

/-- Settles O29: the end of a fetch, of a write and of any other request, the writes that go on, and the shoot-downs. -/
theorem historyRequestsComplete : Obligations.HistoryRequestsComplete := by
  unfold Obligations.HistoryRequestsComplete
  refine ⟨?fetch, ?rows, ?others, ?resume, ?shoot, ?again, ?done⟩
  case fetch =>
    rintro s i c r f hr rfl hop hwait hk hv hd hl hm
    obtain ⟨u, hu, he⟩ := complete_fetch hr hop hwait hk hv hd hl c
    have hhist : u.hist = s.hist := hu.part .hist
    refine ⟨_, exec_next rfl he, memRead_finished (memOk_modHist (hu.memOk hm) _) i r, ?_, ?_⟩
    · rw [hist_finished, modHist_hist, hhist, unpinned_eq]
      rfl
    · exact onlyChanges_trans (onlyChanges_mono hu.only (by decide)) (onlyChanges_trans (onlyChanges_mono (modHist_touches u _).only (by decide))
        (onlyChanges_mono (finished_only i r _) (by decide)))
  case rows =>
    rintro s i c r f w hr rfl hop hwait hcopies hd hl hlast hsram hwf ⟨n, off, hp, hon⟩
    have hecc := eccState_walked s r c
    have hfill := sramFilled_rowsWritten hsram (rowSource r) (eccState s r c)
    have hall := (SramFilled.of_walked hecc).trans hfill
    have hmem : (eccState s r c).mem = s.mem := hecc.part .mem
    have he := complete_rows hr hop hwait c (.inr hcopies) (hall.leaving.trans hl) (hall.walked.doneInStall hd)
    refine ⟨_, exec_next rfl he, ?_, ?_, ?_, hall.walked.hist.pin, ?_⟩
    · rw [hist_finished, endedRun, hall.walked.hist.active]
    · rw [← hmem]
      exact memRead_rowsWritten hsram hlast hp (by rw [hecc.wall.domainOn, hon]) ((SramFilled.of_walked hecc).wf hwf) _
    · exact hall.refcnt
    · exact onlyChanges_trans (onlyChanges_mono hall.walked.only (by decide)) (onlyChanges_mono (finished_only i r _) (by decide))
  case others =>
    rintro s i c r f hr rfl hop hwait hwrites hc hd hl hm
    have hecc := eccState_correctable s r hc
    have hhist : (eccState s r c).hist = s.hist := hecc.part .hist
    have hmem : (eccState s r c).mem = s.mem := hecc.part .mem
    have he := complete_rows hr hop hwait c (.inl hc) (by rw [hwrites]; exact hhist ▸ hl) (by rw [hwrites]; exact hecc.doneInStall hd)
    rw [hwrites] at he
    refine ⟨_, exec_next rfl he, ?_, memRead_finished (hecc.memOk hm) i r, ?_, ?_⟩
    · rw [hist_finished]
      exact congrArg (endedRun i) hhist
    · intro x hx
      rw [finished, memOnly_doneAt _ _ 0 _ x hx]
      exact congrArg (memByte · x) hmem
    · exact onlyChanges_trans (onlyChanges_mono hecc.only (by decide)) (onlyChanges_mono (finished_only i r _) (by decide))
  case resume =>
    intro s q i r hpin hi hr
    refine ⟨_, exec_next rfl (pinnedWriteResume_first hpin hi), ?_, fun j hj => ?_, rfl, (modHist_touches s _).only⟩
    · rw [modHist_hist, resumedRun, List.getElem?_modify_eq, hr]
      rfl
    · exact List.getElem?_modify_ne _ _ hj.symm
  case shoot =>
    intro s v hgo hbusy
    refine ⟨_, exec_next rfl (hcLabShoot_idle hgo hbusy), rfl, rfl, fun j => ?_, ?_, rfl, (modHist_touches s _).only⟩
    · exact vget_vmap _ s.hist.lab j
    · exact List.length_map _
  case again =>
    intro s v _ hbusy
    exact ⟨_, exec_next rfl (hcLabShoot_busy hbusy), rfl, (modHist_touches s _).only⟩
  case done =>
    intro s h
    exact ⟨_, exec_next rfl (labShootDone_quiet h), rfl, (modHist_touches s _).only⟩

end Sys2Proof.Safety
end

/-! The chains of the stall DMA: how they read and write, how their descriptors go on, and how they end (R231, R238, R241-R248). -/
section
namespace Sys2Proof.Safety
open Sys2Proof.Machine

/-! ### The stream of a chain -/

/-- Nothing changes but the stream u of stall n, on which the chain c is then. -/
structure ChainTo (n : StallId) (u : StreamId) (c : Chain) (s t : State) : Prop where
  chain : chainOn t n u = some c
  only : OnlyChanges [.stalls] s t
  other : OtherStalls n s t

theorem modStream_chainTo (s : State) (n : StallId) (u : StreamId) {f : Stream → Stream} {c : Chain}
    (h : (f (vget (s.stall n).streams u)).chain = some c) : ChainTo n u c s (s.modStream n u f) where
  chain := by rw [chainOn, modStream_eq, stall_modStall_same, stream_onStream, h]
  only := modStall_only s n _
  other := otherStalls_modStall s n _

/-- A part other than the stalls is the same. -/
theorem ChainTo.part {n : StallId} {u : StreamId} {c : Chain} {s t : State} (h : ChainTo n u c s t) (p : Part)
    (hp : p ∉ [Part.stalls] := by decide) : p.same s t := h.only.2 p hp

theorem ChainTo.trans {n : StallId} {u : StreamId} {c d : Chain} {s t v : State} (h : ChainTo n u c s t) (k : ChainTo n u d t v) :
    ChainTo n u d s v :=
  ⟨k.chain, onlyChanges_trans h.only k.only, otherStalls_trans h.other k.other⟩

theorem chain_eq {s : State} {n : StallId} {u : StreamId} {c : Chain} (h : chainOn s n u = some c) :
    (vget (s.stall n).streams u).chain = some c := h

theorem now_of_time {s t : State} (h : t.time = s.time) : t.now = s.now := by rw [State.now, h]; rfl

theorem chainOn_of_stalls {s t : State} (h : t.stalls = s.stalls) (n : StallId) (u : StreamId) : chainOn t n u = chainOn s n u := by
  rw [chainOn, stall_of_stalls h]; rfl

/-- A chain that goes on after a step that leaves the stalls alone. -/
theorem ChainTo.after {ps : List Part} {n : StallId} {u : StreamId} {c : Chain} {s t v : State} (h : OnlyChanges ps s t)
    (k : ChainTo n u c t v) (hp : Part.stalls ∉ ps := by decide) : OnlyChanges (.stalls :: ps) s v ∧ OtherStalls n s v :=
  ⟨onlyChanges_trans (onlyChanges_mono h fun _ hq => List.mem_cons_of_mem _ hq) (onlyChanges_mono k.only (by simp)),
    otherStalls_trans (fun m _ => stall_of_stalls (h.2 .stalls hp) m) k.other⟩

section
variable {s : State} {n : StallId} {u : StreamId} {c : Chain} {r : Running} (h : chainOn s n u = some c)
include h

theorem setPhase_chainTo (p : ChainPhase) : ChainTo n u { c with phase := p } s (s.setPhase n u p) :=
  modStream_chainTo s n u (congrArg (Option.map _) h)

theorem endChain_command (ho : c.origin = .command r) {code : Byte} (hcode : code ≠ oPartial) :
    s.endChain n u code = s.modStream n u fun y => { y with chain := some { c with phase := .ended code }, preempt := none } := by
  unfold State.endChain
  rw [chain_eq h]
  simp only [ho, if_neg hcode]

/-- The end of a command's chain with a code other than PARTIAL. -/
theorem endChain_chainTo (ho : c.origin = .command r) {code : Byte} (hcode : code ≠ oPartial) :
    ChainTo n u { c with phase := .ended code } s (s.endChain n u code) := by
  rw [endChain_command h ho hcode]
  exact modStream_chainTo s n u rfl

/-- The end with PARTIAL is counted for the command's cell. -/
theorem endChain_partial (ho : c.origin = .command r) : ∃ t, ChainTo n u { c with phase := .ended oPartial } s t ∧
    s.endChain n u oPartial = t.tdc .tdcBudget (descOf r.desc).cell 1 := by
  refine ⟨s.modStream n u fun y => { y with chain := some { c with phase := .ended oPartial }, preempt := none },
    modStream_chainTo s n u rfl, ?_⟩
  unfold State.endChain
  rw [chain_eq h]
  simp only [ho, if_true]

theorem descDone_chainTo (ho : c.origin = .command r) (hx : c.expired = false) :
    ChainTo n u { c with phase := if (dmaOf c.cur).last then .ended oDone else .ready } s (s.descDone n u) := by
  unfold State.descDone
  rw [chain_eq h]
  dsimp only
  rw [if_neg (show ¬ c.expired = true by simp [hx])]
  split
  · exact endChain_chainTo h ho (by decide)
  · exact modStream_chainTo s n u rfl

/-- Where a chain goes once a segment of its descriptor d is written. -/
def afterSegment (d : DmaDesc) (row off len : Nat) : ChainPhase :=
  if off + len < d.len then .moving row (off + len) else if row + 1 < d.rows then .moving (row + 1) 0 else if d.last then .ended oDone else .ready

theorem segmentDone_chainTo (ho : c.origin = .command r) (hx : c.expired = false) (row off len : Nat) :
    ChainTo n u { c with phase := afterSegment (dmaOf c.cur) row off len } s (s.segmentDone n u (dmaOf c.cur) row off len) := by
  have hpre : ChainTo n u c s (s.modStream n u fun y => { y with preempt := none }) := modStream_chainTo s n u h
  unfold State.segmentDone
  rw [chain_eq h]
  dsimp only
  rw [if_neg (show ¬ c.expired = true by simp [hx]), afterSegment]
  split
  · exact hpre.trans (setPhase_chainTo hpre.chain _)
  split
  · exact hpre.trans (setPhase_chainTo hpre.chain _)
  · exact hpre.trans (descDone_chainTo hpre.chain ho hx)

/-- The segment in progress is the last of a chain whose budget has expired. -/
theorem segmentDone_expired (ho : c.origin = .command r) (hx : c.expired = true) (d : DmaDesc) (row off len : Nat) :
    ∃ t, ChainTo n u { c with phase := .ended oPartial } s t ∧
      s.segmentDone n u d row off len = t.tdc .tdcBudget (descOf r.desc).cell 1 := by
  have hpre : ChainTo n u c s (s.modStream n u fun y => { y with preempt := none }) := modStream_chainTo s n u h
  obtain ⟨t, ht, he⟩ := endChain_partial hpre.chain ho
  refine ⟨t, hpre.trans ht, ?_⟩
  unfold State.segmentDone
  rw [chain_eq h]
  dsimp only
  rw [if_pos hx]
  exact he

end

/-! ### Accesses of a chain -/

/-- The device after a read from DRAM whose data is correct, or was corrected and is counted. -/
def readFrom (s : State) (e : Ecc) : State := if e = .corrected then s.devInc .dramCe else s

theorem readFrom_only (s : State) (e : Ecc) : OnlyChanges [.dev] s (readFrom s e) := by
  unfold readFrom
  split
  · exact devAdd_only s .dramCe 1
  · exact onlyChanges_refl _ s

theorem devCtr_dramCe_readFrom (s : State) (e : Ecc) :
    (readFrom s e).devCtr .dramCe = if e = .corrected then (s.devCtr .dramCe).add 1 else s.devCtr .dramCe := by
  unfold readFrom
  split
  · exact devCtr_devInc_same s _
  · rfl

section
variable {s : State} {n : StallId} {c : Chain} {r : Running} {a len off : Nat} {bs : List Byte} {e : Ecc}

theorem chainReadEcc_dram (hp : placeOf a len = .dram off) (he : e ≠ .uncorrectable) :
    s.chainReadEcc n c a len e = (.ok (memRead s.mem a len), readFrom s e) := by
  cases e with
  | clean => simp [State.chainReadEcc, State.chainRead, hp, readFrom]
  | corrected => simp [State.chainReadEcc, State.chainRead, hp, readFrom]
  | uncorrectable => exact absurd rfl he

theorem chainReadEcc_uncorrectable (hp : placeOf a len = .dram off) :
    s.chainReadEcc n c a len .uncorrectable = (.error oMemError, s.dramUe a) := by
  simp only [State.chainReadEcc, hp]

theorem chainReadEcc_local (hp : placeOf a len = .stallMem n off) (hon : s.domainOn n.val = true) (hlo : c.localBase ≤ off)
    (hhi : off + len ≤ c.localEnd) : s.chainReadEcc n c a len e = (.ok (memRead s.mem a len), s) := by
  have hr : s.chainRead n c a len = (.ok (memRead s.mem a len), s) := by
    simp [State.chainRead, hp, hon, Nat.not_lt.mpr hlo, Nat.not_lt.mpr hhi]
  simp only [State.chainReadEcc, hp]
  cases e <;> exact hr

/-- A word that the chain may write is read, and no more than a counter changes. -/
theorem chainReadEcc_word (hw : ChainWord s n c a) (he : e ≠ .uncorrectable) :
    ∃ t, OnlyChanges [.dev] s t ∧ s.chainReadEcc n c a 8 e = (.ok (memRead s.mem a 8), t) := by
  obtain ⟨off, hp, hon, hlo, hhi⟩ | ⟨off, hp⟩ := hw
  · exact ⟨s, onlyChanges_refl _ s, chainReadEcc_local hp hon hlo hhi⟩
  · exact ⟨_, readFrom_only s e, chainReadEcc_dram hp he⟩

/-- The state with bytes written. -/
def written (s : State) (a : Nat) (bs : List Byte) : State := { s with mem := memWrite s.mem a bs }

theorem written_only (s : State) (a : Nat) (bs : List Byte) : OnlyChanges [.mem] s (written s a bs) := (setMem_touches s _).only

theorem memOnly_written (s : State) (a : Nat) {bs : List Byte} (h : bs.length = len) : MemOnly a len s (written s a bs) :=
  fun _ hx => memByte_outside (by rw [h]; exact hx)

theorem chainWrite_dram (hp : placeOf a bs.length = .dram off) : s.chainWrite n c a bs = (none, written s a bs) := by
  simp only [State.chainWrite, hp, written]

theorem chainWrite_local (ho : c.origin = .command r) (hp : placeOf a bs.length = .stallMem n off) (hon : s.domainOn n.val = true)
    (hlo : c.localBase ≤ off) (hhi : off + bs.length ≤ c.localEnd) : s.chainWrite n c a bs = (none, written s a bs) := by
  simp [State.chainWrite, hp, hon, ho, Nat.not_lt.mpr hlo, Nat.not_lt.mpr hhi, written]

theorem chainWrite_word (ho : c.origin = .command r) (hw : ChainWord s n c a) (hb : bs.length = 8) :
    s.chainWrite n c a bs = (none, written s a bs) := by
  obtain ⟨off, hp, hon, hlo, hhi⟩ | ⟨off, hp⟩ := hw
  · exact chainWrite_local ho (by rw [hb, hp]) hon hlo (by rw [hb]; exact hhi)
  · exact chainWrite_dram (off := off) (by rw [hb, hp])

end

end Sys2Proof.Safety
end

/-! The segments, waits and budgets of the stall DMA (R238, R242, R244, R248). -/
section
namespace Sys2Proof.Safety
open Sys2Proof.Machine

/-! ### What is counted -/

theorem tdc_counted (s : State) (c : DevCtr) (cell : CellId) : ((s.tdc c cell 1).devCtr c).live = satAdd (s.devCtr c).live 1 := by
  show ((s.devAdd c 1).devCtr c).live = _
  rw [devCtr_devAdd_same]; rfl

theorem tdc_only (s : State) (c : DevCtr) (cell : CellId) (k : Nat) : OnlyChanges [.dev, .cells] s (s.tdc c cell k) :=
  onlyChanges_trans (onlyChanges_mono (devAdd_only s c k) (by decide)) (onlyChanges_mono (modCell_only _ _ _) (by decide))

theorem devCtr_of_dev {s t : State} (h : t.dev = s.dev) (c : DevCtr) : t.devCtr c = s.devCtr c := by rw [State.devCtr, h]; rfl

theorem ueRaised_spec (s : State) (w : Word) (y k : Nat) (bs : List Byte) :
    (((ueNoted s w).raise y k bs).devCtr .dramUe) = (s.devCtr .dramUe).add 1 ∧ ((ueNoted s w).raise y k bs).fab.ueAddr = w := by
  have ht := raise_touches (ueNoted s w) y k bs
  constructor
  · rw [ht.counters .dramUe (by decide)]
    exact devCtr_devInc_same s .dramUe
  · rw [show ((ueNoted s w).raise y k bs).fab = (ueNoted s w).fab from ht.part .fab]
    rfl

/-- An uncorrectable read from DRAM leaves its address, and is counted. -/
theorem dramUe_spec (s : State) (a : Nat) : (s.dramUe a).devCtr .dramUe = (s.devCtr .dramUe).add 1 ∧
    (s.dramUe a).fab.ueAddr = BitVec.ofNat 32 ((a - dramBase) / 8) := by
  unfold State.dramUe
  exact ueRaised_spec s _ _ _ _

/-- A chain that ends PARTIAL after a step which leaves the stalls and the count alone. -/
theorem ChainTo.partial {ps : List Part} {n : StallId} {u : StreamId} {c : Chain} {s t v : State} {cell : CellId} (h : OnlyChanges ps s t)
    (k : ChainTo n u c t v) (hp : Part.stalls ∉ ps := by decide) (hd : Part.dev ∉ ps := by decide) :
    chainOn (v.tdc .tdcBudget cell 1) n u = some c ∧ ((v.tdc .tdcBudget cell 1).devCtr .tdcBudget).live = satAdd (s.devCtr .tdcBudget).live 1 ∧
      OnlyChanges (.stalls :: ps ++ [.dev, .cells]) s (v.tdc .tdcBudget cell 1) ∧ OtherStalls n s (v.tdc .tdcBudget cell 1) := by
  obtain ⟨honly, hother⟩ := k.after h hp
  refine ⟨(chainOn_of_stalls rfl n u).trans k.chain, ?_, ?_, fun m hm => (stall_of_stalls rfl m).trans (hother m hm)⟩
  · rw [tdc_counted, devCtr_of_dev (k.part .dev), devCtr_of_dev (h.2 .dev hd)]
  · exact onlyChanges_trans (onlyChanges_mono honly (by simp +contextual)) (onlyChanges_mono (tdc_only v _ _ 1) (by simp))

/-! ### Segments -/

section
variable {s : State} {n : StallId} {u : StreamId} {c : Chain} {r : Running} {row off : Nat}
variable (h : chainOn s n u = some c) (hph : c.phase = .moving row off)
include h hph

/-- What the completion of a segment does, where its stream can hold the slots that it takes. -/
theorem segmentComplete_eq (hroom : (dmaOf c.cur).op = 0 → ceilDiv (segment (dmaOf c.cur) row off).2.2 256 ≤ (s.stall n).stageLimit u)
    (e : Ecc) {x : Except Byte (List Byte)} {t : State}
    (hread : (if (dmaOf c.cur).op = 0
      then s.chainReadEcc n c (segment (dmaOf c.cur) row off).1 (segment (dmaOf c.cur) row off).2.2 e
      else (.ok ((List.range ((segment (dmaOf c.cur) row off).2.2 / 8)).flatMap fun _ => natLE 8 (dmaOf c.cur).src), s)) = (x, t)) :
    dmaSegmentCompleteEffect n u e s = match x with
      | .error code => t.endChain n u code
      | .ok bs => match t.chainWrite n c (segment (dmaOf c.cur) row off).2.1 bs with
        | (some code, v) => v.endChain n u code
        | (none, v) => v.segmentDone n u (dmaOf c.cur) row off (segment (dmaOf c.cur) row off).2.2 := by
  unfold dmaSegmentCompleteEffect
  rw [chain_eq h]
  simp only [hph, hread]
  rw [if_neg (fun hn => absurd (hroom hn.1) (by omega))]
  cases x with
  | error code => rfl
  | ok bs => dsimp only; obtain ⟨_ | code, v⟩ := t.chainWrite n c (segment (dmaOf c.cur) row off).2.1 bs <;> rfl

/-- A segment of a COPY is read from DRAM and written into its stall. -/
theorem segmentComplete_copy (ho : c.origin = .command r) (hx : c.expired = false) (hop : (dmaOf c.cur).op = 0) {so dstOff : Nat} {e : Ecc}
    (hsrc : placeOf (segment (dmaOf c.cur) row off).1 (segment (dmaOf c.cur) row off).2.2 = .dram so) (he : e ≠ .uncorrectable)
    (hdst : placeOf (segment (dmaOf c.cur) row off).2.1 (segment (dmaOf c.cur) row off).2.2 = .stallMem n dstOff)
    (hon : s.domainOn n.val = true) (hlo : c.localBase ≤ dstOff) (hhi : dstOff + (segment (dmaOf c.cur) row off).2.2 ≤ c.localEnd)
    (hroom : ceilDiv (segment (dmaOf c.cur) row off).2.2 256 ≤ (s.stall n).stageLimit u) :
    ChainTo n u { c with phase := afterSegment (dmaOf c.cur) row off (segment (dmaOf c.cur) row off).2.2 }
      (written (readFrom s e) (segment (dmaOf c.cur) row off).2.1
        (memRead s.mem (segment (dmaOf c.cur) row off).1 (segment (dmaOf c.cur) row off).2.2))
      (dmaSegmentCompleteEffect n u e s) := by
  have hon' : (readFrom s e).domainOn n.val = true := by
    rw [State.domainOn, show (readFrom s e).pwr = s.pwr from (readFrom_only s e).2 .pwr (by decide)]; exact hon
  rw [segmentComplete_eq h hph (fun _ => hroom) e (by rw [if_pos hop, chainReadEcc_dram hsrc he])]
  dsimp only
  rw [chainWrite_local ho (by rw [length_memRead]; exact hdst) hon' hlo (by rw [length_memRead]; exact hhi)]
  refine segmentDone_chainTo ?_ ho hx row off _
  rw [← h]
  exact chainOn_of_stalls ((readFrom_only s e).2 .stalls (by decide)) n u

/-- A segment of a COPY whose data cannot be corrected ends the chain. -/
theorem segmentComplete_uncorrectable (ho : c.origin = .command r) (hop : (dmaOf c.cur).op = 0) {so : Nat}
    (hsrc : placeOf (segment (dmaOf c.cur) row off).1 (segment (dmaOf c.cur) row off).2.2 = .dram so)
    (hroom : ceilDiv (segment (dmaOf c.cur) row off).2.2 256 ≤ (s.stall n).stageLimit u) :
    ChainTo n u { c with phase := .ended oMemError } (s.dramUe (segment (dmaOf c.cur) row off).1)
      (dmaSegmentCompleteEffect n u .uncorrectable s) := by
  rw [segmentComplete_eq h hph (fun _ => hroom) .uncorrectable (by rw [if_pos hop, chainReadEcc_uncorrectable hsrc])]
  refine endChain_chainTo ?_ ho (by decide)
  rw [← h]
  exact chainOn_of_stalls ((dramUe_walked s _).part .stalls) n u

/-- A segment of a FILL is written into the DRAM; it was the last of a chain whose budget has expired. -/
theorem segmentComplete_fill_expired (ho : c.origin = .command r) (hx : c.expired = true) (hop : (dmaOf c.cur).op = 1) {dstOff : Nat} (e : Ecc)
    {bs : List Byte} (hbs : (List.range ((segment (dmaOf c.cur) row off).2.2 / 8)).flatMap (fun _ => natLE 8 (dmaOf c.cur).src) = bs)
    (hdst : placeOf (segment (dmaOf c.cur) row off).2.1 bs.length = .dram dstOff) :
    ∃ t, ChainTo n u { c with phase := .ended oPartial } (written s (segment (dmaOf c.cur) row off).2.1 bs) t ∧
      dmaSegmentCompleteEffect n u e s = t.tdc .tdcBudget (descOf r.desc).cell 1 := by
  rw [segmentComplete_eq h hph (fun h0 => by omega) e (by rw [if_neg (by omega), hbs])]
  dsimp only
  rw [chainWrite_dram hdst]
  exact segmentDone_expired (s := written s _ bs) ((chainOn_of_stalls rfl n u).trans h) ho hx _ row off _

end

/-! ### WAIT -/

/-- A WAIT reads its word, and goes on where that is no less than the comparison value. -/
theorem waitRead_word {s : State} {n : StallId} {c : Chain} {e : Ecc} (u : StreamId) (he : e ≠ .uncorrectable)
    (hw : ChainWord s n c (dmaOf c.cur).src) : ∃ t, OnlyChanges [.dev] s t ∧
      s.waitRead n u c e = if (dmaOf c.cur).dst ≤ memNat s.mem (dmaOf c.cur).src 8 then t.descDone n u else t := by
  obtain ⟨t, ht, hread⟩ := chainReadEcc_word hw he
  refine ⟨t, ht, ?_⟩
  unfold State.waitRead
  dsimp only
  rw [hread]
  rfl

/-- A WAIT whose word is no less than the comparison value goes on. -/
theorem waitRead_goes_on {s : State} {n : StallId} {u : StreamId} {c d : Chain} {r : Running} {e : Ecc} (h : chainOn s n u = some d)
    (ho : d.origin = .command r) (hx : d.expired = false) (he : e ≠ .uncorrectable) (hw : ChainWord s n c (dmaOf c.cur).src)
    (hle : (dmaOf c.cur).dst ≤ memNat s.mem (dmaOf c.cur).src 8) : ∃ t, OnlyChanges [.dev] s t ∧
      ChainTo n u { d with phase := if (dmaOf d.cur).last then .ended oDone else .ready } t (s.waitRead n u c e) := by
  obtain ⟨t, ht, heq⟩ := waitRead_word u he hw
  rw [heq, if_pos hle]
  exact ⟨t, ht, descDone_chainTo ((chainOn_of_stalls (ht.2 .stalls (by decide)) n u).trans h) ho hx⟩

/-- A WAIT whose word is less waits on. -/
theorem waitRead_waits {s : State} {n : StallId} {c : Chain} {e : Ecc} (u : StreamId) (he : e ≠ .uncorrectable)
    (hw : ChainWord s n c (dmaOf c.cur).src) (hlt : memNat s.mem (dmaOf c.cur).src 8 < (dmaOf c.cur).dst) :
    OnlyChanges [.dev] s (s.waitRead n u c e) := by
  obtain ⟨t, ht, heq⟩ := waitRead_word u he hw
  rw [heq, if_neg (Nat.not_le.mpr hlt)]
  exact ht

/-! ### Budgets -/

theorem chainBudgetExpiry_eq {s : State} {n : StallId} {u : StreamId} {c : Chain} {r : Running} (h : chainOn s n u = some c)
    (ho : c.origin = .command r) (hb : (descOf r.desc).budget ≠ 0) (hnow : ns ((descOf r.desc).budget * 1000 : Nat) ≤ s.now - c.started) :
    chainBudgetExpiryEffect n u s = s.expireChain n u := by
  unfold chainBudgetExpiryEffect
  rw [chain_eq h]
  dsimp only
  rw [ho]
  exact if_pos ⟨hb, hnow⟩

theorem expireChain_moving {s : State} {n : StallId} {u : StreamId} {c : Chain} {row off : Nat} (h : chainOn s n u = some c)
    (hph : c.phase = .moving row off) : ChainTo n u { c with expired := true } s (s.expireChain n u) := by
  have he : s.expireChain n u = s.modStream n u fun y => { y with chain := some { c with expired := true } } := by
    unfold State.expireChain
    rw [chain_eq h]
    simp only [hph]
  rw [he]
  exact modStream_chainTo s n u rfl

theorem expireChain_waiting {s : State} {n : StallId} {u : StreamId} {c : Chain} {since : Int} (h : chainOn s n u = some c)
    (hph : c.phase = .waiting since) : s.expireChain n u = s.endChain n u oPartial := by
  unfold State.expireChain
  rw [chain_eq h]
  dsimp only
  rw [hph]

/-- Settles O31: each command moves its chain on as `ChainTo` says, after an access whose frame stands above. -/
theorem dmaSegmentsWaitsAndBudgets : Obligations.DmaSegmentsWaitsAndBudgets := by
  unfold Obligations.DmaSegmentsWaitsAndBudgets
  refine ⟨?copy, ?uncorrectable, ?fill, ?wait, ?timeout, ?budget⟩
  case copy =>
    rintro s n u c r d row off so dstOff e h ho hx hph rfl hop hsrc he hdst hon hlo hhi hroom hm
    have hto := segmentComplete_copy h hph ho hx hop hsrc he hdst hon hlo hhi hroom
    have hread := readFrom_only s e
    have hmem : (readFrom s e).mem = s.mem := hread.2 .mem (by decide)
    have hwrite := written_only (readFrom s e) (segment (dmaOf c.cur) row off).2.1
      (memRead s.mem (segment (dmaOf c.cur) row off).1 (segment (dmaOf c.cur) row off).2.2)
    have honly := onlyChanges_trans (onlyChanges_mono hread (qs := [.mem, .dev]) (by decide)) (onlyChanges_mono hwrite (by decide))
    obtain ⟨hall, hother⟩ := hto.after honly
    have htmem : (dmaSegmentCompleteEffect n u e s).mem = (written (readFrom s e) (segment (dmaOf c.cur) row off).2.1
      (memRead s.mem (segment (dmaOf c.cur) row off).1 (segment (dmaOf c.cur) row off).2.2)).mem := hto.part .mem
    refine ⟨dmaSegmentCompleteEffect n u e s, rfl, ?_, ?_, hto.chain, ?_, onlyChanges_mono hall (by decide), hother⟩
    · rw [htmem, written, hmem]
      exact memRead_written hm _ (length_memRead _ _ _)
    · intro x hx
      rw [htmem, memOnly_written _ _ (length_memRead _ _ _) x hx, hmem]
    · rw [devCtr_of_dev (hto.part .dev)]
      show ((readFrom s e).devCtr .dramCe).live = _
      rw [devCtr_dramCe_readFrom]
      split <;> rfl
  case uncorrectable =>
    rintro s n u c r d row off so h ho hph rfl hop hsrc hroom
    have hto := segmentComplete_uncorrectable h hph ho hop hsrc hroom
    have hue := dramUe_walked s (segment (dmaOf c.cur) row off).1
    obtain ⟨hcount, haddr⟩ := dramUe_spec s (segment (dmaOf c.cur) row off).1
    obtain ⟨hall, hother⟩ := hto.after hue.only
    have htfab : (dmaSegmentCompleteEffect n u .uncorrectable s).fab = (s.dramUe (segment (dmaOf c.cur) row off).1).fab := hto.part .fab
    refine ⟨dmaSegmentCompleteEffect n u .uncorrectable s, rfl, hto.chain, ?_, ?_, hall.2 .mem (by decide), hother⟩
    · rw [devCtr_of_dev (hto.part .dev), hcount]; rfl
    · rw [htfab, haddr]
  case fill =>
    rintro s n u c r d row off dstOff e h ho hx hph rfl hop hlen hdst hm len
    have hbs : ((List.range (len / 8)).flatMap fun _ => natLE 8 (dmaOf c.cur).src).length = len := by
      rw [length_flatMap_const _ 8 (fun _ => length_natLE 8 _), List.length_range, Nat.mul_comm]; exact hlen
    obtain ⟨t, hto, heff⟩ := segmentComplete_fill_expired h hph ho hx hop e rfl (by rw [hbs]; exact hdst)
    obtain ⟨hchain, hcount, -, hother⟩ := hto.partial (written_only s _ _) (cell := (descOf r.desc).cell)
    have htmem : (t.tdc .tdcBudget (descOf r.desc).cell 1).mem = _ := hto.part .mem
    refine ⟨_, exec_next rfl heff, ?_, fun x hx => ?_, hchain, hcount, hother⟩
    · rw [htmem]
      exact memRead_written hm _ hbs
    · rw [htmem]
      exact memOnly_written s _ hbs x hx
  case wait =>
    rintro s n u c r d since e he h ho hx hph rfl hw hle
    obtain ⟨t, ht, hto⟩ := waitRead_goes_on h ho hx he hw hle
    have heff : dmaWaitSatisfiedEffect n u e s = s.waitRead n u c e := by
      unfold dmaWaitSatisfiedEffect
      rw [chain_eq h]
      dsimp only
      rw [hph]
    obtain ⟨hall, hother⟩ := hto.after ht
    exact ⟨_, exec_next rfl heff, hto.chain, hall, hother⟩
  case timeout =>
    intro s n u c r since h ho hph hus hnow
    have hto := endChain_chainTo h ho (code := oWaitTimeout) (by decide)
    have heff : waitTimeoutEffect n u s = s.endChain n u oWaitTimeout := by
      unfold waitTimeoutEffect
      rw [chain_eq h]
      dsimp only
      rw [hph]
      exact if_pos ⟨hus, hnow⟩
    exact ⟨_, exec_next rfl heff, hto.chain, hto.only, hto.other⟩
  case budget =>
    intro s n u c r h ho hb hnow
    have heff := chainBudgetExpiry_eq h ho hb hnow
    refine ⟨fun row off hph => ?_, fun since hph => ?_⟩
    · have hto := expireChain_moving h hph
      exact ⟨_, exec_next rfl heff, hto.chain, hto.only, hto.other⟩
    · obtain ⟨t, hto, hend⟩ := endChain_partial h ho
      obtain ⟨hchain, hcount, honly, hother⟩ := hto.partial (onlyChanges_refl [] s) (cell := (descOf r.desc).cell)
      exact ⟨_, exec_next rfl (heff.trans ((expireChain_waiting h hph).trans hend)), hchain, hcount, honly, hother⟩

end Sys2Proof.Safety
end

/-! The descriptors of the stall DMA: the six operations that a ready chain starts (R238, R241, R244, R245, R251, R253). -/
section
namespace Sys2Proof.Safety
open Sys2Proof.Machine

/-! ### Passes and event records -/

theorem devCtr_accept (v : State) (x : Event) (us : Int) (k : Nat) {d : DevCtr} (hd : d ≠ .evtUsbDrop) :
    State.devCtr { (if (v.host.accept x).2 = true then v.devInc .evtUsbDrop else v) with
      host := { (v.host.accept x).1 with evtUs := us, evtCount := k } } d = v.devCtr d := by
  split
  · exact devCtr_devAdd_ne v 1 hd
  · rfl

/-- A record counts in the event unit's own counters alone. -/
theorem devCtr_raise (s : State) (y k : Nat) (bs : List Byte) {d : DevCtr} (hd : d ∉ [DevCtr.evtDropped, .evtUsbDrop]) :
    (s.raise y k bs).devCtr d = s.devCtr d := by
  obtain ⟨hdrop, husb⟩ : d ≠ .evtDropped ∧ d ≠ .evtUsbDrop := by simpa using hd
  have hcap : ∀ b, (s.capture 2 b).devCtr d = s.devCtr d := fun b => by unfold State.capture; split <;> rfl
  unfold State.raise State.raiseAt
  split
  · dsimp only
    generalize (if s.host.evtUs = usOf s.now then s.host.evtCount else 0) = m
    split
    · exact (devCtr_devAdd_ne (State.capture s 2 _) 1 hdrop).trans (hcap _)
    · exact (devCtr_accept (State.capture s 2 _) _ _ _ husb).trans (hcap _)
  · rfl

@[simp] theorem pass_modPass_same (s : State) (p : PassId) (f : Pass → Pass) : (s.modPass p f).pass p = f (s.pass p) := vget_vmod_same _ _ _

theorem pass_of_fab {s t : State} (h : t.fab = s.fab) (p : PassId) : t.pass p = s.pass p := by rw [State.pass, h]; rfl

/-- An arrival that counts and does not complete its generation. -/
theorem arrive_counts {s : State} {p : PassId} (n : Option StallId) (he : (s.pass p).en = true)
    (hw : ((s.pass p).waves.filter PassWave.fresh).length < 2) (hn : (s.pass p).arrived.toNat + 1 < (s.pass p).target.toNat) :
    s.arrive p n = s.modPass p fun x => { x with arrived := x.arrived + 1 } := by
  unfold State.arrive
  dsimp only
  rw [if_neg (by simp [he]; omega), if_pos (by omega)]

/-- An arrival at a Pass that is not enabled does not count (R253). -/
theorem arrive_disabled {s : State} {p : PassId} (n : Option StallId) (he : (s.pass p).en = false) : s.arrive p n = s.passStray p n := by
  unfold State.arrive
  dsimp only
  rw [if_pos (by simp [he])]

theorem passStray_spec (s : State) (p : PassId) (n : Option StallId) : OnlyChanges [.dev, .host] s (s.passStray p n) ∧
    (s.passStray p n).devCtr .passStray = (s.devCtr .passStray).add 1 := by
  constructor
  · exact onlyChanges_trans (onlyChanges_mono (devAdd_only s _ 1) (by decide)) (raise_only (s.devInc .passStray) _ _ _)
  · exact (devCtr_raise (s.devInc .passStray) _ _ _ (by decide)).trans (devCtr_devInc_same s _)

/-! ### Posts -/

/-- A post window lies in register space. -/
theorem placeOf_postWindow {a : Nat} {k : Fin 3} (h : postWindow a = some k) : placeOf a 32 = .register a := by
  have ha : a ≤ 0x01E01040 := by
    unfold postWindow at h
    split at h
    · omega
    split at h
    · omega
    split at h
    · omega
    · cases h
  unfold placeOf
  dsimp only
  rw [if_pos (by simp; omega)]

/-- A request posted by the fabric. -/
def posted (k : Fin 3) (q : HistReq) (h : Hist) : Hist := { h with rings := vmod h.rings k fun l => l ++ [q] }

/-- 32 bytes written to a post window with room are a request. -/
theorem chainWrite_post {s : State} {k : Fin 3} {a : Nat} {bs : List Byte} (n : StallId) (c : Chain) (ha : postWindow a = some k)
    (hb : bs.length = 32) (he : s.hist.en = true) (hr : (vget s.hist.rings k).length < 128) :
    s.chainWrite n c a bs = (none, s.modHist (posted k ⟨bs, false, s.now⟩)) := by
  have hput : s.fabricWrite a bs = some (s.modHist (posted k ⟨bs, false, s.now⟩)) := by
    rw [State.fabricWrite, ha]
    exact (if_pos hb).trans (congrArg some (histPost_room he hr false bs))
  simp only [State.chainWrite, hb, placeOf_postWindow ha, hput]

/-! ### A descriptor that starts -/

/-- A descriptor with good fields starts on the chain that took it, where the command names its operation. -/
theorem dmaStart_takes {s : State} {n : StallId} {u : StreamId} {c c' : Chain} {d : DmaDesc} (h : DmaNext s n u c c' d) (e : Ecc) :
    ∃ t, ChainTo n u c' s t ∧ dmaStart d.op n u e s = t.runDesc n u c' e := by
  obtain ⟨hchain, hready, htaken, hbytes, hfields, hgood⟩ := h
  refine ⟨s.modStream n u fun y => { y with chain := some c' }, modStream_chainTo s n u rfl, ?_⟩
  unfold dmaStart
  rw [chain_eq hchain]
  dsimp only
  rw [hready, htaken]
  dsimp only
  split
  · rename_i code hcode
    rw [hcode] at hbytes
    exact absurd hbytes (by simp)
  · rw [hfields, hgood]
    simp

section
variable {s : State} {n : StallId} {u : StreamId} {c : Chain} {r : Running} (h : chainOn s n u = some c)
include h

/-- COPY and FILL begin to move. -/
theorem runDesc_moves (hop : (dmaOf c.cur).op = 0 ∨ (dmaOf c.cur).op = 1) (hr : (dmaOf c.cur).rows ≠ 0) (hl : (dmaOf c.cur).len ≠ 0) (e : Ecc) :
    ChainTo n u { c with phase := .moving 0 0 } s (s.runDesc n u c e) := by
  have he : s.runDesc n u c e = s.setPhase n u (.moving 0 0) := by
    unfold State.runDesc
    obtain hop | hop := hop <;> simp only [hop, hr, hl, or_self, if_false]
  rw [he]
  exact setPhase_chainTo h _

/-- COPY and FILL of no rows or no bytes move nothing. -/
theorem runDesc_nothing (hop : (dmaOf c.cur).op = 0 ∨ (dmaOf c.cur).op = 1) (hr : (dmaOf c.cur).rows = 0 ∨ (dmaOf c.cur).len = 0)
    (ho : c.origin = .command r) (hx : c.expired = false) (e : Ecc) :
    ChainTo n u { c with phase := if (dmaOf c.cur).last then .ended oDone else .ready } s (s.runDesc n u c e) := by
  have he : s.runDesc n u c e = s.descDone n u := by
    unfold State.runDesc
    obtain hop | hop := hop <;> simp only [hop, hr, if_true]
  rw [he]
  exact descDone_chainTo h ho hx

/-- SIGNAL writes its value. -/
theorem runDesc_signal (hop : (dmaOf c.cur).op = 2) (hw : ChainWord s n c (dmaOf c.cur).dst) (ho : c.origin = .command r)
    (hx : c.expired = false) (e : Ecc) : ChainTo n u { c with phase := if (dmaOf c.cur).last then .ended oDone else .ready }
      (written s (dmaOf c.cur).dst (natLE 8 (dmaOf c.cur).src)) (s.runDesc n u c e) := by
  unfold State.runDesc
  simp only [hop]
  rw [chainWrite_word ho hw (length_natLE 8 _)]
  exact descDone_chainTo (s := written s _ _) ((chainOn_of_stalls rfl n u).trans h) ho hx

theorem runDesc_wait (hop : (dmaOf c.cur).op = 3) (e : Ecc) : ∃ t, ChainTo n u { c with phase := .waiting s.now } s t ∧
    s.runDesc n u c e = t.waitRead n u c e := by
  refine ⟨_, setPhase_chainTo h _, ?_⟩
  unfold State.runDesc
  simp only [hop]

/-- POST reads a request from DRAM and puts it into the window. -/
theorem runDesc_post {k : Fin 3} {off : Nat} {e : Ecc} (hop : (dmaOf c.cur).op = 4) (he : e ≠ .uncorrectable)
    (hp : placeOf (dmaOf c.cur).src 32 = .dram off) (hk : postWindow (dmaOf c.cur).dst = some k) (hen : s.hist.en = true)
    (hroom : (vget s.hist.rings k).length < 128) (ho : c.origin = .command r) (hx : c.expired = false) :
    ChainTo n u { c with phase := if (dmaOf c.cur).last then .ended oDone else .ready }
      ((readFrom s e).modHist (posted k ⟨memRead s.mem (dmaOf c.cur).src 32, false, s.now⟩)) (s.runDesc n u c e) := by
  have hread := readFrom_only s e
  have hhist : (readFrom s e).hist = s.hist := hread.2 .hist (by decide)
  have hnow : (readFrom s e).now = s.now := now_of_time (hread.2 .time (by decide))
  have hpost := chainWrite_post (s := readFrom s e) n c hk (length_memRead s.mem (dmaOf c.cur).src 32) (by rw [hhist, hen])
    (by rw [hhist]; exact hroom)
  rw [hnow] at hpost
  unfold State.runDesc
  simp only [hop, chainReadEcc_dram hp he, hpost]
  refine descDone_chainTo ?_ ho hx
  rw [← h]
  exact chainOn_of_stalls (hread.2 .stalls (by decide)) n u

/-- PASS arrives at its Pass, and waits there, or ends the chain where the Pass is disabled. -/
theorem runDesc_pass (hop : (dmaOf c.cur).op = 5) (e : Ecc) : ∃ t,
    ChainTo n u { c with phase := .pass (passOf (dmaOf c.cur).passId) (s.pass (passOf (dmaOf c.cur).passId)).arrivalGen } s t ∧
    s.runDesc n u c e = if (s.pass (passOf (dmaOf c.cur).passId)).en then t.arrive (passOf (dmaOf c.cur).passId) (some n)
      else (t.arrive (passOf (dmaOf c.cur).passId) (some n)).endChain n u oPassCancelled := by
  refine ⟨_, setPhase_chainTo h _, ?_⟩
  unfold State.runDesc
  simp only [hop]

end

/-- A word that a chain may write stays one where neither power nor the chain's range has changed. -/
theorem ChainWord.of_pwr {s t : State} {n : StallId} {c d : Chain} {a : Nat} (h : ChainWord s n c a) (hp : t.pwr = s.pwr)
    (hlo : d.localBase = c.localBase := by rfl) (hhi : d.localEnd = c.localEnd := by rfl) : ChainWord t n d a := by
  obtain ⟨off, hplace, hon, hl, he⟩ | hdram := h
  · exact .inl ⟨off, hplace, by rw [State.domainOn, hp]; exact hon, hlo ▸ hl, hhi ▸ he⟩
  · exact .inr hdram

/-- Settles O30: a chain takes its descriptor, and each of the six operations goes on from there. -/
theorem dmaDescriptorsStart : Obligations.DmaDescriptorsStart := by
  unfold Obligations.DmaDescriptorsStart
  intro s n u c c' d r hnext ho hx after
  have htake := dmaStart_takes hnext
  obtain rfl := hnext.fields
  have hcopy : ∀ p ∈ [(0, Instr.dmaCopy n u), (1, .dmaFill n u)], (dmaOf c'.cur).op = p.1 →
      ((dmaOf c'.cur).op = 0 ∨ (dmaOf c'.cur).op = 1) ∧ exec p.2 s = .next (dmaStart (dmaOf c'.cur).op n u .clean s) := fun p hp hop => by
    rw [hop]
    simp only [List.mem_cons, List.not_mem_nil, or_false] at hp
    obtain rfl | rfl := hp
    · exact ⟨.inl rfl, rfl⟩
    · exact ⟨.inr rfl, rfl⟩
  refine ⟨?moves, ?nothing, ?signal, ?goesOn, ?waits, ?post, ?pass, ?cancelled⟩
  case moves =>
    intro p hp hop hr hl
    obtain ⟨hor, hex⟩ := hcopy p hp hop
    obtain ⟨t, hto, heff⟩ := htake .clean
    have hmove := hto.trans (runDesc_moves hto.chain hor hr hl .clean)
    exact ⟨_, exec_next hex heff, hmove.chain, hmove.only, hmove.other⟩
  case nothing =>
    intro p hp hop hr
    obtain ⟨hor, hex⟩ := hcopy p hp hop
    obtain ⟨t, hto, heff⟩ := htake .clean
    have hdone := hto.trans (runDesc_nothing hto.chain hor hr ho hx .clean)
    exact ⟨_, exec_next hex heff, hdone.chain, hdone.only, hdone.other⟩
  case signal =>
    intro hop hw hm
    obtain ⟨t, hto, heff⟩ := htake .clean
    have hsig := runDesc_signal hto.chain hop (hw.of_pwr (hto.part .pwr)) ho hx .clean
    have hmem : t.mem = s.mem := hto.part .mem
    have hsmem : (t.runDesc n u c' .clean).mem = (written t (dmaOf c'.cur).dst (natLE 8 (dmaOf c'.cur).src)).mem := hsig.part .mem
    obtain ⟨hall, hother⟩ := hsig.after (written_only t _ _)
    refine ⟨_, exec_next (by rw [hop]; rfl) heff, ?_, fun x hx => ?_, hsig.chain, ?_, otherStalls_trans hto.other hother⟩
    · rw [hsmem, written, hmem]
      exact memRead_written hm _ (length_natLE 8 _)
    · rw [hsmem, memOnly_written t _ (length_natLE 8 _) x hx, hmem]
    · exact onlyChanges_trans (onlyChanges_mono hto.only (by decide)) (onlyChanges_mono hall (by decide))
  case goesOn =>
    intro e he hop hw hle
    obtain ⟨t, hto, heff⟩ := htake e
    obtain ⟨v, hwait, hrun⟩ := runDesc_wait hto.chain hop e
    have hv := hto.trans hwait
    have hmem : v.mem = s.mem := hv.part .mem
    obtain ⟨w, hread, hgo⟩ := waitRead_goes_on hv.chain ho hx he (hw.of_pwr (hv.part .pwr)) (by rw [hmem]; exact hle)
    obtain ⟨hall, hother⟩ := hgo.after hread
    refine ⟨_, exec_next (by rw [hop]; rfl) (heff.trans hrun), hgo.chain, ?_, otherStalls_trans hv.other hother⟩
    exact onlyChanges_trans (onlyChanges_mono hv.only (by decide)) hall
  case waits =>
    intro e he hop hw hlt
    obtain ⟨t, hto, heff⟩ := htake e
    obtain ⟨v, hwait, hrun⟩ := runDesc_wait hto.chain hop e
    have hv := hto.trans hwait
    have hmem : v.mem = s.mem := hv.part .mem
    have hnow : t.now = s.now := now_of_time (hto.part .time)
    have hread := waitRead_waits u he (hw.of_pwr (hv.part .pwr)) (by rw [hmem]; exact hlt)
    have hst := hread.2 .stalls (by decide)
    refine ⟨_, exec_next (by rw [hop]; rfl) (heff.trans hrun), ?_, ?_, otherStalls_trans hv.other fun m _ => stall_of_stalls hst m⟩
    · rw [chainOn_of_stalls hst, hwait.chain, hnow]
    · exact onlyChanges_trans (onlyChanges_mono hv.only (by decide)) (onlyChanges_mono hread (by decide))
  case post =>
    intro e k off he hop hp hk hen hroom
    obtain ⟨t, hto, heff⟩ := htake e
    have hhist : t.hist = s.hist := hto.part .hist
    have hmem : t.mem = s.mem := hto.part .mem
    have hnow : t.now = s.now := now_of_time (hto.part .time)
    have hpost := runDesc_post hto.chain hop he hp hk (by rw [hhist, hen]) (by rw [hhist]; exact hroom) ho hx
    have hread := readFrom_only t e
    have hthist : (t.runDesc n u c' e).hist = ((readFrom t e).modHist (posted k ⟨memRead t.mem (dmaOf c'.cur).src 32, false, t.now⟩)).hist :=
      hpost.part .hist
    have hrhist : (readFrom t e).hist = s.hist := (hread.2 .hist (by decide)).trans hhist
    obtain ⟨hall, hother⟩ := hpost.after (ps := [.dev, .hist]) (onlyChanges_trans (onlyChanges_mono hread (by decide))
      (onlyChanges_mono (modHist_touches (readFrom t e) _).only (by decide)))
    refine ⟨_, exec_next (by rw [hop]; rfl) heff, ?_, hpost.chain, ?_, otherStalls_trans hto.other hother⟩
    · rw [hthist, modHist_hist, hrhist, posted, vget_vmod_same, hmem, hnow]
    · exact onlyChanges_trans (onlyChanges_mono hto.only (by decide)) (onlyChanges_mono hall (by decide))
  case pass =>
    intro hop hen
    obtain ⟨t, hto, heff⟩ := htake .clean
    obtain ⟨v, hwait, hrun⟩ := runDesc_pass hto.chain hop .clean
    have hv := hto.trans hwait
    have hpt : t.pass (passOf (dmaOf c'.cur).passId) = s.pass (passOf (dmaOf c'.cur).passId) := pass_of_fab (hto.part .fab) _
    have hpv : v.pass (passOf (dmaOf c'.cur).passId) = s.pass (passOf (dmaOf c'.cur).passId) := pass_of_fab (hv.part .fab) _
    rw [hpt, if_pos hen] at hrun
    have harr := arrive_touches v (passOf (dmaOf c'.cur).passId) (some n)
    refine ⟨_, exec_next (by rw [hop]; rfl) (heff.trans hrun), ?_, fun hfresh hless => ?_, ?_, otherStalls_trans hv.other (harr.otherStalls n)⟩
    · rw [chainOn_of_stalls (harr.part .stalls), hwait.chain, hpt]
    · rw [arrive_counts (some n) (by rw [hpv, hen]) (by rw [hpv]; exact hfresh) (by rw [hpv]; exact hless), pass_modPass_same, hpv]
    · exact (harr.part .mem).trans (hv.part .mem)
  case cancelled =>
    intro hop hen
    obtain ⟨t, hto, heff⟩ := htake .clean
    obtain ⟨v, hwait, hrun⟩ := runDesc_pass hto.chain hop .clean
    have hv := hto.trans hwait
    have hpt : t.pass (passOf (dmaOf c'.cur).passId) = s.pass (passOf (dmaOf c'.cur).passId) := pass_of_fab (hto.part .fab) _
    have hpv : v.pass (passOf (dmaOf c'.cur).passId) = s.pass (passOf (dmaOf c'.cur).passId) := pass_of_fab (hv.part .fab) _
    rw [hpt, if_neg (by simp [hen]), arrive_disabled (some n) (by rw [hpv, hen])] at hrun
    obtain ⟨hstray, hcount⟩ := passStray_spec v (passOf (dmaOf c'.cur).passId) (some n)
    have hend := endChain_chainTo ((chainOn_of_stalls (hstray.2 .stalls (by decide)) n u).trans hv.chain) ho (code := oPassCancelled) (by decide)
    obtain ⟨hall, hother⟩ := hend.after hstray
    have hfull := onlyChanges_trans (onlyChanges_mono hv.only (by decide)) hall
    refine ⟨_, exec_next (by rw [hop]; rfl) (heff.trans hrun), hend.chain, ?_, pass_of_fab (hfull.2 .fab (by decide)) _, hfull.2 .mem (by decide),
      otherStalls_trans hv.other hother⟩
    rw [devCtr_of_dev (hend.part .dev), hcount, devCtr_of_dev (hv.part .dev)]
    rfl

end Sys2Proof.Safety
end

/-! Armed chains, cyclic waits and the reserves of the streams and of the DRAM (R237, R247-R250). -/
section
namespace Sys2Proof.Safety
open Sys2Proof.Machine

/-! ### Armed streams (R247) -/

/-- The chain that an image starts. -/
def armedChain (cls : Nat) (image : List Byte) (now : Int) : Chain := { newChain .armed cls 0 0 stallSize now with fetched := [(0, image)] }

/-- A stream that is armed with an image. -/
def armedStream (cls : Nat) (image : List Byte) (now : Int) (y : Stream) : Stream :=
  if y.chain.isNone ∧ y.shadow.isNone then { y with chain := some (armedChain cls image now) } else { y with shadow := some image }

/-- Arming one stream leaves the arm window, the class and every other stream as they were. -/
theorem arm_spec (x : Stall) (t : StreamId) (now : Int) : (x.arm t now).armWin = x.armWin ∧ (x.arm t now).armCrit = x.armCrit ∧
    (x.arm t now).streams = vmod x.streams t (armedStream x.armCrit.toNat (x.armImage t) now) := by
  unfold Stall.arm armedStream
  dsimp only
  split
  · rename_i hfree
    refine ⟨rfl, rfl, ?_⟩
    simp only [vmod, hfree, and_self, if_true]
    rfl
  · rename_i hbusy
    have hstreams : vmod x.streams t (fun y => { y with shadow := some (x.armImage t) }) = vmod x.streams t
        (fun y => if y.chain.isNone ∧ y.shadow.isNone then { y with chain := some (armedChain x.armCrit.toNat (x.armImage t) now) }
          else { y with shadow := some (x.armImage t) }) := by
      simp only [vmod, if_neg hbusy]
    split
    · exact ⟨rfl, rfl, hstreams⟩
    · exact ⟨rfl, rfl, hstreams⟩

/-- Arming streams, each once: what each becomes depends on the arm window alone. -/
theorem armAll_spec {l : List StreamId} (hl : l.Nodup) (x : Stall) (now : Int) (u : StreamId) :
    vget (l.foldl (fun x t => x.arm t now) x).streams u =
      if u ∈ l then armedStream x.armCrit.toNat (x.armImage u) now (vget x.streams u) else vget x.streams u := by
  induction l generalizing x with
  | nil => rfl
  | cons t l ih =>
    obtain ⟨ht, hl⟩ := List.nodup_cons.mp hl
    obtain ⟨hwin, hcrit, hstr⟩ := arm_spec x t now
    have himage : (x.arm t now).armImage u = x.armImage u := by simp only [Stall.armImage, hwin]
    rw [List.foldl_cons, ih hl, himage, hcrit, hstr, vget_vmod_ite]
    by_cases hu : u = t
    · subst hu; simp [ht]
    · simp [hu]

theorem writeArm_spec (x : Stall) (v : Word) (now : Int) (u : StreamId) : vget (x.writeArm v now).streams u =
    if wbit v u.val then armedStream x.armCrit.toNat (x.armImage u) now (vget x.streams u) else vget x.streams u := by
  unfold Stall.writeArm
  rw [armAll_spec ((List.nodup_finRange 8).filter _)]
  simp

/-- Updates of stalls that read the clock read the same instant. -/
theorem foldl_modStall_now (f : Int → Stall → Stall) (l : List StallId) (s : State) :
    l.foldl (fun s n => s.modStall n fun x => f s.now x) s = l.foldl (fun t n => t.modStall n (f s.now)) s := by
  suffices H : ∀ (i : Int) (t : State), t.now = i →
      l.foldl (fun s n => s.modStall n fun x => f s.now x) t = l.foldl (fun t n => t.modStall n (f i)) t from H s.now s rfl
  intro i
  induction l with
  | nil => exact fun _ _ => rfl
  | cons m l ih =>
    intro t ht
    simp only [List.foldl_cons, ht]
    exact ih _ ht

theorem exec_dmaArm (w : Window) (v : Word) (s : State) :
    exec (.dmaArm w v) s = .next (s.overWindow w fun t n => t.modStall n fun x => x.writeArm v s.now) :=
  exec_next rfl (foldl_modStall_now (fun i x => x.writeArm v i) _ s)

/-! ### The chain that started latest (R250) -/

/-- The later of two streams by the start of their chains. -/
def laterStream (started : StreamId → Int) (b : Option StreamId) (t : StreamId) : Option StreamId :=
  match b with
  | some u => if started u ≤ started t then some t else b
  | none => some t

section
variable {started : StreamId → Int} {u : StreamId} {l : List StreamId} (hl : ∀ v ∈ l, v ≠ u → started v < started u)
include hl

theorem latest_kept : l.foldl (laterStream started) (some u) = some u := by
  induction l with
  | nil => rfl
  | cons v l ih =>
    have hv : laterStream started (some u) v = some u := by
      by_cases h : v = u
      · subst h; simp [laterStream]
      · exact if_neg (Int.not_le.mpr (hl v List.mem_cons_self h))
    rw [List.foldl_cons, hv]
    exact ih fun w hw => hl w (List.mem_cons_of_mem v hw)

/-- The stream whose chain started latest is found, whatever no later one came before. -/
theorem latest_found (hu : u ∈ l) {b : Option StreamId} (hb : ∀ w ∈ b, started w ≤ started u) : l.foldl (laterStream started) b = some u := by
  induction l generalizing b with
  | nil => cases hu
  | cons v l ih =>
    have hl' : ∀ w ∈ l, w ≠ u → started w < started u := fun w hw => hl w (List.mem_cons_of_mem v hw)
    rw [List.foldl_cons]
    by_cases h : v = u
    · subst h
      have hv : laterStream started b v = some v := by
        cases b with
        | none => rfl
        | some w => exact if_pos (hb w rfl)
      rw [hv]
      exact latest_kept hl'
    · refine ih hl' ((List.mem_cons.mp hu).resolve_left (Ne.symm h)) fun w hw => ?_
      cases b with
      | none => cases hw; exact (hl v List.mem_cons_self h).le
      | some x =>
        simp only [laterStream] at hw
        split at hw
        · cases hw; exact (hl v List.mem_cons_self h).le
        · exact hb w hw

end

/-- The instant at which the chain of a stream started. -/
def startedAt (s : State) (n : StallId) (t : StreamId) : Int := match chainOn s n t with | some c => c.started | none => 0

/-- In test mode the chain that started latest is aborted where every stream that holds slots waits. -/
theorem cyclicWait_aborts {s : State} {n : StallId} {held : List Nat} {u : StreamId} {c : Chain} (hmode : (s.stall n).dmaMode = 2)
    (hlen : held.length ≤ 8) (hfull : (s.stall n).poolFull held = true) (hheld : 0 < held.getD u.val 0)
    (hstuck : ∀ v : StreamId, 0 < held.getD v.val 0 → (s.stall n).stuck v (held.getD v.val 0) = true)
    (hlast : ∀ (v : StreamId) (d : Chain), v ≠ u → 0 < held.getD v.val 0 → chainOn s n v = some d → d.started < c.started)
    (hc : chainOn s n u = some c) : cyclicWaitEffect n held s =
      ((s.endChain n u oCyclicWait).stallAdd n .dmaCyclicAbort 1).raise 0x0503 (evtSource 1 n.val) [BitVec.ofNat 8 n.val, BitVec.ofNat 8 u.val] := by
  have hbefore : ∀ v ∈ (List.finRange 8).filter fun t : StreamId => 0 < held.getD t.val 0, v ≠ u → startedAt s n v < startedAt s n u := by
    intro v hv hne
    have hpos : 0 < held.getD v.val 0 := by simpa using hv
    obtain ⟨d, hd⟩ : ∃ d, chainOn s n v = some d := by
      have hs := hstuck v hpos
      unfold Stall.stuck at hs
      split at hs
      · exact ⟨_, ‹_›⟩
      · cases hs
    simp only [startedAt, hd, hc]
    exact hlast v d hne hpos hd
  have hfound := latest_found hbefore (by simpa using hheld) (b := none) (by simp)
  have hall : (((List.finRange 8).filter fun t : StreamId => 0 < held.getD t.val 0).all fun t => (s.stall n).stuck t (held.getD t.val 0)) = true :=
    List.all_eq_true.mpr fun v hv => hstuck v (by simpa using hv)
  unfold cyclicWaitEffect
  dsimp only
  rw [if_pos ⟨hmode, hlen, hfull, hall⟩]
  split
  · rename_i hnone
    exact absurd (hfound.symm.trans hnone) (by simp)
  · rename_i v hsome
    rw [Option.some.inj (hfound.symm.trans hsome)]

/-- Settles O32: each write is one update at the stalls that it reaches; the armed chain starts on a free stream, and the abort picks the
latest chain. -/
theorem armedChainsAndReserves : Obligations.ArmedChainsAndReserves := by
  unfold Obligations.ArmedChainsAndReserves
  refine ⟨?arm, ?shadow, ?cyclic, ?reserve, ?dram⟩
  case arm =>
    intro s w v
    have hst := stall_overWindow_modStall s w fun x => x.writeArm v s.now
    refine ⟨_, exec_dmaArm w v s, overWindow_only s w _ fun s n => modStall_only s n _, fun n hn => ?_, fun n u hn hon => ?_⟩
    · rw [hst, if_neg]
      rintro ⟨hw, hon⟩
      obtain hn | hn := hn
      · exact hn hw
      · rw [hn] at hon; cases hon
    have hstream : vget ((s.overWindow w fun t n => t.modStall n fun x => x.writeArm v s.now).stall n).streams u = if wbit v u.val
        then armedStream (s.stall n).armCrit.toNat ((s.stall n).armImage u) s.now (vget (s.stall n).streams u)
        else vget (s.stall n).streams u := by
      rw [hst, if_pos ⟨hn, hon⟩, writeArm_spec]
    refine ⟨fun hv => ?_, fun hv hfree hshadow => ?_, fun hv hbusy => ?_⟩
    · rw [hstream, if_neg (by simp [hv])]
    · have hnone : (vget (s.stall n).streams u).chain = none := hfree
      refine ⟨armedChain (s.stall n).armCrit.toNat ((s.stall n).armImage u) s.now, ?_, rfl, rfl, rfl, rfl, rfl, rfl⟩
      rw [chainOn, hstream, if_pos hv, armedStream, if_pos (by simp [hnone, hshadow])]
    · have hsome : ¬ ((vget (s.stall n).streams u).chain.isNone ∧ (vget (s.stall n).streams u).shadow.isNone) :=
        fun h => hbusy (Option.isNone_iff_eq_none.mp h.1)
      rw [chainOn, hstream, if_pos hv, armedStream, if_neg hsome]
      exact ⟨rfl, rfl⟩
  case shadow =>
    intro s n u b hfree hshadow
    have hstart : (s.stall n).shadowStart u s.now = onStream u (fun y => { y with chain := some (armedChain (s.stall n).armCrit.toNat b s.now) })
        (onStream u (fun y => { y with shadow := none }) (s.stall n)) := by
      unfold Stall.shadowStart
      dsimp only
      rw [show (vget (s.stall n).streams u).chain = none from hfree, hshadow]
      rfl
    refine ⟨s.modStall n fun x => x.shadowStart u s.now, armedChain (s.stall n).armCrit.toNat b s.now, rfl, ?_, rfl, rfl, rfl, ?_,
      modStall_only s n _, otherStalls_modStall s n _⟩
    · rw [chainOn, stall_modStall_same, hstart, stream_onStream]
    · rw [stall_modStall_same, hstart, stream_onStream, stream_onStream]
  case cyclic =>
    intro s n held u c r hmode hlen hfull hheld hstuck hlast hc ho
    have heff := cyclicWait_aborts hmode hlen hfull hheld hstuck hlast hc
    have hend := endChain_chainTo hc ho (code := oCyclicWait) (by decide)
    have hctr : ((s.endChain n u oCyclicWait).stall n).ctr = (s.stall n).ctr := by
      rw [endChain_command hc ho (by decide), modStream_eq, stall_modStall_same]; rfl
    have hraise := raise_touches ((s.endChain n u oCyclicWait).stallAdd n .dmaCyclicAbort 1) 0x0503 (evtSource 1 n.val)
      [BitVec.ofNat 8 n.val, BitVec.ofNat 8 u.val]
    have hadd : ((s.endChain n u oCyclicWait).stallAdd n .dmaCyclicAbort 1).stall n = ((s.endChain n u oCyclicWait).stall n).add .dmaCyclicAbort 1 :=
      stall_modStall_same _ n _
    refine ⟨_, exec_next rfl heff, ?_, ?_, ?_, ?_⟩
    · rw [chainOn_of_stalls (hraise.part .stalls), chainOn, hadd]
      exact hend.chain
    · rw [hraise.stall n, hadd, Stall.add, vget_vmod_same, hctr]
    · exact onlyChanges_trans (onlyChanges_mono hend.only (by decide)) (onlyChanges_trans (onlyChanges_mono (modStall_only _ n _) (by decide))
        (onlyChanges_mono hraise.only (by decide)))
    · exact otherStalls_trans hend.other (otherStalls_trans (otherStalls_modStall _ n _) (hraise.otherStalls n))
  case reserve =>
    intro s w u v
    refine ⟨_, rfl, overWindow_only s w _ fun s n => modStall_only s n _, fun n => ?_⟩
    intro k r
    rw [stall_overWindow_modStall]
    by_cases hsum : ((vlist r).map (·.toNat)).sum ≤ 128
    · simp only [hsum, and_true]
      split
      · exact if_pos hsum
      · rfl
    · simp only [hsum, and_false, if_false]
      split
      · exact if_neg hsum
      · rfl
  case dram =>
    intro s v
    refine ⟨_, rfl, (setFab_touches s _).only, fun h => if_neg (by omega), fun h => if_pos h⟩

end Sys2Proof.Safety
end

/-! The Passes: the release of a group of stalls, stamps of a joined Pass, time-outs and cancellation (R252, R254-R256). -/
section
namespace Sys2Proof.Safety
open Sys2Proof.Machine

/-! ### One place among the steps of a fold -/

section
variable {σ α β : Type} {g : σ → α → σ} {read : σ → β} {a : α} (hother : ∀ s b, b ≠ a → read (g s b) = read s)
include hother

/-- What no step of a fold reaches stays. -/
theorem read_foldl_not_mem {l : List α} (ha : a ∉ l) (s : σ) : read (l.foldl g s) = read s := by
  induction l generalizing s with
  | nil => rfl
  | cons b l ih =>
    obtain ⟨hb, hl⟩ := not_or.mp (mt List.mem_cons.mpr ha)
    rw [List.foldl_cons, ih hl, hother s b (Ne.symm hb)]

/-- What one step of a fold alone reaches is as that step leaves it. -/
theorem read_foldl_mem {x y : β} (hself : ∀ s, read s = x → read (g s a) = y) {l : List α} (hl : l.Nodup) (ha : a ∈ l) {s : σ}
    (hs : read s = x) : read (l.foldl g s) = y := by
  induction l generalizing s with
  | nil => cases ha
  | cons b l ih =>
    obtain ⟨hb, hl⟩ := List.nodup_cons.mp hl
    rw [List.foldl_cons]
    obtain rfl | ha := List.mem_cons.mp ha
    · rw [read_foldl_not_mem hother hb, hself s hs]
    · exact ih hl ha ((hother s b fun h => hb (h ▸ ha)).trans hs)

end

/-! ### The end of a wait on the chains of a stall -/

/-- Of stall n no more than the stream u changes, beside what is counted. -/
structure StreamWork (n : StallId) (u : StreamId) (s t : State) : Prop where
  only : OnlyChanges [.stalls, .dev, .cells] s t
  other : OtherStalls n s t
  matrix : (t.stall n).matrix = (s.stall n).matrix
  streams : ∀ v, v ≠ u → chainOn t n v = chainOn s n v

theorem StreamWork.refl (n : StallId) (u : StreamId) (s : State) : StreamWork n u s s :=
  ⟨onlyChanges_refl _ s, otherStalls_refl n s, rfl, fun _ _ => rfl⟩

theorem modStream_work (s : State) (n : StallId) (u : StreamId) (f : Stream → Stream) : StreamWork n u s (s.modStream n u f) where
  only := onlyChanges_mono (modStall_only s n _) (by decide)
  other := otherStalls_modStall s n _
  matrix := by rw [modStream_eq, stall_modStall_same]; rfl
  streams v hv := by rw [chainOn, modStream_eq, stall_modStall_same, onStream, vget_vmod_ne _ _ hv.symm]; rfl

theorem StreamWork.tdc {n : StallId} {u : StreamId} {s t : State} (h : StreamWork n u s t) (c : DevCtr) (cell : CellId) (k : Nat) :
    StreamWork n u s (t.tdc c cell k) :=
  ⟨onlyChanges_trans h.only (onlyChanges_mono (tdc_only t c cell k) (by decide)), h.other, h.matrix, h.streams⟩

theorem endChain_work (s : State) (n : StallId) (u : StreamId) (code : Byte) : StreamWork n u s (s.endChain n u code) := by
  unfold State.endChain
  split
  · exact .refl n u s
  split
  · exact modStream_work s n u _
  · dsimp only
    split
    · exact (modStream_work s n u _).tdc _ _ 1
    · exact modStream_work s n u _

theorem descDone_work (s : State) (n : StallId) (u : StreamId) : StreamWork n u s (s.descDone n u) := by
  unfold State.descDone
  split
  · exact .refl n u s
  split
  · exact endChain_work s n u _
  split
  · exact endChain_work s n u _
  · exact modStream_work s n u _

/-- One stream of `State.passChains`. -/
def passChain (n : StallId) (p : PassId) (gen : Option Nat) (s : State) (u : StreamId) : State :=
  match (vget (s.stall n).streams u).chain with
  | some c => match c.phase with
    | .pass q g =>
      if q = p then
        match gen with
        | some k => if g = k then s.descDone n u else s
        | none => s.endChain n u oPassCancelled
      else s
    | _ => s
  | none => s

theorem passChains_eq (s : State) (n : StallId) (p : PassId) (gen : Option Nat) :
    s.passChains n p gen = (List.finRange 8).foldl (passChain n p gen) s := rfl

theorem passChain_work (n : StallId) (p : PassId) (gen : Option Nat) (s : State) (u : StreamId) : StreamWork n u s (passChain n p gen s u) := by
  unfold passChain
  split
  · split
    · split
      · split
        · split
          · exact descDone_work s n u
          · exact .refl n u s
        · exact endChain_work s n u _
      · exact .refl n u s
    · exact .refl n u s
  · exact .refl n u s

/-- A chain that waits for the generation goes on to its next descriptor. -/
theorem passChain_released {s : State} {n : StallId} {p : PassId} {k : Nat} {u : StreamId} {c : Chain} (hph : c.phase = .pass p k)
    (hx : c.expired = false) (hl : (dmaOf c.cur).last = false) (h : chainOn s n u = some c) :
    chainOn (passChain n p (some k) s u) n u = some { c with phase := .ready } := by
  have hgo : passChain n p (some k) s u = s.descDone n u := by
    unfold passChain
    rw [chain_eq h]
    simp only [hph, if_true]
  have hdone : s.descDone n u = s.modStream n u fun y => { y with chain := some { c with phase := .ready } } := by
    unfold State.descDone
    rw [chain_eq h]
    simp only [hx, hl, Bool.false_eq_true, if_false]
  rw [hgo, hdone]
  exact (modStream_chainTo s n u rfl).chain

theorem passChains_only (s : State) (n : StallId) (p : PassId) (gen : Option Nat) :
    OnlyChanges [.stalls, .dev, .cells] s (s.passChains n p gen) :=
  onlyChanges_foldl _ (fun s u => (passChain_work n p gen s u).only) _ s

theorem passChains_other (s : State) (n : StallId) (p : PassId) (gen : Option Nat) : OtherStalls n s (s.passChains n p gen) := by
  rw [passChains_eq]
  generalize List.finRange 8 = l
  induction l generalizing s with
  | nil => exact otherStalls_refl n s
  | cons u l ih => exact otherStalls_trans (passChain_work n p gen s u).other (ih _)

theorem matrix_passChains (s : State) (n : StallId) (p : PassId) (gen : Option Nat) :
    ((s.passChains n p gen).stall n).matrix = (s.stall n).matrix := by
  rw [passChains_eq]
  generalize List.finRange 8 = l
  induction l generalizing s with
  | nil => rfl
  | cons u l ih => exact (ih _).trans (passChain_work n p gen s u).matrix

theorem passChains_released {s : State} {n : StallId} {p : PassId} {k : Nat} {u : StreamId} {c : Chain} (hph : c.phase = .pass p k)
    (hx : c.expired = false) (hl : (dmaOf c.cur).last = false) (h : chainOn s n u = some c) :
    chainOn (s.passChains n p (some k)) n u = some { c with phase := .ready } :=
  read_foldl_mem (read := fun s => chainOn s n u) (fun s v hv => (passChain_work n p (some k) s v).streams u hv.symm)
    (fun _ hs => passChain_released hph hx hl hs) (List.nodup_finRange 8) (List.mem_finRange u) h

/-! ### The end of a wait at the stalls of a list -/

/-- The waits of a stall at Pass p end: that of its matrix array with an outcome, and those of its chains. -/
def passAt (p : PassId) (gen : Option Nat) (o : Byte) (s : State) (n : StallId) : State :=
  (s.modStall n fun y => y.passEnd p gen o).passChains n p gen

theorem streams_passEnd (x : Stall) (p : PassId) (gen : Option Nat) (o : Byte) : (x.passEnd p gen o).streams = x.streams := by
  unfold Stall.passEnd
  split
  · split <;> rfl
  · rfl

theorem matrix_passEnd {x : Stall} {r : Running} {p : PassId} {k : Nat} {l : Option Int} {gen : Option Nat} (h : x.matrix = .passWait r p k l)
    (ho : r.outcome = none) (hg : gen.all (· == k) = true) (o : Byte) :
    (x.passEnd p gen o).matrix = .passWait { r with outcome := some o } p k l := by
  unfold Stall.passEnd
  rw [h]
  dsimp only
  rw [if_pos ⟨rfl, by rw [ho]; rfl, hg⟩]

theorem passAt_only (p : PassId) (gen : Option Nat) (o : Byte) (s : State) (n : StallId) :
    OnlyChanges [.stalls, .dev, .cells] s (passAt p gen o s n) :=
  onlyChanges_trans (onlyChanges_mono (modStall_only s n _) (by decide)) (passChains_only _ n p gen)

theorem passAt_other (p : PassId) (gen : Option Nat) (o : Byte) (s : State) (n : StallId) : OtherStalls n s (passAt p gen o s n) :=
  otherStalls_trans (otherStalls_modStall s n _) (passChains_other _ n p gen)

/-- The waits at Pass p end at the stalls of a list. -/
def passAtAll (p : PassId) (gen : Option Nat) (o : Byte) (l : List StallId) (s : State) : State := l.foldl (passAt p gen o) s

section
variable {p : PassId} {o : Byte} {l : List StallId} {s : State} {n : StallId}

theorem passAtAll_only (gen : Option Nat) : OnlyChanges [.stalls, .dev, .cells] s (passAtAll p gen o l s) :=
  onlyChanges_foldl _ (passAt_only p gen o) l s

theorem stall_passAtAll_not_mem (gen : Option Nat) (hn : n ∉ l) : (passAtAll p gen o l s).stall n = s.stall n :=
  read_foldl_not_mem (read := fun s => s.stall n) (fun s m hm => passAt_other p gen o s m n hm.symm) hn s

theorem matrix_passAtAll {gen : Option Nat} {r : Running} {k : Nat} {i : Option Int} (hl : l.Nodup) (hn : n ∈ l)
    (h : (s.stall n).matrix = .passWait r p k i) (ho : r.outcome = none) (hg : gen.all (· == k) = true) :
    ((passAtAll p gen o l s).stall n).matrix = .passWait { r with outcome := some o } p k i :=
  read_foldl_mem (read := fun s => (s.stall n).matrix) (fun s m hm => congrArg Stall.matrix (passAt_other p gen o s m n hm.symm))
    (fun s hs => by
      show ((passAt p gen o s n).stall n).matrix = _
      rw [passAt, matrix_passChains, stall_modStall_same, matrix_passEnd hs ho hg]) hl hn h

theorem chain_passAtAll {k : Nat} {u : StreamId} {c : Chain} (hl : l.Nodup) (hn : n ∈ l) (hph : c.phase = .pass p k)
    (hx : c.expired = false) (hlast : (dmaOf c.cur).last = false) (h : chainOn s n u = some c) :
    chainOn (passAtAll p (some k) o l s) n u = some { c with phase := .ready } :=
  read_foldl_mem (read := fun s => chainOn s n u) (fun s m hm => by
      show chainOn (passAt p (some k) o s m) n u = chainOn s n u
      rw [chainOn, passAt_other p (some k) o s m n hm.symm]; rfl)
    (fun s hs => by
      refine passChains_released hph hx hlast ?_
      rw [chainOn, stall_modStall_same, streams_passEnd]
      exact hs) hl hn h

end

/-! ### PASS_RELEASE (R255) -/

/-- The Pass once group g of its generation w is released. -/
def releasedPass (g : Fin 8) (w : PassWave) (x : Pass) : Pass :=
  { x with
    waves := x.waves.filterMap fun y => if y.gen = w.gen then (if (w.done ++ [g]).length = 8 then none else some { w with done := w.done ++ [g] })
      else some y
    gen := if g = 0 then x.gen + 1 else x.gen }

/-- The stalls of a group. -/
def groupStalls (g : Fin 8) : List StallId := (List.finRange 64).filter fun n => groupOf n == g

theorem mem_groupStalls {g : Fin 8} {n : StallId} : n ∈ groupStalls g ↔ groupOf n = g := by simp [groupStalls]

theorem groupStalls_nodup (g : Fin 8) : (groupStalls g).Nodup := (List.nodup_finRange 64).filter _

theorem passRelease_releases {s : State} {p : PassId} {g : Fin 8} {w : PassWave} {i : Int}
    (hw : (s.pass p).waves.find? (fun w => !w.done.contains g) = some w) (hi : w.release = some i) (hen : (s.pass p).en = true)
    (hbefore : ∀ h, h < g → h ∈ w.done) (hnow : s.reached (i + ns (8 * g.val : Nat)) = true) :
    passReleaseEffect p g s = passAtAll p (some w.gen) oDone (groupStalls g) (s.modPass p (releasedPass g w)) := by
  have hall : ((List.finRange 8).all fun h => decide (h < g) → w.done.contains h) = true := by
    exact List.all_eq_true.mpr fun h _ => decide_eq_true fun hlt => List.contains_iff_mem.mpr (hbefore h (of_decide_eq_true hlt))
  obtain ⟨gen, stamp, release, done⟩ := w
  obtain rfl : release = some i := hi
  unfold passReleaseEffect
  dsimp only
  rw [hw]
  dsimp only
  rw [if_pos ⟨hen, hall, hnow⟩]
  rfl

/-! ### Stamps (R256) -/

theorem modPass_eq_self {s : State} {p : PassId} {f : Pass → Pass} (h : f (s.pass p) = s.pass p) : s.modPass p f = s := by
  have : vmod s.fab.passes p f = s.fab.passes := by
    unfold vmod; rw [show f (vget s.fab.passes p) = vget s.fab.passes p from h, vset_vget]
  simp [State.modPass, this]

/-- The release of a joined generation, no earlier than now. -/
def settledRelease (s : State) (own : Int) (ts : List Int) : Int :=
  if joinedRelease s.fab.passTiming (latest own ts) < s.now then s.now else joinedRelease s.fab.passTiming (latest own ts)

/-- A generation with its stamp and its release. -/
def settledWave (s : State) (w : PassWave) (own : Int) (ts : List Int) : PassWave :=
  { w with stamp := some own, release := some (settledRelease s own ts) }

/-- The oldest generation has every stamp: its release is set, and a late one is counted. -/
theorem settleWave_settles {s : State} {p : PassId} {w : PassWave} {own : Int} {ts : List Int} (hw : (s.pass p).waves = [w])
    (hr : w.release = none) (hs : w.stamp = some own) (hts : firstStamps (s.pass p).members s.join.others = some ts) :
    ∃ t, OnlyChanges [.fab, .pwr] s t ∧ (t.pass p).waves = [settledWave s w own ts] ∧
      s.settleWave p 0 = if joinedRelease s.fab.passTiming (latest own ts) < s.now then (t.devInc .passLate).devInc .tdcSched else t := by
  have hlate := noteLate_touches s ((s.join.device, own) :: s.join.others.zip ts)
  refine ⟨(s.noteLate ((s.join.device, own) :: s.join.others.zip ts)).modPass p fun x => { x with
    members := dropStamps x.members s.join.others, waves := x.waves.set 0 (settledWave s w own ts) }, ?_, ?_, ?_⟩
  · exact (hlate.andThen (modPass_touches _ p _) (rs := [.fab, .pwr])).only
  · rw [pass_modPass_same, pass_of_fab (hlate.part .fab), hw]
    rfl
  · unfold State.settleWave
    simp only [hw, List.getElem?_cons_zero, if_true, hr, Option.isSome_none, Bool.false_eq_true, if_false, hs, Option.getD_some, hts,
      decide_eq_true_eq]
    rfl

theorem settlePass_one {s : State} {p : PassId} {w : PassWave} (hj : (s.pass p).joined = true) (hw : (s.pass p).waves = [w]) :
    s.settlePass p = s.settleWave p 0 := by
  rw [State.settlePass, if_pos hj, hw]
  rfl

theorem settlePass_none {s : State} {p : PassId} (hw : (s.pass p).waves = []) : s.settlePass p = s := by
  rw [State.settlePass, hw]
  simp

/-- A Pass that holds one more stamp. -/
def withStamp (d : DeviceId) (i : Int) (x : Pass) : Pass := { x with members := x.members ++ [(d, i)] }

theorem passStamp_taken {s : State} {p : PassId} {d : DeviceId} {i : Int} (hj : (s.pass p).joined = true) (hen : (s.pass p).en = true)
    (hm : s.join.member d = true) : passStampEffect p d i s = (s.modPass p (withStamp d i)).settlePass p := if_pos ⟨hj, hen, hm⟩

/-- The least multiple of q no less than a: a itself or less than q above it. -/
theorem ceil_mul_bounds {a q : Int} (hq : 0 < q) : a ≤ (a + q - 1) / q * q ∧ (a + q - 1) / q * q < a + q := by
  have hdiv := Int.mul_ediv_add_emod (a + q - 1) q
  have hpos := Int.emod_nonneg (a + q - 1) hq.ne'
  have hlt := Int.emod_lt_of_pos (a + q - 1) hq
  rw [Int.mul_comm] at hdiv
  omega

/-! ### PASS_CFG (R252) -/

theorem passCfg_configures {s : State} {p : PassId} (h : (s.pass p).en = false) (v : Word) : passCfgEffect p v s =
    s.modPass p fun x => if x.en then { x with en := wbit v 31 } else
      { x with en := wbit v 31, joined := wbit v 30, target := BitVec.ofNat 12 (fld v 11 0) } := by
  unfold passCfgEffect
  simp only [h, Bool.false_and, Bool.false_eq_true, if_false]

theorem passCfg_keeps {s : State} {p : PassId} {v : Word} (h : (s.pass p).en = true) (hv : wbit v 31 = true) : passCfgEffect p v s = s := by
  unfold passCfgEffect
  simp only [h, hv, Bool.not_true, Bool.and_false, Bool.false_eq_true, if_false]
  refine modPass_eq_self ?_
  rw [if_pos h]
  generalize s.pass p = x at h
  cases x
  cases h
  rfl

/-- A Pass that EN = 0 cancels. -/
def cancelledPass (x : Pass) : Pass := { x with en := false, waves := [], arrived := 0, members := [] }

theorem passCfg_cancels {s : State} {p : PassId} {v : Word} (h : (s.pass p).en = true) (hv : wbit v 31 = false) :
    ∃ t, Touches [.fab] s t ∧ t.pass p = cancelledPass (s.pass p) ∧
      passCfgEffect p v s = passAtAll p none oPassCancelled (List.finRange 64) t := by
  refine ⟨(s.modPass p fun x => if x.en then { x with en := false } else
    { x with en := false, joined := wbit v 30, target := BitVec.ofNat 12 (fld v 11 0) }).modPass p fun x =>
      { x with waves := [], arrived := 0, members := [] }, (modPass_touches s p _).trans (modPass_touches _ p _), ?_, ?_⟩
  · rw [pass_modPass_same, pass_modPass_same, if_pos h]
    rfl
  · unfold passCfgEffect
    simp only [h, hv, Bool.not_false, Bool.and_true, if_true]
    rfl

/-- Settles O33: the ends of waits are read off at each stall of the list once; a joined release is the multiple of the quantum. -/
theorem passesReleaseTimeOutAndCancel : Obligations.PassesReleaseTimeOutAndCancel := by
  unfold Obligations.PassesReleaseTimeOutAndCancel
  refine ⟨?release, ?stamp, ?settles, ?quantum, ?timeout, ?configures, ?keeps, ?cancels⟩
  case release =>
    intro s p g w i hw hi hen hbefore hnow
    have hall := passAtAll_only (p := p) (o := oDone) (l := groupStalls g) (s := s.modPass p (releasedPass g w)) (some w.gen)
    have hpass : (passAtAll p (some w.gen) oDone (groupStalls g) (s.modPass p (releasedPass g w))).pass p = releasedPass g w (s.pass p) := by
      rw [pass_of_fab (hall.2 .fab (by decide)), pass_modPass_same]
    refine ⟨_, exec_next rfl (passRelease_releases hw hi hen hbefore hnow), ?_, ?_, fun n r l hn hm ho => ?_, fun n u c hn hc hph hx hl => ?_,
      fun n hn => ?_, hall.2 .mem (by decide), hall.2 .qm (by decide)⟩
    · rw [hpass]; rfl
    · rw [hpass]; rfl
    · exact matrix_passAtAll (groupStalls_nodup g) (mem_groupStalls.mpr hn) hm ho (by simp)
    · exact chain_passAtAll (groupStalls_nodup g) (mem_groupStalls.mpr hn) hph hx hl hc
    · exact stall_passAtAll_not_mem (some w.gen) fun h => hn (mem_groupStalls.mp h)
  case stamp =>
    intro s p d i hj hen hm hw
    have hnone : ((s.modPass p (withStamp d i)).pass p).waves = [] := by rw [pass_modPass_same]; exact hw
    exact ⟨_, exec_next rfl ((passStamp_taken hj hen hm).trans (settlePass_none hnone)), pass_modPass_same s p _, (modPass_touches s p _).only⟩
  case settles =>
    intro s p d i own w ts hj hen hm hw hr hs hts
    have hpass : (s.modPass p (withStamp d i)).pass p = withStamp d i (s.pass p) := pass_modPass_same s p _
    obtain ⟨t, honly, hwaves, heq⟩ := settleWave_settles (s := s.modPass p (withStamp d i)) (ts := ts) (by rw [hpass]; exact hw) hr hs
      (by rw [hpass]; exact hts)
    have heff := ((passStamp_taken (i := i) hj hen hm).trans (settlePass_one (by rw [hpass]; exact hj) (by rw [hpass]; exact hw))).trans heq
    have hfull : OnlyChanges [.fab, .pwr, .dev] s t := onlyChanges_trans (onlyChanges_mono (modPass_touches s p _).only (by decide))
      (onlyChanges_mono honly (by decide))
    refine ⟨_, settledWave (s.modPass p (withStamp d i)) w own ts, exec_next rfl heff, ?_, rfl, rfl, rfl, fun hlate => ?_, ?_⟩
    · split
      · exact hwaves
      · exact hwaves
    · have hlate' : joinedRelease (s.modPass p (withStamp d i)).fab.passTiming (latest own ts) < (s.modPass p (withStamp d i)).now := hlate
      rw [if_pos hlate', State.devInc, devCtr_devAdd_ne _ 1 (by decide), devCtr_devInc_same, devCtr_of_dev (honly.2 .dev (by decide))]
      rfl
    · split
      · exact onlyChanges_trans hfull (onlyChanges_mono (onlyChanges_trans (devAdd_only t .passLate 1) (devAdd_only _ .tdcSched 1)) (by decide))
      · exact hfull
  case quantum =>
    intro timing last hq _ sec
    have hmax : max 1 (fld timing 15 0) = fld timing 15 0 := max_eq_right hq
    have hpos : 0 < ns (fld timing 15 0 : Nat) := by unfold ns; omega
    have heq : joinedRelease timing last = sec + (last - sec + ns (fld timing 31 16 : Nat) + ns (fld timing 15 0 : Nat) - 1) /
        ns (fld timing 15 0 : Nat) * ns (fld timing 15 0 : Nat) := by
      unfold joinedRelease; rw [hmax]
    obtain ⟨hle, hlt⟩ := ceil_mul_bounds (a := last - sec + ns (fld timing 31 16 : Nat)) hpos
    rw [heq]
    exact ⟨by omega, by omega, by rw [add_sub_cancel_left]; exact Int.dvd_mul_left _ _⟩
  case timeout =>
    intro s n r p g l hm ho hl
    have heff : passTimeoutEffect n s = (s.setMatrix n (.passWait { r with outcome := some oPassTimeout } p g (some l))).tdc .tdcSched
        (descOf r.desc).cell 1 := by
      unfold passTimeoutEffect
      rw [hm]
      exact if_pos ⟨by rw [ho]; rfl, hl⟩
    refine ⟨_, exec_next rfl heff, ?_, tdc_counted _ _ _, rfl, otherStalls_modStall s n _, ?_⟩
    · exact congrArg Stall.matrix (stall_modStall_same s n _)
    · exact onlyChanges_trans (onlyChanges_mono (modStall_only s n _) (by decide)) (onlyChanges_mono (tdc_only _ _ _ 1) (by decide))
  case configures =>
    intro s p v h
    refine ⟨_, exec_next rfl (passCfg_configures h v), ?_, (modPass_touches s p _).only⟩
    rw [pass_modPass_same, if_neg (by simp [h])]
  case keeps =>
    intro s p v h hv
    exact exec_next rfl (passCfg_keeps h hv)
  case cancels =>
    intro s p v h hv
    obtain ⟨t, ht, hpass, heff⟩ := passCfg_cancels h hv
    have hall := passAtAll_only (p := p) (o := oPassCancelled) (l := List.finRange 64) (s := t) none
    refine ⟨_, exec_next rfl heff, ?_, fun n r g l hm ho => ?_, ?_⟩
    · rw [pass_of_fab (hall.2 .fab (by decide)), hpass]; rfl
    · exact matrix_passAtAll (List.nodup_finRange 64) (List.mem_finRange n) (by rw [ht.stall n]; exact hm) ho rfl
    · exact (hall.2 .mem (by decide)).trans (ht.part .mem)

end Sys2Proof.Safety
end

/-! RoCEv2 on the receiving side: requests, acknowledgements, what goes again, and the rate (R238, R308, R309, R391, R427). -/
section
namespace Sys2Proof.Safety
open Sys2Proof.Machine

/-! ### Frames that leave -/

/-- When a frame may leave depends on the port's launches and on the time. -/
theorem departs_of_parts {s t : State} (he : t.eth = s.eth) (ht : t.time = s.time) (p : PortId) (k : Option (Fin 8)) (n : Nat) :
    t.departs p k n = s.departs p k n := by
  simp only [State.departs, he, now_of_time ht]

/-- When a RoCEv2 frame of n bytes of data leaves the port of a queue pair. -/
def leavesAt (s : State) (q : QpId) (n : Nat) : Int := s.departs (s.qp q).port (some Config.rocePriority) (Config.roceHeader + n)

theorem leavesAt_of_parts {s t : State} {q : QpId} (he : t.eth = s.eth) (ht : t.time = s.time) (hq : (t.qp q).port = (s.qp q).port) (n : Nat) :
    leavesAt t q n = leavesAt s q n := by
  rw [leavesAt, hq, departs_of_parts he ht]; rfl

theorem sendRoce_only (s : State) (q : QpId) (op : Byte) (a : BitVec 64) (w : Word) (bs : List Byte) :
    OnlyChanges [.out] s (s.sendRoce q op a w bs) :=
  send_only s _

/-- Requests sent one after the other leave in their order, each at its instant. -/
theorem resend_eq (q : QpId) (l : List RoceReq) (s : State) : l.foldl (fun s r => s.sendRoce q r.op r.addr r.imm r.bytes) s =
    { s with out := s.out ++ l.map fun r => .roce q r.op r.addr r.imm r.bytes (leavesAt s q r.bytes.length) } := by
  induction l generalizing s with
  | nil => simp
  | cons r l ih =>
    rw [List.foldl_cons, ih]
    show ({ s with out := (s.out ++ [_]) ++ l.map _ } : State) = _
    rw [List.append_assoc]
    rfl

theorem qp_of_qps {s t : State} (h : t.qps = s.qps) (q : QpId) : t.qp q = s.qp q := by rw [State.qp, h]; rfl

/-! ### Requests (R308) -/

/-- The last packet number of a request of n bytes. -/
def lastPsn (s : State) (q : QpId) (psn : BitVec 24) (n : Nat) : BitVec 24 := psn + BitVec.ofNat 24 ((s.qp q).packets n - 1)

section
variable {s : State} {q : QpId} (hlive : (s.qp q).live = true) (hon : s.portOn (s.qp q).port = true) (hmode : (s.port (s.qp q).port).mode = 2)
include hlive hon hmode

/-- A frame for a live queue pair on a port that carries RoCEv2. -/
theorem roceFrame_live (f : State → State) : s.roceFrame q f = f s := by
  unfold State.roceFrame
  dsimp only
  rw [if_neg (by simp [hon]), if_pos (.inr hmode), if_pos hlive]

/-- A request in order that is taken: the expected number moves past it, and it is acknowledged. -/
theorem roceRequest_taken {psn : BitVec 24} {n : Nat} {f : State → Option State × State} {v : State} (hp : psn = (s.qp q).expect)
    (hf : (f s).1 = some v) : s.roceRequest q psn n f =
      (v.modQp q fun y => { y with expect := lastPsn s q psn n + 1 }).roceReply q false (lastPsn s q psn n) := by
  unfold State.roceRequest
  rw [roceFrame_live hlive hon hmode]
  dsimp only
  rw [if_pos hp, hf]
  rfl

/-- A request in order that is refused is answered with a NAK of its number. -/
theorem roceRequest_refused {psn : BitVec 24} {n : Nat} {f : State → Option State × State} {v : State} (hp : psn = (s.qp q).expect)
    (hf : f s = (none, v)) : s.roceRequest q psn n f = v.roceReply q true psn := by
  unfold State.roceRequest
  rw [roceFrame_live hlive hon hmode]
  dsimp only
  rw [if_pos hp, hf]

/-- A request seen before is acknowledged again. -/
theorem roceRequest_earlier {psn : BitVec 24} {n : Nat} {f : State → Option State × State} (hp : psn ≠ (s.qp q).expect)
    (hb : (psn - (s.qp q).expect).getLsbD 23 = true) : s.roceRequest q psn n f = s.roceReply q false ((s.qp q).expect - 1) := by
  unfold State.roceRequest
  rw [roceFrame_live hlive hon hmode]
  dsimp only
  rw [if_neg hp, if_pos hb]

/-- A request ahead of the expected one is answered with a NAK of the expected. -/
theorem roceRequest_later {psn : BitVec 24} {n : Nat} {f : State → Option State × State} (hp : psn ≠ (s.qp q).expect)
    (hb : (psn - (s.qp q).expect).getLsbD 23 = false) : s.roceRequest q psn n f = s.roceReply q true (s.qp q).expect := by
  unfold State.roceRequest
  rw [roceFrame_live hlive hon hmode]
  dsimp only
  rw [if_neg hp, if_neg (Bool.eq_false_iff.mp hb)]

end

/-- The state in which a request of n bytes that a device took into v has been acknowledged. -/
def acknowledged (s v : State) (q : QpId) (psn : BitVec 24) (n : Nat) : State :=
  (v.modQp q fun y => { y with expect := lastPsn s q psn n + 1 }).roceReply q false (lastPsn s q psn n)

section
variable {s v : State} {q : QpId} (psn : BitVec 24) (n : Nat)

theorem acknowledged_only : OnlyChanges [.qps, .out] v (acknowledged s v q psn n) :=
  onlyChanges_trans (onlyChanges_mono (modQp_only v q _) (by decide)) (onlyChanges_mono (sendRoce_only _ q _ 0 _ []) (by decide))

theorem qp_acknowledged (p : QpId) : (acknowledged s v q psn n).qp p =
    if p = q then { v.qp q with expect := lastPsn s q psn n + 1 } else v.qp p := by
  show (v.modQp q fun y => { y with expect := lastPsn s q psn n + 1 }).qp p = _
  split
  · subst p; exact qp_modQp_same v q _
  · exact qp_modQp_ne v _ (Ne.symm ‹_›)

theorem out_acknowledged (he : v.eth = s.eth) (ht : v.time = s.time) (hq : v.qps = s.qps) : (acknowledged s v q psn n).out =
    v.out ++ [.roce q 5 0 ((lastPsn s q psn n).setWidth 32) [] (leavesAt s q 0)] := by
  have hport : ((v.modQp q fun y => { y with expect := lastPsn s q psn n + 1 }).qp q).port = (s.qp q).port := by
    rw [qp_modQp_same, ← qp_of_qps hq]
  have hat := leavesAt_of_parts (t := v.modQp q fun y => { y with expect := lastPsn s q psn n + 1 }) he ht hport 0
  rw [← hat]
  rfl

/-- An answer on a queue pair. -/
theorem out_roceReply (he : v.eth = s.eth) (ht : v.time = s.time) (hq : v.qps = s.qps) (nak : Bool) : (v.roceReply q nak psn).out =
    v.out ++ [.roce q (if nak then 6 else 5) 0 (psn.setWidth 32) [] (leavesAt s q 0)] := by
  rw [← leavesAt_of_parts (t := v) he ht (by rw [qp_of_qps hq]) 0]
  rfl

end

/-! ### Mailbox requests (R427) -/

/-- A mailbox that a request has rung. -/
def rung (bs : List Byte) (q : QpId) (x : Mailbox) : Mailbox :=
  { x with req := memWrite x.req 0 bs, busy := true, done := false, seq := BitVec.ofNat 16 (bytesNat bs 4 2), path := .roce q, phase := .rung }

/-- The state in which a request waits in a mailbox, at the end of the order. -/
def rungState (s : State) (bs : List Byte) (q : QpId) (m : MboxId) : State :=
  { s with host := { s.host with mbox := vmod s.host.mbox m (rung bs q), order := s.host.order ++ [m] } }

theorem mb_rungState (s : State) (bs : List Byte) (q : QpId) (m : MboxId) : (rungState s bs q m).mb m = rung bs q (s.mb m) := vget_vmod_same _ _ _

/-- Hall takes no command whose header is good before its own row does. -/
theorem mbSettle_good {s : State} {m : MboxId} {l : List MboxId} (ho : s.host.order = m :: l) (hf : (s.mb m).headerFault m = none) (n : Nat) :
    s.mbSettle n = s := by
  cases n with
  | zero => rfl
  | succ n =>
    unfold State.mbSettle
    rw [ho]
    dsimp only
    split
    · rfl
    · rw [hf]

theorem vmod_vmod {α : Type} {n : Nat} (v : Vector α n) (i : Fin n) (f g : α → α) : vmod (vmod v i f) i g = vmod v i fun x => g (f x) := by
  simp [vmod, vset, vget]

/-- A request on the queue pair that an idle mailbox is bound to rings it. -/
theorem mbTransfer_rings {s : State} {q : QpId} {m : MboxId} {bs : List Byte} (hlo : 16 ≤ bs.length) (hhi : bs.length ≤ 4096)
    (hm : bytesNat bs 6 1 = m.val) (htr : (s.mb m).transport = true) (hq : (s.mb m).qp.toNat = q.val) (hall : s.hallAbsent = false)
    (hbusy : (s.mb m).busy = false) (hnew : (s.mb m).done = false ∨ BitVec.ofNat 16 (bytesNat bs 4 2) ≠ (s.mb m).lastSeq)
    (hhead : Mailbox.headerFault { s.mb m with req := memWrite (s.mb m).req 0 bs, seq := BitVec.ofNat 16 (bytesNat bs 4 2) } m = none)
    (horder : s.host.order = []) : s.mbTransfer (.roce q) bs = rungState s bs q m := by
  have hname : (⟨m.val % 8, Nat.mod_lt _ (by decide)⟩ : MboxId) = m := Fin.ext (Nat.mod_eq_of_lt m.isLt)
  have hmb : (s.modMb m fun x => { x with req := memWrite x.req 0 bs }).mb m = { s.mb m with req := memWrite (s.mb m).req 0 bs } :=
    mb_modMb_same s m _
  have hidle : ¬ ((s.mb m).done = true ∧ BitVec.ofNat 16 (bytesNat bs 4 2) = (s.mb m).lastSeq) := by
    obtain h | h := hnew
    · simp [h]
    · exact fun hd => h hd.2
  have hring : (s.modMb m fun x => { x with req := memWrite x.req 0 bs }).ring m (BitVec.ofNat 16 (bytesNat bs 4 2)) (.roce q) =
      (rungState s bs q m).mbSettle 8 := by
    unfold State.ring
    rw [hmb]
    dsimp only
    rw [if_neg (by rw [show (s.modMb m fun x => { x with req := memWrite x.req 0 bs }).hallAbsent = s.hallAbsent from rfl, hall]; decide),
      if_neg (by simp [hbusy]), if_neg hidle]
    congr 1
    simp only [rungState, State.modMb, vmod_vmod]
    rfl
  unfold State.mbTransfer
  simp only [hm, hname]
  rw [if_neg (by omega), if_neg (by omega), if_pos (by simp [htr, hq]), hring]
  refine mbSettle_good (l := []) (by show s.host.order ++ [m] = _; rw [horder]; rfl) ?_ 8
  rw [mb_rungState]
  exact hhead

/-! ### The loss of a member (R391) -/

/-- The error state of every queue pair is kept. -/
def ErrorsKept (s t : State) : Prop := ∀ q, (t.qp q).error = (s.qp q).error

namespace ErrorsKept

theorem refl (s : State) : ErrorsKept s s := fun _ => rfl

theorem trans {s t u : State} (h : ErrorsKept s t) (k : ErrorsKept t u) : ErrorsKept s u := fun q => (k q).trans (h q)

theorem of_qps {s t : State} (h : t.qps = s.qps) : ErrorsKept s t := fun q => by rw [qp_of_qps h]

theorem foldl {α : Type} (f : State → α → State) (hf : ∀ s a, ErrorsKept s (f s a)) (l : List α) (s : State) :
    ErrorsKept s (l.foldl f s) := by
  induction l generalizing s with
  | nil => exact refl s
  | cons a l ih => exact (hf s a).trans (ih (f s a))

end ErrorsKept

theorem modQp_errors (s : State) (q : QpId) {f : QueuePair → QueuePair} (hf : ∀ x, (f x).error = x.error) : ErrorsKept s (s.modQp q f) := by
  intro p
  by_cases hp : q = p
  · subst hp; rw [qp_modQp_same, hf]
  · rw [qp_modQp_ne s _ hp]

theorem roceSend_errors (s : State) (q : QpId) (op : Byte) (a : BitVec 64) (w : Word) (bs : List Byte) (n : Nat) :
    ErrorsKept s (s.roceSend q op a w bs n) := by
  unfold State.roceSend
  dsimp only
  split
  · refine .trans ?_ (.of_qps ((sendRoce_only _ q op a w bs).2 .qps (by decide)))
    exact modQp_errors s q fun _ => rfl
  · exact .refl s

theorem tell_errors (s : State) (d : DeviceId) (k : Byte) (bs : List Byte) : ErrorsKept s (s.tell d k bs) := by
  unfold State.tell
  split
  · exact .of_qps rfl
  · split
    · exact roceSend_errors s _ _ _ _ _ _
    · exact .refl s

theorem tellAll_errors (s : State) (k : Byte) (bs : List Byte) : ErrorsKept s (s.tellAll k bs) :=
  .foldl _ (fun s d => tell_errors s d k bs) _ s

theorem noteLate_errors (s : State) (l : List (DeviceId × Int)) : ErrorsKept s (s.noteLate l) := .of_qps ((noteLate_touches s l).part .qps)

theorem modPass_errors (s : State) (p : PassId) (f : Pass → Pass) : ErrorsKept s (s.modPass p f) := .of_qps rfl

theorem late_errors {s t : State} (h : ErrorsKept s t) (late : Prop) [Decidable late] :
    ErrorsKept s (if late then (t.devInc .passLate).devInc .tdcSched else t) := by
  split
  · exact h.trans (.of_qps rfl)
  · exact h

theorem settleWave_errors (s : State) (p : PassId) (i : Nat) : ErrorsKept s (s.settleWave p i) := by
  unfold State.settleWave
  dsimp only
  split
  · exact .refl s
  rename_i w _
  split
  · exact .refl s
  rename_i t0 _
  split
  · exact .refl s
  have hsent : ErrorsKept s (match w.stamp with
      | some _ => s
      | none => (s.modPass p fun x => { x with waves := x.waves.set i { w with stamp := some t0 } }).tellAll 3
          (natLE 1 p.val ++ ptpBytes t0)) := by
    split
    · exact .refl s
    · exact (modPass_errors s p _).trans (tellAll_errors _ _ _)
  split
  · exact hsent
  · exact late_errors ((hsent.trans (noteLate_errors _ _)).trans (modPass_errors _ p _)) _

theorem settlePass_errors (s : State) (p : PassId) : ErrorsKept s (s.settlePass p) := by
  unfold State.settlePass
  split
  · exact .foldl _ (fun s i => settleWave_errors s p i) _ s
  · exact .refl s

theorem dropTransfers_only (s : State) (d : DeviceId) : OnlyChanges [.stalls, .dev, .cells] s (s.dropTransfers d) := by
  refine onlyChanges_foldl _ (fun s n => onlyChanges_foldl _ (fun s u => ?_) _ s) _ s
  split
  · split
    · exact (endChain_work s n u _).only
    · exact onlyChanges_refl _ s
  · exact onlyChanges_refl _ s

theorem reshare_only (s : State) (d : DeviceId) : OnlyChanges [.pwr] s (s.reshare d) := (setPwr_touches s _).only

/-- A member taken out of the set of members. -/
def leaves (d : DeviceId) (j : Join) : Join := { j with members := j.members &&& ~~~(1#16 <<< d.val) }

/-- What the loss of a member leaves, once its record is raised. -/
def lossSettled (d : DeviceId) (v : State) : State :=
  (List.finRange 16).foldl (fun s p => (s.modPass p fun x => { x with members := x.members.filter fun m => m.1 != d }).settlePass p)
    ((v.dropTransfers d).reshare d)

theorem removeMember_eq (s : State) (d : DeviceId) (trigger : Byte) :
    ∃ y k bs, s.removeMember d trigger = lossSettled d ((s.modJoin (leaves d)).raise y k bs) := ⟨_, _, _, rfl⟩

theorem lossSettled_spec (v : State) (d : DeviceId) : (lossSettled d v).join = v.join ∧ ErrorsKept v (lossSettled d v) := by
  have hdrop := dropTransfers_only v d
  have hshare := reshare_only (v.dropTransfers d) d
  unfold lossSettled
  generalize (v.dropTransfers d).reshare d = w at hshare
  generalize v.dropTransfers d = u at hdrop hshare
  have hstep : ∀ (x : State) (p : PassId), Touches passParts x
      ((x.modPass p fun y => { y with members := y.members.filter fun m => m.1 != d }).settlePass p) :=
    fun x p => (modPass_touches x p _).andThen (settlePass_touches _ p)
  have hfold := Touches.foldl _ hstep (List.finRange 16) w
  constructor
  · exact (hfold.part .join).trans ((hshare.2 .join (by decide)).trans (hdrop.2 .join (by decide)))
  · exact (ErrorsKept.of_qps ((hshare.2 .qps (by decide)).trans (hdrop.2 .qps (by decide)))).trans
      (.foldl _ (fun x p => (modPass_errors x p _).trans (settlePass_errors _ p)) _ w)

/-- The member is gone from the joined set, and the queue pairs are in error or not as before. -/
theorem removeMember_spec (s : State) (d : DeviceId) (trigger : Byte) : (s.removeMember d trigger).join.members.getLsbD d.val = false ∧
    ErrorsKept s (s.removeMember d trigger) := by
  obtain ⟨y, k, bs, heq⟩ := removeMember_eq s d trigger
  obtain ⟨hjoin, herr⟩ := lossSettled_spec ((s.modJoin (leaves d)).raise y k bs) d
  have hraise := raise_touches (s.modJoin (leaves d)) y k bs
  rw [heq]
  constructor
  · have hleft : ((s.modJoin (leaves d)).raise y k bs).join = leaves d s.join := hraise.part .join
    rw [hjoin, hleft]
    show (s.join.members &&& ~~~(1#16 <<< d.val)).getLsbD d.val = false
    simp
  · exact (ErrorsKept.of_qps (hraise.part .qps)).trans herr

end Sys2Proof.Safety
end

/-! The RoCEv2 commands: requests received, acknowledgements, time-outs, and the rate of a queue pair (R238, R308, R309, R391, R427). -/
section
namespace Sys2Proof.Safety
open Sys2Proof.Machine

/-- A SEND out of order is answered, and no more. -/
theorem roceSendReceive_stale {s : State} {q : QpId} {psn : BitVec 24} {bs : List Byte} (hp : psn ≠ (s.qp q).expect) :
    roceSendReceiveEffect q psn bs s = s.roceRequest q psn bs.length fun s => (some s, s) := by
  have hfresh : (psn == (s.qp q).expect) = false := beq_eq_false_iff_ne.mpr hp
  unfold roceSendReceiveEffect
  dsimp only
  rw [hfresh]
  rfl

theorem fabricPut_dram {s : State} {a off : Nat} {bs : List Byte} (hp : placeOf a bs.length = .dram off) (src : Source) :
    s.fabricPut src a bs = written s a bs := by
  unfold State.fabricPut
  rw [hp]
  dsimp only
  unfold State.agentWrite
  rw [hp]
  rfl

section
variable {s : State} {q : QpId} (hlive : (s.qp q).live = true) (hon : s.portOn (s.qp q).port = true) (hmode : (s.port (s.qp q).port).mode = 2)
include hlive hon hmode

/-! ### SEND -/

/-- A SEND in order is taken; one that no member sent goes to a mailbox. -/
theorem roceSendReceive_taken {psn : BitVec 24} {bs : List Byte} (hp : psn = (s.qp q).expect) : roceSendReceiveEffect q psn bs s =
    if (s.memberOf q).isNone then (acknowledged s s q psn bs.length).mbTransfer (.roce q) bs else acknowledged s s q psn bs.length := by
  have hfresh : (psn == (s.qp q).expect && (s.qp q).live && s.portOn (s.qp q).port &&
      ((s.port (s.qp q).port).mode == 1 || (s.port (s.qp q).port).mode == 2)) = true := by simp [hp, hlive, hon, hmode]
  unfold roceSendReceiveEffect
  dsimp only
  rw [hfresh, Bool.true_and, roceRequest_taken hlive hon hmode hp rfl]
  rfl

/-! ### RDMA WRITE -/

/-- A WRITE into an opened region in DRAM is made. -/
theorem roceWrite_taken {psn : BitVec 24} {a : BitVec 64} {k : Word} {bs : List Byte} {off : Nat} (cl : Fin 3) (hp : psn = (s.qp q).expect)
    (hm : s.memberOf q = none) (hopen : (s.qp q).opens a k bs.length = true) (hplace : placeOf a.toNat bs.length = .dram off) :
    roceRdmaWriteReceiveEffect q psn a k bs cl none s = acknowledged s (written s a.toNat bs) q psn bs.length := by
  refine roceRequest_taken hlive hon hmode hp ?_
  dsimp only
  rw [hm]
  dsimp only
  rw [if_pos hopen, hplace]
  exact congrArg some (fabricPut_dram hplace _)

theorem roceWrite_refused {psn : BitVec 24} {a : BitVec 64} {k : Word} {bs : List Byte} (cl : Fin 3) (hp : psn = (s.qp q).expect)
    (hm : s.memberOf q = none) (hopen : (s.qp q).opens a k bs.length = false) :
    roceRdmaWriteReceiveEffect q psn a k bs cl none s = s.roceReply q true psn := by
  have hclosed : ¬ (s.qp q).opens a k bs.length = true := by rw [hopen]; decide
  refine roceRequest_refused hlive hon hmode hp ?_
  dsimp only
  rw [hm]
  dsimp only
  rw [if_neg hclosed]

/-! ### RDMA READ -/

/-- What the device answers to a READ of n bytes of an opened region in DRAM. -/
theorem roceRead_taken {psn : BitVec 24} {a : BitVec 64} {k : Word} {n off : Nat} {e : Ecc} (cl : Fin 3) (hp : psn = (s.qp q).expect)
    (hm : s.memberOf q = none) (hopen : (s.qp q).opens a k n = true) (hplace : placeOf a.toNat n = .dram off) (he : e ≠ .uncorrectable) :
    roceRdmaReadReceiveEffect q psn a k n cl e s =
      acknowledged s ((readFrom s e).sendRoce q 4 a (psn.setWidth 32) (memRead s.mem a.toNat n)) q psn n := by
  refine roceRequest_taken hlive hon hmode hp ?_
  dsimp only
  rw [hm]
  dsimp only
  rw [if_pos hopen, hplace]
  cases e with
  | clean => rfl
  | corrected => rfl
  | uncorrectable => exact absurd rfl he

theorem roceRead_uncorrectable {psn : BitVec 24} {a : BitVec 64} {k : Word} {n off : Nat} (cl : Fin 3) (hp : psn = (s.qp q).expect)
    (hm : s.memberOf q = none) (hopen : (s.qp q).opens a k n = true) (hplace : placeOf a.toNat n = .dram off) :
    roceRdmaReadReceiveEffect q psn a k n cl .uncorrectable s = (s.dramUe a.toNat).roceReply q true psn := by
  refine roceRequest_refused hlive hon hmode hp ?_
  dsimp only
  rw [hm]
  dsimp only
  rw [if_pos hopen, hplace]
  rfl

theorem roceRead_refused {psn : BitVec 24} {a : BitVec 64} {k : Word} {n : Nat} (cl : Fin 3) (e : Ecc) (hp : psn = (s.qp q).expect)
    (hm : s.memberOf q = none) (hopen : (s.qp q).opens a k n = false) :
    roceRdmaReadReceiveEffect q psn a k n cl e s = s.roceReply q true psn := by
  have hclosed : ¬ (s.qp q).opens a k n = true := by rw [hopen]; decide
  refine roceRequest_refused hlive hon hmode hp ?_
  dsimp only
  rw [hm]
  dsimp only
  rw [if_neg hclosed]
  rfl

/-! ### Acknowledgements -/

/-- An acknowledgement of the one request that waits. -/
theorem roceAck_acknowledges {r : RoceReq} (hs : (s.qp q).sent = [r]) {psn : BitVec 24} (hb : (psn - r.last).getLsbD 23 = false) :
    roceAckReceiveEffect q psn false s = s.modQp q fun x => { x with sent := [], retries := 0, sentAt := s.up } := by
  unfold roceAckReceiveEffect
  rw [roceFrame_live hlive hon hmode]
  have hleft : ([r].filter fun r => (psn - r.last).getLsbD 23) = [] := 
    List.filter_eq_nil_iff.mpr fun x hx => by rw [List.mem_singleton.mp hx, hb]; decide
  simp only [hs, Bool.false_eq_true, if_false, hleft, List.length_nil, List.length_singleton, Nat.zero_lt_one, decide_true, if_true]

/-- A NAK that names no later packet than the first of the one request that waits. -/
theorem roceAck_resends {r : RoceReq} (hs : (s.qp q).sent = [r]) {psn : BitVec 24} (hb : (psn - 1 - r.last).getLsbD 23 = true) :
    roceAckReceiveEffect q psn true s = (s.modQp q fun x => { x with sent := [r] }).roceResend q := by
  unfold roceAckReceiveEffect
  rw [roceFrame_live hlive hon hmode]
  have hleft : ([r].filter fun r => (psn - 1 - r.last).getLsbD 23) = [r] := 
    List.filter_eq_self.mpr fun x hx => by rw [List.mem_singleton.mp hx]; exact hb
  simp only [hs, if_true, hleft, Nat.lt_irrefl, decide_false, Bool.false_eq_true, if_false]

end

/-! ### What goes again -/

/-- The state in which the requests of a queue pair changed by f go again. -/
def resending (s : State) (q : QpId) (f : QueuePair → QueuePair) : State := (s.modQp q f).modQp q fun x => { x with sentAt := s.up }

theorem resending_only (s : State) (q : QpId) (f : QueuePair → QueuePair) : OnlyChanges [.qps] s (resending s q f) :=
  onlyChanges_trans (modQp_only s q f) (modQp_only _ q _)

theorem qp_resending (s : State) (q : QpId) (f : QueuePair → QueuePair) : (resending s q f).qp q = { f (s.qp q) with sentAt := s.up } := by
  rw [resending, qp_modQp_same, qp_modQp_same]

/-- The requests of a queue pair that are not acknowledged go again, oldest first; of the queue pair the instant alone changes. -/
theorem roceResend_spec (s : State) (q : QpId) {f : QueuePair → QueuePair} (hport : ∀ x, (f x).port = x.port) :
    ((s.modQp q f).roceResend q).qp q = { f (s.qp q) with sentAt := s.up } ∧ OnlyChanges [.qps, .out] s ((s.modQp q f).roceResend q) ∧
    ((s.modQp q f).roceResend q).out =
      s.out ++ (f (s.qp q)).sent.map fun r => .roce q r.op r.addr r.imm r.bytes (leavesAt s q r.bytes.length) := by
  have hat : ∀ n, leavesAt (resending s q f) q n = leavesAt s q n := fun n =>
    leavesAt_of_parts (s := s) (t := resending s q f) rfl rfl (by rw [qp_resending]; exact hport _) n
  have hsent : ((s.modQp q f).qp q).sent = (f (s.qp q)).sent := by rw [qp_modQp_same]
  have heq : (s.modQp q f).roceResend q = _ := resend_eq q ((s.modQp q f).qp q).sent (resending s q f)
  have honly : OnlyChanges [.out] (resending s q f) ((s.modQp q f).roceResend q) :=
    onlyChanges_foldl _ (fun v (r : RoceReq) => sendRoce_only v q r.op r.addr r.imm r.bytes) _ _
  refine ⟨(qp_of_qps (honly.2 .qps (by decide)) q).trans (qp_resending s q f), ?_, ?_⟩
  · exact onlyChanges_trans (onlyChanges_mono (resending_only s q f) (by decide)) (onlyChanges_mono honly (by decide))
  · rw [heq, hsent]
    simp only [hat]
    rfl

/-! ### The end of a queue pair -/

/-- A queue pair in the error state. -/
def failedQp (x : QueuePair) : QueuePair := { x with error := true, sent := [] }

/-- The queue pair fails, and a member that it reached is lost. -/
theorem qpError_spec (s : State) (q : QpId) : ∃ v, OnlyChanges [.qps, .host, .dev] s v ∧ v.qp q = failedQp (s.qp q) ∧
    s.qpError q = match s.memberOf q with
      | some d => v.removeMember d 1
      | none => v := by
  refine ⟨(s.modQp q failedQp).raise 0x0A04 (evtSource 3 (s.qp q).port.val) ([BitVec.ofNat 8 (s.qp q).port.val, 0] ++ natLE 2 q.val), ?_, ?_, rfl⟩
  · exact onlyChanges_trans (onlyChanges_mono (modQp_only s q failedQp) (by decide)) (onlyChanges_mono (raise_only _ _ _ _) (by decide))
  · rw [qp_of_qps ((raise_touches _ _ _ _).part .qps), qp_modQp_same]

theorem roceRetransmitTimeout_due {s : State} {q : QpId} (hlive : (s.qp q).live = true) (hs : (s.qp q).sent ≠ [])
    (hnow : ns (4000 * 2 ^ (s.qp q).retryT : Nat) ≤ s.up - (s.qp q).sentAt) : roceRetransmitTimeoutEffect q s =
      if (s.qp q).retries < 7 then (s.modQp q fun x => { x with retries := x.retries + 1 }).roceResend q else s.qpError q := by
  unfold roceRetransmitTimeoutEffect
  dsimp only
  rw [if_pos ⟨hlive, hs, hnow⟩]

/-- Settles O57: each command is one of the answers above, on the queue pair that its frame reaches. -/
theorem queuePairsRecoverLosses : Obligations.QueuePairsRecoverLosses := by
  unfold Obligations.QueuePairsRecoverLosses
  refine ⟨?send, ?rdma, ?ack, ?timeout, ?cnp, ?restore⟩
  case send =>
    rintro s q psn bs i hlive hon hmode rfl
    refine ⟨fun hp hm => ?_, fun hp hb => ?_, fun hp hb => ?_, fun m hp hm hlo hhi hname htr hq hall hbusy hnew hhead horder => ?_⟩
    · have heff := (roceSendReceive_taken hlive hon hmode (bs := bs) hp).trans (if_neg (by simpa [Option.ne_none_iff_isSome] using hm))
      refine ⟨_, exec_next rfl heff, ?_, ?_, fun p hpq => ?_, acknowledged_only psn _⟩
      · rw [qp_acknowledged, if_pos rfl]; rfl
      · exact out_acknowledged psn _ rfl rfl rfl
      · rw [qp_acknowledged, if_neg hpq]
    · exact ⟨_, exec_next rfl ((roceSendReceive_stale hp).trans (roceRequest_earlier hlive hon hmode hp hb)),
        out_roceReply _ rfl rfl rfl false, sendRoce_only s q _ 0 _ []⟩
    · exact ⟨_, exec_next rfl ((roceSendReceive_stale hp).trans (roceRequest_later hlive hon hmode hp hb)),
        out_roceReply _ rfl rfl rfl true, sendRoce_only s q _ 0 _ []⟩
    · have hack := acknowledged_only (s := s) (v := s) (q := q) psn bs.length
      have hhost : (acknowledged s s q psn bs.length).host = s.host := hack.2 .host (by decide)
      have hmb : (acknowledged s s q psn bs.length).mb m = s.mb m := by rw [State.mb, hhost]; rfl
      have hring := mbTransfer_rings (s := acknowledged s s q psn bs.length) (q := q) hlo hhi hname (by rw [hmb]; exact htr) (by rw [hmb]; exact hq)
        hall (by rw [hmb]; exact hbusy) (by rw [hmb]; exact hnew) (by rw [hmb]; exact hhead) (by rw [hhost]; exact horder)
      have heff := ((roceSendReceive_taken hlive hon hmode (bs := bs) hp).trans (if_pos (by rw [hm]; rfl))).trans hring
      refine ⟨_, exec_next rfl heff, ?_, ?_, ?_, ?_, ?_⟩
      · rw [mb_rungState]; rfl
      · rw [mb_rungState]; rfl
      · rw [mb_rungState, hmb]; rfl
      · show (acknowledged s s q psn bs.length).host.order ++ [m] = [m]
        rw [hhost, horder]; rfl
      · exact onlyChanges_trans (onlyChanges_mono hack (by decide)) (onlyChanges_mono (setHost_only _ _) (by decide))
  case rdma =>
    intro s q psn a k bs cl off at_ hlive hon hmode hat hp hm
    have hat : ∀ n, at_ n = leavesAt s q n := hat
    refine ⟨fun hopen hplace => ?_, fun hopen => ?_, fun n hopen hplace => ⟨fun e he => ?_, ?_⟩, fun n e hopen => ?_⟩
    · refine ⟨_, exec_next rfl (roceWrite_taken hlive hon hmode cl hp hm hopen hplace), rfl, memOnly_written s _ rfl, ?_, ?_⟩
      · rw [qp_acknowledged, if_pos rfl]; rfl
      · exact onlyChanges_trans (onlyChanges_mono (written_only s _ bs) (by decide)) (onlyChanges_mono (acknowledged_only psn _) (by decide))
    · refine ⟨_, exec_next rfl (roceWrite_refused hlive hon hmode cl hp hm hopen), ?_, sendRoce_only s q _ 0 _ []⟩
      rw [hat]
      exact out_roceReply psn rfl rfl rfl true
    · have hread := readFrom_only s e
      have heth : (readFrom s e).eth = s.eth := hread.2 .eth (by decide)
      have htime : (readFrom s e).time = s.time := hread.2 .time (by decide)
      have hqps : (readFrom s e).qps = s.qps := hread.2 .qps (by decide)
      have hout := out_acknowledged (s := s) (q := q) (v := (readFrom s e).sendRoce q 4 a (psn.setWidth 32) (memRead s.mem a.toNat n))
        psn n heth htime hqps
      have hleaves : leavesAt (readFrom s e) q (memRead s.mem a.toNat n).length = at_ n := by
        rw [length_memRead, hat, leavesAt_of_parts heth htime (by rw [qp_of_qps hqps])]
      refine ⟨_, exec_next rfl (roceRead_taken hlive hon hmode cl hp hm hopen hplace he), ?_, ?_, devCtr_dramCe_readFrom s e, ?_⟩
      · rw [← hleaves]
        exact hout ▸ List.mem_append_left _ (List.mem_append_right _ (List.mem_singleton_self _))
      · rw [qp_acknowledged, if_pos rfl]; rfl
      · exact onlyChanges_trans (onlyChanges_mono hread (by decide)) (onlyChanges_trans (onlyChanges_mono (sendRoce_only _ q 4 a _ _) (by decide))
          (onlyChanges_mono (acknowledged_only psn n) (by decide)))
    · have hue := dramUe_walked s a.toNat
      have hout : (s.dramUe a.toNat).out = s.out := hue.part .out
      refine ⟨_, exec_next rfl (roceRead_uncorrectable hlive hon hmode cl hp hm hopen hplace), ?_, qp_of_qps (hue.part .qps) q,
        (dramUe_spec s _).1⟩
      rw [hat, ← hout]
      exact out_roceReply psn (hue.part .eth) (hue.part .time) (hue.part .qps) true
    · refine ⟨_, exec_next rfl (roceRead_refused hlive hon hmode cl e hp hm hopen), ?_, sendRoce_only s q _ 0 _ []⟩
      rw [hat]
      exact out_roceReply psn rfl rfl rfl true
  case ack =>
    rintro s q psn r i hlive hon hmode hs rfl
    refine ⟨fun hb => ?_, fun hb => ?_⟩
    · refine ⟨_, exec_next rfl (roceAck_acknowledges hlive hon hmode hs hb), ?_, ?_, rfl, modQp_only s q _⟩
      · rw [qp_modQp_same]
      · rw [qp_modQp_same]
    · obtain ⟨hq, honly, hout⟩ := roceResend_spec s q (f := fun x => { x with sent := [r] }) fun _ => rfl
      exact ⟨_, exec_next rfl (roceAck_resends hlive hon hmode hs hb), by rw [hq], hout, honly⟩
  case timeout =>
    intro s q hlive hs hnow
    have heff := roceRetransmitTimeout_due hlive hs hnow
    refine ⟨fun hr => ?_, fun hr hm => ?_, fun d hr hm => ?_⟩
    · obtain ⟨hq, honly, hout⟩ := roceResend_spec s q (f := fun x => { x with retries := x.retries + 1 }) fun _ => rfl
      exact ⟨_, exec_next rfl (heff.trans (if_pos hr)), by rw [hq], by rw [hq], hout, honly⟩
    · obtain ⟨v, honly, hqp, hend⟩ := qpError_spec s q
      rw [hm] at hend
      exact ⟨v, exec_next rfl ((heff.trans (if_neg (by omega))).trans hend), by rw [hqp]; rfl, by rw [hqp]; rfl, honly⟩
    · obtain ⟨v, -, hqp, hend⟩ := qpError_spec s q
      rw [hm] at hend
      obtain ⟨hgone, hkept⟩ := removeMember_spec v d 1
      exact ⟨v.removeMember d 1, exec_next rfl ((heff.trans (if_neg (by omega))).trans hend), by rw [hkept q, hqp]; rfl, hgone⟩
  case cnp =>
    intro s q hlive hon hmode
    refine ⟨_, exec_next rfl (roceFrame_live hlive hon hmode _), ?_, modQp_only s q _⟩
    rw [qp_modQp_same]
  case restore =>
    intro s q hlive hrate hnow
    have heff : roceRateRestoreEffect q s = s.modQp q fun x => { x with rate := min 1 (x.rate + 1 / 20), rateAt := s.up } :=
      if_pos ⟨hlive, hrate, hnow⟩
    refine ⟨_, exec_next rfl heff, ?_, ?_, modQp_only s q _⟩
    · rw [qp_modQp_same]
      show min 1 ((s.qp q).rate + 1 / 20) = min 1 ((s.qp q).rate + 5 / 100)
      norm_num
    · rw [qp_modQp_same]

end Sys2Proof.Safety
end
